-- ==== Sys2Proof/Word.lean ====
section
/-! DEFINITION. The word types of the Mladax 384 and their plainest arithmetic (R3, R4, R45). -/

namespace Sys2Proof

/-- A byte of memory (R4). -/
abbrev Byte := BitVec 8
/-- A 32-bit register word: one lane of a V register or kerb slot (R24). -/
abbrev Word := BitVec 32
/-- A 64-bit word: an S register, a special register, an instruction word (R24, R38, R77). -/
abbrev Word64 := BitVec 64
/-- A set of the 64 lanes of a group: bit l stands for lane l (R278). -/
abbrev Mask := BitVec 64

/-- Bits [hi:lo] of a natural number (R3). -/
def bitsOf (n hi lo : Nat) : Nat := (n / 2 ^ lo) % 2 ^ (hi + 1 - lo)

/-- Bit i of a natural number. -/
def bitOf (n i : Nat) : Bool := (n / 2 ^ i) % 2 == 1

/-- The two's-complement value of the low w bits of n (R45). -/
def signedOf (w n : Nat) : Int :=
  let m := n % 2 ^ w
  if 2 * m ≥ 2 ^ w then (m : Int) - (2 ^ w : Nat) else m

/-- An integer reduced modulo 2^w. -/
def wrapNat (w : Nat) (x : Int) : Nat := (x % ((2 ^ w : Nat) : Int)).toNat

end Sys2Proof
end

