-- ==== Sys2Proof/Config.lean ====
section
/-! DEFINITION. What one device fixes: the numbers of its parts, the keys fused at manufacture, and the free values that the
spec leaves open. An opaque constant has no body, so no proof can see what it is. -/

namespace Sys2Proof.Config

/-- Cores of the package (R13). -/
def cores : Nat := 384
/-- DRAM sites, and the bytes of one (R17). -/
def dramSites : Nat := 16
def dramBytes : Nat := 96 * 10 ^ 9
/-- Flash sites, and the image blocks of one (R17, R443). -/
def flashSites : Nat := 8
def flashBlocks : Nat := 3814697
/-- Bytes of a flash block (R418). -/
def blockBytes : Nat := 262144
/-- The rated program/erase count (R418). -/
def peLimit : Nat := 3000

/-- Private identity key, fused at manufacture (R432): a free value, as it leaves no device. -/
opaque identitySeed : BitVec 256
/-- Private transport key, fused at manufacture (R432, R433): a free value. -/
opaque transportKey : BitVec 256
/-- Stepping byte of ID_PART, set at manufacture (R120, R431): a free value. -/
opaque stepping : BitVec 8
/-- Program/erase count that manufacture test left on a block, at most 5 (R443): free below that bound. -/
opaque initialWearRaw : Nat → BitVec 8
/-- The count at delivery, inside the bound of R443. -/
def initialWear (block : Nat) : Nat := min (initialWearRaw block).toNat 5
/-- Free values, one for each tick of the state: outcomes that the spec leaves open (R374). -/
opaque freeValue : Nat → BitVec 64

end Sys2Proof.Config
end

