-- ==== Sys2Proof/Machine/Sparse.lean ====
section
/-! DEFINITION. Sparse stores: a list of (key, value) pairs in rising key order. Registers, memory, tiles and the
keyed tables of the device are held in this one shape. A default names what an unlisted key holds. -/

namespace Sys2Proof

/-- A sparse store. In canonical form the keys rise strictly. -/
abbrev KMap (α : Type) := List (Nat × α)

namespace KMap

/-- The value listed at key k. -/
def find? {α : Type} : KMap α → Nat → Option α
  | [], _ => none
  | (j, v) :: m, k => if j = k then some v else find? m k

/-- List v at key k, in key order. -/
def insert {α : Type} : KMap α → Nat → α → KMap α
  | [], k, v => [(k, v)]
  | (j, w) :: m, k, v =>
    if k < j then (k, v) :: (j, w) :: m
    else if j = k then (k, v) :: m
    else (j, w) :: insert m k v

/-- Unlist key k. -/
def erase {α : Type} (m : KMap α) (k : Nat) : KMap α := m.filter (fun e => e.1 != k)

/-- The value at key k, the default d where k is unlisted. -/
def getD {α : Type} (m : KMap α) (d : α) (k : Nat) : α := (find? m k).getD d

/-- Store v at key k; the default is never listed. -/
def setD {α : Type} [DecidableEq α] (m : KMap α) (d : α) (k : Nat) (v : α) : KMap α :=
  if v = d then erase m k else insert m k v

/-- Apply f to the value at key k, if it is listed. -/
def modify {α : Type} (m : KMap α) (k : Nat) (f : α → α) : KMap α :=
  match find? m k with
  | some v => insert m k (f v)
  | none => m

/-- One more than every listed key. -/
def nextKey {α : Type} (m : KMap α) : Nat := m.foldl (fun n e => max n (e.1 + 1)) 0

/-- The listed keys. -/
def keys {α : Type} (m : KMap α) : List Nat := m.map (·.1)

/-- The listed values. -/
def vals {α : Type} (m : KMap α) : List α := m.map (·.2)

/-- The keys rise strictly from a lower bound on. -/
def sortedFrom {α : Type} : Nat → KMap α → Bool
  | _, [] => true
  | b, (k, _) :: m => decide (b ≤ k) && sortedFrom (k + 1) m

/-- The canonical form with default d: keys strictly rising, no entry equal to the default. -/
def canonical {α : Type} [DecidableEq α] (d : α) (m : KMap α) : Bool :=
  sortedFrom 0 m && m.all (fun e => decide (e.2 ≠ d))

end KMap

end Sys2Proof
end

