-- ==== Sys2Proof/Syntax.lean ====
section
/-! DEFINITION. The rows of the opcode table as data: 155 instruction words by their formats (R77-R89) and 98 steps that the
device's own agents make. Operand levels, type codes and guards are constructors; the raw bits stay in Decode. -/

namespace Sys2Proof

/-- The four operand levels (R24). -/
inductive Level where
  | k | v | s | q
  deriving DecidableEq, Repr

/-- An operand: a level and an index. A number field holds level k and its number as the index (R24, R80). -/
structure Operand where
  lvl : Level
  idx : BitVec 8
  deriving DecidableEq, Repr

/-- The operand field 0x000, which an unused field must hold (R80). -/
def Operand.zero : Operand := ⟨.k, 0⟩

/-- The type codes of TY; code 0xF is reserved (R83). -/
inductive Ty where
  | i32 | n32 | f32 | b32 | i64 | n64 | b64 | i16 | n16 | f16 | bf16 | f16x2 | bf16x2 | i8 | n8 | rsv
  deriving DecidableEq, Repr

/-- The guard of a word: unguarded, or predicate p, inverted or not (R77, R78). -/
inductive Guard where
  | always
  | pred (p : Fin 24) (neg : Bool)
  deriving DecidableEq, Repr

/-- Format V3 (R82). LOP3 and PLOP read TY and MOD together as their function table (R142, R180). -/
structure V3 where
  ty : Ty
  mod : BitVec 4
  d : Operand
  a : Operand
  b : Operand
  c : Operand
  g : Guard
  fsel : Bool
  deriving DecidableEq, Repr

/-- Format VI (R84). -/
structure VI where
  ty : Ty
  mod : BitVec 4
  d : Operand
  a : Operand
  imm : BitVec 20
  g : Guard
  fsel : Bool
  deriving DecidableEq, Repr

/-- Format M (R85). Instructions that give SZ, ORD, SCOPE, RB or OFF a meaning of their own read these fields by it
(R197, R202, R204, R206, R218, R224). -/
structure FM where
  sz : BitVec 3
  ord : BitVec 2
  scope : BitVec 3
  d : Operand
  a : Operand
  rb : BitVec 8
  off : BitVec 12
  g : Guard
  fsel : Bool
  deriving DecidableEq, Repr

/-- Format BR (R87). -/
structure FBr where
  cond : BitVec 4
  tprio : BitVec 8
  offs : BitVec 32
  g : Guard
  fsel : Bool
  deriving DecidableEq, Repr

/-- Format E (R88). -/
structure FE where
  sub : BitVec 4
  slot : BitVec 3
  p : Operand
  x : Operand
  ef : BitVec 8
  g : Guard
  fsel : Bool
  deriving DecidableEq, Repr

/-- Format S (R89). -/
structure FS where
  sub : BitVec 4
  d : Operand
  a : Operand
  idx : BitVec 12
  g : Guard
  fsel : Bool
  deriving DecidableEq, Repr

/-- What a peer device's access asks of this device's memory side (R315, R333). -/
inductive PeerAct where
  /-- Read n bytes, at a scope, with an acquire or without. -/
  | read (n scope : Nat) (acq : Bool)
  /-- Write bytes, at a scope, with a release or without. -/
  | write (bytes : List (BitVec 8)) (scope : Nat) (rel : Bool)
  /-- One atomic step of AOP on an integer or f32 of a width in bits: operand, comparison value, ORD and SCOPE. -/
  | atomic (bits aop v cmp ord scope : Nat)
  /-- Add one f32 into the long-sum line, as a collective engine does (R333). -/
  | addF32 (x : BitVec 32)
  deriving DecidableEq, Repr

/-- The units that corrected errors are counted by (R429). -/
inductive ErrUnit where
  | fastFile (core : Nat) | hidden (core : Nat) | shadow (core : Nat) | scalar (core : Nat) | tiles (core : Nat)
  | accumulators (core : Nat) | scratchpad (core : Nat) | slice (n : Nat) | bus (n : Nat) | dram (site : Nat)
  | flash (site : Nat) | link (n : Nat)
  /-- The vector pipes of a core; an error in them is never corrected in silence, so they count no corrected ones (R428). -/
  | pipes (core : Nat)
  deriving DecidableEq, Repr

/-- The stores that an uncorrectable memory error can strike (R428). -/
inductive ErrTarget where
  | tile (team tile : Nat) | regionRow (team region row : Nat) | scratchLine (team line : Nat) | dramLine (line : Nat)
  /-- A line of the L2, by its DRAM line and its intermediate address / 64. -/
  | l2Line (line ia : Nat)
  deriving DecidableEq, Repr

/-- How the handling of a failed burst ends (R412). -/
inductive BurstResult where
  /-- The replay on the same wires passes (step 1). -/
  | transient
  /-- A failed wire takes a spare (step 2). -/
  | spare
  /-- No spare is left: the ways that the bus serves retire (step 3), and the event names the lines that stood in them; a bus of the
  hidden tier or of a shadow bank loses the V registers held behind it (R413). -/
  | retire (lines : List ErrTarget)
  deriving DecidableEq, Repr

/-- The causes of a user-level trap (R96). -/
inductive Cause where
  | opcode | field | rsvbit | level | kerbInvalid | header | badTarget | placement | formatSlot | trap | bkpt | index
  | recordRange | align | strandStores | strandClobber | orderInStrand | strandLivelock
  deriving DecidableEq, Repr

/-- The rows of the opcode table. -/
inductive Instr where
  /-- NOP (R173). Issues with no effect. -/
  | nop (f : V3)
  /-- BRA (R170). Branches the lanes that pass the guard under the .lane, .any or .all condition, splitting the frontier entry when only some lanes go. -/
  | bra (f : FBr)
  /-- BRX (R171). Sends each passing lane to the 64-bit address in A, forming one entry per target, or traps BAD_TARGET for the whole entry. -/
  | brx (f : V3)
  /-- CALL (R170). Branches like BRA and writes the return address into v0:v1 of each lane that goes to the target. -/
  | call (f : FBr)
  /-- CALLX (R171). Writes the return address into D and sends each passing lane to the address in A. -/
  | callx (f : V3)
  /-- RET (R171). Sends each passing lane to the 64-bit return address in A. -/
  | ret (f : V3)
  /-- EXIT (R172). Ends the passing lanes; when every lane of the group has exited, commits the strand and ends the group. -/
  | exit (f : V3)
  /-- BND (R176). Brings a lane to the strand boundary with up to two kerb-to-V survivor pairs, where it waits for the strand to commit. -/
  | bnd (f : V3)
  /-- RCV (R177). Brings lanes to a join point, where they wait until every lane that is neither parked nor exited waits at the same RCV. -/
  | rcv (f : V3)
  /-- ELECT (R178). Sets a predicate in the lowest passing lane and clears it in every other passing lane. -/
  | elect (f : V3)
  /-- YIELD (R173). Marks the group as a swap candidate at its next strand boundary. -/
  | yield (f : V3)
  /-- TRAP (R174). Makes its whole entry trap with the cause TRAP. -/
  | trap (f : VI)
  /-- BKPT (R174). Makes its whole entry trap with the cause BKPT. -/
  | bkpt (f : VI)
  /-- TRET (R175). Returns the passing lanes from handler mode to the word after the trapping word. -/
  | tret (f : V3)
  /-- IADD (R137). Adds two integers, wrapping or saturating under .sat. -/
  | iadd (f : V3)
  /-- ISUB (R137). Subtracts two integers, wrapping or saturating under .sat. -/
  | isub (f : V3)
  /-- IADDC (R138). Adds with carry-in from a predicate and writes the carry-out back into that predicate. -/
  | iaddc (f : V3)
  /-- ISUBB (R138). Subtracts with borrow-in from a predicate and writes the borrow-out back into that predicate. -/
  | isubb (f : V3)
  /-- IMUL (R137). Multiplies two integers and keeps the low w bits. -/
  | imul (f : V3)
  /-- IMULH (R139). Keeps the high w bits of the exact product. -/
  | imulh (f : V3)
  /-- IMAD (R137). Multiplies and adds, keeping the low w bits. -/
  | imad (f : V3)
  /-- IMADW (R139). Multiplies two 32-bit values and adds a 64-bit C, giving a 64-bit result. -/
  | imadw (f : V3)
  /-- IABS (R137). Gives the absolute value, optionally saturated. -/
  | iabs (f : V3)
  /-- INEG (R137). Negates an integer, optionally saturated. -/
  | ineg (f : V3)
  /-- IMIN (R137). Gives the smaller of two integers. -/
  | imin (f : V3)
  /-- IMAX (R137). Gives the larger of two integers. -/
  | imax (f : V3)
  /-- ISAD (R137). Adds the absolute difference of A and B to C. -/
  | isad (f : V3)
  /-- SHL (R140). Shifts A left by a 32-bit count. -/
  | shl (f : V3)
  /-- SHR (R140). Shifts A right logically by a 32-bit count. -/
  | shr (f : V3)
  /-- SHA (R140). Shifts A right arithmetically by a 32-bit count. -/
  | sha (f : V3)
  /-- ROT (R140). Rotates A left by the count modulo w. -/
  | rot (f : V3)
  /-- AND (R141). Combines A and B by bitwise AND. -/
  | andw (f : V3)
  /-- OR (R141). Combines A and B by bitwise OR. -/
  | orw (f : V3)
  /-- XOR (R141). Combines A and B by bitwise XOR. -/
  | xorw (f : V3)
  /-- NOT (R141). Gives the bitwise complement of A. -/
  | notw (f : V3)
  /-- ANDN (R141). Gives A AND NOT B. -/
  | andn (f : V3)
  /-- LOP3 (R142). Computes any bitwise function of three 32-bit inputs from an 8-bit table. -/
  | lop3 (f : V3)
  /-- POPC (R143). Counts the 1 bits of A. -/
  | popc (f : V3)
  /-- CLZ (R143). Counts the leading zero bits of A. -/
  | clz (f : V3)
  /-- CTZ (R143). Counts the trailing zero bits of A. -/
  | ctz (f : V3)
  /-- BREV (R143). Reverses the bits of A. -/
  | brev (f : V3)
  /-- BFX (R144). Extracts a bit field, sign-extended or zero-extended. -/
  | bfx (f : V3)
  /-- BFI (R144). Inserts a bit field of A into C. -/
  | bfi (f : V3)
  /-- PRMT (R146). Builds a word from four per-lane byte codes held in C. -/
  | prmt (f : V3)
  /-- LEA (R147). Forms a 32-bit address A shifted plus B. -/
  | lea (f : V3)
  /-- LEAW (R147). Forms a 64-bit address B plus the extended A, shifted. -/
  | leaw (f : V3)
  /-- DP4 (R148). Adds four byte products to C. -/
  | dp4 (f : V3)
  /-- IADD_IMM (R132). Immediate form of IADD. -/
  | iaddImm (f : VI)
  /-- IMUL_IMM (R132). Immediate form of IMUL. -/
  | imulImm (f : VI)
  /-- IMIN_IMM (R132). Immediate form of IMIN. -/
  | iminImm (f : VI)
  /-- IMAX_IMM (R132). Immediate form of IMAX. -/
  | imaxImm (f : VI)
  /-- SHL_IMM (R132). Immediate form of SHL. -/
  | shlImm (f : VI)
  /-- SHR_IMM (R132). Immediate form of SHR. -/
  | shrImm (f : VI)
  /-- SHA_IMM (R132). Immediate form of SHA. -/
  | shaImm (f : VI)
  /-- ROT_IMM (R132). Immediate form of ROT. -/
  | rotImm (f : VI)
  /-- AND_IMM (R132). Immediate form of AND. -/
  | andImm (f : VI)
  /-- OR_IMM (R132). Immediate form of OR. -/
  | orImm (f : VI)
  /-- XOR_IMM (R132). Immediate form of XOR. -/
  | xorImm (f : VI)
  /-- LEA_IMM (R132). Immediate form of LEA. -/
  | leaImm (f : VI)
  /-- BFX_IMM (R132). Immediate form of BFX, with pos and len taken from IMM20. -/
  | bfxImm (f : VI)
  /-- BFI_IMM (R145). Writes a constant value into a field of A. -/
  | bfiImm (f : VI)
  /-- PRMT_IMM (R146). Permutes the bytes of A under four 5-bit codes fixed in IMM20. -/
  | prmtImm (f : VI)
  /-- FADD (R149). Adds two floating-point values with one rounding. -/
  | fadd (f : V3)
  /-- FSUB (R149). Subtracts two floating-point values with one rounding. -/
  | fsub (f : V3)
  /-- FMUL (R149). Multiplies two floating-point values with one rounding. -/
  | fmul (f : V3)
  /-- FFMA (R150). Computes A × B + C with a single rounding. -/
  | ffma (f : V3)
  /-- FMIN (R151). Gives the minimumNumber of A and B. -/
  | fmin (f : V3)
  /-- FMAX (R151). Gives the maximumNumber of A and B. -/
  | fmax (f : V3)
  /-- FABS (R151). Clears the sign bit of A. -/
  | fabs (f : V3)
  /-- FNEG (R151). Inverts the sign bit of A. -/
  | fneg (f : V3)
  /-- FDIV (R152). Divides with correct rounding as a long-latency instruction. -/
  | fdiv (f : V3)
  /-- FSQRT (R152). Gives the correctly rounded square root. -/
  | fsqrt (f : V3)
  /-- FRCP (R152). Gives the correctly rounded reciprocal. -/
  | frcp (f : V3)
  /-- FRSQ (R152). Gives the correctly rounded reciprocal square root. -/
  | frsq (f : V3)
  /-- FEX2 (R152). Gives the correctly rounded 2^A. -/
  | fex2 (f : V3)
  /-- FLG2 (R152). Gives the correctly rounded log2 A. -/
  | flg2 (f : V3)
  /-- FSIN (R152). Gives the correctly rounded sine. -/
  | fsin (f : V3)
  /-- FCOS (R152). Gives the correctly rounded cosine. -/
  | fcos (f : V3)
  /-- FFLR (R154). Rounds A down to an integral value. -/
  | fflr (f : V3)
  /-- FCEIL (R154). Rounds A up to an integral value. -/
  | fceil (f : V3)
  /-- FTRUNC (R154). Rounds A towards zero to an integral value. -/
  | ftrunc (f : V3)
  /-- FRND (R154). Rounds A to an integral value under the MOD rounding mode. -/
  | frnd (f : V3)
  /-- FFRC (R155). Gives the fractional part A − FFLR(A). -/
  | ffrc (f : V3)
  /-- FCLASS (R156). Classifies A into a one-hot n32 mask. -/
  | fclass (f : V3)
  /-- FSCALE (R157). Scales A by 2^B with rounding. -/
  | fscale (f : V3)
  /-- FGETEXP (R157). Gives floor(log2|A|) as an i32. -/
  | fgetexp (f : V3)
  /-- FDOT2 (R158). Adds a packed two-term dot product to an f32 C with one rounding. -/
  | fdot2 (f : V3)
  /-- FADD_IMM (R132). Immediate f32 form of FADD. -/
  | faddImm (f : VI)
  /-- FMUL_IMM (R132). Immediate f32 form of FMUL. -/
  | fmulImm (f : VI)
  /-- FMIN_IMM (R132). Immediate f32 form of FMIN. -/
  | fminImm (f : VI)
  /-- FMAX_IMM (R132). Immediate f32 form of FMAX. -/
  | fmaxImm (f : VI)
  /-- CVT (R161). Converts one value between integer and floating-point types. -/
  | cvt (f : V3)
  /-- CVQ (R163). Quantises a floating-point value to the narrow type of a format slot. -/
  | cvq (f : V3)
  /-- CVD (R164). Dequantises a narrow element to floating point and reports a bad digit in a predicate. -/
  | cvd (f : V3)
  /-- PACKT (R166). Inserts a trit code into a T2 or T5B word. -/
  | packt (f : V3)
  /-- UNPKT (R166). Extracts a trit code and reports a bad code in a predicate. -/
  | unpkt (f : V3)
  /-- PACK (R165). Inserts a narrow element into a 32-bit word. -/
  | pack (f : V3)
  /-- UNPK (R165). Extracts a narrow element from a 32-bit word. -/
  | unpk (f : V3)
  /-- ICMP (R179). Compares integers and writes a predicate. -/
  | icmp (f : V3)
  /-- FCMP (R179). Compares floating-point values and writes a predicate. -/
  | fcmp (f : V3)
  /-- PLOP (R180). Combines three predicates through a function table. -/
  | plop (f : V3)
  /-- PMOV (R181). Moves the 24 predicates to or from a word. -/
  | pmov (f : V3)
  /-- SEL (R182). Selects A or B by a predicate. -/
  | sel (f : V3)
  /-- MOV (R183). Copies A to D between any levels. -/
  | mov (f : V3)
  /-- MOVI (R183). Writes a sign-extended or high-placed immediate. -/
  | movi (f : VI)
  /-- MOVX (R184). Reads a V register chosen by a per-lane index, trapping INDEX on a bad index. -/
  | movx (f : V3)
  /-- MOVXS (R184). Writes a V register chosen by a per-lane index, trapping INDEX on a bad index. -/
  | movxs (f : V3)
  /-- SHFL (R187). Reads A from another lane of a segment and reports validity in a predicate. -/
  | shfl (f : V3)
  /-- VOTE (R186). Votes all, any, uniform or parity of a predicate over the passing lanes. -/
  | vote (f : V3)
  /-- BALLOT (R186). Gives the 64-bit mask of passing lanes whose predicate is set. -/
  | ballot (f : V3)
  /-- LRED (R188). Reduces A over the passing lanes. -/
  | lred (f : V3)
  /-- BCAST (R189). Broadcasts A from one lane to the passing lanes. -/
  | bcast (f : V3)
  /-- SRD (R185). Reads part or all of an unprivileged special register. -/
  | srd (f : FS)
  /-- SWR (R185). Writes part or all of a writable unprivileged special register. -/
  | swr (f : FS)
  /-- LD (R193). Loads from global memory per lane through buffered stores, after the checks of R191 and translation. -/
  | ld (f : FM)
  /-- ST (R194). Places a global store in the strand store buffer; under .rel it first makes the buffer visible. -/
  | st (f : FM)
  /-- LDS (R193). Loads from scratchpad per lane. -/
  | lds (f : FM)
  /-- STS (R194). Places a scratchpad store in the strand store buffer. -/
  | sts (f : FM)
  /-- LDQ (R195). Loads through the constant cache. -/
  | ldq (f : FM)
  /-- ATOM (R197). Performs an atomic read-modify-write on global memory and returns the old value. -/
  | atom (f : FM)
  /-- ATOMS (R197). Performs an atomic read-modify-write on scratchpad and returns the old value. -/
  | atoms (f : FM)
  /-- RED (R197). Performs an atomic reduction on global memory with no return. -/
  | red (f : FM)
  /-- PRF (R196). Asks for lines to be prefetched into their home slices. -/
  | prf (f : FM)
  /-- TBINIT (R202). Initialises a transaction barrier once per issue. -/
  | tbinit (f : FM)
  /-- TBEXP (R202). Adds expected sectors to a barrier. -/
  | tbexp (f : FM)
  /-- TBARV (R202). Adds sectors and makes one arrival at a barrier. -/
  | tbarv (f : FM)
  /-- TBTEST (R202). Tests whether a barrier's phase has passed. -/
  | tbtest (f : FM)
  /-- WAITA (R205). Waits until memory at each lane's address meets a condition. -/
  | waita (f : FM)
  /-- FENCE (R206). Orders accesses at a scope, or under .layer waits until committed SRAM stores are accepted. -/
  | fence (f : FM)
  /-- BAR (R207). Makes the group arrive at a team barrier. -/
  | bar (f : VI)
  /-- BARC (R207). Makes the group arrive at a cluster barrier. -/
  | barc (f : VI)
  /-- TCFG (R216). Configures a tile's element type and shape. -/
  | tcfg (f : V3)
  /-- TLD (R218). Loads a tile from a scratchpad image. -/
  | tld (f : FM)
  /-- TST (R218). Stores a tile to a scratchpad image after making buffered stores visible. -/
  | tst (f : FM)
  /-- TZERO (R217). Writes zero to every byte of a tile. -/
  | tzero (f : V3)
  /-- MXA (R233). Passes the governor, reads and checks its parameter block, applies the layer gate and accepts a matrix multiply-accumulate. -/
  | mxa (f : FE)
  /-- ACZ (R223). Zeroes every entry of an accumulator region. -/
  | acz (f : V3)
  /-- ACV (R241). Reads its block and starts converting accumulator entries into a tile. -/
  | acv (f : FE)
  /-- ACLD (R224). Loads accumulator rows from memory per lane. -/
  | acld (f : FM)
  /-- ACST (R224). Stores accumulator rows to memory per lane. -/
  | acst (f : FM)
  /-- CPY (R244). Submits one slice of a collective copy. -/
  | cpy (f : FE)
  /-- CPYL (R247). Submits one slice of a collective im2col copy. -/
  | cpyl (f : FE)
  /-- HRED (R250). Accepts a reduction of a scratchpad vector into global memory at the home slices. -/
  | hred (f : FE)
  /-- HGAT (R251). Accepts a gather of global words into scratchpad. -/
  | hgat (f : FE)
  /-- HFETCH (R252). Accepts a read of long-sum lines, optionally clearing them. -/
  | hfetch (f : FE)
  /-- LYRQ (R253). Asks the staging quay to bring a layer, and optionally the next one. -/
  | lyrq (f : FE)
  /-- INST (R254). Accepts the programming of a new flash image for a layer. -/
  | inst (f : FE)
  /-- INSTQ_QUERY (R256). Reports installed bytes, free flash and wear for a layer. -/
  | instqQuery (f : FE)
  /-- INSTQ_ABORT (R256). Stops every incomplete INST of the issuing context on a layer. -/
  | instqAbort (f : FE)
  /-- PRVR (R208). Reads a special or device control register, privileged. -/
  | prvr (f : FS)
  /-- PRVW (R208). Writes a special or device control register, privileged. -/
  | prvw (f : FS)
  /-- ERET (R209). Resumes a context stopped at a context fault at its strand entries. -/
  | eret (f : FS)
  /-- SYSC (R210). Posts a request to the service queue, waiting while it is full. -/
  | sysc (f : FS)
  /-- MTRR (R211). Reads a meter or the sticky saturation mask. -/
  | mtrr (f : FS)
  /-- SIGN (R212). Writes a signed meter record of a context into memory. -/
  | sign (f : FS)
  /-- CLAUSE_START (R71). An entry whose WAITM flags are clear starts a clause, after the KIND and header checks, and merges with other entries at that header. -/
  | clauseStart (gid lane : Nat)
  /-- STRAND_COMMIT (R268). Once every lane waits at BND, none is parked and every beat is checked, the strand commits, stores become visible and survivors are written. -/
  | strandCommit (gid : Nat)
  /-- STASH_WRITEBACK (R329). The device chooses to write back a Dirty stash line. -/
  | stashWriteback (team line : Nat)
  /-- WAITA_RECHECK (R205). A write to a watched line makes a waiting WAITA read its values again. -/
  | waitaRecheck (gid lane : Nat)
  /-- WAITA_TIMEOUT (R205). The WAITA bound expires and the entry completes. -/
  | waitaTimeout (gid lane : Nat)
  /-- LOAD_COMPLETE (R193). A load's data arrives and is written in every passing lane, and its flag clears. -/
  | loadComplete (op : Nat)
  /-- ATOM_COMPLETE (R199). An atomic's old value returns to D, and its flag clears. -/
  | atomComplete (op : Nat)
  /-- FUNC_RESULT_WRITE (R135). A long-latency arithmetic result is written in the lanes not discarded, and its flag clears. -/
  | funcResultWrite (op : Nat)
  /-- TILE_TRANSFER_COMPLETE (R220). A TLD or TST finishes, and its flag clears. -/
  | tileTransferComplete (op : Nat)
  /-- ACC_TRANSFER_COMPLETE (R225). An ACLD or ACST finishes its rows, and its flag clears. -/
  | accTransferComplete (op : Nat)
  /-- ACV_COMPLETE (R243). ACV writes the tile and the status predicate, and its flag clears. -/
  | acvComplete (op : Nat)
  /-- MXA_START (R236). An accepted MXA starts when its layer is resident, its region is free and its reservation is granted. -/
  | mxaStart (cmd : Nat)
  /-- MATRIX_RESIDUE_MISMATCH (R62). A residue mismatch makes the engine replay the block's passes from the last promotion point. -/
  | matrixResidueMismatch (cmd pass : Nat)
  /-- MXA_COMPLETE (R240). The MXA writes its last entry and completes through R230. -/
  | mxaComplete (cmd : Nat)
  /-- WORK_STEAL (R323). An idle copy engine steals the oldest unit of another engine of its tower. -/
  | workSteal (engine : Nat)
  /-- COPY_SECTOR_LAND (R246). A 32-byte sector lands and decrements SECT of the barrier. -/
  | copySectorLand (cmd row sector : Nat)
  /-- HOME_SLICE_STEP (R331). A home ALU performs one atomic step of ATOM, RED, HRED or HFETCH on a line. -/
  | homeSliceStep (isCmd : Bool) (id step : Nat)
  /-- HGAT_RESPONSE (R251). A home slice answers up to 16 gathered words. -/
  | hgatResponse (cmd first count : Nat)
  /-- ENGINE_ACCESS_FAULT (R231). An engine access meets a range violation, poison or a stale generation, and the command fails. -/
  | engineAccessFault (cmd step : Nat)
  /-- ENGINE_LINE_FINISH (R310). An engine finishes an owned line, and waiting thread accesses go on. -/
  | engineLineFinish (cmd line : Nat)
  /-- INST_COMPLETE (R254). An install finishes programming and verification, or stops at a failed check, and writes its CODE. -/
  | instComplete (cmd : Nat) (verified : Bool) (failed : List Nat)
  /-- SIGN_COMPLETE (R212). The signed record becomes visible at system scope, and the flag clears. -/
  | signComplete (op : Nat)
  /-- MTRR_COMPLETE (R211). The meter value is written to D, and the flag clears. -/
  | mtrrComplete (op : Nat)
  /-- SERVICE_REQUEST_CONSUMED (R210). Firmware consumes a service request and frees a place for a waiting SYSC. -/
  | serviceRequestConsumed
  /-- GROUP_SWAP (R290). A swap candidate at a strand boundary changes places with the first ready pending group. -/
  | groupSwap (gid : Nat)
  /-- GROUP_RESOURCES_FREE (R172). An ended group's registers and active place are freed after its last in-flight instruction completes. -/
  | groupResourcesFree (gid : Nat)
  /-- COMPACTION (R294). The compactor relocates blocks of inactive groups and idle teams. -/
  | compaction (team place : Nat)
  /-- TEAM_PLACEMENT (R355). Idle cores take the next cluster of a phase and allocate its teams. -/
  | teamPlacement (phase tower : Nat) (cores slots : List Nat)
  /-- TEAM_MIGRATION (R314). The device moves a team at a strand boundary to another core. -/
  | teamMigration (team core : Nat) (slots : List Nat)
  /-- TEAM_END (R232). A team whose groups have ended, with its commands and dirty stash lines done, frees its resources. -/
  | teamEnd (team : Nat)
  /-- FC_BELL (R351). Makes the Forecourt read the TAIL of a queue at once. -/
  | fcBell (queue : Nat)
  /-- QUANTUM_BOUNDARY (R352). Reads every TAIL and rotates queue slots to waiting queues. -/
  | quantumBoundary
  /-- PHASE_START (R354). A queue's head record is read, selects its schedule, sets its team count and starts as a phase. -/
  | phaseStart (queue : Nat)
  /-- DEPENDENCE_RECHECK (R354). A write to a dependence word's line makes the Forecourt read it again. -/
  | dependenceRecheck (queue : Nat)
  /-- PHASE_COMPLETE (R356). A phase whose teams have ended increments its completion word and starts its NEXT. -/
  | phaseComplete (phase : Nat)
  /-- STALL_ALL (R358). A context whose groups all wait for FC_STALL cycles draws a notice. -/
  | stallAll (core ctx : Nat)
  /-- CONTEXT_SWITCH (R381). The Forecourt switches a core to another resident context, pre-empting the outgoing one. -/
  | contextSwitch (core ctx : Nat)
  /-- CTX_CREATE (R379). Creates a context after checking its ranges, tables and key slot, and resets its meters. -/
  | ctxCreate
  /-- CTX_HALT (R382). Takes every team of a context off its core and writes team images. -/
  | ctxHalt
  /-- HALT_TEAM_SAVE (R382). Once a team's commands and lines are done, pre-empts it, saves its image and frees it. -/
  | haltTeamSave (team : Nat)
  /-- CTX_RESUME (R384). Makes a halted context active and places its saved teams first. -/
  | ctxResume
  /-- CTX_RETIRE (R397). Stops every group of a context without a fault record. -/
  | ctxRetire
  /-- RETIREMENT_RECORD (R397). When the context's engine commands have ended, writes the retirement record and makes it RETIRED. -/
  | retirementRecord (ctx : Nat)
  /-- CTX_TEARDOWN (R400). Frees a retired context, or zeroises its key and starts the scrub of a protected one. -/
  | ctxTeardown
  /-- CTX_CMD_INVALID (R378). A CTX_CMD value with no command reports STATE. -/
  | ctxCmdInvalid
  /-- SCRUB_COMPLETE (R400). The scrub ends, the quarantine bit clears and the context becomes FREE. -/
  | scrubComplete (ctx : Nat)
  /-- XL_RANGE_WRITE (R360). Writes one word of a range register, with the check when V is left 1. -/
  | xlRangeWrite (reg word : Nat) (value : BitVec 64)
  /-- XL_INV (R370). Starts invalidation of a page's cached translations, with write-back under FLUSH. -/
  | xlInv (value : BitVec 64)
  /-- XL_INV_COMPLETE (R370). The invalidation finishes, and XL_INVST counts it. -/
  | xlInvComplete
  /-- XL_RESUME (R368). Retries every held access and parked entry on the named pages. -/
  | xlResume (value : BitVec 64)
  /-- STK_SCRWAYS (R409). Starts a change of the ways given to scratchpad, or is refused. -/
  | stkScrways (value : BitVec 64)
  /-- WAY_CHANGE_COMPLETE (R409). Every slice finishes writing back its given-up ways, and CHANGING clears. -/
  | wayChangeComplete
  /-- FLS_STAGEBASE (R408). Sets the staging cache's offset, or ignores a bad value. -/
  | flsStagebase (value : BitVec 64)
  /-- FLS_STAGESZ (R415). Sets the staging cache's size, or ignores a bad value. -/
  | flsStagesz (value : BitVec 64)
  /-- KEY_LOAD (R433). Unwraps a key blob into a key slot. -/
  | keyLoad (value : BitVec 64)
  /-- BB_DUMP (R430). Starts a signed dump of the black box with CUT taken from ESEQ. -/
  | bbDump (value : BitVec 64)
  /-- BB_DUMP_COMPLETE (R430). The dump ends, and events of the second ring enter the main ring. -/
  | bbDumpComplete
  /-- RST_REQ (R398). Writes a signed roster entry after a job nonce. -/
  | rstReq (value : BitVec 64)
  /-- RL_ROUTE_WRITE (R438). Sets the mask of links that reach a peer. -/
  | rlRouteWrite (peer : Nat) (value : BitVec 64)
  /-- REGISTER_WRITE (R9). A write to a device register without a row of its own sets the value, or is ignored under its checks. -/
  | registerWrite (index : Nat) (value : BitVec 64)
  /-- HOST_BAR0_ACCESS (R434). A host reads or writes a space-1 register through BAR0. -/
  | hostBar0Access (link index : Nat) (value : Option (BitVec 64))
  /-- HOST_BAR2_ACCESS (R434). A host makes a weak system-scope access to the IA range mapped by BAR2. -/
  | hostBar2Access (offset : Nat) (count : Nat) (data : Option (List (BitVec 8)))
  /-- PEER_ACCESS (R315). A peer's access arrives over a Rilvik link and is translated by the memory side. -/
  | peerAccess (peer ia : Nat) (act : PeerAct)
  /-- REMOTE_WRITE_ACK (R374). A peer acknowledges a write that was sent to it. -/
  | remoteWriteAck (write : Nat)
  /-- LAYER_ARRIVAL (R313). Every page of an arriving layer is staged, and the quay sets RESIDENT with a release. -/
  | layerArrival (ctx model layer : Nat)
  /-- LAYER_VICTIM_CHOICE (R390). The quay picks a resident, unpinned victim to make room for an arriving layer. -/
  | layerVictimChoice (ctx model layer : Nat)
  /-- LAYER_EVICTION_COMPLETE (R389). Every page of an evicting layer has left, so it becomes absent and a waiting request applies. -/
  | layerEvictionComplete (ctx model layer : Nat)
  /-- FLASH_READ_ECC_FAIL (R417). A flash read fails after retries, so the staging page is poisoned and the block retired. -/
  | flashReadEccFail (page : Nat)
  /-- RESERVATION_GRANT (R421). A district arbiter grants the oldest waiting reservation that fits. -/
  | reservationGrant (district : Nat)
  /-- PIPE_IDLE_RELEASE (R420). A quarter's vector pipe releases its reservation after 256 cycles without issue. -/
  | pipeIdleRelease (core quarter : Nat)
  /-- TERRACE_DELAY_SET (R422). An imbalance above 10% for 4,096 cycles sets DELAYED and BALLAST. -/
  | terraceDelaySet (terrace heavier : Nat)
  /-- TERRACE_DELAY_CLEAR (R422). An imbalance below 5%, or no reservation on the heavier district, clears DELAYED and BALLAST. -/
  | terraceDelayClear (terrace : Nat)
  /-- DROOP_DETECT (R423). A supply below threshold starts charge injection. -/
  | droopDetect (district : Nat)
  /-- SUSPECT_WINDOW_OPEN (R423). A droop past the injection limits opens a suspect window, discarding or replaying overlapping work. -/
  | suspectWindowOpen (district : Nat) (groups : List Nat)
  /-- SUSPECT_WINDOW_END (R423). 64 cycles after the supply recovers, the window closes and discarded lanes re-enter. -/
  | suspectWindowEnd (district : Nat)
  /-- GOVERNOR_WINDOW (R424). At each 1,024-cycle boundary the limit L halves or doubles and held MXAs may pass. -/
  | governorWindow (core : Nat)
  /-- THERMAL_READING (R425). An engine sensor reading updates the temperature and may change the hot bit. -/
  | thermalReading (core engine celsius : Nat)
  /-- DISTRICT_HOLD (R426). A district idle for PWR_IDLE cycles enters HOLD. -/
  | districtHold (district : Nat)
  /-- DISTRICT_DRAIN (R426). After PWR_HOLD cycles in HOLD, a district enters DRAIN. -/
  | districtDrain (district : Nat)
  /-- DISTRICT_OFF (R426). DRAIN ends and the district is OFF. -/
  | districtOff (district : Nat)
  /-- INRUSH_RAMP_START (R427). The tower's in-rush arbiter starts the next unit's ramp, at most every 350 cycles. -/
  | inrushRampStart (tower : Nat)
  /-- INRUSH_RAMP_COMPLETE (R427). A ramp ends after 1,400 cycles, and the unit is ON. -/
  | inrushRampComplete (tower unit : Nat)
  /-- CORRECTED_ERROR (R428). A soft error is corrected and logged. -/
  | correctedError (unit : ErrUnit) (addr : Nat)
  /-- REGISTER_ECC_ERROR (R44). An uncorrectable register-file error poisons V registers and faults ECC. -/
  | registerEccError (gid reg : Nat) (lanes : BitVec 64)
  /-- GROUP_STATE_PARITY_ERROR (R428). A parity error in the kerb, S registers, predicates, flags or frontier discards the group's strand, or faults ECC when lanes are sealed. -/
  | groupStateParityError (gid : Nat)
  /-- PIPELINE_ERROR (R428). A residue or parity error in a pipe discards unsealed lanes or re-executes for sealed lanes. -/
  | pipelineError (gid : Nat)
  /-- MEMORY_ECC_ERROR (R428). An uncorrectable error poisons a tile, region row, line or DRAM line. -/
  | memoryEccError (target : ErrTarget)
  /-- BURST_CHECK_FAIL (R412). A vertical burst fails its check: unsealed lanes are discarded and the burst is replayed. -/
  | burstCheckFail (bus : Nat) (groups : List Nat) (result : BurstResult)
  /-- LINK_CRC_FAIL (R436). A flit fails its CRC and is replayed, and after 16 failures the link leaves UP. -/
  | linkCrcFail (link : Nat)
  /-- LINK_TRAIN_START (R437). A DOWN link with training enabled or a seen signal enters TRAIN. -/
  | linkTrainStart (link : Nat)
  /-- LINK_TRAIN_RESULT (R437). Equalisation succeeds into IDENT or fails back to DOWN. -/
  | linkTrainResult (link : Nat) (lanes : Option Nat)
  /-- LINK_IDENT_COMPLETE (R437). Both sides exchange DEVID and link number, and the link is UP. -/
  | linkIdentComplete (link peerLink : Nat) (devid : List (BitVec 8))
  /-- LINK_DOWN (R438). A link leaves UP, the peer generation advances and a notice is posted. -/
  | linkDown (link : Nat)
  /-- DEVICE_RESET (R402). Power-on or device reset ends every context and starts bring-up. -/
  | deviceReset (powerOn : Bool)
  /-- BRINGUP_STEP (R439). Bring-up finishes one step and enters the next. -/
  | bringupStep (failed : Option (Nat × Nat))
  /-- HOST_LINK_RETRY (R440). After a host-link failure, training is retried every 2^24 cycles. -/
  | hostLinkRetry (link : Nat) (trained : Bool)
  /-- FENCE_COMPLETE (R312). A FENCE completes when its ordering is done; under .layer that is when every committed SRAM store has been accepted, with its check passed, into its bank's write buffer, and the fence then seals its lanes. -/
  | fenceComplete (op : Nat)
  /-- SUPPLY_RECOVERY (R423). A district's supply returns above threshold within the injection limits, so charge injection stops and INJECTING clears with no suspect window. -/
  | supplyRecovery (district : Nat)
  deriving DecidableEq, Repr

end Sys2Proof
end

