-- ==== Sys2Proof/Machine/State.lean ====
section
/-! DEFINITION. The state of the machine as plain data: everything the spec gives the device a place to hold, the model's own
scheduling fields, the reasons a step can stop, and the state right after reset. -/

namespace Sys2Proof.Machine

/-! ### Who moves next (model fields) -/

/-- A unit that enforces bounds in cycles on a counter of its own, beside the cores (R7). -/
inductive Timer where
  | forecourt | host | alwaysOn
  | district (d : Nat) | terrace (t : Nat) | arbiter (tower : Nat)
  deriving DecidableEq, Repr

/-- The place of a unit's counter in the table of counters. -/
def Timer.key : Timer → Nat
  | .forecourt => 0 | .host => 1 | .alwaysOn => 2
  | .district d => 3 + 3 * d | .terrace t => 4 + 3 * t | .arbiter t => 5 + 3 * t

/-- One turn of the device. The agenda of the state lists the turns to come (MODEL, log entry 1). -/
inductive Turn where
  /-- The group's highest-ranked eligible entry issues its next word, or starts its clause (R282). -/
  | issue (gid : Nat)
  /-- As issue, and a second entry of the group issues beside it where R283 allows. -/
  | dual (gid : Nat)
  /-- A step of one of the device's other agents. -/
  | event (i : Instr)
  /-- Nothing happens for n cycles. -/
  | idle (n : Nat)
  /-- The counter of a core runs n cycles ahead of the others (R7). -/
  | drift (core n : Nat)
  /-- The counter of another unit runs n cycles ahead of the others (R7). -/
  | unitDrift (unit : Timer) (n : Nat)
  /-- The oldest committed store of a core becomes visible beyond the core (R302). -/
  | drain (core : Nat)
  /-- A load delivers its data before the closing check beat of a burst on a bus (R269). -/
  | unchecked (op bus : Nat)
  /-- The closing check of a bus passes: the beats that groups consumed from it are checked (R269). -/
  | checked (bus : Nat)
  /-- The L2 evicts the line of a key / 64 (R428). -/
  | evict (line : Nat)
  /-- The newest bytes of a line of DRAM, by its key / 64 and its intermediate address / 64, stand in the L2 alone (R402). -/
  | dirtied (line ia : Nat)
  /-- The next erase of a flash block fails (R418). -/
  | eraseFails (block : Nat)
  /-- One unit of the scrub of a context is done (R400). -/
  | scrubUnit (ctx : Nat)
  /-- A terrace measures its currents: which of its two districts draws more, and the imbalance in per cent (R422). -/
  | imbalance (terrace heavier percent : Nat)
  /-- An SRAM die or a bank of Arcade engines of a tower, as wake unit 8 to 14 of its in-rush arbiter, is off; or asks to wake (R427). -/
  | unitOff (tower unit : Nat)
  | unitWake (tower unit : Nat)
  /-- The key load in progress ends (R431, R433). -/
  | keyLoaded
  /-- A flit of a link gets through (R436). -/
  | flitPasses (link : Nat)
  deriving DecidableEq, Repr

/-- The entry that the next instruction word issues for: its group and its lowest lane (MODEL, log entry 2). -/
structure Focus where
  gid : Nat
  lane : Nat
  deriving DecidableEq, Repr

/-! ### Memory -/

/-- Every byte of the device: the key is space × 2^64 + address. Space 0 is DRAM by physical address, 1 flash by physical
block, 2 and 3 host memory behind links 0 and 1, 16 + p the memory of peer p by IA, 65536 + t the scratchpad of team t. An
unlisted byte reads 0 (log entry 7). -/
abbrev Memory := KMap Byte

/-- The canonical form: keys strictly rising, no entry equal to what an unlisted byte reads as. -/
abbrev Memory.wf (m : Memory) : Prop := KMap.canonical (0 : Byte) m = true

/-- The space number of DRAM. -/
def spDram : Nat := 0
/-- The space number of flash. -/
def spFlash : Nat := 1
/-- The space of host memory behind link l. -/
def spHost (l : Nat) : Nat := 2 + l
/-- The space of peer p's memory. -/
def spPeer (p : Nat) : Nat := 16 + p
/-- The space of team t's scratchpad. -/
def spTeam (t : Nat) : Nat := 65536 + t

/-- The key of an address in a space. -/
def memKey (space addr : Nat) : Nat := space * 2 ^ 64 + addr

/-- Where a byte lies: its memory key, the intermediate address that the encryption of a protected context is tied to (R399), and for an
access through a stash window the team and line of the stash (R328). -/
structure Loc where
  key : Nat
  ia : Nat := 0
  win : Option (Nat × Nat) := none
  deriving DecidableEq, Repr

/-! ### Groups (chapters 2, 9, 10) -/

/-- A register or number a later word may have to wait for (R81). -/
inductive RegRef where
  | v (n : Nat) | k (n : Nat) | s (n : Nat) | p (n : Nat) | t (n : Nat) | acc (n : Nat)
  deriving DecidableEq, Repr

/-- The clause an entry executes: the address of its header, the header word and the instruction words, fetched as a unit when
the entry started it (R69, R70, R375). -/
structure Clause where
  hdr : Nat
  word : Nat
  words : List Nat
  deriving DecidableEq, Repr

/-- The waits of R281, and the wait of an instruction fetch (R375). -/
inductive Wait where
  | none
  | rcv
  | bnd
  /-- In WAITA since a cycle of the core's counter: its word, and each passing lane with its address and comparison value. -/
  | waita (f : FM) (since : Nat) (tests : List (Nat × Nat × Nat))
  /-- At a cross-lane word with parked lanes of its cohorts (R168). -/
  | cross
  /-- At BAR (false) or BARC (true) with the given ID and count (R207). -/
  | bar (cluster : Bool) (id : Nat)
  /-- SYSC with the service queue full (R210). -/
  | sysc
  /-- Parked on the 16 KiB page of an IA (R285). -/
  | parked (page : Nat)
  /-- The fetch of its next word or clause waits for a page (R375). -/
  | fetch (page : Nat)
  deriving DecidableEq, Repr

/-- A frontier entry (R278). -/
structure Entry where
  pc : Nat
  prio : Nat
  mask : Mask
  wait : Wait := .none
  /-- The clause it executes; none where PC is a header that the entry has yet to start. -/
  clause : Option Clause := none
  /-- In handler mode (R98). -/
  handler : Bool := false
  /-- MODEL: the lanes for which the word it waits at is counted for meter 12 already, so that a word that issues again counts once
  (R276). -/
  retry : Mask := 0
  /-- The value of the core's counter since which the governor holds its MXA, and the one at which the window ends (R424). -/
  held : Option (Nat × Nat) := none
  /-- Its MXA has passed the governor and waits in the steps of R227 (R424). -/
  governed : Bool := false
  deriving DecidableEq, Repr

/-- Handler mode of a group (R98-R100). -/
structure Handler where
  cause : Cause
  /-- Where TRET returns to, the clause it returns into (none: a header), and the priority to take. -/
  ret : Nat
  retClause : Option Clause
  retPrio : Nat
  deriving DecidableEq, Repr

/-- A trap that waits for handler mode to end (R98): the entry's lanes, and what it reports. -/
structure Deferred where
  lanes : Mask
  cause : Cause
  pos : Nat
  word : Nat
  pc : Nat
  deriving DecidableEq, Repr

/-- One byte a buffered store will write. -/
structure SByte where
  lane : Nat
  loc : Loc
  val : Byte
  deriving DecidableEq, Repr

/-- One place of the strand store buffer (R261): the PC of its store, the lanes that passed, or that filled it again after a
park (R262), its bytes in lane order, and the stash lines it makes dirty. -/
structure Place where
  pc : Nat
  lanes : Mask
  bytes : List SByte
  stash : List (Nat × Nat) := []
  deriving DecidableEq, Repr

/-- Beats of a bus that lanes of the strand consumed before the check beat of their burst (R269). -/
structure Beat where
  bus : Nat
  lanes : Mask
  deriving DecidableEq, Repr

/-- What SWR can write and a discard restores, with the S registers and predicates (R35, R185, R260). -/
structure Snapshot where
  s : KMap Word64 := []
  p : KMap Mask := []
  limit : Nat := 16
  utvec : Nat := 0
  deriving DecidableEq, Repr

/-- A group (R277). -/
structure Group where
  team : Nat := 0
  num : Nat := 0
  ctx : Nat := 0
  regs : Nat := 8
  quarter : Nat := 0
  slot : Nat := 0
  active : Bool := false
  /-- The cycle of the core's counter at which it joined the active set (R289). -/
  joined : Nat := 0
  /-- Place in the pending rotation order (R290): lower goes first. -/
  order : Nat := 0
  /-- Its range of the fast file while it is active: first unit and units of each block (R292, R293). -/
  range : List (Nat × Nat) := []
  entries : List Entry := []
  v : KMap Word := []
  vpoison : KMap Mask := []
  kerb : KMap Word := []
  s : KMap Word64 := []
  p : KMap Mask := []
  reentry : Nat := 0
  limit : Nat := 16
  utvec : Nat := 0
  xdec0 : Word64 := 0
  xdec1 : Word64 := 0
  xdec2 : Word64 := 0
  xdec3 : Word64 := 0
  xcause : Word64 := 0
  govStall : Nat := 0
  snap : Snapshot := {}
  exited : Mask := 0
  sealed : Mask := 0
  /-- Lanes at a strand boundary: they have yet to start a strand-entry clause (R74, R258). -/
  outside : Mask := BitVec.allOnes 64
  /-- Entry PC and entry PRIO of each lane (R258, R285). -/
  entryPc : KMap Nat := []
  entryPrio : KMap Nat := []
  /-- Cohort of each lane (R168). -/
  cohort : KMap Mask := []
  /-- Lanes that parked in this strand; and those of them that have not yet met the second condition of R168. -/
  parkedIn : Mask := 0
  owing : Mask := 0
  /-- Lanes that parked in the strand and re-enter: their stores fill the places they held (R262). -/
  redo : Mask := 0
  /-- For each lane discarded by an event that counts, the value that its re-entry takes %reentry to: above the limit it traps
  at the entry clause (R275). -/
  recheck : KMap Nat := []
  /-- Beats consumed and not yet checked (R269). -/
  beats : List Beat := []
  handler : Option Handler := none
  deferred : Option Deferred := none
  buffer : List Place := []
  readSet : BitVec 256 := 0
  /-- Addresses of engine-command words accepted in the strand (R274). -/
  accepted : List Nat := []
  /-- The lanes of each word issued in the strand (R276). -/
  issued : List Mask := []
  /-- Uncommitted counts of meters 5-7: key meter × 64 + lane (R136). -/
  counts : KMap Nat := []
  /-- Uncommitted conversions of ACV: the address of the word, the lanes that passed in their last run, and M × N (R243). -/
  acv : List (Nat × Mask × Nat) := []
  /-- Addresses of engine-command words accepted in a strand that a context fault discarded (R274). -/
  skip : List Nat := []
  /-- The lines (memory key / 64) that its stores wrote and whose acceptance no FENCE `.layer` of it has awaited (R312). -/
  stored : List Nat := []
  /-- YIELD was issued in the strand (R173). -/
  yielded : Bool := false
  /-- The strand just ended had issued YIELD, or the next clause asks for a swap (R289). -/
  yieldMark : Bool := false
  /-- Lanes discarded in a suspect window of the district, which re-enter after it (R270). -/
  suspectHold : Bool := false
  /-- All lanes have exited and the strand is committed (R172). -/
  ended : Bool := false
  /-- A pre-emption waits for the sealed lanes (R273). -/
  preempt : Bool := false
  deriving DecidableEq, Repr

/-! ### Teams, clusters, phases (chapters 8, 10, 12, 17) -/

/-- A tile: 32,768 bytes and its configuration word (R213, R214). -/
structure Tile where
  cfg : Option Nat := none
  bytes : KMap Byte := []
  poisoned : Bool := false
  deriving DecidableEq, Repr

/-- A team or cluster barrier (R207): the CNT of the phase's first arrival, and the groups that have arrived. -/
structure Bar where
  cnt : Nat := 0
  arrived : List Nat := []
  deriving DecidableEq, Repr

/-- The state of a stash line; an unlisted line is Invalid (R329). -/
inductive StashState where
  | clean | dirty
  deriving DecidableEq, Repr

/-- A stash descriptor (R327). -/
structure Stash where
  gbase : Nat := 0
  size : Nat := 0
  soff : Nat := 0
  deriving DecidableEq, Repr

/-- A schedule of a kernel (R119). -/
structure Sched where
  bank : Nat := 0
  slotMask : Nat := 0
  clh : Nat := 1
  clw : Nat := 1
  tiles : Nat := 0
  accr : Nat := 0
  groups : Nat := 1
  regs : Nat := 8
  scratch : Nat := 0
  entry : Nat := 0
  bound : Nat := 0
  deriving DecidableEq, Repr

/-- A launch record as the Forecourt read it (R347). -/
structure Record where
  addr : Nat := 0
  chash : Nat := 0
  codeBase : Nat := 0
  codeExt : Nat := 0
  schedAddr : Nat := 0
  constBase : Nat := 0
  poolBase : Nat := 0
  poolCount : Nat := 0
  schedN : Nat := 0
  prio : Nat := 0
  ctx : Nat := 0
  teams : Nat := 0
  tsh : Nat := 0
  sizeAddr : Nat := 0
  mctx : Nat := 0xFFFF
  layer : Nat := 0xFFFF
  next : Nat := 0
  comp : Nat := 0
  stash : List Stash := []
  slots : List Nat := []
  events : List (Nat × Nat) := []
  deriving DecidableEq, Repr

/-- A team (R277, R292, R355). -/
structure Team where
  phase : Nat := 0
  num : Nat := 0
  cluster : Nat := 0
  cx : Nat := 0
  cy : Nat := 0
  core : Nat := 0
  ctx : Nat := 0
  /-- The extent of R190, and the ways of the slice extension it holds (R410). -/
  extent : Nat := 0
  ext : Option Nat := none
  /-- Where its scratchpad stands in the core's store: first unit and units of each block (R293); and the tiles and accumulator regions
  of the core that it holds (R292). The device chooses them. -/
  place : List (Nat × Nat) := []
  tileAt : List Nat := []
  accAt : List Nat := []
  tiles : KMap Tile := []
  /-- Accumulator entries: key region × 32768 + row × 256 + column (R60). -/
  acc : KMap Word64 := []
  /-- Poisoned region rows: region × 128 + row (R428). -/
  badRows : List Nat := []
  /-- Poisoned scratchpad lines (R428). -/
  badLines : List Nat := []
  bars : KMap Bar := []
  /-- Stash lines in Clean or Dirty: key is the team offset of the line / 64 (R329). -/
  stash : KMap StashState := []
  /-- Where the global line of each stash line stands, under the translation by which it was filled (R370). -/
  stashAt : KMap Loc := []
  deriving DecidableEq, Repr

/-- A phase: a started launch record (R354). -/
structure Phase where
  queue : Nat := 0
  ctx : Nat := 0
  record : Record := {}
  sched : Sched := {}
  schedIdx : Nat := 0
  num : Nat := 0
  teams : Nat := 0
  /-- The intermediate address of CODEBASE as its context translated it when the phase started: where its code was loaded (R111). -/
  codeIa : Option Nat := none
  /-- Clusters placed so far from the share of each tower (R355). -/
  placed : KMap Nat := []
  /-- Teams placed, and teams ended. -/
  placedTeams : Nat := 0
  endedTeams : Nat := 0
  /-- BARC barriers: key cluster × 16 + ID (R207). -/
  bars : KMap Bar := []
  deriving DecidableEq, Repr

/-! ### In-flight work (chapters 7, 8, 12) -/

/-- A byte that a load will deliver: where it is read, and the value once it is captured. -/
structure LByte where
  loc : Loc
  val : Option Byte := none
  deriving DecidableEq, Repr

/-- One lane's atomic step (R197-R199). -/
structure AtomStep where
  lane : Nat
  loc : Loc
  v : Nat
  cmp : Nat
  /-- The stash lines it writes. -/
  stash : List (Nat × Nat) := []
  old : Option Nat := none
  deriving DecidableEq, Repr

/-- What an in-flight instruction has left to do. -/
inductive OpKind where
  /-- LD, LDS, LDQ: per lane, the bytes to deliver; the acquire and its scope. -/
  | load (bits : Nat) (acq : Bool) (scope : Nat) (lanes : List (Nat × List LByte))
  /-- ATOM, ATOMS, RED. -/
  | atom (bits aop : Nat) (ord scope : Nat) (spad ret : Bool) (steps : List AtomStep)
  /-- A long-latency arithmetic result, per lane (R135). -/
  | func (vals : List (Nat × Nat))
  /-- TLD: the image's bytes. -/
  | tld (tile : Nat) (col : Bool) (bytes : List LByte)
  /-- TST: the image's address as byte keys, and the stash lines it writes. -/
  | tst (tile : Nat) (col : Bool) (locs : List Loc) (lines : List (Nat × Nat))
  /-- ACLD: per lane, the 2,048 bytes of its row. -/
  | acld (region : Nat) (half : Bool) (lanes : List (Nat × List LByte))
  /-- ACST: per lane, the byte keys of its row, and the stash lines it writes. -/
  | acst (region : Nat) (half : Bool) (lanes : List (Nat × List Loc × List (Nat × Nat)))
  /-- ACV: its block, slot and vectors as read at issue (R241), and its status predicate. -/
  | acv (block slot : Nat) (pred : Nat) (rs cs bi : List Nat)
  /-- MTRR: the value read in each lane. -/
  | mtrr (vals : List (Nat × Nat))
  /-- SIGN: the places of the record, and what it signs as it stood at issue to the signing unit: context, SEQ, meters and sticky
  mask (R264); whether the record has been sent. -/
  | sign (locs : List Loc) (ctx seq : Nat) (meters : List Nat) (sticky : Nat) (sent : Bool)
  /-- FENCE: FK, ORD and SCOPE (R206). -/
  | fence (fk ord scope : Nat)
  /-- An engine command that holds the word's flag (R72). -/
  | cmd (id : Nat)
  deriving DecidableEq, Repr

/-- An in-flight instruction. -/
structure Op where
  gid : Nat
  /-- The address of its word. -/
  pc : Nat
  /-- The flag it holds (R72). -/
  flag : Option Nat
  /-- Lanes it still writes, and the lanes of the entry that issued it. -/
  lanes : Mask
  entry : Mask
  /-- Issued once for the entry (R271). -/
  once : Bool := false
  /-- A commit point that has yet to take effect (R264). -/
  pending : Bool := false
  /-- The strand in which it issued has committed (R135). -/
  committed : Bool := false
  /-- Its destination operand, the type of its result, and every register it will write. -/
  dst : Operand := ⟨.k, 0⟩
  ty : Ty := .b32
  regs : List RegRef := []
  kind : OpKind
  deriving DecidableEq, Repr

/-- The engine commands (R226-R256). -/
inductive CmdKind where
  | mxa | cpy | cpyl | hred | hgat | hfetch | lyrq | inst | query | abort
  deriving DecidableEq, Repr

/-- A byte that an engine has written into a line that its command still owns (R310): the step that wrote it, the acceptance number that
a command accepted after that step has at least (MODEL), and the stash line it lies in. -/
structure Staged where
  step : Nat
  mark : Nat
  loc : Loc
  val : Byte
  stash : Option (Nat × Nat) := none
  deriving DecidableEq, Repr

/-- An accepted engine command that has not completed (R227-R231). -/
structure Cmd where
  kind : CmdKind
  team : Nat
  gid : Nat
  ctx : Nat
  core : Nat
  pc : Nat
  /-- Scratchpad offset and contents of its parameter block, and the fields of its word. -/
  baddr : Nat
  blockAddr : Nat
  block : Nat
  slot : Nat := 0
  sub : Nat := 0
  ef : Nat := 0
  x : Nat := 0
  /-- Acceptance order. -/
  seq : Nat := 0
  started : Bool := false
  /-- Lines it owns (R310): memory key / 64; and the virtual lines it owns whose page was not placed when it took them. -/
  owned : List Nat := []
  ownedVa : List Nat := []
  /-- Bytes of lines that it has not finished: they become visible with the whole line (R310). -/
  staged : List Staged := []
  /-- The layer it pins: model context and layer (R236). -/
  pin : Option (Nat × Nat) := none
  /-- MXA: computed entries to write, status bits, engine. -/
  results : List (Nat × Word64) := []
  status : Nat := 0
  engine : Nat := 0
  /-- Sectors of a copy that have landed, steps of HRED or HFETCH performed, words of HGAT answered. -/
  done : List Nat := []
  /-- CPYL: the layout record as read at acceptance. -/
  lrec : Nat := 0
  /-- INST: the completion code decided at acceptance, where a condition of R254 failed, or by an abort. -/
  code : Option Nat := none
  deriving DecidableEq, Repr

/-- A collective copy (R244): its team, the fields its slices share, and the commands of the slices accepted so far. -/
structure Copy where
  team : Nat
  kind : CmdKind
  block : Nat
  slices : List (Nat × Nat)
  started : Bool := false
  deriving DecidableEq, Repr

/-- A work unit of a copy (R322): command, and the range of its sectors. -/
structure CopyUnit where
  cmd : Nat
  first : Nat
  count : Nat
  /-- The core whose queue it was placed in (R420). -/
  core : Nat
  deriving DecidableEq, Repr

/-- A request of the service queue (R210). -/
structure ServiceReq where
  ctx : Nat
  gid : Nat
  team : Nat
  num : Nat
  service : Nat
  arg : Nat
  deriving DecidableEq, Repr

/-- Stores that a group has committed and that are not yet visible beyond its core: one place of its buffer, with the group's
context and team (R298, R302). -/
structure Commit where
  gid : Nat
  ctx : Nat
  team : Nat
  place : Place
  deriving DecidableEq, Repr

/-- A write sent to a peer and not yet acknowledged (R374): the core whose group made it, where one did. -/
structure PeerWrite where
  ctx : Nat
  core : Option Nat := none
  peer : Nat
  ia : Nat
  bytes : List Byte
  deriving DecidableEq, Repr

/-! ### Contexts (chapter 19) -/

/-- The states of a context, in the order of R377. -/
inductive CtxState where
  | free | active | stopped | halted | retired | scrubbing
  deriving DecidableEq, Repr

/-- The residency state of a layer (R388). -/
inductive LayerSt where
  | absent | arriving | resident | evicting
  deriving DecidableEq, Repr

/-- A layer as the staging quay holds it (R388-R390). -/
structure Layer where
  st : LayerSt := .absent
  gen : Nat := 0
  /-- MXAs that pin it. -/
  pins : Nat := 0
  /-- A request waits for the end of the eviction (R253). -/
  waiting : Bool := false
  /-- Order in which it became resident. -/
  since : Nat := 0
  /-- Writes of its flag word that wait for a page (R388), oldest first. -/
  flagWrites : List Nat := []
  deriving DecidableEq, Repr

/-- The recorded context fault (R385). -/
structure FaultRec where
  cause : Nat := 0
  xcause : Nat := 0
  core : Nat := 0xFFFFFFFF
  team : Nat := 0xFFFFFFFF
  group : Nat := 0xFF
  addr : Nat := 0
  others : Nat := 0
  /-- Teams with sealed groups, and the mask of those groups. -/
  sealed : List (Nat × Nat) := []
  /-- DETAIL of R376 as 32 bytes. -/
  detail : Nat := 0
  deriving DecidableEq, Repr

/-- What a team image holds beside the bytes written to memory (R383). -/
structure Image where
  place : Nat
  /-- The bytes of the image as the device wrote them, as a checksum of memory: address and bytes. -/
  addr : Nat
  bytes : List Byte
  phase : Nat
  team : Team
  groups : List (Nat × Group)
  scratch : List (Nat × Byte)
  deriving DecidableEq, Repr

/-- A context (R377-R379). -/
structure Ctx where
  st : CtxState := .free
  flags : Nat := 0
  frec : Nat := 0
  save : Nat := 0
  saven : Nat := 0
  models : Nat := 0
  nmodels : Nat := 0
  recaddr : Nat := 0
  installow : Nat := 0
  installed : Nat := 0
  roster : KMap Word64 := []
  scrublist : Nat := 0
  scrubn : Nat := 0
  /-- Words of the range registers: key 4n + w (R360, R363). -/
  ranges : KMap Word64 := []
  meters : KMap Nat := []
  sticky : BitVec 16 := 0
  fault : Option FaultRec := none
  /-- The write of the fault record waits for a page of CTX_FREC (R368, R445). -/
  frecWait : Bool := false
  /-- The notice of its fault follows the write of the record (R385). -/
  faultDue : Bool := false
  /-- Stop for a halt: teams that wait to be saved (R382). -/
  halting : Bool := false
  /-- RETIRE waits for engine commands (R397). -/
  retiring : Bool := false
  unknown : Nat := 0
  images : List Image := []
  /-- Layers: key model × 65536 + layer. -/
  layers : KMap Layer := []
  deriving DecidableEq, Repr

/-- A quarantine bit with its record (R379). -/
structure Quarantine where
  slot : Nat
  list : Nat
  n : Nat
  /-- Cores where the context was resident, and the flash blocks of its layer images, for the scrub; and the units scrubbed (R400). -/
  cores : List Nat := []
  blocks : List Nat := []
  done : Nat := 0
  deriving DecidableEq, Repr

/-- A code object that kld loaded (R111, R116): where its CODE stands, its size and hash, the byte offsets of its clause headers (R69),
and the V registers that LIVEIN marks at each strand entry. -/
structure Code where
  ia : Nat
  size : Nat
  hash : Nat
  headers : List Nat := []
  liveIn : KMap (BitVec 256) := []
  deriving DecidableEq, Repr

/-! ### Cores, power and heat (chapters 10, 19, 22) -/

/-- A core (R14, R380). -/
structure CoreSt where
  resident : List Nat := []
  running : Option Nat := none
  since : Nat := 0
  /-- The core's counter: its value at a cycle, and whether it runs from there (R7, R426). -/
  clock : Nat := 0
  clockAt : Nat := 0
  clockOn : Bool := true
  /-- The group chosen last in each quarter (R284). -/
  rot : KMap Nat := []
  /-- Active sets in which room is being made for the first ready group (R290): 4 × context + quarter. -/
  room : List Nat := []
  /-- Contexts for which STALL_ALL was posted, and since when each meets its conditions (R358). -/
  stalled : KMap Nat := []
  noticed : List Nat := []
  /-- Governor: limit L, the window counted, and the passes made in it (R424). -/
  limit : Nat := 32
  window : Nat := 0
  passes : Nat := 0
  /-- Temperatures of the two engines and their hot bits (R425). -/
  temp0 : Nat := 0
  temp1 : Nat := 0
  hot0 : Bool := false
  hot1 : Bool := false
  /-- Quarters whose vector pipe holds a reservation, with the cycle of the last issue (R420). -/
  pipes : KMap Nat := []
  deriving DecidableEq, Repr

/-- What a reservation is for (R420). -/
inductive Holder where
  | mxa (cmd : Nat) | acv (op : Nat) | pipe (core quarter : Nat) | unit (cmd first : Nat)
  deriving DecidableEq, Repr

/-- The power states of a district (R426). -/
inductive PowerSt where
  | on | hold | drain | off
  deriving DecidableEq, Repr

/-- A district (R419-R427). -/
structure District where
  budget : Nat := 240
  granted : List (Holder × Nat) := []
  waiting : List (Holder × Nat) := []
  st : PowerSt := .on
  /-- The cycle at which the state was entered, and since which the district is idle. -/
  since : Nat := 0
  idle : Nat := 0
  /-- A wake request waits for OFF (R427). -/
  wake : Bool := false
  delayed : Bool := false
  ballast : Bool := false
  injecting : Bool := false
  suspect : Bool := false
  /-- Injection cycles since reset (R419), and the injections of the last 512 cycles: start and cycles. -/
  inj : Nat := 0
  recent : List (Nat × Nat) := []
  /-- The supply is below threshold; and the value of the district's counter since which it is, or, in a suspect window, since which it has
  been above. -/
  low : Bool := false
  lowSince : Nat := 0
  /-- MXAs that have completed since the supply fell below threshold: a window that then opens strikes them too. -/
  overlap : List Cmd := []
  deriving DecidableEq, Repr

/-- What a terrace measures (R422): the heavier of its two districts, the imbalance in per cent, and since which cycle it is above 10%. -/
structure Terrace where
  heavier : Nat := 0
  percent : Nat := 0
  since : Nat := 0
  deriving DecidableEq, Repr

/-- A tower's in-rush arbiter (R427): units waiting, units ramping with their start, and the last start; units that are no district and
are off. -/
structure Inrush where
  down : List Nat := []
  queue : List Nat := []
  ramping : List (Nat × Nat) := []
  last : Option Nat := none
  deriving DecidableEq, Repr

/-! ### Units of the package -/

/-- A record that the Forecourt has read for a queue (R347, R354): its address and bytes, the run of SCHED entries once the checks of the
step Read have passed, the dependence words satisfied so far, and the size word once it is read. -/
structure Held where
  addr : Nat := 0
  raw : Nat := 0
  scheds : Option (List Sched) := none
  done : List Nat := []
  size : Option Nat := none
  deriving DecidableEq, Repr

/-- The Forecourt (R349-R357). -/
structure Forecourt where
  qtBase : Nat := 0
  qtCount : Nat := 0
  stall : Nat := 1048576
  /-- Queues that hold a slot, with the order in which each took it; and the FIFO of waiting queues. -/
  slots : List (Nat × Nat) := []
  fifo : List Nat := []
  /-- Order counter, and the last quantum boundary. -/
  order : Nat := 0
  quantum : Nat := 0
  /-- TAIL as last read of each queue. -/
  tails : KMap Nat := []
  /-- Queues that hold no slot until QSTATUS is 0 and the bell rings (R357). -/
  refused : List Nat := []
  /-- The record read for a queue. -/
  held : KMap Held := []
  /-- Bells whose read of TAIL waits for a page (R351, R368). -/
  bells : List Nat := []
  /-- Pages that an access of the Forecourt waits on: it is made again once they are resumed (R357, R368). -/
  waits : List Nat := []
  /-- Phases of a chain whose NEXT waits: queue to phase (R354). -/
  chain : KMap Nat := []
  /-- Phase numbers for the next record of each queue's chain. -/
  chainNum : KMap Nat := []
  /-- The last phase a queue took from its ring, whose teams must be placed (R354). -/
  lastPhase : KMap Nat := []
  /-- The queue whose phase was served last in placement (R355). -/
  served : Nat := 0
  deriving DecidableEq, Repr

/-- The memory-side translation registers (R363). -/
structure Xl where
  ptRoot : Nat := 0
  ctxSel : Nat := 0
  flBase : Nat := 0
  /-- Invalidations completed, the one in progress and those that wait (R369). -/
  count : Nat := 0
  inv : Option Nat := none
  invWait : List Nat := []
  /-- Link generations of peers (R373). -/
  peerGen : KMap Nat := []
  /-- Pages with a notice posted and not yet resumed (R368): 16 KiB page number of the IA. -/
  noticed : List Nat := []
  deriving DecidableEq, Repr

/-- Context control (R378) beside the contexts themselves. -/
structure CtxCtl where
  sel : Nat := 0
  /-- Commands written and not yet ended: context and CTX_CMD value. -/
  queue : List (Nat × Nat) := []
  /-- The command at the head has begun and waits to end (HALT, RETIRE). -/
  running : Bool := false
  result : Nat := 0
  scrubActive : Bool := false
  scrubDone : Nat := 0
  deriving DecidableEq, Repr

/-- Stacked SRAM and flash (R408-R418, R443). -/
structure Stack where
  ways : Nat := 0
  changing : Bool := false
  refused : Bool := false
  stageBase : Nat := 0
  stageSize : Nat := 0
  /-- Repair map: spare wires taken a bus, buses whose ways are retired. -/
  spares : KMap Nat := []
  retired : List Nat := []
  /-- Flash: erase counts over the count at delivery, retired blocks, block maps (logical to physical) and blocks in use.
  Keys are site × 2^22 + block. -/
  wear : KMap Nat := []
  flashRetired : List Nat := []
  blockMap : KMap Nat := []
  inUse : List Nat := []
  /-- MODEL: blocks whose next erase fails (R418). -/
  failing : List Nat := []
  /-- Staging pages poisoned by a flash read (R417), as physical page numbers of the flash. -/
  badPages : List Nat := []
  deriving DecidableEq, Repr

/-- Power registers of the package (R419). -/
structure Power where
  dsel : Nat := 0
  gov : Nat := 32
  hold : Nat := 2800
  idle : Nat := 16384
  csel : Nat := 0
  hot : Nat := 95
  districts : KMap District := []
  terraces : KMap Terrace := []
  inrush : KMap Inrush := []
  deriving DecidableEq, Repr

/-- An event of the black box (R429), with DETAIL as a 128-bit number. -/
structure BbEvent where
  eseq : Nat
  code : Nat
  core : Nat
  ctx : Nat
  detail : Nat
  deriving DecidableEq, Repr

/-- The always-on block (R379, R395, R413, R418, R429). -/
structure AlwaysOn where
  ring : List BbEvent := []
  second : List BbEvent := []
  eseq : Nat := 0
  seq : Nat := 0
  /-- The dump in progress: address, SEQ and CUT; and the writes of BB_DUMP that wait. -/
  dump : Option (Nat × Nat × Nat) := none
  dumpWait : List Nat := []
  /-- First corrected error of each unit in the last 65,536 cycles: unit, cycle, ESEQ (R429). -/
  corrected : List (ErrUnit × Nat × Nat) := []
  quarantine : KMap Quarantine := []
  deriving DecidableEq, Repr

/-- The notice ring (R435). -/
structure Notice where
  base : Nat := 0
  log2n : Nat := 0
  enable : Bool := false
  pos : Nat := 0
  doneCount : Nat := 0
  lost : Nat := 0
  /-- MSI-X vector 0 messages sent. -/
  msix : Nat := 0
  deriving DecidableEq, Repr

/-- The host window (R434). -/
structure HostWin where
  bar2 : Nat := 0
  off0 : Nat := 0
  off1 : Nat := 0
  /-- Host links that are up; both train in step 4 (R439). -/
  up0 : Bool := false
  up1 : Bool := false
  /-- The cycle of the last try, and the links already tried in the one that goes on (R440). -/
  retrySince : Nat := 0
  tried : List Nat := []
  /-- The last value a host access read (what the link carries back). -/
  readData : List Byte := []
  deriving DecidableEq, Repr

/-- The states of a Rilvik link (R437). -/
inductive LinkSt where
  | down | train | ident | up
  deriving DecidableEq, Repr

/-- A Rilvik link (R436, R437). -/
structure Link where
  st : LinkSt := .down
  width : Nat := 0
  peerLink : Nat := 0
  peerId : List Byte := []
  fails : Nat := 0
  deriving DecidableEq, Repr

/-- Keys and bring-up (R431-R433, R439, R440). -/
structure Ident where
  /-- Key slots: 64-byte XTS keys as numbers; an unlisted slot is zeroised. -/
  keys : KMap Nat := []
  keyStatus : Nat := 0
  /-- The load in progress: the address of its blob (R431, R433). -/
  keyLoad : Option Nat := none
  devState : Nat := 0
  fail : Bool := false
  devFail : Nat := 0
  /-- The host reaches only the identity and bring-up registers (R440). -/
  limited : Bool := false
  deriving DecidableEq, Repr

/-- The state of the machine. -/
structure State where
  /-- MODEL fields: who moves next, for which entry a word issues, and the counter that free values are taken at. -/
  agenda : List Turn := []
  focus : Option Focus := none
  tick : Nat := 0
  /-- Turns since reset, and idle cycles, by which every counter of the device goes on (log entry 9); each core has a counter of its
  own, and so has each other unit that enforces a bound (R7): by how many cycles it has run ahead. -/
  cycle : Nat := 0
  timers : KMap Nat := []
  mem : Memory := []
  /-- Poisoned lines: memory key / 64 (R414); and lines whose copy in the L2 is poisoned until it is evicted, each with
  its intermediate address / 64 (R428). -/
  poison : List Nat := []
  l2bad : List (Nat × Nat) := []
  /-- MODEL field: the lines of DRAM (key / 64), each with its intermediate address / 64, whose newest bytes stand in the L2 alone, which
  a device reset drops (R402). -/
  l2dirty : List (Nat × Nat) := []
  /-- Lines whose stores a completed FENCE `.layer` acknowledged: no failure of a vertical wire loses them (R312). -/
  accepted : List Nat := []
  groups : KMap Group := []
  teams : KMap Team := []
  phases : KMap Phase := []
  ops : KMap Op := []
  cmds : KMap Cmd := []
  copies : KMap Copy := []
  /-- Queues of the copy engines: key tower × 96 + engine, oldest first (R322). -/
  units : KMap (List CopyUnit) := []
  /-- Committed stores of each core that are visible on the core and not yet beyond it, oldest first (R298, R302). -/
  commits : KMap (List Commit) := []
  peerWrites : KMap PeerWrite := []
  service : List ServiceReq := []
  cores : KMap CoreSt := []
  ctxs : KMap Ctx := []
  codes : List Code := []
  fc : Forecourt := {}
  xl : Xl := {}
  cc : CtxCtl := {}
  stk : Stack := {}
  pwr : Power := {}
  aon : AlwaysOn := {}
  nr : Notice := {}
  hw : HostWin := {}
  links : KMap Link := []
  /-- RL_ROUTE of each peer (R438). -/
  routes : KMap Nat := []
  ident : Ident := {}
  deriving DecidableEq, Repr

/-! ### Outcomes -/

/-- Why the machine stops. -/
inductive Fault where
  /-- A physical address that no DRAM or flash site of the device holds (R17, R365). Raised by every access to memory. Safe:
  the spec gives no effect, and the machine stops where hardware would go on. -/
  | noSuchPhysicalAddress
  deriving DecidableEq, Repr

/-- Why an instruction is refused. -/
inductive Refusal where
  /-- No meaning has been written. Raised by arms of exec alone. Safe: the machine stops. -/
  | notModelled (mnemonic : String)
  /-- An access to a device register page (IA region 0xE): the spec says the pages exist and gives no layout (R359). Raised
  by loads, stores and fetches of privileged contexts and by peer and host accesses. Safe: the machine stops. -/
  | deviceRegisterPage
  deriving DecidableEq, Repr

/-- What a step answers. -/
abbrev Out := Host.Outcome State Fault Refusal

/-- The machine right after power-on reset: every unit at the reset value of the spec, or at the value that the assumption
log names; memory with nothing listed; DEV_STATE 0, before bring-up (R439). -/
def State.reset : State := {}

end Sys2Proof.Machine
end

