-- ==== Sys2Proof/Machine/Access.lean ====
section
/-! DEFINITION. Small reads and updates of the state's tables, and the arithmetic of places (R13, R14, R22). -/

namespace Sys2Proof.Machine

/-! ### Places -/

/-- The tower of a core (R13). -/
def towerOf (core : Nat) : Nat := core / 48
/-- The district of a core: row y of tower t is district 8t + y (R22). -/
def districtOf (core : Nat) : Nat := core / 6
/-- The terrace of a district (R22). -/
def terraceOf (district : Nat) : Nat := district / 2

/-! ### Lane sets -/

/-- Every lane. -/
def allLanes : Mask := BitVec.allOnes 64
/-- The lanes of a set, rising. -/
def lanesOf (m : Mask) : List Nat := (List.range 64).filter (fun l => m.getLsbD l)
/-- The lowest lane of a set. -/
def lowLane (m : Mask) : Option Nat := (lanesOf m).head?
/-- The set of one lane. -/
def laneBit (l : Nat) : Mask := BitVec.ofNat 64 (2 ^ l)
/-- The set of a list of lanes. -/
def maskOf (l : List Nat) : Mask := l.foldl (fun m x => m ||| laneBit x) 0
/-- The lanes of a set that satisfy p. -/
def laneFilter (m : Mask) (p : Nat → Bool) : Mask := maskOf ((lanesOf m).filter p)
/-- m without n. -/
def minus (m n : Mask) : Mask := m &&& ~~~n
/-- The quads of a set (R277). -/
def quads (m : Mask) : List Nat := (List.range 16).filter (fun q => (lanesOf m).any (fun l => l / 4 == q))

/-! ### Tables of the state -/

def State.grp (s : State) (g : Nat) : Group := (KMap.find? s.groups g).getD {}
def State.setGrp (s : State) (g : Nat) (x : Group) : State := { s with groups := KMap.insert s.groups g x }
def State.modGrp (s : State) (g : Nat) (f : Group → Group) : State := { s with groups := KMap.modify s.groups g f }
def State.team (s : State) (t : Nat) : Team := (KMap.find? s.teams t).getD {}
def State.setTeam (s : State) (t : Nat) (x : Team) : State := { s with teams := KMap.insert s.teams t x }
def State.modTeam (s : State) (t : Nat) (f : Team → Team) : State := { s with teams := KMap.modify s.teams t f }
def State.phase (s : State) (p : Nat) : Phase := (KMap.find? s.phases p).getD {}
def State.modPhase (s : State) (p : Nat) (f : Phase → Phase) : State := { s with phases := KMap.modify s.phases p f }
def State.ctx (s : State) (c : Nat) : Ctx := KMap.getD s.ctxs {} c
def State.setCtx (s : State) (c : Nat) (x : Ctx) : State := { s with ctxs := KMap.setD s.ctxs {} c x }
def State.modCtx (s : State) (c : Nat) (f : Ctx → Ctx) : State := s.setCtx c (f (s.ctx c))
def State.core (s : State) (c : Nat) : CoreSt := KMap.getD s.cores {} c
def State.modCore (s : State) (c : Nat) (f : CoreSt → CoreSt) : State :=
  { s with cores := KMap.setD s.cores {} c (f (s.core c)) }
def State.district (s : State) (d : Nat) : District := KMap.getD s.pwr.districts {} d
def State.modDistrict (s : State) (d : Nat) (f : District → District) : State :=
  { s with pwr := { s.pwr with districts := KMap.setD s.pwr.districts {} d (f (s.district d)) } }
def State.modCmd (s : State) (c : Nat) (f : Cmd → Cmd) : State := { s with cmds := KMap.modify s.cmds c f }
def State.modOp (s : State) (o : Nat) (f : Op → Op) : State := { s with ops := KMap.modify s.ops o f }
def State.layer (s : State) (c m l : Nat) : Layer := KMap.getD (s.ctx c).layers {} (m * 65536 + l)
def State.setLayer (s : State) (c m l : Nat) (x : Layer) : State :=
  s.modCtx c (fun k => { k with layers := KMap.setD k.layers {} (m * 65536 + l) x })

/-- The team of a group, and its phase. -/
def State.teamOf (s : State) (g : Nat) : Team := s.team (s.grp g).team
def State.phaseOf (s : State) (g : Nat) : Phase := s.phase (s.teamOf g).phase
/-- The core a group's team stands on. -/
def State.coreOf (s : State) (g : Nat) : Nat := (s.teamOf g).core
/-- The counter of a core (R7): it runs by itself, and stands still while its clock is stopped (R426). -/
def CoreSt.now (k : CoreSt) (cycle : Nat) : Nat := (k.clock + (if k.clockOn then cycle - k.clockAt else 0)) % 2 ^ 64
/-- The counter of a core of the state. -/
def State.clock (s : State) (core : Nat) : Nat := (s.core core).now s.cycle
/-- The counter of another unit (R7). -/
def State.now (s : State) (u : Timer) : Nat := s.cycle + KMap.getD s.timers 0 u.key

/-- The groups of a team, by identifier. -/
def State.groupsOf (s : State) (t : Nat) : List (Nat × Group) := s.groups.filter (fun e => e.2.team == t)
/-- The groups of a context. -/
def State.groupsOfCtx (s : State) (c : Nat) : List (Nat × Group) := s.groups.filter (fun e => e.2.ctx == c)
/-- The in-flight instructions of a group. -/
def State.opsOf (s : State) (g : Nat) : List (Nat × Op) := s.ops.filter (fun e => e.2.gid == g)
/-- The accepted commands of a team. -/
def State.cmdsOf (s : State) (t : Nat) : List (Nat × Cmd) := s.cmds.filter (fun e => e.2.team == t)
/-- The teams of a phase's cluster. -/
def State.clusterTeams (s : State) (p c : Nat) : List (Nat × Team) :=
  s.teams.filter (fun e => e.2.phase == p && e.2.cluster == c)

/-! ### Entries -/

/-- The entry that holds a lane. -/
def Group.entryAt (g : Group) (lane : Nat) : Option Entry := g.entries.find? (fun e => e.mask.getLsbD lane)

/-- Change the entry that holds a lane. -/
def Group.modEntry (g : Group) (lane : Nat) (f : Entry → Entry) : Group :=
  { g with entries := g.entries.map (fun e => if e.mask.getLsbD lane then f e else e) }

/-- A wait after lanes have left its entry: WAITA no longer tests them (R272). -/
def Wait.drop (m : Mask) : Wait → Wait
  | .waita f since tests => .waita f since (tests.filter (fun t => !m.getLsbD t.1))
  | w => w

/-- Take lanes out of every entry; an entry without lanes ends (R278). -/
def Group.dropLanes (g : Group) (m : Mask) : Group :=
  let left := g.entries.map (fun e => { e with mask := minus e.mask m, wait := e.wait.drop m })
  { g with entries := left.filter (fun e => e.mask != 0) }

/-- Lanes that have not exited. -/
def Group.live (g : Group) : Mask := minus allLanes g.exited

/-- The address of the word after an entry's word, and the clause it lies in: after the last word of a clause, the next
header, which is yet to start (R69). -/
def Entry.advance (e : Entry) : Entry :=
  let next := { e with pc := e.pc + 8, wait := .none, retry := 0, held := none, governed := false }
  match e.clause with
  | some c => if e.pc + 8 ≥ c.hdr + 8 + 8 * c.words.length then { next with clause := none } else next
  | none => next

/-- The word at an entry's PC, from the clause it executes. -/
def Entry.word (e : Entry) : Nat :=
  match e.clause with
  | some c => c.words.getD ((e.pc - c.hdr) / 8 - 1) 0
  | none => 0

/-- Cycles of the core's counter for which the governor has held the entry's MXA and which the group has not counted yet (R424). -/
def Entry.heldCycles (e : Entry) (now : Nat) : Nat :=
  match e.held with
  | some (since, until_) => min now until_ - since
  | none => 0

/-- The entry is parked. -/
def Entry.isParked (e : Entry) : Bool :=
  match e.wait with
  | .parked _ => true
  | _ => false

/-- Two entries merge where PC and PRIO are equal, neither is parked, and both or neither are in handler mode (R280). -/
def Entry.same (a b : Entry) : Bool :=
  a.pc == b.pc && a.prio == b.prio && a.handler == b.handler && a.clause.isSome == b.clause.isSome && !a.isParked &&
    !b.isParked

/-- The merged entry. Where one of the two already waits at the word and the other does not wait with it, the word issues
again for both, and counts for the lanes that had not issued it (R276). The governor holds its MXA on (R424). -/
def Entry.merge (a b : Entry) : Entry :=
  { a with
    mask := a.mask ||| b.mask, retry := a.retry ||| b.retry, held := a.held.or b.held, governed := a.governed || b.governed
    wait := if a.wait = b.wait then a.wait else .none }

/-- Put an entry into a frontier, merging it with the first entry it equals. -/
def mergeInto (e : Entry) : List Entry → List Entry
  | [] => [e]
  | x :: l => if x.same e then x.merge e :: l else x :: mergeInto e l

/-- Regang: merge every pair that R280 merges. -/
def Group.regang (g : Group) : Group := { g with entries := g.entries.foldl (fun l e => mergeInto e l) [] }

/-- Every lane of the list reads the same default 0 unless written. -/
def Group.vGet (g : Group) (r l : Nat) : Word := KMap.getD g.v 0 (r * 64 + l)
def Group.vSet (g : Group) (r l : Nat) (x : Word) : Group :=
  { g with v := KMap.setD g.v 0 (r * 64 + l) x,
           vpoison := KMap.setD g.vpoison 0 r (minus (KMap.getD g.vpoison 0 r) (laneBit l)) }
def Group.kGet (g : Group) (r l : Nat) : Word := KMap.getD g.kerb 0 (r * 64 + l)
def Group.kValid (g : Group) (r l : Nat) : Bool := (KMap.find? g.kerb (r * 64 + l)).isSome
def Group.kSet (g : Group) (r l : Nat) (x : Word) : Group := { g with kerb := KMap.insert g.kerb (r * 64 + l) x }
def Group.sGet (g : Group) (r : Nat) : Word64 := KMap.getD g.s 0 r
def Group.sSet (g : Group) (r : Nat) (x : Word64) : Group := { g with s := KMap.setD g.s 0 r x }
def Group.pGet (g : Group) (r : Nat) : Mask := KMap.getD g.p 0 r
def Group.pSet (g : Group) (r : Nat) (x : Mask) : Group := { g with p := KMap.setD g.p 0 r x }
/-- Write predicate r in the lanes of m with the bits of x. -/
def Group.pWrite (g : Group) (r : Nat) (m x : Mask) : Group := g.pSet r (minus (g.pGet r) m ||| (x &&& m))

end Sys2Proof.Machine
end

