-- ==== Sys2Proof/Machine/Place.lean ====
section
/-! DEFINITION. A group placed as the Forecourt would place it, whose first entry is about to issue one given word: what stands for
the load and the launch of a program of one word (log entry 1). -/

namespace Sys2Proof.Machine

/-- A plain clause header of n words with no flags: KIND 0, SETA and SETB none (R70). -/
def plainHeader (n : Nat) : Nat := n * 2 ^ 60 + 0xFF * 2 ^ 40

/-- One group of one team on core 0, inside a strand, at the first word of a clause that holds the word w alone. Its team has 16
tiles and 3 regions; its context 0 is active and privileged; its quarter's pipe holds its reservation. -/
def State.placeWord (s : State) (nbits w : Nat) : State :=
  let word := w % 2 ^ nbits % 2 ^ 64
  let g : Group := {
    regs := 256, active := true, outside := 0,
    entries := [{ pc := 8, prio := 0, mask := allLanes, clause := some ⟨0, plainHeader 1, [word]⟩ }]
    entryPc := (List.range 64).map (fun l => (l, 0)), entryPrio := (List.range 64).map (fun l => (l, 0)) }
  let sched : Sched := { tiles := 16, accr := 3, groups := 1, regs := 256 }
  { s with
    groups := KMap.insert s.groups 0 g
    teams := KMap.insert s.teams 0 { phase := 0 }
    phases := KMap.insert s.phases 0 { teams := 1, placedTeams := 1, sched := sched, record := { codeExt := 16, teams := 1 } }
    ctxs := KMap.insert s.ctxs 0 { s.ctx 0 with st := .active, flags := 2 }
    cores := KMap.insert s.cores 0 { s.core 0 with resident := [0], running := some 0, pipes := [(0, 0)] }
    agenda := [.issue 0] }

end Sys2Proof.Machine
end

