-- ==== Sys2Proof/Machine/Num.lean ====
section
/-! DEFINITION. Floating-point formats, exact values and the rounding helpers (R46-R51, R131, R149-R155). -/

namespace Sys2Proof

/-- The floating-point formats (R46). -/
inductive FFmt where
  | f32 | f16 | bf16
  deriving DecidableEq, Repr

namespace FFmt
/-- Fraction bits (R46). -/
def fbits : FFmt → Nat
  | f32 => 23 | f16 => 10 | bf16 => 7
/-- Exponent bits (R46). -/
def ebits : FFmt → Nat
  | f32 => 8 | f16 => 5 | bf16 => 8
/-- Width in bits. -/
def width : FFmt → Nat
  | f32 => 32 | f16 => 16 | bf16 => 16
/-- Exponent bias (R46). -/
def bias : FFmt → Int
  | f32 => 127 | f16 => 15 | bf16 => 127
/-- Least exponent (R46). -/
def emin (f : FFmt) : Int := 1 - f.bias
/-- Precision (R46). -/
def prec (f : FFmt) : Nat := f.fbits + 1
/-- Exponent field of all ones, zero fraction: the bits of +infinity. -/
def infBits (f : FFmt) : Nat := (2 ^ f.ebits - 1) * 2 ^ f.fbits
/-- The sign bit. -/
def signBit (f : FFmt) : Nat := 2 ^ (f.width - 1)
/-- The canonical quiet NaN (R47). -/
def canonNan (f : FFmt) : Nat := f.infBits + 2 ^ (f.fbits - 1)
/-- The bits of the largest finite value (R46). -/
def largestBits (f : FFmt) : Nat := f.infBits - 1
end FFmt

/-- The rounding modes (R49). -/
inductive RMode where
  | rn | rz | rd | ru
  deriving DecidableEq, Repr

/-- The 2-bit rounding codes (R49). -/
def RMode.ofCode (c : Nat) : RMode :=
  match c % 4 with
  | 0 => .rn | 1 => .rz | 2 => .rd | _ => .ru

/-- A floating-point datum: NaN, a signed infinity, or (-1)^neg * m * 2^e exactly; m = 0 is a signed zero. -/
inductive FVal where
  | nan
  | inf (neg : Bool)
  | fin (neg : Bool) (m : Nat) (e : Int)
  deriving DecidableEq, Repr

/-- The value that the bits x hold in format f (R46, R47). -/
def FFmt.value (f : FFmt) (x : Nat) : FVal :=
  let neg := bitOf x (f.width - 1)
  let ex := bitsOf x (f.width - 2) f.fbits
  let fr := x % 2 ^ f.fbits
  if ex = 2 ^ f.ebits - 1 then (if fr = 0 then .inf neg else .nan)
  else if ex = 0 then .fin neg fr (f.emin - f.fbits)
  else .fin neg (fr + 2 ^ f.fbits) ((ex : Int) - f.bias - f.fbits)

/-- Whether the bits x hold a NaN in format f. -/
def FFmt.isNan (f : FFmt) (x : Nat) : Bool :=
  match f.value x with
  | .nan => true
  | _ => false

/-- floor(log2(num / den)) for positive num and den. -/
def ilog2Q (num den : Nat) : Int :=
  let e := (Nat.log2 num : Int) - Nat.log2 den
  let ge := if e ≥ 0 then decide (num ≥ den * 2 ^ e.toNat) else decide (num * 2 ^ (-e).toNat ≥ den)
  if ge then e else e - 1

/-- Rounds the magnitude a / b (a quotient q and a remainder) to an integer under mode m, with the sign neg of the
whole value (R50). -/
def roundQuot (m : RMode) (neg : Bool) (a b : Nat) : Nat :=
  let q := a / b
  let r := a % b
  if r = 0 then q
  else match m with
    | .rn => if 2 * r > b || (2 * r == b && q % 2 == 1) then q + 1 else q
    | .rz => q
    | .rd => if neg then q + 1 else q
    | .ru => if neg then q else q + 1

/-- Whether an overflow of sign neg goes to infinity under mode m (R50). -/
def overflowsToInf (m : RMode) (neg : Bool) : Bool :=
  match m with
  | .rn => true
  | .rz => false
  | .rd => neg
  | .ru => !neg

/-- `rnd` of the nonzero real (-1)^neg * num / den to format f under mode m, as bits (R50). -/
def rndQ (f : FFmt) (m : RMode) (neg : Bool) (num den : Nat) : Nat :=
  let sign := if neg then f.signBit else 0
  if num = 0 then sign
  else
    let e := max (ilog2Q num den) f.emin
    let qe := e - f.fbits
    let k := if qe ≥ 0 then roundQuot m neg num (den * 2 ^ qe.toNat) else roundQuot m neg (num * 2 ^ (-qe).toNat) den
    let bits := k + (e + f.bias - 1).toNat * 2 ^ f.fbits
    if bits ≥ f.infBits then sign + (if overflowsToInf m neg then f.infBits else f.largestBits)
    else sign + bits

/-- `rnd` of an exact value to format f under mode m, as bits; NaN results are canonical (R47, R50, R131). -/
def FFmt.rnd (f : FFmt) (m : RMode) : FVal → Nat
  | .nan => f.canonNan
  | .inf neg => (if neg then f.signBit else 0) + f.infBits
  | .fin neg k e =>
    if k = 0 then (if neg then f.signBit else 0)
    else if e ≥ 0 then rndQ f m neg (k * 2 ^ e.toNat) 1
    else rndQ f m neg k (2 ^ (-e).toNat)

/-- `rnd` of (-1)^neg * num / den to an integer (R50, integer formats). -/
def rndIntQ (m : RMode) (neg : Bool) (num den : Nat) : Int :=
  let k := roundQuot m neg num den
  if neg then -(k : Int) else k

/-- `rnd` of (-1)^neg * k * 2^e to an integer (R50). -/
def rndIntFin (m : RMode) (neg : Bool) (k : Nat) (e : Int) : Int :=
  if e ≥ 0 then (if neg then -((k * 2 ^ e.toNat : Nat) : Int) else ((k * 2 ^ e.toNat : Nat) : Int))
  else rndIntQ m neg k (2 ^ (-e).toNat)

namespace FVal

/-- The value with its sign inverted. -/
def neg : FVal → FVal
  | .nan => .nan
  | .inf s => .inf (!s)
  | .fin s m e => .fin (!s) m e

/-- The exact value of an integer. -/
def ofInt (x : Int) : FVal := .fin (decide (x < 0)) x.natAbs 0

/-- The exact product; infinity times zero is an invalid operation (R131, R150). -/
def mul : FVal → FVal → FVal
  | .nan, _ => .nan
  | _, .nan => .nan
  | .inf a, .inf b => .inf (a != b)
  | .inf a, .fin b m _ => if m = 0 then .nan else .inf (a != b)
  | .fin a m _, .inf b => if m = 0 then .nan else .inf (a != b)
  | .fin a m e, .fin b k g => .fin (a != b) (m * k) (e + g)

/-- The sign of a value: true for negative. -/
def isNeg : FVal → Bool
  | .nan => false
  | .inf s => s
  | .fin s _ _ => s

/-- A zero of either sign. -/
def isZero : FVal → Bool
  | .fin _ m _ => m == 0
  | _ => false

/-- NaN. -/
def isNan : FVal → Bool
  | .nan => true
  | _ => false

/-- The infinity of sign s. -/
def isInf (s : Bool) : FVal → Bool
  | .inf t => s == t
  | _ => false

/-- The exponent of the value's unit; zeros and specials give 0. -/
def expo : FVal → Int
  | .fin _ _ e => e
  | _ => 0

/-- The value as a signed integer in units of 2^u, for u at or below its exponent. -/
def scaledTo (u : Int) : FVal → Int
  | .fin s m e =>
    let k : Int := ((m * 2 ^ (e - u).toNat : Nat) : Int)
    if s then -k else k
  | _ => 0

/-- The exact sum of a list of terms under mode m (R51, R131, R150, R158): a NaN or infinities of both signs give NaN;
an exact zero takes the terms' common sign if all are zeros of one sign, and else is -0 under rd and +0 otherwise. -/
def sum (m : RMode) (ts : List FVal) : FVal :=
  if ts.any isNan || (ts.any (isInf true) && ts.any (isInf false)) then .nan
  else if ts.any (isInf true) then .inf true
  else if ts.any (isInf false) then .inf false
  else
    let u : Int := ts.foldl (fun (u : Int) t => min u t.expo) 0
    let k : Int := ts.foldl (fun (k : Int) t => k + t.scaledTo u) 0
    if k = 0 then
      if ts.all (fun t => t.isZero && t.isNeg) then .fin true 0 0
      else if ts.all (fun t => t.isZero && !t.isNeg) then .fin false 0 0
      else .fin (decide (m = .rd)) 0 0
    else .fin (decide (k < 0)) k.natAbs u

/-- Exact comparison of two values that are not NaN; zeros of either sign are equal (R179). -/
def cmp : FVal → FVal → Ordering
  | .inf true, .inf true => .eq
  | .inf true, _ => .lt
  | _, .inf true => .gt
  | .inf false, .inf false => .eq
  | .inf false, _ => .gt
  | _, .inf false => .lt
  | a, b =>
    let u := min a.expo b.expo
    compare (a.scaledTo u) (b.scaledTo u)

end FVal

/-! ### The instructions' exact results -/

/-- minimumNumber of IEEE 754-2019 on bits: a NaN operand is ignored, -0 orders below +0 (R51, R151). -/
def FFmt.minNum (f : FFmt) (a b : Nat) : Nat :=
  let x := f.value a
  let y := f.value b
  if x.isNan then (if y.isNan then f.canonNan else b)
  else if y.isNan then a
  else match x.cmp y with
    | .lt => a
    | .gt => b
    | .eq => if x.isNeg then a else b

/-- maximumNumber of IEEE 754-2019 on bits (R51, R151). -/
def FFmt.maxNum (f : FFmt) (a b : Nat) : Nat :=
  let x := f.value a
  let y := f.value b
  if x.isNan then (if y.isNan then f.canonNan else b)
  else if y.isNan then a
  else match x.cmp y with
    | .lt => b
    | .gt => a
    | .eq => if x.isNeg then b else a

/-- A + B (R149). -/
def FFmt.add (f : FFmt) (m : RMode) (a b : Nat) : Nat := f.rnd m (FVal.sum m [f.value a, f.value b])
/-- A - B (R149). -/
def FFmt.sub (f : FFmt) (m : RMode) (a b : Nat) : Nat := f.rnd m (FVal.sum m [f.value a, (f.value b).neg])
/-- A * B (R149). -/
def FFmt.mul (f : FFmt) (m : RMode) (a b : Nat) : Nat := f.rnd m ((f.value a).mul (f.value b))
/-- A * B + C, rounded once (R149, R150). -/
def FFmt.fma (f : FFmt) (m : RMode) (a b c : Nat) : Nat :=
  f.rnd m (FVal.sum m [(f.value a).mul (f.value b), f.value c])
/-- A with its sign bit cleared; a NaN becomes canonical (R151). -/
def FFmt.absv (f : FFmt) (a : Nat) : Nat := if f.isNan a then f.canonNan else a % f.signBit
/-- A with its sign bit inverted; a NaN becomes canonical (R151). -/
def FFmt.negv (f : FFmt) (a : Nat) : Nat := if f.isNan a then f.canonNan else a ^^^ f.signBit

/-- A / B (R152, R153). -/
def FFmt.div (f : FFmt) (m : RMode) (a b : Nat) : Nat :=
  match f.value a, f.value b with
  | .nan, _ => f.canonNan
  | _, .nan => f.canonNan
  | .inf _, .inf _ => f.canonNan
  | .inf s, .fin t _ _ => f.rnd m (.inf (s != t))
  | .fin s _ _, .inf t => f.rnd m (.fin (s != t) 0 0)
  | .fin s j e, .fin t k g =>
    if k = 0 then (if j = 0 then f.canonNan else f.rnd m (.inf (s != t)))
    else if j = 0 then f.rnd m (.fin (s != t) 0 0)
    else if e - g ≥ 0 then rndQ f m (s != t) (j * 2 ^ (e - g).toNat) k
    else rndQ f m (s != t) j (k * 2 ^ (g - e).toNat)

/-- Integer square root by bits, from bit n down. -/
def isqrtFrom (x : Nat) : Nat → Nat → Nat
  | 0, r => if (r + 1) * (r + 1) ≤ x then r + 1 else r
  | n + 1, r => isqrtFrom x n (if (r + 2 ^ (n + 1)) * (r + 2 ^ (n + 1)) ≤ x then r + 2 ^ (n + 1) else r)

/-- Integer square root. -/
def isqrt (x : Nat) : Nat := isqrtFrom x (Nat.log2 x / 2) 0

/-- sqrt(num / den) rounded to f (num, den positive): the root of num / den * 2^(2k) is taken as an integer, and a
half unit is added to it where it is not exact, so that every rounding sees the right side. -/
def sqrtQ (f : FFmt) (m : RMode) (num den : Nat) : Nat :=
  let k := Nat.log2 den + 2 * f.prec + 8
  let n := num * 2 ^ (2 * k)
  let s := isqrt (n / den)
  let odd := if s * s * den = n then 0 else 1
  rndQ f m false (2 * s + odd) (2 * 2 ^ k)

/-- The square root (R152, R153). -/
def FFmt.sqrt (f : FFmt) (m : RMode) (a : Nat) : Nat :=
  match f.value a with
  | .nan => f.canonNan
  | .inf s => if s then f.canonNan else f.infBits
  | .fin s j e =>
    if j = 0 then a
    else if s then f.canonNan
    else if e ≥ 0 then sqrtQ f m (j * 2 ^ e.toNat) 1
    else sqrtQ f m j (2 ^ (-e).toNat)

/-- 1 / A (R152, R153). -/
def FFmt.rcp (f : FFmt) (m : RMode) (a : Nat) : Nat :=
  match f.value a with
  | .nan => f.canonNan
  | .inf s => f.rnd m (.fin s 0 0)
  | .fin s j e =>
    if j = 0 then f.rnd m (.inf s)
    else if e ≥ 0 then rndQ f m s 1 (j * 2 ^ e.toNat)
    else rndQ f m s (2 ^ (-e).toNat) j

/-- 1 / sqrt(A) (R152, R153). -/
def FFmt.rsq (f : FFmt) (m : RMode) (a : Nat) : Nat :=
  match f.value a with
  | .nan => f.canonNan
  | .inf s => if s then f.canonNan else 0
  | .fin s j e =>
    if j = 0 then f.rnd m (.inf s)
    else if s then f.canonNan
    else if e ≥ 0 then sqrtQ f m 1 (j * 2 ^ e.toNat)
    else sqrtQ f m (2 ^ (-e).toNat) j

/-- A rounded to an integral value of the same format (R154). -/
def FFmt.integral (f : FFmt) (m : RMode) (a : Nat) : Nat :=
  match f.value a with
  | .nan => f.canonNan
  | .inf _ => a
  | .fin s j e =>
    if j = 0 || e ≥ 0 then a
    else f.rnd .rn (.fin s (rndIntFin m s j e).natAbs 0)

/-- A - FFLR(A) rounded towards zero (R155). -/
def FFmt.frc (f : FFmt) (a : Nat) : Nat :=
  match f.value a with
  | .nan => f.canonNan
  | .inf _ => f.canonNan
  | .fin s j e =>
    if j = 0 then a
    else
      let fl := rndIntFin .rd s j e
      let d := FVal.sum .rn [.fin s j e, (FVal.ofInt fl).neg]
      if d.isZero then 0 else f.rnd .rz d

/-- The one-hot class of A (R156). -/
def FFmt.classOf (f : FFmt) (a : Nat) : Nat :=
  let fr := a % 2 ^ f.fbits
  match f.value a with
  | .nan => if bitOf fr (f.fbits - 1) then 2 ^ 9 else 2 ^ 8
  | .inf s => if s then 2 ^ 0 else 2 ^ 7
  | .fin s m _ =>
    if m = 0 then (if s then 2 ^ 3 else 2 ^ 4)
    else if m < 2 ^ f.fbits then (if s then 2 ^ 2 else 2 ^ 5)
    else (if s then 2 ^ 1 else 2 ^ 6)

/-- A * 2^n, rounded (R157). -/
def FFmt.scale (f : FFmt) (m : RMode) (a : Nat) (n : Int) : Nat :=
  match f.value a with
  | .fin s j e =>
    -- beyond 1,000 binades the rounding of a nonzero value no longer depends on n
    f.rnd m (.fin s j (e + max (-1000) (min 1000 n)))
  | v => f.rnd m v

/-- floor(log2(abs A)) as 32 bits (R157). -/
def FFmt.getExp (f : FFmt) (a : Nat) : Nat :=
  match f.value a with
  | .fin _ j e => if j = 0 then 0x80000000 else wrapNat 32 ((Nat.log2 j : Int) + e)
  | _ => 0x7FFFFFFF

/-- The f32 sum a0*b0 + a1*b1 + C of element format f, rounded once (R158). -/
def fdot2 (f : FFmt) (m : RMode) (a b c : Nat) : Nat :=
  let el (x : Nat) (i : Nat) := f.value (bitsOf x (16 * i + 15) (16 * i))
  FFmt.f32.rnd m (FVal.sum m [(el a 0).mul (el b 0), (el a 1).mul (el b 1), FFmt.f32.value c])

/-- The condition codes of FCMP (R179). -/
def FFmt.compareCode (f : FFmt) (code : Nat) (a b : Nat) : Bool :=
  let x := f.value a
  let y := f.value b
  let un := x.isNan || y.isNan
  match code with
  | 0 => !un && x.cmp y == .eq
  | 1 => un || x.cmp y != .eq
  | 2 => !un && x.cmp y == .lt
  | 3 => !un && x.cmp y != .gt
  | 4 => !un && x.cmp y == .gt
  | 5 => !un && x.cmp y != .lt
  | 6 => !un
  | _ => un

/-- `satn`: clamp to the range of an integer format of width w (R58). -/
def satn (signed : Bool) (w : Nat) (x : Int) : Int :=
  let lo : Int := if signed then -((2 ^ (w - 1) : Nat) : Int) else 0
  let hi : Int := if signed then ((2 ^ (w - 1) : Nat) : Int) - 1 else ((2 ^ w : Nat) : Int) - 1
  min (max x lo) hi

/-- A floating-point datum converted to an integer format: towards zero and saturating; NaN gives 0 (R161). -/
def FVal.toIntSat (m : RMode) (signed : Bool) (w : Nat) : FVal → Int
  | .nan => 0
  | .inf s => satn signed w (if s then -((2 ^ 80 : Nat) : Int) else ((2 ^ 80 : Nat) : Int))
  | .fin s j e => satn signed w (rndIntFin m s j e)

end Sys2Proof
end

