-- ==== Sys2Proof/Machine/Narrow.lean ====
section
/-! DEFINITION. Narrow formats, the matrix accumulation helpers and exact sums (R52-R68). -/

namespace Sys2Proof

/-- `trit`: decode a T2 code, with its BADDIGIT indication (R52). -/
def trit (c : Nat) : Int × Bool :=
  match c % 4 with
  | 0 => (0, false)
  | 1 => (1, false)
  | 3 => (-1, false)
  | _ => (0, true)

/-- The T2 code of a trit value (R52). -/
def tritCode (v : Int) : Nat := if v = 0 then 0 else if v > 0 then 1 else 3

/-- Digit d of a T5B byte: its trit, and whether the byte is bad (R53, R54). -/
def t5bDigit (byte d : Nat) : Int × Bool :=
  if byte ≥ 243 then (0, true)
  else match (byte / 3 ^ d) % 3 with
    | 0 => (0, false)
    | 1 => (1, false)
    | _ => (-1, false)

/-- The base-3 digit of a trit (R53). -/
def tritDigit (v : Int) : Nat := if v = 0 then 0 else if v > 0 then 1 else 2

/-- The T5B byte of five trits, the first least significant (R53). -/
def t5bEncode (ts : List Int) : Nat :=
  ts.foldr (fun v acc => tritDigit v + 3 * acc) 0

/-- `booth4`: the radix-4 digits of a 2n-bit two's complement integer (R57). -/
def booth4 (a : Int) (n : Nat) : List Int :=
  let x := wrapNat (2 * n) a
  let b (i : Nat) : Int := if bitOf x i then 1 else 0
  (List.range n).map fun p =>
    -2 * b (2 * p + 1) + b (2 * p) + (if p = 0 then 0 else b (2 * p - 1))

/-- `sat24` (R58). -/
def sat24 (x : Int) : Int × Bool :=
  if x > 8388607 then (8388607, true)
  else if x < -8388607 then (-8388607, true)
  else (x, false)

/-- The value significand and exponent of an accumulator entry: SIG and EXP (R60). -/
def accSig (e : Word64) : Int := signedOf 56 (e.toNat / 256)
/-- The exponent byte of an accumulator entry (R60). -/
def accExp (e : Word64) : Nat := e.toNat % 256
/-- A poisoned entry (R60). -/
def accPoisoned (e : Word64) : Bool := accExp e == 255
/-- An entry from its significand and exponent (R60). -/
def accEntry (sig : Int) (ex : Nat) : Word64 := BitVec.ofNat 64 (wrapNat 56 sig * 256 + ex)

/-- The integer rounding, ties to even, of k * 2^u / 2^(e - 128) (R61). -/
def promoteSig (k : Int) (u : Int) (e : Nat) : Int :=
  rndIntFin .rn (decide (k < 0)) k.natAbs (u - ((e : Int) - 128))

/-- `promote`: add a narrow sum P with block exponent b into an entry (R61). -/
def promote (acc : Word64) (p : Int) (b : Int) : Word64 × Bool :=
  if accPoisoned acc then (acc, false)
  else
    let ea := (accExp acc : Int) - 128
    let u := min ea b
    let k := accSig acc * ((2 ^ (ea - u).toNat : Nat) : Int) + p * ((2 ^ (b - u).toNat : Nat) : Int)
    match (List.range 255).find? (fun e =>
        let m := promoteSig k u e
        decide (-((2 ^ 55 : Nat) : Int) ≤ m) && decide (m ≤ ((2 ^ 55 : Nat) : Int) - 1)) with
    | some e => (accEntry (promoteSig k u e) e, false)
    | none => (accEntry (if k > 0 then ((2 ^ 55 : Nat) : Int) - 1 else -(((2 ^ 55 : Nat) : Int) - 1)) 254, true)

/-- `exactsum`: add one f32 into a long-sum line of 512 bits (R65, R66). -/
def exactsum (line : Nat) (x : Nat) : Nat :=
  match FFmt.f32.value x with
  | .nan => line ||| 2 ^ 322
  | .inf s => if s then line ||| 2 ^ 321 else line ||| 2 ^ 320
  | .fin s m e =>
    let k := m * 2 ^ (e + 149).toNat
    let sum := line % 2 ^ 320
    let sum' := if s then (sum + 2 ^ 320 - k % 2 ^ 320) % 2 ^ 320 else (sum + k) % 2 ^ 320
    line / 2 ^ 320 * 2 ^ 320 + sum'

/-- The f32 value that HFETCH reads from a long-sum line (R67). -/
def longSumValue (line : Nat) : Nat :=
  let nan := bitOf line 322
  let ninf := bitOf line 321
  let pinf := bitOf line 320
  if nan || (pinf && ninf) then FFmt.f32.canonNan
  else if pinf then FFmt.f32.infBits
  else if ninf then FFmt.f32.signBit + FFmt.f32.infBits
  else
    let k := signedOf 320 line
    if k = 0 then 0 else FFmt.f32.rnd .rn (.fin (decide (k < 0)) k.natAbs (-149))

/-- The narrow operand types (R56, R63). -/
inductive NTy where
  | t2 | t5b | i4 | i8 | q4 | q8
  deriving DecidableEq, Repr

/-- The type codes of format slots and tiles (R63). -/
def NTy.ofCode : Nat → Option NTy
  | 0 => some .t2 | 1 => some .t5b | 2 => some .i4 | 3 => some .i8 | 4 => some .q4 | 5 => some .q8
  | _ => none

/-- Digit planes of an A type (R56, R57). -/
def NTy.planes : NTy → Nat
  | .t2 => 1 | .t5b => 1 | .i4 => 2 | .q4 => 2 | .i8 => 4 | .q8 => 4

/-- Whether the type's blocks carry scales (R55). -/
def NTy.scaled : NTy → Bool
  | .q4 => true | .q8 => true | _ => false

/-- The integer range that CVQ clamps to (R163). -/
def NTy.range : NTy → Int × Int
  | .i8 => (-128, 127) | .q8 => (-128, 127)
  | .i4 => (-8, 7) | .q4 => (-8, 7)
  | .t2 => (-1, 1) | .t5b => (-1, 1)

/-- The pairs of R56, with the meter each counts in (R240, R392). -/
def pairMeter : NTy → NTy → Option Nat
  | .t2, .i8 => some 0
  | .t5b, .i8 => some 0
  | .i4, .i8 => some 1
  | .i8, .i8 => some 2
  | .q8, .q8 => some 3
  | .q4, .q8 => some 4
  | _, _ => none

/-- The output types of a format slot (R63). -/
inductive OTy where
  | f32 | bf16 | f16 | i8 | i32
  deriving DecidableEq, Repr

/-- A decoded, valid format slot (R63, R64). -/
structure Slot where
  atype : NTy
  btype : NTy
  interval : Nat
  otype : OTy
  ornd : RMode
  osat : Bool
  deriving DecidableEq, Repr

/-- The interval codes (R63). -/
def intervalOf : Nat → Option Nat
  | 0 => some 32 | 1 => some 64 | 2 => some 128 | 3 => some 256 | 4 => some 512 | _ => none

/-- The output type codes (R63). -/
def OTy.ofCode : Nat → Option OTy
  | 0 => some .f32 | 1 => some .bf16 | 2 => some .f16 | 3 => some .i8 | 4 => some .i32 | _ => none

/-- The slot that 64 bits hold, if it is valid (R64). -/
def Slot.decode (x : Word64) : Option Slot :=
  let n := x.toNat
  match NTy.ofCode (bitsOf n 31 28), NTy.ofCode (bitsOf n 27 24), intervalOf (bitsOf n 23 21),
      OTy.ofCode (bitsOf n 15 13) with
  | some a, some b, some l, some o =>
    let st := bitsOf n 20 19
    let sc := a.scaled && b.scaled
    if bitsOf n 63 32 = 0 && bitsOf n 8 0 = 0 && decide (bitsOf n 10 9 ≤ 1)
        && (pairMeter a b).isSome
        && st == (if sc then 1 else 0)
        && bitsOf n 18 16 == (if sc then bitsOf n 23 21 else 0) then
      some ⟨a, b, l, o, RMode.ofCode (bitsOf n 12 11), bitsOf n 10 9 == 1⟩
    else none
  | _, _, _, _ => none

/-- `rne(A * 2^(127 - e))` clamped to the narrow type: the quantiser of CVQ (R163). -/
def quantise (t : NTy) (v : FVal) (e : Nat) : Int :=
  let lo := t.range.1
  let hi := t.range.2
  if e = 0 || e = 255 then 0
  else match v with
    | .nan => 0
    | .inf s => if s then lo else hi
    | .fin s m x => min (max (rndIntFin .rn s m (x + 127 - e)) lo) hi

/-- The code bits that CVQ writes (R163). -/
def narrowCode (t : NTy) (n : Int) : Nat :=
  match t with
  | .i8 => wrapNat 8 n | .q8 => wrapNat 8 n
  | .i4 => wrapNat 4 n | .q4 => wrapNat 4 n
  | .t2 => tritCode n | .t5b => tritCode n

/-- The integer that CVD reads, and its BADDIGIT (R164). -/
def narrowValue (t : NTy) (a : Nat) : Int × Bool :=
  match t with
  | .i8 => (signedOf 8 a, false) | .q8 => (signedOf 8 a, false)
  | .i4 => (signedOf 4 a, false) | .q4 => (signedOf 4 a, false)
  | .t2 => trit a | .t5b => trit a

end Sys2Proof
end

