-- ==== Sys2Proof/Machine/Forms.lean ====
section
/-! DEFINITION. The form of every instruction word (R77-R94): opcode, long-latency mark, what each operand field is, which
field values an instruction does not accept, and which bits must be zero. Decode, WellFormed and issue all read this one
table. -/

namespace Sys2Proof

/-! ### Codes of the enumerated fields -/

/-- The level code of bits [9:8] of an operand field (R24). -/
def Level.code : Level → Nat
  | .k => 0 | .v => 1 | .s => 2 | .q => 3

/-- The level of a code (R24). -/
def Level.ofCode (n : Nat) : Level :=
  match n % 4 with
  | 0 => .k | 1 => .v | 2 => .s | _ => .q

/-- The ten bits of an operand field (R24). -/
def Operand.code (o : Operand) : Nat := o.lvl.code * 256 + o.idx.toNat

/-- The operand of ten bits (R24). -/
def Operand.ofCode (n : Nat) : Operand := ⟨Level.ofCode (n / 256), BitVec.ofNat 8 n⟩

/-- The type code (R83). -/
def Ty.code : Ty → Nat
  | .i32 => 0 | .n32 => 1 | .f32 => 2 | .b32 => 3 | .i64 => 4 | .n64 => 5 | .b64 => 6 | .i16 => 7
  | .n16 => 8 | .f16 => 9 | .bf16 => 10 | .f16x2 => 11 | .bf16x2 => 12 | .i8 => 13 | .n8 => 14 | .rsv => 15

/-- The type of a code (R83). -/
def Ty.ofCode (n : Nat) : Ty :=
  match n % 16 with
  | 0 => .i32 | 1 => .n32 | 2 => .f32 | 3 => .b32 | 4 => .i64 | 5 => .n64 | 6 => .b64 | 7 => .i16
  | 8 => .n16 | 9 => .f16 | 10 => .bf16 | 11 => .f16x2 | 12 => .bf16x2 | 13 => .i8 | 14 => .n8 | _ => .rsv

/-- The register width an operand of the type has: 64 for the 64-bit types, else 32 (R33). -/
def Ty.width : Ty → Nat
  | .i64 | .n64 | .b64 => 64
  | _ => 32

/-- The packed pair types (R33). -/
def Ty.packed : Ty → Bool
  | .f16x2 | .bf16x2 => true
  | _ => false

/-- The three scalar floating-point types: the set F of the instruction chapters. -/
def Ty.isFloat : Ty → Bool
  | .f32 | .f16 | .bf16 => true
  | _ => false

/-- The signed integer types. -/
def Ty.signed : Ty → Bool
  | .i32 | .i64 | .i16 | .i8 => true
  | _ => false

/-- The bits a value of the type has (R33, R83). -/
def Ty.valueBits : Ty → Nat
  | .i64 | .n64 | .b64 => 64
  | .i16 | .n16 | .f16 | .bf16 => 16
  | .i8 | .n8 => 8
  | _ => 32

/-! ### Accessors of fields with a second reading -/

/-- The register width of a V3 word's TY. -/
def V3.w (f : V3) : Nat := f.ty.width
/-- The register width of a VI word's TY. -/
def VI.w (f : VI) : Nat := f.ty.width
/-- The access size in bits of SZ (R85); the reserved codes count as 32. -/
def szBits (sz : BitVec 3) : Nat :=
  match sz.toNat with
  | 0 => 32 | 1 => 64 | 2 => 128 | 3 => 8 | 4 => 16 | _ => 32
/-- The access size in bits. -/
def FM.bits (f : FM) : Nat := szBits f.sz
/-- AOP, bits [19:16] of an atomic (R197): the top four bits of OFF. -/
def FM.aop (f : FM) : Nat := f.off.toNat / 256
/-- OFF8, bits [15:8] of an atomic (R197), signed. -/
def FM.off8 (f : FM) : Int := signedOf 8 f.off.toNat
/-- OFF, signed (R85). -/
def FM.offS (f : FM) : Int := signedOf 12 f.off.toNat
/-- The atomic is .cas (R197). -/
def FM.isCas (f : FM) : Bool := f.aop == 9
/-- WAITA's SPM bit: bit 27, the top bit of RB (R204). -/
def FM.spm (f : FM) : Bool := f.rb.getLsbD 7
/-- WAITA's COND: bits [26:24] (R204). -/
def FM.wcond (f : FM) : Nat := bitsOf f.rb.toNat 6 4
/-- WAITA's WLIM: bits [23:20] (R204). -/
def FM.wlim (f : FM) : Nat := bitsOf f.rb.toNat 3 0
/-- ACLD and ACST's SPC, bit 49 (R224). -/
def FM.accSpm (f : FM) : Bool := f.scope.getLsbD 1
/-- HALF of ACLD and ACST, DIR of TLD and TST: bit 48 (R218, R224). -/
def FM.bit48 (f : FM) : Bool := f.scope.getLsbD 0
/-- The part of an S-format special-register access: .lo and .hi move 32 bits, .d moves 64 (R185, R208). -/
def FS.partBits (f : FS) : Nat := if f.sub.toNat % 4 = 2 then 64 else 32

/-! ### What an operand field is -/

/-- The use an instruction makes of one operand field, with the width in bits where it is a register (R24, R33, R80). -/
inductive OpK where
  /-- Must be 0x000. -/
  | unused
  /-- A source. -/
  | src (w : Nat)
  /-- A destination. -/
  | dst (w : Nat)
  /-- Read and then written: the data operand of ATOM and ATOMS (R198). -/
  | upd (w : Nat)
  /-- The V register from which MOVX and MOVXS count their index (R184). -/
  | base
  /-- A number field that names a predicate. -/
  | pred
  /-- A number field that names a tile. -/
  | tile
  /-- A number field that names an accumulator region. -/
  | region
  deriving DecidableEq, Repr

/-- What the encoding tables say of one word: its opcode, its long-latency mark, its guard and FSEL, its operand fields with
the lowest bit of each, the lowest bits of fields whose value it does not accept, and its nonzero bits that must be zero. -/
structure Info where
  op : Nat
  long : Bool
  g : Guard
  fsel : Bool
  ops : List (OpK × Operand × Nat)
  errs : List Nat
  rsv : List Nat
  deriving DecidableEq, Repr

/-- The positions of the set bits among the low w bits of n, where bit 0 of n is bit pos of the word. -/
def setBits (n w pos : Nat) : List Nat :=
  (List.range w).filterMap (fun i => if bitOf n i then some (pos + i) else none)

/-- Data width of a .cas: two operands of the width (R198). -/
def atomK (w : Nat) (cas : Bool) : OpK := .upd (if cas then 2 * w else w)

/-- The kind of a BND destination: a V register where the pair is present (R176). -/
def bndD (src dst : Operand) : OpK := if src = .zero ∧ dst = .zero then .unused else .dst 32
/-- The kind of a BND source: a kerb slot where the pair is present (R176). -/
def bndA (src dst : Operand) : OpK := if src = .zero ∧ dst = .zero then .unused else .src 32

/-! ### Field checks: each answers the lowest bits of the fields that offend -/

/-- A check that holds or offends at pos. -/
def need (ok : Bool) (pos : Nat) : List Nat := if ok then [] else [pos]

def tyI32 : List Ty := [.i32, .n32, .b32]
def tyI64 : List Ty := [.i64, .n64, .b64]
def tyS32 : List Ty := [.i32, .n32]
def tyS64 : List Ty := [.i64, .n64]
def tyF : List Ty := [.f32, .f16, .bf16]
def tyFX : List Ty := [.f32, .f16, .bf16, .f16x2, .bf16x2]

/-- TY outside the accepted codes (R83, R129). -/
def tyErr (t : Ty) (l : List Ty) : List Nat := need (decide (t ∈ l)) 52
/-- MOD must be 0 (R130). -/
def zeroErr (m : BitVec 4) : List Nat := need (m == 0) 48
/-- Only MOD[48] is defined (R130). -/
def bit0Err (m : BitVec 4) : List Nat := need (m.toNat < 2) 49
/-- MOD[49:48] is defined and MOD[51:50] is 0 (R130). -/
def rndErr (m : BitVec 4) : List Nat := need (m.toNat < 4) 50
/-- MOD[51] is 0. -/
def topErr (m : BitVec 4) : List Nat := need (m.toNat < 8) 51
/-- .sat is MOD[48], accepted with i and n codes only (R137). -/
def satErr (t : Ty) (m : BitVec 4) : List Nat :=
  need (!(m.getLsbD 0 && (t == .b32 || t == .b64))) 48 ++ bit0Err m
/-- .mix is MOD[48], accepted with i32 only (R148). -/
def mixErr (t : Ty) (m : BitVec 4) : List Nat := need (!(m.getLsbD 0 && t != .i32)) 48 ++ bit0Err m
/-- TY and MOD of the control words must be 0. -/
def ctlErr (t : Ty) (m : BitVec 4) : List Nat := tyErr t [.i32] ++ zeroErr m
/-- The word takes no guard (R167). -/
def unguardedErr (g : Guard) : List Nat := need (decide (g = .always)) 2
/-- The element width of PACK and UNPK (R165). -/
def elemErr (m : BitVec 4) : List Nat := need (m.toNat % 4 != 3) 48 ++ rndErr m

/-- The types CVT converts between (R160). -/
def tyCvt : List Ty := [.i8, .n8, .i16, .n16, .i32, .n32, .i64, .n64, .f16, .bf16, .f32]
/-- The pairs of CVT: destination t, source s (R160). -/
def cvtErr (t s : Ty) : List Nat :=
  tyErr t (tyCvt ++ [.f16x2, .bf16x2]) ++ need (decide (s ∈ tyCvt) && (!t.packed || s == .f32)) 48
/-- The conditions of ICMP (R179). -/
def icmpErr (t : Ty) (m : BitVec 4) : List Nat :=
  need (m.toNat % 8 ≤ 1 || (m.toNat % 8 ≤ 5 && t != .b32 && t != .b64)) 48 ++ topErr m
/-- The operations of LRED and the types each accepts (R188). -/
def lredErr (t : Ty) (m : BitVec 4) : List Nat :=
  (match m.toNat % 8 with
   | 0 => tyErr t [.i32, .n32, .b32, .f32]
   | 1 | 2 => tyErr t [.i32, .n32, .f32]
   | 3 | 4 | 5 => tyErr t tyI32
   | _ => [48]) ++ topErr m
/-- A base must be at level V (R184). -/
def baseErr (o : Operand) (pos : Nat) : List Nat := need (o.lvl == .v) pos
/-- The pairs of BND (R176): a present pair is kerb to V, no second pair without a first, two destinations that differ. -/
def bndErr (f : V3) : List Nat :=
  let p1 := decide (¬(f.a = .zero ∧ f.d = .zero))
  let p2 := decide (¬(f.c = .zero ∧ f.b = .zero))
  need (!p2 || (p1 && f.c.lvl == .k)) 8 ++ need (!p2 || (f.b.lvl == .v && !(p1 && f.b == f.d))) 18 ++
  need (!p1 || f.a.lvl == .k) 28 ++ need (!p1 || f.d.lvl == .v) 38
/-- Nonzero reserved bits of IMM20 from bit lo on, w of them (R132). -/
def immRsv (i : BitVec 20) (lo w : Nat) : List Nat := setBits (bitsOf i.toNat (lo + w - 1) lo) w (8 + lo)
/-- A byte code of the VI form of PRMT whose SRC is 6 or 7 (R146). -/
def prmtErr (i : BitVec 20) : List Nat :=
  (List.range 4).filterMap (fun k => if bitsOf i.toNat (5 * k + 2) (5 * k) ≥ 6 then some (8 + 5 * k) else none)
/-- The count of BAR and BARC (R207). -/
def cntErr (i : BitVec 20) (top : Nat) : List Nat := need (bitsOf i.toNat 12 4 ≤ top) 12
/-- The accepted sizes (R85, R192). -/
def szErr (sz : BitVec 3) (l : List Nat) : List Nat := need (decide (sz.toNat ∈ l)) 53
/-- The accepted orders, and the scopes 0 to lo with .weak, 0 to top with any other order (R85, R192, R202). Beside an order that is
not accepted, of SCOPE the reserved codes alone offend (DEDUCED, log entry 8). -/
def ordErr (f : FM) (l : List Nat) (lo top : Nat) : List Nat :=
  if f.ord.toNat ∈ l then need (f.scope.toNat ≤ (if f.ord = 0 then lo else top)) 48 else need (f.scope.toNat ≤ 5) 48 ++ [51]
/-- The scopes of the atomics; SCOPE 5 needs .acq or .ar and an instruction that takes it (R85, R192). -/
def atomScopeErr (f : FM) (remote : Bool) : List Nat :=
  need (f.scope.toNat ≤ 4 || (remote && f.scope.toNat == 5 && f.ord.getLsbD 0)) 48
/-- A base that is a record, a scalar register or none (R85). -/
def rbErr (rb : BitVec 8) : List Nat := need (rb.toNat < 0xC0 || rb.toNat == 0xFF) 20
/-- A base that is a scalar register or none (R86). -/
def rbSpadErr (rb : BitVec 8) : List Nat :=
  need ((decide (0x80 ≤ rb.toNat) && decide (rb.toNat < 0xC0)) || rb.toNat == 0xFF) 20
/-- AOP; .fadd is b32 only (R197). -/
def aopErr (f : FM) (top : Nat) : List Nat := need (f.aop ≤ top && !(f.aop == 10 && f.sz != 0)) 16
/-- RED takes neither .xchg nor .cas (R197). -/
def redErr (f : FM) : List Nat := need (f.aop != 8 && f.aop != 9) 16
/-- The fields of FENCE (R206). -/
def fenceErr (f : FM) : List Nat :=
  need (f.off == 0) 8 ++ need (f.rb.toNat ≤ 1) 20 ++ need (f.scope.toNat ≤ 4) 48 ++ need (f.ord != 0 || f.rb == 1) 51
/-- Bits [55:48] of a format M word as one number. -/
def FM.top8 (f : FM) : Nat := f.sz.toNat * 32 + f.ord.toNat * 8 + f.scope.toNat
/-- Bits [55:49] of TLD and TST are reserved (R218). -/
def dirRsv (f : FM) : List Nat := setBits (f.top8 / 2) 7 49
/-- Bits [55:50] of ACLD and ACST are reserved (R224). -/
def spcRsv (f : FM) : List Nat := setBits (f.top8 / 4) 6 50
/-- The conditions of a branch (R87). -/
def condErr (c : BitVec 4) : List Nat := need (c.toNat ≤ 2) 52
/-- The sub-operations 0 to top (R88, R89). -/
def subErr (s : BitVec 4) (top : Nat) : List Nat := need (s.toNat ≤ top) 52
/-- A command that names no slot (R88). -/
def slotErr (s : BitVec 3) : List Nat := need (s == 0) 49
/-- The types of HRED (R250). -/
def hredErr (f : FE) : List Nat :=
  need (f.ef.toNat % 4 != 3 && !(f.ef.toNat % 4 == 2 && f.sub != 0)) 20
/-- EF bits from bit w on are reserved (R226). -/
def efRsv (e : BitVec 8) (w : Nat) : List Nat := setBits (e.toNat / 2 ^ w) (8 - w) (20 + w)
/-- The part of a special register, and the spaces 0 to top (R185, R208). -/
def partErr (s : BitVec 4) (top : Nat) : List Nat := need (s.toNat % 4 != 3 && decide (s.toNat / 4 ≤ top)) 52
/-- IDX 0 to top (R89). -/
def idxErr (i : BitVec 12) (top : Nat) : List Nat := need (i.toNat ≤ top) 16

/-- The assigned indices of space 1, as first and last (R442). -/
def dcrRanges : List (Nat × Nat) :=
  [(0x100, 0x104), (0x180, 0x185), (0x190, 0x1CF), (0x200, 0x217), (0x300, 0x305), (0x400, 0x7FF), (0x800, 0x809),
   (0x900, 0x908), (0x90A, 0x90B), (0x910, 0x911), (0x918, 0x91C), (0x921, 0x923), (0x930, 0x931), (0x940, 0x957),
   (0xC00, 0xFFF)]
/-- The index is assigned in space 1 (R442). -/
def dcrAssigned (i : Nat) : Bool := dcrRanges.any (fun r => decide (r.1 ≤ i) && decide (i ≤ r.2))
/-- PRVR and PRVW: an index that R442 does not assign (R208). -/
def prvErr (f : FS) : List Nat :=
  if f.sub.toNat / 4 = 1 then need (dcrAssigned f.idx.toNat) 16
  else if f.sub.toNat / 4 = 0 then need (f.idx.toNat ≤ 0x12) 16 else []

/-! ### One constructor a format -/

/-- The bits of an unused operand field that are not zero. -/
def unusedBits (l : List (OpK × Operand × Nat)) : List Nat :=
  l.flatMap (fun e => if e.1 = .unused then setBits e.2.1.code 10 e.2.2 else [])

def v3Info (op : Nat) (long : Bool) (f : V3) (d a b c : OpK) (errs : List Nat) : Info :=
  let l := [(d, f.d, 38), (a, f.a, 28), (b, f.b, 18), (c, f.c, 8)]
  ⟨op, long, f.g, f.fsel, l, errs, unusedBits l⟩
def viInfo (op : Nat) (long : Bool) (f : VI) (d a : OpK) (errs rsv : List Nat) : Info :=
  let l := [(d, f.d, 38), (a, f.a, 28)]
  ⟨op, long, f.g, f.fsel, l, errs, unusedBits l ++ rsv⟩
def fmInfo (op : Nat) (long : Bool) (f : FM) (d a : OpK) (errs rsv : List Nat) : Info :=
  let l := [(d, f.d, 38), (a, f.a, 28)]
  ⟨op, long, f.g, f.fsel, l, errs, unusedBits l ++ rsv⟩
def brInfo (op : Nat) (f : FBr) (errs : List Nat) : Info := ⟨op, false, f.g, f.fsel, [], errs, []⟩
def feInfo (op : Nat) (long : Bool) (f : FE) (p x : OpK) (errs rsv : List Nat) : Info :=
  let l := [(p, f.p, 38), (x, f.x, 28)]
  ⟨op, long, f.g, f.fsel, l, errs, unusedBits l ++ rsv⟩
def fsInfo (op : Nat) (long : Bool) (f : FS) (d a : OpK) (errs : List Nat) : Info :=
  let l := [(d, f.d, 38), (a, f.a, 28)]
  ⟨op, long, f.g, f.fsel, l, errs, unusedBits l⟩

/-- The form of an instruction word; none for the steps that are not words (R90, R91, and the rule of each instruction). An operand
field of MTRR and of SIGN that some SUB uses counts as used under a SUB that is not accepted, so that such a word reports FIELD and
not RSVBIT (DEDUCED, log entry 8: R89 leaves open which operands an unaccepted SUB uses). -/
def Instr.info : Instr → Option Info
  | .nop f => some (v3Info 0x0 false f .unused .unused .unused .unused (ctlErr f.ty f.mod))
  | .bra f => some (brInfo 0x1 f (condErr f.cond))
  | .brx f => some (v3Info 0x2 false f .unused (.src 64) .unused .unused (ctlErr f.ty f.mod))
  | .call f => some (brInfo 0x3 f (condErr f.cond))
  | .callx f => some (v3Info 0x4 false f (.dst 64) (.src 64) .unused .unused (ctlErr f.ty f.mod))
  | .ret f => some (v3Info 0x5 false f .unused (.src 64) .unused .unused (ctlErr f.ty f.mod))
  | .exit f => some (v3Info 0x6 false f .unused .unused .unused .unused (ctlErr f.ty f.mod))
  | .bnd f => some (v3Info 0x7 false f (bndD f.a f.d) (bndA f.a f.d) (bndD f.c f.b) (bndA f.c f.b) (ctlErr f.ty f.mod ++ unguardedErr f.g ++ bndErr f))
  | .rcv f => some (v3Info 0x8 false f .unused .unused .unused .unused (ctlErr f.ty f.mod ++ unguardedErr f.g))
  | .elect f => some (v3Info 0x9 false f .pred .unused .unused .unused (ctlErr f.ty f.mod))
  | .yield f => some (v3Info 0xA false f .unused .unused .unused .unused (ctlErr f.ty f.mod))
  | .trap f => some (viInfo 0xB false f .unused .unused (ctlErr f.ty f.mod) ([]))
  | .bkpt f => some (viInfo 0xC false f .unused .unused (ctlErr f.ty f.mod) ([]))
  | .tret f => some (v3Info 0xD false f .unused .unused .unused .unused (ctlErr f.ty f.mod))
  | .iadd f => some (v3Info 0x10 false f (.dst f.w) (.src f.w) (.src f.w) .unused (tyErr f.ty (tyI32 ++ tyI64) ++ satErr f.ty f.mod))
  | .isub f => some (v3Info 0x11 false f (.dst f.w) (.src f.w) (.src f.w) .unused (tyErr f.ty (tyI32 ++ tyI64) ++ satErr f.ty f.mod))
  | .iaddc f => some (v3Info 0x12 false f (.dst f.w) (.src f.w) (.src f.w) .pred (tyErr f.ty (tyI32 ++ tyI64) ++ zeroErr f.mod))
  | .isubb f => some (v3Info 0x13 false f (.dst f.w) (.src f.w) (.src f.w) .pred (tyErr f.ty (tyI32 ++ tyI64) ++ zeroErr f.mod))
  | .imul f => some (v3Info 0x14 false f (.dst f.w) (.src f.w) (.src f.w) .unused (tyErr f.ty (tyI32 ++ tyI64) ++ zeroErr f.mod))
  | .imulh f => some (v3Info 0x15 false f (.dst f.w) (.src f.w) (.src f.w) .unused (tyErr f.ty (tyS32 ++ tyS64) ++ zeroErr f.mod))
  | .imad f => some (v3Info 0x16 false f (.dst f.w) (.src f.w) (.src f.w) (.src f.w) (tyErr f.ty (tyI32 ++ tyI64) ++ zeroErr f.mod))
  | .imadw f => some (v3Info 0x17 false f (.dst 64) (.src 32) (.src 32) (.src 64) (tyErr f.ty tyS32 ++ zeroErr f.mod))
  | .iabs f => some (v3Info 0x18 false f (.dst f.w) (.src f.w) .unused .unused (tyErr f.ty [.i32, .i64] ++ satErr f.ty f.mod))
  | .ineg f => some (v3Info 0x19 false f (.dst f.w) (.src f.w) .unused .unused (tyErr f.ty (tyI32 ++ tyI64) ++ satErr f.ty f.mod))
  | .imin f => some (v3Info 0x1A false f (.dst f.w) (.src f.w) (.src f.w) .unused (tyErr f.ty (tyS32 ++ tyS64) ++ zeroErr f.mod))
  | .imax f => some (v3Info 0x1B false f (.dst f.w) (.src f.w) (.src f.w) .unused (tyErr f.ty (tyS32 ++ tyS64) ++ zeroErr f.mod))
  | .isad f => some (v3Info 0x1C false f (.dst 32) (.src 32) (.src 32) (.src 32) (tyErr f.ty tyS32 ++ zeroErr f.mod))
  | .shl f => some (v3Info 0x1D false f (.dst f.w) (.src f.w) (.src 32) .unused (tyErr f.ty (tyI32 ++ tyI64) ++ zeroErr f.mod))
  | .shr f => some (v3Info 0x1E false f (.dst f.w) (.src f.w) (.src 32) .unused (tyErr f.ty (tyI32 ++ tyI64) ++ zeroErr f.mod))
  | .sha f => some (v3Info 0x1F false f (.dst f.w) (.src f.w) (.src 32) .unused (tyErr f.ty (tyI32 ++ tyI64) ++ zeroErr f.mod))
  | .rot f => some (v3Info 0x20 false f (.dst f.w) (.src f.w) (.src 32) .unused (tyErr f.ty (tyI32 ++ tyI64) ++ zeroErr f.mod))
  | .andw f => some (v3Info 0x21 false f (.dst f.w) (.src f.w) (.src f.w) .unused (tyErr f.ty (tyI32 ++ tyI64) ++ zeroErr f.mod))
  | .orw f => some (v3Info 0x22 false f (.dst f.w) (.src f.w) (.src f.w) .unused (tyErr f.ty (tyI32 ++ tyI64) ++ zeroErr f.mod))
  | .xorw f => some (v3Info 0x23 false f (.dst f.w) (.src f.w) (.src f.w) .unused (tyErr f.ty (tyI32 ++ tyI64) ++ zeroErr f.mod))
  | .notw f => some (v3Info 0x24 false f (.dst f.w) (.src f.w) .unused .unused (tyErr f.ty (tyI32 ++ tyI64) ++ zeroErr f.mod))
  | .andn f => some (v3Info 0x25 false f (.dst f.w) (.src f.w) (.src f.w) .unused (tyErr f.ty (tyI32 ++ tyI64) ++ zeroErr f.mod))
  | .lop3 f => some (v3Info 0x26 false f (.dst 32) (.src 32) (.src 32) (.src 32) ([]))
  | .popc f => some (v3Info 0x27 false f (.dst 32) (.src f.w) .unused .unused (tyErr f.ty (tyI32 ++ tyI64) ++ zeroErr f.mod))
  | .clz f => some (v3Info 0x28 false f (.dst 32) (.src f.w) .unused .unused (tyErr f.ty (tyI32 ++ tyI64) ++ zeroErr f.mod))
  | .ctz f => some (v3Info 0x29 false f (.dst 32) (.src f.w) .unused .unused (tyErr f.ty (tyI32 ++ tyI64) ++ zeroErr f.mod))
  | .brev f => some (v3Info 0x2A false f (.dst f.w) (.src f.w) .unused .unused (tyErr f.ty (tyI32 ++ tyI64) ++ zeroErr f.mod))
  | .bfx f => some (v3Info 0x2B false f (.dst f.w) (.src f.w) (.src 32) .unused (tyErr f.ty (tyS32 ++ tyS64) ++ zeroErr f.mod))
  | .bfi f => some (v3Info 0x2C false f (.dst f.w) (.src f.w) (.src 32) (.src f.w) (tyErr f.ty (tyI32 ++ tyI64) ++ zeroErr f.mod))
  | .prmt f => some (v3Info 0x2D false f (.dst 32) (.src 32) (.src 32) (.src 32) (tyErr f.ty tyI32 ++ zeroErr f.mod))
  | .lea f => some (v3Info 0x2E false f (.dst 32) (.src 32) (.src 32) .unused (tyErr f.ty tyI32 ++ topErr f.mod))
  | .leaw f => some (v3Info 0x2F false f (.dst 64) (.src 32) (.src 64) .unused (tyErr f.ty tyS32 ++ topErr f.mod))
  | .dp4 f => some (v3Info 0x30 false f (.dst 32) (.src 32) (.src 32) (.src 32) (tyErr f.ty tyS32 ++ mixErr f.ty f.mod))
  | .iaddImm f => some (viInfo 0x31 false f (.dst f.w) (.src f.w) (tyErr f.ty (tyI32 ++ tyI64) ++ satErr f.ty f.mod) ([]))
  | .imulImm f => some (viInfo 0x32 false f (.dst f.w) (.src f.w) (tyErr f.ty (tyI32 ++ tyI64) ++ zeroErr f.mod) ([]))
  | .iminImm f => some (viInfo 0x33 false f (.dst f.w) (.src f.w) (tyErr f.ty (tyS32 ++ tyS64) ++ zeroErr f.mod) ([]))
  | .imaxImm f => some (viInfo 0x34 false f (.dst f.w) (.src f.w) (tyErr f.ty (tyS32 ++ tyS64) ++ zeroErr f.mod) ([]))
  | .shlImm f => some (viInfo 0x35 false f (.dst f.w) (.src f.w) (tyErr f.ty (tyI32 ++ tyI64) ++ zeroErr f.mod) ([]))
  | .shrImm f => some (viInfo 0x36 false f (.dst f.w) (.src f.w) (tyErr f.ty (tyI32 ++ tyI64) ++ zeroErr f.mod) ([]))
  | .shaImm f => some (viInfo 0x37 false f (.dst f.w) (.src f.w) (tyErr f.ty (tyI32 ++ tyI64) ++ zeroErr f.mod) ([]))
  | .rotImm f => some (viInfo 0x38 false f (.dst f.w) (.src f.w) (tyErr f.ty (tyI32 ++ tyI64) ++ zeroErr f.mod) ([]))
  | .andImm f => some (viInfo 0x39 false f (.dst f.w) (.src f.w) (tyErr f.ty (tyI32 ++ tyI64) ++ zeroErr f.mod) ([]))
  | .orImm f => some (viInfo 0x3A false f (.dst f.w) (.src f.w) (tyErr f.ty (tyI32 ++ tyI64) ++ zeroErr f.mod) ([]))
  | .xorImm f => some (viInfo 0x3B false f (.dst f.w) (.src f.w) (tyErr f.ty (tyI32 ++ tyI64) ++ zeroErr f.mod) ([]))
  | .leaImm f => some (viInfo 0x3C false f (.dst 32) (.src 32) (tyErr f.ty tyI32 ++ topErr f.mod) ([]))
  | .bfxImm f => some (viInfo 0x3D false f (.dst f.w) (.src f.w) (tyErr f.ty (tyS32 ++ tyS64) ++ zeroErr f.mod) (immRsv f.imm 16 4))
  | .bfiImm f => some (viInfo 0x3E false f (.dst f.w) (.src f.w) (tyErr f.ty (tyI32 ++ tyI64) ++ zeroErr f.mod ++ (if bitsOf f.imm.toNat 11 8 > 8 then [16] else [])) (immRsv f.imm 6 2))
  | .prmtImm f => some (viInfo 0x3F false f (.dst 32) (.src 32) (tyErr f.ty tyI32 ++ zeroErr f.mod ++ prmtErr f.imm) ([]))
  | .fadd f => some (v3Info 0x40 false f (.dst f.w) (.src f.w) (.src f.w) .unused (tyErr f.ty tyFX ++ rndErr f.mod))
  | .fsub f => some (v3Info 0x41 false f (.dst f.w) (.src f.w) (.src f.w) .unused (tyErr f.ty tyFX ++ rndErr f.mod))
  | .fmul f => some (v3Info 0x42 false f (.dst f.w) (.src f.w) (.src f.w) .unused (tyErr f.ty tyFX ++ rndErr f.mod))
  | .ffma f => some (v3Info 0x43 false f (.dst f.w) (.src f.w) (.src f.w) (.src f.w) (tyErr f.ty tyFX ++ rndErr f.mod))
  | .fmin f => some (v3Info 0x44 false f (.dst f.w) (.src f.w) (.src f.w) .unused (tyErr f.ty tyFX ++ zeroErr f.mod))
  | .fmax f => some (v3Info 0x45 false f (.dst f.w) (.src f.w) (.src f.w) .unused (tyErr f.ty tyFX ++ zeroErr f.mod))
  | .fabs f => some (v3Info 0x46 false f (.dst f.w) (.src f.w) .unused .unused (tyErr f.ty tyFX ++ zeroErr f.mod))
  | .fneg f => some (v3Info 0x47 false f (.dst f.w) (.src f.w) .unused .unused (tyErr f.ty tyFX ++ zeroErr f.mod))
  | .fdiv f => some (v3Info 0x48 true f (.dst f.w) (.src f.w) (.src f.w) .unused (tyErr f.ty tyF ++ rndErr f.mod))
  | .fsqrt f => some (v3Info 0x49 true f (.dst f.w) (.src f.w) .unused .unused (tyErr f.ty tyF ++ rndErr f.mod))
  | .frcp f => some (v3Info 0x4A true f (.dst f.w) (.src f.w) .unused .unused (tyErr f.ty tyF ++ rndErr f.mod))
  | .frsq f => some (v3Info 0x4B true f (.dst f.w) (.src f.w) .unused .unused (tyErr f.ty tyF ++ rndErr f.mod))
  | .fex2 f => some (v3Info 0x4C true f (.dst f.w) (.src f.w) .unused .unused (tyErr f.ty tyF ++ rndErr f.mod))
  | .flg2 f => some (v3Info 0x4D true f (.dst f.w) (.src f.w) .unused .unused (tyErr f.ty tyF ++ rndErr f.mod))
  | .fsin f => some (v3Info 0x4E true f (.dst f.w) (.src f.w) .unused .unused (tyErr f.ty tyF ++ rndErr f.mod))
  | .fcos f => some (v3Info 0x4F true f (.dst f.w) (.src f.w) .unused .unused (tyErr f.ty tyF ++ rndErr f.mod))
  | .fflr f => some (v3Info 0x50 false f (.dst f.w) (.src f.w) .unused .unused (tyErr f.ty tyF ++ zeroErr f.mod))
  | .fceil f => some (v3Info 0x51 false f (.dst f.w) (.src f.w) .unused .unused (tyErr f.ty tyF ++ zeroErr f.mod))
  | .ftrunc f => some (v3Info 0x52 false f (.dst f.w) (.src f.w) .unused .unused (tyErr f.ty tyF ++ zeroErr f.mod))
  | .frnd f => some (v3Info 0x53 false f (.dst f.w) (.src f.w) .unused .unused (tyErr f.ty tyF ++ rndErr f.mod))
  | .ffrc f => some (v3Info 0x54 false f (.dst f.w) (.src f.w) .unused .unused (tyErr f.ty tyF ++ zeroErr f.mod))
  | .fclass f => some (v3Info 0x55 false f (.dst 32) (.src f.w) .unused .unused (tyErr f.ty tyF ++ zeroErr f.mod))
  | .fscale f => some (v3Info 0x56 false f (.dst f.w) (.src f.w) (.src 32) .unused (tyErr f.ty tyF ++ rndErr f.mod))
  | .fgetexp f => some (v3Info 0x57 false f (.dst 32) (.src f.w) .unused .unused (tyErr f.ty tyF ++ zeroErr f.mod))
  | .fdot2 f => some (v3Info 0x58 false f (.dst 32) (.src 32) (.src 32) (.src 32) (tyErr f.ty [.f16x2, .bf16x2] ++ rndErr f.mod))
  | .faddImm f => some (viInfo 0x59 false f (.dst 32) (.src 32) (tyErr f.ty [.f32] ++ rndErr f.mod) ([]))
  | .fmulImm f => some (viInfo 0x5A false f (.dst 32) (.src 32) (tyErr f.ty [.f32] ++ rndErr f.mod) ([]))
  | .fminImm f => some (viInfo 0x5B false f (.dst 32) (.src 32) (tyErr f.ty [.f32] ++ zeroErr f.mod) ([]))
  | .fmaxImm f => some (viInfo 0x5C false f (.dst 32) (.src 32) (tyErr f.ty [.f32] ++ zeroErr f.mod) ([]))
  | .cvt f => some (v3Info 0x70 false f (.dst f.w) (.src (Ty.ofCode f.mod.toNat).width) (if f.ty.packed then .src 32 else .unused) .unused (cvtErr f.ty (Ty.ofCode f.mod.toNat)))
  | .cvq f => some (v3Info 0x71 false f (.dst 32) (.src f.w) (.src 32) .unused (tyErr f.ty tyF))
  | .cvd f => some (v3Info 0x72 false f (.dst f.w) (.src 32) (.src 32) .pred (tyErr f.ty tyF))
  | .packt f => some (v3Info 0x73 false f (.dst 32) (.src 32) (.src 32) (.src 32) (tyErr f.ty tyI32 ++ bit0Err f.mod))
  | .unpkt f => some (v3Info 0x74 false f (.dst 32) (.src 32) (.src 32) .pred (tyErr f.ty tyI32 ++ bit0Err f.mod))
  | .pack f => some (v3Info 0x75 false f (.dst 32) (.src 32) (.src 32) (.src 32) (tyErr f.ty tyI32 ++ elemErr f.mod))
  | .unpk f => some (v3Info 0x76 false f (.dst 32) (.src 32) (.src 32) .unused (tyErr f.ty tyI32 ++ elemErr f.mod))
  | .icmp f => some (v3Info 0x80 false f .pred (.src f.w) (.src f.w) .unused (tyErr f.ty (tyI32 ++ tyI64) ++ icmpErr f.ty f.mod))
  | .fcmp f => some (v3Info 0x81 false f .pred (.src f.w) (.src f.w) .unused (tyErr f.ty tyF ++ (if f.mod.toNat ≥ 8 then [48] else [])))
  | .plop f => some (v3Info 0x82 false f .pred .pred .pred .pred ([]))
  | .pmov f => some (v3Info 0x83 false f (if f.mod.getLsbD 0 then .unused else .dst 32) (if f.mod.getLsbD 0 then .src 32 else .unused) .unused .unused (tyErr f.ty [.b32] ++ bit0Err f.mod))
  | .sel f => some (v3Info 0x84 false f (.dst f.w) (.src f.w) (.src f.w) .pred (tyErr f.ty [.b32, .b64] ++ zeroErr f.mod))
  | .mov f => some (v3Info 0x85 false f (.dst f.w) (.src f.w) .unused .unused (tyErr f.ty [.b32, .b64] ++ zeroErr f.mod))
  | .movi f => some (viInfo 0x86 false f (.dst 32) .unused (tyErr f.ty [.b32] ++ bit0Err f.mod) ([]))
  | .movx f => some (v3Info 0x87 false f (.dst 32) .base (.src 32) (if f.mod.getLsbD 0 then .src 32 else .unused) (tyErr f.ty [.b32] ++ bit0Err f.mod ++ baseErr f.a 28))
  | .movxs f => some (v3Info 0x88 false f .base (.src 32) (.src 32) (if f.mod.getLsbD 0 then .src 32 else .unused) (tyErr f.ty [.b32] ++ bit0Err f.mod ++ baseErr f.d 38))
  | .shfl f => some (v3Info 0x89 false f (.dst 32) (.src 32) (.src 32) .pred (tyErr f.ty [.b32]))
  | .vote f => some (v3Info 0x8A false f .pred .pred .unused .unused (tyErr f.ty [.i32] ++ rndErr f.mod))
  | .ballot f => some (v3Info 0x8B false f (.dst 64) .pred .unused .unused (tyErr f.ty [.b64] ++ zeroErr f.mod))
  | .lred f => some (v3Info 0x8C false f (.dst 32) (.src 32) .unused .unused (lredErr f.ty f.mod))
  | .bcast f => some (v3Info 0x8D false f (.dst f.w) (.src f.w) (.src 32) .unused (tyErr f.ty [.b32, .b64] ++ zeroErr f.mod))
  | .srd f => some (fsInfo 0x8E false f (.dst f.partBits) .unused (partErr f.sub 0 ++ (if f.idx.toNat ≤ 0x12 then [] else [16])))
  | .swr f => some (fsInfo 0x8F false f .unused (.src f.partBits) (partErr f.sub 0 ++ (if f.idx.toNat = 0x0A || f.idx.toNat = 0x0B then [] else [16])))
  | .ld f => some (fmInfo 0xA0 true f (.dst f.bits) (.src (if f.rb.toNat = 0xFF then 64 else 32)) (szErr f.sz [0, 1, 2, 3, 4] ++ ordErr f [0, 1] 0 5 ++ rbErr f.rb) ([]))
  | .st f => some (fmInfo 0xA1 false f (.src f.bits) (.src (if f.rb.toNat = 0xFF then 64 else 32)) (szErr f.sz [0, 1, 2, 3, 4] ++ ordErr f [0, 2] 0 4 ++ rbErr f.rb) ([]))
  | .lds f => some (fmInfo 0xA2 true f (.dst f.bits) (.src (if f.rb.toNat = 0xFF then 64 else 32)) (szErr f.sz [0, 1, 2, 3, 4] ++ ordErr f [0, 1] 0 4 ++ rbSpadErr f.rb) ([]))
  | .sts f => some (fmInfo 0xA3 false f (.src f.bits) (.src (if f.rb.toNat = 0xFF then 64 else 32)) (szErr f.sz [0, 1, 2, 3, 4] ++ ordErr f [0, 2] 0 4 ++ rbSpadErr f.rb) ([]))
  | .ldq f => some (fmInfo 0xA4 true f (.dst f.bits) (.src (if f.rb.toNat = 0xFF then 64 else 32)) (szErr f.sz [0, 1, 2] ++ ordErr f [0] 0 0 ++ rbErr f.rb) ([]))
  | .atom f => some (fmInfo 0xA5 true f (atomK f.bits f.isCas) (.src (if f.rb.toNat = 0xFF then 64 else 32)) (szErr f.sz [0, 1] ++ atomScopeErr f true ++ rbErr f.rb ++ aopErr f 10) ([]))
  | .atoms f => some (fmInfo 0xA6 true f (atomK f.bits f.isCas) (.src (if f.rb.toNat = 0xFF then 64 else 32)) (szErr f.sz [0, 1] ++ atomScopeErr f false ++ rbSpadErr f.rb ++ aopErr f 10) ([]))
  | .red f => some (fmInfo 0xA7 false f (.src f.bits) (.src (if f.rb.toNat = 0xFF then 64 else 32)) (szErr f.sz [0, 1] ++ atomScopeErr f false ++ rbErr f.rb ++ aopErr f 10 ++ redErr f) ([]))
  | .prf f => some (fmInfo 0xA8 false f .unused (.src (if f.rb.toNat = 0xFF then 64 else 32)) (szErr f.sz [0] ++ ordErr f [0] 0 0 ++ rbErr f.rb) ([]))
  | .tbinit f => some (fmInfo 0xC0 false f (.src 32) (.src (if f.rb.toNat = 0xFF then 64 else 32)) (szErr f.sz [0] ++ ordErr f [0] 2 2 ++ rbSpadErr f.rb) ([]))
  | .tbexp f => some (fmInfo 0xC1 false f (.src 32) (.src (if f.rb.toNat = 0xFF then 64 else 32)) (szErr f.sz [0] ++ ordErr f [0] 2 2 ++ rbSpadErr f.rb) ([]))
  | .tbarv f => some (fmInfo 0xC2 false f (.src 32) (.src (if f.rb.toNat = 0xFF then 64 else 32)) (szErr f.sz [0] ++ ordErr f [0, 2] 2 2 ++ rbSpadErr f.rb) ([]))
  | .tbtest f => some (fmInfo 0xC3 false f (.src 32) (.src 32) (szErr f.sz [0] ++ ordErr f [0, 1] 2 2 ++ (if f.rb.toNat ≥ 24 then [20] else [])) ([]))
  | .waita f => some (fmInfo 0xC4 false f (.src f.bits) (.src (if f.spm then 32 else 64)) (szErr f.sz [0, 1] ++ ordErr f [0, 1] 0 (if f.spm then 4 else 5) ++ (if f.wcond = 7 then [24] else [])) ([]))
  | .fence f => some (fmInfo 0xC5 false f .unused .unused (szErr f.sz [0] ++ fenceErr f) ([]))
  | .bar f => some (viInfo 0xC6 false f .unused .unused (ctlErr f.ty f.mod ++ unguardedErr f.g ++ cntErr f.imm 32) (immRsv f.imm 13 7))
  | .barc f => some (viInfo 0xC7 false f .unused .unused (ctlErr f.ty f.mod ++ unguardedErr f.g ++ cntErr f.imm 384) (immRsv f.imm 13 7))
  | .tcfg f => some (v3Info 0xD0 false f .tile (.src 32) .unused .unused (ctlErr f.ty f.mod))
  | .tld f => some (fmInfo 0xD1 true f .tile (.src (if f.rb.toNat = 0xFF then 64 else 32)) (rbSpadErr f.rb) (dirRsv f))
  | .tst f => some (fmInfo 0xD2 true f .tile (.src (if f.rb.toNat = 0xFF then 64 else 32)) (rbSpadErr f.rb) (dirRsv f))
  | .tzero f => some (v3Info 0xD3 false f .tile .unused .unused .unused (ctlErr f.ty f.mod))
  | .mxa f => some (feInfo 0xD4 true f (.src 32) .unused (subErr f.sub 0) (efRsv f.ef 0))
  | .acz f => some (v3Info 0xD5 false f .region .unused .unused .unused (ctlErr f.ty f.mod))
  | .acv f => some (feInfo 0xD6 true f (.src 32) .pred (subErr f.sub 0) (efRsv f.ef 0))
  | .acld f => some (fmInfo 0xD7 true f .region (.src (if f.rb.toNat = 0xFF then 64 else 32)) ((if f.accSpm then rbSpadErr f.rb else rbErr f.rb)) (spcRsv f))
  | .acst f => some (fmInfo 0xD8 true f .region (.src (if f.rb.toNat = 0xFF then 64 else 32)) ((if f.accSpm then rbSpadErr f.rb else rbErr f.rb)) (spcRsv f))
  | .cpy f => some (feInfo 0xE0 true f (.src 32) .unused (subErr f.sub 0 ++ slotErr f.slot) (efRsv f.ef 0))
  | .cpyl f => some (feInfo 0xE1 true f (.src 32) (.src 32) (subErr f.sub 0 ++ slotErr f.slot) (efRsv f.ef 0))
  | .hred f => some (feInfo 0xE2 true f (.src 32) .unused (subErr f.sub 4 ++ slotErr f.slot ++ hredErr f) (efRsv f.ef 2))
  | .hgat f => some (feInfo 0xE3 true f (.src 32) .unused (subErr f.sub 0 ++ slotErr f.slot) (efRsv f.ef 0))
  | .hfetch f => some (feInfo 0xE4 true f (.src 32) .unused (subErr f.sub 0 ++ slotErr f.slot) (efRsv f.ef 1))
  | .lyrq f => some (feInfo 0xE5 true f (.src 32) .unused (subErr f.sub 0 ++ slotErr f.slot) (efRsv f.ef 1))
  | .inst f => some (feInfo 0xE6 true f (.src 32) .unused (subErr f.sub 0 ++ slotErr f.slot) (efRsv f.ef 0))
  | .instqQuery f => some (feInfo 0xE7 true f (.src 32) .unused ((if f.sub = 0 then [] else [52]) ++ slotErr f.slot) (efRsv f.ef 0))
  | .instqAbort f => some (feInfo 0xE7 true f (.src 32) .unused ((if f.sub = 1 then [] else [52]) ++ slotErr f.slot) (efRsv f.ef 0))
  | .prvr f => some (fsInfo 0xF0 false f (.dst f.partBits) .unused (partErr f.sub 1 ++ prvErr f))
  | .prvw f => some (fsInfo 0xF1 false f .unused (.src f.partBits) (partErr f.sub 1 ++ prvErr f))
  | .eret f => some (fsInfo 0xF2 false f .unused (.src 32) (subErr f.sub 0 ++ idxErr f.idx 0))
  | .sysc f => some (fsInfo 0xF3 false f .unused (.src 64) (subErr f.sub 0))
  | .mtrr f => some (fsInfo 0xF4 true f (.dst 64) (if f.sub = 0 then .unused else .src 32) (subErr f.sub 1 ++ idxErr f.idx 16))
  | .sign f => some (fsInfo 0xF5 true f (if f.sub = 0 then .unused else .src 32) (.src 64) (subErr f.sub 1 ++ idxErr f.idx 0))
  | .clauseStart _ _ => none
  | .strandCommit _ => none
  | .stashWriteback _ _ => none
  | .waitaRecheck _ _ => none
  | .waitaTimeout _ _ => none
  | .loadComplete _ => none
  | .atomComplete _ => none
  | .funcResultWrite _ => none
  | .tileTransferComplete _ => none
  | .accTransferComplete _ => none
  | .acvComplete _ => none
  | .mxaStart _ => none
  | .matrixResidueMismatch _ _ => none
  | .mxaComplete _ => none
  | .workSteal _ => none
  | .copySectorLand _ _ _ => none
  | .homeSliceStep _ _ _ => none
  | .hgatResponse _ _ _ => none
  | .engineAccessFault _ _ => none
  | .engineLineFinish _ _ => none
  | .instComplete _ _ _ => none
  | .signComplete _ => none
  | .mtrrComplete _ => none
  | .serviceRequestConsumed => none
  | .groupSwap _ => none
  | .groupResourcesFree _ => none
  | .compaction _ _ => none
  | .teamPlacement _ _ _ _ => none
  | .teamMigration _ _ _ => none
  | .teamEnd _ => none
  | .fcBell _ => none
  | .quantumBoundary => none
  | .phaseStart _ => none
  | .dependenceRecheck _ => none
  | .phaseComplete _ => none
  | .stallAll _ _ => none
  | .contextSwitch _ _ => none
  | .ctxCreate => none
  | .ctxHalt => none
  | .haltTeamSave _ => none
  | .ctxResume => none
  | .ctxRetire => none
  | .retirementRecord _ => none
  | .ctxTeardown => none
  | .ctxCmdInvalid => none
  | .scrubComplete _ => none
  | .xlRangeWrite _ _ _ => none
  | .xlInv _ => none
  | .xlInvComplete => none
  | .xlResume _ => none
  | .stkScrways _ => none
  | .wayChangeComplete => none
  | .flsStagebase _ => none
  | .flsStagesz _ => none
  | .keyLoad _ => none
  | .bbDump _ => none
  | .bbDumpComplete => none
  | .rstReq _ => none
  | .rlRouteWrite _ _ => none
  | .registerWrite _ _ => none
  | .hostBar0Access _ _ _ => none
  | .hostBar2Access _ _ _ => none
  | .peerAccess _ _ _ => none
  | .remoteWriteAck _ => none
  | .layerArrival _ _ _ => none
  | .layerVictimChoice _ _ _ => none
  | .layerEvictionComplete _ _ _ => none
  | .flashReadEccFail _ => none
  | .reservationGrant _ => none
  | .pipeIdleRelease _ _ => none
  | .terraceDelaySet _ _ => none
  | .terraceDelayClear _ => none
  | .droopDetect _ => none
  | .suspectWindowOpen _ _ => none
  | .suspectWindowEnd _ => none
  | .governorWindow _ => none
  | .thermalReading _ _ _ => none
  | .districtHold _ => none
  | .districtDrain _ => none
  | .districtOff _ => none
  | .inrushRampStart _ => none
  | .inrushRampComplete _ _ => none
  | .correctedError _ _ => none
  | .registerEccError _ _ _ => none
  | .groupStateParityError _ => none
  | .pipelineError _ => none
  | .memoryEccError _ => none
  | .burstCheckFail _ _ _ => none
  | .linkCrcFail _ => none
  | .linkTrainStart _ => none
  | .linkTrainResult _ _ => none
  | .linkIdentComplete _ _ _ => none
  | .linkDown _ => none
  | .deviceReset _ => none
  | .bringupStep _ => none
  | .hostLinkRetry _ _ => none
  | .fenceComplete _ => none
  | .supplyRecovery _ => none

/-- A number field out of range, whatever the state (R80): a level code other than 0b00, or a number that no state has. -/
def numBad : OpK → Operand → Bool
  | .pred, o => o.lvl != .k || decide (24 ≤ o.idx.toNat)
  | .tile, o => o.lvl != .k || decide (16 ≤ o.idx.toNat)
  | .region, o => o.lvl != .k || decide (3 ≤ o.idx.toNat)
  | _, _ => false

/-- The lowest bits of the fields whose value the word does not accept, the tail's FSEL and the number fields included. -/
def Info.fieldErrs (f : Info) : List Nat :=
  need (f.long || !f.fsel) 0 ++ f.errs ++ f.ops.filterMap (fun e => if numBad e.1 e.2.1 then some e.2.2 else none)

/-- The least of a list of positions. -/
def leastPos : List Nat → Option Nat
  | [] => none
  | p :: l => some (l.foldl min p)

/-- The word is well formed: every bit that must be zero is zero and every field holds a value it accepts (R94). -/
def Instr.wf (i : Instr) : Bool :=
  match i.info with
  | some f => f.rsv.isEmpty && f.fieldErrs.isEmpty
  | none => false

end Sys2Proof
end

