-- ==== Sys2Proof/Decode.lean ====
section
/-! DEFINITION. From bits to instructions and back (R4, R77-R95). Decoding is total: a word is an instruction, or it is
refused under the first cause of R95 that its bits alone decide, with the position of R96. -/

namespace Sys2Proof

/-- The code of a cause (R96). -/
def Cause.code : Cause → Nat
  | .opcode => 0x01 | .field => 0x02 | .rsvbit => 0x03 | .level => 0x04 | .kerbInvalid => 0x05 | .header => 0x06
  | .badTarget => 0x07 | .placement => 0x08 | .formatSlot => 0x09 | .trap => 0x0A | .bkpt => 0x0B | .index => 0x0C
  | .recordRange => 0x0D | .align => 0x0E | .strandStores => 0x10 | .strandClobber => 0x11 | .orderInStrand => 0x12
  | .strandLivelock => 0x13

/-- TRET may follow the cause (R96, R100). -/
def Cause.resumable : Cause → Bool
  | .header | .placement | .strandStores | .strandClobber | .orderInStrand | .strandLivelock => false
  | _ => true

/-- What decoding answers. -/
inductive Decoded where
  /-- The word is this instruction, and every field holds a value it accepts. -/
  | instr (i : Instr)
  /-- The word traps with this cause at this position (R94-R96). -/
  | bad (c : Cause) (pos : Nat)
  /-- Fewer bytes than a word: not an instruction. -/
  | short
  deriving DecidableEq, Repr

/-! ### Reading fields -/

/-- The guard of bits [6:1]; a reserved PG or PN is reported by tailErrs (R78). -/
def rdGuard (w : Nat) : Guard :=
  if h : bitsOf w 6 2 < 24 then .pred ⟨bitsOf w 6 2, h⟩ (bitOf w 1) else .always

/-- The reserved values of PG and PN (R78). -/
def tailErrs (w : Nat) : List Nat :=
  need (!(bitOf w 1 && bitsOf w 6 2 == 31)) 1 ++ need (bitsOf w 6 2 < 24 || bitsOf w 6 2 == 31) 2

def rdV3 (w : Nat) : V3 :=
  ⟨Ty.ofCode (bitsOf w 55 52), BitVec.ofNat 4 (bitsOf w 51 48), Operand.ofCode (bitsOf w 47 38),
    Operand.ofCode (bitsOf w 37 28), Operand.ofCode (bitsOf w 27 18), Operand.ofCode (bitsOf w 17 8), rdGuard w, bitOf w 0⟩
def rdVI (w : Nat) : VI :=
  ⟨Ty.ofCode (bitsOf w 55 52), BitVec.ofNat 4 (bitsOf w 51 48), Operand.ofCode (bitsOf w 47 38),
    Operand.ofCode (bitsOf w 37 28), BitVec.ofNat 20 (bitsOf w 27 8), rdGuard w, bitOf w 0⟩
def rdM (w : Nat) : FM :=
  ⟨BitVec.ofNat 3 (bitsOf w 55 53), BitVec.ofNat 2 (bitsOf w 52 51), BitVec.ofNat 3 (bitsOf w 50 48),
    Operand.ofCode (bitsOf w 47 38), Operand.ofCode (bitsOf w 37 28), BitVec.ofNat 8 (bitsOf w 27 20),
    BitVec.ofNat 12 (bitsOf w 19 8), rdGuard w, bitOf w 0⟩
def rdBr (w : Nat) : FBr :=
  ⟨BitVec.ofNat 4 (bitsOf w 55 52), BitVec.ofNat 8 (bitsOf w 47 40), BitVec.ofNat 32 (bitsOf w 39 8), rdGuard w, bitOf w 0⟩
def rdE (w : Nat) : FE :=
  ⟨BitVec.ofNat 4 (bitsOf w 55 52), BitVec.ofNat 3 (bitsOf w 51 49), Operand.ofCode (bitsOf w 47 38),
    Operand.ofCode (bitsOf w 37 28), BitVec.ofNat 8 (bitsOf w 27 20), rdGuard w, bitOf w 0⟩
def rdS (w : Nat) : FS :=
  ⟨BitVec.ofNat 4 (bitsOf w 55 52), Operand.ofCode (bitsOf w 47 38), Operand.ofCode (bitsOf w 37 28),
    BitVec.ofNat 12 (bitsOf w 27 16), rdGuard w, bitOf w 0⟩

/-- The formats of R82-R89. -/
inductive Fmt where
  | v3 | vi | m | br | e | s
  deriving DecidableEq, Repr

/-- The format of an opcode; none for the unassigned and reserved ones (R90, R91). -/
def fmtOf (op : Nat) : Option Fmt :=
  if op = 0x01 ∨ op = 0x03 then some .br
  else if op ≤ 0x0A ∨ op = 0x0D then some .v3
  else if op = 0x0B ∨ op = 0x0C then some .vi
  else if op = 0x0E ∨ op = 0x0F then none
  else if op ≤ 0x30 then some .v3
  else if op ≤ 0x3F then some .vi
  else if op ≤ 0x58 then some .v3
  else if op ≤ 0x5C then some .vi
  else if op < 0x70 then none
  else if op ≤ 0x76 then some .v3
  else if op < 0x80 then none
  else if op = 0x86 then some .vi
  else if op ≤ 0x8D then some .v3
  else if op ≤ 0x8F then some .s
  else if op < 0xA0 then none
  else if op ≤ 0xA8 then some .m
  else if op < 0xC0 then none
  else if op ≤ 0xC5 then some .m
  else if op ≤ 0xC7 then some .vi
  else if op < 0xD0 then none
  else if op = 0xD1 ∨ op = 0xD2 ∨ op = 0xD7 ∨ op = 0xD8 then some .m
  else if op = 0xD4 ∨ op = 0xD6 then some .e
  else if op ≤ 0xD5 then some .v3
  else if op < 0xE0 then none
  else if op ≤ 0xE7 then some .e
  else if op < 0xF0 then none
  else if op ≤ 0xF5 then some .s
  else none

/-- The nonzero bits that the format itself reserves (R77, R87-R89). -/
def Fmt.rsv (k : Fmt) (w : Nat) : List Nat :=
  setBits (bitsOf w 7 7) 1 7 ++
  (match k with
   | .br => setBits (bitsOf w 51 48) 4 48
   | .e => setBits (bitsOf w 19 8) 12 8 ++ setBits (bitsOf w 48 48) 1 48
   | .s => setBits (bitsOf w 15 8) 8 8 ++ setBits (bitsOf w 51 48) 4 48
   | _ => [])

/-- The V3 words by opcode (R90). -/
def byV3 (op : Nat) (f : V3) : Option Instr :=
  match op with
  | 0x00 => some (.nop f)
  | 0x02 => some (.brx f)
  | 0x04 => some (.callx f)
  | 0x05 => some (.ret f)
  | 0x06 => some (.exit f)
  | 0x07 => some (.bnd f)
  | 0x08 => some (.rcv f)
  | 0x09 => some (.elect f)
  | 0x0A => some (.yield f)
  | 0x0D => some (.tret f)
  | 0x10 => some (.iadd f)
  | 0x11 => some (.isub f)
  | 0x12 => some (.iaddc f)
  | 0x13 => some (.isubb f)
  | 0x14 => some (.imul f)
  | 0x15 => some (.imulh f)
  | 0x16 => some (.imad f)
  | 0x17 => some (.imadw f)
  | 0x18 => some (.iabs f)
  | 0x19 => some (.ineg f)
  | 0x1A => some (.imin f)
  | 0x1B => some (.imax f)
  | 0x1C => some (.isad f)
  | 0x1D => some (.shl f)
  | 0x1E => some (.shr f)
  | 0x1F => some (.sha f)
  | 0x20 => some (.rot f)
  | 0x21 => some (.andw f)
  | 0x22 => some (.orw f)
  | 0x23 => some (.xorw f)
  | 0x24 => some (.notw f)
  | 0x25 => some (.andn f)
  | 0x26 => some (.lop3 f)
  | 0x27 => some (.popc f)
  | 0x28 => some (.clz f)
  | 0x29 => some (.ctz f)
  | 0x2A => some (.brev f)
  | 0x2B => some (.bfx f)
  | 0x2C => some (.bfi f)
  | 0x2D => some (.prmt f)
  | 0x2E => some (.lea f)
  | 0x2F => some (.leaw f)
  | 0x30 => some (.dp4 f)
  | 0x40 => some (.fadd f)
  | 0x41 => some (.fsub f)
  | 0x42 => some (.fmul f)
  | 0x43 => some (.ffma f)
  | 0x44 => some (.fmin f)
  | 0x45 => some (.fmax f)
  | 0x46 => some (.fabs f)
  | 0x47 => some (.fneg f)
  | 0x48 => some (.fdiv f)
  | 0x49 => some (.fsqrt f)
  | 0x4A => some (.frcp f)
  | 0x4B => some (.frsq f)
  | 0x4C => some (.fex2 f)
  | 0x4D => some (.flg2 f)
  | 0x4E => some (.fsin f)
  | 0x4F => some (.fcos f)
  | 0x50 => some (.fflr f)
  | 0x51 => some (.fceil f)
  | 0x52 => some (.ftrunc f)
  | 0x53 => some (.frnd f)
  | 0x54 => some (.ffrc f)
  | 0x55 => some (.fclass f)
  | 0x56 => some (.fscale f)
  | 0x57 => some (.fgetexp f)
  | 0x58 => some (.fdot2 f)
  | 0x70 => some (.cvt f)
  | 0x71 => some (.cvq f)
  | 0x72 => some (.cvd f)
  | 0x73 => some (.packt f)
  | 0x74 => some (.unpkt f)
  | 0x75 => some (.pack f)
  | 0x76 => some (.unpk f)
  | 0x80 => some (.icmp f)
  | 0x81 => some (.fcmp f)
  | 0x82 => some (.plop f)
  | 0x83 => some (.pmov f)
  | 0x84 => some (.sel f)
  | 0x85 => some (.mov f)
  | 0x87 => some (.movx f)
  | 0x88 => some (.movxs f)
  | 0x89 => some (.shfl f)
  | 0x8A => some (.vote f)
  | 0x8B => some (.ballot f)
  | 0x8C => some (.lred f)
  | 0x8D => some (.bcast f)
  | 0xD0 => some (.tcfg f)
  | 0xD3 => some (.tzero f)
  | 0xD5 => some (.acz f)
  | _ => none

/-- The VI words by opcode (R90). -/
def byVI (op : Nat) (f : VI) : Option Instr :=
  match op with
  | 0x0B => some (.trap f)
  | 0x0C => some (.bkpt f)
  | 0x31 => some (.iaddImm f)
  | 0x32 => some (.imulImm f)
  | 0x33 => some (.iminImm f)
  | 0x34 => some (.imaxImm f)
  | 0x35 => some (.shlImm f)
  | 0x36 => some (.shrImm f)
  | 0x37 => some (.shaImm f)
  | 0x38 => some (.rotImm f)
  | 0x39 => some (.andImm f)
  | 0x3A => some (.orImm f)
  | 0x3B => some (.xorImm f)
  | 0x3C => some (.leaImm f)
  | 0x3D => some (.bfxImm f)
  | 0x3E => some (.bfiImm f)
  | 0x3F => some (.prmtImm f)
  | 0x59 => some (.faddImm f)
  | 0x5A => some (.fmulImm f)
  | 0x5B => some (.fminImm f)
  | 0x5C => some (.fmaxImm f)
  | 0x86 => some (.movi f)
  | 0xC6 => some (.bar f)
  | 0xC7 => some (.barc f)
  | _ => none

/-- The M words by opcode (R90). -/
def byM (op : Nat) (f : FM) : Option Instr :=
  match op with
  | 0xA0 => some (.ld f)
  | 0xA1 => some (.st f)
  | 0xA2 => some (.lds f)
  | 0xA3 => some (.sts f)
  | 0xA4 => some (.ldq f)
  | 0xA5 => some (.atom f)
  | 0xA6 => some (.atoms f)
  | 0xA7 => some (.red f)
  | 0xA8 => some (.prf f)
  | 0xC0 => some (.tbinit f)
  | 0xC1 => some (.tbexp f)
  | 0xC2 => some (.tbarv f)
  | 0xC3 => some (.tbtest f)
  | 0xC4 => some (.waita f)
  | 0xC5 => some (.fence f)
  | 0xD1 => some (.tld f)
  | 0xD2 => some (.tst f)
  | 0xD7 => some (.acld f)
  | 0xD8 => some (.acst f)
  | _ => none

/-- The BR words by opcode (R90). -/
def byBR (op : Nat) (f : FBr) : Option Instr :=
  match op with
  | 0x01 => some (.bra f)
  | 0x03 => some (.call f)
  | _ => none

/-- The E words by opcode (R90). -/
def byE (op : Nat) (f : FE) : Option Instr :=
  match op with
  | 0xD4 => some (.mxa f)
  | 0xD6 => some (.acv f)
  | 0xE0 => some (.cpy f)
  | 0xE1 => some (.cpyl f)
  | 0xE2 => some (.hred f)
  | 0xE3 => some (.hgat f)
  | 0xE4 => some (.hfetch f)
  | 0xE5 => some (.lyrq f)
  | 0xE6 => some (.inst f)
  | 0xE7 => some (if f.sub = 1 then .instqAbort f else .instqQuery f)
  | _ => none

/-- The S words by opcode (R90). -/
def byS (op : Nat) (f : FS) : Option Instr :=
  match op with
  | 0x8E => some (.srd f)
  | 0x8F => some (.swr f)
  | 0xF0 => some (.prvr f)
  | 0xF1 => some (.prvw f)
  | 0xF2 => some (.eret f)
  | 0xF3 => some (.sysc f)
  | 0xF4 => some (.mtrr f)
  | 0xF5 => some (.sign f)
  | _ => none

/-- The word with its fields read, before any check. -/
def readWord (w : Nat) : Option (Fmt × Instr) :=
  let op := bitsOf w 63 56
  match fmtOf op with
  | none => none
  | some k =>
    (match k with
     | .v3 => byV3 op (rdV3 w)
     | .vi => byVI op (rdVI w)
     | .m => byM op (rdM w)
     | .br => byBR op (rdBr w)
     | .e => byE op (rdE w)
     | .s => byS op (rdS w)).map (fun i => (k, i))

/-- Decode one word: OPCODE, then RSVBIT, then FIELD (R94, R95). What depends on the group's state (LEVEL, KERB_INVALID,
FORMAT_SLOT, a tile or region the team does not have) is checked at issue. -/
def decodeWord (w : Nat) : Decoded :=
  match readWord w with
  | none => .bad .opcode 56
  | some (k, i) =>
    match i.info with
    | none => .bad .opcode 56
    | some f =>
      match leastPos (k.rsv w ++ f.rsv) with
      | some p => .bad .rsvbit p
      | none =>
        match leastPos (tailErrs w ++ f.fieldErrs) with
        | some p => .bad .field p
        | none => .instr i

/-- The little-endian value of a list of bytes (R4). -/
def leNat : List Byte → Nat
  | [] => 0
  | b :: l => b.toNat + 256 * leNat l

/-- The n bytes of a number, least significant first (R4). -/
def leBytes : Nat → Nat → List Byte
  | 0, _ => []
  | n + 1, x => BitVec.ofNat 8 x :: leBytes n (x / 256)

/-- Decode a list of bytes: the first eight are the word, the rest is handed back. -/
def decodeBytes (l : List Byte) : Decoded × List Byte :=
  if l.length < 8 then (.short, l) else (decodeWord (leNat (l.take 8)), l.drop 8)

/-- The instruction of a table word (see the host's numbering): Komel words are 64 bits, so a row longer than that is none. -/
def decodeTableWord (nbits w : Nat) : Option Instr :=
  if nbits ≤ 64 then
    match (decodeBytes (leBytes 8 w)).1 with
    | .instr i => some i
    | _ => none
  else none

/-! ### Encoding -/

/-- Bits [6:0] of a word (R77). -/
def encTail (g : Guard) (fsel : Bool) : Nat :=
  (match g with
   | .always => 124
   | .pred p neg => 4 * p.val + (if neg then 2 else 0)) + (if fsel then 1 else 0)

def encV3 (op : Nat) (f : V3) : Nat :=
  encTail f.g f.fsel + 2 ^ 8 * f.c.code + 2 ^ 18 * f.b.code + 2 ^ 28 * f.a.code + 2 ^ 38 * f.d.code +
    2 ^ 48 * f.mod.toNat + 2 ^ 52 * f.ty.code + 2 ^ 56 * op
def encVI (op : Nat) (f : VI) : Nat :=
  encTail f.g f.fsel + 2 ^ 8 * f.imm.toNat + 2 ^ 28 * f.a.code + 2 ^ 38 * f.d.code + 2 ^ 48 * f.mod.toNat +
    2 ^ 52 * f.ty.code + 2 ^ 56 * op
def encM (op : Nat) (f : FM) : Nat :=
  encTail f.g f.fsel + 2 ^ 8 * f.off.toNat + 2 ^ 20 * f.rb.toNat + 2 ^ 28 * f.a.code + 2 ^ 38 * f.d.code +
    2 ^ 48 * f.scope.toNat + 2 ^ 51 * f.ord.toNat + 2 ^ 53 * f.sz.toNat + 2 ^ 56 * op
def encBr (op : Nat) (f : FBr) : Nat :=
  encTail f.g f.fsel + 2 ^ 8 * f.offs.toNat + 2 ^ 40 * f.tprio.toNat + 2 ^ 52 * f.cond.toNat + 2 ^ 56 * op
def encE (op : Nat) (f : FE) : Nat :=
  encTail f.g f.fsel + 2 ^ 20 * f.ef.toNat + 2 ^ 28 * f.x.code + 2 ^ 38 * f.p.code + 2 ^ 49 * f.slot.toNat +
    2 ^ 52 * f.sub.toNat + 2 ^ 56 * op
def encS (op : Nat) (f : FS) : Nat :=
  encTail f.g f.fsel + 2 ^ 16 * f.idx.toNat + 2 ^ 28 * f.a.code + 2 ^ 38 * f.d.code + 2 ^ 52 * f.sub.toNat + 2 ^ 56 * op

/-- The word of an instruction; none for the steps of the table that are not words. -/
def encode : Instr → Option Nat
  | .nop f => some (encV3 0x00 f)
  | .bra f => some (encBr 0x01 f)
  | .brx f => some (encV3 0x02 f)
  | .call f => some (encBr 0x03 f)
  | .callx f => some (encV3 0x04 f)
  | .ret f => some (encV3 0x05 f)
  | .exit f => some (encV3 0x06 f)
  | .bnd f => some (encV3 0x07 f)
  | .rcv f => some (encV3 0x08 f)
  | .elect f => some (encV3 0x09 f)
  | .yield f => some (encV3 0x0A f)
  | .trap f => some (encVI 0x0B f)
  | .bkpt f => some (encVI 0x0C f)
  | .tret f => some (encV3 0x0D f)
  | .iadd f => some (encV3 0x10 f)
  | .isub f => some (encV3 0x11 f)
  | .iaddc f => some (encV3 0x12 f)
  | .isubb f => some (encV3 0x13 f)
  | .imul f => some (encV3 0x14 f)
  | .imulh f => some (encV3 0x15 f)
  | .imad f => some (encV3 0x16 f)
  | .imadw f => some (encV3 0x17 f)
  | .iabs f => some (encV3 0x18 f)
  | .ineg f => some (encV3 0x19 f)
  | .imin f => some (encV3 0x1A f)
  | .imax f => some (encV3 0x1B f)
  | .isad f => some (encV3 0x1C f)
  | .shl f => some (encV3 0x1D f)
  | .shr f => some (encV3 0x1E f)
  | .sha f => some (encV3 0x1F f)
  | .rot f => some (encV3 0x20 f)
  | .andw f => some (encV3 0x21 f)
  | .orw f => some (encV3 0x22 f)
  | .xorw f => some (encV3 0x23 f)
  | .notw f => some (encV3 0x24 f)
  | .andn f => some (encV3 0x25 f)
  | .lop3 f => some (encV3 0x26 f)
  | .popc f => some (encV3 0x27 f)
  | .clz f => some (encV3 0x28 f)
  | .ctz f => some (encV3 0x29 f)
  | .brev f => some (encV3 0x2A f)
  | .bfx f => some (encV3 0x2B f)
  | .bfi f => some (encV3 0x2C f)
  | .prmt f => some (encV3 0x2D f)
  | .lea f => some (encV3 0x2E f)
  | .leaw f => some (encV3 0x2F f)
  | .dp4 f => some (encV3 0x30 f)
  | .iaddImm f => some (encVI 0x31 f)
  | .imulImm f => some (encVI 0x32 f)
  | .iminImm f => some (encVI 0x33 f)
  | .imaxImm f => some (encVI 0x34 f)
  | .shlImm f => some (encVI 0x35 f)
  | .shrImm f => some (encVI 0x36 f)
  | .shaImm f => some (encVI 0x37 f)
  | .rotImm f => some (encVI 0x38 f)
  | .andImm f => some (encVI 0x39 f)
  | .orImm f => some (encVI 0x3A f)
  | .xorImm f => some (encVI 0x3B f)
  | .leaImm f => some (encVI 0x3C f)
  | .bfxImm f => some (encVI 0x3D f)
  | .bfiImm f => some (encVI 0x3E f)
  | .prmtImm f => some (encVI 0x3F f)
  | .fadd f => some (encV3 0x40 f)
  | .fsub f => some (encV3 0x41 f)
  | .fmul f => some (encV3 0x42 f)
  | .ffma f => some (encV3 0x43 f)
  | .fmin f => some (encV3 0x44 f)
  | .fmax f => some (encV3 0x45 f)
  | .fabs f => some (encV3 0x46 f)
  | .fneg f => some (encV3 0x47 f)
  | .fdiv f => some (encV3 0x48 f)
  | .fsqrt f => some (encV3 0x49 f)
  | .frcp f => some (encV3 0x4A f)
  | .frsq f => some (encV3 0x4B f)
  | .fex2 f => some (encV3 0x4C f)
  | .flg2 f => some (encV3 0x4D f)
  | .fsin f => some (encV3 0x4E f)
  | .fcos f => some (encV3 0x4F f)
  | .fflr f => some (encV3 0x50 f)
  | .fceil f => some (encV3 0x51 f)
  | .ftrunc f => some (encV3 0x52 f)
  | .frnd f => some (encV3 0x53 f)
  | .ffrc f => some (encV3 0x54 f)
  | .fclass f => some (encV3 0x55 f)
  | .fscale f => some (encV3 0x56 f)
  | .fgetexp f => some (encV3 0x57 f)
  | .fdot2 f => some (encV3 0x58 f)
  | .faddImm f => some (encVI 0x59 f)
  | .fmulImm f => some (encVI 0x5A f)
  | .fminImm f => some (encVI 0x5B f)
  | .fmaxImm f => some (encVI 0x5C f)
  | .cvt f => some (encV3 0x70 f)
  | .cvq f => some (encV3 0x71 f)
  | .cvd f => some (encV3 0x72 f)
  | .packt f => some (encV3 0x73 f)
  | .unpkt f => some (encV3 0x74 f)
  | .pack f => some (encV3 0x75 f)
  | .unpk f => some (encV3 0x76 f)
  | .icmp f => some (encV3 0x80 f)
  | .fcmp f => some (encV3 0x81 f)
  | .plop f => some (encV3 0x82 f)
  | .pmov f => some (encV3 0x83 f)
  | .sel f => some (encV3 0x84 f)
  | .mov f => some (encV3 0x85 f)
  | .movi f => some (encVI 0x86 f)
  | .movx f => some (encV3 0x87 f)
  | .movxs f => some (encV3 0x88 f)
  | .shfl f => some (encV3 0x89 f)
  | .vote f => some (encV3 0x8A f)
  | .ballot f => some (encV3 0x8B f)
  | .lred f => some (encV3 0x8C f)
  | .bcast f => some (encV3 0x8D f)
  | .srd f => some (encS 0x8E f)
  | .swr f => some (encS 0x8F f)
  | .ld f => some (encM 0xA0 f)
  | .st f => some (encM 0xA1 f)
  | .lds f => some (encM 0xA2 f)
  | .sts f => some (encM 0xA3 f)
  | .ldq f => some (encM 0xA4 f)
  | .atom f => some (encM 0xA5 f)
  | .atoms f => some (encM 0xA6 f)
  | .red f => some (encM 0xA7 f)
  | .prf f => some (encM 0xA8 f)
  | .tbinit f => some (encM 0xC0 f)
  | .tbexp f => some (encM 0xC1 f)
  | .tbarv f => some (encM 0xC2 f)
  | .tbtest f => some (encM 0xC3 f)
  | .waita f => some (encM 0xC4 f)
  | .fence f => some (encM 0xC5 f)
  | .bar f => some (encVI 0xC6 f)
  | .barc f => some (encVI 0xC7 f)
  | .tcfg f => some (encV3 0xD0 f)
  | .tld f => some (encM 0xD1 f)
  | .tst f => some (encM 0xD2 f)
  | .tzero f => some (encV3 0xD3 f)
  | .mxa f => some (encE 0xD4 f)
  | .acz f => some (encV3 0xD5 f)
  | .acv f => some (encE 0xD6 f)
  | .acld f => some (encM 0xD7 f)
  | .acst f => some (encM 0xD8 f)
  | .cpy f => some (encE 0xE0 f)
  | .cpyl f => some (encE 0xE1 f)
  | .hred f => some (encE 0xE2 f)
  | .hgat f => some (encE 0xE3 f)
  | .hfetch f => some (encE 0xE4 f)
  | .lyrq f => some (encE 0xE5 f)
  | .inst f => some (encE 0xE6 f)
  | .instqQuery f => some (encE 0xE7 f)
  | .instqAbort f => some (encE 0xE7 f)
  | .prvr f => some (encS 0xF0 f)
  | .prvw f => some (encS 0xF1 f)
  | .eret f => some (encS 0xF2 f)
  | .sysc f => some (encS 0xF3 f)
  | .mtrr f => some (encS 0xF4 f)
  | .sign f => some (encS 0xF5 f)
  | .clauseStart _ _ => none
  | .strandCommit _ => none
  | .stashWriteback _ _ => none
  | .waitaRecheck _ _ => none
  | .waitaTimeout _ _ => none
  | .loadComplete _ => none
  | .atomComplete _ => none
  | .funcResultWrite _ => none
  | .tileTransferComplete _ => none
  | .accTransferComplete _ => none
  | .acvComplete _ => none
  | .mxaStart _ => none
  | .matrixResidueMismatch _ _ => none
  | .mxaComplete _ => none
  | .workSteal _ => none
  | .copySectorLand _ _ _ => none
  | .homeSliceStep _ _ _ => none
  | .hgatResponse _ _ _ => none
  | .engineAccessFault _ _ => none
  | .engineLineFinish _ _ => none
  | .instComplete _ _ _ => none
  | .signComplete _ => none
  | .mtrrComplete _ => none
  | .serviceRequestConsumed => none
  | .groupSwap _ => none
  | .groupResourcesFree _ => none
  | .compaction _ _ => none
  | .teamPlacement _ _ _ _ => none
  | .teamMigration _ _ _ => none
  | .teamEnd _ => none
  | .fcBell _ => none
  | .quantumBoundary => none
  | .phaseStart _ => none
  | .dependenceRecheck _ => none
  | .phaseComplete _ => none
  | .stallAll _ _ => none
  | .contextSwitch _ _ => none
  | .ctxCreate => none
  | .ctxHalt => none
  | .haltTeamSave _ => none
  | .ctxResume => none
  | .ctxRetire => none
  | .retirementRecord _ => none
  | .ctxTeardown => none
  | .ctxCmdInvalid => none
  | .scrubComplete _ => none
  | .xlRangeWrite _ _ _ => none
  | .xlInv _ => none
  | .xlInvComplete => none
  | .xlResume _ => none
  | .stkScrways _ => none
  | .wayChangeComplete => none
  | .flsStagebase _ => none
  | .flsStagesz _ => none
  | .keyLoad _ => none
  | .bbDump _ => none
  | .bbDumpComplete => none
  | .rstReq _ => none
  | .rlRouteWrite _ _ => none
  | .registerWrite _ _ => none
  | .hostBar0Access _ _ _ => none
  | .hostBar2Access _ _ _ => none
  | .peerAccess _ _ _ => none
  | .remoteWriteAck _ => none
  | .layerArrival _ _ _ => none
  | .layerVictimChoice _ _ _ => none
  | .layerEvictionComplete _ _ _ => none
  | .flashReadEccFail _ => none
  | .reservationGrant _ => none
  | .pipeIdleRelease _ _ => none
  | .terraceDelaySet _ _ => none
  | .terraceDelayClear _ => none
  | .droopDetect _ => none
  | .suspectWindowOpen _ _ => none
  | .suspectWindowEnd _ => none
  | .governorWindow _ => none
  | .thermalReading _ _ _ => none
  | .districtHold _ => none
  | .districtDrain _ => none
  | .districtOff _ => none
  | .inrushRampStart _ => none
  | .inrushRampComplete _ _ => none
  | .correctedError _ _ => none
  | .registerEccError _ _ _ => none
  | .groupStateParityError _ => none
  | .pipelineError _ => none
  | .memoryEccError _ => none
  | .burstCheckFail _ _ _ => none
  | .linkCrcFail _ => none
  | .linkTrainStart _ => none
  | .linkTrainResult _ _ => none
  | .linkIdentComplete _ _ _ => none
  | .linkDown _ => none
  | .deviceReset _ => none
  | .bringupStep _ => none
  | .hostLinkRetry _ _ => none
  | .fenceComplete _ => none
  | .supplyRecovery _ => none

end Sys2Proof
end

