-- ==== Sys2Proof/Machine/Aes.lean ====
section
/-! DEFINITION. AES-256 (FIPS 197), its XTS mode for one 64-byte line (IEEE 1619; R399) and the AES key wrap of RFC 3394 (R433).
A block is a list of 16 bytes as naturals. -/

namespace Sys2Proof.Machine.Aes

/-- The S-box, byte x at bits [8x+7:8x]. -/
def sboxTable : Nat :=
  0x16bb54b00f2d99416842e6bf0d89a18cdf2855cee9871e9b948ed9691198f8e19e1dc186b95735610ef6034866b53e708a8bbd4b1f74dde8c6b4a61c2e2578ba08ae7a65eaf4566ca94ed58d6d37c8e779e4959162acd3c25c2406490a3a32e0db0b5ede14b8ee4688902a22dc4f816073195d643d7ea7c41744975fec130ccdd2f3ff1021dab6bcf5389d928f40a351a89f3c507f02f94585334d43fbaaefd0cf584c4a39becb6a5bb1fc20ed00d153842fe329b3d63b52a05a6e1b1a2c830975b227ebe28012079a059618c323c7041531d871f1e5a534ccf73f362693fdb7c072a49cafa2d4adf04759fa7dc982ca76abd7fe2b670130c56f6bf27b777c63

/-- The inverse S-box. -/
def invTable : Nat :=
  0x7d0c2155631469e126d677ba7e042b17619953833cbbebc8b0f52aae4d3be0a0ef9cc9939f7ae52d0d4ab519a97f51605fec8027591012b131c7078833a8dd1ff45acd78fec0db9a2079d2c64b3e56fc1bbe18aa0e62b76f89c5291d711af1476edf751ce837f9e28535ade72274ac9673e6b4f0cecff297eadc674f4111913a6b8a130103bdafc1020f3fca8f1e2cd00645b3b80558e4f70ad3bc8c00abd890849d8da75746155edab9edfd5048706c92b6655dcc5ca4d41698688664f6f87225d18b6d49a25b76b224d92866a12e084ec3fa420b954cee3d23c2a632947b54cbe9dec444438e3487ff2f9b8239e37cfbd7f3819ea340bf38a53630d56a0952

def sub (x : Nat) : Nat := bitsOf sboxTable (8 * x + 7) (8 * x)
def inv (x : Nat) : Nat := bitsOf invTable (8 * x + 7) (8 * x)

/-- Multiplication by x in GF(2^8). -/
def xt (a : Nat) : Nat := if a ≥ 128 then (2 * a - 256) ^^^ 0x1B else 2 * a

/-- Multiplication by a constant below 16. -/
def mulc (c a : Nat) : Nat :=
  let a2 := xt a
  let a4 := xt a2
  let a8 := xt a4
  (if bitOf c 0 then a else 0) ^^^ (if bitOf c 1 then a2 else 0) ^^^ (if bitOf c 2 then a4 else 0) ^^^
    (if bitOf c 3 then a8 else 0)

def xorL (a b : List Nat) : List Nat := List.zipWith (fun x y => x ^^^ y) a b

/-- The state is column-major: byte r + 4c is row r, column c. ShiftRows by s columns a row (1 forward, 3 backward). -/
def shiftRows (s : Nat) (b : List Nat) : List Nat :=
  (List.range 16).map (fun i => b.getD ((i % 4) + 4 * ((i / 4 + s * (i % 4)) % 4)) 0)

/-- MixColumns with the coefficients of the first row. -/
def mixColumns (m : List Nat) (b : List Nat) : List Nat :=
  (List.range 16).map (fun i =>
    let c := i / 4
    (List.range 4).foldl (fun acc j => acc ^^^ mulc (m.getD ((j + 4 - i % 4) % 4) 0) (b.getD (4 * c + j) 0)) 0)

/-- The word list of the AES-256 key schedule, built backwards: n more words. -/
def expand : Nat → Nat → Nat → List (List Nat) → List (List Nat)
  | 0, _, _, w => w
  | n + 1, i, rcon, w =>
    let prev := w.getD 0 []
    let old := w.getD 7 []
    let t :=
      if i % 8 = 0 then
        match (prev.drop 1 ++ prev.take 1).map sub with
        | x :: l => (x ^^^ rcon) :: l
        | [] => []
      else if i % 8 = 4 then prev.map sub else prev
    expand n (i + 1) (if i % 8 = 0 then xt rcon else rcon) (xorL old t :: w)

/-- The n-byte chunks of a list. -/
def chunks (n : Nat) : Nat → List Nat → List (List Nat)
  | 0, _ => []
  | k + 1, l => l.take n :: chunks n k (l.drop n)

/-- The fifteen round keys of a 32-byte key. -/
def roundKeys (key : List Nat) : List (List Nat) :=
  let w := (expand 52 8 1 (chunks 4 8 key).reverse).reverse
  chunks 16 15 w.flatten

def encRounds : List (List Nat) → List Nat → List Nat
  | [], b => b
  | [k], b => xorL (shiftRows 1 (b.map sub)) k
  | k :: ks, b => encRounds ks (xorL (mixColumns [2, 3, 1, 1] (shiftRows 1 (b.map sub))) k)

/-- AES-256 encryption of one block under expanded keys. -/
def encBlock (ks : List (List Nat)) (b : List Nat) : List Nat :=
  match ks with
  | [] => b
  | k :: r => encRounds r (xorL b k)

def decRounds : List (List Nat) → List Nat → List Nat
  | [], b => b
  | [k], b => xorL ((shiftRows 3 b).map inv) k
  | k :: ks, b => decRounds ks (mixColumns [14, 11, 13, 9] (xorL ((shiftRows 3 b).map inv) k))

/-- AES-256 decryption of one block under the same expanded keys. -/
def decBlock (ks : List (List Nat)) (b : List Nat) : List Nat :=
  match ks.reverse with
  | [] => b
  | k :: r => decRounds r (xorL b k)

/-- Little-endian bytes of a number. -/
def leN : Nat → Nat → List Nat
  | 0, _ => []
  | n + 1, x => x % 256 :: leN n (x / 256)

/-- The number of little-endian bytes. -/
def ofLe : List Nat → Nat
  | [] => 0
  | b :: l => b + 256 * ofLe l

/-- Multiplication of the tweak by α (IEEE 1619). -/
def tweakNext (t : Nat) : Nat :=
  if t ≥ 2 ^ 127 then (2 * t - 2 ^ 128) ^^^ 0x87 else 2 * t

def xtsBlocks (f : List Nat → List Nat) : Nat → Nat → List Nat → List Nat
  | 0, _, _ => []
  | n + 1, t, l =>
    let tb := leN 16 t
    xorL (f (xorL (l.take 16) tb)) tb ++ xtsBlocks f n (tweakNext t) (l.drop 16)

/-- XTS over one line of 64 bytes: the key is 64 bytes as a little-endian number, the tweak the line number IA[51:6]. -/
def xtsLine (enc : Bool) (key tweak : Nat) (line : List Nat) : List Nat :=
  let kb := leN 64 key
  let k1 := roundKeys (kb.take 32)
  let k2 := roundKeys (kb.drop 32)
  let t := ofLe (encBlock k2 (leN 16 tweak))
  xtsBlocks (if enc then encBlock k1 else decBlock k1) 4 t line

/-- One inner step of the key unwrap: A, the registers, and the index t. -/
def unwrapStep (ks : List (List Nat)) (n t : Nat) (st : List Nat × List (List Nat)) : List Nat × List (List Nat) :=
  let i := (t - 1) % n
  let tb := (leN 8 t).reverse
  let b := decBlock ks (xorL st.1 tb ++ st.2.getD i [])
  (b.take 8, st.2.set i (b.drop 8))

def unwrapLoop (ks : List (List Nat)) (n : Nat) : Nat → List Nat × List (List Nat) → List Nat × List (List Nat)
  | 0, st => st
  | t + 1, st => unwrapLoop ks n t (unwrapStep ks n (t + 1) st)

/-- RFC 3394 unwrap of 8(n+1) bytes under a 32-byte key; none where the check fails. -/
def unwrap (key : List Nat) (n : Nat) (c : List Nat) : Option (List Nat) :=
  let ks := roundKeys key
  let st := unwrapLoop ks n (6 * n) (c.take 8, chunks 8 n (c.drop 8))
  if st.1 = List.replicate 8 0xA6 then some st.2.flatten else none

end Sys2Proof.Machine.Aes
end

