-- ==== Sys2Proof/Machine/Mem.lean ====
section
/-! DEFINITION. Memory: reads and writes of bytes, encryption of protected contexts, the page tables of the memory side, first
touch, and the range registers (chapters 18, 19, 21). -/

namespace Sys2Proof.Machine

/-! ### Bytes -/

/-- The byte at a key as it stands in the store. -/
def Memory.get (m : Memory) (k : Nat) : Byte := KMap.getD m 0 k
/-- Store a byte. -/
def Memory.set (m : Memory) (k : Nat) (x : Byte) : Memory := KMap.setD m 0 k x
/-- The n bytes from a key on, as a little-endian number (R4). -/
def Memory.getN (m : Memory) (k : Nat) : Nat → Nat
  | 0 => 0
  | n + 1 => (Memory.get m k).toNat + 256 * Memory.getN m (k + 1) n
/-- Store n little-endian bytes. -/
def Memory.setN (m : Memory) (k : Nat) : Nat → Nat → Memory
  | 0, _ => m
  | n + 1, x => Memory.setN (Memory.set m k (BitVec.ofNat 8 x)) (k + 1) n (x / 256)

/-- The line of a key (64 bytes). -/
def lineKey (k : Nat) : Nat := k / 64
/-- The space of a key. -/
def spaceOf (k : Nat) : Nat := k / 2 ^ 64

/-- The line of the key is poisoned (R414). -/
def State.poisoned (s : State) (k : Nat) : Bool := s.poison.contains (lineKey k)

/-- An access to the byte of a key meets poison: the line in DRAM or its copy in the L2, a line of a team's scratchpad, or a
staging page of flash (R414, R417, R428). -/
def State.spoiled (s : State) (k : Nat) : Bool :=
  s.poisoned k || s.l2bad.any (fun l => l.1 == lineKey k) ||
    (decide (65536 ≤ spaceOf k) && (s.team (spaceOf k - 65536)).badLines.contains (k % 2 ^ 64 / 64)) ||
    (spaceOf k == spFlash && s.stk.badPages.contains (k % 2 ^ 64 / 16384))

/-- An access at a place meets poison: at its key, or in the stash line through which it is made (R330, R414, R428). -/
def State.badAt (s : State) (p : Loc) : Bool :=
  s.spoiled p.key ||
    (match p.win with
     | some (t, line) => (s.team t).badLines.contains line
     | none => false)

/-- The key under which a context's lines are encrypted (R399): none for an unprotected context, and for space that the
Arcade does not encrypt. -/
def State.xtsKey (s : State) (ctx k : Nat) : Option Nat :=
  let c := s.ctx ctx
  if bitOf c.flags 0 && (spaceOf k == spDram || spaceOf k == spFlash) then
    some (KMap.getD s.ident.keys 0 (bitsOf c.flags 13 8))
  else none

/-- The bytes of a line as naturals. -/
def Memory.line (m : Memory) (base : Nat) : List Nat := (List.range 64).map (fun i => (Memory.get m (base + i)).toNat)
/-- Store a line. -/
def Memory.setLine (m : Memory) (base : Nat) (l : List Nat) : Memory :=
  (l.foldl (fun (a : Memory × Nat) b => (Memory.set a.1 a.2 (BitVec.ofNat 8 b), a.2 + 1)) (m, base)).1

/-- The newest byte on its way to a peer at a place (R299, R374). -/
def State.pendingPeer (s : State) (p : Loc) : Option Byte :=
  if spaceOf p.key < 16 ∨ 65536 ≤ spaceOf p.key then none
  else
    s.peerWrites.foldl (fun acc e =>
      if e.2.peer = spaceOf p.key - 16 ∧ e.2.ia ≤ p.ia ∧ p.ia < e.2.ia + e.2.bytes.length then e.2.bytes[p.ia - e.2.ia]?
      else acc) none

/-- The byte a context reads at a place: decrypted where the context is protected (R399); a byte on its way to a peer reads as
sent. -/
def State.rd (s : State) (ctx : Nat) (p : Loc) : Byte :=
  match s.xtsKey ctx p.key with
  | none => (s.pendingPeer p).getD (s.mem.get p.key)
  | some key =>
    let base := lineKey p.key * 64
    BitVec.ofNat 8 ((Aes.xtsLine false key (p.ia / 64) (s.mem.line base)).getD (p.key % 64) 0)

/-- The store after a context writes a byte: the line is encrypted again where the context is protected (R399). -/
def State.wr (s : State) (ctx : Nat) (p : Loc) (x : Byte) : State :=
  match s.xtsKey ctx p.key with
  | none => { s with mem := s.mem.set p.key x }
  | some key =>
    let base := lineKey p.key * 64
    let plain := (Aes.xtsLine false key (p.ia / 64) (s.mem.line base)).set (p.key % 64) x.toNat
    { s with mem := s.mem.setLine base (Aes.xtsLine true key (p.ia / 64) plain) }

/-! ### Committed stores of a core (R298, R302) -/

/-- The committed stores of a core that are not yet visible beyond it, oldest first. -/
def State.fifo (s : State) (core : Nat) : List Commit := KMap.getD s.commits [] core

/-- The newest of those stores to a byte. -/
def newest (l : List Commit) (p : Loc) : Option Byte :=
  l.foldl (fun acc c => c.place.bytes.foldl (fun acc b => if b.loc.key = p.key then some b.val else acc) acc) none

/-- The byte that the groups of a core read at a place: a committed store of the core, or else what every party reads. -/
def State.see (s : State) (core ctx : Nat) (p : Loc) : Byte := (newest (s.fifo core) p).getD (s.rd ctx p)

/-- The place i bytes on. -/
def Loc.add (p : Loc) (i : Nat) : Loc := ⟨p.key + i, p.ia + i, p.win⟩

/-- The n bytes from a place on, as a number. -/
def State.rdN (s : State) (ctx : Nat) (p : Loc) : Nat → Nat
  | 0 => 0
  | n + 1 => (s.rd ctx p).toNat + 256 * s.rdN ctx (p.add 1) n
/-- Write n little-endian bytes from a place on. -/
def State.wrN (s : State) (ctx : Nat) (p : Loc) : Nat → Nat → State
  | 0, _ => s
  | n + 1, x => State.wrN (s.wr ctx p (BitVec.ofNat 8 x)) ctx (p.add 1) n (x / 256)

/-! ### What an access can meet -/

/-- The kinds of access of R376, in the order of its KIND codes; a stash access that reads and one that writes share a code. -/
inductive Acc where
  | load | store | atomic | fetch | engRead | engWrite | stashMove | stashWrite
  deriving DecidableEq, Repr

/-- KIND of R376. -/
def Acc.code : Acc → Nat
  | .load => 0 | .store => 1 | .atomic => 2 | .fetch => 3 | .engRead => 4 | .engWrite => 5 | .stashMove | .stashWrite => 6

/-- Why an access is not made. -/
inductive Miss where
  /-- A context fault: cause of R386 and DETAIL of R376 as a number of 32 bytes. -/
  | fault (cause detail : Nat)
  /-- The page is not present: 16 KiB page number of the IA, the notice code 2 or 3, and the level (R368). -/
  | absent (page code level : Nat)
  /-- A physical address that no site holds. -/
  | noSuch
  /-- A device register page (R359). -/
  | regPage
  deriving DecidableEq, Repr

/-- DETAIL of a translation fault (R376). -/
def detailOf (xcode : Nat) (kind : Acc) (rng va ia dev : Nat) : Nat :=
  xcode + 2 ^ 8 * kind.code + 2 ^ 16 * rng + 2 ^ 64 * va + 2 ^ 128 * ia + 2 ^ 192 * dev

/-! ### Physical memory -/

/-- The memory key of a DRAM physical address, where a site holds it (R17, R365). -/
def dramKey (pa : Nat) : Option Nat :=
  if pa < 2 ^ 41 ∧ pa % 2 ^ 37 < Config.dramBytes then some (memKey spDram pa) else none

/-- The block map turns a logical flash block into a physical one (R418). -/
def State.flashBlock (s : State) (b : Nat) : Nat := KMap.getD s.stk.blockMap b b

/-- The memory key of a flash physical address (R365, R418): by the physical block. -/
def State.flashKey (s : State) (pa : Nat) : Option Nat :=
  if pa < 2 ^ 43 ∧ (pa % 2 ^ 40) / Config.blockBytes < Config.flashBlocks then
    some (memKey spFlash (s.flashBlock (pa / 2 ^ 18) * 2 ^ 18 + pa % 2 ^ 18))
  else none

/-- An 8-byte word of DRAM by physical address; a hole reads 0 (log entry 12). -/
def State.paWord (s : State) (pa : Nat) : Nat :=
  match dramKey pa with
  | some k => s.mem.getN k 8
  | none => 0

/-! ### The memory side (R364-R368) -/

/-- Index of a level's table, and the size of the page its leaf maps (R364). -/
def ptIndex (level ia : Nat) : Nat :=
  match level with
  | 0 => bitsOf ia 51 40
  | 1 => bitsOf ia 39 30
  | 2 => bitsOf ia 29 21
  | _ => bitsOf ia 20 14

/-- Bits below the page of a leaf of a size code (R364). -/
def pageBits (sz : Nat) : Nat :=
  match sz with
  | 1 => 14
  | 2 => 21
  | _ => 30

/-- What a walk ends in (R366). -/
inductive Walk where
  | absent (level : Nat)
  | format
  | touch (entryPa : Nat)
  | leaf (entry : Nat) (sz : Nat)
  deriving DecidableEq, Repr

/-- One entry checked by the table of R366; the walk goes on through a pointer. -/
def State.walkFrom (s : State) (ia : Nat) : Nat → Nat → Nat → Walk
  | 0, _, _ => .format
  | fuel + 1, level, table =>
    let pa := table + 8 * ptIndex level ia
    let e := s.paWord pa
    let pres := bitOf e 63
    let sz := bitsOf e 62 61
    let ft := bitOf e 58
    if !pres && !ft then .absent level
    else
      let rsv := bitsOf e 55 54 != 0 || bitsOf e 9 0 != 0 || (sz != 0 && bitsOf e 13 10 != 0)
      let szOk := (sz == 0 && level < 3) || (sz == 4 - level && level > 0)
      let frameBad := sz ≥ 2 && bitsOf e (pageBits sz - 1) 14 != 0
      -- FL and WR are looked at only at a present leaf
      let flBad := pres && sz != 0 && bitOf e 60 && (ft || bitOf e 57)
      let ftBad := ft && (level != 3 || sz != 1)
      if rsv || !szOk || frameBad || flBad || ftBad then .format
      else if !pres then .touch pa
      else if sz == 0 then s.walkFrom ia fuel (level + 1) (bitsOf e 42 10 * 1024)
      else .leaf e sz

/-- The walk of an IA (R364). -/
def State.walk (s : State) (ia : Nat) : Walk := s.walkFrom ia 4 0 s.xl.ptRoot

/-- Write a table entry in DRAM. -/
def State.setPaWord (s : State) (pa x : Nat) : State :=
  match dramKey pa with
  | some k => { s with mem := s.mem.setN k 8 x }
  | none => s

/-- Write zeros to one 16 KiB frame. -/
def State.zeroBytes (s : State) (pa : Nat) : State :=
  let k := memKey spDram pa
  { s with mem := s.mem.filter (fun e => !(decide (k ≤ e.1) && decide (e.1 < k + 16384))) }

/-- Zero a frame at its placement, and clear the poison of its lines (R367, R414). -/
def State.zeroFrame (s : State) (pa : Nat) : State :=
  let k := memKey spDram pa
  let here := fun (l : Nat) => decide (k / 64 ≤ l) && decide (l < (k + 16384) / 64)
  { s.zeroBytes pa with
           poison := s.poison.filter (fun l => !here l), l2bad := s.l2bad.filter (fun l => !here l.1) }

/-- COUNT and STACK of a site's free-frame descriptor (R367). -/
def State.freeCount (s : State) (site : Nat) : Nat := s.paWord (s.xl.flBase + 16 * site + 8) % 2 ^ 32
def State.freeStack (s : State) (site : Nat) : Nat := s.paWord (s.xl.flBase + 16 * site)

/-- First-touch placement of the page of an IA by a local touch from a tower (R367): the state after it. Where the page needs
no placement, or no frame is free, nothing changes. -/
def State.firstTouch (s : State) (tower ia : Nat) : State :=
  match s.walk ia with
  | .touch pa =>
    let n0 := s.freeCount (2 * tower)
    let n1 := s.freeCount (2 * tower + 1)
    let site := if n1 > n0 then 2 * tower + 1 else 2 * tower
    let n := max n0 n1
    if n = 0 then s
    else
      let frame := bitsOf (s.paWord (s.freeStack site + 8 * (n - 1))) 42 14
      let s1 := s.zeroFrame (frame * 2 ^ 14)
      let cpa := s.xl.flBase + 16 * site + 8
      let s2 := s1.setPaWord cpa (s1.paWord cpa / 2 ^ 32 * 2 ^ 32 + (n - 1))
      let e := s2.paWord pa
      s2.setPaWord pa (2 ^ 63 + bitsOf e 62 59 * 2 ^ 59 + bitsOf e 57 43 * 2 ^ 43 + frame * 2 ^ 14 + bitsOf e 13 0)
  | _ => s

/-- First touch from a peer: with RP the page is placed on the peer, which zeroes a frame of its own (R367). -/
def State.firstTouchPeer (s : State) (peer tower ia : Nat) : State :=
  match s.walk ia with
  | .touch pa =>
    let e := s.paWord pa
    if bitOf e 43 then
      let base := memKey (spPeer peer) (ia / 16384 * 16384)
      let s1 := { s with mem := s.mem.filter (fun (e : Nat × Byte) => !(decide (base ≤ e.1) && decide (e.1 < base + 16384))) }
      s1.setPaWord pa (2 ^ 63 + bitsOf e 62 59 * 2 ^ 59 + bitsOf e 57 57 * 2 ^ 57 + 2 ^ 56 + peer * 2 ^ 44 + bitsOf e 43 0)
    else s.firstTouch tower ia
  | _ => s

/-- An access writes, for the checks of WR and for regions. -/
def Acc.writes : Acc → Bool
  | .store | .atomic | .engWrite | .stashWrite => true
  | _ => false

/-- Links of a peer that a line may take, and whether the one it takes is up (R438). -/
def State.peerUp (s : State) (peer ia : Nat) : Bool :=
  let mask := KMap.getD s.routes 0 peer
  let set := (List.range 24).filter (fun i => bitOf mask i)
  match set[bitsOf ia 19 6 % set.length]? with
  | some l => (KMap.getD s.links {} l).st == .up
  | none => false

/-- The place of an IA on a peer (R361, R366, R438). -/
def State.peerLoc (s : State) (peer ia : Nat) (kind : Acc) (rng va : Nat) : Except Miss Loc :=
  if s.peerUp peer ia then .ok ⟨memKey (spPeer peer) ia, ia, none⟩
  else .error (.fault 9 (detailOf 5 kind rng va ia peer))

/-- Reads of FL pages fault: the staging cache has no size (R415). -/
def State.flashPoison (s : State) : Bool := s.stk.stageSize == 0

/-- The memory side's translation of an IA (R359, R364-R366), after any first touch. -/
def State.iaLoc (s : State) (kind : Acc) (rng va ia : Nat) : Except Miss Loc :=
  if ia / 2 ^ 48 ≥ 16 ∨ ia / 2 ^ 48 = 0xC ∨ ia / 2 ^ 48 = 0xD then .error (.fault 8 (detailOf 1 kind rng va ia 0))
  else if ia / 2 ^ 48 = 0xF then
    .ok ⟨memKey (spHost (bitsOf ia 47 47))
      ((bitsOf ia 46 0 + (if bitOf ia 47 then s.hw.off1 else s.hw.off0)) % 2 ^ 64), ia, none⟩
  else if ia / 2 ^ 48 = 0xE then .error .regPage
  else
    match s.walk ia with
    | .absent level => .error (.absent (ia / 16384) 2 level)
    | .touch _ => .error (.absent (ia / 16384) 3 3)
    | .format => .error (.fault 8 (detailOf 4 kind rng va ia 0))
    | .leaf e sz =>
      if bitOf e 59 then .error (.fault 8 (detailOf 6 kind rng va ia 0))
      else if kind.writes && !bitOf e 57 then .error (.fault 8 (detailOf 3 kind rng va ia 0))
      else if bitOf e 56 then s.peerLoc (bitsOf e 53 44) ia kind rng va
      else
        let pa := bitsOf e 42 14 * 2 ^ 14 + ia % 2 ^ pageBits sz
        if bitOf e 60 then
          if s.flashPoison then .error (.fault 10 0)
          else
            match s.flashKey pa with
            | some k => if s.spoiled k then .error (.fault 10 0) else .ok ⟨k, ia, none⟩
            | none => .error .noSuch
        else
          match dramKey pa with
          | some k => if s.spoiled k then .error (.fault 10 0) else .ok ⟨k, ia, none⟩
          | none => .error .noSuch

/-! ### Range registers (R360, R361) -/

/-- Word w of range register n of a context. -/
def Ctx.range (c : Ctx) (n w : Nat) : Nat := (KMap.getD c.ranges 0 (4 * n + w)).toNat

/-- V of a range register. -/
def Ctx.rangeV (c : Ctx) (n : Nat) : Bool := bitOf (c.range n 3) 0

/-- The lowest register that holds a line (R361). -/
def Ctx.rangeOf (c : Ctx) (va : Nat) : Option Nat :=
  (List.range 16).find? (fun n =>
    c.rangeV n && decide (c.range n 0 ≤ va) && decide (va + 64 ≤ c.range n 1))

/-- The permission of R360 that an access needs, as a bit of word 3: RD 2, WR 3, AT 4, X 5. -/
def Acc.perm : Acc → Nat
  | .load | .engRead | .stashMove => 2
  | .store | .engWrite | .stashWrite => 3
  | .atomic => 4
  | .fetch => 5

/-- The access acts from an engine (R359). -/
def Acc.engine : Acc → Bool
  | .engRead | .engWrite => true
  | _ => false

/-- A line's intermediate address, its range register and whether a peer holds it (R361). -/
def State.vaIa (s : State) (ctx : Nat) (kind : Acc) (line : Nat) : Except Miss (Nat × Nat × Option Nat) :=
  let c := s.ctx ctx
  match c.rangeOf line with
  | none => .error (.fault 8 (detailOf 1 kind 0xFF line 0 0))
  | some n =>
    let w3 := c.range n 3
    if !bitOf w3 kind.perm then .error (.fault 8 (detailOf 2 kind n line ((line + c.range n 2) % 2 ^ 64) 0))
    else
      let ia := (line + c.range n 2) % 2 ^ 64
      let region := ia / 2 ^ 48
      if ia ≥ 2 ^ 52 ∨ region = 0xC ∨ region = 0xD then .error (.fault 8 (detailOf 1 kind n line ia 0))
      else if (region == 0xE && (!bitOf c.flags 1 || kind == .atomic || kind.engine)) ||
          (region == 0xF && (kind == .atomic || kind.engine)) then
        .error (.fault 8 (detailOf 2 kind n line ia 0))
      else if bitOf w3 6 then
        let dev := bitsOf w3 41 32
        if bitsOf w3 63 48 = KMap.getD s.xl.peerGen 0 dev then .ok (ia, n, some dev)
        else .error (.fault 9 (detailOf 5 kind n line ia dev))
      else .ok (ia, n, none)

/-- The place of a virtual line, after any first touch (R361, R366). -/
def State.vaLine (s : State) (ctx : Nat) (kind : Acc) (line : Nat) : Except Miss Loc :=
  match s.vaIa ctx kind line with
  | .error m => .error m
  | .ok (ia, n, some dev) => s.peerLoc dev ia kind n line
  | .ok (ia, n, none) => s.iaLoc kind n line ia

/-- Place the page of a virtual line if its first touch is due (R367). -/
def State.touchVa (s : State) (ctx tower : Nat) (kind : Acc) (line : Nat) : State :=
  match s.vaIa ctx kind line with
  | .ok (ia, _, none) => if ia / 2 ^ 48 < 0xC then s.firstTouch tower ia else s
  | _ => s

/-- The place of the byte at a virtual address. -/
def State.vaLoc (s : State) (ctx : Nat) (kind : Acc) (va : Nat) : Except Miss Loc :=
  match s.vaLine ctx kind (va / 64 * 64) with
  | .ok p => .ok (p.add (va % 64))
  | .error m => .error m

/-- First touch of every line of a byte range. -/
def State.touchRange (s : State) (ctx tower : Nat) (kind : Acc) (va n : Nat) : State :=
  (List.range ((va % 64 + n + 63) / 64)).foldl (fun s i => s.touchVa ctx tower kind (va / 64 * 64 + 64 * i)) s

/-- The places of n bytes at a virtual address, line by line; the first line that misses ends it. -/
def State.vaBytes (s : State) (ctx : Nat) (kind : Acc) (va n : Nat) : Except Miss (List Loc) :=
  (List.range ((va % 64 + n + 63) / 64)).foldl (fun acc i =>
    match acc with
    | .error m => .error m
    | .ok l =>
      match s.vaLine ctx kind (va / 64 * 64 + 64 * i) with
      | .error m => .error m
      | .ok p =>
        let lo := if i = 0 then va % 64 else 0
        let hi := min 64 (va % 64 + n - 64 * i)
        .ok (l ++ (List.range (hi - lo)).map (fun j => p.add (lo + j))))
    (.ok [])

/-- Read n bytes of a context's virtual memory as a number. -/
def State.vaRead (s : State) (ctx : Nat) (kind : Acc) (va n : Nat) : Except Miss Nat :=
  match s.vaBytes ctx kind va n with
  | .error m => .error m
  | .ok l => .ok (leNat (l.map (s.rd ctx)))

/-- Write the bytes of a list at places. -/
def State.wrAll (s : State) (ctx : Nat) : List (Loc × Byte) → State
  | [] => s
  | (p, x) :: l => State.wrAll (s.wr ctx p x) ctx l

/-- Write n bytes of a context's virtual memory. -/
def State.vaWrite (s : State) (ctx : Nat) (kind : Acc) (va n x : Nat) : Except Miss State :=
  match s.vaBytes ctx kind va n with
  | .error m => .error m
  | .ok l => .ok (s.wrAll ctx (l.zip (leBytes n x)))

/-- The places of n bytes at an intermediate address (R445). -/
def State.iaBytes (s : State) (kind : Acc) (ia : Nat) : Nat → Except Miss (List Loc)
  | 0 => .ok []
  | n + 1 =>
    match s.iaLoc kind 0xFF 0 ia, s.iaBytes kind (ia + 1) n with
    | .error m, _ => .error m
    | _, .error m => .error m
    | .ok p, .ok l => .ok (p :: l)

/-- Read n bytes at an intermediate address, as stored (plaintext areas of R445). -/
def State.iaRead (s : State) (ia n : Nat) : Except Miss Nat :=
  match s.iaBytes .load ia n with
  | .error m => .error m
  | .ok l => .ok (leNat (l.map (fun p => s.mem.get p.key)))

/-- First touch of every line of a range of intermediate addresses, by a unit that stands on no tower: it acts as one of tower 0
(R367, log entry 17). -/
def State.iaTouch (s : State) (ia n : Nat) : State :=
  (List.range ((ia % 64 + n + 63) / 64)).foldl (fun s i =>
    let a := ia / 64 * 64 + 64 * i
    if a / 2 ^ 48 < 0xC then s.firstTouch 0 a else s) s

/-- Write bytes at an intermediate address, as plaintext; nothing is written where a page is absent or faults. -/
def State.iaWrite (s : State) (ia : Nat) (bytes : List Byte) : Except Miss State :=
  let s1 := s.iaTouch ia bytes.length
  match s1.iaBytes .store ia bytes.length with
  | .error m => .error m
  | .ok l => .ok ((l.zip bytes).foldl (fun s e => { s with mem := s.mem.set e.1.key e.2 }) s1)

end Sys2Proof.Machine
end

