-- ==== Sys2Proof/Machine/Report.lean ====
section
/-! DEFINITION. What the device reports: black-box events (R429), notices (R435), meters (R392) and bytes of records. -/

namespace Sys2Proof.Machine

/-- Keep the last 4,096 events of a ring (R429). -/
def ringPush (l : List BbEvent) (e : BbEvent) : List BbEvent := (l ++ [e]).drop ((l.length + 1) - 4096)

/-- The event enters the ring, or the second ring while a dump is written (R430); ESEQ counts it. -/
def State.logRaw (s : State) (code core ctx detail : Nat) : State :=
  let a := s.aon
  let e : BbEvent := ⟨a.eseq, code, core, ctx, detail⟩
  if a.dump.isSome then { s with aon := { a with eseq := a.eseq + 1, second := ringPush a.second e } }
  else { s with aon := { a with eseq := a.eseq + 1, ring := ringPush a.ring e } }

/-- The word "no core" of an event, and of a notice or a fault record. -/
def noCore16 : Nat := 0xFFFF
def noCore : Nat := 0xFFFFFFFF
def noCtx : Nat := 0xFFFFFFFF
/-- Accesses from outside the device act for no context: the number is above every identifier, and nothing of it is encrypted
(R315, R399). -/
def outsideCtx : Nat := 2 ^ 32

/-- A notice of 32 bytes (R435): dropped while the ring is full or not enabled, or where its write fails. -/
def State.notice (s : State) (code core ctx hi : Nat) : State :=
  let n := s.nr
  let lose := { s with nr := { n with lost := (n.lost + 1) % 2 ^ 64 } }
  if !n.enable then lose
  else if (n.pos + 2 ^ 64 - n.doneCount) % 2 ^ 64 = 2 ^ n.log2n then lose
  else
    let bytes := leBytes 32 (code + 2 ^ 32 * core + 2 ^ 64 * ctx + 2 ^ 128 * hi)
    match s.iaWrite (n.base + 32 * (n.pos % 2 ^ n.log2n)) bytes with
    | .ok s1 => { s1 with nr := { s1.nr with pos := (n.pos + 1) % 2 ^ 64, msix := n.msix + 1 } }
    | .error _ => lose

/-- Log an event; codes 3, 7 and 8 also post a notice of code 5 with its ESEQ (R435). -/
def State.log (s : State) (code core ctx detail : Nat) : State :=
  let q := s.aon.eseq
  let s1 := s.logRaw code core ctx detail
  if code = 3 ∨ code = 7 ∨ code = 8 then
    s1.notice 5 (if core = noCore16 then noCore else core) ctx q
  else s1

/-- The notice of a page that is not present (R368): one a 16 KiB page until it is resumed. -/
def State.pageNotice (s : State) (core ctx page code level : Nat) : State :=
  if s.xl.noticed.contains page then s
  else
    let s1 := s.notice code core ctx (page * 16384 + level * 2 ^ 64)
    { s1 with xl := { s1.xl with noticed := page :: s1.xl.noticed } }

/-- Add a count to a meter, saturating at 2^64 - 1 with the sticky bit (R392). -/
def Ctx.addMeter (c : Ctx) (i n : Nat) : Ctx :=
  let x := KMap.getD c.meters 0 i + n
  if x < 2 ^ 64 then { c with meters := KMap.setD c.meters 0 i x }
  else { c with meters := KMap.setD c.meters 0 i (2 ^ 64 - 1), sticky := c.sticky ||| BitVec.ofNat 16 (2 ^ i) }

/-- Add a count to a meter of a context. -/
def State.meter (s : State) (ctx i n : Nat) : State := s.modCtx ctx (fun c => c.addMeter i n)

/-- Link state change: event 10 and notice of code 6 (R435). -/
def State.linkEvent (s : State) (link st : Nat) : State :=
  (s.log 10 noCore16 noCtx (link + 256 * st)).notice 6 noCore noCtx (link + 256 * st)

end Sys2Proof.Machine
end

