-- ==== Sys2Proof/Machine/Ops.lean ====
section
/-! DEFINITION. The operations every meaning shares: making stores visible, discard (R271), context faults (R385), taking a trap
and returning from it (R97-R101), sealing and committing (R264, R268), and what a group does of itself once a step has changed
it (joins, barriers, the end of handler mode, the end of the group). -/

namespace Sys2Proof.Machine

/-! ### Clause headers (R69, R70, R76) -/

/-- The position of R76 for a reserved header; none for a good one. -/
def hdrErr (w : Nat) : Option Nat :=
  let seta := bitsOf w 47 44
  let setb := bitsOf w 43 40
  if bitsOf w 63 60 = 0 then some 60
  else if 12 ≤ seta ∧ seta ≤ 14 then some 44
  else if 12 ≤ setb ∧ setb ≤ 14 then some 40
  else if seta = setb ∧ seta ≠ 15 then some 40
  else if bitsOf w 31 30 = 3 then some 30
  else leastPos (setBits w 28 0)

/-- KIND, PRIO, WAITM, CLEN, DUALOK and YIELD of a header (R70). -/
def hdrKind (w : Nat) : Nat := bitsOf w 31 30
def hdrPrio (w : Nat) : Nat := bitsOf w 39 32
def hdrWait (w : Nat) : Nat := bitsOf w 59 48
def hdrLen (w : Nat) : Nat := bitsOf w 63 60
def hdrDual (w : Nat) : Bool := bitOf w 28
def hdrYield (w : Nat) : Bool := bitOf w 29

/-- The flag that a word of the clause sets (R72). -/
def Clause.flag (c : Clause) (fsel : Bool) : Option Nat :=
  let f := if fsel then bitsOf c.word 43 40 else bitsOf c.word 47 44
  if f < 12 then some f else none

/-- Read one word of code through the fetch translation (R375): of code that is overwritten while it runs, the new value (R112, log
entry 77). -/
def State.fetchWord (s : State) (ctx va : Nat) : Except Miss Nat := s.vaRead ctx .fetch va 8

/-- What kld's load tells of an address: it is a clause header of the code that the group's phase runs. Of code that no load names it tells
of every multiple of 8 that it is one. -/
def State.loadedHeader (s : State) (gid target : Nat) : Bool :=
  let p := s.phaseOf gid
  let off := target - p.record.codeBase
  off % 8 == 0 && decide (p.record.codeBase ≤ target) &&
    (match p.codeIa.bind (fun ia => s.codes.find? (fun c => c.hash == p.record.chash && c.ia == ia)) with
     | some c => c.headers.contains off
     | none => true)

/-- Whether the headers walked from pos on, each naming the next by its CLEN, reach the target (R69). -/
def State.reaches (s : State) (ctx target : Nat) : Nat → Nat → Except Miss Bool
  | 0, _ => .ok false
  | fuel + 1, pos =>
    if pos = target then .ok true
    else if target < pos then .ok false
    else
      match s.fetchWord ctx pos with
      | .ok w => s.reaches ctx target fuel (pos + 8 * (hdrLen w + 1))
      | .error m => .error m

/-- The address is a clause header inside the code segment extent of the group's launch (R69, R171). -/
def State.isHeader (s : State) (gid target : Nat) : Except Miss Bool :=
  let r := (s.phaseOf gid).record
  if target < r.codeBase + r.codeExt then s.reaches (s.grp gid).ctx target (r.codeExt / 8 + 1) r.codeBase else .ok false

/-- The address is no header (R69). Where a page of the headers before it is not present or faults, what kld's load tells decides: nothing
is held and nothing faults for clauses that no entry starts (DEDUCED: R375; log entry 43). -/
def State.badHeader (s : State) (gid target : Nat) : Bool :=
  match s.isHeader gid target with
  | .ok b => !b
  | .error _ => !s.loadedHeader gid target

/-! ### Discard (R271) -/

/-- An in-flight instruction of the strand after lanes m are discarded; none where nothing of it is left. -/
def Op.discard (m : Mask) (o : Op) : Option Op :=
  if o.committed || (o.entry &&& m) == 0 then some o
  else
    let lanes := minus o.lanes m
    let gone := decide (minus o.entry m = 0)
    let o1 := { o with lanes := lanes, entry := minus o.entry m, flag := if o.once || gone then none else o.flag }
    match o.kind with
    | .load b a sc ls =>
      if lanes = 0 then none else some { o1 with kind := .load b a sc (ls.filter (fun e => !m.getLsbD e.1)) }
    | .acld r h ls =>
      if lanes = 0 then none else some { o1 with kind := .acld r h (ls.filter (fun e => !m.getLsbD e.1)) }
    | .acst r h ls =>
      if lanes = 0 then none else some { o1 with kind := .acst r h (ls.filter (fun e => !m.getLsbD e.1)) }
    | .atom b op od sc sp rt st =>
      let left := st.filter (fun e => !m.getLsbD e.lane)
      let done := left.all (fun e => e.old.isSome)
      if lanes = 0 ∨ (done ∧ !rt) then none else some { o1 with kind := .atom b op od sc sp rt left, pending := !done }
    | .func _ => if lanes = 0 then none else some o1
    | .mtrr _ => if lanes = 0 then none else some o1
    | .sign _ _ _ _ _ _ => if o.pending && gone then none else some o1
    | .cmd _ => if o1.flag.isNone then none else some o1
    | _ => if gone then none else some o1

/-- Add a lane to a list of entries to re-enter: one entry for each entry PC, and for each page that its lanes wait on (R279,
R285). -/
def addReentry (w : Wait) (pc prio l : Nat) : List Entry → List Entry
  | [] => [{ pc := pc, prio := prio, mask := laneBit l, wait := w }]
  | e :: es =>
    if e.pc = pc ∧ e.prio = prio ∧ e.wait = w then { e with mask := e.mask ||| laneBit l } :: es
    else e :: addReentry w pc prio l es

/-- How a discarded lane waits: parked on the page named for it, or not at all (R272, R285). -/
def parkWait (parks : List (Nat × Nat)) (l : Nat) : Wait :=
  match parks.find? (fun e => e.1 == l) with
  | some e => .parked e.2
  | none => .none

/-- The lanes of parked entries. -/
def Group.parked (g : Group) : Mask := g.entries.foldl (fun m e => if e.isParked then m ||| e.mask else m) 0

/-- What a discard of lanes m does to the group itself: kerb, buffer, predicates, S registers and SWR values, read set, exits,
handler mode and the frontier. parks names the page of each lane that parks. Lanes that stand at a strand boundary, which have no
work in the strand, do not count as undiscarded when S and SWR values are restored (DEDUCED: R271 does not say; log entry 81). -/
def Group.discard (g : Group) (m : Mask) (counts : Bool) (parks : List (Nat × Nat)) : Group :=
  let rest := minus (minus allLanes g.sealed) (m ||| g.outside)
  let back := (lanesOf m).foldl (fun es l => addReentry (parkWait parks l) (KMap.getD g.entryPc 0 l) (KMap.getD g.entryPrio 0 l) l es) []
  let g1 := g.dropLanes m
  let parked := !parks.isEmpty
  let g2 : Group := { g1 with
    entries := g1.entries ++ back
    kerb := g1.kerb.filter (fun e => !m.getLsbD (e.1 % 64))
    buffer := g1.buffer.map (fun p =>
      { p with lanes := minus p.lanes m, bytes := p.bytes.filter (fun b => !m.getLsbD b.lane) })
    p := (List.range 24).foldl (fun a r =>
      KMap.setD a 0 r (minus (KMap.getD a 0 r) m ||| (KMap.getD g.snap.p 0 r &&& m))) g1.p
    exited := minus g1.exited m
    sealed := minus g1.sealed m
    outside := g1.outside ||| m
    counts := g1.counts.filter (fun e => !m.getLsbD (e.1 % 64))
    acv := g1.acv.map (fun e => (e.1, minus e.2.1 m, e.2.2))
    issued := (g1.issued.map (fun x => minus x m)).filter (fun x => x != 0)
    redo := if parked then g1.redo ||| m else minus g1.redo m
    owing := if parked then g1.owing ||| m else minus g1.owing m
    parkedIn := if parked then g1.parkedIn ||| m else minus g1.parkedIn m
    beats := (g1.beats.map (fun b => { b with lanes := minus b.lanes m })).filter (fun b => b.lanes != 0)
    reentry := if counts then min 255 (g1.reentry + 1) else g1.reentry
    recheck := if counts then (lanesOf m).foldl (fun a l => KMap.insert a l (g1.reentry + 1)) g1.recheck else g1.recheck
    deferred := g1.deferred.bind (fun d => if minus d.lanes m = 0 then none else some { d with lanes := minus d.lanes m })
    handler := if g1.entries.any (fun e => e.handler) then g1.handler else none }
  if rest = 0 then
    { g2 with s := g.snap.s, limit := g.snap.limit, utvec := g.snap.utvec, readSet := 0 }
  else g2

/-- Withdraw the group's barrier arrivals (R266): an emptied phase counts as not begun. -/
def Bar.withdraw (gid : Nat) (b : Bar) : Bar := { b with arrived := b.arrived.filter (fun x => x != gid) }

def State.withdraw (s : State) (gid : Nat) : State :=
  let t := (s.grp gid).team
  let s1 := s.modTeam t (fun x => { x with bars := x.bars.map (fun e => (e.1, e.2.withdraw gid)) })
  s1.modPhase (s.team t).phase (fun x => { x with bars := x.bars.map (fun e => (e.1, e.2.withdraw gid)) })

/-- The reservations of conversions that are gone end (R420). -/
def State.dropHolders (s : State) (core : Nat) : State :=
  let live : Holder × Nat → Bool := fun h =>
    match h.1 with
    | .acv op => (KMap.find? s.ops op).isSome
    | _ => true
  s.modDistrict (districtOf core) (fun d => { d with
    granted := d.granted.filter live, waiting := d.waiting.filter live
    idle := if d.granted.all live then d.idle else s.now (.district (districtOf core)) })

/-- Discard lanes of a group in one step (R271), with the meter of discarded instructions (R276). Lanes that wait to start their
strand, and have not parked, have nothing to discard, and a sealed lane is never discarded (R267). -/
def State.discard (s : State) (gid : Nat) (m : Mask) (counts : Bool) (parks : List (Nat × Nat)) : State :=
  let g := s.grp gid
  let m1 := minus (m &&& (~~~g.outside ||| g.parked)) g.sealed
  if m1 = 0 ∨ g.ended then s
  else
    let words := (g.issued.filter (fun x => x &&& m1 != 0)).length
    let waits := g.entries.any (fun e => (e.mask &&& m1 != 0) &&
      (match e.wait with
       | .bar _ _ => true
       | _ => false))
    -- the governor's hold ends for entries that are wholly discarded, and its cycles count (R424)
    let held := g.entries.foldl (fun n e => if minus e.mask m1 = 0 then n + e.heldCycles (s.clock (s.coreOf gid)) else n) 0
    let s1 := (if waits then s.withdraw gid else s).modGrp gid (fun g => { g with govStall := min (g.govStall + held) (2 ^ 64 - 1) })
    let s2 := { s1 with ops := s1.ops.filterMap (fun (e : Nat × Op) =>
        if e.2.gid = gid then (e.2.discard m1).map (fun o => (e.1, o)) else some e) }
    ((s2.modGrp gid (fun g => g.discard m1 counts parks)).meter g.ctx 12 words).dropHolders (s.coreOf gid)

/-- Discard every unsealed lane of a group (R270). -/
def State.discardGroup (s : State) (gid : Nat) (counts : Bool) : State :=
  let s1 := s.discard gid (minus allLanes (s.grp gid).sealed) counts []
  s1.modGrp gid (fun g => { g with parkedIn := 0, owing := 0 })

/-! ### Context faults (R274, R385) -/

/-- The bytes of a fault record, list included (R385). -/
def FaultRec.bytes (r : FaultRec) : List Byte :=
  let list := r.sealed.take 504
  leBytes 64 (r.cause + 2 ^ 16 * r.xcause + 2 ^ 24 * (if r.sealed.length > 504 then 1 else 0) + 2 ^ 32 * r.core +
    2 ^ 64 * r.team + 2 ^ 96 * r.group + 2 ^ 128 * r.addr + 2 ^ 192 * r.others + 2 ^ 224 * list.length +
    2 ^ 256 * r.detail) ++
  list.flatMap (fun e => leBytes 8 (e.1 + 2 ^ 32 * e.2))

/-- Teams of a context with sealed groups: team number, and the mask of those groups (R385). -/
def State.sealedTeams (s : State) (ctx : Nat) : List (Nat × Nat) :=
  (s.teams.filter (fun t => t.2.ctx == ctx)).filterMap (fun t =>
    let m := (s.groupsOf t.1).foldl (fun a g => if g.2.sealed != 0 then a + 2 ^ g.2.num else a) 0
    if m = 0 then none else some (t.2.num, m))

/-- Stop the context: every lane of every group is discarded, sealed lanes included (R274). -/
def State.stopGroups (s : State) (ctx : Nat) : State :=
  (s.groupsOfCtx ctx).foldl (fun s e =>
    ((s.modGrp e.1 (fun g => { g with sealed := 0 })).discard e.1 allLanes false []).modGrp e.1 (fun g =>
      { g with sealed := 0, parkedIn := 0, owing := 0, skip := g.skip ++ g.accepted, accepted := [] })) s

/-- Count one more fault of a stopped context (R385). -/
def FaultRec.more (f : FaultRec) : FaultRec := { f with others := min (f.others + 1) (2 ^ 32 - 1) }

/-- The notice of a context fault, once its record stands (R385). -/
def State.faultNotice (s : State) (ctx : Nat) : State :=
  match (s.ctx ctx).fault with
  | some r => if (s.ctx ctx).faultDue then (s.modCtx ctx (fun c => { c with faultDue := false })).notice 4 r.core ctx 0 else s
  | none => s

/-- Write the recorded fault of a context at CTX_FREC, and post its notice if that is due. An absent page holds the write, and the notice
behind it, until it is resumed, and a fault of the write is one more fault of the context, logged and counted in OTHERS (R368, R385,
R445). -/
def State.writeFault (s : State) (ctx : Nat) : State :=
  let c := s.ctx ctx
  match c.fault with
  | none => s
  | some r =>
    if c.frec = 0 then s.faultNotice ctx
    else
      match s.iaWrite c.frec r.bytes with
      | .ok s1 => (s1.modCtx ctx (fun c => { c with frecWait := false })).faultNotice ctx
      | .error (.absent page code level) =>
        ((s.iaTouch c.frec r.bytes.length).pageNotice noCore ctx page code level).modCtx ctx (fun c => { c with frecWait := true })
      | .error (.fault cause _) =>
        ((s.logRaw 1 noCore16 ctx cause).modCtx ctx (fun c => { c with fault := some r.more, frecWait := false })).faultNotice ctx
      | .error _ => s.faultNotice ctx

/-- A context fault: the first stops the context and is recorded and posted, the later ones are counted in OTHERS; each is
logged (R385). -/
def State.contextFault (s : State) (ctx : Nat) (r : FaultRec) : State :=
  let s0 := s.logRaw 1 (if r.core = noCore then noCore16 else r.core) ctx r.cause
  let c := s0.ctx ctx
  match c.st with
  | .active =>
    let r1 := { r with sealed := s0.sealedTeams ctx, detail := r.detail + 2 ^ 32 * c.unknown }
    let s1 := s0.stopGroups ctx
    let s2 := s1.modCtx ctx (fun c => { c with st := .stopped, fault := some r1, unknown := 0, faultDue := true })
    s2.writeFault ctx
  | .stopped => (s0.modCtx ctx (fun c => { c with fault := c.fault.map FaultRec.more })).writeFault ctx
  | _ => s0

/-- The fault of a group at a word: cause, DETAIL and XCAUSE. -/
def State.groupFault (s : State) (gid cause pc detail xcause : Nat) : State :=
  let g := s.grp gid
  let t := s.team g.team
  s.contextFault g.ctx
    { cause := cause, xcause := xcause, core := t.core, team := t.num, group := g.num, addr := pc, detail := detail }

/-- The fault of an accepted engine command (R231, R385): of the issuing team, at the command word. -/
def State.cmdFault (s : State) (c : Cmd) (cause detail : Nat) : State :=
  s.contextFault c.ctx
    { cause := cause, core := c.core, team := (s.team c.team).num, group := 0xFF, addr := c.pc, detail := detail }

/-! ### Making stores visible (R194, R264, R268, R298, R302) -/

/-- A command owns a line: it took the line of the key, or the virtual line that now lies there (R310). -/
def State.ownsLine (s : State) (c : Cmd) (line : Nat) : Bool :=
  c.owned.contains line || c.ownedVa.any (fun va =>
    match s.vaLine c.ctx .engWrite va with
    | .ok p => lineKey p.key == line
    | .error _ => false)

/-- An engine command owns the line of a key (R310). -/
def State.owned (s : State) (key : Nat) : Bool := s.cmds.any (fun e => s.ownsLine e.2 (lineKey key))

/-- Read a byte of a load now, unless it was captured before, or its line waits for an engine (R310). -/
def LByte.capture (s : State) (core ctx : Nat) (b : LByte) : LByte :=
  match b.val with
  | some _ => b
  | none => if s.owned b.loc.key then b else { b with val := some (s.see core ctx b.loc) }

/-- Change every byte that an in-flight load of the operation delivers. -/
def OpKind.mapBytes (f : LByte → LByte) : OpKind → OpKind
  | .load bits acq scope lanes => .load bits acq scope (lanes.map (fun e => (e.1, e.2.map f)))
  | .tld t c bytes => .tld t c (bytes.map f)
  | .acld r h lanes => .acld r h (lanes.map (fun e => (e.1, e.2.map f)))
  | k => k

/-- Change the bytes of the group's in-flight loads. -/
def State.mapLoads (s : State) (gid : Nat) (f : LByte → LByte) : State :=
  { s with ops := s.ops.map (fun e => if e.2.gid = gid then (e.1, { e.2 with kind := e.2.kind.mapBytes f }) else e) }

/-- The group's in-flight loads read what they have yet to read: what a commit point orders follows them in program order
(R299, R304). -/
def State.captureLoads (s : State) (gid : Nat) : State := s.mapLoads gid (LByte.capture s (s.coreOf gid) (s.grp gid).ctx)

/-- The group's buffer writes into the aligned 8 bytes that hold a byte: no access of at most 8 bytes lies in two such words (R300). -/
def Group.writes (g : Group) (key : Nat) : Bool := g.buffer.any (fun p => p.bytes.any (fun b => b.loc.key / 8 == key / 8))

/-- The group's in-flight loads read the words that its buffered stores are about to write to: a load never returns a later store
of its group, and each of its accesses is read at one moment (R299, R300, R302). -/
def State.captureOver (s : State) (gid : Nat) : State :=
  s.mapLoads gid (fun b =>
    if (s.grp gid).writes b.loc.key then b.capture s (s.coreOf gid) (s.grp gid).ctx else b)

/-- A key lies in the memory of a peer. -/
def isPeer (key : Nat) : Bool := decide (16 ≤ spaceOf key) && decide (spaceOf key < 65536)

/-- The stash window that holds a team offset (R327, R328). -/
def Record.window (r : Record) (off : Nat) : Option Stash :=
  r.stash.find? (fun d => decide (d.soff ≤ off) && decide (off < d.soff + d.size))

/-- Where the global line of a stash line stands: under the translation by which it was filled, or for a line that is Invalid under the
present one (R329, R370). -/
def State.stashLoc (s : State) (t : Team) (line : Nat) : Option Loc :=
  match KMap.find? t.stashAt line with
  | some p => some p
  | none =>
    match (s.phase t.phase).record.window (line * 64) with
    | some d =>
      match s.vaLoc t.ctx .stashMove (d.gbase + (line * 64 - d.soff)) with
      | .ok p => some p
      | .error _ => none
    | none => none

/-- A stash line of a team takes a state; from its fill on it keeps the place of its global line. -/
def State.setStash (s : State) (team line : Nat) (st : StashState) : State :=
  let at_ := s.stashLoc (s.team team) line
  s.modTeam team (fun t => { t with
    stash := KMap.insert t.stash line st
    stashAt := match at_ with
      | some p => KMap.insert t.stashAt line p
      | none => t.stashAt })

/-- A stash line is dropped and Invalid. -/
def State.dropStash (s : State) (team line : Nat) : State :=
  s.modTeam team (fun t => { t with stash := KMap.erase t.stash line, stashAt := KMap.erase t.stashAt line })

/-- The cause and DETAIL of a write-back that meets poison: at the global line, or a page that is marked poisoned (R330, R366, R376). -/
def State.writeBackBad (s : State) (t : Team) (va : Nat) (at_ : Option Loc) : Option (Nat × Nat) :=
  match s.vaLoc t.ctx .stashWrite va with
  | .error (.fault c d) =>
    if c = 10 ∨ (c = 8 ∧ d % 256 = 6) then some (c, d)
    else if (at_.any (fun p => s.spoiled p.key)) then some (10, 0) else none
  | _ => if (at_.any (fun p => s.spoiled p.key)) then some (10, 0) else none

/-- A stash line is written back and becomes Clean (R329): its bytes already stand at their global address. A line that is poisoned, in
the stash or at its global address, faults the context, and the poison goes to the global line, where the translation of the fill has
it (R330, R370, R428). -/
def State.writeBack (s : State) (team line : Nat) : State :=
  let t := s.team team
  let at_ := s.stashLoc t line
  let s1 := s.modTeam team (fun t => { t with
    stash := KMap.insert t.stash line .clean, badLines := t.badLines.filter (fun l => l != line) })
  match (s.phase t.phase).record.window (line * 64) with
  | none => s1
  | some d =>
    let va := d.gbase + (line * 64 - d.soff)
    let fault := fun (s : State) (cause detail : Nat) =>
      s.contextFault t.ctx { cause := cause, core := t.core, team := t.num, addr := va, detail := detail }
    match s.writeBackBad t va at_, at_ with
    | some (c, detail), _ => fault s1 c detail
    | none, some p => if t.badLines.contains line then fault { s1 with poison := lineKey p.key :: s1.poison } 10 0 else s1
    | none, none => s1

/-- A stash line of a team holds the line of a key. -/
def State.stashHolds (s : State) (t : Team) (line key : Nat) : Bool :=
  match s.stashLoc t line with
  | some p => lineKey p.key == lineKey key
  | none => false

/-- Another party accesses the line of a place: the stash lines that hold it, but for the one through which the access is made, are
written back where they are Dirty, and dropped where the access writes (R329). -/
def State.stashOther (s : State) (p : Loc) (write : Bool) : State :=
  let hits : List (Nat × Nat × StashState) := s.teams.flatMap (fun e =>
    (e.2.stash.filter (fun l => p.win != some (e.1, l.1) && s.stashHolds e.2 l.1 p.key)).map (fun l => (e.1, l.1, l.2)))
  hits.foldl (fun s h =>
    let s1 := if h.2.2 = .dirty then s.writeBack h.1 h.2.1 else s
    if write then s1.dropStash h.1 h.2.1 else s1) s

/-- The writes to peers that bytes make: the bytes of one access that share an aligned 8-byte word form one write, sent and
acknowledged as a whole (R300, R374). Each byte names its access. -/
def peerChunks (ctx : Nat) (core : Option Nat) (l : List (Nat × Loc × Byte)) : List PeerWrite :=
  (l.foldl (fun (acc : List (Nat × PeerWrite)) e =>
    match acc.getLast? with
    | some (t, w) =>
      if t = e.1 ∧ w.peer = spaceOf e.2.1.key - 16 ∧ e.2.1.ia = w.ia + w.bytes.length ∧ e.2.1.ia / 8 = w.ia / 8 then
        acc.dropLast ++ [(t, { w with bytes := w.bytes ++ [e.2.2] })]
      else acc ++ [(e.1, ⟨ctx, core, spaceOf e.2.1.key - 16, e.2.1.ia, [e.2.2]⟩)]
    | none => [(e.1, ⟨ctx, core, spaceOf e.2.1.key - 16, e.2.1.ia, [e.2.2]⟩)]) []).map (·.2)

/-- Send writes to peers (R374). -/
def State.sendPeer (s : State) (l : List PeerWrite) : State :=
  l.foldl (fun s w => { s with peerWrites := s.peerWrites ++ [(KMap.nextKey s.peerWrites, w)] }) s

/-- Bytes that a party writes, each named by its access: to memory, dropping the other copies in stash lines, or on their way
to peers. -/
def State.putBytes (s : State) (ctx : Nat) (core : Option Nat) (l : List (Nat × Loc × Byte)) : State :=
  ((l.filter (fun e => !isPeer e.2.1.key)).foldl (fun s e =>
    (s.stashOther e.2.1 true).wr ctx e.2.1 e.2.2) s).sendPeer (peerChunks ctx core (l.filter (fun e => isPeer e.2.1.key)))

/-- A committed place becomes visible beyond its core: its bytes in lane order, and the stash lines it makes Dirty (R194, R329). Its group
keeps note of the lines, for FENCE `.layer` (R312). A byte of a poisoned line is not written, and faults the context (R414). -/
def State.putPlace (s : State) (core : Nat) (c : Commit) : State :=
  let l := c.place.bytes.map (fun b => (b.lane, b.loc, b.val))
  let s0 := s.modGrp c.gid (fun g => { g with stored := (g.stored ++ l.map (fun e => lineKey e.2.1.key)).eraseDups })
  let s1 := s0.putBytes c.ctx (some core) (l.filter (fun e => !s.badAt e.2.1))
  let s2 := c.place.stash.foldl (fun s e => s.setStash e.1 e.2 .dirty) s1
  if l.any (fun e => s.badAt e.2.1) then
    let t := s2.team c.team
    s2.contextFault c.ctx {
      cause := 10, core := t.core, team := t.num, group := (s2.grp c.gid).num, addr := c.place.pc }
  else s2

/-- A write to a peer stands before later stores of a core and of a context: a group of that core made it, or a group of that context,
which may stand on another core by now (R302, R314). -/
def PeerWrite.before (w : PeerWrite) (core ctx : Nat) : Bool := w.core == some core || (w.core.isSome && w.ctx == ctx)

/-- A committed place cannot become visible yet: an engine owns a line of it (R310), or it writes memory of this package while
an earlier write to a peer is not acknowledged (R302). -/
def State.commitHeld (s : State) (core : Nat) (c : Commit) : Bool :=
  c.place.bytes.any (fun b => s.owned b.loc.key) ||
    (c.place.bytes.any (fun b => !isPeer b.loc.key) && s.peerWrites.any (fun w => w.2.before core c.ctx))

/-- The oldest committed place of a core becomes visible beyond the core (R302). -/
def State.drainOne (s : State) (core : Nat) : State :=
  match s.fifo core with
  | [] => s
  | c :: rest => if s.commitHeld core c then s else { s with commits := KMap.setD s.commits [] core rest }.putPlace core c

/-- The oldest committed places of a core become visible beyond it, n of them or up to the first that cannot. -/
def State.drainMany (s : State) (core : Nat) : Nat → State
  | 0 => s
  | n + 1 => (s.drainOne core).drainMany core n

/-- The committed stores of a core are forced beyond it, as far as that goes (R308, R314). -/
def State.recallCore (s : State) (core : Nat) : State := s.drainMany core (s.fifo core).length

/-- What a `.remote` acquire does before it answers (R308): the stores of every core are forced to device scope. The model does not keep
which core made the release, and recalls them all (DEDUCED: log entry 6). -/
def State.recallCores (s : State) : State := s.commits.foldl (fun s e => s.recallCore e.1) s

/-- An acquire is not `.remote`, or every core's committed stores are visible beyond it (R308). -/
def State.recalled (s : State) (scope : Nat) : Bool := scope != 5 || s.commits.all (fun e => e.2.isEmpty)

/-- The state from which an acquire at a scope reads (R308). -/
def State.acquiring (s : State) (scope : Nat) : State := if scope = 5 then s.recallCores else s

/-- No committed store of a core to one of the bytes is left to become visible: what an update in place of the bytes waits for
(R301). -/
def State.drained (s : State) (core : Nat) (locs : List Loc) : Bool :=
  (s.fifo core).all (fun c => c.place.bytes.all (fun b => locs.all (fun p => p.key != b.loc.key)))

/-- The places that an in-flight load has yet to read. -/
def OpKind.unread : OpKind → List Loc
  | .load _ _ _ lanes => lanes.flatMap (fun e => (e.2.filter (fun b => b.val.isNone)).map (·.loc))
  | .tld _ _ bytes => (bytes.filter (fun b => b.val.isNone)).map (·.loc)
  | .acld _ _ lanes => lanes.flatMap (fun e => (e.2.filter (fun b => b.val.isNone)).map (·.loc))
  | _ => []

/-- A buffered store of the group, or a load that it has in flight, meets an owned line: what must follow it waits until the
engine has finished the line (R309, R310). -/
def State.bufferOwned (s : State) (gid : Nat) : Bool :=
  (s.grp gid).buffer.any (fun p => p.bytes.any (fun b => s.owned b.loc.key)) ||
    s.ops.any (fun e => e.2.gid == gid && e.2.kind.unread.any (fun p => s.owned p.key))

/-- A commit point of the group cannot take effect yet: its buffer meets an owned line, or its lanes consumed beats whose burst
check has not passed (R269, R310). -/
def State.pointHeld (s : State) (gid : Nat) : Bool := s.bufferOwned gid || !(s.grp gid).beats.isEmpty

/-- The group's buffered stores are committed in program order, and the buffer is empty: the groups of the core see them at once,
and the other parties in this order (R194, R268, R302). -/
def State.commitBuffer (s : State) (gid : Nat) : State :=
  let g := s.grp gid
  if g.buffer.isEmpty then s
  else
    let core := s.coreOf gid
    ({ s with commits := KMap.setD s.commits [] core (s.fifo core ++ g.buffer.map (Commit.mk gid g.ctx g.team)) }).modGrp gid
      (fun g => { g with buffer := [] })

/-- A commit point commits a place of its own behind what its group has committed (R218, R225). -/
def State.commitPlace (s : State) (gid : Nat) (p : Place) : State :=
  let core := s.coreOf gid
  { s with commits := KMap.setD s.commits [] core (s.fifo core ++ [⟨gid, (s.grp gid).ctx, (s.grp gid).team, p⟩]) }

/-- What every commit point does first (R264): the group's in-flight loads read what they have yet to read, and its buffered stores
are committed. -/
def State.makeVisible (s : State) (gid : Nat) : State := (s.captureLoads gid).commitBuffer gid

/-- What the group committed is released at a scope (R303, R304, R374): beyond the core where the scope is wider, and at system
scope as the peers have acknowledged. -/
def State.released (s : State) (gid scope : Nat) : Bool :=
  decide (scope < 2) || ((s.fifo (s.coreOf gid)).isEmpty &&
    !(scope == 4 && s.peerWrites.any (fun w => w.2.ctx == (s.grp gid).ctx)))

/-- An access has stopped its own context: what it recalled from a stash was poisoned (R274, R330). -/
def State.struck (s t : State) (ctx : Nat) : Bool := (t.ctx ctx).st != (s.ctx ctx).st

/-! ### Traps (R97-R101) -/

/-- Write %xcause and %xdec0-3 with slices of the word (R96, R97). -/
def Group.setTrapRegs (g : Group) (cause : Cause) (pos word pc : Nat) : Group :=
  { g with
    xcause := BitVec.ofNat 64 (pos * 256 + cause.code)
    xdec0 := BitVec.ofNat 64 (bitsOf word 63 48)
    xdec1 := BitVec.ofNat 64 (bitsOf word 47 28)
    xdec2 := BitVec.ofNat 64 (bitsOf word 27 8)
    xdec3 := BitVec.ofNat 64 (bitsOf pc 56 3 * 256 + bitsOf word 7 0) }

/-- The handler clause that %utvec names is there and of KIND 0b10 (R101). -/
def State.handlerOk (s : State) (gid : Nat) : Except Miss Bool :=
  let v := (s.grp gid).utvec
  if v = 0 then .ok false
  else
    if s.badHeader gid v then .ok false
    else
      match s.fetchWord (s.grp gid).ctx v with
      | .ok w => .ok (hdrKind w == 2)
      | .error m => .error m

/-- Lanes of a set that stand at a strand boundary begin their part of the strand at a header (R258). -/
def Group.enter (g : Group) (m : Mask) (pc prio : Nat) : Group :=
  let new := m &&& g.outside
  { g with
    outside := minus g.outside m
    entryPc := (lanesOf new).foldl (fun a l => KMap.insert a l pc) g.entryPc
    entryPrio := (lanesOf new).foldl (fun a l => KMap.insert a l prio) g.entryPrio }

/-- The re-entry of lanes has been checked and has trapped (R275): %reentry takes the value of the limit. -/
def Group.checked (g : Group) (m : Mask) : Group :=
  { g with
    reentry := if (lanesOf m).any (fun l => decide (g.limit < KMap.getD g.recheck 0 l)) then g.limit else g.reentry
    recheck := g.recheck.filter (fun e => !m.getLsbD e.1) }

/-- What a trap of lanes leaves of their re-entry (R275). -/
def Group.livelocked (g : Group) (cause : Cause) (m : Mask) : Group := if cause = .strandLivelock then g.checked m else g

/-- The same in the state. -/
def State.livelocked (s : State) (gid : Nat) (cause : Cause) (m : Mask) : State :=
  if cause = .strandLivelock then s.modGrp gid (fun g => g.checked m) else s

/-- The first touch of the header of the handler clause, which a trap starts (R98, R367, R375). -/
def State.touchHandler (s : State) (gid : Nat) : State :=
  let g := s.grp gid
  if g.utvec = 0 then s else s.touchRange g.ctx (towerOf (s.coreOf gid)) .fetch g.utvec 8

/-- Taking a trap (R98-R101). The entry that holds the lane traps with a cause at a position of a word (the header, for a
clause-start trap). In handler mode it is the context fault NESTED; while another entry is in handler mode it waits; without a
valid handler it escalates. Otherwise the decode registers are written and the entry starts the handler clause. The fetch of its header
is a real one: where its page is not present the entry holds and traps when it goes on, and a fetch that faults is the context fault
of its own cause, at the trapping word (DEDUCED: R375 makes a real fetch that faults a translation fault, and R101 does not name it; log
entry 36). -/
def State.trap (s0 : State) (gid lane : Nat) (cause : Cause) (pos word pc : Nat) : State :=
  let g := s0.grp gid
  match g.entryAt lane with
  | none => s0
  | some e =>
    if e.handler then s0.groupFault gid 2 pc 0 0
    else if g.handler.isSome then s0.setGrp gid { g with deferred := some ⟨e.mask, cause, pos, word, pc⟩ }
    else
      let s := s0.touchHandler gid
      match s.handlerOk gid with
      | .error (.absent page code level) =>
        (s.pageNotice (s.coreOf gid) g.ctx page code level).modGrp gid (fun g =>
          g.modEntry lane (fun e => { e with wait := .fetch page }))
      | .error (.fault c d) => (s.livelocked gid cause e.mask).groupFault gid c pc d 0
      | .ok true =>
        let n := e.advance
        let g1 := (((g.livelocked cause e.mask).enter e.mask e.pc e.prio).setTrapRegs cause pos word pc).modEntry lane (fun e =>
          { e with pc := g.utvec, clause := none, wait := .none, handler := true, retry := 0, governed := false })
        s.setGrp gid { g1 with handler := some ⟨cause, n.pc, n.clause, e.prio⟩ }
      | _ => (s.livelocked gid cause e.mask).groupFault gid 1 pc 0 cause.code

/-- The trap of a word that waited while handler mode lasted is taken once it ends (R98). -/
def State.takeDeferred (s : State) (gid : Nat) : State :=
  let g := s.grp gid
  match g.handler, g.deferred with
  | none, some d =>
    let s1 := s.setGrp gid { g with deferred := none }
    match lowLane d.lanes with
    | some l => s1.trap gid l d.cause d.pos d.word d.pc
    | none => s1
  | _, _ => s

/-- Handler mode ends when no lane remains in it (R98). -/
def Group.endHandler (g : Group) : Group :=
  if g.entries.any (fun e => e.handler) then g else { g with handler := none }

/-- The lanes that a TRET of an entry returns go to the word after the trapping word, or to the next header; the others stay in
handler mode at the next word (R100, R175). Inside a clause they take back the priority that they had before the trap (DEDUCED: R100
names none; log entry 82). -/
def Group.trapReturn (g : Group) (lane : Nat) (pass : Mask) : Group :=
  match g.entryAt lane, g.handler with
  | some e, some h =>
    let g1 := g.modEntry lane (fun e => { e.advance with mask := minus e.mask pass })
    let g2 := { g1 with entries := g1.entries.filter (fun e => e.mask != 0) }
    let back : Entry := { pc := h.ret, prio := h.retPrio, mask := pass &&& e.mask, clause := h.retClause }
    ({ g2 with entries := if back.mask = 0 then g2.entries else g2.entries ++ [back] }).endHandler
  | _, _ => g

/-! ### Commit (R268) -/

/-- Nothing holds the commit back: no lane is parked, every beat that the strand consumed has passed its check, no commit point
of the strand has yet to take effect, and no operation of the strand has yet to write a kerb slot (R176, R268; log entry 13), and
no buffered store meets an owned line (R310). -/
def State.canCommit (s : State) (gid : Nat) : Bool :=
  (s.grp gid).parked == 0 && !s.pointHeld gid &&
    (s.opsOf gid).all (fun e => e.2.committed || (!e.2.pending && !e.2.regs.any (fun r =>
      match r with
      | .k _ => true
      | _ => false)))

/-- The conversions of ACV that count at commit: for each word, M × N of the issues in which the lowest lane took part (R243). -/
def acvCount (l : List (Nat × Mask × Nat)) : Nat :=
  ((l.map (fun e => e.1)).eraseDups).foldl (fun n pc =>
    let here := l.filter (fun e => e.1 == pc)
    match lowLane (here.foldl (fun m e => m ||| e.2.1) 0) with
    | none => n
    | some lane => (here.filter (fun e => e.2.1.getLsbD lane)).foldl (fun n e => n + e.2.2) n) 0

/-- Add the counts of the strand to meters 5 to 7 (R136, R243). -/
def State.addCounts (s : State) (gid : Nat) : State :=
  let g := s.grp gid
  let s1 := (List.range 3).foldl (fun s i =>
    let n : Nat := (g.counts.filter (fun e => e.1 / 64 == 5 + i)).foldl (fun a e => a + e.2) 0
    if n = 0 then s else s.meter g.ctx (5 + i) n) s
  let n := acvCount g.acv
  if n = 0 then s1 else s1.meter g.ctx 7 n

/-- The group's strand state after a commit (R260, R268). -/
def Group.commit (g : Group) : Group :=
  { g with
    kerb := [], readSet := 0, sealed := 0, outside := allLanes, reentry := 0, recheck := [], beats := []
    snap := ⟨g.s, g.p, g.limit, g.utvec⟩
    counts := [], acv := [], issued := [], accepted := [], skip := [], parkedIn := 0, owing := 0, redo := 0
    yieldMark := g.yielded, yielded := false }

/-- A result of a committed strand belongs to the values at the entry of the strand that follows: what the operation wrote into S
registers and predicates enters the snapshot (R35, R81, R135). -/
def Group.keepResult (g : Group) (o : Op) : Group :=
  if o.committed then
    o.regs.foldl (fun g r =>
      match r with
      | .s n => { g with snap := { g.snap with s := KMap.setD g.snap.s 0 n (g.sGet n) } }
      | .p n => { g with snap := { g.snap with p := KMap.setD g.snap.p 0 n (g.pGet n) } }
      | _ => g) g
  else g

/-- Commit the strand: the meters gain, the buffered stores are handed to memory, and the strand's state ends (R268). A weak load
that is still in flight keeps no order but that to the bytes that the group stores (R302). -/
def State.commitStrand (s : State) (gid : Nat) : State :=
  let s1 := ((s.addCounts gid).captureOver gid).commitBuffer gid
  let s2 := { s1 with ops := s1.ops.map (fun (e : Nat × Op) => if e.2.gid = gid then (e.1, { e.2 with committed := true }) else e) }
  s2.modGrp gid Group.commit

/-! ### What a group does of itself -/

/-- The lanes that neither parked nor exited. -/
def Group.present (g : Group) : Mask := minus g.live g.parked

/-- An entry outranks another in the frontier order (R282). -/
def Entry.outranks (a b : Entry) : Bool := decide (a.prio > b.prio) || (a.prio == b.prio && decide (a.pc < b.pc))

/-- The entry that ranks first among those that satisfy p. -/
def Group.first (g : Group) (p : Entry → Bool) : Option Entry :=
  g.entries.foldl (fun best e =>
    if p e then
      match best with
      | none => some e
      | some b => if e.outranks b then some e else best
    else best) none

/-- Release of a join point (R177): once every present lane waits at an RCV, the lanes at the one that ranks first go on as
one entry. -/
def Group.rcvRelease (g : Group) : Group :=
  let atRcv := g.entries.filter (fun e => e.wait == .rcv)
  let lanes := atRcv.foldl (fun m e => m ||| e.mask) 0
  if lanes = 0 ∨ lanes ≠ g.present then g
  else
    match g.first (fun e => e.wait == .rcv) with
    | none => g
    | some f =>
      let here := atRcv.foldl (fun m e => if e.pc = f.pc then m ||| e.mask else m) 0
      let rest := g.entries.filter (fun e => !(e.wait == .rcv && e.pc == f.pc))
      { g with entries := { f with mask := here }.advance :: rest }

/-- A cross-lane word may issue for the lanes of an entry (R168). -/
def Group.crossOk (g : Group) (m : Mask) : Bool :=
  let cohorts := (lanesOf m).foldl (fun a l => a ||| KMap.getD g.cohort 0 l) m
  (cohorts &&& g.parked) == 0 && (minus (cohorts &&& g.owing) m) == 0

/-- Lanes that parked and now wait at BND, RCV, BAR or BARC, or have exited, meet the second condition of R168. -/
def Group.settleOwing (g : Group) : Group :=
  let met := g.entries.foldl (fun m e =>
    match e.wait with
    | .bnd | .rcv | .bar _ _ => m ||| e.mask
    | _ => m) g.exited
  { g with owing := minus g.owing met }

/-- End the waits at cross-lane words whose conditions hold (R281). -/
def Group.crossWake (g : Group) : Group :=
  { g with entries := g.entries.map (fun e => if e.wait == .cross && g.crossOk e.mask then { e with wait := .none } else e) }

/-- The groups a barrier of the group waits for with CNT 0: those of the team, or of the cluster, that have not wholly exited
(R207). -/
def State.barMembers (s : State) (gid : Nat) (cluster : Bool) : List Nat :=
  let t := s.teamOf gid
  let teams := if cluster then (s.clusterTeams t.phase t.cluster).map (·.1) else [(s.grp gid).team]
  (s.groups.filter (fun e => teams.contains e.2.team && !e.2.ended && e.2.exited != allLanes)).map (·.1)

/-- A saved image holds a group of the cluster that has not wholly exited: it cannot have arrived (R207, R382). -/
def State.savedMember (s : State) (gid : Nat) : Bool :=
  let t := s.teamOf gid
  (s.ctx t.ctx).images.any (fun im => im.phase == t.phase && im.team.cluster == t.cluster &&
    im.groups.any (fun g => !g.2.ended && g.2.exited != allLanes))

/-- The barrier of the group with an ID. -/
def State.bar (s : State) (gid : Nat) (cluster : Bool) (id : Nat) : Bar :=
  let t := s.teamOf gid
  if cluster then KMap.getD (s.phase t.phase).bars {} (t.cluster * 16 + id) else KMap.getD t.bars {} id

def State.setBar (s : State) (gid : Nat) (cluster : Bool) (id : Nat) (b : Bar) : State :=
  let t := s.teamOf gid
  if cluster then s.modPhase t.phase (fun p => { p with bars := KMap.setD p.bars {} (t.cluster * 16 + id) b })
  else s.modTeam (s.grp gid).team (fun x => { x with bars := KMap.setD x.bars {} id b })

/-- A released group goes on: its waiting lanes seal and pass the word (R207, R264). -/
def Group.barGo (g : Group) (cluster : Bool) (id : Nat) : Group :=
  let here : Entry → Bool := fun e => e.wait == .bar cluster id
  let lanes := g.entries.foldl (fun m e => if here e then m ||| e.mask else m) 0
  ({ g with sealed := g.sealed ||| lanes,
            entries := g.entries.map (fun e => if here e then e.advance else e) }).regang

/-- Release the barrier if its arrivals reach the count (R207). -/
def State.barRelease (s : State) (gid : Nat) (cluster : Bool) (id : Nat) : State :=
  let b := s.bar gid cluster id
  let full :=
    if b.arrived.isEmpty then false
    else if b.cnt = 0 then (s.barMembers gid cluster).all (fun x => b.arrived.contains x) && !(cluster && s.savedMember gid)
    else decide (b.arrived.length ≥ b.cnt)
  if full then
    b.arrived.foldl (fun s x => s.modGrp x (fun g => g.barGo cluster id)) (s.setBar gid cluster id {})
  else s

/-- The word's CNT of a BAR or BARC entry. -/
def barCnt (word : Nat) : Nat := bitsOf word 20 12

/-- The group arrives at a barrier once every lane that has not exited waits at it (R207): its accesses are visible on the core for
BAR, and beyond it for BARC; the first arrival fixes the count, and the barrier releases if the count is reached. Where lanes of the first
group wait at several words of the barrier, the CNT of the first entry of its frontier counts (DESIGN CHOICE: R207 does not say which;
log entry 99). -/
def State.barArrive (s : State) (gid : Nat) : State :=
  let g := s.grp gid
  match g.entries with
  | e :: _ =>
    match e.wait with
    | .bar cluster id =>
      let b := s.bar gid cluster id
      if g.entries.all (fun x => x.wait == .bar cluster id) && !b.arrived.contains gid && g.parked == 0 &&
          !s.pointHeld gid then
        let s1 := s.makeVisible gid
        let cnt := if b.arrived.isEmpty then barCnt e.word else b.cnt
        if s1.released gid (if cluster then 2 else 1) then
          (s1.setBar gid cluster id ⟨cnt, b.arrived ++ [gid]⟩).barRelease gid cluster id
        else s1
      else s
    | _ => s
  | [] => s

/-- Every exit of a group may release barriers of its team and cluster with CNT 0 (R207). -/
def State.barExits (s : State) (gid : Nat) : State :=
  (List.range 16).foldl (fun s id => (s.barRelease gid false id).barRelease gid true id) s

/-- The group has ended: every lane has exited and the strand has committed (R172). -/
def State.groupEnd (s : State) (gid : Nat) : State :=
  let s1 := (s.commitStrand gid).modGrp gid (fun g => { g with ended := true, entries := [], vpoison := [] })
  s1.barExits gid

/-- What a group does of itself after a step: merges, joins, waits that end, barrier arrivals, deferred traps, the end. -/
def State.settle (s : State) (gid : Nat) : State :=
  let s1 := s.modGrp gid (fun g => (g.regang.settleOwing.rcvRelease).crossWake.regang)
  let s2 := (s1.takeDeferred gid).barArrive gid
  let g := s2.grp gid
  if g.exited = allLanes ∧ !g.ended ∧ s2.canCommit gid then s2.groupEnd gid else s2

/-! ### Page faults of a group (R272, R285) -/

/-- Park lanes on pages, in one discard: each page makes its own parked entry (R275, R276, R285). -/
def State.park (s : State) (gid : Nat) (faults : List (Nat × Nat)) : State :=
  s.discard gid (maskOf (faults.map (·.1))) true faults

end Sys2Proof.Machine
end

