-- ==== Sys2Proof/Machine/Operands.lean ====
section
/-! DEFINITION. Operands: the registers a field names (R24, R33), the checks of R94 that need the group's state, waits for
registers still to be written (R81), reads and writes at every level, and the one way in which every word issues. -/

namespace Sys2Proof.Machine

/-! ### Registers a field names -/

/-- Registers of 32 bits that a value of w bits takes at K, V and Q (R33, R85). -/
def regCount (w : Nat) : Nat := if w ≤ 32 then 1 else if w ≤ 64 then 2 else 4

/-- The registers an operand of w bits covers; Q is memory (R32). -/
def opRegs (o : Operand) (w : Nat) : List RegRef :=
  let n := o.idx.toNat
  match o.lvl with
  | .k => (List.range (regCount w)).map (fun i => .k (n + i))
  | .v => (List.range (regCount w)).map (fun i => .v (n + i))
  | .s => (List.range (if w ≤ 64 then 1 else 2)).map (fun i => .s (n + i))
  | .q => []

/-- An illegal operand (R25, R33, R85, R192, R198). -/
def levelBad (alloc : Nat) : OpK → Operand → Bool
  | .src w, o => bad w o
  | .dst w, o => bad w o || o.lvl == .q
  | .upd w, o => bad w o || o.lvl == .q
  | .base, o => decide (alloc ≤ o.idx.toNat)
  | _, _ => false
where
  bad (w : Nat) (o : Operand) : Bool :=
    let n := o.idx.toNat
    let c := regCount w
    match o.lvl with
    | .k => decide (8 ≤ n) || n % c != 0
    | .v => decide (alloc < n + c) || n % c != 0
    | .s => decide (64 ≤ n) || (decide (64 < w) && n % 2 != 0)
    | .q => n % c != 0

/-- The registers that an operand field reads, and those it writes; number fields count as written. -/
def opkReads : OpK → Operand → List RegRef
  | .src w, o => opRegs o w
  | .upd w, o => opRegs o w
  | _, _ => []
def opkWrites : OpK → Operand → List RegRef
  | .dst w, o => opRegs o w
  | .upd w, o => opRegs o w
  | .pred, o => [.p o.idx.toNat]
  | _, _ => []

/-- A number field beyond what the team holds (R80, R220). -/
def numBadDyn (tiles accr : Nat) : OpK → Operand → Bool
  | .tile, o => decide (tiles ≤ o.idx.toNat)
  | .region, o => decide (accr ≤ o.idx.toNat)
  | _, _ => false

/-- A kerb source slot is cleared in some lane of the entry (R27, R94; log entry 14). -/
def kerbBad (g : Group) (m : Mask) (k : OpK) (o : Operand) : Bool :=
  (opkReads k o).any (fun r =>
    match r with
    | .k n => (lanesOf m).any (fun l => !g.kValid n l)
    | _ => false)

/-! ### Guards -/

/-- The lanes of a set that pass a guard (R78). -/
def Group.guard (g : Group) (m : Mask) : Guard → Mask
  | .always => m
  | .pred p neg => if neg then minus m (g.pGet p.val) else m &&& g.pGet p.val

/-- The predicate a guard reads. -/
def guardRegs : Guard → List RegRef
  | .always => []
  | .pred p _ => [.p p.val]

/-! ### What a word needs before it issues -/

/-- What stage checks for a word beyond its operand fields. -/
structure Need where
  /-- Memory-affecting (R169). -/
  memaff : Bool := false
  /-- A commit point: the buffer is made visible first (R264). -/
  point : Bool := false
  /-- Reads global memory: it takes a line slot of the core (R21). -/
  miss : Bool := false
  /-- The format slot it names (R64). -/
  slot : Option Nat := none
  /-- A cross-lane word (R168). -/
  cross : Bool := false
  /-- Privileged (R92). -/
  priv : Bool := false
  /-- Raises NESTED in handler mode (R99). -/
  nested : Bool := false
  /-- Registers read and written that no operand field names. -/
  reads : List RegRef := []
  writes : List RegRef := []
  /-- Tiles and regions of the team that it reads or writes (R221). -/
  tiles : List RegRef := []
  /-- Its V destinations are free of the clobber check: the survivors of BND (R263). -/
  survivors : Bool := false
  /-- V registers read by single lanes, as lane and register (R184). -/
  laneReads : List (Nat × Nat) := []

/-- A word as it issues: the state with the issue recorded, its group and entry, the lanes that pass, and the constants read. -/
structure Issue where
  s : State
  gid : Nat
  lane : Nat
  e : Entry
  pass : Mask
  q : KMap Word

/-- The group as it stands at the issue. -/
def Issue.g (x : Issue) : Group := x.s.grp x.gid
/-- The address of the word. -/
def Issue.pc (x : Issue) : Nat := x.e.pc
/-- The team, its identifier and its phase. -/
def Issue.tid (x : Issue) : Nat := x.g.team
def Issue.team (x : Issue) : Team := x.s.team x.tid
def Issue.phase (x : Issue) : Phase := x.s.phase x.team.phase
def Issue.ctx (x : Issue) : Nat := x.g.ctx

/-- Trap the issuing entry (R94, R98). -/
def State.trapOut (s : State) (gid lane : Nat) (e : Entry) (c : Cause) (pos : Nat) : Out :=
  .next ((s.trap gid lane c pos e.word e.pc).settle gid)

/-- Raise a context fault at the issuing word. -/
def State.faultOut (s : State) (gid : Nat) (e : Entry) (cause detail : Nat) : Out :=
  .next (s.groupFault gid cause e.pc detail 0)

def Issue.trap (x : Issue) (c : Cause) (pos : Nat) : Out := x.s.trapOut x.gid x.lane x.e c pos
def Issue.fault (x : Issue) (cause detail : Nat) : Out := x.s.faultOut x.gid x.e cause detail

/-- The issue after the buffer is made visible, which a commit point does first, and which stays done where the commit point then
fails (R264). -/
def Issue.visible (x : Issue) (point : Bool) : Issue := if point then { x with s := x.s.makeVisible x.gid } else x

/-- The word waits: its entry stays at it, and it does not count again when it issues anew (R276). -/
def Issue.again (x : Issue) (s : State) : Out :=
  .next (s.modGrp x.gid (fun g => g.modEntry x.lane (fun e => { e with retry := e.mask })))

/-- What a release does first (R264, R303, R304): the buffer is committed; at a scope wider than the core every committed store of the
core is visible beyond it, and at system scope the peers have acknowledged the writes of the context (log entry 44). Until then the
entry stays at its word. -/
def Issue.release (x : Issue) (scope : Nat) (s : State) (k : State → Out) : Out :=
  let s1 := s.makeVisible x.gid
  if s1.released x.gid scope then k s1 else x.again s1

/-- An access of lanes that is not made: it parks them, faults, or stops the machine (R191, R272). A sealed lane never parks: its
entry waits for the page as a fetch does (R267, log entry 83). The lanes that stay at the word do not count it again (R276). -/
def State.missOut (s : State) (gid : Nat) (e : Entry) (lanes : Mask) : Miss → Out
  | .fault c d => s.faultOut gid e c d
  | .absent page code level =>
    let sealed := ((s.grp gid).sealed &&& lanes) != 0
    let s1 := (s.pageNotice (s.coreOf gid) (s.grp gid).ctx page code level).modGrp gid (fun g =>
      { g with entries := g.entries.map (fun y =>
          if y.mask == e.mask then { y with retry := y.mask, wait := if sealed then .fetch page else y.wait } else y) })
    if sealed then .next s1 else .next ((s1.park gid ((lanesOf lanes).map (fun l => (l, page)))).settle gid)
  | .noSuch => .fault .noSuchPhysicalAddress
  | .regPage => .refused .deviceRegisterPage

/-- The slot word of a phase (R348). -/
def Phase.slot (p : Phase) (n : Nat) : Word64 := BitVec.ofNat 64 (p.record.slots.getD n 0)

/-- The address of the constant bank (R32, R113, R347). -/
def Phase.bank (p : Phase) : Nat := p.record.constBase + 1024 * p.sched.bank

/-- First touch of the constants that the Q sources name (R367). -/
def State.touchQ (s : State) (ctx tower bank : Nat) (l : List (OpK × Operand × Nat)) : State :=
  l.foldl (fun s e =>
    match e.1 with
    | .src w => if e.2.1.lvl = .q then s.touchRange ctx tower .load (bank + 4 * e.2.1.idx.toNat) (4 * regCount w) else s
    | _ => s) s

/-- Read the constants that the Q sources name (R32): of a constant that is overwritten during the launch, the value that stands
there now (log entry 77). -/
def State.readQ (s : State) (ctx bank : Nat) (l : List (OpK × Operand × Nat)) : Except Miss (KMap Word) :=
  l.foldl (fun acc e =>
    match acc, e.1 with
    | .ok m, .src w =>
      if e.2.1.lvl = .q then
        (List.range (regCount w)).foldl (fun acc i =>
          match acc with
          | .error x => .error x
          | .ok m =>
            match s.vaRead ctx .load (bank + 4 * (e.2.1.idx.toNat + i)) 4 with
            | .ok v => .ok (KMap.insert m (e.2.1.idx.toNat + i) (BitVec.ofNat 32 v))
            | .error x => .error x) (.ok m)
      else .ok m
    | a, _ => a) (.ok [])

/-- The first touches that the constants of a word make, where some lane passes (R32, R367). -/
def State.touchWord (s : State) (gid : Nat) (pass : Mask) (f : Info) : State :=
  if pass = 0 then s else s.touchQ (s.grp gid).ctx (towerOf (s.coreOf gid)) (s.phaseOf gid).bank f.ops

/-- The constants that a word reads, where some lane passes (R32). -/
def State.readWord (s : State) (gid : Nat) (pass : Mask) (f : Info) : Except Miss (KMap Word) :=
  if pass = 0 then .ok [] else s.readQ (s.grp gid).ctx (s.phaseOf gid).bank f.ops

/-- Registers still to be written by in-flight instructions of the group (R81). -/
def State.pendingRegs (s : State) (gid : Nat) : List RegRef := (s.opsOf gid).flatMap (fun e => e.2.regs)

/-- Instructions in flight on a flag of the group (R72). -/
def State.onFlag (s : State) (gid f : Nat) : Nat := ((s.opsOf gid).filter (fun e => e.2.flag == some f)).length

/-- The slot of a phase holds a pair with scales (R55, R56). -/
def Phase.scaled (p : Phase) (slot : Nat) : Bool :=
  match Slot.decode (p.slot slot) with
  | some sl => NTy.scaled sl.atype
  | none => false

/-- Tiles and region that an MXA names in its block (R234, R238). -/
def mxaTiles (scaled : Bool) (block : Nat) : List RegRef :=
  let a := !bitOf block 1
  [.acc (bitsOf block 5 4), .t (bitsOf block 15 12)] ++ (if a then [.t (bitsOf block 11 8)] else []) ++
    (if scaled then [.t (bitsOf block 23 20)] else []) ++ (if scaled && a then [.t (bitsOf block 19 16)] else [])

/-- The tiles and the region of an accepted MXA. -/
def State.mxaRefs (s : State) (c : Cmd) : List RegRef :=
  mxaTiles ((s.phase (s.team c.team).phase).scaled c.slot) c.block

/-- A tile operation in flight in a team uses one of the tiles or regions. -/
def State.tileOps (s : State) (tid : Nat) (l : List RegRef) : Bool :=
  s.ops.any (fun e => (s.grp e.2.gid).team == tid && e.2.regs.any (fun r => l.contains r))

/-- A tile operation in flight, a started MXA of the team, or an accepted MXA of the group uses one of the tiles or regions:
later operations of the group wait (R221). -/
def State.tileBusy (s : State) (tid gid : Nat) (l : List RegRef) : Bool :=
  s.tileOps tid l ||
    s.cmds.any (fun e => e.2.team == tid && e.2.kind == .mxa && (e.2.started || e.2.gid == gid) &&
      (s.mxaRefs e.2).any (fun r => l.contains r))

/-- The lines of global memory that an instruction has yet to read, in a stash window or outside. -/
def OpKind.lines (k : OpKind) : List Nat :=
  let l : List Loc := match k with
    | .atom _ _ _ _ _ _ steps => (steps.filter (fun t => t.old.isNone)).map (fun t => t.loc)
    | k => k.unread
  ((l.filter (fun p => decide (spaceOf p.key < 65536))).map (fun p => lineKey p.key)).eraseDups

/-- The lines of global memory that in-flight instructions of a core's groups have yet to read: each holds one of the core's 2,048
slots for outstanding misses (R15, R21; DEDUCED: log entry 84). -/
def State.missLines (s : State) (core : Nat) : List Nat :=
  ((s.ops.filter (fun e => s.coreOf e.2.gid == core)).flatMap (fun e => e.2.kind.lines)).eraseDups

/-- The slots of R21. -/
def missSlots : Nat := 2048

/-- The core has slots for the lines of an instruction that is about to go into flight. One that needs more lines than there are slots takes
them while no other line holds one (DEDUCED: R21 does not speak of such a word; log entry 84). -/
def State.slotsFor (s : State) (core : Nat) (k : OpKind) : Bool :=
  let held := s.missLines core
  let new := k.lines.filter (fun l => !held.contains l)
  new.isEmpty || held.isEmpty || decide (held.length + new.length ≤ missSlots)

/-- The word waits for a register, a full flag, a line that an engine owns, the check of a consumed beat, a free line slot, or, where
it affects memory, a commit point of the group that has yet to take effect: accesses follow it in program order (R21, R72, R81,
R269, R299, R304, R310; log entry 15). -/
def State.holds (s : State) (gid : Nat) (e : Entry) (f : Info) (n : Need) : Bool :=
  let busy := s.pendingRegs gid
  let used := f.ops.flatMap (fun x => opkReads x.1 x.2.1 ++ opkWrites x.1 x.2.1) ++ guardRegs f.g ++ n.reads ++ n.writes ++
    n.laneReads.map (fun x => .v x.2)
  used.any (fun r => busy.contains r) ||
  (f.long &&
    match e.clause.bind (fun c => c.flag f.fsel) with
    | some fl => decide (15 ≤ s.onFlag gid fl)
    | none => false) ||
  (n.point && s.pointHeld gid) ||
  (n.miss && decide (missSlots ≤ (s.missLines (s.coreOf gid)).length)) ||
  (!n.tiles.isEmpty && s.tileBusy (s.grp gid).team gid n.tiles) ||
  (n.memaff && (s.opsOf gid).any (fun o => o.2.pending && !o.2.committed))

/-- The first decode check that fails with the state at hand (R94, R95): FIELD of a tile or region the team lacks, LEVEL,
KERB_INVALID, FORMAT_SLOT. A FIELD that the word alone shows comes before one that needs the team's numbers, wherever its position
(DEDUCED, log entry 8). -/
def State.decodeTrap (s : State) (gid : Nat) (e : Entry) (f : Info) (n : Need) : Option (Cause × Nat) :=
  let g := s.grp gid
  let p := s.phaseOf gid
  let at_ := fun (ok : OpK → Operand → Bool) => leastPos (f.ops.filterMap (fun x => if ok x.1 x.2.1 then some x.2.2 else none))
  match at_ (numBadDyn p.sched.tiles p.sched.accr) with
  | some pos => some (.field, pos)
  | none =>
    match at_ (levelBad g.regs) with
    | some pos => some (.level, pos)
    | none =>
      match at_ (kerbBad g e.mask) with
      | some pos => some (.kerbInvalid, pos)
      | none =>
        match n.slot with
        | some k => if (Slot.decode (p.slot k)).isNone then some (.formatSlot, if f.op ≥ 0xD0 then 49 else 48) else none
        | none => none

/-- V registers among a list. -/
def vRegs (l : List RegRef) : List Nat :=
  l.filterMap (fun r =>
    match r with
    | .v n => some n
    | _ => none)

/-- The read set with V registers added (R263). -/
def addReads (b : BitVec 256) (l : List Nat) : BitVec 256 := l.foldl (fun b n => b ||| BitVec.ofNat 256 (2 ^ n)) b

/-- A word of the focused entry issues (R78, R81, R92, R94, R95, R99, R168, R263, R265, R276): it waits, traps or faults where a
check says so; otherwise the issue is recorded and the meaning goes on. -/
def stage (i : Instr) (s : State) (n : Need) (k : Issue → Out) : Out :=
  match s.focus, i.info with
  | some ⟨gid, lane⟩, some f =>
    let g := s.grp gid
    match g.entryAt lane with
    | none => .next s
    | some e =>
      let reads := f.ops.flatMap (fun x => opkReads x.1 x.2.1) ++ n.reads
      let writes := f.ops.flatMap (fun x => opkWrites x.1 x.2.1) ++ n.writes
      let pass := g.guard e.mask f.g
      let rset := addReads g.readSet (vRegs reads ++ n.laneReads.map (·.2))
      if s.holds gid e f n then .next s
      else
        match s.decodeTrap gid e f n with
        | some (c, pos) => s.trapOut gid lane e c pos
        | none =>
          if n.priv && !bitOf (s.ctx g.ctx).flags 1 then s.faultOut gid e 3 0
          else if n.nested && e.handler then s.faultOut gid e 2 0
          else if n.cross && !g.crossOk e.mask then
            .next ((s.setGrp gid (g.modEntry lane (fun e => { e with wait := .cross }))).settle gid)
          else if n.memaff && (g.sealed &&& e.mask) != 0 then s.trapOut gid lane e .orderInStrand 0xFF
          else if (vRegs reads).any (fun r => (KMap.getD g.vpoison 0 r &&& pass) != 0) ||
              n.laneReads.any (fun x => (KMap.getD g.vpoison 0 x.2).getLsbD x.1) then s.faultOut gid e 11 0
          else if !n.survivors && (vRegs writes).any (fun r => rset.getLsbD r) then s.trapOut gid lane e .strandClobber 38
          else
            let s1 := (s.touchWord gid pass f).setGrp gid { g with
              readSet := rset
              issued := if minus e.mask e.retry = 0 then g.issued else g.issued ++ [minus e.mask e.retry] }
            match s1.readWord gid pass f with
            | .error m => s1.missOut gid e pass m
            | .ok q => k ⟨s1, gid, lane, e, pass, q⟩
  | _, _ => .next s

/-! ### Reading -/

/-- The word an operand of at most 32 bits reads in a lane (R33). -/
def Issue.word (x : Issue) (o : Operand) (l : Nat) : Nat :=
  let n := o.idx.toNat
  match o.lvl with
  | .k => (x.g.kGet n l).toNat
  | .v => (x.g.vGet n l).toNat
  | .s => (x.g.sGet n).toNat % 2 ^ 32
  | .q => (KMap.getD x.q 0 n).toNat

/-- The value an operand of w bits reads in a lane; 8- and 16-bit values are the low bits of the word (R33). -/
def Issue.src (x : Issue) (o : Operand) (w l : Nat) : Nat :=
  let n := o.idx.toNat
  if w ≤ 32 then x.word o l
  else
    match o.lvl with
    | .s => if w ≤ 64 then (x.g.sGet n).toNat else (x.g.sGet n).toNat + 2 ^ 64 * (x.g.sGet (n + 1)).toNat
    | _ =>
      (List.range (regCount w)).foldl (fun a j =>
        a + 2 ^ (32 * j) * x.word ⟨o.lvl, BitVec.ofNat 8 (n + j)⟩ l) 0

/-! ### Writing -/

/-- The 64 bits an S register takes for a result of a type: a 64-bit value whole, else filled by the type (R33). -/
def fillS (ty : Ty) (w val : Nat) : Nat :=
  if 64 ≤ w then val % 2 ^ 64
  else if ty.signed then wrapNat 64 (signedOf (min ty.valueBits 32) val)
  else val % 2 ^ (min ty.valueBits 32)

/-- Word j of a value. -/
def wordOf (val j : Nat) : Word := BitVec.ofNat 32 (val / 2 ^ (32 * j))

/-- Write one lane's value of w bits at K or V. -/
def Group.writeLane (g : Group) (o : Operand) (w l val : Nat) : Group :=
  let n := o.idx.toNat
  (List.range (regCount w)).foldl (fun g j =>
    match o.lvl with
    | .k => g.kSet (n + j) l (wordOf val j)
    | _ => g.vSet (n + j) l (wordOf val j)) g

/-- Write a result: in each listed lane at K and V; at S the value of the lowest listed lane (R31, R33). -/
def Group.write (g : Group) (o : Operand) (ty : Ty) (w : Nat) (vals : List (Nat × Nat)) : Group :=
  match o.lvl with
  | .s =>
    match vals with
    | [] => g
    | (_, v) :: _ =>
      if w ≤ 64 then g.sSet o.idx.toNat (BitVec.ofNat 64 (fillS ty w v))
      else (g.sSet o.idx.toNat (BitVec.ofNat 64 v)).sSet (o.idx.toNat + 1) (BitVec.ofNat 64 (v / 2 ^ 64))
  | .q => g
  | _ => vals.foldl (fun g e => g.writeLane o w e.1 e.2) g

/-! ### Going on -/

/-- The word is done for the whole entry: the group takes its new registers, and the entry goes to the next word. -/
def Issue.finish (x : Issue) (g : Group) : Out :=
  .next ((x.s.setGrp x.gid (g.modEntry x.lane Entry.advance)).settle x.gid)

/-- As finish, from a changed state. -/
def Issue.finishS (x : Issue) (s : State) : Out :=
  .next ((s.modGrp x.gid (fun g => g.modEntry x.lane Entry.advance)).settle x.gid)

/-- The values of a per-lane function in the passing lanes. -/
def Issue.vals (x : Issue) (f : Nat → Nat) : List (Nat × Nat) := (lanesOf x.pass).map (fun l => (l, f l))

/-- Count n for each passing lane towards a meter at commit (R136). -/
def Group.count (g : Group) (m : Mask) : Option (Nat × Nat) → Group
  | none => g
  | some (meter, n) =>
    { g with counts := (lanesOf m).foldl (fun c l =>
        KMap.setD c 0 (meter * 64 + l) (KMap.getD c 0 (meter * 64 + l) + n)) g.counts }

/-- A per-lane word that writes one register result (R128). -/
def lanewise (i : Instr) (s : State) (n : Need) (meter : Option (Nat × Nat)) (d : Operand) (ty : Ty) (w : Nat)
    (f : Issue → Nat → Nat) : Out :=
  stage i s n (fun x => x.finish ((x.g.write d ty w (x.vals (f x))).count x.pass meter))

/-- A per-lane word that writes one predicate. -/
def lanewiseP (i : Instr) (s : State) (n : Need) (p : Nat) (f : Issue → Nat → Bool) : Out :=
  stage i s n (fun x => x.finish (x.g.pWrite p x.pass (laneFilter x.pass (f x))))

/-- The word goes on where the core has slots for its lines, and else waits at its place (R21). -/
def Issue.slots (x : Issue) (s : State) (k : OpKind) (go : Out) : Out := if s.slotsFor x.team.core k then go else x.again s

/-- Put an in-flight instruction into the table, holding the flag its clause and FSEL name (R72). -/
def Issue.launch (x : Issue) (f : Info) (o : Op) : State :=
  let fl := x.e.clause.bind (fun c => c.flag f.fsel)
  { x.s with ops := KMap.insert x.s.ops (KMap.nextKey x.s.ops) { o with flag := fl } }

end Sys2Proof.Machine
end

