-- ==== Sys2Proof/Machine/Flags.lean ====
section
/-! DEFINITION. What words compute into predicates: readings of a value by its type, carries and borrows (R138), comparisons
(R179), function tables (R142, R180) and votes (R186). -/

namespace Sys2Proof.Machine

/-- val(x): the two's-complement value under an i code, else the unsigned value (R129). -/
def tyVal (t : Ty) (w x : Nat) : Int := if t.signed then signedOf w x else ((x % 2 ^ w : Nat) : Int)

/-- The floating-point format of a type or of its elements (R83). -/
def tyFmt : Ty → FFmt
  | .f16 | .f16x2 => .f16
  | .bf16 | .bf16x2 => .bf16
  | _ => .f32

/-- A predicate bit as a number. -/
def Group.pBit (g : Group) (p l : Nat) : Nat := if (g.pGet p).getLsbD l then 1 else 0

/-- Carry-out of n(A) + n(B) + carry-in (R138). -/
def carryOut (w a b c : Nat) : Bool := decide (2 ^ w ≤ a + b + c)
/-- Borrow-out of n(A) - n(B) - borrow-in (R138). -/
def borrowOut (a b c : Nat) : Bool := decide (a < b + c)

/-- The conditions of ICMP on exact values (R179): eq, ne, lt, le, gt, ge. -/
def icmpCode (code : Nat) (a b : Int) : Bool :=
  match code with
  | 0 => a == b
  | 1 => a != b
  | 2 => decide (a < b)
  | 3 => decide (a ≤ b)
  | 4 => decide (b < a)
  | _ => decide (b ≤ a)

/-- A bit of an 8-entry function table: inputs weigh 1, 2 and 4 (R142, R180). -/
def table3 (ft : Nat) (a b c : Bool) : Bool :=
  bitOf ft ((if a then 1 else 0) + (if b then 2 else 0) + (if c then 4 else 0))

/-- The function table of LOP3 and PLOP: TY and MOD together (R142, R180). -/
def ftOf (f : V3) : Nat := f.ty.code * 16 + f.mod.toNat

end Sys2Proof.Machine
end

