-- ==== Sys2Proof/Machine/Arith.lean ====
section
/-! DEFINITION. Integer, logic, shift and bit-field words (R128-R148): what each computes from the bits of its operands, and the
meaning of each word. -/

namespace Sys2Proof.Machine

/-! ### Results on bits -/

/-- A sum or difference: wrapped, or clamped to the type under .sat (R137). -/
def intRes (t : Ty) (w : Nat) (sat : Bool) (x : Int) : Nat := wrapNat w (if sat then satn t.signed w x else x)

/-- High half of the exact product (R139). -/
def mulHigh (t : Ty) (w a b : Nat) : Nat := wrapNat w ((tyVal t w a * tyVal t w b) / ((2 ^ w : Nat) : Int))

/-- Shifts and the rotation by a 32-bit count (R140). -/
def shlBits (w a c : Nat) : Nat := if c < w then a * 2 ^ c % 2 ^ w else 0
def shrBits (w a c : Nat) : Nat := if c < w then a / 2 ^ c else 0
def shaBits (w a c : Nat) : Nat := wrapNat w (signedOf w a / ((2 ^ (min c w) : Nat) : Int))
def rotBits (w a c : Nat) : Nat := (a * 2 ^ (c % w) + a / 2 ^ (w - c % w)) % 2 ^ w

/-- A bit-by-bit combination of two values of width w (R141). -/
def bitAnd (a b : Nat) : Nat := a &&& b
def bitAndn (w a b : Nat) : Nat := a &&& (b ^^^ (2 ^ w - 1))
def bitNot (w a : Nat) : Nat := a ^^^ (2 ^ w - 1)

/-- A number from its w bits. -/
def ofBits (w : Nat) (f : Nat → Bool) : Nat := (List.range w).foldl (fun n i => if f i then n + 2 ^ i else n) 0

/-- LOP3 (R142). -/
def lop3Bits (ft a b c : Nat) : Nat := ofBits 32 (fun i => table3 ft (bitOf a i) (bitOf b i) (bitOf c i))

/-- Bit counts and the reversal (R143). -/
def popcBits (w a : Nat) : Nat := ((List.range w).filter (bitOf a)).length
def clzBits (w a : Nat) : Nat := if a % 2 ^ w = 0 then w else w - 1 - Nat.log2 (a % 2 ^ w)
def ctzBits (w a : Nat) : Nat := ((List.range w).find? (bitOf a)).getD w
def brevBits (w a : Nat) : Nat := ofBits w (fun i => bitOf a (w - 1 - i))

/-- The field length inside the width (R144). -/
def fieldLen (w pos len : Nat) : Nat := if pos ≥ w then 0 else min len (w - pos)
/-- BFX (R144). -/
def bfxBits (t : Ty) (w a b : Nat) : Nat :=
  let pos := bitsOf b 7 0
  let l := fieldLen w pos (bitsOf b 15 8)
  if l = 0 then 0
  else
    let f := a / 2 ^ pos % 2 ^ l
    if t.signed then wrapNat w (signedOf l f) else f
/-- BFI (R144): a field of A at pos, len into C. -/
def bfiBits (w a pos len c : Nat) : Nat :=
  let l := fieldLen w pos len
  let m := (2 ^ l - 1) * 2 ^ pos
  bitAndn w c m ||| ((a * 2 ^ pos) &&& m)

/-- A byte under a FILL of PRMT (R146). -/
def prmtFill (fill b : Nat) : Nat :=
  match fill with
  | 0 => b
  | 1 => if bitOf b 7 then 0xFF else 0
  | 2 => brevBits 8 b
  | _ => 0xFF - b
/-- PRMT with a code of four bytes (R146): A is bytes 0-3, B bytes 4-7. -/
def prmtV3 (a b c : Nat) : Nat :=
  (List.range 4).foldl (fun d k =>
    let code := bitsOf c (8 * k + 7) (8 * k)
    let src := code % 16
    let byte := if src < 8 then (a + b * 2 ^ 32) / 2 ^ (8 * src) % 256 else if src = 9 then 0xFF else 0
    d + prmtFill (code / 16 % 4) byte * 2 ^ (8 * k)) 0
/-- PRMT with four 5-bit codes (R146). -/
def prmtVI (a imm : Nat) : Nat :=
  (List.range 4).foldl (fun d k =>
    let code := bitsOf imm (5 * k + 4) (5 * k)
    let src := code % 8
    let byte := if src < 4 then a / 2 ^ (8 * src) % 256 else if src = 5 then 0xFF else 0
    d + prmtFill (code / 8) byte * 2 ^ (8 * k)) 0

/-- DP4 (R148). -/
def dp4Bits (sa sb : Bool) (a b c : Nat) : Nat :=
  let by_ (s : Bool) (x i : Nat) : Int :=
    if s then signedOf 8 (x / 2 ^ (8 * i)) else ((x / 2 ^ (8 * i) % 256 : Nat) : Int)
  wrapNat 32 ((List.range 4).foldl (fun (n : Int) i => n + by_ sa a i * by_ sb b i) (c : Int))

/-- The shift of LEA and LEAW. -/
def leaSh (m : BitVec 4) : Nat := m.toNat % 8
/-- The sign-extended immediate of w bits (R132). -/
def immS (f : VI) (w : Nat) : Nat := wrapNat w (signedOf 20 f.imm.toNat)

/-! ### Shapes -/

/-- A V3 word of three sources and one result (R128). -/
def arith3 (i : Instr) (s : State) (f : V3) (ty : Ty) (wd wa wb wc : Nat) (op : Nat → Nat → Nat → Nat) : Out :=
  lanewise i s {} none f.d ty wd (fun x l => op (x.src f.a wa l) (x.src f.b wb l) (x.src f.c wc l))
/-- A V3 word of two sources and one result, all of the width of TY. -/
def arith2 (i : Instr) (s : State) (f : V3) (op : Nat → Nat → Nat) : Out :=
  arith3 i s f f.ty f.w f.w f.w 32 (fun a b _ => op a b)
/-- A shift: its count is a 32-bit operand. -/
def arithSh (i : Instr) (s : State) (f : V3) (op : Nat → Nat → Nat) : Out :=
  arith3 i s f f.ty f.w f.w 32 32 (fun a b _ => op a b)
/-- A V3 word of one source and a result of the type ty. -/
def arith1 (i : Instr) (s : State) (f : V3) (ty : Ty) (wd : Nat) (op : Nat → Nat) : Out :=
  arith3 i s f ty wd f.w 32 32 (fun a _ _ => op a)
/-- A VI word. -/
def arithI (i : Instr) (s : State) (f : VI) (op : Nat → Nat) : Out :=
  lanewise i s {} none f.d f.ty f.w (fun x l => op (x.src f.a f.w l))

/-- IADDC and ISUBB: a result and a carry or borrow in predicate C (R138). -/
def arithC (i : Instr) (s : State) (f : V3) (res : Nat → Nat → Nat → Nat) (out : Nat → Nat → Nat → Bool) : Out :=
  stage i s {} (fun x =>
    let p := f.c.idx.toNat
    let val := fun l => res (x.src f.a f.w l) (x.src f.b f.w l) (x.g.pBit p l)
    let o := fun l => out (x.src f.a f.w l) (x.src f.b f.w l) (x.g.pBit p l)
    x.finish ((x.g.write f.d f.ty f.w (x.vals val)).pWrite p x.pass (laneFilter x.pass o)))

/-! ### Meanings: arithmetic (R137-R139) -/

def execIadd (f : V3) (s : State) : Out :=
  arith2 (.iadd f) s f (fun a b => intRes f.ty f.w (f.mod.getLsbD 0) (tyVal f.ty f.w a + tyVal f.ty f.w b))
def execIsub (f : V3) (s : State) : Out :=
  arith2 (.isub f) s f (fun a b => intRes f.ty f.w (f.mod.getLsbD 0) (tyVal f.ty f.w a - tyVal f.ty f.w b))
def execIaddc (f : V3) (s : State) : Out :=
  arithC (.iaddc f) s f (fun a b c => (a + b + c) % 2 ^ f.w) (carryOut f.w)
def execIsubb (f : V3) (s : State) : Out :=
  arithC (.isubb f) s f (fun a b c => wrapNat f.w ((a : Int) - b - c)) borrowOut
def execImul (f : V3) (s : State) : Out := arith2 (.imul f) s f (fun a b => a * b % 2 ^ f.w)
def execImulh (f : V3) (s : State) : Out := arith2 (.imulh f) s f (mulHigh f.ty f.w)
def execImad (f : V3) (s : State) : Out :=
  arith3 (.imad f) s f f.ty f.w f.w f.w f.w (fun a b c => (a * b + c) % 2 ^ f.w)
def execImadw (f : V3) (s : State) : Out :=
  arith3 (.imadw f) s f f.ty 64 32 32 64 (fun a b c => wrapNat 64 (tyVal f.ty 32 a * tyVal f.ty 32 b + c))
def execIabs (f : V3) (s : State) : Out :=
  arith1 (.iabs f) s f f.ty f.w (fun a => intRes f.ty f.w (f.mod.getLsbD 0) (signedOf f.w a).natAbs)
def execIneg (f : V3) (s : State) : Out :=
  arith1 (.ineg f) s f f.ty f.w (fun a => intRes f.ty f.w (f.mod.getLsbD 0) (-(tyVal f.ty f.w a)))
def execImin (f : V3) (s : State) : Out :=
  arith2 (.imin f) s f (fun a b => if tyVal f.ty f.w a ≤ tyVal f.ty f.w b then a else b)
def execImax (f : V3) (s : State) : Out :=
  arith2 (.imax f) s f (fun a b => if tyVal f.ty f.w a ≤ tyVal f.ty f.w b then b else a)
def execIsad (f : V3) (s : State) : Out :=
  arith3 (.isad f) s f f.ty 32 32 32 32 (fun a b c => ((tyVal f.ty 32 a - tyVal f.ty 32 b).natAbs + c) % 2 ^ 32)

/-! ### Meanings: shifts, logic, bits (R140-R146) -/

def execShl (f : V3) (s : State) : Out := arithSh (.shl f) s f (shlBits f.w)
def execShr (f : V3) (s : State) : Out := arithSh (.shr f) s f (shrBits f.w)
def execSha (f : V3) (s : State) : Out := arithSh (.sha f) s f (shaBits f.w)
def execRot (f : V3) (s : State) : Out := arithSh (.rot f) s f (rotBits f.w)
def execAndw (f : V3) (s : State) : Out := arith2 (.andw f) s f bitAnd
def execOrw (f : V3) (s : State) : Out := arith2 (.orw f) s f (fun a b => a ||| b)
def execXorw (f : V3) (s : State) : Out := arith2 (.xorw f) s f (fun a b => a ^^^ b)
def execNotw (f : V3) (s : State) : Out := arith1 (.notw f) s f f.ty f.w (bitNot f.w)
def execAndn (f : V3) (s : State) : Out := arith2 (.andn f) s f (bitAndn f.w)
/-- LOP3 (R142): its TY field is part of the function table, so the word has no TY; at S it fills bits 63 to 32 with zeros, as b32 does
(DESIGN CHOICE: R33 gives the fill by the instruction's TY and does not name LOP3; log entry 98). -/
def execLop3 (f : V3) (s : State) : Out := arith3 (.lop3 f) s f .b32 32 32 32 32 (lop3Bits (ftOf f))
def execPopc (f : V3) (s : State) : Out := arith1 (.popc f) s f .n32 32 (popcBits f.w)
def execClz (f : V3) (s : State) : Out := arith1 (.clz f) s f .n32 32 (clzBits f.w)
def execCtz (f : V3) (s : State) : Out := arith1 (.ctz f) s f .n32 32 (ctzBits f.w)
def execBrev (f : V3) (s : State) : Out := arith1 (.brev f) s f f.ty f.w (brevBits f.w)
def execBfx (f : V3) (s : State) : Out := arithSh (.bfx f) s f (bfxBits f.ty f.w)
def execBfi (f : V3) (s : State) : Out :=
  arith3 (.bfi f) s f f.ty f.w f.w 32 f.w (fun a b c => bfiBits f.w a (bitsOf b 7 0) (bitsOf b 15 8) c)
def execPrmt (f : V3) (s : State) : Out := arith3 (.prmt f) s f f.ty 32 32 32 32 prmtV3

/-! ### Meanings: addresses and dot product (R147, R148) -/

def execLea (f : V3) (s : State) : Out :=
  arith3 (.lea f) s f f.ty 32 32 32 32 (fun a b _ => (a * 2 ^ leaSh f.mod + b) % 2 ^ 32)
def execLeaw (f : V3) (s : State) : Out :=
  arith3 (.leaw f) s f f.ty 64 32 64 32 (fun a b _ => wrapNat 64 (b + tyVal f.ty 32 a * ((2 ^ leaSh f.mod : Nat) : Int)))
def execDp4 (f : V3) (s : State) : Out :=
  arith3 (.dp4 f) s f f.ty 32 32 32 32 (dp4Bits f.ty.signed (f.ty.signed && !f.mod.getLsbD 0))

/-! ### Meanings: immediate forms (R132, R145, R146) -/

def execIaddImm (f : VI) (s : State) : Out :=
  arithI (.iaddImm f) s f (fun a =>
    intRes f.ty f.w (f.mod.getLsbD 0) (tyVal f.ty f.w a + tyVal f.ty f.w (immS f f.w)))
def execImulImm (f : VI) (s : State) : Out := arithI (.imulImm f) s f (fun a => a * immS f f.w % 2 ^ f.w)
def execIminImm (f : VI) (s : State) : Out :=
  arithI (.iminImm f) s f (fun a => if tyVal f.ty f.w a ≤ tyVal f.ty f.w (immS f f.w) then a else immS f f.w)
def execImaxImm (f : VI) (s : State) : Out :=
  arithI (.imaxImm f) s f (fun a => if tyVal f.ty f.w a ≤ tyVal f.ty f.w (immS f f.w) then immS f f.w else a)
def execShlImm (f : VI) (s : State) : Out := arithI (.shlImm f) s f (fun a => shlBits f.w a (immS f 32))
def execShrImm (f : VI) (s : State) : Out := arithI (.shrImm f) s f (fun a => shrBits f.w a (immS f 32))
def execShaImm (f : VI) (s : State) : Out := arithI (.shaImm f) s f (fun a => shaBits f.w a (immS f 32))
def execRotImm (f : VI) (s : State) : Out := arithI (.rotImm f) s f (fun a => rotBits f.w a (immS f 32))
def execAndImm (f : VI) (s : State) : Out := arithI (.andImm f) s f (fun a => a &&& immS f f.w)
def execOrImm (f : VI) (s : State) : Out := arithI (.orImm f) s f (fun a => a ||| immS f f.w)
def execXorImm (f : VI) (s : State) : Out := arithI (.xorImm f) s f (fun a => a ^^^ immS f f.w)
def execLeaImm (f : VI) (s : State) : Out :=
  arithI (.leaImm f) s f (fun a => (a * 2 ^ leaSh f.mod + immS f 32) % 2 ^ 32)
def execBfxImm (f : VI) (s : State) : Out :=
  arithI (.bfxImm f) s f (fun a => bfxBits f.ty f.w a (f.imm.toNat % 2 ^ 16))
def execBfiImm (f : VI) (s : State) : Out :=
  arithI (.bfiImm f) s f (fun a =>
    bfiBits f.w (bitsOf f.imm.toNat 19 12) (bitsOf f.imm.toNat 5 0) (bitsOf f.imm.toNat 11 8) a)
def execPrmtImm (f : VI) (s : State) : Out := arithI (.prmtImm f) s f (fun a => prmtVI a f.imm.toNat)

end Sys2Proof.Machine
end

