-- ==== Sys2Proof/Machine/Trans.lean ====
section
/-! DEFINITION. The correctly rounded functions FEX2, FLG2, FSIN and FCOS (R152, R153). Each is computed as an enclosure
S - E .. S + E in units of 2^-P, and the precision P rises until both ends round to one result. Results that are exact
are taken out first, so that an enclosure of the others never stays astride a rounding boundary (log entry 11). -/

namespace Sys2Proof

/-- An enclosure of a real: the real lies from (s - err) / 2^p to (s + err) / 2^p. -/
structure Encl where
  s : Int
  err : Nat
  deriving DecidableEq, Repr

/-- The rounding of an integer k in units of 2^-p. -/
def rndFix (f : FFmt) (m : RMode) (p : Nat) (sc : Int) (k : Int) : Nat :=
  -- the value is k * 2^(sc - p)
  f.rnd m (.fin (decide (k < 0)) k.natAbs (sc - p))

/-- Tries the precisions in turn. At precision p, `enc p` encloses v in units of 2^-p, and the result is v * 2^sc. -/
def zivTry (f : FFmt) (m : RMode) (sc : Int) (enc : Nat → Encl) : List Nat → Nat
  | [] => f.canonNan
  | p :: ps =>
    let e := enc p
    let lo := e.s - e.err
    let hi := e.s + e.err
    let a := rndFix f m p sc lo
    let b := rndFix f m p sc hi
    if a = b && (decide (lo > 0) || decide (hi < 0)) then a
    else match ps with
      | [] => rndFix f m p sc e.s
      | _ => zivTry f m sc enc ps

/-- The precisions tried. -/
def zivPrecisions : List Nat := [96, 208, 512, 1024, 2048]

/-- Terms that a series at precision p takes. -/
def seriesTerms (p : Nat) : Nat := p + 8

/-- ln 2 in units of 2^-p by the sum of 1 / (k 2^k), short by less than p + 9 units. -/
def ln2Fix (p : Nat) : Nat :=
  (List.range (seriesTerms p)).foldl (fun a i => a + 2 ^ p / ((i + 1) * 2 ^ (i + 1))) 0

/-- Sum of t^i / i! for i below n, in units of 2^-p (t in the same units, from 0 to 1). -/
def expSeries (p t : Nat) : Nat → Nat → Nat → Nat → Nat
  | 0, _, _, acc => acc
  | n + 1, i, term, acc => if term = 0 then acc else expSeries p t n (i + 1) (term * t / 2 ^ p / (i + 1)) (acc + term)

/-- 2^f for a fraction f = k / 2^g from 0 to 1, in units of 2^-p. -/
def exp2Encl (k g p : Nat) : Encl :=
  let l := ln2Fix p
  let t := k * l / 2 ^ g
  let s := expSeries p t (seriesTerms p) 0 (2 ^ p) 0
  ⟨s, 8 * seriesTerms p⟩

/-- 2^A (R152, R153). -/
def FFmt.ex2 (f : FFmt) (m : RMode) (a : Nat) : Nat :=
  match f.value a with
  | .nan => f.canonNan
  | .inf s => if s then 0 else f.infBits
  | .fin s j e =>
    if j = 0 then f.rnd m (.fin false 1 0)
    else
      let n := rndIntFin .rd s j e
      if e ≥ 0 || n ≥ 1024 || n ≤ -1024 then f.rnd m (.fin false 1 (max (-1024) (min 1024 n)))
      else
        let g := (-e).toNat
        let k := ((if s then -(j : Int) else (j : Int)) - n * ((2 ^ g : Nat) : Int)).toNat
        if k = 0 then f.rnd m (.fin false 1 n)
        else zivTry f m n (exp2Encl k g) zivPrecisions

/-- Sum of z^(2i+1) / (2i+1) in units of 2^-p, z from 0 to 1/3 in the same units; z2 is z squared. -/
def atanhSeries (p z2 : Nat) : Nat → Nat → Nat → Nat → Nat
  | 0, _, _, acc => acc
  | n + 1, i, pw, acc => if pw = 0 then acc else atanhSeries p z2 n (i + 1) (pw * z2 / 2 ^ p) (acc + pw / (2 * i + 1))

/-- log2 of y * 2^n with y = k / 2^g in [1, 2), in units of 2^-p: n plus 2 atanh((y - 1) / (y + 1)) / ln 2. -/
def log2Encl (n : Int) (k g p : Nat) : Encl :=
  let one := 2 ^ g
  let q := p + 16
  let z := (k - one) * 2 ^ q / (k + one)
  let l := 2 * atanhSeries q (z * z / 2 ^ q) (seriesTerms q) 0 z 0
  let frac := l * 2 ^ q / ln2Fix q
  ⟨n * ((2 ^ p : Nat) : Int) + ((frac / 2 ^ 16 : Nat) : Int), 64 * seriesTerms q⟩

/-- log2 A (R152, R153). -/
def FFmt.lg2 (f : FFmt) (m : RMode) (a : Nat) : Nat :=
  match f.value a with
  | .nan => f.canonNan
  | .inf s => if s then f.canonNan else f.infBits
  | .fin s j e =>
    if j = 0 then f.signBit + f.infBits
    else if s then f.canonNan
    else
      let g := Nat.log2 j
      let n := e + g
      if j = 2 ^ g then f.rnd m (FVal.ofInt n)
      else zivTry f m 0 (log2Encl n j g) zivPrecisions

/-- atan(1 / d) in units of 2^-p by the alternating series. -/
def atanInv (p d : Nat) : Nat → Nat → Nat → Int → Int
  | 0, _, _, acc => acc
  | n + 1, i, pw, acc =>
    if pw = 0 then acc
    else
      let t : Int := ((pw / (2 * i + 1) : Nat) : Int)
      atanInv p d n (i + 1) (pw / (d * d)) (if i % 2 = 0 then acc + t else acc - t)

/-- pi in units of 2^-p by Machin's formula, within 64 (p + 8) units. -/
def piFix (p : Nat) : Nat :=
  let a := atanInv p 5 (seriesTerms p) 0 (2 ^ p / 5) 0
  let b := atanInv p 239 (seriesTerms p) 0 (2 ^ p / 239) 0
  (16 * a - 4 * b).toNat

/-- The alternating sum of t, t x2 / (i (i+1)), ... in units of 2^-p: with t = 1 and i = 1 it is cos, with t = x and
i = 2 it is sin, of the x whose square is x2. -/
def trigSeries (p x2 : Nat) : Nat → Nat → Nat → Bool → Int → Int
  | 0, _, _, _, acc => acc
  | n + 1, i, t, minus, acc =>
    if t = 0 then acc
    else trigSeries p x2 n (i + 2) (t * x2 / 2 ^ p / (i * (i + 1))) (!minus) (if minus then acc - t else acc + t)

/-- sin (quarter 0) or cos (quarter 1) of the positive j * 2^e in units of 2^-p: the argument is reduced by multiples of
pi / 2, with enough bits of pi for the argument's size. -/
def trigEncl (cosine : Bool) (j : Nat) (e : Int) (p : Nat) : Encl :=
  let big := (max 0 (e + Nat.log2 j + 1)).toNat
  let w := p + big + 8
  let x := if e ≥ 0 then j * 2 ^ e.toNat * 2 ^ w else j * 2 ^ w / 2 ^ (-e).toNat
  let half := piFix w / 2
  let k := x / half
  let r := (x - k * half) / 2 ^ (big + 8)
  let r2 := r * r / 2 ^ p
  let q := (k + (if cosine then 1 else 0)) % 4
  let sn := trigSeries p r2 (seriesTerms p) 2 r false 0
  let cs := trigSeries p r2 (seriesTerms p) 1 (2 ^ p) false 0
  let v := if q = 0 then sn else if q = 1 then cs else if q = 2 then -sn else -cs
  ⟨v, 64 * seriesTerms w⟩

/-- sin A, A in radians (R152, R153). -/
def FFmt.sin (f : FFmt) (m : RMode) (a : Nat) : Nat :=
  match f.value a with
  | .nan => f.canonNan
  | .inf _ => f.canonNan
  | .fin s j e =>
    if j = 0 then a
    else
      zivTry f m 0 (fun p => let t := trigEncl false j e p; ⟨if s then -t.s else t.s, t.err⟩) zivPrecisions

/-- cos A, A in radians (R152, R153). -/
def FFmt.cos (f : FFmt) (m : RMode) (a : Nat) : Nat :=
  match f.value a with
  | .nan => f.canonNan
  | .inf _ => f.canonNan
  | .fin _ j e =>
    if j = 0 then f.rnd m (.fin false 1 0)
    else zivTry f m 0 (fun p => trigEncl true j e p) zivPrecisions

end Sys2Proof
end

