-- ==== Sys2Proof/Machine/Float.lean ====
section
/-! DEFINITION. Floating-point words (R149-R159), their immediate forms (R132), and the long-latency functions with the step
that writes their results (R135). -/

namespace Sys2Proof.Machine

/-- The rounding mode of MOD[49:48] (R49, R130). -/
def modeOf (m : BitVec 4) : RMode := RMode.ofCode (m.toNat % 4)

/-- The bits that a value of the type has; a 16-bit source is the low half of its word (R129). -/
def tyBits (t : Ty) (x : Nat) : Nat := x % 2 ^ t.valueBits

/-- Apply a scalar function to a value, or to both elements of packed pairs (R159). -/
def perElem (t : Ty) (op : Nat → Nat → Nat → Nat) (a b c : Nat) : Nat :=
  if t.packed then
    op (a % 2 ^ 16) (b % 2 ^ 16) (c % 2 ^ 16) + 2 ^ 16 * op (bitsOf a 31 16) (bitsOf b 31 16) (bitsOf c 31 16)
  else op (tyBits t a) (tyBits t b) (tyBits t c)

/-- The meter of the FMA forms: 5 for f32, 6 for the 16-bit forms, twice for packed ones (R136, R392). -/
def fmaMeter (t : Ty) : Option (Nat × Nat) :=
  match t with
  | .f32 => some (5, 1)
  | .f16x2 | .bf16x2 => some (6, 2)
  | _ => some (6, 1)

/-- A floating-point V3 word on elements. -/
def float3 (i : Instr) (s : State) (f : V3) (meter : Option (Nat × Nat)) (op : Nat → Nat → Nat → Nat) : Out :=
  lanewise i s {} meter f.d f.ty 32 (fun x l => perElem f.ty op (x.src f.a 32 l) (x.src f.b 32 l) (x.src f.c 32 l))

/-- IMM20 : 0x000 as f32 (R84, R132). -/
def immF (f : VI) : Nat := f.imm.toNat * 2 ^ 12
/-- A floating-point VI word. -/
def floatI (i : Instr) (s : State) (f : VI) (meter : Option (Nat × Nat)) (op : Nat → Nat → Nat) : Out :=
  lanewise i s {} meter f.d f.ty 32 (fun x l => op (x.src f.a 32 l) (immF f))

/-- A long-latency function (R135): its results are taken from the operands at issue and written by FUNC_RESULT_WRITE. With no
passing lane its flag clears at once (R78). -/
def floatLong (i : Instr) (s : State) (f : V3) (op : Nat → Nat → Nat) : Out :=
  stage i s {} (fun x =>
    if x.pass = 0 then x.finish x.g
    else
      match i.info with
      | none => x.finish x.g
      | some inf =>
        let vals := x.vals (fun l => op (tyBits f.ty (x.src f.a 32 l)) (tyBits f.ty (x.src f.b 32 l)))
        x.finishS (x.launch inf {
          gid := x.gid, pc := x.pc, flag := none, lanes := x.pass, entry := x.e.mask, dst := f.d, ty := f.ty,
          regs := opRegs f.d 32, kind := .func vals }))

/-! ### Meanings: basic forms (R149-R151) -/

def execFadd (f : V3) (s : State) : Out :=
  float3 (.fadd f) s f (fmaMeter f.ty) (fun a b _ => (tyFmt f.ty).add (modeOf f.mod) a b)
def execFsub (f : V3) (s : State) : Out :=
  float3 (.fsub f) s f (fmaMeter f.ty) (fun a b _ => (tyFmt f.ty).sub (modeOf f.mod) a b)
def execFmul (f : V3) (s : State) : Out :=
  float3 (.fmul f) s f (fmaMeter f.ty) (fun a b _ => (tyFmt f.ty).mul (modeOf f.mod) a b)
def execFfma (f : V3) (s : State) : Out :=
  float3 (.ffma f) s f (fmaMeter f.ty) (fun a b c => (tyFmt f.ty).fma (modeOf f.mod) a b c)
def execFmin (f : V3) (s : State) : Out := float3 (.fmin f) s f none (fun a b _ => (tyFmt f.ty).minNum a b)
def execFmax (f : V3) (s : State) : Out := float3 (.fmax f) s f none (fun a b _ => (tyFmt f.ty).maxNum a b)
def execFabs (f : V3) (s : State) : Out := float3 (.fabs f) s f none (fun a _ _ => (tyFmt f.ty).absv a)
def execFneg (f : V3) (s : State) : Out := float3 (.fneg f) s f none (fun a _ _ => (tyFmt f.ty).negv a)

/-! ### Meanings: long-latency functions (R152, R153) -/

def execFdiv (f : V3) (s : State) : Out := floatLong (.fdiv f) s f (fun a b => (tyFmt f.ty).div (modeOf f.mod) a b)
def execFsqrt (f : V3) (s : State) : Out := floatLong (.fsqrt f) s f (fun a _ => (tyFmt f.ty).sqrt (modeOf f.mod) a)
def execFrcp (f : V3) (s : State) : Out := floatLong (.frcp f) s f (fun a _ => (tyFmt f.ty).rcp (modeOf f.mod) a)
def execFrsq (f : V3) (s : State) : Out := floatLong (.frsq f) s f (fun a _ => (tyFmt f.ty).rsq (modeOf f.mod) a)
def execFex2 (f : V3) (s : State) : Out := floatLong (.fex2 f) s f (fun a _ => (tyFmt f.ty).ex2 (modeOf f.mod) a)
def execFlg2 (f : V3) (s : State) : Out := floatLong (.flg2 f) s f (fun a _ => (tyFmt f.ty).lg2 (modeOf f.mod) a)
def execFsin (f : V3) (s : State) : Out := floatLong (.fsin f) s f (fun a _ => (tyFmt f.ty).sin (modeOf f.mod) a)
def execFcos (f : V3) (s : State) : Out := floatLong (.fcos f) s f (fun a _ => (tyFmt f.ty).cos (modeOf f.mod) a)

/-- FUNC_RESULT_WRITE (R135): the result is written in every lane that was not discarded, and the flag clears. -/
def execFuncResultWrite (op : Nat) (s : State) : Out :=
  match KMap.find? s.ops op with
  | some o =>
    match o.kind with
    | .func vals =>
      let s1 := s.modGrp o.gid (fun g => (g.write o.dst o.ty 32 (vals.filter (fun e => o.lanes.getLsbD e.1))).keepResult o)
      .next ({ s1 with ops := KMap.erase s1.ops op }.settle o.gid)
    | _ => .next s
  | none => .next s

/-! ### Meanings: integral values, classes, exponents, dot product (R154-R158) -/

def execFflr (f : V3) (s : State) : Out := float3 (.fflr f) s f none (fun a _ _ => (tyFmt f.ty).integral .rd a)
def execFceil (f : V3) (s : State) : Out := float3 (.fceil f) s f none (fun a _ _ => (tyFmt f.ty).integral .ru a)
def execFtrunc (f : V3) (s : State) : Out := float3 (.ftrunc f) s f none (fun a _ _ => (tyFmt f.ty).integral .rz a)
def execFrnd (f : V3) (s : State) : Out :=
  float3 (.frnd f) s f none (fun a _ _ => (tyFmt f.ty).integral (modeOf f.mod) a)
def execFfrc (f : V3) (s : State) : Out := float3 (.ffrc f) s f none (fun a _ _ => (tyFmt f.ty).frc a)
def execFclass (f : V3) (s : State) : Out :=
  arith1 (.fclass f) s f .n32 32 (fun a => (tyFmt f.ty).classOf (tyBits f.ty a))
def execFscale (f : V3) (s : State) : Out :=
  arith3 (.fscale f) s f f.ty 32 32 32 32 (fun a b _ =>
    (tyFmt f.ty).scale (modeOf f.mod) (tyBits f.ty a) (signedOf 32 b))
def execFgetexp (f : V3) (s : State) : Out :=
  arith1 (.fgetexp f) s f .i32 32 (fun a => (tyFmt f.ty).getExp (tyBits f.ty a))
def execFdot2 (f : V3) (s : State) : Out :=
  lanewise (.fdot2 f) s {} (some (6, 2)) f.d .f32 32 (fun x l =>
    fdot2 (tyFmt f.ty) (modeOf f.mod) (x.src f.a 32 l) (x.src f.b 32 l) (x.src f.c 32 l))

/-! ### Meanings: immediate forms (R132) -/

def execFaddImm (f : VI) (s : State) : Out :=
  floatI (.faddImm f) s f (fmaMeter .f32) (fun a b => FFmt.f32.add (modeOf f.mod) a b)
def execFmulImm (f : VI) (s : State) : Out :=
  floatI (.fmulImm f) s f (fmaMeter .f32) (fun a b => FFmt.f32.mul (modeOf f.mod) a b)
def execFminImm (f : VI) (s : State) : Out := floatI (.fminImm f) s f none (fun a b => FFmt.f32.minNum a b)
def execFmaxImm (f : VI) (s : State) : Out := floatI (.fmaxImm f) s f none (fun a b => FFmt.f32.maxNum a b)

end Sys2Proof.Machine
end

