-- ==== Sys2Proof/Machine/Pred.lean ====
section
/-! DEFINITION. Predicates, moves, indexed moves and special registers (R178-R185), and the cross-lane words (R168, R186-R189). -/

namespace Sys2Proof.Machine

/-! ### Predicates (R178-R181) -/

/-- ELECT (R178). -/
def execElect (f : V3) (s : State) : Out :=
  stage (.elect f) s { cross := true } (fun x =>
    let one := match lowLane x.pass with
      | some l => laneBit l
      | none => 0
    x.finish (x.g.pWrite f.d.idx.toNat x.pass one))

def execIcmp (f : V3) (s : State) : Out :=
  lanewiseP (.icmp f) s {} f.d.idx.toNat (fun x l =>
    icmpCode (f.mod.toNat % 8) (tyVal f.ty f.w (x.src f.a f.w l)) (tyVal f.ty f.w (x.src f.b f.w l)))

def execFcmp (f : V3) (s : State) : Out :=
  lanewiseP (.fcmp f) s {} f.d.idx.toNat (fun x l =>
    (tyFmt f.ty).compareCode f.mod.toNat (tyBits f.ty (x.src f.a 32 l)) (tyBits f.ty (x.src f.b 32 l)))

def execPlop (f : V3) (s : State) : Out :=
  lanewiseP (.plop f) s {} f.d.idx.toNat (fun x l =>
    table3 (ftOf f) ((x.g.pGet f.a.idx.toNat).getLsbD l) ((x.g.pGet f.b.idx.toNat).getLsbD l)
      ((x.g.pGet f.c.idx.toNat).getLsbD l))

/-- The 24 predicates of a lane as a word (R181). -/
def Group.predWord (g : Group) (l : Nat) : Nat := ofBits 24 (fun p => (g.pGet p).getLsbD l)
/-- Write all 24 predicates of the lanes of a set from a word of each lane (R181). -/
def Group.setPreds (g : Group) (m : Mask) (w : Nat → Nat) : Group :=
  (List.range 24).foldl (fun g p => g.pWrite p m (laneFilter m (fun l => bitOf (w l) p))) g

def allPreds : List RegRef := (List.range 24).map .p

def execPmov (f : V3) (s : State) : Out :=
  if f.mod.getLsbD 0 then
    stage (.pmov f) s { writes := allPreds } (fun x =>
      x.finish (x.g.setPreds x.pass (fun l => x.src f.a 32 l)))
  else lanewise (.pmov f) s { reads := allPreds } none f.d f.ty 32 (fun x l => x.g.predWord l)

/-! ### Moves (R182, R183) -/

def execSel (f : V3) (s : State) : Out :=
  lanewise (.sel f) s {} none f.d f.ty f.w (fun x l =>
    if (x.g.pGet f.c.idx.toNat).getLsbD l then x.src f.a f.w l else x.src f.b f.w l)

def execMov (f : V3) (s : State) : Out := arith1 (.mov f) s f f.ty f.w (fun a => a)

def execMovi (f : VI) (s : State) : Out :=
  lanewise (.movi f) s {} none f.d f.ty 32 (fun _ _ =>
    if f.mod.getLsbD 0 then f.imm.toNat * 2 ^ 12 else immS f 32)

/-! ### Indexed moves (R184) -/

/-- The word as it would issue, to read its operands before the checks. -/
def preIssue (i : Instr) (s : State) : Option Issue :=
  match s.focus, i.info with
  | some ⟨gid, lane⟩, some f =>
    let g := s.grp gid
    match g.entryAt lane with
    | some e =>
      let pass := g.guard e.mask f.g
      match (s.touchWord gid pass f).readWord gid pass f with
      | .ok q => some ⟨s, gid, lane, e, pass, q⟩
      | .error _ => none
    | none => none
  | _, _ => none

/-- The register that a lane's index names; none for a bad index (R184). -/
def Issue.indexed (x : Issue) (f : V3) (base : Operand) (l : Nat) : Option Nat :=
  let k := signedOf 32 (x.src f.b 32 l)
  let j := (base.idx.toNat : Int) + k
  if j < 0 ∨ (x.g.regs : Int) ≤ j then none
  else if f.mod.getLsbD 0 && (decide (k < 0) || decide ((x.src f.c 32 l : Int) ≤ k)) then none
  else some j.toNat

/-- Lane and register of every passing lane; none if an index is bad. -/
def Issue.indexAll (x : Issue) (f : V3) (base : Operand) : Option (List (Nat × Nat)) :=
  (lanesOf x.pass).foldr (fun l acc =>
    match acc, x.indexed f base l with
    | some a, some j => some ((l, j) :: a)
    | _, _ => none) (some [])

/-- The indexed registers before the checks; none listed where an index is bad, since the word then traps. -/
def indexPlan (i : Instr) (s : State) (f : V3) (base : Operand) : List (Nat × Nat) :=
  match preIssue i s with
  | some x => (x.indexAll f base).getD []
  | none => []

def execMovx (f : V3) (s : State) : Out :=
  stage (.movx f) s { laneReads := indexPlan (.movx f) s f f.a } (fun x =>
    match x.indexAll f f.a with
    | none => x.trap .index 18
    | some l => x.finish (x.g.write f.d f.ty 32 (l.map (fun e => (e.1, (x.g.vGet e.2 e.1).toNat)))))

def execMovxs (f : V3) (s : State) : Out :=
  stage (.movxs f) s { writes := (indexPlan (.movxs f) s f f.d).map (fun e => .v e.2) } (fun x =>
    match x.indexAll f f.d with
    | none => x.trap .index 18
    | some l => x.finish (l.foldl (fun g e => g.vSet e.2 e.1 (BitVec.ofNat 32 (x.src f.a 32 e.1))) x.g))

/-! ### Special registers (R38-R41, R185) -/

/-- %where (R40). -/
def State.whereReg (s : State) (gid : Nat) : Nat :=
  let g := s.grp gid
  let t := s.team g.team
  t.core * 2 ^ 32 + t.cx * 2 ^ 13 + t.cy * 2 ^ 9 + g.quarter * 2 ^ 7 + g.slot * 2 ^ 2

/-- An unprivileged special register (R39). -/
def Issue.special (x : Issue) (n l : Nat) : Nat :=
  match n with
  | 0x00 => l
  | 0x01 => x.g.num
  | 0x02 => x.team.num
  | 0x03 => x.team.cluster
  | 0x04 => x.s.whereReg x.gid
  | 0x05 => x.s.clock x.team.core
  | 0x06 => x.e.mask.toNat
  | 0x07 => x.g.regs
  | 0x08 => x.phase.num % 2 ^ 24 * 2 ^ 8 + x.phase.schedIdx
  | 0x09 => x.g.reentry
  | 0x0A => x.g.limit
  | 0x0B => x.g.utvec
  | 0x0C => x.g.xdec0.toNat
  | 0x0D => x.g.xdec1.toNat
  | 0x0E => x.g.xdec2.toNat
  | 0x0F => x.g.xdec3.toNat
  | 0x10 => x.g.xcause.toNat
  | 0x11 => min (x.g.govStall + x.g.entries.foldl (fun n e => n + e.heldCycles (x.s.clock x.team.core)) 0) (2 ^ 64 - 1)
  | 0x12 => x.ctx
  | _ => 0

/-- The part of a 64-bit register that SUB names (R185). -/
def partOf (sub : BitVec 4) (v : Nat) : Nat :=
  match sub.toNat % 4 with
  | 0 => v % 2 ^ 32
  | 1 => v / 2 ^ 32 % 2 ^ 32
  | _ => v % 2 ^ 64

/-- A register after a write of the part that SUB names. -/
def partSet (sub : BitVec 4) (old v : Nat) : Nat :=
  match sub.toNat % 4 with
  | 0 => old / 2 ^ 32 * 2 ^ 32 + v % 2 ^ 32
  | 1 => v % 2 ^ 32 * 2 ^ 32 + old % 2 ^ 32
  | _ => v % 2 ^ 64

/-- The type of a part: raw bits. -/
def partTy (sub : BitVec 4) : Ty := if sub.toNat % 4 = 2 then .b64 else .b32

/-- A group after a write of a special register (R39): 0x0A ignores a limit of 0, 0x0B drops bits [2:0]. -/
def Group.setSpecial (g : Group) (n : Nat) (v : Nat) : Group :=
  match n with
  | 0x0A => if v % 256 = 0 then g else { g with limit := v % 256 }
  | 0x0B => { g with utvec := v / 8 * 8 }
  | _ => g

def execSrd (f : FS) (s : State) : Out :=
  lanewise (.srd f) s {} none f.d (partTy f.sub) f.partBits (fun x l => partOf f.sub (x.special f.idx.toNat l))

def execSwr (f : FS) (s : State) : Out :=
  stage (.swr f) s {} (fun x =>
    match lowLane x.pass with
    | none => x.finish x.g
    | some l =>
      let n := f.idx.toNat
      x.finish (x.g.setSpecial n (partSet f.sub (x.special n l) (x.src f.a f.partBits l))))

/-! ### Cross-lane words (R186-R189) -/

/-- The segment width of SHFL (R187). -/
def shflW (m : BitVec 4) : Nat :=
  match m.toNat / 4 with
  | 0 => 64 | 1 => 16 | 2 => 8 | _ => 4

/-- The source lane of SHFL in lane l (R187). -/
def shflSrc (m : BitVec 4) (l b : Nat) : Option Nat :=
  let w := shflW m
  let g := l - l % w
  match m.toNat % 4 with
  | 0 => some (g + b % w)
  | 1 => some (g + (l - g + b) % w)
  | 2 => some (l ^^^ (b % w))
  | _ =>
    let t := (l : Int) + signedOf 32 b
    if (g : Int) ≤ t ∧ t < (g : Int) + w then some t.toNat else none

def execShfl (f : V3) (s : State) : Out :=
  stage (.shfl f) s { cross := true } (fun x =>
    let from_ := fun l => (shflSrc f.mod l (x.src f.b 32 l)).bind (fun t => if x.e.mask.getLsbD t then some t else none)
    let vals := x.vals (fun l =>
      match from_ l with
      | some t => x.src f.a 32 t
      | none => 0)
    x.finish ((x.g.write f.d f.ty 32 vals).pWrite f.c.idx.toNat x.pass (laneFilter x.pass (fun l => (from_ l).isSome))))

/-- VOTE over the passing lanes (R186). -/
def voteOf (mode : Nat) (pass set : Mask) : Bool :=
  match mode with
  | 0 => set == pass
  | 1 => set != 0
  | 2 => set == pass || set == 0
  | _ => (lanesOf set).length % 2 == 1

def execVote (f : V3) (s : State) : Out :=
  stage (.vote f) s { cross := true } (fun x =>
    let v := voteOf (f.mod.toNat % 4) x.pass (x.g.pGet f.a.idx.toNat &&& x.pass)
    x.finish (x.g.pWrite f.d.idx.toNat x.pass (if v then x.pass else 0)))

def execBallot (f : V3) (s : State) : Out :=
  lanewise (.ballot f) s { cross := true } none f.d f.ty 64 (fun x _ => (x.g.pGet f.a.idx.toNat &&& x.pass).toNat)

/-- The reduction of LRED over the values of the passing lanes (R188). -/
def lredOf (t : Ty) (op : Nat) (l : List Nat) : Nat :=
  let fold := fun (f : Nat → Nat → Nat) =>
    match l with
    | [] => 0
    | a :: r => r.foldl f (f a a)
  match op with
  | 0 =>
    if t = .f32 then FFmt.f32.rnd .rn (FVal.sum .rn (l.map FFmt.f32.value)) else l.foldl (fun n x => (n + x) % 2 ^ 32) 0
  | 1 => if t = .f32 then fold FFmt.f32.minNum else fold (fun a b => if tyVal t 32 a ≤ tyVal t 32 b then a else b)
  | 2 => if t = .f32 then fold FFmt.f32.maxNum else fold (fun a b => if tyVal t 32 a ≤ tyVal t 32 b then b else a)
  | 3 => fold (fun a b => a &&& b)
  | 4 => fold (fun a b => a ||| b)
  | _ => l.foldl (fun a b => a ^^^ b) 0

def execLred (f : V3) (s : State) : Out :=
  stage (.lred f) s { cross := true } (fun x =>
    let v := lredOf f.ty (f.mod.toNat % 8) ((lanesOf x.pass).map (fun l => x.src f.a 32 l))
    x.finish (x.g.write f.d f.ty 32 (x.vals (fun _ => v))))

def execBcast (f : V3) (s : State) : Out :=
  stage (.bcast f) s { cross := true } (fun x =>
    match lowLane x.pass with
    | none => x.finish x.g
    | some l =>
      let t := x.src f.b 32 l % 64
      let v := x.src f.a f.w (if x.e.mask.getLsbD t then t else l)
      x.finish (x.g.write f.d f.ty f.w (x.vals (fun _ => v))))

end Sys2Proof.Machine
end

