-- ==== Sys2Proof/Machine/Control.lean ====
section
/-! DEFINITION. Control words (R170-R177), the start of a clause (R71-R76, R280) and the commit of a strand at BND (R176,
R268). -/

namespace Sys2Proof.Machine

/-! ### Who may issue (R281, R284) -/

/-- Every flag that a header names in WAITM is clear (R71). -/
def State.waitClear (s : State) (gid hdr : Nat) : Bool :=
  (List.range 12).all (fun i => !bitOf (hdrWait hdr) i || s.onFlag gid i == 0)

/-- An entry is eligible (R281); the WAITM of a header that it is about to start is looked at apart. A new strand does not start
while a suspect window holds the lanes or a pre-emption waits (R270, R273); a strand that some lanes run or have sealed, exited ones
among them, goes on to its commit, its discarded lanes re-entering. -/
def Group.ready (g : Group) (e : Entry) : Bool :=
  e.wait == .none && (g.handler.isNone || e.handler) &&
    !(g.suspectHold && e.clause.isNone && (e.mask &&& g.outside) != 0) &&
    !(g.preempt && g.sealed == 0 && minus g.live g.outside == 0)

/-- The start of an entry's clause is not held back by WAITM; where its header cannot be read, the fetch tells (R71, R375). -/
def State.startClear (s : State) (gid : Nat) (e : Entry) : Bool :=
  e.clause.isSome ||
    (match s.fetchWord (s.grp gid).ctx e.pc with
     | .ok h => s.waitClear gid h
     | .error _ => true)

/-- The group is in the active set, and its context runs on its core (R284, R377, R380, R426). -/
def State.mayIssue (s : State) (gid : Nat) : Bool :=
  match KMap.find? s.groups gid with
  | none => false
  | some g =>
    g.active && !g.ended && (s.ctx g.ctx).st == .active && !(s.ctx g.ctx).retiring &&
      (s.core (s.team g.team).core).running == some g.ctx &&
      (s.district (districtOf (s.team g.team).core)).st == .on

/-! ### Fetch (R375) -/

/-- A real fetch that is not made: the entry holds until the page is there, or the context faults. -/
def State.fetchMiss (s : State) (gid lane : Nat) (e : Entry) : Miss → Out
  | .absent page code level =>
    .next ((s.pageNotice (s.coreOf gid) (s.grp gid).ctx page code level).modGrp gid (fun g =>
      g.modEntry lane (fun e => { e with wait := .fetch page })))
  | .fault c d => s.faultOut gid e c d
  | .noSuch => .fault .noSuchPhysicalAddress
  | .regPage => .refused .deviceRegisterPage

/-- Fetch n words from an address on. -/
def State.fetchWords (s : State) (ctx : Nat) : Nat → Nat → Except Miss (List Nat)
  | _, 0 => .ok []
  | va, n + 1 =>
    match s.fetchWord ctx va with
    | .error m => .error m
    | .ok w =>
      match s.fetchWords ctx (va + 8) n with
      | .ok l => .ok (w :: l)
      | .error m => .error m

/-! ### Clause start (R71-R76, R258, R280) -/

/-- Every entry at the header of an entry that starts it outside handler mode starts it too, one that waits for the fetch of its
clause among them (R280). An entry of the strand that came to a strand-entry header where lanes also re-enter thus merges with them
before the start is checked, and the whole entry then traps PLACEMENT (DEDUCED: R74 and R280 do not say which comes first; log
entry 40). -/
def Group.joinStart (g : Group) (lane : Nat) : Group :=
  match g.entryAt lane with
  | none => g
  | some e =>
    if e.handler then g
    else
      let with_ : Entry → Bool := fun x =>
        x.pc == e.pc && x.clause.isNone && !x.isParked && !x.handler
      let m := g.entries.foldl (fun m x => if with_ x then m ||| x.mask else m) e.mask
      { g with entries := { e with mask := m } :: g.entries.filter (fun x => !with_ x && !x.mask.getLsbD lane) }

/-- The trap that the start of a header raises, if any (R74, R76, R275), as cause and position. -/
def Group.startTrap (g : Group) (e : Entry) (h : Nat) : Option (Cause × Nat) :=
  if !e.handler && (lanesOf e.mask).any (fun l => decide (g.limit < KMap.getD g.recheck 0 l)) then some (.strandLivelock, 0xFF)
  else
    match hdrErr h with
    | some p => some (.header, p)
    | none =>
      let ok :=
        if e.handler then hdrKind h == 2
        else if hdrKind h = 1 then minus e.mask g.outside == 0
        else if hdrKind h = 0 then (e.mask &&& g.outside) == 0
        else false
      if ok then none else some (.placement, 30)

/-- The cohort of lanes that start a strand-entry clause as one entry; a lane that parked in the strand keeps its own (R168). -/
def Group.setCohort (g : Group) (m : Mask) : Group :=
  let new := minus m g.parkedIn
  { g with cohort := (lanesOf new).foldl (fun a l => KMap.insert a l new) g.cohort }

/-- CLAUSE_START (R71): an entry starts the clause at its PC. -/
def execClauseStart (gid lane : Nat) (s : State) : Out :=
  match (s.grp gid).entryAt lane with
  | none => .next s
  | some e0 =>
    if e0.clause.isSome || !(s.grp gid).ready e0 || !s.mayIssue gid then .next s
    else
      let ctx := (s.grp gid).ctx
      let s0 := s.touchRange ctx (towerOf (s.coreOf gid)) .fetch e0.pc 8
      match s0.fetchWord ctx e0.pc with
      | .error m => s0.fetchMiss gid lane e0 m
      | .ok h =>
        if !s0.waitClear gid h then .next s0
        else
          let s1 := s0.modGrp gid (fun g => g.joinStart lane)
          let g := s1.grp gid
          match g.entryAt lane with
          | none => .next s1
          | some e =>
            match g.startTrap e h with
            | some (c, p) => .next ((s1.trap gid lane c p h e.pc).settle gid)
            | none =>
              let s2 := s1.touchRange ctx (towerOf (s.coreOf gid)) .fetch (e.pc + 8) (8 * hdrLen h)
              match s2.fetchWords ctx (e.pc + 8) (hdrLen h) with
              | .error m => s2.fetchMiss gid lane e m
              | .ok ws =>
                let g1 := if hdrKind h = 1 then ((g.checked e.mask).setCohort e.mask).enter e.mask e.pc (hdrPrio h) else g
                let g2 := g1.modEntry lane (fun e =>
                  { e with pc := e.pc + 8, prio := hdrPrio h, clause := some ⟨e.pc, h, ws⟩, retry := 0, governed := false })
                .next ((s2.setGrp gid { g2 with yieldMark := if hdrKind h = 1 then false else g2.yieldMark }).settle gid)

/-! ### Going to targets (R69, R170, R171, R279) -/

/-- The lanes of a set leave the entry that holds the lane for a target, with a priority; the others go to the next word. -/
def Group.sendTo (g : Group) (lane : Nat) (go : Mask) (target prio : Nat) : Group :=
  match g.entryAt lane with
  | none => g
  | some e =>
    let stay := minus e.mask go
    let new : Entry := { e with pc := target, prio := prio, mask := go, clause := none, wait := .none, retry := 0, governed := false }
    let old : Entry := { e.advance with mask := stay }
    { g with entries :=
        (g.entries.filter (fun x => !x.mask.getLsbD lane)) ++ (if stay = 0 then [] else [old]) ++ (if go = 0 then [] else [new]) }

/-- The lanes of a branch that go (R170). -/
def branchLanes (cond : BitVec 4) (entry pass : Mask) : Mask :=
  match cond.toNat with
  | 0 => pass
  | 1 => if pass = 0 then 0 else entry
  | _ => if pass = entry then entry else 0

/-- The target of a branch: 8 × OFFS from the word (R87). -/
def branchTarget (f : FBr) (pc : Nat) : Nat := wrapNat 64 ((pc : Int) + 8 * signedOf 32 f.offs.toNat)

/-- Check that an address is a header, and go on; a bad one traps at the word (R69). -/
def Issue.toHeader (x : Issue) (target pos : Nat) (k : Out) : Out :=
  if x.s.badHeader x.gid target then x.trap .badTarget pos else k

/-- BRA and CALL (R170). -/
def branch (i : Instr) (s : State) (f : FBr) (n : Need) (link : Group → Mask → Nat → Group) : Out :=
  stage i s n (fun x =>
    let go := branchLanes f.cond x.e.mask x.pass
    if go = 0 then x.finish x.g
    else
      let t := branchTarget f x.pc
      x.toHeader t 8 (.next
        ((x.s.setGrp x.gid ((link x.g go (x.pc + 8)).sendTo x.lane go t f.tprio.toNat)).settle x.gid)))

def execBra (f : FBr) (s : State) : Out := branch (.bra f) s f {} (fun g _ _ => g)

/-- Write a return address into v0:v1 of lanes (R170). -/
def Group.linkV01 (g : Group) (m : Mask) (ret : Nat) : Group :=
  (lanesOf m).foldl (fun g l => g.writeLane ⟨.v, 0⟩ 64 l ret) g

def execCall (f : FBr) (s : State) : Out := branch (.call f) s f { writes := [.v 0, .v 1] } Group.linkV01

/-- The targets of the passing lanes, each with the lanes that go there. -/
def targetsOf (l : List (Nat × Nat)) : List (Nat × Mask) :=
  ((l.map (fun e => e.2)).eraseDups).map (fun t => (t, maskOf ((l.filter (fun e => e.2 == t)).map (·.1))))

/-- The priority of a header (R73, R171). Of a header whose page is not present or faults it is not to be read; the entry then has
priority 0 until it starts the clause, which gives it the header's (DEDUCED: R171 names the header's own, and R375 reads it no earlier; log
entry 43). -/
def State.headerPrio (s : State) (ctx pc : Nat) : Nat :=
  match s.fetchWord ctx pc with
  | .ok w => hdrPrio w
  | .error _ => 0

/-- A target is no header (R171). -/
def State.badTarget (s : State) (gid : Nat) (l : List (Nat × Mask)) : Bool := l.any (fun e => s.badHeader gid e.1)

/-- BRX, CALLX and RET (R171): link writes the return address where the word has one. -/
def branchTo (i : Instr) (s : State) (a : Operand) (link : Issue → Group → Group) : Out :=
  stage i s {} (fun x =>
    let ts := targetsOf ((lanesOf x.pass).map (fun l => (l, x.src a 64 l)))
    if x.s.badTarget x.gid ts then x.trap .badTarget 28
    else
      -- the lanes that stay go to the next word, and each target takes its lanes
      let stay := minus x.e.mask x.pass
      let g := link x x.g
      let old : List Entry := if stay = 0 then [] else [{ x.e.advance with mask := stay }]
      let new := ts.map (fun t =>
        { x.e with pc := t.1, prio := x.s.headerPrio x.ctx t.1, mask := t.2, clause := none, wait := .none, retry := 0, governed := false })
      .next ((x.s.setGrp x.gid { g with
        entries := (g.entries.filter (fun y => !y.mask.getLsbD x.lane)) ++ old ++ new }).settle x.gid))

def execBrx (f : V3) (s : State) : Out := branchTo (.brx f) s f.a (fun _ g => g)
def execCallx (f : V3) (s : State) : Out :=
  branchTo (.callx f) s f.a (fun x g => g.write f.d .b64 64 (x.vals (fun _ => x.pc + 8)))
def execRet (f : V3) (s : State) : Out := branchTo (.ret f) s f.a (fun _ g => g)

/-! ### Ends, joins and traps (R172-R177) -/

def execNop (f : V3) (s : State) : Out := stage (.nop f) s {} (fun x => x.finish x.g)

def execYield (f : V3) (s : State) : Out :=
  stage (.yield f) s {} (fun x => x.finish { x.g with yielded := x.g.yielded || x.pass != 0 })

/-- EXIT (R172). -/
def execExit (f : V3) (s : State) : Out :=
  stage (.exit f) s {} (fun x =>
    let g := (x.g.modEntry x.lane Entry.advance).dropLanes x.pass
    .next ((x.s.setGrp x.gid ({ g with
      exited := g.exited ||| x.pass, outside := minus g.outside x.pass, recheck := g.recheck.filter (fun e => !x.pass.getLsbD e.1) }).endHandler).settle
        x.gid))

/-- The entry waits at its word. -/
def Issue.await (x : Issue) (w : Wait) : Out :=
  .next ((x.s.modGrp x.gid (fun g => g.modEntry x.lane (fun e => { e with wait := w, retry := e.mask }))).settle x.gid)

/-- An entry's word is the last of its clause. -/
def Entry.atEnd (e : Entry) : Bool := e.advance.clause.isNone

/-- BND (R74, R176): the lanes wait at the word for the commit of the strand. -/
def execBnd (f : V3) (s : State) : Out :=
  stage (.bnd f) s { nested := true, survivors := true } (fun x =>
    if x.e.atEnd then x.await .bnd else x.trap .placement 0xFF)

def execRcv (f : V3) (s : State) : Out := stage (.rcv f) s {} (fun x => x.await .rcv)

def execTrap (f : VI) (s : State) : Out := stage (.trap f) s {} (fun x => x.trap .trap 8)
def execBkpt (f : VI) (s : State) : Out := stage (.bkpt f) s {} (fun x => x.trap .bkpt 8)

/-- TRET (R100, R175). -/
def execTret (f : V3) (s : State) : Out :=
  stage (.tret f) s {} (fun x =>
    if !x.e.handler then x.trap .placement 0xFF
    else
      match x.g.handler with
      | none => x.finish x.g
      | some h =>
        if x.pass = 0 then x.finish x.g
        else if h.cause.resumable then .next ((x.s.setGrp x.gid (x.g.trapReturn x.lane x.pass)).settle x.gid)
        else .next (x.s.groupFault x.gid 1 (h.ret - 8) 0 h.cause.code))

/-! ### Commit at BND (R176, R268) -/

/-- The survivor pairs of a BND word: kerb slot and V register. -/
def survivors (w : Nat) : List (Nat × Nat) :=
  match decodeWord w with
  | .instr (.bnd f) =>
    (if f.a = .zero ∧ f.d = .zero then [] else [(f.a.idx.toNat, f.d.idx.toNat)]) ++
    (if f.c = .zero ∧ f.b = .zero then [] else [(f.c.idx.toNat, f.b.idx.toNat)])
  | _ => []

/-- Write the survivors of every waiting lane, from the kerb as it stood before the commit. -/
def Group.putSurvivors (g : Group) (kerb : KMap Word) : Group :=
  g.entries.foldl (fun g e =>
    (survivors e.word).foldl (fun g p =>
      (lanesOf e.mask).foldl (fun g l => g.vSet p.2 l (KMap.getD kerb 0 (p.1 * 64 + l))) g) g) g

/-- Every lane that has not exited waits at a BND. -/
def Group.allAtBnd (g : Group) : Bool := g.live != 0 && g.entries.all (fun e => e.wait == .bnd)

/-- STRAND_COMMIT (R176, R268). -/
def execStrandCommit (gid : Nat) (s : State) : Out :=
  let g := s.grp gid
  if g.ended || !g.allAtBnd || !s.canCommit gid then .next s
  else
    let s1 := (s.commitStrand gid).modGrp gid (fun g2 =>
      let g3 := g2.putSurvivors g.kerb
      { g3 with entries := g3.entries.map Entry.advance })
    .next (s1.settle gid)

end Sys2Proof.Machine
end

