-- ==== Sys2Proof/Machine/Memory.lean ====
section
/-! DEFINITION. Memory words (R190-R199): addresses and their checks, places in global memory, scratchpad and stash windows,
loads, stores and atomics, with the steps in which loads and atomics complete. -/

namespace Sys2Proof.Machine

/-! ### Addresses (R86, R190) -/

/-- The scalar register that RB names. -/
def rbRegs (rb : BitVec 8) : List RegRef :=
  if 0x80 ≤ rb.toNat ∧ rb.toNat < 0xC0 then [.s (rb.toNat - 0x80)] else []

/-- A buffer record: base, size, and its flags RD, WR, AT and CHK as bits 0 to 3 (R114). -/
structure BufRec where
  base : Nat
  size : Nat
  flags : Nat
  deriving DecidableEq, Repr

/-- Read a record of the launch's pool as it stands (R86, R114). Its reserved bits are ignored (DESIGN CHOICE: R8 leaves them to the
record's description, which names no fate for them; log entry 85), and a record that is overwritten during the launch gives its new value
(R112, log entry 77). -/
def Issue.record (x : Issue) (n : Nat) : Except Miss BufRec :=
  let a := x.phase.record.poolBase + 32 * n
  match x.s.vaRead x.ctx .load a 8, x.s.vaRead x.ctx .load (a + 8) 8, x.s.vaRead x.ctx .load (a + 16) 8 with
  | .ok b, .ok z, .ok f => .ok ⟨b, z, f % 16⟩
  | .error m, _, _ => .error m
  | _, .error m, _ => .error m
  | _, _, .error m => .error m

/-- The address of a lane (R86). -/
def Issue.addr (x : Issue) (f : FM) (off : Int) (base : Nat) (l : Nat) : Nat :=
  if f.rb.toNat = 0xFF then wrapNat 64 ((x.src f.a 64 l : Int) + off)
  else
    let b := if 0x80 ≤ f.rb.toNat then (x.g.sGet (f.rb.toNat - 0x80)).toNat else base
    wrapNat 64 ((b : Int) + signedOf 32 (x.src f.a 32 l) + off)

/-- The checks of R191 on the addresses of the passing lanes, each over every lane before the next. -/
def checkAccess (r : Option BufRec) (n : Nat) (perm : Option Nat) (addrs : List (Nat × Nat)) : Option (Cause × Nat) :=
  if addrs.any (fun e => e.2 % n != 0) then some (.align, 28)
  else
    match r with
    | none => none
    | some r =>
      let denied := match perm with
        | some b => !bitOf r.flags b
        | none => false
      if denied then some (.recordRange, 20)
      else if bitOf r.flags 3 && addrs.any (fun e => decide (e.2 < r.base) || decide (r.base + r.size < e.2 + n)) then
        some (.recordRange, 20)
      else none

/-- The issue after the first touch of a record of the pool (R367). -/
def Issue.touchRecord (x : Issue) (n : Nat) : Issue :=
  { x with s := x.s.touchRange x.ctx (towerOf x.team.core) .load (x.phase.record.poolBase + 32 * n) 24 }

/-- Form and check the addresses of a word, and go on with lane and address of each passing lane (R86, R191). -/
def Issue.access (x : Issue) (f : FM) (off : Int) (n : Nat) (perm : Option Nat) (k : Issue → List (Nat × Nat) → Out) : Out :=
  if x.pass = 0 then k x []
  else if f.rb.toNat < 0x80 then
    if x.phase.record.poolCount ≤ f.rb.toNat then x.trap .recordRange 20
    else
      let x1 := x.touchRecord f.rb.toNat
      match x1.record f.rb.toNat with
      | .error m => x1.s.missOut x.gid x.e x.pass m
      | .ok r =>
        let addrs := x.vals (x.addr f off r.base)
        match checkAccess (some r) n perm addrs with
        | some (c, p) => x1.trap c p
        | none => k x1 addrs
  else
    let addrs := x.vals (x.addr f off 0)
    match checkAccess none n perm addrs with
    | some (c, p) => x.trap c p
    | none => k x addrs

/-! ### Scratchpad (R190, R328) -/

/-- A place of n bytes: byte places, and the stash lines they lie in, as team and line. -/
structure Span where
  locs : List Loc
  lines : List (Nat × Nat) := []
  deriving DecidableEq, Repr

/-- The team that a scratchpad address names (R190). -/
def State.spadTeam (s : State) (tid addr : Nat) : Option Nat :=
  let top := bitsOf addr 31 24
  if top = 0 then some tid
  else if 0x80 ≤ top ∧ top ≤ 0x8B then
    let t := s.team tid
    let w := (s.phase t.phase).sched.clw
    ((s.clusterTeams t.phase t.cluster).find? (fun e => e.2.cy * w + e.2.cx == top % 16)).map (·.1)
  else none

/-- The fill that an access in a window makes first, where its line is Invalid (R329, R330). -/
def State.fillCheck (s : State) (t : Team) (line va : Nat) : Except Miss Loc :=
  if (KMap.find? t.stash line).isNone then s.vaLoc t.ctx .stashMove va else .ok ⟨0, 0, none⟩

/-- The place of one scratchpad byte, with its stash line (R190, R328, R428). In a window the access acts on the global byte with its
own permission, after the fill of an Invalid line (R329, R330, R360). -/
def State.spadByte (s : State) (tid : Nat) (kind : Acc) (off : Nat) : Except Miss (Loc × Option Nat) :=
  let t := s.team tid
  if t.extent ≤ off then .error (.fault 4 0)
  else if t.badLines.contains (off / 64) then .error (.fault 10 0)
  else
    match (s.phase t.phase).record.window off with
    | some d =>
      match s.fillCheck t (off / 64) (d.gbase + (off - d.soff)), s.vaLoc t.ctx kind (d.gbase + (off - d.soff)) with
      | .error m, _ => .error m
      | _, .error m => .error m
      | .ok _, .ok p => .ok ({ p with win := some (tid, off / 64) }, some (off / 64))
    | none => .ok (⟨memKey (spTeam tid) off, 0, none⟩, none)

/-- The place of n bytes at a scratchpad address. -/
def State.spadSpan (s : State) (tid : Nat) (kind : Acc) (addr n : Nat) : Except Miss Span :=
  match s.spadTeam tid addr with
  | none => .error (.fault 4 0)
  | some t =>
    (List.range n).foldl (fun acc i =>
      match acc with
      | .error m => .error m
      | .ok sp =>
        match s.spadByte t kind (addr % 2 ^ 24 + i) with
        | .error m => .error m
        | .ok (p, l) =>
          let new := match l with
            | some l => if sp.lines.contains (t, l) then [] else [(t, l)]
            | none => []
          .ok ⟨sp.locs ++ [p], sp.lines ++ new⟩) (.ok ⟨[], []⟩)

/-- An access in a window makes an Invalid line Clean, or Dirty where it writes (R329). -/
def State.fillLines (s : State) (lines : List (Nat × Nat)) (write : Bool) : State :=
  lines.foldl (fun s e =>
    if write then s.setStash e.1 e.2 .dirty
    else if (KMap.find? (s.team e.1).stash e.2).isNone then s.setStash e.1 e.2 .clean else s) s

/-- The first touches that the fills of a scratchpad access of n bytes may make, line by line (R330, R367). -/
def State.spadTouch (s : State) (tid addr n : Nat) : State :=
  match s.spadTeam tid addr with
  | none => s
  | some t =>
    let x := s.team t
    let off := addr % 2 ^ 24
    (List.range ((off % 64 + n + 63) / 64)).foldl (fun s i =>
      match (s.phase x.phase).record.window (off / 64 * 64 + 64 * i) with
      | some d => s.touchVa x.ctx (towerOf x.core) .stashMove (d.gbase + (off / 64 * 64 + 64 * i - d.soff))
      | none => s) s

/-! ### Places of all lanes -/

/-- The places of the lanes, and the lanes whose page is not present. -/
structure Places where
  ok : List (Nat × Span) := []
  parked : List (Nat × Nat × Nat × Nat) := []
  deriving DecidableEq, Repr

/-- Place every lane's access; a miss other than a page that is not present ends it (R191). -/
def collect (span : Nat → Except Miss Span) (addrs : List (Nat × Nat)) : Except Miss Places :=
  addrs.foldl (fun acc e =>
    match acc with
    | .error m => .error m
    | .ok p =>
      match span e.2 with
      | .ok sp => .ok { p with ok := p.ok ++ [(e.1, sp)] }
      | .error (.absent page code level) => .ok { p with parked := p.parked ++ [(e.1, page, code, level)] }
      | .error m => .error m) (.ok {})

/-- The place of n bytes of global memory at a virtual address. -/
def State.globalSpan (s : State) (ctx : Nat) (kind : Acc) (n va : Nat) : Except Miss Span :=
  match s.vaBytes ctx kind va n with
  | .ok l => .ok ⟨l, []⟩
  | .error m => .error m

/-- Touch and place the lanes' accesses to global memory or scratchpad, and go on with the lanes that can be served. Where the
accesses fault, the buffer of a commit point is visible (R264). -/
def Issue.place (x : Issue) (point spad : Bool) (kind : Acc) (n : Nat) (addrs : List (Nat × Nat)) (k : State → Places → Out) :
    Out :=
  let s1 := addrs.foldl (fun s e =>
    if spad then s.spadTouch x.tid (e.2 % 2 ^ 32) n else s.touchRange x.ctx (towerOf x.team.core) kind e.2 n) x.s
  match collect (fun a => if spad then s1.spadSpan x.tid kind (a % 2 ^ 32) n else s1.globalSpan x.ctx kind n a) addrs with
  | .error m => (({ x with s := s1 } : Issue).visible point).s.missOut x.gid x.e x.pass m
  | .ok p => k s1 p

/-- The word is done for the lanes that were served; the others park, after a notice for each page (R272, R368). -/
def Issue.finishPark (x : Issue) (s : State) (p : Places) : Out :=
  let s1 := s.modGrp x.gid (fun g => g.modEntry x.lane Entry.advance)
  let s2 := p.parked.foldl (fun s e => s.pageNotice (s.coreOf x.gid) x.ctx e.2.1 e.2.2.1 e.2.2.2) s1
  .next ((s2.park x.gid (p.parked.map (fun e => (e.1, e.2.1)))).settle x.gid)

/-! ### Loads (R193, R195) -/

/-- The byte that the group's buffer holds for a place: the latest store, and in it the highest lane (R193, R194). -/
def Group.buffered (g : Group) (p : Loc) : Option Byte :=
  g.buffer.foldl (fun acc pl => pl.bytes.foldl (fun acc b => if b.loc.key = p.key then some b.val else acc) acc) none

/-- The bytes a load will deliver in each lane: those of the buffer are fixed at issue. -/
def Group.loadBytes (g : Group) (l : List (Nat × Span)) : List (Nat × List LByte) :=
  l.map (fun e => (e.1, e.2.locs.map (fun p => ⟨p, g.buffered p⟩)))

/-- The raw type of a value of w bits. -/
def rawTy (w : Nat) : Ty := if w ≤ 32 then .b32 else .b64

/-- Lanes of a list. -/
def maskFst {α : Type} (l : List (Nat × α)) : Mask := maskOf (l.map (·.1))

/-- LD, LDS and LDQ (R193): a commit point under .acq. -/
def loadWord (i : Instr) (s : State) (f : FM) (spad : Bool) : Out :=
  let acq := f.ord.toNat == 1
  stage i s { memaff := true, point := acq, miss := !spad, reads := rbRegs f.rb } (fun x =>
    x.access f f.offS (f.bits / 8) (some 0) (fun x addrs =>
      x.place acq spad .load (f.bits / 8) addrs (fun s1 p =>
        let s2 := if acq && x.pass != 0 then s1.makeVisible x.gid else s1
        let s3 := s2.fillLines (p.ok.flatMap (fun e => e.2.lines)) false
        match i.info with
        | none => .next s
        | some inf =>
          let o : Op := {
            gid := x.gid, pc := x.pc, flag := none, lanes := maskFst p.ok, entry := x.e.mask, pending := acq
            dst := f.d, ty := rawTy f.bits, regs := opRegs f.d f.bits
            kind := .load f.bits acq f.scope.toNat ((s3.grp x.gid).loadBytes p.ok) }
          x.slots s1 o.kind (x.finishPark (if p.ok.isEmpty then s3 else ({ x with s := s3 } : Issue).launch inf o) p))))

def execLd (f : FM) (s : State) : Out := loadWord (.ld f) s f false
def execLds (f : FM) (s : State) : Out := loadWord (.lds f) s f true
def execLdq (f : FM) (s : State) : Out := loadWord (.ldq f) s f false

/-- Seal lanes of a group: a commit point takes effect for them (R264). -/
def State.seal (s : State) (gid : Nat) (m : Mask) : State := s.modGrp gid (fun g => { g with sealed := g.sealed ||| m })

/-- An earlier access of the group has yet to be performed on a place: an atomic step or a read (R299, R301). -/
def State.accessBefore (s : State) (id gid : Nat) (p : Loc) : Bool :=
  s.ops.any (fun e => decide (e.1 < id) && e.2.gid == gid &&
    (match e.2.kind with
     | .atom bits _ _ _ _ _ steps => steps.any (fun t =>
         t.old.isNone && decide (t.loc.key ≤ p.key) && decide (p.key < t.loc.key + bits / 8))
     | k => k.unread.any (fun q => q.key == p.key)))

/-- Bytes of an in-flight load that memory has yet to give. -/
def openBytes (l : List (Nat × List LByte)) : List Loc :=
  l.flatMap (fun e => e.2.filterMap (fun b => if b.val.isNone then some b.loc else none))

/-- The bytes of a load as the groups of its core see them now. -/
def State.deliver (s : State) (core ctx : Nat) (l : List LByte) : List Byte :=
  l.map (fun b => match b.val with
    | some v => v
    | none => s.see core ctx b.loc)

/-- Reading a byte writes back the other Dirty stash lines that hold it (R329). -/
def State.recallAll (s : State) (l : List Loc) (write : Bool) : State := l.foldl (fun s p => s.stashOther p write) s

/-- LOAD_COMPLETE (R193): the data arrives. It waits for lines that an engine owns (R310) and for earlier accesses of the group to its bytes;
a `.remote` acquire first has the stores of the cores forced to device scope (R308); a poisoned line faults (R414). -/
def execLoadComplete (op : Nat) (s00 : State) : Out :=
  match KMap.find? s00.ops op with
  | some o =>
    match o.kind with
    | .load bits acq scope lanes =>
      let gid := o.gid
      let todo := openBytes lanes
      let s := if acq then s00.acquiring scope else s00
      if s00.struck s (s00.grp gid).ctx then .next s
      else if todo.any (fun p => s.owned p.key || s.accessBefore op gid p) || (acq && (s.pointHeld gid || !s.recalled scope)) then .next s
      else if todo.any s.badAt then .next (s.groupFault gid 10 o.pc 0 0)
      else
        let g := s.grp gid
        let s0 := s.recallAll todo false
        if s.struck s0 g.ctx then .next s0
        else
        let s1 := if acq then s0.makeVisible gid else s0
        let vals := lanes.map (fun e => (e.1, leNat (s.deliver (s.coreOf gid) g.ctx e.2)))
        let s2 := s1.modGrp gid (fun g => (g.write o.dst o.ty bits vals).keepResult o)
        let s3 := if acq then s2.seal gid o.lanes else s2
        .next ({ s3 with ops := KMap.erase s3.ops op }.settle gid)
    | _ => .next s00
  | none => .next s00

/-- A load delivers its data before the closing check beat of a burst on a bus (R269): the beat is pending for its lanes. A load that
is a commit point, and one of a strand that has committed or waits at a barrier, waits for the check. -/
def State.loadUnchecked (s : State) (op bus : Nat) : Out :=
  match KMap.find? s.ops op with
  | some o =>
    let waits := (s.grp o.gid).entries.any (fun e =>
      match e.wait with
      | .bar _ _ => true
      | _ => false)
    if o.pending || o.committed || waits then .next s
    else
      match execLoadComplete op s with
      | .next t =>
        if (KMap.find? t.ops op).isSome then .next s
        else .next (t.modGrp o.gid (fun g => { g with beats := g.beats ++ [⟨bus, o.lanes⟩] }))
      | x => x
  | none => .next s

/-- The closing check of a bus passes: no beat of it is pending any more, and what waited for it goes on (R269). -/
def State.beatsPass (s : State) (bus : Nat) : State :=
  let s1 := { s with groups := s.groups.map (fun (e : Nat × Group) =>
    (e.1, { e.2 with beats := e.2.beats.filter (fun b => b.bus != bus) })) }
  s1.groups.foldl (fun s e => s.settle e.1) s1

/-- The oldest committed place of a core becomes visible beyond it, and groups that wait for that at a BARC may arrive (R207,
R302). -/
def State.drainTurn (s : State) (core : Nat) : State :=
  (s.groups.filter (fun e => s.coreOf e.1 == core)).foldl (fun s e => s.settle e.1) (s.drainOne core)

/-! ### Stores (R194, R261, R262) -/

/-- The bytes that a store writes, in lane order. -/
def storeBytes (l : List (Nat × Span)) (val : Nat → Nat) : List SByte :=
  l.flatMap (fun e => (e.2.locs.zip (leBytes e.2.locs.length (val e.1))).map (fun b => ⟨e.1, b.1, b.2⟩))

/-- A place that a re-entered entry's store may fill: it has its PC, and all lanes of the entry are clear in it (R262). -/
def Place.takes (q : Place) (pc : Nat) (entry : Mask) : Bool := q.pc == pc && (q.lanes &&& entry) == 0

/-- The entry re-enters after a park, and a place is held for its store (R262). -/
def Group.refill (g : Group) (pc : Nat) (entry : Mask) : Bool := minus entry g.redo == 0 && g.buffer.any (fun q => q.takes pc entry)

/-- Bytes of one store in lane order: where lanes write the same byte, the highest lane's comes last (R194). -/
def laneOrder (l : List SByte) : List SByte := (List.range 64).flatMap (fun i => l.filter (fun b => b.lane == i))

/-- Put a store into the buffer: into the oldest place that takes it, which is then filled for every lane of the entry, or into a new one
(R261, R262). -/
def Group.putStore (g : Group) (entry : Mask) (p : Place) : Group :=
  if g.refill p.pc entry then
    { g with buffer := (g.buffer.foldl (fun (a : List Place × Bool) q =>
        if !a.2 && q.takes p.pc entry then
          (a.1 ++ [{ q with lanes := q.lanes ||| entry, bytes := laneOrder (q.bytes ++ p.bytes), stash := q.stash ++ p.stash }], true)
        else (a.1 ++ [q], a.2)) ([], false)).1 }
  else { g with buffer := g.buffer ++ [p] }

/-- ST and STS (R194): a commit point under .rel. -/
def storeWord (i : Instr) (s : State) (f : FM) (spad : Bool) : Out :=
  let rel := f.ord.toNat == 2
  stage i s { memaff := true, point := rel, reads := rbRegs f.rb } (fun x =>
    x.access f f.offS (f.bits / 8) (some 1) (fun x addrs =>
      x.place rel spad .store (f.bits / 8) addrs (fun s1 p =>
        let lanes := maskFst p.ok
        if (s1.grp x.gid).buffer.length ≥ 8 && !(s1.grp x.gid).refill x.pc x.e.mask then x.trap .strandStores 0xFF
        else
          let pl : Place := ⟨x.pc, lanes, storeBytes p.ok (x.src f.d f.bits), p.ok.flatMap (fun e => e.2.lines)⟩
          if rel && pl.bytes.any (fun b => s1.owned b.loc.key) then .next s
          else if rel && x.pass != 0 then
            -- the core's stores become visible in order; at system scope the peers have acknowledged the earlier ones first
            x.release (if f.scope.toNat = 4 then 4 else 0) s1 (fun s2 =>
              let s3 := ((s2.modGrp x.gid (fun g => g.putStore x.e.mask pl)).makeVisible x.gid).seal x.gid lanes
              x.finishPark (s3.fillLines pl.stash false) p)
          else x.finishPark ((s1.modGrp x.gid (fun g => g.putStore x.e.mask pl)).fillLines pl.stash false) p)))

def execSt (f : FM) (s : State) : Out := storeWord (.st f) s f false
def execSts (f : FM) (s : State) : Out := storeWord (.sts f) s f true

/-- The addresses of a prefetch, whose record's page may be placed first: those of the lanes that no check of R191 drops (R86, R196). -/
def Issue.prefetched (x : Issue) (f : FM) : Issue × List Nat :=
  let go := fun (x : Issue) (r : Option BufRec) (base : Nat) =>
    ((lanesOf x.pass).map (fun l => (l, x.addr f f.offS base l))).filterMap (fun e =>
      if (checkAccess r (f.bits / 8) none [e]).isNone then some e.2 else none)
  if x.pass = 0 then (x, [])
  else if f.rb.toNat < 0x80 then
    if x.phase.record.poolCount ≤ f.rb.toNat then (x, [])
    else
      let x1 := x.touchRecord f.rb.toNat
      match x1.record f.rb.toNat with
      | .error _ => (x1, [])
      | .ok r => (x1, go x1 (some r) r.base)
  else (x, go x none 0)

/-- PRF (R196): the lines are asked into their home slices. No register, value or order changes, and nothing faults or parks; a page whose
first touch is due is placed (R366, R367). -/
def execPrf (f : FM) (s : State) : Out :=
  stage (.prf f) s { reads := rbRegs f.rb } (fun x =>
    let p := x.prefetched f
    x.finishS (p.2.foldl (fun s a => s.touchVa x.ctx (towerOf x.team.core) .load (a / 64 * 64)) p.1.s))

/-! ### Atomics (R197-R199) -/

/-- The new value of an atomic step of width w (R197). -/
def atomNew (aop w old v cmp : Nat) : Nat :=
  match aop with
  | 0 => (old + v) % 2 ^ w
  | 1 => if signedOf w old ≤ signedOf w v then old else v
  | 2 => if signedOf w old ≤ signedOf w v then v else old
  | 3 => if old ≤ v then old else v
  | 4 => if old ≤ v then v else old
  | 5 => old &&& v
  | 6 => old ||| v
  | 7 => old ^^^ v
  | 8 => v
  | 9 => if old = cmp then v else old
  | _ => FFmt.f32.add .rn old v

/-- The operands of a lane: comparison value and v (R198). -/
def Issue.atomArgs (x : Issue) (f : FM) (l : Nat) : Nat × Nat :=
  let w := f.bits
  if f.isCas then
    let d := x.src f.d (2 * w) l
    (d % 2 ^ w, d / 2 ^ w)
  else (0, x.src f.d w l)

/-- ATOM, ATOMS and RED issue: the steps wait to be performed. -/
def atomWord (i : Instr) (s : State) (f : FM) (spad ret : Bool) : Out :=
  stage i s { memaff := true, point := true, miss := !spad, reads := rbRegs f.rb } (fun x =>
    x.access f f.off8 (f.bits / 8) (some 2) (fun x addrs =>
      x.place true spad .atomic (f.bits / 8) addrs (fun s1 p =>
        let s2 := if x.pass = 0 then s1 else s1.makeVisible x.gid
        let s3 := s2.fillLines (p.ok.flatMap (fun e => e.2.lines)) false
        match i.info with
        | none => .next s
        | some inf =>
          let steps : List AtomStep := p.ok.map (fun e =>
            let a := x.atomArgs f e.1
            { lane := e.1, loc := e.2.locs.headD ⟨0, 0, none⟩, v := a.2, cmp := a.1, stash := e.2.lines })
          let o : Op := {
            gid := x.gid, pc := x.pc, flag := none, lanes := maskFst p.ok, entry := x.e.mask, pending := true
            dst := f.d, ty := rawTy f.bits, regs := if ret then opRegs f.d f.bits else []
            kind := .atom f.bits f.aop f.ord.toNat f.scope.toNat spad ret steps }
          let s4 :=
            if p.ok.isEmpty then s3
            else if ret then ({ x with s := s3 } : Issue).launch inf o
            else { s3 with ops := KMap.insert s3.ops (KMap.nextKey s3.ops) o }
          x.slots s1 o.kind (x.finishPark s4 p))))

def execAtom (f : FM) (s : State) : Out := atomWord (.atom f) s f false true
def execAtoms (f : FM) (s : State) : Out := atomWord (.atoms f) s f true true
def execRed (f : FM) (s : State) : Out := atomWord (.red f) s f false false

/-- Two places of n bytes overlap. -/
def overlaps (a b : Loc) (n : Nat) : Bool := decide (a.key < b.key + n) && decide (b.key < a.key + n)

/-- What an atomic step orders before it has come about, the buffer being committed (R264, R301, R303): a release wider than the core
has the core's stores visible beyond it, any other step those to its location; and a `.remote` acquire has recalled the stores of the
cores (R308). -/
def State.stepReady (s : State) (gid ord scope : Nat) (locs : List Loc) : Bool :=
  (if 2 ≤ ord ∧ 2 ≤ scope then s.released gid scope else s.drained (s.coreOf gid) locs) && s.recalled scope &&
    !locs.any (fun p => (s.pendingPeer p).isSome)

/-- One atomic step (R199): the location takes its new value, the lane is sealed and its buffer visible (R264). None where the
step is done or has to wait: for a lower lane on the location or for an owned line. It also waits, with the buffer committed, for
bytes in transit to a peer (R299, R374) and for what it orders before it. A poisoned line faults. -/
def State.atomStep (s : State) (id lane : Nat) : Option Out :=
  match KMap.find? s.ops id with
  | some o =>
    match o.kind with
    | .atom bits aop ord sc spad ret steps =>
      match steps.find? (fun t => t.lane == lane && t.old.isNone) with
      | none => none
      | some t =>
        let n := bits / 8
        if steps.any (fun u => decide (u.lane < lane) && u.old.isNone && overlaps u.loc t.loc n) ||
            s.owned t.loc.key || s.pointHeld o.gid then none
        else if s.badAt t.loc then some (.next (s.groupFault o.gid 10 o.pc 0 0))
        else
        let s1 := (s.makeVisible o.gid).acquiring sc
        let ctx := (s.grp o.gid).ctx
        let s2 := s1.stashOther t.loc true
        if s.struck s1 ctx then some (.next s1) else
        if !s1.stepReady o.gid ord sc ((List.range n).map t.loc.add) then some (.next s1)
        else if s1.struck s2 ctx then some (.next s2)
        else
          let old := s2.rdN ctx t.loc n
          let s2 := (s2.wrN ctx t.loc n (atomNew aop bits old t.v t.cmp)).fillLines t.stash true
          let steps2 := steps.map (fun u => if u.lane = lane then { u with old := some old } else u)
          let all := steps2.all (fun u => u.old.isSome)
          let o2 : Op := { o with kind := .atom bits aop ord sc spad ret steps2, pending := !all }
          let s3 := { s2 with ops := if all && !ret then KMap.erase s2.ops id else KMap.insert s2.ops id o2 }
          some (.next ((s3.seal o.gid (laneBit lane)).settle o.gid))
    | _ => none
  | none => none

/-- Write the old values of an atomic (R198): under a 32-bit .cas at S the high half stays. -/
def Group.writeOld (g : Group) (o : Op) (bits aop : Nat) (vals : List (Nat × Nat)) : Group :=
  match o.dst.lvl, vals with
  | .s, (_, v) :: _ =>
    if aop = 9 ∧ bits = 32 then
      let n := o.dst.idx.toNat
      g.sSet n (BitVec.ofNat 64 ((g.sGet n).toNat / 2 ^ 32 * 2 ^ 32 + v))
    else g.write o.dst o.ty bits vals
  | _, _ => g.write o.dst o.ty bits vals

/-- ATOM_COMPLETE (R199): the old values return. The steps of ATOMS are performed here, in lane order. -/
def execAtomComplete (op : Nat) (s : State) : Out :=
  match KMap.find? s.ops op with
  | some o =>
    match o.kind with
    | .atom _ _ _ _ spad true steps0 =>
      -- perform what a scratchpad atomic has left, until a step waits, faults or all are done
      let s1 := if spad then
          steps0.foldl (fun (a : State) t =>
            match a.atomStep op t.lane with
            | some (.next b) => b
            | _ => a) s
        else s
      match KMap.find? s1.ops op with
      | some o1 =>
        match o1.kind with
        | .atom bits aop _ _ _ _ steps =>
          if steps.all (fun t => t.old.isSome) then
            let vals := steps.map (fun t => (t.lane, t.old.getD 0))
            let s2 := s1.modGrp o.gid (fun g => (g.writeOld o1 bits aop vals).keepResult o1)
            .next ({ s2 with ops := KMap.erase s2.ops op }.settle o.gid)
          else .next s1
        | _ => .next s1
      | none => .next s1
    | _ => .next s
  | none => .next s

/-- STASH_WRITEBACK (R329, R330): a Dirty line is written back, by the device's choice. -/
def execStashWriteback (team line : Nat) (s : State) : Out :=
  if KMap.find? (s.team team).stash line = some .dirty then .next (s.writeBack team line) else .next s

end Sys2Proof.Machine
end

