-- ==== Sys2Proof/Machine/Barrier.lean ====
section
/-! DEFINITION. Transaction barriers (R200-R203), WAITA (R204, R205), FENCE (R206, R312) and the group barriers BAR and BARC
(R207). -/

namespace Sys2Proof.Machine

/-! ### Transaction barriers -/

/-- A barrier word (R200): EXP, SECT, PEND and PHASE. -/
structure TBar where
  exp : Nat
  sect : Int
  pend : Int
  phase : Nat
  deriving DecidableEq, Repr

/-- The barrier that 16 bytes hold. -/
def TBar.ofNat (x : Nat) : TBar :=
  ⟨bitsOf x 63 56, signedOf 32 (bitsOf x 55 24), (bitsOf x 23 4 : Nat), bitsOf x 3 0⟩
/-- The low 8 bytes of a barrier. -/
def TBar.toNat (b : TBar) : Nat := b.phase + wrapNat 20 b.pend * 2 ^ 4 + wrapNat 32 b.sect * 2 ^ 24 + b.exp * 2 ^ 56

/-- An update of a barrier and its completion check (R201); none where it would overrun. -/
def TBar.update (b : TBar) (sect pend : Int) : Option TBar :=
  let b1 := { b with sect := b.sect + sect, pend := b.pend + pend }
  if b1.pend < 0 ∨ b1.sect < -((2 ^ 31 : Nat) : Int) ∨ ((2 ^ 31 : Nat) : Int) ≤ b1.sect then none
  else if b1.pend = 0 ∧ b1.sect = 0 then some { b1 with phase := (b1.phase + 1) % 16, pend := (b1.exp : Int) }
  else some b1

/-- The place of a barrier: 16 bytes of scratchpad outside every window (R200, R328). -/
def State.tbPlace (s : State) (tid addr : Nat) : Except Miss Loc :=
  match s.spadTeam tid addr with
  | none => .error (.fault 4 0)
  | some t =>
    let off := addr % 2 ^ 24
    if ((s.phase (s.team t).phase).record.window off).isSome then .error (.fault 4 0)
    else
      match s.spadByte t .store off, s.spadByte t .store (off + 15) with
      | .ok (p, _), .ok _ => .ok p
      | .error m, _ => .error m
      | _, .error m => .error m

/-- The barrier at a place. -/
def State.tbRead (s : State) (ctx : Nat) (p : Loc) : TBar := TBar.ofNat (s.rdN ctx p 16)
/-- Store a barrier; the reserved half is kept, or cleared by TBINIT. -/
def State.tbWrite (s : State) (ctx : Nat) (p : Loc) (b : TBar) : State := s.wrN ctx p 8 b.toNat

/-- The single access of a barrier word: the lowest passing lane's address, checked (R202). -/
def Issue.tbAccess (x : Issue) (point : Bool) (addr : Nat → Nat) (k : Nat → Loc → Out) : Out :=
  match lowLane x.pass with
  | none => x.finish x.g
  | some l =>
    let a := addr l % 2 ^ 32
    if a % 16 ≠ 0 then x.trap .align 28
    else
      match x.s.tbPlace x.tid a with
      | .error m => (x.visible point).s.missOut x.gid x.e x.pass m
      | .ok p => k l p

/-- TBINIT, TBEXP and TBARV (R202): the buffer is made visible, a `.rel` arrival is a release at its scope, the update is made or
overruns, and the entry seals. The update follows the core's committed stores to the barrier's bytes (R301, R319). -/
def tbWord (i : Instr) (s : State) (f : FM) (upd : TBar → Nat → Option TBar) (init : Bool) : Out :=
  stage i s { memaff := true, point := true, reads := rbRegs f.rb } (fun x =>
    x.tbAccess true (x.addr f f.offS 0) (fun l p =>
      x.release (if f.ord.toNat = 2 then f.scope.toNat else 0) x.s (fun s1 =>
      if !s1.drained (s1.coreOf x.gid) ((List.range 16).map p.add) then x.again s1
      else
      match upd (s1.tbRead x.ctx p) (x.src f.d 32 l) with
      | none => s1.faultOut x.gid x.e 5 0
      | some b =>
        let s2 := s1.tbWrite x.ctx p b
        let s3 := if init then s2.wrN x.ctx (p.add 8) 8 0 else s2
        x.finishS (s3.seal x.gid x.e.mask))))

def execTbinit (f : FM) (s : State) : Out :=
  tbWord (.tbinit f) s f (fun _ d => if d % 256 = 0 then none else some ⟨d % 256, 0, (d % 256 : Nat), 0⟩) true
def execTbexp (f : FM) (s : State) : Out := tbWord (.tbexp f) s f (fun b d => b.update (d : Int) 0) false
def execTbarv (f : FM) (s : State) : Out := tbWord (.tbarv f) s f (fun b d => b.update (d : Int) (-1)) false

/-- The value of a place as the group sees it: its own buffered stores first (R193). -/
def State.readOwn (s : State) (gid : Nat) (l : List Loc) : Nat :=
  leNat (l.map (fun p =>
    match (s.grp gid).buffered p with
    | some b => b
    | none => s.see (s.coreOf gid) (s.grp gid).ctx p))

/-- The barrier as a group sees it: a store to its bytes, buffered or committed, is an ordinary write (R299, R319). -/
def State.tbSee (s : State) (gid : Nat) (p : Loc) : TBar := TBar.ofNat (s.readOwn gid ((List.range 16).map p.add))

/-- TBTEST (R202): a predicate from PHASE; a commit point under .acq. It is a read, and waits while an engine owns the barrier's line: only
updates do not (R310, R317). -/
def execTbtest (f : FM) (s : State) : Out :=
  let acq := f.ord.toNat == 1
  stage (.tbtest f) s { memaff := true, point := acq, writes := [.p f.rb.toNat] } (fun x =>
    x.tbAccess acq (fun l => wrapNat 32 ((x.src f.a 32 l : Int) + f.offS)) (fun l p =>
      if x.s.owned p.key then x.again x.s
      else
        let s1 := if acq then x.s.makeVisible x.gid else x.s.captureLoads x.gid
        let passed := (s1.tbSee x.gid p).phase != x.src f.d 32 l % 16
        let s2 := s1.modGrp x.gid (fun g => g.pWrite f.rb.toNat x.pass (if passed then x.pass else 0))
        x.finishS (if acq then s2.seal x.gid x.e.mask else s2)))

/-! ### WAITA (R204, R205) -/

/-- The test of WAITA (R204). -/
def waitaTest (cond w x d : Nat) : Bool :=
  match cond with
  | 0 => x == d
  | 1 => x != d
  | 2 => decide (signedOf w x < signedOf w d)
  | 3 => decide (signedOf w d ≤ signedOf w x)
  | 4 => decide (x < d)
  | 5 => decide (d ≤ x)
  | _ => x % 16 != d % 16

/-- WAITA reads the values of the lanes and tests them. It goes on where all tests hold, and waits otherwise; a read of a line
that an engine owns waits too (R310). Lanes whose page is not present park, and the others go on with their own tests (R272). Under
`.acq` the group's buffer is visible before the last read takes effect (R264), and under `.remote` the stores of the cores have been forced
to device scope (R308). -/
def Issue.waita (x : Issue) (f : FM) (tests : List (Nat × Nat × Nat)) (since : Nat) : Out :=
  let acq := f.ord.toNat == 1
  let n := f.bits / 8
  ({ x with s := if acq then x.s.acquiring f.scope.toNat else x.s } : Issue).place false f.spm .load n (tests.map (fun t => (t.1, t.2.1)))
    (fun s1 p =>
    if !p.parked.isEmpty then
      let s2 := (p.parked.foldl (fun s e => s.pageNotice (s.coreOf x.gid) x.ctx e.2.1 e.2.2.1 e.2.2.2) s1).modGrp x.gid
        (fun g => g.modEntry x.lane (fun e => { e with retry := e.mask }))
      .next ((s2.park x.gid (p.parked.map (fun e => (e.1, e.2.1)))).settle x.gid)
    else
      let held := (acq && !s1.recalled f.scope.toNat) || p.ok.any (fun e => e.2.locs.any (fun q => s1.owned q.key || s1.accessBefore (KMap.nextKey s1.ops) x.gid q))
      let hold := tests.all (fun t =>
        match p.ok.find? (fun e => e.1 == t.1) with
        | some e => waitaTest f.wcond f.bits (s1.readOwn x.gid e.2.locs) t.2.2
        | none => true)
      let s2 := (s1.recallAll (p.ok.flatMap (fun e => e.2.locs)) false).fillLines
        (p.ok.flatMap (fun e => e.2.lines)) false
      if x.s.struck s2 x.ctx then .next s2
      else if hold && !held then x.finishS (if acq then (s2.makeVisible x.gid).seal x.gid (maskFst tests) else s2)
      else ({ x with s := s2 } : Issue).await (.waita f since tests))

/-- WAITA issues (R205). -/
def execWaita (f : FM) (s : State) : Out :=
  let acq := f.ord.toNat == 1
  stage (.waita f) s { memaff := true, point := acq, miss := !f.spm } (fun x =>
    let addr := fun l =>
      if f.spm then wrapNat 32 ((x.src f.a 32 l : Int) + f.offS) else wrapNat 64 ((x.src f.a 64 l : Int) + f.offS)
    let tests := (lanesOf x.pass).map (fun l => (l, addr l, x.src f.d f.bits l))
    if tests.isEmpty then x.finish x.g
    else if tests.any (fun t => t.2.1 % (f.bits / 8) != 0) then x.trap .align 28
    else
      let x1 := x.visible acq
      x1.waita f tests (x1.s.clock x1.team.core))

/-- The waiting WAITA of an entry, as an issue whose passing lanes are those under test. -/
def State.waiting (s : State) (gid lane : Nat) : Option (Issue × FM × Nat × List (Nat × Nat × Nat)) :=
  match (s.grp gid).entryAt lane with
  | some e =>
    match e.wait with
    | .waita f since tests => some (⟨s, gid, lane, e, maskFst tests, []⟩, f, since, tests)
    | _ => none
  | none => none

/-- WAITA_RECHECK (R205): a waiting WAITA reads its values again. -/
def execWaitaRecheck (gid lane : Nat) (s : State) : Out :=
  match s.waiting gid lane with
  | some (x, f, since, tests) => if f.ord.toNat == 1 && s.pointHeld gid then .next s else x.waita f tests since
  | none => .next s

/-- WAITA_TIMEOUT (R205): the bound has expired, and the entry completes. -/
def execWaitaTimeout (gid lane : Nat) (s : State) : Out :=
  match s.waiting gid lane with
  | some (x, f, since, _) =>
    let acq := f.ord.toNat == 1
    if f.wlim ≠ 0 ∧ since + 2 ^ (f.wlim + 6) ≤ s.clock (s.coreOf gid) ∧ !(acq && s.pointHeld gid) then
      x.finishS (if acq then (s.makeVisible gid).seal gid x.pass else s)
    else .next s
  | none => .next s

/-! ### FENCE (R206, R312) -/

/-- FENCE: a commit point that takes effect when its ordering is complete. -/
def execFence (f : FM) (s : State) : Out :=
  stage (.fence f) s { memaff := true, point := true } (fun x =>
    if x.pass = 0 then x.finish x.g
    else
      let s1 := x.s.makeVisible x.gid
      let o : Op := {
        gid := x.gid, pc := x.pc, flag := none, lanes := x.pass, entry := x.e.mask, pending := true
        kind := .fence f.rb.toNat f.ord.toNat f.scope.toNat }
      x.finishS { s1 with ops := KMap.insert s1.ops (KMap.nextKey s1.ops) o })

/-- FENCE `.layer` acknowledges the stores of the group's earlier words: they are accepted (R312). -/
def State.acknowledge (s : State) (gid : Nat) : State :=
  { s with accepted := (s.accepted ++ (s.grp gid).stored).eraseDups }.modGrp gid (fun g => { g with stored := [] })

/-- FENCE_COMPLETE (R206, R303, R312): the ordering is complete. Buffered stores are made visible first (R264). A release fence wider
than the core has every committed store of the core visible beyond it, and so has FENCE `.layer`, whose stores are then accepted; at
system scope the writes of the context to peers must have been acknowledged. The lanes seal. -/
def execFenceComplete (op : Nat) (s : State) : Out :=
  match KMap.find? s.ops op with
  | some o =>
    match o.kind with
    | .fence fk ord sc =>
      if s.pointHeld o.gid then .next s
      else
        let s1 := s.makeVisible o.gid
        let wide := fk == 1 || (decide (2 ≤ ord) && decide (2 ≤ sc))
        if (wide && !s1.released o.gid 3) || (sc == 4 && s1.peerWrites.any (fun w => w.2.ctx == (s.grp o.gid).ctx)) then .next s1
        else
          let s2 := (if fk = 1 then s1.acknowledge o.gid else s1).seal o.gid o.lanes
          .next ({ s2 with ops := KMap.erase s2.ops op }.settle o.gid)
    | _ => .next s
  | none => .next s

/-! ### BAR and BARC (R207) -/

/-- The wait of a barrier word; the arrival, the count and the release follow once the whole group waits (R207). -/
def barWord (i : Instr) (s : State) (f : VI) (cluster : Bool) : Out :=
  stage i s { memaff := true, point := true } (fun x => x.await (.bar cluster (f.imm.toNat % 16)))

def execBar (f : VI) (s : State) : Out := barWord (.bar f) s f false
def execBarc (f : VI) (s : State) : Out := barWord (.barc f) s f true

end Sys2Proof.Machine
end

