-- ==== Sys2Proof/Machine/Convert.lean ====
section
/-! DEFINITION. Conversions, the quantiser and dequantiser, and packed narrow elements (R160-R166). -/

namespace Sys2Proof.Machine

/-- The source type of CVT: MOD as a type code (R160). -/
def cvtFrom (f : V3) : Ty := Ty.ofCode f.mod.toNat

/-- The exact value of the bits of a scalar type (R161). -/
def tyExact (t : Ty) (x : Nat) : FVal :=
  if t.isFloat then (tyFmt t).value (tyBits t x) else .ofInt (tyVal t t.valueBits x)

/-- CVT of one value (R161). -/
def cvtOne (src dst : Ty) (x : Nat) : Nat :=
  if dst.isFloat then (tyFmt dst).rnd .rn (tyExact src x)
  else wrapNat dst.valueBits ((tyExact src x).toIntSat .rz dst.signed dst.valueBits)

/-- The meter of a conversion (R136). -/
def cvtMeter (src dst : Ty) : Option (Nat × Nat) :=
  if dst.packed then some (7, 2) else if dst.isFloat || src.isFloat then some (7, 1) else none

def execCvt (f : V3) (s : State) : Out :=
  lanewise (.cvt f) s {} (cvtMeter (cvtFrom f) f.ty) f.d f.ty f.w (fun x l =>
    let a := x.src f.a (cvtFrom f).width l
    if f.ty.packed then
      (tyFmt f.ty).rnd .rn (FFmt.f32.value a) + 2 ^ 16 * (tyFmt f.ty).rnd .rn (FFmt.f32.value (x.src f.b 32 l))
    else cvtOne (cvtFrom f) f.ty a)

/-- The slot and the side that MOD names, for CVQ and CVD (R163): the narrow type. -/
def quantSlot (m : BitVec 4) : Nat := m.toNat % 8
def Issue.narrow (x : Issue) (m : BitVec 4) : NTy :=
  match Slot.decode (x.phase.slot (quantSlot m)) with
  | some t => if m.getLsbD 3 then t.btype else t.atype
  | none => .i8

def execCvq (f : V3) (s : State) : Out :=
  lanewise (.cvq f) s { slot := some (quantSlot f.mod) } (some (7, 1)) f.d .b32 32 (fun x l =>
    let t := x.narrow f.mod
    narrowCode t (quantise t (tyExact f.ty (x.src f.a 32 l)) (x.src f.b 32 l % 256)))

/-- The value CVD writes for an integer and a scale byte (R164). -/
def cvdValue (t : Ty) (n : Int) (e : Nat) : Nat :=
  if e = 255 then (tyFmt t).canonNan
  else if e = 0 ∨ n = 0 then 0
  else (tyFmt t).rnd .rn (.fin (decide (n < 0)) n.natAbs ((e : Int) - 127))

/-- A word that writes a result and sets, but never clears, predicate C (R164, R166). -/
def sticky (i : Instr) (s : State) (n : Need) (meter : Option (Nat × Nat)) (f : V3) (ty : Ty)
    (val : Issue → Nat → Nat) (bad : Issue → Nat → Bool) : Out :=
  stage i s n (fun x =>
    let set := laneFilter x.pass (bad x)
    x.finish (((x.g.write f.d ty 32 (x.vals (val x))).pWrite f.c.idx.toNat set set).count x.pass meter))

def execCvd (f : V3) (s : State) : Out :=
  sticky (.cvd f) s { slot := some (quantSlot f.mod) } (some (7, 1)) f .f32
    (fun x l => cvdValue f.ty (narrowValue (x.narrow f.mod) (x.src f.a 32 l)).1 (x.src f.b 32 l % 256))
    (fun x l => (narrowValue (x.narrow f.mod) (x.src f.a 32 l)).2)

/-- PACKT (R166). -/
def packT (t5 : Bool) (a j c : Nat) : Nat :=
  let code := tritCode (trit a).1
  if t5 then
    if j < 20 then
      let byte := bitsOf c (8 * (j / 5) + 7) (8 * (j / 5))
      let ts := (List.range 5).map (fun d => if d = j % 5 then (trit a).1 else (t5bDigit byte d).1)
      bfiBits 32 (t5bEncode ts) (8 * (j / 5)) 8 c
    else c
  else if j < 16 then bfiBits 32 code (2 * j) 2 c else c

/-- UNPKT: the trit and whether its code is bad (R166). -/
def unpackT (t5 : Bool) (a j : Nat) : Int × Bool :=
  if t5 then
    if j < 20 then t5bDigit (bitsOf a (8 * (j / 5) + 7) (8 * (j / 5))) (j % 5) else (0, false)
  else if j < 16 then trit (a / 4 ^ j) else (0, false)

def execPackt (f : V3) (s : State) : Out := arith3 (.packt f) s f f.ty 32 32 32 32 (packT (f.mod.getLsbD 0))
def execUnpkt (f : V3) (s : State) : Out :=
  sticky (.unpkt f) s {} none f f.ty
    (fun x l => tritCode (unpackT (f.mod.getLsbD 0) (x.src f.a 32 l) (x.src f.b 32 l)).1)
    (fun x l => (unpackT (f.mod.getLsbD 0) (x.src f.a 32 l) (x.src f.b 32 l)).2)

/-- The element width of PACK and UNPK (R165). -/
def elemW (m : BitVec 4) : Nat :=
  match m.toNat % 4 with
  | 0 => 8 | 1 => 4 | _ => 16

/-- A narrowed for PACK (R165). -/
def packElem (t : Ty) (w a : Nat) : Nat :=
  match t with
  | .i32 => wrapNat w (satn true w (signedOf 32 a))
  | .n32 => wrapNat w (satn false w (a : Int))
  | _ => a % 2 ^ w

def execPack (f : V3) (s : State) : Out :=
  arith3 (.pack f) s f f.ty 32 32 32 32 (fun a j c =>
    let w := elemW f.mod
    if j < 32 / w then bfiBits 32 (packElem f.ty w a) (w * j) w c else c)
def execUnpk (f : V3) (s : State) : Out :=
  arith3 (.unpk f) s f f.ty 32 32 32 32 (fun a j _ =>
    let w := elemW f.mod
    if j < 32 / w then wrapNat 32 (tyVal f.ty w (a / 2 ^ (w * j))) else 0)

end Sys2Proof.Machine
end

