-- ==== Sys2Proof/Machine/Tile.lean ====
section
/-! DEFINITION. Tiles and accumulator regions: configuration and layout (R213-R217), transfers (R218-R222), region words (R223-R225)
and the conversion ACV (R241-R243), with the steps in which they complete. -/

namespace Sys2Proof.Machine

/-! ### Layout (R214, R215) -/

/-- Element type, rows and columns of a configuration word. -/
def cfgType (c : Nat) : Nat := bitsOf c 31 28
def cfgRows (c : Nat) : Nat := bitsOf c 27 20 + 1
def cfgCols (c : Nat) : Nat := bitsOf c 19 8 + 1

/-- Bytes of a row of n elements of a type. -/
def rowBytes (et n : Nat) : Nat :=
  match et with
  | 0 => (n + 3) / 4
  | 1 => (n + 4) / 5
  | 2 | 4 => (n + 1) / 2
  | 7 => 2 * n
  | 8 => 4 * n
  | _ => n

/-- The pitch of rows of n elements. -/
def pitchOf (et n : Nat) : Nat := 4 * ((rowBytes et n + 3) / 4)

/-- A valid configuration (R215). -/
def cfgValid (c : Nat) : Bool :=
  decide (cfgType c ≤ 8) && decide (c % 256 = 0) && decide (cfgRows c * pitchOf (cfgType c) (cfgCols c) ≤ 32768)

/-- Element c of a row whose byte k is b k, as raw bits; a digit of a T5B byte comes as its T2 code (R52-R55, R215). -/
def elemAt (et : Nat) (b : Nat → Nat) (c : Nat) : Nat :=
  match et with
  | 0 => b (c / 4) / 4 ^ (c % 4) % 4
  | 1 => tritCode (t5bDigit (b (c / 5)) (c % 5)).1
  | 2 | 4 => b (c / 2) / 16 ^ (c % 2) % 16
  | 7 => b (2 * c) + 256 * b (2 * c + 1)
  | 8 => b (4 * c) + 256 * b (4 * c + 1) + 65536 * b (4 * c + 2) + 16777216 * b (4 * c + 3)
  | _ => b c

/-- Byte k of a row whose element c has the raw bits e c, for n elements; bits of no element are those of the old byte (R215,
R219). The digits of no element of a T5B byte are those that the old byte reads as: of 243 to 255, zeros (DESIGN CHOICE: R219 keeps the
padding, and such a byte has no digits of its own to keep; log entry 100). -/
def rowByte (et : Nat) (e : Nat → Nat) (n : Nat) (old k : Nat) : Nat :=
  match et with
  | 0 => (List.range 4).foldl (fun x i => x + (if 4 * k + i < n then e (4 * k + i) else old / 4 ^ i % 4) * 4 ^ i) 0
  | 1 =>
    t5bEncode ((List.range 5).map (fun i =>
      if 5 * k + i < n then (trit (e (5 * k + i))).1 else (t5bDigit old i).1))
  | 2 | 4 => (List.range 2).foldl (fun x i => x + (if 2 * k + i < n then e (2 * k + i) else old / 16 ^ i % 16) * 16 ^ i) 0
  | 7 => e (k / 2) / 256 ^ (k % 2) % 256
  | 8 => e (k / 4) / 256 ^ (k % 4) % 256
  | _ => e k

/-- A byte of a tile. -/
def Tile.byte (t : Tile) (n : Nat) : Nat := (KMap.getD t.bytes 0 n).toNat
/-- Element (r, c) of a configured tile, as raw bits. -/
def Tile.elem (t : Tile) (cfg r c : Nat) : Nat :=
  elemAt (cfgType cfg) (fun k => t.byte (r * pitchOf (cfgType cfg) (cfgCols cfg) + k)) c
/-- Store bytes of a tile: position and value. -/
def Tile.put (t : Tile) (l : List (Nat × Nat)) : Tile :=
  { t with bytes := l.foldl (fun m e => KMap.setD m 0 e.1 (BitVec.ofNat 8 e.2)) t.bytes }

/-- A tile of a team; one never named is unconfigured and zero (R213). -/
def Team.tile (t : Team) (n : Nat) : Tile := KMap.getD t.tiles {} n
def Team.setTile (t : Team) (n : Nat) (x : Tile) : Team := { t with tiles := KMap.setD t.tiles {} n x }

/-- Bytes of the image of a configured tile (R219). -/
def imageBytes (col : Bool) (cfg : Nat) : Nat :=
  let et := cfgType cfg
  if col then cfgCols cfg * pitchOf et (cfgRows cfg) else cfgRows cfg * pitchOf et (cfgCols cfg)

/-- The tile after TLD of an image whose byte n is b n (R219). -/
def Tile.loadImage (t : Tile) (col : Bool) (cfg : Nat) (b : Nat → Nat) : Tile :=
  let et := cfgType cfg
  if col then
    let p := pitchOf et (cfgRows cfg)
    let q := pitchOf et (cfgCols cfg)
    t.put ((List.range (cfgRows cfg)).flatMap (fun r =>
      (List.range (rowBytes et (cfgCols cfg))).map (fun k =>
        (r * q + k, rowByte et (fun c => elemAt et (fun j => b (c * p + j)) r) (cfgCols cfg) (t.byte (r * q + k)) k))))
  else t.put ((List.range (imageBytes false cfg)).map (fun n => (n, b n)))

/-- Byte n of the image that TST writes (R219). -/
def Tile.imageByte (t : Tile) (col : Bool) (cfg n : Nat) : Nat :=
  let et := cfgType cfg
  if col then
    let p := pitchOf et (cfgRows cfg)
    let c := n / p
    let k := n % p
    if k < rowBytes et (cfgRows cfg) then rowByte et (fun r => t.elem cfg r c) (cfgRows cfg) 0 k else 0
  else t.byte n

/-! ### Configuration and zeroing (R216, R217, R223) -/

/-- A poisoned tile or region row faults at every access (R428). -/
def Team.tileBad (t : Team) (n : Nat) : Bool := (t.tile n).poisoned
def Team.rowBad (t : Team) (r row : Nat) : Bool := t.badRows.contains (r * 128 + row)
def Team.regionBad (t : Team) (r : Nat) : Bool := t.badRows.any (fun x => x / 128 == r)

/-- TCFG (R216). -/
def execTcfg (f : V3) (s : State) : Out :=
  let n := f.d.idx.toNat
  stage (.tcfg f) s { tiles := [.t n] } (fun x =>
    match lowLane x.pass with
    | none => x.finish x.g
    | some l =>
      let c := x.src f.a 32 l
      if cfgValid c then
        x.finishS (x.s.modTeam x.tid (fun t => t.setTile n { t.tile n with cfg := some c }))
      else x.fault 7 0)

/-- TZERO (R217). -/
def execTzero (f : V3) (s : State) : Out :=
  let n := f.d.idx.toNat
  stage (.tzero f) s { tiles := [.t n] } (fun x =>
    if x.pass = 0 then x.finish x.g
    else if x.team.tileBad n then x.fault 10 0
    else x.finishS (x.s.modTeam x.tid (fun t => t.setTile n { t.tile n with bytes := [] })))

/-- The key of an accumulator entry. -/
def accKey (region row col : Nat) : Nat := region * 32768 + row * 256 + col
/-- An accumulator entry of a team. -/
def Team.accGet (t : Team) (region row col : Nat) : Word64 := KMap.getD t.acc 0 (accKey region row col)

/-- ACZ (R223). -/
def execAcz (f : V3) (s : State) : Out :=
  let r := f.d.idx.toNat
  stage (.acz f) s { tiles := [.acc r] } (fun x =>
    if x.pass = 0 then x.finish x.g
    else if x.team.regionBad r then x.fault 10 0
    else x.finishS (x.s.modTeam x.tid (fun t => { t with acc := t.acc.filter (fun e => e.1 / 32768 != r) })))

/-! ### Tile transfers (R218-R220) -/

/-- The image address of TLD and TST: that of the lowest passing lane, checked; then its configured tile's place. Where a page under the
image is not present, every passing lane parks: the word makes one access for all of them (DEDUCED: R272 parks the lane whose access it is;
log entry 33). -/
def Issue.image (x : Issue) (f : FM) (write : Bool) (k : State → Span → Out) : Out :=
  let n := f.d.idx.toNat
  match lowLane x.pass with
  | none => x.finish x.g
  | some l =>
    let a := x.addr f f.offS 0 l % 2 ^ 32
    if a % 4 ≠ 0 then x.trap .align 28
    else if x.team.tileBad n then (x.visible write).fault 10 0
    else
      match (x.team.tile n).cfg with
      | none => (x.visible write).fault 7 0
      | some cfg =>
        let s1 := x.s.spadTouch x.tid a (imageBytes f.bit48 cfg)
        match s1.spadSpan x.tid (if write then .store else .load) a (imageBytes f.bit48 cfg) with
        | .error m => (({ x with s := s1 } : Issue).visible write).s.missOut x.gid x.e x.pass m
        | .ok sp => k s1 sp

/-- TLD (R218). -/
def execTld (f : FM) (s : State) : Out :=
  let n := f.d.idx.toNat
  stage (.tld f) s { memaff := true, tiles := [.t n], reads := rbRegs f.rb } (fun x =>
    x.image f false (fun s1 sp =>
      match (Instr.tld f).info with
      | none => .next s
      | some inf =>
        let o : Op := {
          gid := x.gid, pc := x.pc, flag := none, lanes := x.pass, entry := x.e.mask, once := true, regs := [.t n]
          kind := .tld n f.bit48 (sp.locs.map (fun p => ⟨p, x.g.buffered p⟩)) }
        x.slots s1 o.kind (x.finishS (({ x with s := s1.fillLines sp.lines false } : Issue).launch inf o))))

/-- TST (R218): the buffer is made visible; the image is written, and the entry seals, when it completes. -/
def execTst (f : FM) (s : State) : Out :=
  let n := f.d.idx.toNat
  stage (.tst f) s { memaff := true, point := true, tiles := [.t n], reads := rbRegs f.rb } (fun x =>
    x.image f true (fun s1 sp =>
      match (Instr.tst f).info with
      | none => .next s
      | some inf =>
        let s2 := (s1.makeVisible x.gid).fillLines sp.lines false
        let o : Op := {
          gid := x.gid, pc := x.pc, flag := none, lanes := x.pass, entry := x.e.mask, once := true, pending := true
          regs := [.t n], kind := .tst n f.bit48 sp.locs sp.lines }
        x.finishS (({ x with s := s2 } : Issue).launch inf o)))

/-- TILE_TRANSFER_COMPLETE (R220): TLD writes its tile; TST commits its image behind the group's buffered stores, and its entry
seals. -/
def execTileTransferComplete (op : Nat) (s : State) : Out :=
  match KMap.find? s.ops op with
  | some o =>
    let gid := o.gid
    let tid := (s.grp gid).team
    let ctx := (s.grp gid).ctx
    match o.kind with
    | .tld n col bytes =>
      let todo := openBytes [(0, bytes)]
      if todo.any (fun p => s.owned p.key || s.accessBefore op gid p) then .next s
      else if todo.any s.badAt || (s.team tid).tileBad n then .next (s.groupFault gid 10 o.pc 0 0)
      else
        match ((s.team tid).tile n).cfg with
        | none => .next s
        | some cfg =>
          let data := (s.deliver (s.coreOf gid) ctx bytes).map BitVec.toNat
          let s0 := s.recallAll todo false
          if s.struck s0 ctx then .next s0
          else
          let s1 := s0.modTeam tid (fun t =>
            t.setTile n ((t.tile n).loadImage col cfg (fun k => data.getD k 0)))
          .next ({ s1 with ops := KMap.erase s1.ops op }.settle gid)
    | .tst n col locs lines =>
      if locs.any (fun p => s.owned p.key) || s.pointHeld gid then .next s
      else if locs.any s.badAt || (s.team tid).tileBad n then .next (s.groupFault gid 10 o.pc 0 0)
      else
        match ((s.team tid).tile n).cfg with
        | none => .next s
        | some cfg =>
          let t := (s.team tid).tile n
          let bytes := (locs.zip (List.range locs.length)).map (fun e =>
            (⟨0, e.1, BitVec.ofNat 8 (t.imageByte col cfg e.2)⟩ : SByte))
          let s1 := ((s.makeVisible gid).commitPlace gid ⟨o.pc, o.lanes, bytes, lines⟩).seal gid o.entry
          .next ({ s1 with ops := KMap.erase s1.ops op }.settle gid)
    | _ => .next s
  | none => .next s

/-! ### Region transfers (R224, R225) -/

/-- The row of a region that a lane moves (R225). -/
def rowOf (half : Bool) (lane : Nat) : Nat := (if half then 64 else 0) + lane

/-- Form, check and place the rows of ACLD and ACST: 2,048 bytes a lane, aligned to 8 (R225). -/
def Issue.rows (x : Issue) (f : FM) (write : Bool) (k : State → Places → Out) : Out :=
  let kind : Acc := if write then .store else .load
  let perm := if write then 1 else 0
  let go := fun (x : Issue) (r : Option BufRec) (base : Nat) =>
    let addrs := x.vals (x.addr f f.offS base)
    if addrs.any (fun e => e.2 % 8 != 0) then x.trap .align 28
    else
      let refused := match r with
        | some r => !bitOf r.flags perm ||
          (bitOf r.flags 3 && addrs.any (fun e => decide (e.2 < r.base) || decide (r.base + r.size < e.2 + 2048)))
        | none => false
      if refused then x.trap .recordRange 20
      else if (lanesOf x.pass).any (fun l => x.team.rowBad f.d.idx.toNat (rowOf f.bit48 l)) then (x.visible write).fault 10 0
      else x.place write f.accSpm kind 2048 addrs k
  if x.pass = 0 then k x.s {}
  else if f.rb.toNat < 0x80 then
    if x.phase.record.poolCount ≤ f.rb.toNat then x.trap .recordRange 20
    else
      let x1 := x.touchRecord f.rb.toNat
      match x1.record f.rb.toNat with
      | .error m => x1.s.missOut x.gid x.e x.pass m
      | .ok r => go x1 (some r) r.base
  else go x none 0

/-- ACLD (R225). -/
def execAcld (f : FM) (s : State) : Out :=
  let r := f.d.idx.toNat
  stage (.acld f) s { memaff := true, miss := !f.accSpm, tiles := [.acc r], reads := rbRegs f.rb } (fun x =>
    x.rows f false (fun s1 p =>
      match (Instr.acld f).info with
      | none => .next s
      | some inf =>
        let s2 := s1.fillLines (p.ok.flatMap (fun e => e.2.lines)) false
        let o : Op := {
          gid := x.gid, pc := x.pc, flag := none, lanes := maskFst p.ok, entry := x.e.mask, regs := [.acc r]
          kind := .acld r f.bit48 (x.g.loadBytes p.ok) }
        x.slots s1 o.kind (x.finishPark (if p.ok.isEmpty then s2 else ({ x with s := s2 } : Issue).launch inf o) p)))

/-- ACST (R225): the buffer is committed; the rows are committed behind it, and their lanes seal, when it completes. -/
def execAcst (f : FM) (s : State) : Out :=
  let r := f.d.idx.toNat
  stage (.acst f) s { memaff := true, point := true, tiles := [.acc r], reads := rbRegs f.rb } (fun x =>
    x.rows f true (fun s1 p =>
      match (Instr.acst f).info with
      | none => .next s
      | some inf =>
        let s2 := if x.pass = 0 then s1 else s1.makeVisible x.gid
        let s3 := s2.fillLines (p.ok.flatMap (fun e => e.2.lines)) false
        let o : Op := {
          gid := x.gid, pc := x.pc, flag := none, lanes := maskFst p.ok, entry := x.e.mask, pending := true
          regs := [.acc r], kind := .acst r f.bit48 (p.ok.map (fun e => (e.1, e.2.locs, e.2.lines))) }
        x.finishPark (if p.ok.isEmpty then s3 else ({ x with s := s3 } : Issue).launch inf o) p))

/-- ACC_TRANSFER_COMPLETE (R225). -/
def execAccTransferComplete (op : Nat) (s : State) : Out :=
  match KMap.find? s.ops op with
  | some o =>
    let gid := o.gid
    let tid := (s.grp gid).team
    let ctx := (s.grp gid).ctx
    match o.kind with
    | .acld r half lanes =>
      let todo := openBytes lanes
      if todo.any (fun p => s.owned p.key || s.accessBefore op gid p) then .next s
      else if todo.any s.badAt || lanes.any (fun e => (s.team tid).rowBad r (rowOf half e.1)) then .next (s.groupFault gid 10 o.pc 0 0)
      else
        let s0 := s.recallAll todo false
        if s.struck s0 ctx then .next s0
        else
        let s1 := s0.modTeam tid (fun t =>
          { t with acc := lanes.foldl (fun m e =>
              let row := leNat (s.deliver (s.coreOf gid) ctx e.2)
              (List.range 256).foldl (fun m j =>
                KMap.setD m 0 (accKey r (rowOf half e.1) j) (BitVec.ofNat 64 (row / 2 ^ (64 * j)))) m) t.acc })
        .next ({ s1 with ops := KMap.erase s1.ops op }.settle gid)
    | .acst r half lanes =>
      let locs := lanes.flatMap (fun e => e.2.1)
      if locs.any (fun p => s.owned p.key) || s.pointHeld gid then .next s
      else if locs.any s.badAt || lanes.any (fun e => (s.team tid).rowBad r (rowOf half e.1)) then
        .next (s.groupFault gid 10 o.pc 0 0)
      else
        let t := s.team tid
        let bytes := lanes.flatMap (fun e => (e.2.1.zip (List.range 2048)).map (fun b =>
          (⟨e.1, b.1, BitVec.ofNat 8 ((t.accGet r (rowOf half e.1) (b.2 / 8)).toNat / 256 ^ (b.2 % 8))⟩ : SByte)))
        let s1 := ((s.makeVisible gid).commitPlace gid ⟨o.pc, o.lanes, bytes, lanes.flatMap (fun e => e.2.2)⟩).seal gid o.lanes
        .next ({ s1 with ops := KMap.erase s1.ops op }.settle gid)
    | _ => .next s
  | none => .next s

/-! ### Parameter blocks (R226, R242) -/

/-- The parameter block of a word: the address that its lowest passing lane holds in P, checked by R226 and R328. These checks come before
the buffered stores are made visible (DEDUCED: R226 checks the address when the word issues; log entry 29). -/
def Issue.block (x : Issue) (p : Operand) (k : Nat → Nat → Out) : Out :=
  match lowLane x.pass with
  | none => x.finish x.g
  | some l =>
    let a := x.src p 32 l
    if a % 64 ≠ 0 then x.trap .align 38
    else if a / 2 ^ 24 ≠ 0 then x.fault 4 0
    else
      if x.team.extent < a + 64 then x.fault 4 0
      else k l a

/-- Read the 64 bytes of a parameter block or layout record of the team: outside every window (R328). The word waits while an engine
owns a line of them (R310). -/
def Issue.readBlock (x : Issue) (s : State) (a : Nat) (k : Nat → Out) : Out :=
  if (x.phase.record.window a).isSome then s.faultOut x.gid x.e 6 0
  else
    match s.spadSpan x.tid .load a 64 with
    | .error m => s.missOut x.gid x.e x.pass m
    | .ok sp => if sp.locs.any (fun p => s.owned p.key) then x.again s else k (s.readOwn x.gid sp.locs)

/-- A scratchpad range of the team's own space lies in its extent. -/
def Team.within (t : Team) (a n : Nat) : Bool := decide (a / 2 ^ 24 = 0) && decide (a % 2 ^ 24 + n ≤ t.extent)

/-! ### ACV (R241-R243) -/

/-- Fields of the ACV block. -/
def acvReg (b : Nat) : Nat := bitsOf b 1 0
def acvDt (b : Nat) : Nat := bitsOf b 7 4
def acvM (b : Nat) : Nat := bitsOf b 14 8 + 1
def acvN (b : Nat) : Nat := bitsOf b 23 16 + 1
def acvRow (b : Nat) : Nat := bitsOf b 30 24
def acvCol (b : Nat) : Nat := bitsOf b 39 32

/-- The tile element type of an output type (R242). -/
def otyEtype : OTy → Nat
  | .f32 | .i32 => 8 | .bf16 | .f16 => 7 | .i8 => 3

/-- An enabled vector of n words lies in the team's extent at a multiple of 4 (R242). -/
def vectorOk (t : Team) (on : Bool) (a n : Nat) : Bool := !on || (a % 4 == 0 && t.within a (4 * n))

/-- The checks of R242 on an ACV block. -/
def acvOk (t : Team) (sc : Sched) (o : OTy) (b : Nat) : Bool :=
  let cfg := (t.tile (acvDt b)).cfg
  bitsOf b 511 160 == 0 && bitsOf b 63 43 == 0 && !bitOf b 31 && !bitOf b 15 && bitsOf b 3 2 == 0 &&
  decide (acvReg b < sc.accr) && decide (acvRow b + acvM b ≤ 128) && decide (acvCol b + acvN b ≤ 256) &&
  decide (acvDt b < sc.tiles) &&
  (match cfg with
   | some c => cfgType c == otyEtype o && decide (acvM b ≤ cfgRows c) && decide (acvN b ≤ cfgCols c)
   | none => false) &&
  vectorOk t (bitOf b 40) (bitsOf b 95 64) (acvM b) && vectorOk t (bitOf b 41) (bitsOf b 127 96) (acvN b) &&
  vectorOk t (bitOf b 42) (bitsOf b 159 128) (acvN b)

/-- The enabled vectors of an ACV block: scratchpad address and words of the row scales, column scales and biases; a vector that is
not enabled has no words (R242). -/
def acvVectors (b : Nat) : List (Nat × Nat) :=
  [(bitsOf b 95 64, if bitOf b 40 then acvM b else 0), (bitsOf b 127 96, if bitOf b 41 then acvN b else 0),
   (bitsOf b 159 128, if bitOf b 42 then acvN b else 0)]

/-- The issue after the first touches of the vectors (R330, R367). -/
def Issue.touchVectors (x : Issue) (b : Nat) : Issue :=
  { x with s := (acvVectors b).foldl (fun s v => if v.2 = 0 then s else s.spadTouch x.tid v.1 (4 * v.2)) x.s }

/-- The place of a vector of n words. A page under it that is not present parks every passing lane, as it does for an image (log entry
33). -/
def Issue.vector (x : Issue) (v : Nat × Nat) : Except Miss Span :=
  if v.2 = 0 then .ok ⟨[], []⟩ else x.s.spadSpan x.tid .load v.1 (4 * v.2)

/-- The words that stand at a place, seen through the group's buffer (R193). -/
def Issue.vectorWords (x : Issue) (sp : Span) : List Nat :=
  let v := x.s.readOwn x.gid sp.locs
  (List.range (sp.locs.length / 4)).map (fun i => v / 2 ^ (32 * i) % 2 ^ 32)

/-- The format of a floating-point output type. -/
def otyFmt : OTy → Option FFmt
  | .f32 => some .f32 | .bf16 => some .bf16 | .f16 => some .f16 | .i8 | .i32 => none
/-- The width of an integer output type. -/
def otyIntW : OTy → Nat
  | .i8 => 8 | _ => 32

/-- The exact value before rounding (R243). -/
def acvValue (e : Word64) (rs cs bi : Option Nat) : FVal :=
  let y : FVal := .fin (decide (accSig e < 0)) (accSig e).natAbs ((accExp e : Int) - 128)
  let mulBy := fun (y : FVal) (v : Option Nat) =>
    match v with
    | some v => y.mul (FFmt.f32.value v)
    | none => y
  let z := mulBy (mulBy y rs) cs
  let w := match bi with
    | some v => FVal.sum .rn [z, FFmt.f32.value v]
    | none => z
  if w.isZero then .fin false 0 0 else w

/-- One output element and whether it sets the flag (R243). -/
def acvOut (sl : Slot) (e : Word64) (rs cs bi : Option Nat) : Nat × Bool :=
  match otyFmt sl.otype with
  | some f =>
    if accPoisoned e then (f.canonNan, true)
    else
      match acvValue e rs cs bi with
      | .nan => (f.canonNan, false)
      | y =>
        let r := f.rnd sl.ornd y
        let clamp := sl.osat && r % f.signBit == f.infBits
        (if clamp then (if y.isNeg then f.signBit else 0) + f.largestBits else r, false)
  | none =>
    let w := otyIntW sl.otype
    if accPoisoned e then (2 ^ (w - 1), true)
    else
      match acvValue e rs cs bi with
      | .nan => (0, false)
      | .inf neg => (wrapNat w (satn true w (if neg then -((2 ^ 40 : Nat) : Int) else ((2 ^ 40 : Nat) : Int))), true)
      | .fin neg m ex =>
        let x := rndIntFin sl.ornd neg m ex
        (wrapNat w (satn true w x), decide (satn true w x ≠ x))

/-- A request for current goes to the end of the district's queue (R421). -/
def State.request (s : State) (core : Nat) (h : Holder) (units : Nat) : State :=
  s.modDistrict (districtOf core) (fun d =>
    if d.waiting.any (fun e => e.1 == h) || d.granted.any (fun e => e.1 == h) then d
    else { d with waiting := d.waiting ++ [(h, units)] })
/-- The reservation has been granted. -/
def State.granted (s : State) (core : Nat) (h : Holder) : Bool :=
  (s.district (districtOf core)).granted.any (fun e => e.1 == h)
/-- A reservation ends. -/
def State.release (s : State) (core : Nat) (h : Holder) : State :=
  s.modDistrict (districtOf core) (fun d =>
    { d with granted := d.granted.filter (fun e => e.1 != h), waiting := d.waiting.filter (fun e => e.1 != h),
             idle := s.now (.district (districtOf core)) })

/-- A row of a region that an ACV block reads is poisoned (R428). -/
def Team.blockBad (t : Team) (b : Nat) : Bool := (List.range (acvM b)).any (fun i => t.rowBad (acvReg b) (acvRow b + i))

/-- The block at an address as the words before the checks of ACV see it: none where it cannot be read. -/
def Issue.planBlock (x : Issue) (a : Nat) : Nat :=
  match x.s.spadSpan x.tid .load a 64 with
  | .ok sp => x.s.readOwn x.gid sp.locs
  | .error _ => 0

/-- ACV (R241): block and vectors are read as weak loads and checked at issue, after the group's loads in flight, and its reservation
is asked for (R420). -/
def execAcv (f : FE) (s : State) : Out :=
  let sn := f.slot.toNat
  let plan := match preIssue (.acv f) s with
    | some x => match lowLane x.pass with
      | some l => x.planBlock (x.src f.p 32 l)
      | none => 0
    | none => 0
  stage (.acv f) s { memaff := true, slot := some sn, tiles := [.acc (acvReg plan), .t (acvDt plan)] } (fun x =>
    x.block f.p (fun _ a => x.readBlock x.s a (fun b =>
      match Slot.decode (x.phase.slot sn), (Instr.acv f).info with
      | some sl, some inf =>
        if !acvOk x.team x.phase.sched sl.otype b then x.fault 6 0
        else if x.team.tileBad (acvDt b) || x.team.blockBad b then x.fault 10 0
        else
          let x1 := x.touchVectors b
          match (acvVectors b).mapM x1.vector with
          | .error m => x1.s.missOut x.gid x.e x.pass m
          | .ok sps =>
            let locs := sps.flatMap (fun sp => sp.locs)
            if locs.any (fun p => x1.s.owned p.key) then x1.again x1.s
            else
              let s1 := ((x1.s.captureLoads x.gid).recallAll locs false).fillLines (sps.flatMap (fun sp => sp.lines)) false
              if x1.s.struck s1 x.ctx then .next s1
              else
              let x2 : Issue := { x with s := s1 }
              let words := sps.map x2.vectorWords
              let o : Op := {
                gid := x.gid, pc := x.pc, flag := none, lanes := x.pass, entry := x.e.mask, once := true
                regs := [.t (acvDt b), .acc (acvReg b), .p f.x.idx.toNat]
                kind := .acv b sn f.x.idx.toNat (words.getD 0 []) (words.getD 1 []) (words.getD 2 []) }
              let id := KMap.nextKey s1.ops
              let s2 := (x2.launch inf o).modGrp x.gid (fun g => { g with acv := g.acv ++ [(x.pc, x.pass, acvM b * acvN b)] })
              x.finishS (s2.request x.team.core (.acv id) 4)
      | _, _ => x.finish x.g)))

/-- ACV_COMPLETE (R243): with its reservation granted, ACV writes the tile, and the status predicate of the lanes that passed. -/
def execAcvComplete (op : Nat) (s : State) : Out :=
  match KMap.find? s.ops op with
  | some o =>
    match o.kind with
    | .acv b sn pr rs cs bi =>
      let gid := o.gid
      let tid := (s.grp gid).team
      let t := s.team tid
      if !s.granted t.core (.acv op) then .next s
      else if t.tileBad (acvDt b) || t.blockBad b then .next (s.groupFault gid 10 o.pc 0 0)
      else
        match Slot.decode ((s.phase t.phase).slot sn), (t.tile (acvDt b)).cfg with
        | some sl, some cfg =>
          let at_ := fun (on : Nat) (l : List Nat) (i : Nat) => if bitOf b on then l[i]? else none
          let outs := fun (i j : Nat) =>
            acvOut sl (t.accGet (acvReg b) (acvRow b + i) (acvCol b + j)) (at_ 40 rs i) (at_ 41 cs j) (at_ 42 bi j)
          let pitch := pitchOf (cfgType cfg) (cfgCols cfg)
          let width := rowBytes (otyEtype sl.otype) 1
          let cells := (List.range (acvM b)).flatMap (fun i => (List.range (acvN b)).map (fun j => (i, j)))
          let bytes := cells.flatMap (fun e => (List.range width).map (fun k =>
            (e.1 * pitch + e.2 * width + k, (outs e.1 e.2).1 / 256 ^ k % 256)))
          let flag := cells.any (fun e => (outs e.1 e.2).2)
          let s1 := s.modTeam tid (fun t => t.setTile (acvDt b) ((t.tile (acvDt b)).put bytes))
          let s2 := s1.modGrp gid (fun g => (if flag then g.pWrite pr o.lanes o.lanes else g).keepResult o)
          .next (({ s2 with ops := KMap.erase s2.ops op }.release t.core (.acv op)).settle gid)
        | _, _ => .next s
    | _ => .next s
  | none => .next s

end Sys2Proof.Machine
end

