-- ==== Sys2Proof/Machine/Quay.lean ====
section
/-! DEFINITION. The staging quay's layers (R236, R237, R253, R387-R390) and the flash blocks (R391, R418, R443): what commands and
launches ask of them. -/

namespace Sys2Proof.Machine

/-! ### The model and layer tables (R387) -/

/-- A layer as the layer table describes it, with the intermediate address of its entry. -/
structure LayerDesc where
  at_ : Nat
  flagAddr : Nat
  lia : Nat
  flash : Nat
  size : Nat
  eprio : Nat
  deriving DecidableEq, Repr

/-- Read the descriptor of a layer; none where the model context or the layer does not exist (R387). The reserved bits of both tables are
not looked at (DESIGN CHOICE: R8 leaves them to the tables' description, which names no fate for them; log entry 85). -/
def State.layerDesc (s : State) (ctx m l : Nat) : Except Miss (Option LayerDesc) :=
  let c := s.ctx ctx
  if bitsOf c.nmodels 15 0 ≤ m then .ok none
  else
    match s.iaRead (c.models + 16 * m) 16 with
    | .error x => .error x
    | .ok e =>
      if bitsOf e 15 0 ≤ l then .ok none
      else
        let a := bitsOf e 127 64 + 32 * l
        match s.iaRead a 32 with
        | .error x => .error x
        | .ok d => .ok (some ⟨a, bitsOf d 63 0, bitsOf d 127 64, bitsOf d 191 128, bitsOf d 231 192, bitsOf d 234 232⟩)

/-- First touch of the model table's entry and of the layer's entry (R367). -/
def State.touchLayer (s : State) (ctx m l : Nat) : State :=
  let c := s.ctx ctx
  if bitsOf c.nmodels 15 0 ≤ m then s
  else
    let s1 := s.iaTouch (c.models + 16 * m) 16
    match s1.iaRead (c.models + 16 * m) 16 with
    | .error _ => s1
    | .ok e => if bitsOf e 15 0 ≤ l then s1 else s1.iaTouch (bitsOf e 127 64 + 32 * l) 32

/-! ### Flag words (R388) -/

/-- The residency flag word. -/
def Layer.flagWord (l : Layer) : Nat :=
  (match l.st with
   | .absent => 0 | .arriving => 1 | .resident => 2 | .evicting => 3) + 2 ^ 32 * l.gen

/-- Make the flag writes of a layer that wait, oldest first; one that meets an absent page waits on. The quay is a party, whose write drops
the copies in stash lines (R329). -/
def State.flushFlags (s : State) (ctx m l addr : Nat) : List Nat → State
  | [] => s.setLayer ctx m l { s.layer ctx m l with flagWrites := [] }
  | w :: rest =>
    let s1 := s.touchVa ctx 0 .store (addr / 64 * 64)
    match s1.vaBytes ctx .store addr 8 with
    | .ok p => State.flushFlags (s1.putBytes ctx none ((p.zip (leBytes 8 w)).map (fun e => (0, e.1, e.2)))) ctx m l addr rest
    | .error (.absent page code level) =>
      let s2 := s1.pageNotice noCore ctx page code level
      s2.setLayer ctx m l { s2.layer ctx m l with flagWrites := w :: rest }
    | .error (.fault c d) => State.flushFlags (s1.contextFault ctx { cause := c, addr := addr, detail := d }) ctx m l addr rest
    | .error _ => State.flushFlags s1 ctx m l addr rest

/-- Go on with the flag writes of a layer. A table that is not there holds them; one that faults is a fault of the context, and ends
them (R368, R445). -/
def State.retryFlags (s : State) (ctx m l : Nat) : State :=
  let writes := (s.layer ctx m l).flagWrites
  if writes.isEmpty then s
  else
    let s1 := s.touchLayer ctx m l
    match s1.layerDesc ctx m l with
    | .ok (some d) => s1.flushFlags ctx m l d.flagAddr writes
    | .error (.absent page code level) => s1.pageNotice noCore ctx page code level
    | .error (.fault c d) => (s1.setLayer ctx m l { s1.layer ctx m l with flagWrites := [] }).contextFault ctx { cause := c, detail := d }
    | _ => s1

/-- A layer takes a new state, and its flag word is written behind the writes that wait. -/
def State.putLayer (s : State) (ctx m l : Nat) (x : Layer) : State :=
  (s.setLayer ctx m l { x with flagWrites := x.flagWrites ++ [x.flagWord] }).retryFlags ctx m l

/-- A request for a layer (R253, R389). -/
def State.layerRequest (s : State) (ctx m l : Nat) : State :=
  let x := s.layer ctx m l
  match x.st with
  | .absent => s.putLayer ctx m l { x with st := .arriving, gen := (x.gen + 1) % 2 ^ 16 }
  | .evicting => s.setLayer ctx m l { x with waiting := true }
  | _ => s

/-- An MXA pins a layer, or stops pinning it (R236). -/
def State.pinLayer (s : State) (ctx m l : Nat) (up : Bool) : State :=
  let x := s.layer ctx m l
  s.setLayer ctx m l { x with pins := if up then x.pins + 1 else x.pins - 1 }

/-! ### Flash blocks (R391, R418, R443) -/

/-- The program/erase count of a physical block: the count at delivery and what was added since. -/
def State.wearOf (s : State) (b : Nat) : Nat := Config.initialWear b + KMap.getD s.stk.wear 0 b

/-- A physical block is free: not retired, and it holds no current image. -/
def State.blockFree (s : State) (b : Nat) : Bool := !s.stk.inUse.contains b && !s.stk.flashRetired.contains b

/-- Flash blocks that are not free. -/
def State.blocksTaken (s : State) : Nat := ((s.stk.inUse ++ s.stk.flashRetired).eraseDups).length

/-- Free bytes of the flash of the whole device (R443). -/
def State.freeFlash (s : State) : Nat := Config.blockBytes * (Config.flashSites * Config.flashBlocks - s.blocksTaken)

/-- The number of the first block of a site. -/
def siteBase (site : Nat) : Nat := site * 2 ^ 22

/-- The n free physical blocks of a site with the lowest counts; among equals the lowest numbers (R418). -/
def State.lowestFree (s : State) (site n : Nat) : List Nat :=
  (List.range (Config.peLimit + 1)).foldl (fun acc w =>
    if n ≤ acc.length then acc
    else
      acc ++ (((List.range Config.flashBlocks).map (fun b => siteBase site + b)).filter (fun b =>
        s.blockFree b && s.wearOf b == w)).take (n - acc.length)) []

/-- The logical blocks of a site that are free, as their physical blocks are. -/
def State.freeRun (s : State) (site n : Nat) : Option Nat :=
  ((List.range (Config.flashBlocks + 1 - n)).map (fun b => siteBase site + b)).find? (fun b =>
    (List.range n).all (fun i => s.blockFree (s.flashBlock (b + i))))

/-- The first site that can hold an image of n blocks. -/
def State.imageSite (s : State) (n : Nat) : Option Nat :=
  (List.range Config.flashSites).find? (fun t => decide (n ≤ (s.lowestFree t n).length) && (s.freeRun t n).isSome)

/-- Add to the count of a block. -/
def Stack.wearOut (k : Stack) (b n : Nat) : Stack := { k with wear := KMap.setD k.wear 0 b (KMap.getD k.wear 0 b + n) }

/-- A block is retired, once, and logged (R418, R429). -/
def State.retireBlock (s : State) (ctx b : Nat) : State :=
  if s.stk.flashRetired.contains b then s
  else
    ({ s with stk := { s.stk with flashRetired := b :: s.stk.flashRetired } }).log 8 noCore16 ctx
      (b / 2 ^ 22 * 2 ^ 40 + b % 2 ^ 22 * 2 ^ 18)

/-- Free a physical block: its erase counts, and one that reaches PELIMIT or fails the erase is retired; a retired block is not erased
(R391, R418, R429). -/
def State.freeBlock (s : State) (ctx b : Nat) : State :=
  let s0 : State := { s with stk := { s.stk with inUse := s.stk.inUse.filter (fun x => x != b) } }
  if s.stk.flashRetired.contains b then s0
  else
    let s1 : State := { s0 with stk := { (s0.stk.wearOut b 1) with failing := s0.stk.failing.filter (fun x => x != b) } }
    if Config.peLimit ≤ s1.wearOf b ∨ s.stk.failing.contains b then s1.retireBlock ctx b else s1

/-- Programming counts against every block that it touches; one that reaches PELIMIT is retired, and still holds the image until that is
replaced (R391, R418; log entry 88). -/
def State.program (s : State) (ctx : Nat) (blocks : List Nat) : State :=
  blocks.foldl (fun s b =>
    let s1 : State := { s with stk := s.stk.wearOut b 1 }
    if Config.peLimit ≤ s1.wearOf b then s1.retireBlock ctx b else s1) s

/-- Blocks of an image at a flash address. -/
def imageBlocks (flash size : Nat) : List Nat :=
  (List.range ((size + Config.blockBytes - 1) / Config.blockBytes)).map (fun i => flash / 2 ^ 18 + i)

/-- The greatest count among the blocks of an image (R256). -/
def State.imageWear (s : State) (flash size : Nat) : Nat :=
  (imageBlocks flash size).foldl (fun n b => max n (s.wearOf (s.flashBlock b))) 0

/-! ### The layers of a context (R387) -/

/-- Every layer that the model table of a context describes: model context, layer and descriptor. -/
def State.allLayers (s : State) (ctx : Nat) : Except Miss (List (Nat × Nat × LayerDesc)) :=
  (List.range (bitsOf (s.ctx ctx).nmodels 15 0)).foldl (fun acc m =>
    match acc, s.iaRead ((s.ctx ctx).models + 16 * m) 16 with
    | .error x, _ => .error x
    | _, .error x => .error x
    | .ok l, .ok e =>
      (List.range (bitsOf e 15 0)).foldl (fun acc n =>
        match acc, s.layerDesc ctx m n with
        | .error x, _ => .error x
        | _, .error x => .error x
        | .ok l, .ok (some d) => .ok (l ++ [(m, n, d)])
        | .ok l, .ok none => .ok l) (.ok l)) (.ok [])

/-- The layers with an image. -/
def imaged (l : List (Nat × Nat × LayerDesc)) : List LayerDesc :=
  (l.map (fun e => e.2.2)).filter (fun d => d.size != 0)

/-- The physical blocks of the images of a context. -/
def State.ctxBlocks (s : State) (l : List LayerDesc) : List Nat :=
  (l.flatMap (fun d => (imageBlocks d.flash d.size).map s.flashBlock)).eraseDups

/-- The layers of a context that its tables describe: those whose tables can be read. -/
def State.knownLayers (s : State) (ctx : Nat) : List (Nat × Nat × LayerDesc) :=
  (List.range (bitsOf (s.ctx ctx).nmodels 15 0)).flatMap (fun m =>
    match s.iaRead ((s.ctx ctx).models + 16 * m) 16 with
    | .error _ => []
    | .ok e => (List.range (bitsOf e 15 0)).filterMap (fun n =>
        match s.layerDesc ctx m n with
        | .ok (some d) => some (m, n, d)
        | _ => none))

/-- The images among them. -/
def State.imagesOf (s : State) (ctx : Nat) : List LayerDesc := imaged (s.knownLayers ctx)

/-- The physical blocks that hold a current image of a layer of some context, the layers that skip names left out (R443). -/
def State.blocksBut (s : State) (skip : Nat → Nat → Nat → Bool) : List Nat :=
  s.ctxBlocks ((s.ctxs.filter (fun c => c.2.st != .free)).flatMap (fun c =>
    imaged ((s.knownLayers c.1).filter (fun e => !skip c.1 e.1 e.2.1))))

/-! ### The leaves of a window (R365, R387) -/

/-- The physical address of the level-3 entry of an IA, where the tables down to level 3 are there. -/
def State.leafPa (s : State) (ia : Nat) : Option Nat :=
  go 3 0 s.xl.ptRoot
where
  go : Nat → Nat → Nat → Option Nat
    | 0, _, table => some (table + 8 * ptIndex 3 ia)
    | fuel + 1, level, table =>
      let e := s.paWord (table + 8 * ptIndex level ia)
      if bitOf e 63 && bitsOf e 62 61 == 0 then go fuel (level + 1) (bitsOf e 42 10 * 1024) else none

/-- Write the leaves of the first n pages of a window: FL leaves that name the image, or cleared ones. -/
def State.setLeaves (s : State) (lia : Nat) (flash : Option Nat) (first n : Nat) : State :=
  (List.range n).foldl (fun s i =>
    let k := first + i
    match s.leafPa (lia + 16384 * k) with
    | none => s
    | some pa =>
      s.setPaWord pa (match flash with
        | some f => 2 ^ 63 + 2 ^ 61 + 2 ^ 60 + bitsOf (f + 16384 * k) 42 14 * 2 ^ 14
        | none => 0)) s

end Sys2Proof.Machine
end

