-- ==== Sys2Proof/Machine/Engine.lean ====
section
/-! DEFINITION. Engine commands (R226-R232): acceptance, ownership of lines, accesses, failure and completion; and the matrix
engines (R233-R240, R424, R425). -/

namespace Sys2Proof.Machine

/-! ### Acceptance (R226-R228, R264, R274) -/

/-- STATUS, BADDR and the reserved bits that every block shares (R228). -/
def blkBaddr (b : Nat) : Nat := bitsOf b 415 384
/-- BADDR names no barrier. -/
def noBarrier : Nat := 0xFFFFFFFF

/-- BADDR is none, or a barrier of the team outside every window (R228, R328). -/
def State.baddrOk (s : State) (tid b : Nat) : Bool :=
  let a := blkBaddr b
  let t := s.team tid
  a == noBarrier || (a % 16 == 0 && t.within a 16 && ((s.phase t.phase).record.window a).isNone)

/-- The checks of R227 that every block shares. -/
def State.blockOk (s : State) (tid b : Nat) : Bool := bitsOf b 511 480 == 0 && bitsOf b 447 416 == 0 && s.baddrOk tid b

/-- A command word issues (R226, R274): where its address is among those accepted before a context fault it only seals its
lanes; otherwise its operand is read, and the meaning goes on with the lowest passing lane. -/
def engineWord (i : Instr) (s : State) (slot : Option Nat) (k : Issue → Out) : Out :=
  stage i s { memaff := true, point := true, nested := true, slot := slot } (fun x =>
    if x.pass = 0 then x.finish x.g
    else if x.g.skip.contains x.pc then x.finishS ((x.s.makeVisible x.gid).seal x.gid x.e.mask)
    else k x)

/-- What a command does first (R227): the buffer is committed, and every committed store of the core is visible beyond it, so that the
engines, which are no party of the core, meet it (R298). -/
def Issue.forEngine (x : Issue) (k : Issue → Out) : Out := x.release 3 x.s (fun s => k { x with s := s })

/-- A command with a parameter block (R226-R228): its address checks, the stores made visible, the block read and checked. -/
def blockWord (i : Instr) (s : State) (p : Operand) (slot : Option Nat) (k : Issue → Nat → Nat → Nat → Out) : Out :=
  engineWord i s slot (fun x =>
    x.block p (fun l a =>
      x.forEngine (fun x1 =>
        x1.readBlock x1.s a (fun b => if x1.s.blockOk x.tid b then k x1 l a b else x1.fault 6 0))))

/-- One more than every acceptance number in use, and at least every mark of a staged byte: what is accepted now comes after it. -/
def State.nextSeq (s : State) : Nat :=
  s.cmds.foldl (fun n e => max (max n (e.2.seq + 1)) (e.2.staged.foldl (fun n b => max n b.mark) 0)) 0

/-- The line of a parameter block. -/
def blockLine (team a : Nat) : Nat := lineKey (memKey (spTeam team) a)

/-- The command of an issue, before the fields of its kind are filled in. -/
def Issue.cmd (x : Issue) (kind : CmdKind) (a b : Nat) : Cmd :=
  { kind := kind, team := x.tid, gid := x.gid, ctx := x.ctx, core := x.team.core, pc := x.pc, baddr := blkBaddr b, blockAddr := a
    block := b, seq := x.s.nextSeq, owned := [blockLine x.tid a] }

/-- The entry goes on past an accepted command: its lanes seal (R264), and the address of the word is kept (R274). -/
def Issue.sealCmd (x : Issue) (s : State) : Out :=
  let s1 := s.seal x.gid x.e.mask
  x.finishS (s1.modGrp x.gid (fun g => { g with accepted := g.accepted ++ [x.pc] }))

/-- Accept a command that runs on: it holds the word's flag (R72). -/
def Issue.enter (x : Issue) (f : Info) (c : Cmd) : State :=
  let id := KMap.nextKey x.s.cmds
  let o : Op := { gid := x.gid, pc := x.pc, flag := none, lanes := x.pass, entry := x.e.mask, once := true, kind := .cmd id }
  { x.launch f o with cmds := KMap.insert x.s.cmds id c }

def Issue.accept (x : Issue) (i : Instr) (c : Cmd) : Out :=
  match i.info with
  | some f => x.sealCmd (x.enter f c)
  | none => .next x.s

/-! ### Accesses of engines (R230, R231, R310, R311) -/

/-- The places of n bytes that an engine reads or writes, in scratchpad or in global memory. -/
def State.cmdSpan (s : State) (c : Cmd) (spad : Bool) (kind : Acc) (a n : Nat) : Except Miss Span :=
  if spad then s.spadSpan c.team kind (a % 2 ^ 32) n else s.globalSpan c.ctx kind n (a % 2 ^ 64)

/-- The first touch of an engine access. -/
def State.cmdTouch (s : State) (c : Cmd) (spad : Bool) (kind : Acc) (a n : Nat) : State :=
  if spad then s.spadTouch c.team (a % 2 ^ 32) n
  else s.touchRange c.ctx (towerOf c.core) kind (a % 2 ^ 64) n

/-- An engine access that is not made: an absent page draws its notice and holds the access; a fault is the step
ENGINE_ACCESS_FAULT (R231). -/
def State.cmdHold (s : State) (c : Cmd) : Miss → Out
  | .absent page code level => .next (s.pageNotice c.core c.ctx page code level)
  | .fault _ _ => .next s
  | .noSuch => .fault .noSuchPhysicalAddress
  | .regPage => .refused .deviceRegisterPage

/-- The addresses at which the lines of a destination of n bytes begin in it. -/
def lineStarts (a n : Nat) : List Nat :=
  (List.range ((a % 64 + n + 63) / 64)).map (fun i => if i = 0 then a else a / 64 * 64 + 64 * i)

/-- The lines of a destination of n bytes whose page is there (R230, R310). -/
def State.destLines (s : State) (c : Cmd) (spad : Bool) (a n : Nat) : List Nat :=
  (lineStarts a n).filterMap (fun at_ =>
    match s.cmdSpan c spad .engWrite at_ 1 with
    | .ok sp => sp.locs.head?.map (fun p => lineKey p.key)
    | .error _ => none)

/-- The virtual line of a destination byte: in scratchpad, the line of its window. -/
def State.destVa (s : State) (c : Cmd) (spad : Bool) (a : Nat) : Option Nat :=
  if spad then
    (s.spadTeam c.team (a % 2 ^ 32)).bind (fun t =>
      ((s.phase (s.team t).phase).record.window (a % 2 ^ 24)).map (fun d => (d.gbase + (a % 2 ^ 24 - d.soff)) / 64 * 64))
  else some (a % 2 ^ 64 / 64 * 64)

/-- The virtual lines of a destination whose page is not there yet: the command owns them too (R230, R310). -/
def State.destVas (s : State) (c : Cmd) (spad : Bool) (a n : Nat) : List Nat :=
  (lineStarts a n).filterMap (fun at_ =>
    match s.cmdSpan c spad .engWrite at_ 1 with
    | .error (.absent _ _ _) => s.destVa c spad at_
    | _ => none)

/-- The command owns the lines of a destination too (R310). -/
def State.own (s : State) (c : Cmd) (spad : Bool) (a n : Nat) : Cmd :=
  { c with owned := (c.owned ++ s.destLines c spad a n).eraseDups, ownedVa := (c.ownedVa ++ s.destVas c spad a n).eraseDups }

/-- Another command owns the line of a place and took it before (R311). -/
def State.ownedBefore (s : State) (id : Nat) (c : Cmd) (line : Nat) : Bool :=
  s.cmds.any (fun e => e.1 != id && decide (e.2.seq < c.seq) && s.ownsLine e.2 line)

/-- The bytes of places, as an engine of the command's context reads them: of a line that a command owns, the bytes from before its
writes, until that command has finished the line (R310). -/
def State.cmdRead (s : State) (c : Cmd) (l : List Loc) : List Byte := l.map (s.rd c.ctx)

/-- A command writes bytes into lines that it owns: they wait for the end of the line (R310). -/
def State.cmdStage (s : State) (id step : Nat) (sp : Span) (bytes : List Byte) : State :=
  let mark := s.nextSeq
  s.modCmd id (fun c => { c with staged := c.staged ++ (sp.locs.zip bytes).map (fun e => ⟨step, mark, e.1, e.2, sp.lines.head?⟩) })

/-- A read of a command waits at a byte that another command had written when this one was accepted: what orders the acceptance behind that
write, a sector decrement say, orders the read behind it too, and the bytes are there with the end of their line (R303, R309, R310). -/
def State.readWaits (s : State) (id : Nat) (c : Cmd) (p : Loc) : Bool :=
  s.cmds.any (fun e => e.1 != id && e.2.staged.any (fun b => b.loc.key == p.key && decide (b.mark ≤ c.seq)))

/-- Bytes that a command has staged become visible; those of a line that has been poisoned are not written (R310, R414). -/
def State.cmdFlush (s : State) (id : Nat) (c : Cmd) (which : Staged → Bool) : State :=
  let l := c.staged.filter (fun b => which b && !s.badAt b.loc)
  let s1 := s.putBytes c.ctx none (l.map (fun b => (b.step, b.loc, b.val)))
  (s1.fillLines ((l.filterMap (fun b => b.stash)).eraseDups) true).modCmd id (fun c =>
    { c with staged := c.staged.filter (fun b => !which b) })

/-- A staged byte lies in a line that has been poisoned (R414). -/
def State.stagedBad (s : State) (c : Cmd) (which : Staged → Bool) : Bool := c.staged.any (fun b => which b && s.badAt b.loc)

/-- A command writes bytes in one step of its own: an atomic step, which a peer takes as one write (R68, R199, R374). -/
def State.cmdWrite (s : State) (c : Cmd) (locs : List Loc) (bytes : List Byte) : State :=
  match locs with
  | [] => s
  | p :: _ =>
    if isPeer p.key then s.sendPeer [⟨c.ctx, none, spaceOf p.key - 16, p.ia, bytes⟩]
    else s.putBytes c.ctx none ((locs.zip bytes).map (fun e => (0, e.1, e.2)))

/-! ### Ends of a command (R229-R231) -/

/-- The reservations of a command end (R420). -/
def Holder.ofCmd (id : Nat) : Holder → Bool
  | .mxa c => c == id
  | .unit c _ => c == id
  | _ => false

/-- Every reservation of a command ends, in every district. -/
def State.dropReservations (s : State) (id : Nat) : State :=
  { s with pwr := { s.pwr with districts := s.pwr.districts.map (fun e => (e.1, { e.2 with
      granted := e.2.granted.filter (fun h => !Holder.ofCmd id h.1)
      waiting := e.2.waiting.filter (fun h => !Holder.ofCmd id h.1) })) } }

/-- A command leaves: its lines are released, its layer is unpinned, its flag stops counting, its units and reservations go. -/
def State.cmdGone (s : State) (id : Nat) (c : Cmd) : State :=
  let s1 : State := { s with
    cmds := KMap.erase s.cmds id
    ops := s.ops.filter (fun e => decide (e.2.kind ≠ .cmd id))
    units := s.units.map (fun e => (e.1, e.2.filter (fun u => u.cmd != id))) }
  let s2 := match c.pin with
    | some (m, l) => s1.pinLayer c.ctx m l false
    | none => s1
  (s2.dropReservations id).settle c.gid

/-- A failed command: it does not complete, what it wrote stands, and every line it owns is released (R231). -/
def State.cmdFail (s : State) (id : Nat) (c : Cmd) (cause detail : Nat) : State :=
  ((s.cmdFlush id c (fun _ => true)).cmdGone id c).cmdFault c cause detail

/-- The place of STATUS in the block (R228), and of the command's barrier. -/
def Cmd.statusAt (c : Cmd) : Loc := ⟨memKey (spTeam c.team) (c.blockAddr + 56), 0, none⟩
def Cmd.barrierAt (c : Cmd) : Loc := ⟨memKey (spTeam c.team) c.baddr, 0, none⟩

/-- The end of a command would meet poison: in its block's line, its barrier's, or a line that it has yet to finish (R231, R414,
R428). -/
def State.endBad (s : State) (c : Cmd) : Bool :=
  s.spoiled c.statusAt.key || (c.baddr != noBarrier && s.spoiled c.barrierAt.key) || s.stagedBad c (fun _ => true)

/-- Write STATUS into the block (R229). -/
def State.putStatus (s : State) (c : Cmd) (st : Nat) : State := s.wrN c.ctx c.statusAt 4 st

/-- An update of the command's barrier; one that would overrun faults, and the command runs on (R201, R320). -/
def State.cmdBarrier (s : State) (c : Cmd) (sect pend : Int) : State :=
  if c.baddr = noBarrier then s
  else
    match (s.tbRead c.ctx c.barrierAt).update sect pend with
    | some b => s.tbWrite c.ctx c.barrierAt b
    | none => s.cmdFault c 5 0

/-- Completion (R230): every write of the command is visible, then STATUS, the barrier's arrival, and the command leaves. Where it meets
poison the command fails (R231). -/
def State.cmdComplete (s : State) (id : Nat) (c : Cmd) (st : Nat) : State :=
  if s.endBad c then s.cmdFail id c 10 0
  else (((s.cmdFlush id c (fun _ => true)).putStatus c st).cmdBarrier c 0 (-1)).cmdGone id c

/-- The line of a command's block waits for an earlier command (R311). -/
def State.blockWaits (s : State) (id : Nat) (c : Cmd) : Bool := s.ownedBefore id c (blockLine c.team c.blockAddr)

/-! ### MXA: the block (R234, R235) -/

def mxM (b : Nat) : Nat := bitsOf b 30 24 + 1
def mxN (b : Nat) : Nat := bitsOf b 39 32 + 1
def mxK (b : Nat) : Nat := bitsOf b 51 40 + 1
def mxReg (b : Nat) : Nat := bitsOf b 5 4
def mxRow (b : Nat) : Nat := bitsOf b 70 64
def mxCol (b : Nat) : Nat := bitsOf b 79 72
def mxAk (b : Nat) : Nat := bitsOf b 91 80
def mxBk (b : Nat) : Nat := bitsOf b 103 92
def mxLayer (b : Nat) : Nat := bitsOf b 335 320
def mxGen (b : Nat) : Nat := bitsOf b 351 336

/-- The tile element type of a narrow type (R63, R214). -/
def ntyEtype : NTy → Nat
  | .t2 => 0 | .t5b => 1 | .i4 => 2 | .i8 => 3 | .q4 => 4 | .q8 => 5

/-- A configured tile below TILES with a type, rows and columns (R235). -/
def tileFits (t : Team) (sc : Sched) (n et rows cols : Nat) : Bool :=
  decide (n < sc.tiles) &&
    (match (t.tile n).cfg with
     | some c => cfgType c == et && decide (rows ≤ cfgRows c) && decide (cols ≤ cfgCols c)
     | none => false)

/-- The conditions of R235 that the block and the team decide. -/
def mxaOk (t : Team) (sc : Sched) (sl : Slot) (b : Nat) : Bool :=
  let scaled := NTy.scaled sl.atype
  let nb := (mxK b + sl.interval - 1) / sl.interval
  let aCols := mxAk b + mxK b
  let sCols := mxAk b / sl.interval + nb
  bitsOf b 383 352 == 0 && bitsOf b 127 104 == 0 && !bitOf b 71 && bitsOf b 63 52 == 0 && !bitOf b 31 && bitsOf b 7 6 == 0 &&
  !bitOf b 3 && !bitOf b 0 &&
  decide (mxRow b + mxM b ≤ 128) && decide (mxCol b + mxN b ≤ 256) && decide (mxReg b < sc.accr) &&
  tileFits t sc (bitsOf b 15 12) (ntyEtype sl.btype) (mxBk b + mxK b) (mxN b) &&
  (if bitOf b 1 then
    bitsOf b 11 8 == 0 && bitsOf b 19 16 == 0 && bitsOf b 191 128 != 0 &&
      decide (rowBytes (ntyEtype sl.atype) aCols ≤ bitsOf b 287 256)
   else
    tileFits t sc (bitsOf b 11 8) (ntyEtype sl.atype) (mxM b) aCols && bitsOf b 191 128 == 0 && bitsOf b 287 256 == 0 &&
      bitsOf b 255 192 == 0 && bitsOf b 319 288 == 0) &&
  (if scaled then
    mxAk b % sl.interval == 0 && mxBk b % sl.interval == 0 &&
      tileFits t sc (bitsOf b 23 20) 6 (mxBk b / sl.interval + nb) (mxN b) &&
      (if bitOf b 1 then bitsOf b 255 192 != 0 && decide (sCols ≤ bitsOf b 319 288)
       else tileFits t sc (bitsOf b 19 16) 6 (mxM b) sCols)
   else bitsOf b 19 16 == 0 && bitsOf b 23 20 == 0 && bitsOf b 255 192 == 0 && bitsOf b 319 288 == 0) &&
  (mxLayer b != 0xFFFF || mxGen b == 0)

/-! ### The issue-budget governor (R424) -/

/-- One window boundary: L halves while both engines are hot, and else doubles up to the budget. -/
def CoreSt.boundary (budget : Nat) (k : CoreSt) : CoreSt :=
  { k with limit := if k.hot0 && k.hot1 then max 1 (k.limit / 2) else min budget (2 * k.limit), passes := 0 }

/-- n window boundaries. -/
def CoreSt.boundaries (budget : Nat) : Nat → CoreSt → CoreSt
  | 0, k => k
  | n + 1, k => CoreSt.boundaries budget n (k.boundary budget)

/-- Bring the governor of a core to its current window; after 64 boundaries the limit no longer changes. -/
def State.govSync (s : State) (core : Nat) : State :=
  let w := s.clock core / 1024
  s.modCore core (fun k =>
    if w ≤ k.window then k else { CoreSt.boundaries s.pwr.gov (min 64 (w - k.window)) k with window := w })

/-- The value of a core's counter at which the governor's window ends (R424). -/
def State.windowEnd (s : State) (core : Nat) : Nat := (s.clock core / 1024 + 1) * 1024

/-- The entry's held cycles are counted, and it is held on to the end of a window, or goes on. -/
def Group.hold (g : Group) (lane now : Nat) (until_ : Option Nat) : Group :=
  match g.entryAt lane with
  | some e =>
    { g.modEntry lane (fun e => { e with held := until_.map (fun u => (now, u)) }) with
      govStall := min (g.govStall + e.heldCycles now) (2 ^ 64 - 1) }
  | none => g

/-! ### MXA: acceptance (R236, R237, R240) -/

/-- The layer that an MXA block names: none, outside the model context, or one of it. -/
inductive LayerRef where
  | none
  | bad
  | layer (m l : Nat)
  deriving DecidableEq, Repr

/-- Resolve LAYER of a block or of LYRQ and INST against the launch's model context (R235, R253, R254). -/
def State.layerRef (s : State) (ctx : Nat) (p : Phase) (l : Nat) : Except Miss LayerRef :=
  if p.record.mctx = 0xFFFF then .ok .bad
  else
    match s.layerDesc ctx p.record.mctx l with
    | .error m => .error m
    | .ok none => .ok .bad
    | .ok (some _) => .ok (.layer p.record.mctx l)

/-- The issue after the first touch of the tables that describe a layer of its launch's model context (R367). -/
def Issue.touchLayer (x : Issue) (l : Nat) : Issue :=
  { x with s := if x.phase.record.mctx = 0xFFFF then x.s else x.s.touchLayer x.ctx x.phase.record.mctx l }

/-- A table that a command needs is not to be read: the word waits for the page, or the context faults (R445). -/
def Issue.tableMiss (x : Issue) : Miss → Out
  | .fault c d => x.fault c d
  | .absent page code level => x.again (x.s.pageNotice x.team.core x.ctx page code level)
  | .noSuch => .fault .noSuchPhysicalAddress
  | .regPage => .refused .deviceRegisterPage

/-- LAYER_EVICTED (R237): the strand is discarded, and the layer is requested. -/
def Issue.evicted (x : Issue) (m l : Nat) : Out :=
  .next (((x.s.discardGroup x.gid true).layerRequest x.ctx m l).settle x.gid)

/-- Accept an MXA (R240). -/
def Issue.acceptMxa (x : Issue) (f : FE) (sl : Slot) (a b : Nat) (pin : Option (Nat × Nat)) : Out :=
  let c := { x.cmd .mxa a b with slot := f.slot.toNat, pin := pin }
  let s1 := match pin with
    | some (m, l) => x.s.pinLayer x.ctx m l true
    | none => x.s
  let s2 := match pairMeter sl.atype sl.btype with
    | some k => s1.meter x.ctx k (mxM b * mxN b * mxK b)
    | none => s1
  ({ x with s := s2 } : Issue).accept (.mxa f) c

/-- The gate of an MXA that passed its checks (R236), on what the layer table says of its layer. -/
def Issue.gateMxa (x : Issue) (f : FE) (sl : Slot) (a b : Nat) (r : LayerRef) : Out :=
  if mxLayer b = 0xFFFF then x.acceptMxa f sl a b none
  else
    match r with
    | .layer m l =>
      let y := x.s.layer x.ctx m l
      if y.gen = mxGen b ∧ (y.st = .resident ∨ y.st = .arriving) then x.acceptMxa f sl a b (some (m, l)) else x.evicted m l
    | _ => x.fault 6 0

/-- The layer that an MXA block names, after the first touch of its tables. -/
def Issue.mxaLayer (x : Issue) (b : Nat) : Issue × Except Miss LayerRef :=
  if mxLayer b = 0xFFFF then (x, .ok .none)
  else
    let x1 := x.touchLayer (mxLayer b)
    (x1, x1.s.layerRef x.ctx x.phase (mxLayer b))

/-- An MXA passes the governor, and counts: once, whatever then becomes of it and however long it waits in the steps of R227 (R424). -/
def State.passGovernor (s : State) (gid lane core : Nat) : State :=
  (s.modCore core (fun k => { k with passes := k.passes + 1 })).modGrp gid (fun g =>
    (g.hold lane (s.clock core) none).modEntry lane (fun e => { e with governed := true }))

/-- MXA (R233-R237, R424): the governor holds it at the word, or it counts and R227 goes on. -/
def execMxa (f : FE) (s : State) : Out :=
  engineWord (.mxa f) s (some f.slot.toNat) (fun x =>
    x.block f.p (fun _ a =>
      let core := x.team.core
      let s0 := s.govSync core
      let k := s0.core core
      if !x.e.governed && decide (min k.limit s0.pwr.gov ≤ k.passes) then
        -- the word has not issued: it stays where it is
        .next (s0.modGrp x.gid (fun g => g.hold x.lane (s.clock core) (some (s.windowEnd core))))
      else
        let s1 := x.s.govSync core
        ({ x with s := if x.e.governed then s1 else s1.passGovernor x.gid x.lane core } : Issue).forEngine (fun x1 =>
          x1.readBlock x1.s a (fun b =>
            match Slot.decode (x.phase.slot f.slot.toNat) with
            | some sl =>
              if x1.s.blockOk x.tid b && mxaOk x.team x.phase.sched sl b then
                match x1.mxaLayer b with
                | (x3, .error m) => x3.tableMiss m
                | (x3, .ok r) => x3.gateMxa f sl a b r
              else x1.fault 6 0
            | none => x.finish x.g))))

/-! ### MXA: the multiplication (R59, R238) -/

/-- Element c of a row of a narrow operand: its value, and whether its trit decoded as bad (R52-R55). -/
def narrowElem (t : NTy) (b : Nat → Nat) (c : Nat) : Int × Bool :=
  match t with
  | .t2 => trit (b (c / 4) / 4 ^ (c % 4))
  | .t5b => t5bDigit (b (c / 5)) (c % 5)
  | .i4 | .q4 => (signedOf 4 (b (c / 2) / 16 ^ (c % 2)), false)
  | .i8 | .q8 => (signedOf 8 (b c), false)

/-- Add one digit plane of one product into N, and count a clamp. -/
def addPlane (b : Int) (st : Int × Nat) (d : Int × Nat) : Int × Nat :=
  let r := sat24 (st.1 + d.1 * b * ((4 ^ d.2 : Nat) : Int))
  (r.1, if r.2 then st.2 + 1 else st.2)

/-- The narrow accumulation of a block: N, its clamps, and whether a trit was bad. -/
def mxaNarrow (planes : Nat) (a : Nat → Int × Bool) (b : Nat → Int) (lo n : Nat) : Int × Nat × Bool :=
  (List.range n).foldl (fun acc i =>
    let x := a (lo + i)
    let r := ((booth4 x.1 planes).zip (List.range planes)).foldl (addPlane (b (lo + i))) (acc.1, acc.2.1)
    (r.1, r.2, acc.2.2 || x.2)) (0, 0, false)

/-- One block added into an entry: the entry, the clamps counted, and the STATUS bits (R59). -/
def mxaPromote (acc : Word64) (n : Int × Nat × Bool) (ea eb : Nat) : Word64 × Nat × Nat :=
  let st0 := (if n.2.1 = 0 then 0 else 2) ||| (if n.2.2 then 4 else 0)
  if ea = 255 ∨ eb = 255 then (BitVec.ofNat 64 (acc.toNat / 256 * 256 + 255), n.2.1, st0 ||| 8)
  else if ea = 0 ∨ eb = 0 then (acc, n.2.1, st0)
  else
    let r := promote acc n.1 ((ea : Int) - 127 + ((eb : Int) - 127))
    (r.1, if r.2 then n.2.1 + 1 else n.2.1, if r.2 then st0 ||| 2 else st0)

/-- One entry of an MXA (R59): its new value, its clamps and the STATUS bits. -/
def mxaEntry (sl : Slot) (k : Nat) (a : Nat → Int × Bool) (b : Nat → Int) (ea eb : Nat → Nat) (acc : Word64) :
    Word64 × Nat × Nat :=
  let l := sl.interval
  (List.range ((k + l - 1) / l)).foldl (fun st blk =>
    let n := mxaNarrow (NTy.planes sl.atype) a b (blk * l) (min l (k - blk * l))
    let r := mxaPromote st.1 n (ea blk) (eb blk)
    (r.1, st.2.1 + r.2.1, st.2.2 ||| r.2.2)) (acc, 0, 0)

/-- The bytes of the A image and of its scale image, row by row, where A is read from memory (R238). Each row is read from its first byte
on, the columns below AK0 included, so that a page under them holds or fails the command too (DESIGN CHOICE: R238 names the elements that
count, and not the bytes that are read; log entry 101). -/
def State.mxaImages (s : State) (c : Cmd) (sl : Slot) : Except Miss (List (List Byte) × List (List Byte)) :=
  let b := c.block
  if !bitOf b 1 then .ok ([], [])
  else
    let nb := (mxK b + sl.interval - 1) / sl.interval
    let rows := fun (base pitch n : Nat) =>
      (List.range (mxM b)).foldl (fun (acc : Except Miss (List (List Byte))) i =>
        match acc with
        | .error m => .error m
        | .ok l =>
          match s.cmdSpan c false .engRead (base + i * pitch) n with
          | .error m => .error m
          | .ok sp => .ok (l ++ [s.cmdRead c sp.locs])) (.ok [])
    match rows (bitsOf b 191 128) (bitsOf b 287 256) (rowBytes (ntyEtype sl.atype) (mxAk b + mxK b)) with
    | .error m => .error m
    | .ok a =>
      if NTy.scaled sl.atype then
        match rows (bitsOf b 255 192) (bitsOf b 319 288) (mxAk b / sl.interval + nb) with
        | .error m => .error m
        | .ok sc => .ok (a, sc)
      else .ok (a, [])

/-- The first touch of the images (R367). -/
def State.mxaTouch (s : State) (c : Cmd) (sl : Slot) : State :=
  let b := c.block
  if !bitOf b 1 then s
  else
    let nb := (mxK b + sl.interval - 1) / sl.interval
    let rows := fun (s : State) (base pitch n : Nat) =>
      (List.range (mxM b)).foldl (fun s i => s.cmdTouch c false .engRead (base + i * pitch) n) s
    let s1 := rows s (bitsOf b 191 128) (bitsOf b 287 256) (rowBytes (ntyEtype sl.atype) (mxAk b + mxK b))
    if NTy.scaled sl.atype then rows s1 (bitsOf b 255 192) (bitsOf b 319 288) (mxAk b / sl.interval + nb) else s1

/-- A row of bytes as a function. -/
def byteAt (l : List (List Byte)) (row k : Nat) : Nat := ((l.getD row []).getD k 0).toNat

/-- Bytes of a row of a configured tile. -/
def Tile.rowByteAt (t : Tile) (row k : Nat) : Nat :=
  match t.cfg with
  | some c => t.byte (row * pitchOf (cfgType c) (cfgCols c) + k)
  | none => 0

/-- Every entry of the rectangle: key, new value, clamps and STATUS bits (R238). With ZERO = 1 an entry starts from zero, a poisoned one
too (DEDUCED: R234 gives every entry a start from zero, where R60 names only ACZ and ACLD as what clears poison; log entry 86). -/
def mxaCompute (t : Team) (sl : Slot) (b : Nat) (img simg : List (List Byte)) : List (Nat × Word64 × Nat × Nat) :=
  let scaled := NTy.scaled sl.atype
  let l := sl.interval
  let aRow := fun i k => if bitOf b 1 then byteAt img i k else (t.tile (bitsOf b 11 8)).rowByteAt i k
  let aSc := fun i k => if bitOf b 1 then byteAt simg i k else (t.tile (bitsOf b 19 16)).rowByteAt i k
  let bt := t.tile (bitsOf b 15 12)
  let bs := t.tile (bitsOf b 23 20)
  (List.range (mxM b)).flatMap (fun i => (List.range (mxN b)).map (fun j =>
    let r := mxaEntry sl (mxK b)
      (fun k => narrowElem sl.atype (aRow i) (mxAk b + k))
      (fun k => (narrowElem sl.btype (bt.rowByteAt (mxBk b + k)) j).1)
      (fun blk => if scaled then aSc i (mxAk b / l + blk) else 127)
      (fun blk => if scaled then bs.rowByteAt (mxBk b / l + blk) j else 127)
      (if bitOf b 2 then 0 else t.accGet (mxReg b) (mxRow b + i) (mxCol b + j))
    (accKey (mxReg b) (mxRow b + i) (mxCol b + j), r.1, r.2.1, r.2.2)))

/-- Units of current that an MXA reserves (R420). -/
def mxaUnits (planes : Nat) : Nat :=
  match planes with
  | 1 => 12 | 2 => 14 | _ => 16

/-- An engine of a core runs an MXA. -/
def State.engineBusy (s : State) (core e : Nat) : Bool :=
  s.cmds.any (fun x => x.2.kind == .mxa && x.2.started && x.2.core == core && x.2.engine == e)

/-- The engine that the device gives an MXA that starts (R425). -/
def State.pickEngine (s : State) (core : Nat) : Option Nat :=
  let k := s.core core
  match s.engineBusy core 0, s.engineBusy core 1 with
  | true, true => none
  | false, false => some (if k.temp1 < k.temp0 then 1 else 0)
  | false, true => if k.hot0 && !k.hot1 then none else some 0
  | true, false => if k.hot1 && !k.hot0 then none else some 1

/-- MXAs of a core, other than one, that run or have asked for their reservation. -/
def State.mxaAsked (s : State) (id core : Nat) : Nat :=
  let d := s.district (districtOf core)
  (s.cmds.filter (fun e => e.1 != id && e.2.kind == .mxa && e.2.core == core &&
    (e.2.started || (d.granted ++ d.waiting).any (fun h => h.1 == .mxa e.1)))).length

/-- The MXA may take its place in the order of R221 and R239: its layer is resident, earlier operations on its tiles and region
have completed, no started MXA touches them, and no earlier MXA of its group waits for the region. -/
def State.mxaReady (s : State) (id : Nat) (c : Cmd) : Bool :=
  (match c.pin with
   | some (m, l) => (s.layer c.ctx m l).st == .resident
   | none => true) &&
  !s.tileOps c.team (s.mxaRefs c) &&
  !s.cmds.any (fun e => e.1 != id && e.2.team == c.team && e.2.kind == .mxa && mxReg e.2.block == mxReg c.block &&
    (e.2.started || s.granted e.2.core (.mxa e.1) || (e.2.gid == c.gid && decide (e.2.seq < c.seq))))

/-- A tile, or a region row, of the MXA is poisoned (R428). -/
def State.mxaBad (s : State) (c : Cmd) : Bool :=
  let t := s.team c.team
  (s.mxaRefs c).any (fun r =>
    match r with
    | .t n => t.tileBad n
    | .acc n => (List.range (mxM c.block)).any (fun i => t.rowBad n (mxRow c.block + i))
    | _ => false)

/-- Passes of the promotion block that starts at k (R62). -/
def blockPasses (sl : Slot) (kk start : Nat) : Nat := NTy.planes sl.atype * ((min sl.interval (kk - start) + 63) / 64)

/-- The passes that are performed again when the pass with an index over the whole MXA is struck: those of its block, up to and
including it (R62). -/
def replayed (sl : Slot) (kk : Nat) : Nat → Nat → Nat → Option Nat
  | 0, _, _ => none
  | fuel + 1, start, pass =>
    if kk ≤ start then none
    else
      let n := blockPasses sl kk start
      if pass < n then some (pass + 1) else replayed sl kk fuel (start + sl.interval) (pass - n)

/-- The passes of an MXA over K (R62). -/
def allPasses (sl : Slot) (k : Nat) : Nat :=
  ((List.range ((k + sl.interval - 1) / sl.interval)).map (fun i => blockPasses sl k (i * sl.interval))).sum

/-- A suspect window strikes an MXA: the passes of a block, up to a struck one, are performed again, and so are those of the replays that
the window strikes in turn. Which pass is struck, and how many passes the further replays take, are free values (R62, R423, log
entry 20). -/
def State.strike (s : State) (c : Cmd) : State :=
  match Slot.decode ((s.phase (s.team c.team).phase).slot c.slot) with
  | none => s
  | some sl =>
    let s1 := { s with tick := s.tick + 2 }
    match replayed sl (mxK c.block) (mxK c.block) 0 ((Config.freeValue s.tick).toNat % max 1 (allPasses sl (mxK c.block))) with
    | some n => s1.meter c.ctx 11 (n + (Config.freeValue (s.tick + 1)).toNat)
    | none => s1

/-- The places of the images (R238). -/
def State.imageLocs (s : State) (c : Cmd) (sl : Slot) : List Loc :=
  let b := c.block
  if !bitOf b 1 then []
  else
    let rows := fun (base pitch n : Nat) => (List.range (mxM b)).flatMap (fun i =>
      match s.cmdSpan c false .engRead (base + i * pitch) n with
      | .ok sp => sp.locs
      | .error _ => [])
    rows (bitsOf b 191 128) (bitsOf b 287 256) (rowBytes (ntyEtype sl.atype) (mxAk b + mxK b)) ++
      (if NTy.scaled sl.atype then
        rows (bitsOf b 255 192) (bitsOf b 319 288) (mxAk b / sl.interval + (mxK b + sl.interval - 1) / sl.interval) else [])

/-- An MXA may start: its place in the order has come, and an engine is there for it (R221, R239, R425). -/
def State.mxaCan (s : State) (id : Nat) (c : Cmd) : Bool :=
  c.kind == .mxa && !c.started && s.mxaReady id c && !s.mxaBad c && (s.pickEngine c.core).isSome

/-- An MXA that cannot start holds no reservation (R420: it is held from the start). -/
def State.mxaRest (s : State) (id : Nat) (c : Cmd) : State :=
  if s.granted c.core (.mxa id) then s.release c.core (.mxa id) else s

/-- The MXA starts on an engine: it computes from its operands. One that starts in an open suspect window is struck (R238, R423). -/
def State.mxaRun (s : State) (cmd : Nat) (c : Cmd) (sl : Slot) (en : Nat) (img simg : List (List Byte)) : State :=
  let r := mxaCompute (s.team c.team) sl c.block img simg
  let clamps := r.foldl (fun n e => n + e.2.2.1) 0
  let st := r.foldl (fun n e => n ||| e.2.2.2) 0
  let s3 := s.modCmd cmd (fun c => { c with
    started := true, engine := en, status := st, results := r.map (fun e => (e.1, e.2.1)) })
  let s4 := if clamps = 0 then s3 else s3.meter c.ctx 13 clamps
  if (s4.district (districtOf c.core)).suspect then s4.strike c else s4

/-- MXA_START (R236, R238, R420, R425): once an engine and its operands are there for it the MXA asks for its reservation, and when that is
granted it reads them and computes. -/
def execMxaStart (cmd : Nat) (s : State) : Out :=
  match KMap.find? s.cmds cmd with
  | none => .next s
  | some c =>
    if !s.mxaCan cmd c then .next (s.mxaRest cmd c)
    else
      match Slot.decode ((s.phase (s.team c.team).phase).slot c.slot), s.pickEngine c.core with
      | some sl, some en =>
        let s1 := s.mxaTouch c sl
        match s1.mxaImages c sl with
        | .error m => (s1.mxaRest cmd c).cmdHold c m
        | .ok (img, simg) =>
          if (s1.imageLocs c sl).any (s1.readWaits cmd c) then .next (s1.mxaRest cmd c)
          else if s1.granted c.core (.mxa cmd) then
            let s2 := s1.recallAll (s1.imageLocs c sl) false
            if (s1.imageLocs c sl).any s2.badAt then .next (s2.mxaRest cmd c) else .next (s2.mxaRun cmd c sl en img simg)
          else if s1.mxaAsked cmd c.core < 2 then .next (s1.request c.core (.mxa cmd) (mxaUnits (NTy.planes sl.atype)))
          else .next s1
      | _, _ => .next s

/-- MATRIX_RESIDUE_MISMATCH (R62, R428): passes are replayed; only the meter tells. -/
def execMatrixResidueMismatch (cmd pass : Nat) (s : State) : Out :=
  match KMap.find? s.cmds cmd with
  | none => .next s
  | some c =>
    if c.kind = .mxa ∧ c.started then
      match Slot.decode ((s.phase (s.team c.team).phase).slot c.slot) with
      | none => .next s
      | some sl =>
        match replayed sl (mxK c.block) (mxK c.block) 0 pass with
        | some n => .next (s.meter c.ctx 11 n)
        | none => .next s
    else .next s

/-- An MXA that completes while its district's supply is low is kept in mind: the window that may yet open covers its cycles too (R423). -/
def State.overlapped (s : State) (c : Cmd) : State :=
  s.modDistrict (districtOf c.core) (fun d => if d.low && !d.suspect then { d with overlap := d.overlap ++ [c] } else d)

/-- MXA_COMPLETE (R240): the entries are written, and the command completes under R230; where a tile or a row of it has been poisoned it fails
(R231, R428). -/
def execMxaComplete (cmd : Nat) (s : State) : Out :=
  match KMap.find? s.cmds cmd with
  | none => .next s
  | some c =>
    if c.kind = .mxa ∧ c.started ∧ !s.blockWaits cmd c then
      if s.mxaBad c then .next (s.cmdFail cmd c 10 0)
      else
      let s1 := (s.overlapped c).modTeam c.team (fun t => { t with acc := c.results.foldl (fun m e => KMap.setD m 0 e.1 e.2) t.acc })
      .next (s1.cmdComplete cmd c (1 + c.status))
    else .next s

/-- GOVERNOR_WINDOW (R424). -/
def execGovernorWindow (core : Nat) (s : State) : Out := .next (s.govSync core)

end Sys2Proof.Machine
end

