-- ==== Sys2Proof/Machine/Copies.lean ====
section
/-! DEFINITION. The copies CPY and CPYL with their slices, units and sectors (R244-R249, R322-R324), the home-slice commands HRED,
HGAT and HFETCH (R250-R252, R331-R333), LYRQ (R253), and the failure of an engine access (R231). -/

namespace Sys2Proof.Machine

/-! ### Slices (R244-R249) -/

/-- SLI, NSL and CID of a slice block. -/
def cpSli (k : CmdKind) (b : Nat) : Nat := if k = .cpy then bitsOf b 245 241 else bitsOf b 45 41
def cpNsl (k : CmdKind) (b : Nat) : Nat := (if k = .cpy then bitsOf b 240 236 else bitsOf b 40 36) + 1
def cpCid (k : CmdKind) (b : Nat) : Nat := if k = .cpy then bitsOf b 235 232 else bitsOf b 35 32

/-- ESZ, C, OH and OW of a layout record (R248). -/
def lrC (r : Nat) : Nat := bitsOf r 111 96
def lrEsz (r : Nat) : Nat := bitsOf r 113 112
def lrOh (r : Nat) : Nat := bitsOf r 239 224
def lrOw (r : Nat) : Nat := bitsOf r 255 240
/-- Bytes of an output row of CPYL. -/
def lrRow (r : Nat) : Nat := lrC r * 2 ^ lrEsz r

/-- A valid layout record (R248). -/
def lrecOk (r : Nat) : Bool :=
  bitsOf r 511 264 == 0 && bitsOf r 127 114 == 0 && decide (lrEsz r < 3) && bitsOf r 79 64 != 0 && bitsOf r 95 80 != 0 &&
  lrC r != 0 && lrOh r != 0 && lrOw r != 0 && bitsOf r 259 256 != 0 && bitsOf r 263 260 != 0 && lrRow r % 32 == 0

/-- The first output row of slice i of n (R249). -/
def lrFirst (r n i : Nat) : Nat := (i * (lrOh r * lrOw r) + n - 1) / n

/-- Rows of a slice, and sectors of a row. -/
def Cmd.rows (c : Cmd) : Nat :=
  match c.kind with
  | .cpy => bitsOf c.block 231 216
  | .cpyl =>
    let n := cpNsl .cpyl c.block
    let i := cpSli .cpyl c.block
    lrFirst c.lrec n (i + 1) - lrFirst c.lrec n i
  | _ => 0
def Cmd.rowSectors (c : Cmd) : Nat :=
  match c.kind with
  | .cpy => bitsOf c.block 215 192 / 32
  | .cpyl => lrRow c.lrec / 32
  | _ => 0

/-- The block of a CPY slice on its own (R245). -/
def cpyOk (b : Nat) : Bool :=
  bitsOf b 383 248 == 0 && bitsOf b 231 216 != 0 && bitsOf b 215 192 != 0 && bitsOf b 215 192 % 32 == 0 &&
  bitsOf b 191 160 % 32 == 0 && bitsOf b 127 64 % 32 == 0 && (!bitOf b 246 || bitsOf b 63 32 == 0) &&
  (!bitOf b 247 || bitsOf b 127 96 == 0)

/-- The block of a CPYL slice on its own (R247). -/
def cpylOk (b : Nat) : Bool :=
  bitsOf b 383 128 == 0 && bitsOf b 63 46 == 0 && bitsOf b 127 96 % 32 == 0 && bitsOf b 95 64 % 32 == 0 &&
  bitsOf b 31 0 % 64 == 0

/-- The key of a copy: team and copy number. -/
def copyKey (team cid : Nat) : Nat := team * 16 + cid

/-- The slice agrees with those already accepted under its CID (R244, R247). -/
def State.sliceOk (s : State) (tid : Nat) (k : CmdKind) (b : Nat) : Bool :=
  decide (cpSli k b < cpNsl k b) &&
    (match KMap.find? s.copies (copyKey tid (cpCid k b)) with
     | none => true
     | some c =>
       c.kind == k && cpNsl k c.block == cpNsl k b && !c.slices.any (fun e => e.1 == cpSli k b) &&
         (k == .cpy || (bitsOf c.block 31 0 == bitsOf b 31 0 && bitsOf c.block 127 64 == bitsOf b 127 64)))

/-- The destination of a slice: its space, the address of a row, and the row's bytes. -/
def Cmd.dstSpad (c : Cmd) : Bool := c.kind == .cpyl || bitOf c.block 247
def Cmd.rowDst (c : Cmd) (row : Nat) : Nat :=
  match c.kind with
  | .cpy => bitsOf c.block 127 64 + row * bitsOf c.block 191 160
  | _ => bitsOf c.block 95 64 + (lrFirst c.lrec (cpNsl .cpyl c.block) (cpSli .cpyl c.block) + row) * bitsOf c.block 127 96

/-- The source of a byte offset of a row; none where CPYL writes zeros (R246, R249). -/
def Cmd.rowSrc (c : Cmd) (row off : Nat) : Option Nat :=
  match c.kind with
  | .cpy => some (bitsOf c.block 63 0 + row * bitsOf c.block 159 128 + off)
  | _ =>
    let r := c.lrec
    let p := lrFirst r (cpNsl .cpyl c.block) (cpSli .cpyl c.block) + row
    let y := signedOf 16 (bitsOf r 207 192) + ((p / lrOw r * bitsOf r 259 256 : Nat) : Int) + signedOf 16 (bitsOf c.x 31 16)
    let x := signedOf 16 (bitsOf r 223 208) + ((p % lrOw r * bitsOf r 263 260 : Nat) : Int) + signedOf 16 (bitsOf c.x 15 0)
    if 0 ≤ y ∧ y < (bitsOf r 79 64 : Nat) ∧ 0 ≤ x ∧ x < (bitsOf r 95 80 : Nat) then
      some (bitsOf r 63 0 + y.toNat * bitsOf r 191 160 + x.toNat * bitsOf r 159 128 + off)
    else none

/-- The units of a slice (R322): first sector and number of sectors. -/
def Cmd.unitsOf (c : Cmd) : List (Nat × Nat) :=
  let n := c.rowSectors
  match c.kind with
  | .cpy =>
    (List.range c.rows).flatMap (fun r =>
      (List.range ((n + 63) / 64)).map (fun i => (r * n + 64 * i, min 64 (n - 64 * i))))
  | _ =>
    let per := max 1 (64 / n)
    (List.range ((c.rows + per - 1) / per)).map (fun i => (i * per * n, min per (c.rows - i * per) * n))

/-- The engine that a slice's units go to: key tower × 96 + engine (R322). -/
def homeEngine (core sli : Nat) : Nat := towerOf core * 96 + 2 * (core % 48) + sli % 2

/-- The end of a slice: every write of it is visible, STATUS stands before its last decrement, and its bytes are counted (R230, R246). A
slice without sectors updates no barrier (R318). Where it meets poison it fails (R231). -/
def State.sliceEnd (s : State) (id : Nat) (c : Cmd) (sectors : Int) : State :=
  if s.endBad c then s.cmdFail id c 10 0
  else
    let s1 := (s.cmdFlush id c (fun _ => true)).putStatus c 1
    ((if sectors = 0 then s1 else s1.cmdBarrier c sectors 0).meter c.ctx 9 (c.rows * c.rowSectors * 32)).cmdGone id c

/-- A slice starts: it takes its lines, and its units go to its home engine; one without rows is done at once (R230, R244). -/
def State.startSlice (s : State) (id : Nat) : State :=
  match KMap.find? s.cmds id with
  | none => s
  | some c =>
    let rows := fun (lines : Nat → Nat → List Nat) => (List.range c.rows).flatMap (fun r => lines (c.rowDst r) (32 * c.rowSectors))
    let c1 := { c with
      started := true, seq := s.nextSeq
      owned := (blockLine c.team c.blockAddr :: rows (s.destLines c c.dstSpad)).eraseDups
      ownedVa := (rows (s.destVas c c.dstSpad)).eraseDups }
    let s1 := { s with cmds := KMap.insert s.cmds id c1 }
    if c.rows = 0 then s1.sliceEnd id c1 0
    else
      let e := homeEngine c.core (cpSli c.kind c.block)
      let us : List CopyUnit := c.unitsOf.map (fun u => ⟨id, u.1, u.2, c.core⟩)
      { s1 with units := KMap.insert s1.units e (KMap.getD s1.units [] e ++ us) }

/-- A slice was accepted: the copy starts with its last slice, and its CID is free again (R244). -/
def State.joinCopy (s : State) (id : Nat) (c : Cmd) : State :=
  let key := copyKey c.team (cpCid c.kind c.block)
  let cp := (KMap.find? s.copies key).getD { team := c.team, kind := c.kind, block := c.block, slices := [] }
  let slices := cp.slices ++ [(cpSli c.kind c.block, id)]
  if slices.length = cpNsl c.kind c.block then
    slices.foldl (fun s e => s.startSlice e.2) { s with copies := KMap.erase s.copies key }
  else { s with copies := KMap.insert s.copies key { cp with slices := slices } }

/-- Accept a slice. -/
def Issue.acceptSlice (x : Issue) (i : Instr) (c : Cmd) : Out :=
  match i.info with
  | some f =>
    let id := KMap.nextKey x.s.cmds
    let c1 := { c with owned := [] }
    x.sealCmd ((x.enter f c1).joinCopy id c1)
  | none => .next x.s

/-- CPY (R244-R246). -/
def execCpy (f : FE) (s : State) : Out :=
  blockWord (.cpy f) s f.p none (fun x _ a b =>
    if cpyOk b && x.s.sliceOk x.tid .cpy b then x.acceptSlice (.cpy f) (x.cmd .cpy a b) else x.fault 6 0)

/-- CPYL (R247-R249): the layout record is read as the slice is accepted. An LREC outside the team's own extent fails the check of the block
(DEDUCED: R247 names PARAM_BLOCK for what it checks of the block, and R190 SCRATCH_RANGE for an address that is accessed; log entry 102). -/
def execCpyl (f : FE) (s : State) : Out :=
  blockWord (.cpyl f) s f.p none (fun x l a b =>
    if !cpylOk b || !x.team.within (bitsOf b 31 0) 64 then x.fault 6 0
    else
      x.readBlock x.s (bitsOf b 31 0) (fun r =>
        if lrecOk r && x.s.sliceOk x.tid .cpyl b then
          x.acceptSlice (.cpyl f) { x.cmd .cpyl a b with x := x.src f.x 32 l, lrec := r }
        else x.fault 6 0))

/-! ### Home commands: blocks (R250-R252) -/

/-- COUNT of HRED, HGAT and HFETCH. -/
def homeCount (b : Nat) : Nat := bitsOf b 47 32 + 1

/-- HRED (R250). -/
def execHred (f : FE) (s : State) : Out :=
  blockWord (.hred f) s f.p none (fun x _ a b =>
    let al := if f.ef.toNat % 4 = 2 then 64 else 4
    if bitsOf b 63 48 == 0 && bitsOf b 383 128 == 0 && bitsOf b 127 64 % al == 0 then
      x.accept (.hred f) { x.cmd .hred a b with sub := f.sub.toNat, ef := f.ef.toNat, started := true }
    else x.fault 6 0)

/-- HGAT (R251). -/
def execHgat (f : FE) (s : State) : Out :=
  blockWord (.hgat f) s f.p none (fun x _ a b =>
    if bitsOf b 63 48 == 0 && bitsOf b 383 160 == 0 && bitsOf b 127 64 % 4 == 0 && bitsOf b 159 128 % 4 == 0 then
      x.accept (.hgat f) (x.s.own { x.cmd .hgat a b with started := true } true (bitsOf b 159 128) (4 * homeCount b))
    else x.fault 6 0)

/-- HFETCH (R252). -/
def execHfetch (f : FE) (s : State) : Out :=
  blockWord (.hfetch f) s f.p none (fun x _ a b =>
    if bitsOf b 63 48 == 0 && bitsOf b 383 128 == 0 && bitsOf b 31 0 % 4 == 0 && bitsOf b 127 64 % 64 == 0 then
      x.accept (.hfetch f)
        (x.s.own { x.cmd .hfetch a b with ef := f.ef.toNat, started := true } true (bitsOf b 31 0) (4 * homeCount b))
    else x.fault 6 0)

/-! ### Pieces: the steps that a command's engine makes -/

/-- One step of a command: what it reads, and where it writes. -/
structure Piece where
  /-- The index word of HGAT. -/
  idx : Span := ⟨[], []⟩
  src : Span := ⟨[], []⟩
  dst : Span := ⟨[], []⟩
  /-- An HFETCH under .clr writes zeros to its source. -/
  clr : Bool := false
  deriving DecidableEq, Repr

/-- The steps of a command. -/
def Cmd.steps (c : Cmd) : Nat :=
  match c.kind with
  | .cpy | .cpyl => c.rows * c.rowSectors
  | .hred | .hgat | .hfetch => homeCount c.block
  | _ => 0

/-- The index word of a step of HGAT; no other step has one (R251). -/
def State.pieceIdx (s : State) (c : Cmd) (i : Nat) : Except Miss Span :=
  if c.kind = .hgat then s.cmdSpan c true .engRead (bitsOf c.block 31 0 + 4 * i) 4 else .ok ⟨[], []⟩

/-- The address of the word that an index word gathers (R251). -/
def State.gatherAddr (s : State) (c : Cmd) (ix : Span) : Nat :=
  wrapNat 64 ((bitsOf c.block 127 64 : Nat) + 4 * signedOf 32 (leNat (s.cmdRead c ix.locs)))

/-- First touch of a step's accesses. -/
def State.pieceTouch (s : State) (c : Cmd) (i : Nat) : State :=
  let b := c.block
  match c.kind with
  | .cpy | .cpyl =>
    let r := i / c.rowSectors
    let o := 32 * (i % c.rowSectors)
    let s1 := match c.rowSrc r o with
      | some a => s.cmdTouch c (c.kind == CmdKind.cpy && bitOf b 246) .engRead a 32
      | none => s
    s1.cmdTouch c c.dstSpad .engWrite (c.rowDst r + o) 32
  | .hred =>
    (s.cmdTouch c true .engRead (bitsOf b 31 0 + 4 * i) 4).cmdTouch c false .atomic
      (bitsOf b 127 64 + (if c.ef % 4 = 2 then 64 else 4) * i) (if c.ef % 4 = 2 then 64 else 4)
  | .hgat =>
    let s1 := (s.cmdTouch c true .engRead (bitsOf b 31 0 + 4 * i) 4).cmdTouch c true .engWrite (bitsOf b 159 128 + 4 * i) 4
    match s1.pieceIdx c i with
    | .ok ix => s1.cmdTouch c false .engRead (s1.gatherAddr c ix) 4
    | .error _ => s1
  | .hfetch =>
    (s.cmdTouch c false .engRead (bitsOf b 127 64 + 64 * i) 64).cmdTouch c true .engWrite (bitsOf b 31 0 + 4 * i) 4
  | _ => s

/-- Where a step writes. -/
def State.pieceDst (s : State) (c : Cmd) (i : Nat) : Except Miss Span :=
  let b := c.block
  match c.kind with
  | .cpy | .cpyl => s.cmdSpan c c.dstSpad .engWrite (c.rowDst (i / c.rowSectors) + 32 * (i % c.rowSectors)) 32
  | .hred =>
    let n := if c.ef % 4 = 2 then 64 else 4
    s.cmdSpan c false .atomic (bitsOf b 127 64 + n * i) n
  | .hgat => s.cmdSpan c true .engWrite (bitsOf b 159 128 + 4 * i) 4
  | .hfetch => s.cmdSpan c true .engWrite (bitsOf b 31 0 + 4 * i) 4
  | _ => .ok ⟨[], []⟩

/-- What a step reads. -/
def State.pieceSrc (s : State) (c : Cmd) (i : Nat) : Except Miss Span :=
  let b := c.block
  match c.kind with
  | .cpy | .cpyl =>
    match c.rowSrc (i / c.rowSectors) (32 * (i % c.rowSectors)) with
    | some a => s.cmdSpan c (c.kind == CmdKind.cpy && bitOf b 246) .engRead a 32
    | none => .ok ⟨[], []⟩
  | .hred => s.cmdSpan c true .engRead (bitsOf b 31 0 + 4 * i) 4
  | .hgat =>
    match s.pieceIdx c i with
    | .error m => .error m
    | .ok ix => s.cmdSpan c false .engRead (s.gatherAddr c ix) 4
  | .hfetch =>
    let src := s.cmdSpan c false .engRead (bitsOf b 127 64 + 64 * i) 64
    let src2 := if bitOf c.ef 0 then s.cmdSpan c false .atomic (bitsOf b 127 64 + 64 * i) 64 else src
    -- both permissions are checked before a page that is not there holds the access (R361)
    match src, src2 with
    | .error (.fault cause detail), _ => .error (.fault cause detail)
    | _, .error (.fault cause detail) => .error (.fault cause detail)
    | .error m, _ => .error m
    | .ok _, _ => src2
  | _ => .ok ⟨[], []⟩

/-- The places of a step. -/
def State.piece (s : State) (c : Cmd) (i : Nat) : Except Miss Piece :=
  match s.pieceIdx c i, s.pieceSrc c i, s.pieceDst c i with
  | .ok ix, .ok a, .ok d => .ok ⟨ix, a, d, c.kind == CmdKind.hfetch && bitOf c.ef 0⟩
  | .error m, _, _ => .error m
  | _, .error m, _ => .error m
  | _, _, .error m => .error m

/-- The operation of an HRED step on a word (R250). -/
def hredOp (sub : Nat) (signed : Bool) (w x : Nat) : Nat :=
  match sub with
  | 0 => (w + x) % 2 ^ 32
  | 1 => if signed then (if signedOf 32 w ≤ signedOf 32 x then w else x) else min w x
  | 2 => if signed then (if signedOf 32 w ≤ signedOf 32 x then x else w) else max w x
  | 3 => w &&& x
  | _ => w ||| x

/-- The bytes that a step writes. -/
def State.pieceBytes (s : State) (c : Cmd) (p : Piece) : List Byte :=
  let src := s.cmdRead c p.src.locs
  match c.kind with
  | .cpy | .cpyl => if p.src.locs.isEmpty then List.replicate 32 0 else src
  | .hred =>
    let old := leNat (s.cmdRead c p.dst.locs)
    if c.ef % 4 = 2 then leBytes 64 (exactsum old (leNat src)) else leBytes 4 (hredOp c.sub (c.ef % 4 == 0) old (leNat src))
  | .hfetch => leBytes 4 (longSumValue (leNat src))
  | _ => src

/-- The places that a step reads. -/
def Piece.reads (p : Piece) : List Loc := p.idx.locs ++ p.src.locs

/-- A place that a step meets waits: for an earlier owner (R311), or where it reads for what another command had written before (R309); an
atomic step waits for any owner, and for bytes on their way to a peer. -/
def State.pieceWaits (s : State) (id : Nat) (c : Cmd) (p : Piece) : Bool :=
  let atomics := if c.kind = .hred then p.dst.locs else if c.kind = .hfetch then p.src.locs else []
  p.dst.locs.any (fun q => s.ownedBefore id c (lineKey q.key)) || p.reads.any (s.readWaits id c) ||
  atomics.any (fun q => s.cmds.any (fun e => e.1 != id && s.ownsLine e.2 (lineKey q.key)) || (s.pendingPeer q).isSome)

/-- What the reads of a step do to the stash: other lines are written back, and those of a window filled (R329). -/
def State.pieceRecall (s : State) (p : Piece) : State :=
  (s.recallAll p.reads false).fillLines (p.idx.lines ++ p.src.lines) false

/-- A step is made: its bytes are written at once where they are an atomic step and else wait for the end of their line, and it counts as
done (R310, R331). -/
def State.pieceDo (s0 : State) (id : Nat) (c : Cmd) (i : Nat) (p : Piece) : State :=
  let bytes := s0.pieceBytes c p
  let s1 := if c.kind = .hred then s0.cmdWrite c p.dst.locs bytes else s0.cmdStage id i p.dst bytes
  let s2 := if p.clr then s1.cmdWrite c p.src.locs (List.replicate 64 0) else s1
  s2.modCmd id (fun c => { c with done := c.done ++ [i] })

/-- Try a step of a command, and go on from the state in which it has been made. Where a stash line that it recalls was poisoned, its access
fails (R231, R330). -/
def State.tryPiece (s : State) (id : Nat) (c : Cmd) (i : Nat) (k : State → Out) : Out :=
  if !c.started || decide (c.steps ≤ i) || c.done.contains i then .next s
  else
    let s1 := s.pieceTouch c i
    match s1.piece c i with
    | .error m => s1.cmdHold c m
    | .ok p =>
      if s1.pieceWaits id c p then .next s1
      else
        let s2 := s1.pieceRecall p
        if p.reads.any s2.badAt then .next s2 else k (s2.pieceDo id c i p)

/-! ### Copy engines (R322-R324, R420) -/

/-- A unit of a copy is taken: its engine has asked for its current. -/
def State.unitTaken (s : State) (u : CopyUnit) : Bool :=
  let d := s.district (districtOf u.core)
  d.granted.any (fun e => e.1 == .unit u.cmd u.first) || d.waiting.any (fun e => e.1 == .unit u.cmd u.first)

/-- The engine and unit that hold a sector of a command. -/
def State.unitOf (s : State) (cmd i : Nat) : Option (Nat × CopyUnit) :=
  s.units.findSome? (fun e =>
    (e.2.find? (fun u => u.cmd == cmd && decide (u.first ≤ i) && decide (i < u.first + u.count))).map (fun u => (e.1, u)))

/-- The mesh neighbours of a core, west, east, north, south, inside its tower (R13, R323). -/
def meshNeighbours (core : Nat) : List Nat :=
  let t := core / 48 * 48
  let n := core % 48
  let x := n % 6
  let y := n / 6
  (if 0 < x then [t + n - 1] else []) ++ (if x < 5 then [t + n + 1] else []) ++ (if 0 < y then [t + n - 6] else []) ++
    (if y < 7 then [t + n + 6] else [])

/-- The search order of a stealing engine (R323): its partner, the home engines of the neighbours, every engine of the tower. -/
def stealOrder (engine : Nat) : List Nat :=
  let tower := engine / 96
  let e := engine % 96
  let partner := tower * 96 + (if e % 2 = 0 then e + 1 else e - 1)
  let near := (meshNeighbours (tower * 48 + e / 2)).flatMap (fun c => [tower * 96 + 2 * (c % 48), tower * 96 + 2 * (c % 48) + 1])
  partner :: near ++ (List.range 96).map (fun i => tower * 96 + i)

/-- WORK_STEAL (R323): an engine with an empty queue takes the oldest unit of another that is not taken yet. -/
def execWorkSteal (engine : Nat) (s : State) : Out :=
  if 768 ≤ engine ∨ KMap.getD s.units [] engine ≠ [] then .next s
  else
    let cand := (stealOrder engine).findSome? (fun e =>
      if e = engine then none
      else ((KMap.getD s.units [] e).find? (fun u => !s.unitTaken u)).map (fun u => (e, u)))
    match cand with
    | none => .next s
    | some (e, u) =>
      let rest := KMap.insert s.units e ((KMap.getD s.units [] e).filter (fun v => v != u))
      let s1 := { s with units := KMap.insert rest engine [u] }
      .next (s1.request u.core (.unit u.cmd u.first) 2)

/-- A unit whose sectors have all landed leaves its engine, and its reservation ends. -/
def State.unitEnd (s : State) (cmd e : Nat) (u : CopyUnit) : State :=
  match KMap.find? s.cmds cmd with
  | none => s
  | some c =>
    if (List.range u.count).all (fun j => c.done.contains (u.first + j)) then
      ({ s with units := KMap.insert s.units e ((KMap.getD s.units [] e).filter (fun v => v != u)) }).release u.core
        (.unit cmd u.first)
    else s

/-- COPY_SECTOR_LAND (R246, R324, R420): an engine takes the oldest unit of its queue, asks for its current, and once it is granted
the unit's sectors land. -/
def execCopySectorLand (cmd row sector : Nat) (s : State) : Out :=
  match KMap.find? s.cmds cmd with
  | none => .next s
  | some c =>
    if !(c.kind == .cpy || c.kind == .cpyl) || decide (c.rowSectors ≤ sector) then .next s
    else
      let i := row * c.rowSectors + sector
      match s.unitOf cmd i with
      | none => .next s
      | some (e, u) =>
        if !s.granted u.core (.unit cmd u.first) then
          if (KMap.getD s.units [] e).head? = some u then .next (s.request u.core (.unit cmd u.first) 2) else .next s
        else
          let last := c.done.length + 1 == c.steps
          if last && s.blockWaits cmd c then .next s
          else
            s.tryPiece cmd c i (fun s1 =>
              let s2 := s1.unitEnd cmd e u
              match KMap.find? s2.cmds cmd with
              | none => .next s2
              | some c2 =>
                if last then .next (s2.sliceEnd cmd c2 (-1))
                else if c2.baddr != noBarrier && s2.spoiled c2.barrierAt.key then .next (s2.cmdFail cmd c2 10 0)
                else .next (s2.cmdBarrier c2 (-1) 0))

/-! ### Home slices (R331) -/

/-- The end of HRED, HGAT and HFETCH: exact sums are counted (R250), and the command completes. -/
def State.homeEnd (s : State) (id : Nat) (c : Cmd) : State :=
  (if c.kind = .hred ∧ c.ef % 4 = 2 ∧ !s.endBad c then s.meter c.ctx 8 c.steps else s).cmdComplete id c 1

/-- The command completes if every step is done and its block's line is free to it. -/
def State.homeCheck (s : State) (id : Nat) : State :=
  match KMap.find? s.cmds id with
  | some c => if c.done.length = c.steps then s.homeEnd id c else s
  | none => s

/-- HOME_SLICE_STEP (R199, R331): one atomic step of ATOM or RED, or of HRED or HFETCH. -/
def execHomeSliceStep (isCmd : Bool) (id step : Nat) (s : State) : Out :=
  if isCmd then
    match KMap.find? s.cmds id with
    | none => .next s
    | some c =>
      if !(c.kind == .hred || c.kind == .hfetch) || (c.done.length + 1 == c.steps && s.blockWaits id c) then .next s
      else s.tryPiece id c step (fun s1 => .next (s1.homeCheck id))
  else
    match KMap.find? s.ops id with
    | some o =>
      match o.kind with
      | .atom _ _ _ _ false _ _ => (s.atomStep id step).getD (.next s)
      | _ => .next s
    | none => .next s

/-- The words of one answer, one after the other; the first that is not served ends it. -/
def State.gather (s : State) (cmd : Nat) : List Nat → Out
  | [] => .next (s.homeCheck cmd)
  | i :: rest =>
    match KMap.find? s.cmds cmd with
    | none => .next s
    | some c => s.tryPiece cmd c i (fun s1 => State.gather s1 cmd rest)

/-- HGAT_RESPONSE (R251): a home slice answers up to 16 words. -/
def execHgatResponse (cmd first count : Nat) (s : State) : Out :=
  match KMap.find? s.cmds cmd with
  | none => .next s
  | some c =>
    if c.kind ≠ .hgat ∨ count = 0 ∨ 16 < count ∨ s.blockWaits cmd c then .next s
    else s.gather cmd ((List.range count).map (fun j => first + j))

/-! ### Lines and failures (R231, R310) -/

/-- A step that is not done yet writes a line. -/
def State.lineOpen (s : State) (c : Cmd) (line : Nat) : Bool :=
  (List.range c.steps).any (fun i => !c.done.contains i &&
    (match s.pieceDst c i with
     | .ok d => d.locs.any (fun q => lineKey q.key == line)
     | .error _ => false))

/-- ENGINE_LINE_FINISH (R310): the command has made its last write of a line: what it wrote there becomes visible as a whole, and it
gives the line up; its block's line only at completion. -/
def execEngineLineFinish (cmd line : Nat) (s : State) : Out :=
  match KMap.find? s.cmds cmd with
  | none => .next s
  | some c =>
    let here : Staged → Bool := fun b => lineKey b.loc.key == line
    if !s.ownsLine c line || line == blockLine c.team c.blockAddr || s.lineOpen c line then .next s
    else if s.stagedBad c here then .next (s.cmdFail cmd c 10 0)
    else
      .next ((s.cmdFlush cmd c here).modCmd cmd (fun c => { c with
        owned := c.owned.filter (fun l => l != line)
        ownedVa := c.ownedVa.filter (fun va => !s.ownsLine { c with owned := [], ownedVa := [va] } line) }))

/-- Whether an access of a command fails: those of a step, those of an MXA that would start, or those of an install's source page. -/
def State.cmdProbe (s : State) (id : Nat) (c : Cmd) (step : Nat) : Except Miss Unit :=
  match c.kind with
  | .mxa =>
    if c.started || !s.mxaReady id c then .ok ()
    else if s.mxaBad c then .error (.fault 10 0)
    else
      match Slot.decode ((s.phase (s.team c.team).phase).slot c.slot) with
      | none => .ok ()
      | some sl =>
        match s.mxaImages c sl with
        | .ok _ => .ok ()
        | .error m => .error m
  | .inst =>
    if c.code.isSome || decide (bitsOf c.block 191 128 ≤ 16384 * step) then .ok ()
    else
      -- the source page, then the layer's table entry, which the install rewrites
      match s.cmdSpan c false .engRead (bitsOf c.block 127 64 + 16384 * step) 16384, s.layerDesc c.ctx c.slot (bitsOf c.block 15 0) with
      | .error m, _ => .error m
      | _, .error m => .error m
      | .ok _, .ok none => .ok ()
      | .ok _, .ok (some d) =>
        match s.iaBytes .store (d.at_ + 16) 13 with
        | .ok _ => .ok ()
        | .error m => .error m
  | _ =>
    if !c.started || decide (c.steps ≤ step) || c.done.contains step then .ok ()
    else
      match s.piece c step with
      | .ok _ => .ok ()
      | .error m => .error m

/-- ENGINE_ACCESS_FAULT (R231): an access of the command fails, and the command with it. -/
def execEngineAccessFault (cmd step : Nat) (s : State) : Out :=
  match KMap.find? s.cmds cmd with
  | none => .next s
  | some c =>
    match s.cmdProbe cmd c step with
    | .error (.fault cause detail) => .next (s.cmdFail cmd c cause detail)
    | _ => .next s

/-! ### LYRQ (R253) -/

/-- The layers that LYRQ requests: the one named, and under `.next` the following one where it exists (R253); and the issue after the
first touches of their tables. -/
def Issue.lyrqLayers (x : Issue) (l : Nat) (next : Bool) : Issue × Except Miss (Option (List (Nat × Nat))) :=
  let x1 := if next then (x.touchLayer l).touchLayer (l + 1) else x.touchLayer l
  (x1,
    match x1.s.layerRef x.ctx x.phase l, (if next then x1.s.layerRef x.ctx x.phase (l + 1) else .ok .none) with
    | .error m, _ => .error m
    | .ok (.layer m k), .ok (.layer _ k2) => .ok (some [(m, k), (m, k2)])
    | .ok (.layer _ _), .error m => .error m
    | .ok (.layer m k), _ => .ok (some [(m, k)])
    | .ok _, _ => .ok none)

/-- LYRQ: the command is accepted, and the quay records the request (R227, R253). -/
def execLyrq (f : FE) (s : State) : Out :=
  engineWord (.lyrq f) s none (fun x =>
    match lowLane x.pass with
    | none => x.finish x.g
    | some l =>
      x.forEngine (fun x1 =>
        let v := x.src f.p 32 l
        if v / 2 ^ 16 ≠ 0 then x1.fault 6 0
        else
          match x1.lyrqLayers v (bitOf f.ef.toNat 0) with
          | (x2, .error m) => x2.tableMiss m
          | (x2, .ok none) => x2.fault 6 0
          | (x2, .ok (some ls)) =>
            match x2.sealCmd x2.s with
            | .next s1 => .next (ls.foldl (fun s e => s.layerRequest x.ctx e.1 e.2) s1)
            | o => o))

end Sys2Proof.Machine
end

