-- ==== Sys2Proof/Machine/Install.lean ====
section
/-! DEFINITION. Installs of flash images: INST and INSTQ (R254-R256, R391, R418, R443). -/

namespace Sys2Proof.Machine

/-- LAYER, SRC and SIZE of an INST block, and LAYER of an INSTQ block. -/
def insLayer (b : Nat) : Nat := bitsOf b 15 0
def insSrc (b : Nat) : Nat := bitsOf b 127 64
def insSize (b : Nat) : Nat := bitsOf b 191 128
def iqLayer (b : Nat) : Nat := bitsOf b 271 256

/-- Blocks that an image of a size takes. -/
def blocksOf (size : Nat) : Nat := (size + Config.blockBytes - 1) / Config.blockBytes

/-- The conditions of R254 after acceptance, in order: the CODE at which INST completes at once. Where the flash has room for the image but no
one site has it, the code is NO_SPACE too (DESIGN CHOICE: R254 compares the free flash of the device, and FLASH of R387 names one run of
blocks of one site; log entry 103). -/
def State.instCode (s : State) (ctx m l size : Nat) : Option Nat :=
  let c := s.ctx ctx
  if (s.layer ctx m l).st ≠ .absent then some 5
  else if c.installow < c.installed + size then some 4
  else if s.freeFlash < size then some 2
  else
    match s.imageSite (blocksOf size) with
    | none => some 2
    | some t =>
      if (s.lowestFree t (blocksOf size)).any (fun b => decide (Config.peLimit < s.wearOf b + 1)) then some 4 else none

/-- INST (R254). -/
def execInst (f : FE) (s : State) : Out :=
  blockWord (.inst f) s f.p none (fun x _ a b =>
    if bitsOf b 63 16 == 0 && bitsOf b 383 192 == 0 && insSize b != 0 && insSize b % 16384 == 0 then
      let y := x.touchLayer (insLayer b)
      match y.s.layerRef x.ctx x.phase (insLayer b) with
      | .error m => y.tableMiss m
      | .ok (.layer m l) =>
        y.accept (.inst f) { y.cmd .inst a b with
          started := true, slot := m, code := y.s.instCode x.ctx m l (insSize b) }
      | .ok _ => y.fault 6 0
    else x.fault 6 0)

/-- A command that completes as it is accepted (R256). -/
def Issue.acceptAtOnce (x : Issue) (c : Cmd) (s : State) : Out :=
  match x.sealCmd s with
  | .next s1 => .next (s1.cmdComplete (KMap.nextKey s1.cmds) c 1)
  | o => o

/-- The layer of an INSTQ block. -/
def Issue.instqLayer (x : Issue) (b : Nat) (k : Issue → Nat → Nat → LayerDesc → Out) : Out :=
  if bitsOf b 383 272 ≠ 0 ∨ x.phase.record.mctx = 0xFFFF then x.fault 6 0
  else
    let y := x.touchLayer (iqLayer b)
    match y.s.layerDesc x.ctx x.phase.record.mctx (iqLayer b) with
    | .error m => y.tableMiss m
    | .ok none => y.fault 6 0
    | .ok (some d) => k y x.phase.record.mctx (iqLayer b) d

/-- INSTQ_QUERY (R256). -/
def execInstqQuery (f : FE) (s : State) : Out :=
  blockWord (.instqQuery f) s f.p none (fun x _ a b =>
    x.instqLayer b (fun x _ _ d =>
      let v := (x.s.ctx x.ctx).installed + x.s.freeFlash * 2 ^ 64 + x.s.imageWear d.flash d.size * 2 ^ 128 +
        Config.peLimit * 2 ^ 192
      x.acceptAtOnce (x.cmd .query a b) (x.s.wrN x.ctx ⟨memKey (spTeam x.tid) a, 0, none⟩ 32 v)))

/-- INSTQ_ABORT (R256): the installs that have not completed will complete with ABORTED. -/
def execInstqAbort (f : FE) (s : State) : Out :=
  blockWord (.instqAbort f) s f.p none (fun x _ a b =>
    x.instqLayer b (fun x m l _ =>
      x.acceptAtOnce (x.cmd .abort a b) { x.s with cmds := x.s.cmds.map (fun e =>
        if e.2.kind = .inst ∧ e.2.ctx = x.ctx ∧ e.2.slot = m ∧ insLayer e.2.block = l then (e.1, { e.2 with code := some 5 })
        else e) }))

/-! ### Programming (R254, R391, R418) -/

/-- Put one logical block on a physical block; the logical block that stood there takes the other's place. -/
def Stack.remap (k : Stack) (l p : Nat) : Stack :=
  let q := KMap.getD k.blockMap l l
  let m := match List.find? (fun (e : Nat × Nat) => e.2 == p) k.blockMap with
    | some e => e.1
    | none => p
  let put := fun (b : KMap Nat) (i v : Nat) => if i = v then KMap.erase b i else KMap.insert b i v
  if q = p then k else { k with blockMap := put (put k.blockMap l p) m q }

/-- The physical blocks that an image takes: each failed one is replaced by the next free block (R391, R418). -/
def replaceFailed (blocks failed spare : List Nat) : List Nat :=
  (blocks.foldl (fun (a : List Nat × List Nat) b =>
    if failed.contains b then (a.1 ++ [a.2.headD b], a.2.tail) else (a.1 ++ [b], a.2)) ([], spare)).1

/-- Store an image in the logical blocks from a first one on: encrypted line by line for a protected context (R399). -/
def State.putImage (s : State) (ctx lia first : Nat) (bytes : List Byte) : State :=
  let s0 := (List.range (blocksOf bytes.length)).foldl (fun s i =>
    let k := memKey spFlash (s.flashBlock (first + i) * 2 ^ 18)
    { s with mem := s.mem.filter (fun e => !(decide (k ≤ e.1) && decide (e.1 < k + Config.blockBytes))) }) s
  (List.range (bytes.length / 64)).foldl (fun s i =>
    let off := 64 * i
    let base := memKey spFlash (s.flashBlock (first + off / 2 ^ 18) * 2 ^ 18 + off % 2 ^ 18)
    let plain := ((bytes.drop off).take 64).map BitVec.toNat
    let line := match s.xtsKey ctx base with
      | some key => Aes.xtsLine true key ((lia + off) / 64) plain
      | none => plain
    { s with mem := s.mem.setLine base line }) s0

/-- The places of the source. -/
def State.instSource (s : State) (c : Cmd) : Except Miss (List Loc) :=
  match s.cmdSpan c false .engRead (insSrc c.block) (insSize c.block) with
  | .error m => .error m
  | .ok sp => .ok sp.locs

/-- STATUS with a completion code (R229, R255). -/
def codeStatus (code : Nat) : Nat := 1 + 256 * code

/-- The record of a protected context follows the blocks of its images (R379, R400, R402; log entry 89). -/
def State.quarantineBlocks (s : State) (ctx : Nat) (taken freed : List Nat) : State :=
  { s with aon := { s.aon with quarantine := KMap.modify s.aon.quarantine ctx (fun q =>
      { q with blocks := ((q.blocks.filter (fun b => !freed.contains b)) ++ taken).eraseDups }) } }

/-- A good install: the layer takes the new image, and its table entry and its leaves name it (R254, R387). -/
def State.takeImage (s : State) (c : Cmd) (d : LayerDesc) (first : Nat) (bytes : List Byte) : Except Miss State :=
  let flash := first * 2 ^ 18
  let size := bytes.length
  match s.iaWrite (d.at_ + 16) (leBytes 8 flash) with
  | .error m => .error m
  | .ok s1 =>
    match s1.iaWrite (d.at_ + 24) (leBytes 5 size) with
    | .error m => .error m
    | .ok s2 =>
      let s3 := s2.putImage c.ctx d.lia first bytes
      let s4 := (s3.setLeaves d.lia (some flash) 0 (size / 16384)).setLeaves d.lia none (size / 16384)
        (d.size / 16384 - size / 16384)
      let kept := s4.blocksBut (fun k m l => k == c.ctx && m == c.slot && l == insLayer c.block)
      let freed := ((imageBlocks d.flash d.size).map s4.flashBlock).filter (fun b => !kept.contains b)
      let s5 := freed.foldl (fun s b => s.freeBlock c.ctx b)
        (s4.quarantineBlocks c.ctx ((imageBlocks flash size).map s4.flashBlock) freed)
      .ok ((s5.modCtx c.ctx (fun k => { k with installed := k.installed + size })).meter c.ctx 10 size)

/-- The image is programmed, its failed blocks are replaced and retired, and it is read back: where it verifies the layer takes it, and else
its blocks are freed again (R254, R255, R391, R418). -/
def State.programImage (s : State) (cmd : Nat) (c : Cmd) (verified : Bool) (blocks bad spare : List Nat) (d : LayerDesc) (first : Nat)
    (bytes : List Byte) : Out :=
  let final := replaceFailed blocks bad spare
  let s1 := bad.foldl (fun s b => s.retireBlock c.ctx b) (s.program c.ctx (blocks ++ spare.take bad.length))
  if !verified then .next ((final.foldl (fun s b => s.freeBlock c.ctx b) s1).cmdComplete cmd c (codeStatus 3))
  else
    let k := (final.zip (List.range final.length)).foldl (fun (k : Stack) e => k.remap (first + e.2) e.1) s1.stk
    let s2 := { s1 with stk := { k with inUse := k.inUse ++ final
                                        badPages := k.badPages.filter (fun g => !final.contains (g / 16)) } }
    match s2.takeImage c d first bytes with
    | .error m => s.cmdHold c m
    | .ok s3 => .next (s3.cmdComplete cmd c (codeStatus (if bad.isEmpty then 0 else 1)))

/-- INST_COMPLETE (R254, R255): the install ends with the code decided before; or its blocks are programmed, those that fail are
replaced, and the read-back verifies or not. -/
def execInstComplete (cmd : Nat) (verified : Bool) (failed : List Nat) (s : State) : Out :=
  match KMap.find? s.cmds cmd with
  | none => .next s
  | some c =>
    if c.kind ≠ .inst ∨ s.blockWaits cmd c then .next s
    else if s.endBad c then .next (s.cmdFail cmd c 10 0)
    else
      match c.code with
      | some k => .next (s.cmdComplete cmd c (codeStatus k))
      | none =>
        let n := blocksOf (insSize c.block)
        match s.imageSite n with
        | none => .next (s.cmdComplete cmd c (codeStatus 2))
        | some site =>
          let blocks := s.lowestFree site n
          let bad := failed.eraseDups.filter (fun b => blocks.contains b)
          let spare := (s.lowestFree site (n + bad.length)).drop n
          let s0 := s.touchRange c.ctx (towerOf c.core) .engRead (insSrc c.block) (insSize c.block)
          if spare.length < bad.length then .next (s.cmdComplete cmd c (codeStatus 2))
          else
            let s0 := s0.touchLayer c.ctx c.slot (insLayer c.block)
            match s0.instSource c, s0.layerDesc c.ctx c.slot (insLayer c.block), s0.freeRun site n with
            | .error m, _, _ => s0.cmdHold c m
            | _, .error m, _ => s0.cmdHold c m
            | .ok locs, .ok (some d), some first =>
              let s1 := s0.recallAll locs false
              if locs.any (s0.readWaits cmd c) then .next s0
              else if locs.any s1.badAt then .next s1
              else s1.programImage cmd c verified blocks bad spare d first (s1.cmdRead c locs)
            | _, _, _ => .next (s.cmdComplete cmd c (codeStatus 5))

end Sys2Proof.Machine
end

