-- ==== Sys2Proof/Machine/Xl.lean ====
section
/-! DEFINITION. The translation registers (R360-R363), invalidation (R370), retry of held accesses (R368), and peers (R315, R333,
R373, R374). -/

namespace Sys2Proof.Machine

/-! ### Range registers (R360, R362) -/

/-- The bits of word 3 that have a meaning. -/
def rangeBits : Nat := 0xFFFF * 2 ^ 48 + 0x3FF * 2 ^ 32 + 0x7D

/-- A bound of a range: a multiple of 16,384 below 2^57. -/
def boundOk (x : Nat) : Bool := x % 16384 == 0 && decide (x < 2 ^ 57)

/-- The check of a register with V = 1. -/
def rangeOk (w0 w1 w3 : Nat) : Bool := boundOk w0 && boundOk w1 && decide (w0 < w1) && (w3 &&& rangeBits) == w3

/-- Write one word of a range register of a context: ignored where it would leave V = 1 and fail the check. -/
def State.rangeWrite (s : State) (ctx reg word : Nat) (v : Word64) : State :=
  let c := s.ctx ctx
  let put := fun (v : Word64) => s.setCtx ctx { c with ranges := KMap.setD c.ranges 0 (4 * reg + word) v }
  let w := fun (i : Nat) => if i = word then v.toNat else c.range reg i
  if bitOf (w 3) 0 then (if rangeOk (w 0) (w 1) (w 3) then put v else s)
  else put (if word = 3 then BitVec.ofNat 64 (v.toNat &&& rangeBits) else v)

/-- XL_RANGE_WRITE (R360, R363). -/
def execXlRangeWrite (reg word : Nat) (value : BitVec 64) (s : State) : Out :=
  if reg < 16 ∧ word < 4 then .next (s.rangeWrite s.xl.ctxSel reg word value) else .next s

/-! ### Named page ranges (R363, R368, R370) -/

/-- Bits below the range that a size code names; 0 acts as 1. -/
def rangeShift (code : Nat) : Nat :=
  match code % 4 with
  | 2 => 21 | 3 => 30 | _ => 14

/-- An IA lies in the aligned range that a register value names. -/
def inRange (value ia : Nat) : Bool :=
  ia / 2 ^ rangeShift value == bitsOf value 51 14 * 2 ^ 14 / 2 ^ rangeShift value

/-- A place of global memory lies in the named range. -/
def locInRange (value : Nat) (p : Loc) : Bool := decide (spaceOf p.key < 65536) && inRange value p.ia

/-- The places that an in-flight instruction has translated and not yet used. -/
def OpKind.places : OpKind → List Loc
  | .load _ _ _ lanes => openBytes lanes
  | .atom _ _ _ _ _ _ steps => steps.filterMap (fun t => if t.old.isNone then some t.loc else none)
  | .tld _ _ bytes => openBytes [(0, bytes)]
  | .tst _ _ locs _ => locs
  | .acld _ _ lanes => openBytes lanes
  | .acst _ _ lanes => lanes.flatMap (fun e => e.2.1)
  | .sign locs _ _ _ _ sent => if sent then [] else locs
  | _ => []

/-- An access is still using a translation of the range: an in-flight instruction, a buffered or committed store that is not visible, a
write of an engine that waits for its line, or a write on its way to a peer (log entry 16). -/
def State.rangeInUse (s : State) (value : Nat) : Bool :=
  s.ops.any (fun e => e.2.kind.places.any (locInRange value)) ||
    s.groups.any (fun e => e.2.buffer.any (fun p => p.bytes.any (fun b => locInRange value b.loc))) ||
    s.commits.any (fun e => e.2.any (fun c => c.place.bytes.any (fun b => locInRange value b.loc))) ||
    s.cmds.any (fun e => e.2.staged.any (fun b => locInRange value b.loc)) ||
    s.peerWrites.any (fun e => inRange value e.2.ia)

/-- A stash line of a team lies in the range. -/
def State.stashInRange (s : State) (t : Team) (value line : Nat) : Bool :=
  match s.stashLoc t line with
  | some p => inRange value p.ia
  | none => false

/-- Every stash line of a team that satisfies p is written back where it is Dirty, and dropped (R329). -/
def State.emptyStash (s : State) (team : Nat) (p : Nat → Bool) : State :=
  ((s.team team).stash.filter (fun l => p l.1)).foldl (fun s l =>
    (if l.2 = .dirty then s.writeBack team l.1 else s).dropStash team l.1) s

/-- Under FLUSH every line of the range is written back and leaves the L2, and every stash line of it is written back and dropped (R370,
R428). -/
def State.flushRange (s : State) (value : Nat) : State :=
  let s1 := s.teams.foldl (fun s e => s.emptyStash e.1 (s.stashInRange e.2 value)) s
  { s1 with l2bad := s1.l2bad.filter (fun l => !inRange value (64 * l.2)), l2dirty := s1.l2dirty.filter (fun l => !inRange value (64 * l.2)) }

/-- XL_INV (R363, R370): an invalidation begins, or waits for the one in progress. -/
def execXlInv (value : BitVec 64) (s : State) : Out :=
  let x := s.xl
  if x.inv.isSome then .next { s with xl := { x with invWait := x.invWait ++ [value.toNat] } }
  else .next { s with xl := { x with inv := some value.toNat } }

/-- XL_INV_COMPLETE (R370): no access uses the old entry any more; the count goes up, and the next one begins. -/
def execXlInvComplete (s : State) : Out :=
  match s.xl.inv with
  | none => .next s
  | some v =>
    if s.rangeInUse v then .next s
    else
      let s1 := if bitOf v 2 then s.flushRange v else s
      let x := s1.xl
      .next { s1 with xl := { x with
        count := (x.count + 1) % 2 ^ 32, inv := x.invWait.head?, invWait := x.invWait.tail } }

/-! ### Retry (R368) -/

/-- An access from a tower to an IA would no longer be held: its page is present, can be placed, or faults (R367, R368). -/
def State.pageHere (s : State) (tower ia : Nat) : Bool :=
  match (s.firstTouch tower ia).walk ia with
  | .absent _ | .touch _ => false
  | _ => true

/-- The page that an entry waits for. -/
def Entry.pageOf (e : Entry) : Option Nat :=
  match e.wait with
  | .parked p => some p
  | .fetch p => some p
  | _ => none

/-- The entries of a group that wait for pages of the range go on where the page is there; a page that is still not there draws a new
notice, and its entries wait on (R285, R368). -/
def State.resumeGroup (s : State) (value gid : Nat) : State :=
  let tower := towerOf (s.coreOf gid)
  let go : Entry → Bool := fun e =>
    match e.pageOf with
    | some p => inRange value (p * 16384) && s.pageHere tower (p * 16384)
    | none => false
  let absent := ((s.grp gid).entries.filterMap Entry.pageOf).filter (fun p =>
    inRange value (p * 16384) && !s.pageHere tower (p * 16384))
  let s1 := s.modGrp gid (fun g => { g with entries := g.entries.map (fun e => if go e then { e with wait := .none } else e) })
  (absent.eraseDups.foldl (fun s p =>
    match s.walk (p * 16384) with
    | .absent level => s.pageNotice (s.coreOf gid) (s.grp gid).ctx p 2 level
    | _ => s.pageNotice (s.coreOf gid) (s.grp gid).ctx p 3 3) s1).settle gid

/-- Every layer of every context goes on with its flag writes. -/
def State.retryAllFlags (s : State) : State :=
  s.ctxs.foldl (fun s c => c.2.layers.foldl (fun s l =>
    if l.2.flagWrites.isEmpty then s else s.retryFlags c.1 (l.1 / 65536) (l.1 % 65536)) s) s

/-- Every context whose fault record waits for a page writes it (R368, R445). -/
def State.retryRecords (s : State) : State :=
  s.ctxs.foldl (fun s c => if c.2.frecWait then s.writeFault c.1 else s) s

/-! ### Peers (R315, R333, R373, R374) -/

/-- A write to a peer lands in the peer's memory. -/
def State.landPeer (s : State) (w : PeerWrite) : State :=
  { s with mem := (w.bytes.zip (List.range w.bytes.length)).foldl (fun m e =>
      m.set (memKey (spPeer w.peer) (w.ia + e.2)) e.1) s.mem }

/-- Two writes to one peer share a byte. -/
def PeerWrite.meets (a b : PeerWrite) : Bool :=
  a.peer == b.peer && decide (a.ia < b.ia + b.bytes.length) && decide (b.ia < a.ia + a.bytes.length)

/-- Two writes keep their order: they meet, or the groups of one core or of one context made them; a group may have moved to another core in
between (R299, R302, R314). -/
def PeerWrite.ordered (a b : PeerWrite) : Bool :=
  a.meets b || (match b.core with
    | some core => a.before core b.ctx
    | none => false)

/-- REMOTE_WRITE_ACK (R302, R374): the peer has placed a write, after the earlier writes to its bytes and the earlier ones of its
core. -/
def execRemoteWriteAck (write : Nat) (s : State) : Out :=
  match KMap.find? s.peerWrites write with
  | none => .next s
  | some w =>
    if !s.peerUp w.peer w.ia || s.peerWrites.any (fun e => decide (e.1 < write) && e.2.ordered w) then .next s
    else .next { s.landPeer w with peerWrites := KMap.erase s.peerWrites write }

/-- The places of a peer's access, after its first touch (R367). -/
def State.peerPlaces (s : State) (peer ia n : Nat) (kind : Acc) : State × Except Miss (List Loc) :=
  let s1 := (List.range ((ia % 64 + n + 63) / 64)).foldl (fun s i =>
    let a := ia / 64 * 64 + 64 * i
    if a / 2 ^ 48 < 0xC then s.firstTouchPeer peer 0 a else s) s
  (s1, s1.iaBytes kind ia n)

/-- What an access of another device or of a host does where it is not made: an absent page draws its notice. -/
def State.outsideMiss (s : State) : Miss → Out
  | .absent page code level => .next (s.pageNotice noCore noCtx page code level)
  | .fault _ _ => .next s
  | .noSuch => .fault .noSuchPhysicalAddress
  | .regPage => .refused .deviceRegisterPage

/-- Write bytes as they are, for a party outside the device. -/
def State.outsideWrite (s : State) (l : List (Loc × Byte)) : State :=
  s.putBytes outsideCtx none (l.map (fun e => (0, e.1, e.2)))

/-- Read bytes as they are stored, for a party outside the device. -/
def State.outsideRead (s : State) (l : List Loc) : List Byte := l.map (fun p => (s.pendingPeer p).getD (s.mem.get p.key))

/-- An atomic step of a party outside the device replaces the bytes at a place (R199, R333). -/
def State.outsideStep (s : State) (peer ia n : Nat) (f : Nat → Nat) : Out :=
  match s.peerPlaces peer ia n .atomic with
  | (s1, .error m) => s1.outsideMiss m
  | (s1, .ok l) =>
    if l.any (fun p => s1.owned p.key || (s1.pendingPeer p).isSome) then .next s1
    else .next (s1.outsideWrite (l.zip (leBytes n (f (leNat (s1.outsideRead l))))))

/-- The scope at which an access of a peer acquires; 0 where it does not. -/
def peerAcquires : PeerAct → Nat
  | .read _ scope acq => if acq then scope else 0
  | .atomic _ _ _ _ ord scope => if ord = 1 ∨ ord = 3 then scope else 0
  | _ => 0

/-- PEER_ACCESS (R315, R333): an access arrives from a peer over a link that is up. It waits for lines that an engine owns. What it
acts on is what every party reads: the stores that a release at system scope of this device orders are there before the release, and
the peer's own earlier accesses have arrived before a release of the peer. A `.remote` acquire has the stores of the cores recalled first
(R308); another acquire or release has nothing more to wait for (R298, R304). -/
def execPeerAccess (peer ia : Nat) (act : PeerAct) (s0 : State) : Out :=
  let s := s0.acquiring (peerAcquires act)
  if !s0.peerUp peer ia then .next s0
  else if !s.recalled (peerAcquires act) then .next s
  else
    match act with
    | .read n _ _ =>
      match s.peerPlaces peer ia n .load with
      | (s1, .error m) => s1.outsideMiss m
      | (s1, .ok l) =>
        if l.any (fun p => s1.owned p.key) then .next s1
        else .next (s1.recallAll l false)
    | .write bytes _ _ =>
      match s.peerPlaces peer ia bytes.length .store with
      | (s1, .error m) => s1.outsideMiss m
      | (s1, .ok l) => if l.any (fun p => s1.owned p.key) then .next s1 else .next (s1.outsideWrite (l.zip bytes))
    | .atomic bits aop v cmp _ _ => s.outsideStep peer ia (bits / 8) (fun old => atomNew aop bits old v cmp)
    | .addF32 x => s.outsideStep peer (ia / 64 * 64) 64 (fun old => exactsum old x.toNat)

end Sys2Proof.Machine
end

