-- ==== Sys2Proof/Machine/Groups.lean ====
section
/-! DEFINITION. The active set of a quarter (R30, R287-R291), the end of a group (R172), the storage of teams and groups and its
compaction (R292-R294, R410), and pre-emption (R117, R273). -/

namespace Sys2Proof.Machine

/-! ### The active set (R30, R287) -/

/-- The groups of one context in one quarter of a core: they share a bank of the fast file (R43). -/
def State.quarterGroups (s : State) (core ctx q : Nat) : List (Nat × Group) :=
  s.groups.filter (fun e => (s.team e.2.team).core == core && e.2.ctx == ctx && e.2.quarter == q)

/-- The active set that a group belongs to or would join. -/
def State.activeSet (s : State) (gid : Nat) : List (Nat × Group) :=
  let g := s.grp gid
  (s.quarterGroups (s.coreOf gid) g.ctx g.quarter).filter (fun e => e.2.active)

/-- A group fits beside an active set: at most 8 groups and 1,536 registers a lane (R30). -/
def fitsActive (set : List (Nat × Group)) (regs : Nat) : Bool :=
  decide (set.length < 8) && decide ((set.map (fun e => e.2.regs)).sum + regs ≤ 1536)

/-! ### Blocks of storage (R293) -/

/-- Two ranges do not meet. -/
def apart (a n b m : Nat) : Bool := decide (a + n ≤ b) || decide (b + m ≤ a)

/-- The lowest aligned block of n units in a pool, from a unit on, that meets none of the blocks taken. -/
def freeBlockFrom (pool from_ : Nat) (taken : List (Nat × Nat)) (n : Nat) : Option Nat :=
  ((List.range (pool / n)).map (fun i => n * i)).find? (fun p =>
    decide (from_ ≤ p) && decide (p + n ≤ pool) && taken.all (fun b => apart p n b.1 b.2))

/-- Blocks for the requests of some owners, larger blocks first: one aligned block for each 1 bit of a request (R293). -/
def packBlocks (pool from_ : Nat) (taken : List (Nat × Nat)) (reqs : List (Nat × Nat)) : Option (List (Nat × Nat × Nat)) :=
  (((List.range 9).reverse).flatMap (fun b => (reqs.filter (fun r => bitOf r.2 b)).map (fun r => (r.1, 2 ^ b)))).foldl (fun acc r =>
    match acc with
    | none => none
    | some l =>
      match freeBlockFrom pool from_ (taken ++ l.map (fun e => e.2)) r.2 with
      | none => none
      | some p => some (l ++ [(r.1, p, r.2)])) (some [])

/-- The blocks of one owner. -/
def ownBlocks (l : List (Nat × Nat × Nat)) (id : Nat) : List (Nat × Nat) := (l.filter (fun e => e.1 == id)).map (fun e => e.2)

/-! ### Joining and leaving (R287-R290) -/

/-- A place at the end of every rotation order. -/
def State.nextOrder (s : State) : Nat := s.groups.foldl (fun n e => max n (e.2.order + 1)) 0

/-- Give a group that becomes active its range of the fast file. Where the free units do not hold its blocks, the ranges of its set move
together with it (R293, R294; log entry 91). -/
def State.giveRange (s : State) (gid : Nat) : State :=
  let set := (s.activeSet gid).filter (fun e => e.1 != gid)
  let n := (s.grp gid).regs / 8
  match packBlocks 192 0 (set.flatMap (fun e => e.2.range)) [(gid, n)] with
  | some l => s.modGrp gid (fun g => { g with range := ownBlocks l gid })
  | none =>
    match packBlocks 192 0 [] ((gid, n) :: set.map (fun e => (e.1, e.2.regs / 8))) with
    | some l => (gid :: set.map (·.1)).foldl (fun s i => s.modGrp i (fun g => { g with range := ownBlocks l i })) s
    | none => s

/-- The active set of a group by a number (R290). -/
def Group.setKey (g : Group) : Nat := 4 * g.ctx + g.quarter

/-- A group enters the active set of its quarter. -/
def State.activate (s : State) (gid : Nat) : State :=
  let core := s.coreOf gid
  let key := (s.grp gid).setKey
  ((s.modGrp gid (fun g => { g with active := true, joined := s.clock core })).giveRange gid).modCore core (fun k =>
    { k with room := k.room.filter (fun x => x != key) })

/-- A group leaves the active set, with its range, for the end of the rotation order. -/
def State.passivate (s : State) (gid : Nat) : State :=
  s.modGrp gid (fun g => { g with active := false, range := [], order := s.nextOrder, yieldMark := false })

/-- The group is at a strand boundary (R288). -/
def Group.atBoundary (g : Group) : Bool :=
  g.live != 0 && minus g.live g.outside == 0 && g.entries.all (fun e => e.clause.isNone && !e.isParked && !e.handler)

/-- A pending group is ready: an entry of it can start its clause (R71, R290). -/
def State.pendingReady (s : State) (gid : Nat) : Bool :=
  let g := s.grp gid
  !g.active && !g.ended && g.entries.any (fun e => e.wait == .none && s.startClear gid e)

/-- The first ready group of the rotation order of a group's quarter (R290). -/
def State.firstReady (s : State) (gid : Nat) : Option Nat :=
  let g := s.grp gid
  let l := (s.quarterGroups (s.coreOf gid) g.ctx g.quarter).filter (fun e => s.pendingReady e.1)
  (l.foldl (fun (best : Option (Nat × Group)) e =>
    match best with
    | none => some e
    | some b => if e.2.order < b.2.order then some e else best) none).map (·.1)

/-- The device makes room for the first ready group of a group's quarter, and admits no other one (R290). -/
def State.makesRoom (s : State) (gid : Nat) : Bool :=
  (s.core (s.coreOf gid)).room.contains (s.grp gid).setKey && (s.firstReady gid).isSome

/-- A group that is placed joins the active set if it can, and else the end of the rotation order (R287). -/
def State.joinActive (s : State) (gid : Nat) : State :=
  let s1 := s.passivate gid
  if fitsActive (s1.activeSet gid) (s1.grp gid).regs && !s1.makesRoom gid then s1.activate gid else s1

/-- Pending groups of a group's quarter join while the first ready one fits (R290, R295). -/
def State.fillActive (s : State) (gid : Nat) : Nat → State
  | 0 => s
  | n + 1 =>
    match s.firstReady gid with
    | none => s
    | some r =>
      if fitsActive (s.activeSet gid) (s.grp r).regs then State.fillActive (s.activate r) gid n else s

/-- The header that R282 would start. -/
def State.nextHeader (s : State) (gid : Nat) : Option Nat :=
  match (s.grp gid).first (fun e => e.wait == .none && s.startClear gid e) with
  | some e =>
    match s.fetchWord (s.grp gid).ctx e.pc with
    | .ok h => some h
    | .error _ => none
  | none => none

/-- A swap candidate (R289). -/
def State.swapCandidate (s : State) (gid : Nat) : Bool :=
  let g := s.grp gid
  g.active && !g.ended && g.atBoundary &&
    (g.entries.all (fun e => !s.startClear gid e) || g.yieldMark ||
      (match s.nextHeader gid with
       | some h => hdrYield h
       | none => false) ||
      decide (g.joined + 16384 ≤ s.clock (s.coreOf gid)))

/-- GROUP_SWAP (R287, R290, R295): the first ready group of the rotation order joins where it fits. Else a candidate leaves for the end of
that order: the ready group joins if it fits now, and room is made for it if it does not. -/
def execGroupSwap (gid : Nat) (s : State) : Out :=
  match s.firstReady gid with
  | none => .next s
  | some r =>
    if fitsActive (s.activeSet gid) (s.grp r).regs then .next (s.activate r)
    else if !s.swapCandidate gid then .next s
    else
      let s1 := s.passivate gid
      if fitsActive (s1.activeSet gid) (s1.grp r).regs then .next (s1.activate r)
      else
        let key := (s.grp gid).setKey
        .next (s1.modCore (s1.coreOf gid) (fun k => { k with room := if k.room.contains key then k.room else key :: k.room }))

/-- Something of a core's district ends: the idle time of R426 begins again. -/
def State.markIdle (s : State) (core : Nat) : State := s.modDistrict (districtOf core) (fun d => { d with idle := s.now (.district (districtOf core)) })

/-- GROUP_RESOURCES_FREE (R172): an ended group without in-flight instructions, whose stores are visible beyond its core, leaves, and pending
groups take its place. -/
def execGroupResourcesFree (gid : Nat) (s : State) : Out :=
  match KMap.find? s.groups gid with
  | none => .next s
  | some g =>
    if !g.ended || !(s.opsOf gid).isEmpty || s.commits.any (fun e => e.2.any (fun c => c.gid == gid)) then .next s
    else
      let s1 := (s.modGrp gid (fun g => { g with active := false, range := [] })).markIdle (s.coreOf gid)
      .next { s1.fillActive gid 32 with groups := KMap.erase (s1.fillActive gid 32).groups gid }

/-! ### Allocations of teams (R292, R410, R413) -/

/-- Scratchpad units of a schedule. -/
def Sched.units (sc : Sched) : Nat := (sc.scratch + 4095) / 4096

/-- Healthy ways of a core's slice: a retired bus takes four (R411, R413). -/
def State.healthyWays (s : State) (core : Nat) : Nat := 16 - 4 * (s.stk.retired.filter (fun b => b / 4 == core)).length

/-- The core's slice is in extension service (R413). -/
def State.inService (s : State) (core : Nat) : Bool := decide (s.stk.ways + 1 ≤ s.healthyWays core)

/-- The slices out of extension service. -/
def State.outOfService (s : State) : Nat := ((List.range Config.cores).filter (fun c => !s.inService c)).length

/-- The schedule asks for the whole scratchpad, and so for an extension (R410). -/
def Sched.whole (sc : Sched) : Bool := sc.scratch == 1048576

/-- The schedule of a team. -/
def State.schedOf (s : State) (tid : Nat) : Sched := (s.phase (s.team tid).phase).sched

/-- The teams on a core. -/
def State.teamsOn (s : State) (core : Nat) : List (Nat × Team) := s.teams.filter (fun e => e.2.core == core)

/-- Resident slots of a quarter of a core that groups hold. -/
def State.slotsTaken (s : State) (core q : Nat) : List Nat :=
  (s.groups.filter (fun e => (s.team e.2.team).core == core && e.2.quarter == q)).map (fun e => e.2.slot)

/-- A quarantined context that is to be scrubbed holds a core: nothing of it goes to another context (R400, R401). -/
def State.coreQuarantined (s : State) (core : Nat) : Bool :=
  s.aon.quarantine.any (fun e => (s.ctx e.1).st == .scrubbing && e.2.cores.contains core)

/-- A core has room for what a team of the schedule needs, and a bank for the context (R43, R292, R400, R413). -/
def State.coreFits (s : State) (core ctx : Nat) (sc : Sched) (slots : List Nat) : Bool :=
  let l := s.teamsOn core
  let total := fun (f : Sched → Nat) => l.foldl (fun n e => n + f (s.schedOf e.1)) 0
  let res := (s.core core).resident
  decide (core < Config.cores) && !s.coreQuarantined core && (s.district (districtOf core)).st == .on && (res.contains ctx || decide (res.length < 4)) &&
  decide (total Sched.units + sc.units ≤ 256) && decide (total Sched.tiles + sc.tiles ≤ 16) &&
  decide (total Sched.accr + sc.accr ≤ 3) && decide (slots.length = sc.groups) &&
  (List.range sc.groups).all (fun g =>
    let n := slots.getD g 32
    decide (n < 32) && !(s.slotsTaken core (g % 4)).contains n &&
      !((List.range g).any (fun h => h % 4 == g % 4 && slots.getD h 32 == n))) &&
  (!sc.whole || (!s.stk.changing && s.inService core))

/-- The extent of a team of a schedule (R410). -/
def State.extentOf (s : State) (sc : Sched) : Nat := sc.scratch + (if sc.whole then s.stk.ways * 1048576 else 0)

/-- The quarantine record of a protected context names the cores where it was resident (R400). -/
def State.noteResident (s : State) (core ctx : Nat) : State :=
  match KMap.find? s.aon.quarantine ctx with
  | none => s
  | some q =>
    if q.cores.contains core then s
    else { s with aon := { s.aon with quarantine := KMap.insert s.aon.quarantine ctx { q with cores := q.cores ++ [core] } } }

/-- The context has a bank on a core from now on (R380). -/
def State.makeResident (s : State) (core ctx : Nat) : State :=
  (s.noteResident core ctx).modCore core (fun k =>
    let res := if k.resident.contains ctx then k.resident else k.resident ++ [ctx]
    { k with resident := res, running := if k.running.isNone then some ctx else k.running
             since := if k.running.isNone then s.clock core else k.since })

/-- A context without teams on a core has no bank there any more. -/
def State.leaveCore (s0 : State) (core ctx : Nat) : State :=
  let s := s0.markIdle core
  if (s.teamsOn core).any (fun e => e.2.ctx == ctx) then s
  else
    s.modCore core (fun k => { k with
      resident := k.resident.filter (fun c => c != ctx)
      running := if k.running = some ctx then none else k.running
      stalled := KMap.erase k.stalled ctx, noticed := k.noticed.filter (fun c => c != ctx) })

/-- A team is idle (R294): its groups are pending, no command of it runs, and it owns no line. -/
def State.teamIdle (s : State) (tid : Nat) : Bool :=
  (s.groupsOf tid).all (fun e => !e.2.active) && (s.cmdsOf tid).isEmpty

/-- The lowest n numbers below a bound that no list of some teams names. -/
def lowestNumbers (bound n : Nat) (taken : List Nat) : List Nat := ((List.range bound).filter (fun i => !taken.contains i)).take n

/-- Give a team of a core its storage: blocks of the scratchpad store from a unit on, tiles and regions (R292, R293). Where only
fragments are free, the idle teams of the core move together with it; none where that does not make the blocks free either (R294). -/
def State.giveStorage (s : State) (tid from_ : Nat) : Option State :=
  let core := (s.team tid).core
  let others := (s.teamsOn core).filter (fun e => e.1 != tid)
  let n := (s.schedOf tid).units
  let put := fun (s : State) (l : List (Nat × Nat × Nat)) (ids : List Nat) =>
    ids.foldl (fun (s : State) i => s.modTeam i (fun t => { t with place := ownBlocks l i })) s
  let s1 := s.modTeam tid (fun t => { t with
    tileAt := lowestNumbers 16 (s.schedOf tid).tiles (others.flatMap (fun e => e.2.tileAt))
    accAt := lowestNumbers 3 (s.schedOf tid).accr (others.flatMap (fun e => e.2.accAt)) })
  match packBlocks 256 from_ (others.flatMap (fun e => e.2.place)) [(tid, n)] with
  | some l => some (put s1 l [tid])
  | none =>
    let idle := others.filter (fun e => s.teamIdle e.1)
    let busy := others.filter (fun e => !s.teamIdle e.1)
    match packBlocks 256 0 (busy.flatMap (fun e => e.2.place)) ((tid, n) :: idle.map (fun e => (e.1, (s.schedOf e.1).units))) with
    | some l => some (put s1 l (tid :: idle.map (·.1)))
    | none => none

/-- COMPACTION (R294): the scratchpad of an idle team moves to free blocks from a unit on, and its tiles and regions to the lowest free
ones. No value changes. -/
def execCompaction (team place : Nat) (s : State) : Out :=
  match KMap.find? s.teams team with
  | none => .next s
  | some _ =>
    if s.teamIdle team then
      match s.giveStorage team place with
      | some s1 => .next s1
      | none => .next s
    else .next s

/-- Erase a team's scratchpad from the store. -/
def State.clearScratch (s : State) (tid : Nat) : State :=
  { s with mem := s.mem.filter (fun e => spaceOf e.1 != spTeam tid) }

/-! ### Pre-emption (R117, R273) -/

/-- V registers that LIVEIN marks at a strand entry of the code that the group's phase runs: the one where CODEBASE lay when the phase
started, since two codes may share a hash; a code that has no entry there marks none (R111, R116). -/
def State.liveIn (s : State) (gid pc : Nat) : BitVec 256 :=
  let p := s.phaseOf gid
  match p.codeIa.bind (fun ia => s.codes.find? (fun c => c.hash == p.record.chash && c.ia == ia)) with
  | some c => KMap.getD c.liveIn 0 (pc - p.record.codeBase)
  | none => 0

/-- The V registers of a group whose team is saved: those that LIVEIN does not mark at a lane's frontier entry read zero in that lane (R117).
That it is looked at lane by lane where the frontier has several entries is DEDUCED (log entry 92). -/
def State.keepLive (s : State) (gid : Nat) : State :=
  let g := s.grp gid
  let marks := g.entries.map (fun e => (e.mask, s.liveIn gid e.pc))
  let live := fun (r l : Nat) =>
    match marks.find? (fun e => e.1.getLsbD l) with
    | some e => e.2.getLsbD r
    | none => false
  s.setGrp gid { g with
    v := g.v.filter (fun e => live (e.1 / 64) (e.1 % 64))
    vpoison := g.vpoison.filterMap (fun e =>
      let m := laneFilter e.2 (fun l => live e.1 l)
      if m = 0 then none else some (e.1, m)) }

/-- The sealed lanes of a group hold a pre-emption back (R273). -/
def State.sealedOn (s : State) (core ctx : Nat) : Bool :=
  s.groups.any (fun e => (s.team e.2.team).core == core && e.2.ctx == ctx && e.2.sealed != 0 && !e.2.ended)

/-- No group of the context on the core starts a new strand while a pre-emption waits (R273). -/
def State.setPreempt (s : State) (core ctx : Nat) (on : Bool) : State :=
  { s with groups := s.groups.map (fun e =>
      if (s.team e.2.team).core == core && e.2.ctx == ctx then (e.1, { e.2 with preempt := on }) else e) }

/-- Pre-empt a group (R273): its lanes are discarded without a count in %reentry. -/
def State.preemptGroup (s : State) (gid : Nat) : State := (s.discardGroup gid false).settle gid

/-- No committed store of a team, or to its scratchpad or a line of its stash, is left that is not visible beyond its core: of a team of the
cluster too (R37, R190). -/
def State.teamDrained (s : State) (tid : Nat) : Bool :=
  s.commits.all (fun e => e.2.all (fun c => c.team != tid && c.place.stash.all (fun l => l.1 != tid) &&
    c.place.bytes.all (fun b => spaceOf b.loc.key != spTeam tid)))

end Sys2Proof.Machine
end

