-- ==== Sys2Proof/Machine/Launch.lean ====
section
/-! DEFINITION. The Forecourt (R347-R357): queues and their slots, launch records and the codes that refuse them, the start and the
completion of phases, placement, migration and the end of teams (R314, R355), context switches (R380, R381) and STALL_ALL
(R358). -/

namespace Sys2Proof.Machine

/-! ### Queues (R349, R352) -/

/-- A queue descriptor (R349). -/
structure QDesc where
  ring : Nat
  tailAddr : Nat
  headAddr : Nat
  log2n : Nat
  ctx : Nat
  deriving DecidableEq, Repr

/-- Queue q does not exist: its number is not below FC_QTCOUNT, or bring-up has not reached step 6 (R351, R439). -/
def State.noQueue (s : State) (q : Nat) : Bool := decide (s.fc.qtCount ≤ q) || decide (s.ident.devState < 6)

/-- The descriptor of a queue, at an intermediate address (R349, R445). Its reserved bits are not looked at (DESIGN CHOICE: R349 names no
effect of them; log entry 85). -/
def State.queueDesc (s : State) (q : Nat) : Except Miss (Option QDesc) :=
  if s.noQueue q then .ok none
  else
    match s.iaRead (s.fc.qtBase + 32 * q) 32 with
    | .ok d => .ok (some ⟨bitsOf d 63 0, bitsOf d 127 64, bitsOf d 191 128, bitsOf d 199 192, bitsOf d 255 224⟩)
    | .error m => .error m

/-- HEAD, QSTATUS and CUR of a queue. -/
structure QHead where
  head : Nat
  status : Nat
  cur : Nat
  deriving DecidableEq, Repr

/-- The three words in the 24 bytes at HEADADDR. -/
def headOf (x : Nat) : QHead := ⟨bitsOf x 63 0, bitsOf x 127 64, bitsOf x 191 128⟩

/-- The words that the Forecourt keeps at HEADADDR. -/
def State.queueHead (s : State) (d : QDesc) : Except Miss QHead :=
  match s.vaRead d.ctx .load d.headAddr 24 with
  | .ok x => .ok (headOf x)
  | .error m => .error m

/-! ### What the Forecourt reads and writes (R368, R445) -/

/-- An access of the Forecourt waits on a page until it is resumed (R357, R368). -/
def State.fcHold (s : State) (page : Nat) : State :=
  if s.fc.waits.contains page then s else { s with fc := { s.fc with waits := s.fc.waits ++ [page] } }

/-- A page of n bytes at an intermediate address is waited on. -/
def State.iaHeld (s : State) (ia n : Nat) : Bool :=
  s.fc.waits.any (fun p => decide (ia / 16384 ≤ p) && decide (p ≤ (ia + n - 1) / 16384))

/-- A page of n bytes at a virtual address is waited on. -/
def State.vaHeld (s : State) (ctx : Nat) (kind : Acc) (va n : Nat) : Bool :=
  (List.range ((va % 64 + n + 63) / 64)).any (fun i =>
    match s.vaIa ctx kind (va / 64 * 64 + 64 * i) with
    | .ok (ia, _, _) => s.fc.waits.contains (ia / 16384)
    | .error _ => false)

/-- The Forecourt waits for a page. -/
def State.fcWait (s : State) (ctx : Nat) : Miss → Out
  | .absent page code level => .next ((s.pageNotice noCore ctx page code level).fcHold page)
  | .noSuch => .fault .noSuchPhysicalAddress
  | .regPage => .refused .deviceRegisterPage
  | .fault _ _ => .next s

/-- The Forecourt reads n bytes under a context, after their first touch. It waits for an absent page until it is resumed, and for a line that
an engine owns; a fault is answered by the reader. -/
def State.fcRead (s0 : State) (ctx va n : Nat) (bad : State → Nat → Nat → Out) (k : State → Nat → Out) : Out :=
  let s := s0.touchRange ctx 0 .load va n
  match s.vaBytes ctx .load va n with
  | .ok l =>
    if s.vaHeld ctx .load va n || l.any (fun p => s.owned p.key) then .next s
    else
      let s1 := s.recallAll l false
      k s1 (leNat (l.map (s1.rd ctx)))
  | .error (.fault c d) => bad s c d
  | .error m => s.fcWait ctx m

/-- The Forecourt writes a word under a context; a fault is one of the context (R445). -/
def State.fcWrite (s0 : State) (ctx va v : Nat) : State :=
  let s := s0.touchRange ctx 0 .store va 8
  match s.vaBytes ctx .store va 8 with
  | .ok l => s.putBytes ctx none ((l.zip (leBytes 8 v)).map (fun e => (0, e.1, e.2)))
  | .error (.fault c d) => s.contextFault ctx { cause := c, addr := va, detail := d }
  | .error (.absent page code level) => s.pageNotice noCore ctx page code level
  | .error _ => s

/-- A read of the Forecourt for a queue faults: a fault of the context (R445). Of a context that no fault can stop, the queue is not
served again before its bell (DESIGN CHOICE: the spec names no effect; log entry 93). -/
def State.fcFault (s : State) (q ctx va cause detail : Nat) : State :=
  let s1 := s.contextFault ctx { cause := cause, addr := va, detail := detail }
  if (s.ctx ctx).st == .active then s1
  else { s1 with fc := { s1.fc with refused := q :: s1.fc.refused.filter (fun x => x != q) } }

/-- What follows a step that answers a next state. -/
def andThen (o : Out) (k : State → Out) : Out :=
  match o with
  | .next s => k s
  | o => o

/-- The Forecourt reads the descriptor of a queue and goes on. Without a queue nothing happens, nor where the read faults, for which no
context can be named (log entry 93); an absent page draws its notice. -/
def State.withQueue (s0 : State) (q : Nat) (k : State → QDesc → Out) : Out :=
  if s0.noQueue q then .next s0
  else
    let s := s0.iaTouch (s0.fc.qtBase + 32 * q) 32
    match s.queueDesc q with
    | .ok (some d) => if s.iaHeld (s.fc.qtBase + 32 * q) 32 then .next s else k s d
    | .ok none => .next s
    | .error m => s.fcWait noCtx m

/-! ### Slots and bells (R349-R352) -/

/-- The words at HEADADDR, and TAIL as it was last read, show work (R349). -/
def State.shows (s : State) (q : Nat) (h : QHead) : Bool :=
  h.status == 0 && (KMap.getD s.fc.tails 0 q != h.head || h.cur != 0)

/-- A queue has work (R349); a refused one has none until it is rung (R357). One whose descriptor or words cannot be read keeps what it
has, and the step that reads them tells. -/
def State.hasWork (s : State) (q : Nat) : Bool :=
  !s.fc.refused.contains q &&
    (match s.queueDesc q with
     | .error (.absent _ _ _) => true
     | .ok (some d) =>
       (match s.queueHead d with
        | .ok h => s.shows q h
        | .error _ => true)
     | _ => false)

/-- Slots of queues without work free; waiting queues take free slots in order (R352). -/
def State.serveQueues (s : State) : State :=
  let slots := s.fc.slots.filter (fun e => s.hasWork e.1)
  let fifo := s.fc.fifo.filter (fun q => s.hasWork q)
  let room := 64 - slots.length
  let new := fifo.take room
  { s with fc := { s.fc with
      slots := slots ++ (new.zip (List.range new.length)).map (fun e => (e.1, s.fc.order + e.2))
      fifo := fifo.drop room, order := s.fc.order + new.length } }

/-- A bell is answered, or waits (R351, R368). -/
def State.unbell (s : State) (q : Nat) : State := { s with fc := { s.fc with bells := s.fc.bells.filter (fun x => x != q) } }
def State.bell (s : State) (q : Nat) : State :=
  if s.fc.bells.contains q then s else { s with fc := { s.fc with bells := s.fc.bells ++ [q] } }

/-- Read the TAIL of a queue; a queue whose work is seen joins the FIFO (R351, R352). A read that waits, other than of a refused queue that
no bell names, is made again once its page is resumed. -/
def State.readTail (s0 : State) (q : Nat) : Out :=
  (if s0.noQueue q || s0.fc.refused.contains q then s0 else s0.bell q).withQueue q (fun s d =>
    s.fcRead d.ctx d.tailAddr 8 (fun s c x => .next ((s.fcFault q d.ctx d.tailAddr c x).unbell q)) (fun s2 t =>
      let s3 := { s2 with fc := { s2.fc with tails := KMap.setD s2.fc.tails 0 q t } }.unbell q
      if s3.hasWork q && !s3.fc.slots.any (fun e => e.1 == q) && !s3.fc.fifo.contains q then
        .next { s3 with fc := { s3.fc with fifo := s3.fc.fifo ++ [q] } }
      else .next s3))

/-- A bell of a refused queue looks at its QSTATUS first: where it is 0 the queue may be served again (R357). -/
def State.clearRefusal (s0 : State) (q : Nat) (k : State → Out) : Out :=
  if !s0.fc.refused.contains q then k s0
  else
    (if s0.noQueue q then s0 else s0.bell q).withQueue q (fun s d => s.fcRead d.ctx d.headAddr 24
      (fun s c x => .next ((s.fcFault q d.ctx d.headAddr c x).unbell q)) (fun s x =>
        if (headOf x).status = 0 then k { s with fc := { s.fc with refused := s.fc.refused.filter (fun y => y != q) } }
        else k (s.unbell q)))

/-- FC_BELL (R351, R357): a refused queue whose QSTATUS is 0 again may be served; its TAIL is read. -/
def execFcBell (queue : Nat) (s : State) : Out :=
  let q := queue % 65536
  s.clearRefusal q (fun s => andThen (s.readTail q) (fun s => .next s.serveQueues))

/-- Cycles of a quantum: FC_QUANTUM. -/
def quantum : Nat := 65536

/-- The slots that were held longest go to the waiting queues, and their queues join the FIFO (R352). -/
def Forecourt.rotate (f : Forecourt) (hasWork : Nat → Bool) : Forecourt :=
  let n := min f.fifo.length (min 64 f.slots.length)
  let out := f.slots.take n
  let new := f.fifo.take n
  { f with
    slots := f.slots.drop n ++ (new.zip (List.range n)).map (fun e => (e.1, f.order + e.2))
    fifo := f.fifo.drop n ++ (out.map (·.1)).filter hasWork
    order := f.order + n }

/-- QUANTUM_BOUNDARY (R351, R352). -/
def execQuantumBoundary (s : State) : Out :=
  if s.now .forecourt < s.fc.quantum + quantum then .next s
  else
    let s1 := { s with fc := { s.fc with quantum := s.fc.quantum + quantum } }
    andThen ((List.range s.fc.qtCount).foldl (fun o q => andThen o (fun s => s.readTail q)) (.next s1)) (fun s =>
      let s2 := s.serveQueues
      .next { s2 with fc := s2.fc.rotate s2.hasWork })

/-- XL_RESUME (R363, R368): held accesses and parked entries of the pages are retried; a page draws a new notice if it is still not
present. -/
def execXlResume (value : BitVec 64) (s : State) : Out :=
  let v := value.toNat
  let s1 := { s with
    xl := { s.xl with noticed := s.xl.noticed.filter (fun p => !inRange v (p * 16384)) }
    fc := { s.fc with waits := s.fc.waits.filter (fun p => !inRange v (p * 16384)) } }
  let s2 := ((s1.groups.foldl (fun (s : State) (e : Nat × Group) => s.resumeGroup v e.1) s1).retryAllFlags).retryRecords
  s2.fc.bells.foldl (fun o q => andThen o (execFcBell q)) (.next s2)

/-! ### Launch records (R347, R119) -/

/-- A record from its 320 bytes. -/
def recordOf (addr x : Nat) : Record :=
  let f := fun (off n : Nat) => x / 256 ^ off % 256 ^ n
  { addr := addr, chash := f 0 64, codeBase := f 0x40 8, codeExt := f 0x48 8, schedAddr := f 0x50 8, constBase := f 0x58 8
    poolBase := f 0x60 8, poolCount := f 0x68 1, schedN := f 0x69 1, prio := f 0x6A 1, ctx := f 0x6C 4, teams := f 0x70 4
    tsh := f 0x74 1, sizeAddr := f 0x78 8, mctx := f 0x80 2, layer := f 0x82 2, next := f 0x88 8, comp := f 0x90 8
    stash := (List.range 2).map (fun i => ⟨f (0xA8 + 16 * i) 8, f (0xA4 + 16 * i) 4, f (0xA0 + 16 * i) 4⟩)
    slots := (List.range 8).map (fun i => f (0xC0 + 8 * i) 8)
    events := (List.range 4).map (fun i => (f (0x100 + 16 * i) 8, f (0x108 + 16 * i) 8)) }

/-- Reserved bytes, ranges and alignments of a record (R347, R357 code 1). -/
def recordOk (addr x : Nat) : Bool :=
  let r := recordOf addr x
  let f := fun (off n : Nat) => x / 256 ^ off % 256 ^ n
  addr % 64 == 0 && f 0x6B 1 == 0 && f 0x75 3 == 0 && f 0x84 4 == 0 && f 0x98 8 == 0 && decide (r.prio < 4) &&
  decide (r.tsh ≤ 63) && decide (r.poolCount ≤ 128) && (r.poolBase == 0 || r.poolCount != 0) && r.codeBase % 8 == 0 &&
  r.codeExt % 8 == 0 && r.schedAddr % 32 == 0 && r.sizeAddr % 8 == 0 && r.next % 64 == 0 && r.comp % 8 == 0 &&
  r.events.all (fun e => e.1 % 8 == 0)

/-- A SCHED entry from its 32 bytes (R119). Its reserved bits are not looked at (DESIGN CHOICE: no code of R357 names them; log entry
85). -/
def schedEntry (x : Nat) : Sched :=
  { bank := bitsOf x 223 208, slotMask := bitsOf x 207 200, clh := bitsOf x 199 196, clw := bitsOf x 195 192
    tiles := bitsOf x 188 184, accr := bitsOf x 183 182, groups := bitsOf x 181 176, regs := bitsOf x 168 160
    scratch := bitsOf x 159 128, entry := bitsOf x 127 64, bound := bitsOf x 63 0 }

/-- Teams of a cluster. -/
def Sched.cluster (sc : Sched) : Nat := sc.clw * sc.clh

/-- One team of the entry can be given its allocations on an empty core (R30, R119, R292). An entry with a field outside its range asks
for an allocation that no core has, and is refused as SHAPE (DEDUCED: R357 names no other code for it; log entry 56). -/
def Sched.fits (sc : Sched) : Bool :=
  decide (1 ≤ sc.clw) && decide (1 ≤ sc.clh) && decide (sc.cluster ≤ 12) && decide (sc.tiles ≤ 16) && decide (sc.accr ≤ 3) &&
  decide (1 ≤ sc.groups) && decide (sc.groups ≤ 32) && decide (8 ≤ sc.regs) && decide (sc.regs ≤ 256) && sc.regs % 8 == 0 &&
  decide (sc.scratch ≤ 1048576) && sc.scratch % 64 == 0

/-- The entries of a run of SCHED entries, from its bytes. -/
def schedsOf (n x : Nat) : List Sched := (List.range n).map (fun i => schedEntry (x / 256 ^ (32 * i) % 256 ^ 32))

/-- BOUND ascends strictly. -/
def ascending : List Sched → Bool
  | a :: b :: l => decide (a.bound < b.bound) && ascending (b :: l)
  | _ => true

/-- CODEBASE reaches loaded code of the record's hash, and CODEEXT lies in it (R357 code 3). -/
def State.codeOk (s : State) (r : Record) : Bool :=
  match s.vaIa r.ctx .fetch (r.codeBase / 64 * 64) with
  | .ok (ia, _, none) =>
    s.codes.any (fun c => c.hash == r.chash && c.ia == ia + r.codeBase % 64 && decide (r.codeExt ≤ c.size))
  | _ => false

/-- The intermediate address of CODEBASE, as the context translates it. -/
def State.codeAt (s : State) (r : Record) : Option Nat :=
  match s.vaIa r.ctx .fetch (r.codeBase / 64 * 64) with
  | .ok (ia, _, _) => some (ia + r.codeBase % 64)
  | .error _ => none

/-- MCTX and LAYER name what exists (R357 code 5). -/
def State.modelOk (s : State) (r : Record) : Except Miss Bool :=
  if r.mctx = 0xFFFF then .ok (r.layer == 0xFFFF)
  else if bitsOf (s.ctx r.ctx).nmodels 15 0 ≤ r.mctx then .ok false
  else if r.layer = 0xFFFF then .ok true
  else
    match s.layerDesc r.ctx r.mctx r.layer with
    | .ok d => .ok d.isSome
    | .error m => .error m

/-- A range register permits reads and writes and names no remote device (R327, R360). -/
def Ctx.plainRange (c : Ctx) (n : Nat) : Bool := bitOf (c.range n 3) 2 && bitOf (c.range n 3) 3 && !bitOf (c.range n 3) 6

/-- A stash descriptor is absent or valid on its own (R327). Its window lies within one range register of that kind, and where a lower one
translates lines of it that one is of the kind too (DEDUCED: R327 does not speak of registers that overlap; log entry 104). -/
def State.stashOk (s : State) (r : Record) (sc : Sched) (d : Stash) : Bool :=
  let c := s.ctx r.ctx
  d.size == 0 ||
    (d.gbase % 4096 == 0 && d.size % 4096 == 0 && d.soff % 4096 == 0 && decide (d.size ≤ 1048576) &&
      decide (d.soff + d.size ≤ sc.scratch) &&
      (List.range 16).any (fun n =>
        c.rangeV n && decide (c.range n 0 ≤ d.gbase) && decide (d.gbase + d.size ≤ c.range n 1) && c.plainRange n) &&
      (List.range (d.size / 64)).all (fun i =>
        match c.rangeOf (d.gbase + 64 * i) with
        | some n => c.plainRange n
        | none => false))

/-- Both stash descriptors (R357 code 6). -/
def State.stashesOk (s : State) (r : Record) (sc : Sched) : Bool :=
  r.stash.all (s.stashOk r sc) &&
    (match r.stash with
     | [a, b] =>
       a.size == 0 || b.size == 0 || (apart a.soff a.size b.soff b.size && apart a.gbase a.size b.gbase b.size)
     | _ => true)

/-- Every line of a byte range translates with RD under the range registers (R357 code 9). -/
def State.rangesReach (s : State) (ctx va n : Nat) : Bool :=
  (List.range ((va % 64 + n + 63) / 64)).all (fun i =>
    match s.vaIa ctx .load (va / 64 * 64 + 64 * i) with
    | .ok _ => true
    | .error _ => false)

/-- The constant bank of an entry and the pool translate. -/
def State.banksOk (s : State) (r : Record) (sc : Sched) : Bool :=
  s.rangesReach r.ctx (r.constBase + 1024 * sc.bank) 1024 && s.rangesReach r.ctx r.poolBase (32 * r.poolCount)

/-! ### The start of a phase (R354, R357) -/

/-- Refuse the record of a queue: QSTATUS takes the code, and the queue keeps no slot. -/
def State.refuse (s : State) (q : Nat) (d : QDesc) (code : Nat) : State :=
  let s1 := s.fcWrite d.ctx (d.headAddr + 8) code
  (({ s1 with fc := { s1.fc with
    refused := q :: s1.fc.refused.filter (fun x => x != q), held := KMap.erase s1.fc.held q } }).unbell q).serveQueues

/-- What the Forecourt holds of a queue's record changes. -/
def State.hold (s : State) (q : Nat) (h : Held) : State := { s with fc := { s.fc with held := KMap.insert s.fc.held q h } }

/-- The record that is held. -/
def Held.record (h : Held) : Record := recordOf h.addr h.raw

/-- Read the dependence words that are not satisfied yet; those that hold enough are satisfied from now on (R354). Answers the words
satisfied, and the first read that is not made with its address. -/
def State.dependences (s : State) (ctx : Nat) (done : List Nat) :
    List ((Nat × Nat) × Nat) → State × List Nat × Option (Nat × Miss)
  | [] => (s, done, none)
  | e :: l =>
    if done.contains e.2 then s.dependences ctx done l
    else if e.1.1 = 0 then s.dependences ctx (done ++ [e.2]) l
    else
      let s1 := s.touchRange ctx 0 .load e.1.1 8
      match s1.vaBytes ctx .load e.1.1 8 with
      | .ok locs =>
        if s1.vaHeld ctx .load e.1.1 8 || locs.any (fun p => s1.owned p.key) then s1.dependences ctx done l
        else
          let s2 := s1.recallAll locs false
          s2.dependences ctx (if e.1.2 ≤ leNat (locs.map (s2.rd ctx)) then done ++ [e.2] else done) l
      | .error m =>
        match s1.dependences ctx done l with
        | (s2, d, _) => (s2, d, some (e.1.1, m))

/-- Step 2 of R354: the dependence words of a held record are read, and what follows is done once all four are satisfied. -/
def State.waitWords (s : State) (q : Nat) (h : Held) (k : State → Held → Out) : Out :=
  let r := h.record
  match s.dependences r.ctx h.done (r.events.zip (List.range 4)) with
  | (s1, done, miss) =>
    let h1 := { h with done := done }
    let s2 := s1.hold q h1
    match miss with
    | some (va, .fault c d) => .next (s2.fcFault q r.ctx va c d)
    | some (_, m) => s2.fcWait r.ctx m
    | none => if done.length < 4 then .next s2 else k s2 h1

/-- DEPENDENCE_RECHECK (R354): the words of a held record are read again. -/
def execDependenceRecheck (queue : Nat) (s : State) : Out :=
  match KMap.find? s.fc.held queue with
  | none => .next s
  | some h =>
    if h.scheds.isNone || (s.ctx h.record.ctx).st != .active then .next s else s.waitWords queue h (fun s _ => .next s)

/-! ### Completion of a phase (R356) -/

/-- The completion word gains 1 (R356); it waits for an absent page or an owned line. -/
def State.compWord (s0 : State) (r : Record) (k : State → Out) : Out :=
  if r.comp = 0 then k s0
  else
    let s := s0.touchVa r.ctx 0 .atomic (r.comp / 64 * 64)
    match s.vaLoc r.ctx .atomic r.comp with
    | .error (.fault c d) => k (s.contextFault r.ctx { cause := c, addr := r.comp, detail := d })
    | .error m => s.fcWait r.ctx m
    | .ok p =>
      if s.vaHeld r.ctx .atomic r.comp 8 || s.owned p.key || s.pendingPeer p != none then .next s
      else
        let bytes := leBytes 8 (s.rdN r.ctx p 8 + 1)
        k (s.putBytes r.ctx none ((bytes.zip (List.range 8)).map (fun e => (0, p.add e.2, e.1))))

/-- A phase completes (R356): every team has ended, what its context sent to peers is acknowledged (log entry 44), its completion word is
incremented, and it leaves. From RETIRE on no phase of the context completes (R397). -/
def State.completePhase (s : State) (id : Nat) : Out :=
  match KMap.find? s.phases id with
  | none => .next s
  | some p =>
    let c := s.ctx p.ctx
    if p.endedTeams ≠ p.teams ∨ !(c.st == .active || c.st == .stopped || c.st == .halted) ∨ c.retiring ∨
        s.peerWrites.any (fun w => w.2.ctx == p.ctx) then .next s
    else
      s.compWord p.record (fun s1 => .next { s1 with
        phases := KMap.erase s1.phases id
        fc := { s1.fc with
          chain := if KMap.find? s1.fc.chain p.queue = some id then KMap.erase s1.fc.chain p.queue else s1.fc.chain
          lastPhase := if KMap.find? s1.fc.lastPhase p.queue = some id then KMap.erase s1.fc.lastPhase p.queue
            else s1.fc.lastPhase } })

/-- PHASE_COMPLETE (R356). -/
def execPhaseComplete (phase : Nat) (s : State) : Out := s.completePhase phase

/-- The team count: TEAMS, or derived from the size word and rounded up to whole clusters (R354 step 5). -/
def teamCount (r : Record) (sc : Sched) (size : Nat) : Nat :=
  if r.teams ≠ 0 then r.teams
  else
    let t := (size + 2 ^ r.tsh - 1) / 2 ^ r.tsh
    (t + sc.cluster - 1) / sc.cluster * sc.cluster

/-- Steps 4 to 7 of R354 for a record whose dependences hold, with the size word read (R357). -/
def State.startPhase (s : State) (q : Nat) (d : QDesc) (h : QHead) (r : Record) (scs : List Sched) (size : Nat) : Out :=
  match (scs.zip (List.range scs.length)).find? (fun e => decide (size ≤ e.1.bound)) with
  | none => .next (s.refuse q d 7)
  | some (sc, idx) =>
    if !s.stashesOk r sc then .next (s.refuse q d 6)
    else if !s.banksOk r sc then .next (s.refuse q d 9)
    else if !sc.fits || (r.teams != 0 && r.teams % sc.cluster != 0) then .next (s.refuse q d 8)
    else
      let fromRing := h.cur == 0
      let num := if fromRing then 0 else (KMap.getD s.fc.chainNum 0 q + 1) % 2 ^ 24
      let id := KMap.nextKey s.phases
      let p : Phase := {
        queue := q, ctx := r.ctx, record := r, sched := sc, schedIdx := idx, num := num, teams := teamCount r sc size, codeIa := s.codeAt r }
      let s1 := if fromRing then s.fcWrite d.ctx d.headAddr (h.head + 1) else s
      let s2 := s1.fcWrite d.ctx (d.headAddr + 16) r.next
      let s3 := if r.layer = 0xFFFF then s2 else s2.layerRequest r.ctx r.mctx r.layer
      let s4 := { s3 with
        phases := KMap.insert s3.phases id p
        fc := { s3.fc with
          held := KMap.erase s3.fc.held q
          lastPhase := KMap.insert s3.fc.lastPhase q id
          chainNum := KMap.setD s3.fc.chainNum 0 q num
          chain := if r.next = 0 then KMap.erase s3.fc.chain q else KMap.insert s3.fc.chain q id } }
      if p.teams = 0 then andThen (s4.completePhase id) (fun s => .next s.serveQueues) else .next s4.serveQueues

/-- Step 3 of R354: the size word is read, once. -/
def State.readSize (s : State) (q : Nat) (h : Held) (k : State → Nat → Out) : Out :=
  let r := h.record
  match h.size with
  | some n => k s n
  | none =>
    if r.sizeAddr = 0 then k s 0
    else
      s.fcRead r.ctx r.sizeAddr 8 (fun s c x => .next (s.fcFault q r.ctx r.sizeAddr c x))
        (fun s n => k (s.hold q { h with size := some n }) n)

/-- A page of the table of a model context, or of its entry for a layer, is waited on. -/
def State.layerHeld (s : State) (ctx m : Nat) : Bool :=
  let a := (s.ctx ctx).models + 16 * m
  m != 0xFFFF && (s.iaHeld a 16 ||
    (match s.iaRead a 16 with
     | .ok e => s.iaHeld (bitsOf e 127 64) (32 * bitsOf e 15 0)
     | .error _ => false))

/-- The last checks of the step Read (R357 codes 4 and 5, and 3 for the entries of the run). A fault of the model or layer table is one of
the context (R445). -/
def State.checkRun (s0 : State) (q : Nat) (d : QDesc) (h : Held) (k : State → Held → List Sched → Out) : Out :=
  let r := h.record
  let n := min r.schedN 8
  s0.fcRead r.ctx r.schedAddr (32 * n) (fun s _ _ => .next (s.refuse q d 4)) (fun s x =>
    let scs := schedsOf n x
    if scs.any (fun e => decide (r.codeExt ≤ e.entry)) then .next (s.refuse q d 3)
    else if r.schedN = 0 ∨ 8 < r.schedN ∨ !ascending scs then .next (s.refuse q d 4)
    else
      let s1 := if r.mctx = 0xFFFF ∨ r.layer = 0xFFFF then s else s.touchLayer r.ctx r.mctx r.layer
      if s1.layerHeld r.ctx r.mctx then .next s1
      else
      match s1.modelOk r with
      | .error (.fault c x) => .next (s1.fcFault q r.ctx 0 c x)
      | .error m => s1.fcWait r.ctx m
      | .ok false => .next (s1.refuse q d 5)
      | .ok true =>
        let h1 := { h with scheds := some scs }
        k (s1.hold q h1) h1 scs)

/-- A record that has been read goes as far through its checks and steps as it can (R354, R357). -/
def State.goOn (s0 : State) (q : Nat) (d : QDesc) (hd : QHead) (h : Held) : Out :=
  let r := h.record
  let s := s0.hold q h
  let st := (s.ctx d.ctx).st
  let start := fun (s : State) (h : Held) (scs : List Sched) =>
    s.waitWords q h (fun s h => s.readSize q h (fun s n => s.startPhase q d hd r scs n))
  if !recordOk h.addr h.raw then .next (s.refuse q d 1)
  else if r.ctx ≠ d.ctx ∨ !(st == .active || st == .stopped || st == .halted) then .next (s.refuse q d 2)
  else
    match h.scheds with
    | some scs => start s h scs
    | none => if !s.codeOk r then .next (s.refuse q d 3) else s.checkRun q d h start

/-- The Forecourt reads a record, once (R347, R357 code 1). -/
def State.takeRecord (s : State) (q : Nat) (d : QDesc) (hd : QHead) (addr : Nat) : Out :=
  s.fcRead d.ctx addr 320 (fun s _ _ => .next (s.refuse q d 1)) (fun s x => s.goOn q d hd { addr := addr, raw := x })

/-- The phases before it let the next record of a queue start (R354 step 1). -/
def State.mayStart (s : State) (q : Nat) (h : QHead) : Bool :=
  if h.cur = 0 then
    match KMap.find? s.fc.lastPhase q with
    | some id =>
      match KMap.find? s.phases id with
      | some p => p.placedTeams == p.teams
      | none => true
    | none => true
  else
    match KMap.find? s.fc.chain q with
    | some id => (KMap.find? s.phases id).isNone
    | none => true

/-- PHASE_START (R354): the head record of a queue that holds a slot goes as far through the steps as it can. Records of a STOPPED or
HALTED context wait (R377); of one that runs no more, the record is read and refused. -/
def execPhaseStart (queue : Nat) (s0 : State) : Out :=
  s0.withQueue queue (fun s d =>
    let st := (s.ctx d.ctx).st
    if !s.fc.slots.any (fun e => e.1 == queue) || s.fc.refused.contains queue || st == .stopped || st == .halted then .next s
    else
      s.fcRead d.ctx d.headAddr 24 (fun s c x => .next (s.fcFault queue d.ctx d.headAddr c x)) (fun s x =>
        let h := headOf x
        if !s.shows queue h then .next s
        else
          match KMap.find? s.fc.held queue with
          | some k => s.goOn queue d h k
          | none =>
            let slot := d.ring + 8 * (h.head % 2 ^ d.log2n)
            if st == .active && !s.mayStart queue h then .next s
            else if h.cur ≠ 0 then s.takeRecord queue d h h.cur
            else s.fcRead d.ctx slot 8 (fun s c x => .next (s.fcFault queue d.ctx slot c x)) (fun s addr => s.takeRecord queue d h addr)))

/-! ### Placement (R355, R384) -/

/-- Clusters of a phase, and those of the share of a tower. -/
def Phase.clusters (p : Phase) : Nat := p.teams / p.sched.cluster
def Phase.share (p : Phase) (tower : Nat) : Nat := (p.clusters + 7 - tower) / 8

/-- The cluster that an idle core of a tower takes next: from its own tower's share, then from the next ones. -/
def Phase.nextCluster (p : Phase) (tower : Nat) : Option Nat :=
  ((List.range 8).map (fun j => (tower + j) % 8)).findSome? (fun u =>
    let n := KMap.getD p.placed 0 u
    if n < p.share u then some (u + 8 * n) else none)

/-- A phase has teams to place. -/
def State.unplaced (s : State) (p : Phase) : Bool := (s.ctx p.ctx).st == .active && decide (p.placedTeams < p.teams)

/-- The saved teams of a phase (R384). -/
def State.savedOf (s : State) (pid : Nat) : List Image := (s.ctx (s.phase pid).ctx).images.filter (fun im => im.phase == pid)

/-- A phase waits to place teams, new ones or saved ones. -/
def State.placing (s : State) (e : Nat × Phase) : Bool :=
  let c := s.ctx e.2.ctx
  c.st == .active && !c.halting && !c.retiring && (decide (e.2.placedTeams < e.2.teams) || !(s.savedOf e.1).isEmpty)

/-- How far a queue stands behind the one served last, in the rotation of R355 (log entry 90). -/
def State.turnOf (s : State) (queue : Nat) : Nat := (queue + 2 ^ 16 - 1 - s.fc.served % 2 ^ 16) % 2 ^ 16

/-- The phase is the one to serve: no other that waits has a higher PRIO, or the same and an earlier place in the rotation (R355). -/
def State.toServe (s : State) (p : Phase) : Bool :=
  s.phases.all (fun e => !s.placing e || decide (e.2.record.prio < p.record.prio) ||
    (e.2.record.prio == p.record.prio && decide (s.turnOf p.queue ≤ s.turnOf e.2.queue)))

/-- A new group at the kernel's entry clause (R278). -/
def newGroup (tid num ctx slot : Nat) (p : Phase) : Group :=
  { team := tid, num := num, ctx := ctx, regs := p.sched.regs, quarter := num % 4, slot := slot
    entries := [{ pc := p.record.codeBase + p.sched.entry, prio := 0, mask := allLanes }] }

/-- The groups of a team that has its storage start (R278, R287). -/
def State.startGroups (s : State) (tid : Nat) (p : Phase) (slots : List Nat) : State :=
  (List.range p.sched.groups).foldl (fun s g =>
    let gid := KMap.nextKey s.groups
    (s.setGrp gid (newGroup tid g p.ctx (slots.getD g 0) p)).joinActive gid) s

/-- Place one team of a cluster on a core: its allocations are made, all zero, and its groups start (R37, R287, R355). None where the
storage is there only in fragments that cannot be gathered yet (R293). -/
def State.placeTeam (s : State) (pid cluster i core : Nat) (slots : List Nat) : Option State :=
  let p := s.phase pid
  let tid := KMap.nextKey s.teams
  let t : Team := {
    phase := pid, num := cluster * p.sched.cluster + i, cluster := cluster, cx := i % p.sched.clw, cy := i / p.sched.clw
    core := core, ctx := p.ctx, extent := s.extentOf p.sched
    ext := if p.sched.whole then some s.stk.ways else none }
  ((s.setTeam tid t).giveStorage tid 0).map (fun s => (s.makeResident core p.ctx).startGroups tid p slots)

/-- The slots given to team i of a cluster. -/
def slotsOf (slots : List Nat) (groups i : Nat) : List Nat := (slots.drop (groups * i)).take groups

/-- The cores of a district. -/
def districtCores (d : Nat) : List Nat := (List.range 6).map (fun i => 6 * d + i)

/-- The counters of a district's cores stop with its clock, and run on from where they stand (R7, R426; log entry 19). -/
def State.stopClocks (s : State) (d : Nat) : State :=
  (districtCores d).foldl (fun s c => s.modCore c (fun k => { k with clock := k.now s.cycle, clockAt := s.cycle, clockOn := false })) s
def State.startClocks (s : State) (d : Nat) : State :=
  (districtCores d).foldl (fun s c => s.modCore c (fun k => { k with clockAt := s.cycle, clockOn := true })) s

/-- A wake request for a district (R427): HOLD ends at once; DRAIN and OFF wait for the in-rush arbiter. -/
def State.wakeDistrict (s : State) (d : Nat) : State :=
  match (s.district d).st with
  | .on => s
  | .hold => (s.startClocks d).modDistrict d (fun x => { x with st := .on, since := s.now (.district d), idle := s.now (.district d) })
  | .drain => s.modDistrict d (fun x => { x with wake := true })
  | .off =>
    let t := d / 8
    let r := KMap.getD s.pwr.inrush {} t
    if r.queue.contains (d % 8) || r.ramping.any (fun e => e.1 == d % 8) then s
    else { s with pwr := { s.pwr with inrush := KMap.setD s.pwr.inrush {} t { r with queue := r.queue ++ [d % 8] } } }

/-- The cores that a placement needs are in districts that are on; the others are asked to wake. -/
def State.wakeAll (s : State) (cores : List Nat) : State := cores.foldl (fun s c => s.wakeDistrict (districtOf c)) s
def State.allOn (s : State) (cores : List Nat) : Bool := cores.all (fun c => (s.district (districtOf c)).st == .on)

/-- The image of a team differs from what the device wrote (R383). -/
def State.imageChanged (s : State) (ctx : Nat) (im : Image) : Except Miss Bool :=
  match s.iaBytes .load im.addr im.bytes.length with
  | .ok l => .ok (l.map (fun p => if bitOf (s.ctx ctx).flags 0 then s.rd ctx p else s.mem.get p.key) != im.bytes)
  | .error m => .error m

/-- Give a saved team a place on a core; none where its storage cannot be gathered yet (R293). -/
def State.seatTeam (s : State) (ctx core tid : Nat) (im : Image) : Option State :=
  let s0 := s.modCtx ctx (fun c => { c with images := c.images.filter (fun x => x.place != im.place) })
  ((s0.setTeam tid { im.team with core := core, place := [], tileAt := [], accAt := [] }).giveStorage tid 0).map (fun s =>
    s.makeResident core ctx)

/-- Restore a saved team that has its place (R383, R384): its groups start again at their saved entry PCs. -/
def State.restoreTeam (s1 : State) (tid : Nat) (slots : List Nat) (im : Image) : State :=
  let s2 := { s1 with mem := im.scratch.foldl (fun (m : Memory) (e : Nat × Byte) => m.set (memKey (spTeam tid) e.1) e.2) s1.mem }
  let gids := (List.range im.groups.length).map (fun i => KMap.nextKey s2.groups + i)
  let back := im.groups.zip gids
  -- arrivals at barriers name groups by their new identifiers
  let ren := fun (x : Nat) =>
    match back.find? (fun e => e.1.1 == x) with
    | some e => e.2
    | none => x
  let s3 := s2.modTeam tid (fun t => { t with bars := t.bars.map (fun (b : Nat × Bar) => (b.1, { b.2 with arrived := b.2.arrived.map ren })) })
  let s4 := s3.modPhase im.phase (fun p => { p with bars := p.bars.map (fun (b : Nat × Bar) => (b.1, { b.2 with arrived := b.2.arrived.map ren })) })
  back.foldl (fun s e =>
    (s.setGrp e.2 { e.1.2 with team := tid, quarter := e.1.2.num % 4, slot := slots.getD e.1.2.num 0 }).joinActive e.2) s4

/-- A saved team is placed on a core, where it fits: its image is read, and one that was changed is the context fault PARAM_BLOCK. A page of
it that is not present holds the placement, and a fault of the read is one of the context (R383, R445). -/
def State.placeSaved (s0 : State) (p : Phase) (im : Image) (core : Nat) (slots : List Nat) : Out :=
  let s := s0.iaTouch im.addr im.bytes.length
  let tid := KMap.nextKey s.teams
  if s.iaHeld im.addr im.bytes.length then .next s
  else
  match s.imageChanged p.ctx im with
  | .error (.fault c d) => .next (s.contextFault p.ctx { cause := c, core := core, team := im.team.num, addr := im.addr, detail := d })
  | .error m => s.fcWait p.ctx m
  | .ok true => .next (s.contextFault p.ctx { cause := 6, core := core, team := im.team.num })
  | .ok false =>
    match s.seatTeam p.ctx core tid im with
    | some s1 => .next { (s1.restoreTeam tid slots im) with fc := { s1.fc with served := p.queue } }
    | none => .next s

/-- The next cluster of a phase is placed whole on cores of a tower, where every team of it fits (R293, R355). -/
def State.placeCluster (s : State) (pid tower : Nat) (p : Phase) (cores slots : List Nat) : Out :=
  match p.nextCluster tower with
  | none => .next s
  | some c =>
    let idx := List.range cores.length
    let s1 := s.modPhase pid (fun p => { p with
      placed := KMap.setD p.placed 0 (c % 8) (KMap.getD p.placed 0 (c % 8) + 1)
      placedTeams := p.placedTeams + p.sched.cluster })
    if idx.all (fun i => s.coreFits (cores.getD i 0) p.ctx p.sched (slotsOf slots p.sched.groups i)) then
      match idx.foldl (fun (o : Option State) i =>
          o.bind (fun s => s.placeTeam pid c i (cores.getD i 0) (slotsOf slots p.sched.groups i))) (some s1) with
      | some s2 => .next { s2 with fc := { s2.fc with served := p.queue } }
      | none => .next s
    else .next s

/-- TEAM_PLACEMENT (R355, R384): of the phases that wait, the one to serve places its saved teams first, one at a time, and else its next
cluster. Districts that are not on are asked to wake. -/
def execTeamPlacement (phase tower : Nat) (cores slots : List Nat) (s : State) : Out :=
  match KMap.find? s.phases phase with
  | none => .next s
  | some p =>
    if !s.placing (phase, p) || !s.toServe p then .next s
    else
      match s.savedOf phase, cores with
      | im :: _, [core] =>
        if !s.allOn cores then .next (s.wakeAll cores)
        else if s.coreFits core p.ctx p.sched slots then s.placeSaved p im core slots
        else .next s
      | _ :: _, _ => .next s
      | [], _ =>
        if decide (cores.length ≠ p.sched.cluster) || cores.any (fun c => towerOf c != tower) || decide (cores.eraseDups ≠ cores) then .next s
        else if !s.allOn cores then .next (s.wakeAll cores)
        else s.placeCluster phase tower p cores slots

/-! ### Migration of teams (R314) -/

/-- TEAM_MIGRATION (R314, R329): a team at strand boundaries, with nothing in flight, moves to another core. Every committed store of its old
core, which its groups may have read or acquired, is visible beyond that core first, and its stash is written back and empty. -/
def execTeamMigration (team core : Nat) (slots : List Nat) (s : State) : Out :=
  match KMap.find? s.teams team with
  | none => .next s
  | some t =>
    let sc := s.schedOf team
    let gs := s.groupsOf team
    if core = t.core || !gs.all (fun e => e.2.atBoundary && (s.opsOf e.1).isEmpty) || !(s.cmdsOf team).isEmpty then .next s
    else if !s.allOn [core] then .next (s.wakeAll [core])
    else if !s.coreFits core t.ctx sc slots then .next s
    else
      let s0 := s.recallCore t.core
      if !s0.teamDrained team || !(s0.fifo t.core).isEmpty then .next s0
      else
        let s1 := (s0.emptyStash team (fun _ => true)).modTeam team (fun t => { t with core := core, place := [], tileAt := [], accAt := [] })
        match s1.giveStorage team 0 with
        | none => .next s0
        | some s2 =>
          let s3 := s2.makeResident core t.ctx
          let s4 := { s3 with groups := s3.groups.map (fun (e : Nat × Group) =>
            if e.2.team = team then (e.1, { e.2 with active := false, range := [], slot := slots.getD e.2.num 0 }) else e) }
          .next (gs.foldl (fun s e => s.joinActive e.1) (s4.leaveCore t.core t.ctx))

/-! ### Context switches (R380, R381) -/

/-- A context has an eligible entry on a core (R281, R380). -/
def State.ctxWants (s : State) (core ctx : Nat) : Bool :=
  (s.ctx ctx).st == .active && s.groups.any (fun e => (s.team e.2.team).core == core && e.2.ctx == ctx && !e.2.ended &&
    e.2.entries.any (fun x => e.2.ready x && s.startClear e.1 x))

/-- The highest PRIO of a context's phases on a core. -/
def State.ctxPrio (s : State) (core ctx : Nat) : Nat :=
  (s.teamsOn core).foldl (fun n e => if e.2.ctx = ctx then max n (s.phase e.2.phase).record.prio else n) 0

/-- A context is the one that a core switches to (R380): it has an eligible entry, no other context that has one carries a higher PRIO, and
among equals it has waited longest. -/
def State.switchTo (s : State) (core ctx : Nat) : Bool :=
  let k := s.core core
  let same := k.resident.filter (fun c => s.ctxWants core c && s.ctxPrio core c == s.ctxPrio core ctx && k.running != some c)
  k.running != some ctx && same.head? == some ctx &&
    k.resident.all (fun c => !s.ctxWants core c || decide (s.ctxPrio core c ≤ s.ctxPrio core ctx))

/-- A context runs on a core from now on; the one before it takes its place at the end of the rotation. -/
def State.runCtx (s : State) (core ctx : Nat) : State :=
  s.modCore core (fun k => { k with
    resident := match k.running with
      | some old => if k.resident.contains old then k.resident.filter (fun c => c != old) ++ [old] else k.resident
      | none => k.resident
    running := some ctx, since := s.clock core })

/-- No other context wants the core any more: a switch that waited for sealed lanes is off, and the groups start strands again, but for those
of a context that halts. -/
def State.switchOff (s : State) (core : Nat) : State :=
  let k := s.core core
  match k.running with
  | some old =>
    if k.resident.any (fun c => s.switchTo core c) || (s.ctx old).halting ||
        !s.groups.any (fun e => (s.team e.2.team).core == core && e.2.ctx == old && e.2.preempt) then s
    else s.setPreempt core old false
  | none => s

/-- CONTEXT_SWITCH (R380, R381): a resident context takes the core. The outgoing groups start no new strand, their sealed lanes
commit, and they are pre-empted. Their V registers stay where they are, a result of a committed strand that is still in flight with them
(R43, R381; DEDUCED against R117, which speaks of what a group saves: log entry 92). -/
def execContextSwitch (core ctx : Nat) (s : State) : Out :=
  let k := s.core core
  if !s.switchTo core ctx then .next (s.switchOff core)
  else
    match k.running with
    | none => .next (s.runCtx core ctx)
    | some old =>
      if s.ctxWants core old && decide (s.clock core < k.since + 65536) then .next s
      else if s.sealedOn core old then .next (s.setPreempt core old true)
      else
        let gs := s.groups.filter (fun e => (s.team e.2.team).core == core && e.2.ctx == old)
        let s1 := gs.foldl (fun s e => s.preemptGroup e.1) (s.setPreempt core old (s.ctx old).halting)
        .next (s1.runCtx core ctx)

/-! ### STALL_ALL (R358) -/

/-- An in-flight instruction has an access to memory that is outstanding. -/
def OpKind.accesses : OpKind → Bool
  | .func _ | .acv _ _ _ _ _ _ | .mtrr _ | .fence _ _ _ | .cmd _ => false
  | _ => true

/-- Every condition of R358 holds. Accesses that are outstanding are in-flight instructions, committed stores that are not visible, and
writes that no peer has acknowledged (R374). -/
def State.allStalled (s : State) (core ctx : Nat) : Bool :=
  let gs := s.groups.filter (fun e => (s.team e.2.team).core == core && e.2.ctx == ctx && !e.2.ended)
  !gs.isEmpty &&
  gs.all (fun e => e.2.entries.all (fun x =>
    match x.wait with
    | .waita _ _ _ => true
    | .parked _ => true
    | _ => false)) &&
  !s.cmds.any (fun e => e.2.ctx == ctx && (s.team e.2.team).core == core) &&
  gs.all (fun e => (s.opsOf e.1).all (fun o => !o.2.kind.accesses)) &&
  (s.fifo core).all (fun c => c.ctx != ctx) && !s.peerWrites.any (fun w => w.2.core == some core && w.2.ctx == ctx)

/-- STALL_ALL (R358): the core sees that the conditions begin to hold, that they have held for FC_STALL cycles, or that they fail. -/
def execStallAll (core ctx : Nat) (s : State) : Out :=
  let k := s.core core
  if !s.allStalled core ctx then
    .next (s.modCore core (fun k => { k with
      stalled := KMap.erase k.stalled ctx, noticed := k.noticed.filter (fun c => c != ctx) }))
  else
    match KMap.find? k.stalled ctx with
    | none => .next (s.modCore core (fun k => { k with stalled := KMap.insert k.stalled ctx (s.clock core) }))
    | some t =>
      if s.fc.stall ≠ 0 ∧ t + s.fc.stall ≤ s.clock core ∧ !k.noticed.contains ctx then
        .next ((s.notice 1 core ctx (s.clock core - t)).modCore core (fun k => { k with noticed := ctx :: k.noticed }))
      else .next s

end Sys2Proof.Machine
end

