-- ==== Sys2Proof/Machine/Sign.lean ====
section
/-! DEFINITION. SHA-512, Ed25519 signing (RFC 8032) and X25519 (RFC 7748): what the signing unit and KEY_LOAD compute (R394,
R398, R430, R433). Bytes are naturals below 256. -/

namespace Sys2Proof.Machine.Crypto

/-- The round constants of SHA-512, word t at bits [64t+63:64t]. -/
def kTable : Nat :=
  0x6c44198c4a4758175fcb6fab3ad6faec597f299cfc657e2a4cc5d4becb3e42b6431d67c49c100d4c3c9ebe0a15c9bebc32caab7b40c7249328db77f523047d841b710b35131c471b113f9804bef90dae0a637dc5a2c898a606f067aa72176fbaf57d4f7fee6ed178eada7dd6cde0eb1ed186b8c721c0c207ca273eceea26619cc67178f2e372532bbef9a3f7b2c67915a4506cebde82bde990befffa23631e288cc702081a6439ec84c87814a1f0ab7278a5636f43172f60748f82ee5defb2fc682e6ff3d6b2b8a35b9cca4f7763e3734ed8aa4ae3418acb391c0cb3c5c95a6334b0bcb5e19b48a82748774cdf8eeb991e376c085141ab5319a4c116b8d2d0c8106aa07032bbd1b8f40e35855771202ad69906245565a910d192e819d6ef5218c76c51a30654be30c24b8b70d0f89791a81a664bbc423001a2bfe8a14cf1036492722c851482353b81c2c92e47edaee6766a0abb3c77b2a8650a73548baf63de53380d139d95b3df4d2c6dfc5ac42aed2e1b21385c26c92627b70a8546d22ffc142929670a0e6e7006ca6351e003826fd5a79147930aa725c6e00bf33da88fc2bf597fc7beef0ee4b00327c898fb213fa831c66d2db43210983e5152ee66dfab76f988da831153b55cb0a9dcbd41fbd44a7484aa6ea6e4832de92c6f592b0275240ca1cc77ac9c650fc19dc68b8cd5b5efbe4786384f25e3e49b69c19ef14ad2c19bf174cf6926949bdc06a725c7123580deb1fe3b1696b172be5d74f27b896f550c7dc3d5ffb4e2243185be4ee4b28c12835b0145706fbed807aa98a3030242ab1c5ed5da6d8118923f82a4af194f9b59f111f1b605d0193956c25bf348b538e9b5dba58189dbbcb5c0fbcfec4d3b2f7137449123ef65cd428a2f98d728ae22

/-- The initial hash value. -/
def hTable : Nat :=
  0x5be0cd19137e21791f83d9abfb41bd6b9b05688c2b3e6c1f510e527fade682d1a54ff53a5f1d36f13c6ef372fe94f82bbb67ae8584caa73b6a09e667f3bcc908

def m64 (x : Nat) : Nat := x % 2 ^ 64
def rotr (n x : Nat) : Nat := x / 2 ^ n + (x % 2 ^ n) * 2 ^ (64 - n)
def not64 (x : Nat) : Nat := 2 ^ 64 - 1 - x

/-- The message schedule, newest word first: n more words. -/
def schedule : Nat → List Nat → List Nat
  | 0, w => w
  | n + 1, w =>
    let a := w.getD 1 0
    let b := w.getD 14 0
    let s1 := rotr 19 a ^^^ rotr 61 a ^^^ (a / 2 ^ 6)
    let s0 := rotr 1 b ^^^ rotr 8 b ^^^ (b / 2 ^ 7)
    schedule n (m64 (s1 + w.getD 6 0 + s0 + w.getD 15 0) :: w)

/-- The eight working variables. -/
structure Work where
  a : Nat
  b : Nat
  c : Nat
  d : Nat
  e : Nat
  f : Nat
  g : Nat
  h : Nat

def shaRound (k w : Nat) (x : Work) : Work :=
  let s1 := rotr 14 x.e ^^^ rotr 18 x.e ^^^ rotr 41 x.e
  let ch := (x.e &&& x.f) ^^^ (not64 x.e &&& x.g)
  let t1 := x.h + s1 + ch + k + w
  let s0 := rotr 28 x.a ^^^ rotr 34 x.a ^^^ rotr 39 x.a
  let mj := (x.a &&& x.b) ^^^ (x.a &&& x.c) ^^^ (x.b &&& x.c)
  ⟨m64 (t1 + s0 + mj), x.a, x.b, x.c, m64 (x.d + t1), x.e, x.f, x.g⟩

def shaRounds : List Nat → Nat → Work → Work
  | [], _, x => x
  | w :: ws, k, x => shaRounds ws (k / 2 ^ 64) (shaRound (k % 2 ^ 64) w x)

/-- The big-endian number of bytes. -/
def ofBe (l : List Nat) : Nat := l.foldl (fun a b => a * 256 + b) 0

def words8 : Nat → List Nat → List Nat
  | 0, _ => []
  | n + 1, l => ofBe (l.take 8) :: words8 n (l.drop 8)

def shaBlock (x : Work) (blk : List Nat) : Work :=
  let w := (schedule 64 (words8 16 blk).reverse).reverse
  let y := shaRounds w kTable x
  ⟨m64 (x.a + y.a), m64 (x.b + y.b), m64 (x.c + y.c), m64 (x.d + y.d), m64 (x.e + y.e), m64 (x.f + y.f), m64 (x.g + y.g),
    m64 (x.h + y.h)⟩

def shaBlocks : Nat → List Nat → Work → Work
  | 0, _, x => x
  | n + 1, l, x => shaBlocks n (l.drop 128) (shaBlock x (l.take 128))

def be (n x : Nat) : List Nat := (Aes.leN n x).reverse

/-- SHA-512 of a list of bytes: 64 bytes. -/
def sha512 (m : List Nat) : List Nat :=
  let n := m.length
  let pad := m ++ [0x80] ++ List.replicate ((111 + 128 - n % 128) % 128) 0 ++ be 16 (8 * n)
  let i := fun t => bitsOf hTable (64 * t + 63) (64 * t)
  let x := shaBlocks (pad.length / 128) pad ⟨i 0, i 1, i 2, i 3, i 4, i 5, i 6, i 7⟩
  [x.a, x.b, x.c, x.d, x.e, x.f, x.g, x.h].flatMap (be 8)

/-! ### The curve -/

/-- The prime 2^255 - 19. -/
def p25519 : Nat := 2 ^ 255 - 19
/-- The order of the base point. -/
def ell : Nat := 2 ^ 252 + 27742317777372353535851937790883648493

def fsub (a b : Nat) : Nat := (a + p25519 - b) % p25519
def fmul (a b : Nat) : Nat := a * b % p25519
def fadd (a b : Nat) : Nat := (a + b) % p25519

/-- b to the power of the low n bits of e, modulo p. -/
def fpow : Nat → Nat → Nat → Nat
  | 0, _, _ => 1
  | n + 1, b, e =>
    let r := fpow n (fmul b b) (e / 2)
    if e % 2 = 1 then fmul b r else r

def finv (a : Nat) : Nat := fpow 255 a (p25519 - 2)

/-- The curve constant d = -121665/121666. -/
def edD : Nat := fmul (p25519 - 121665) (finv 121666)

/-- A point in extended coordinates (RFC 8032, 5.1.4). -/
structure Pt where
  x : Nat
  y : Nat
  z : Nat
  t : Nat

def ptAdd (p q : Pt) : Pt :=
  let a := fmul (fsub p.y p.x) (fsub q.y q.x)
  let b := fmul (fadd p.y p.x) (fadd q.y q.x)
  let c := fmul (fmul (fmul p.t 2) edD) q.t
  let d := fmul (fmul p.z 2) q.z
  let e := fsub b a
  let f := fsub d c
  let g := fadd d c
  let h := fadd b a
  ⟨fmul e f, fmul g h, fmul f g, fmul e h⟩

/-- The multiple of a point by the low n bits of k. -/
def ptMul : Nat → Nat → Pt → Pt
  | 0, _, _ => ⟨0, 1, 1, 0⟩
  | n + 1, k, q =>
    let r := ptMul n (k / 2) (ptAdd q q)
    if k % 2 = 1 then ptAdd q r else r

def baseX : Nat := 15112221349535400772501151409588531511454012693041857206046113283949847762202
def baseY : Nat := 46316835694926478169428394003475163141307993866256225615783033603165251855960
def basePt : Pt := ⟨baseX, baseY, 1, fmul baseX baseY⟩

def encPt (q : Pt) : List Nat :=
  let zi := finv q.z
  let x := fmul q.x zi
  let y := fmul q.y zi
  Aes.leN 32 (y + (x % 2) * 2 ^ 255)

/-- The clamped scalar of RFC 8032 and RFC 7748. -/
def clamp (k : Nat) : Nat := (k % 2 ^ 254) / 8 * 8 + 2 ^ 254

/-- The public key of a 32-byte seed. -/
def edPublic (seed : List Nat) : List Nat :=
  encPt (ptMul 256 (clamp (Aes.ofLe ((sha512 seed).take 32))) basePt)

/-- The Ed25519 signature of a message: 64 bytes. -/
def edSign (seed msg : List Nat) : List Nat :=
  let h := sha512 seed
  let a := clamp (Aes.ofLe (h.take 32))
  let pub := encPt (ptMul 256 a basePt)
  let r := Aes.ofLe (sha512 (h.drop 32 ++ msg)) % ell
  let rp := encPt (ptMul 256 r basePt)
  let k := Aes.ofLe (sha512 (rp ++ pub ++ msg)) % ell
  rp ++ Aes.leN 32 ((r + k * a) % ell)

/-- One step of the Montgomery ladder (RFC 7748). -/
def ladderStep (x1 bit : Nat) (s : Nat × Nat × Nat × Nat) : Nat × Nat × Nat × Nat :=
  let (x2, z2, x3, z3) := s
  let (x2, x3) := if bit = 1 then (x3, x2) else (x2, x3)
  let (z2, z3) := if bit = 1 then (z3, z2) else (z2, z3)
  let a := fadd x2 z2
  let aa := fmul a a
  let b := fsub x2 z2
  let bb := fmul b b
  let e := fsub aa bb
  let c := fadd x3 z3
  let d := fsub x3 z3
  let da := fmul d a
  let cb := fmul c b
  let s1 := fadd da cb
  let s2 := fsub da cb
  let nx3 := fmul s1 s1
  let nz3 := fmul x1 (fmul s2 s2)
  let nx2 := fmul aa bb
  let nz2 := fmul e (fadd aa (fmul 121665 e))
  if bit = 1 then (nx3, nz3, nx2, nz2) else (nx2, nz2, nx3, nz3)

def ladder (x1 k : Nat) : Nat → Nat × Nat × Nat × Nat → Nat × Nat × Nat × Nat
  | 0, s => s
  | n + 1, s => ladder x1 k n (ladderStep x1 (k / 2 ^ n % 2) s)

/-- X25519 of a scalar and a point, both 32 bytes. -/
def x25519 (k u : List Nat) : List Nat :=
  let x1 := Aes.ofLe u % 2 ^ 255 % p25519
  let (x2, z2, _, _) := ladder x1 (clamp (Aes.ofLe k)) 255 (1, 0, x1, 1)
  Aes.leN 32 (fmul x2 (finv z2))

/-- The X25519 public key of a 32-byte private key. -/
def xPublic (k : List Nat) : List Nat := x25519 k (Aes.leN 32 9)

end Sys2Proof.Machine.Crypto
end

