-- ==== Sys2Proof/Machine/Records.lean ====
section
/-! DEFINITION. What the device signs (R394-R398, R430-R432): signed records, roster entries and dumps of the black box. -/

namespace Sys2Proof.Machine

/-- Bytes of naturals below 256. -/
def toBytes (l : List Nat) : List Byte := l.map (BitVec.ofNat 8)
/-- Naturals of bytes. -/
def ofBytes (l : List Byte) : List Nat := l.map BitVec.toNat

/-- The private identity key as 32 bytes (R432). -/
def identitySeed : List Nat := Aes.leN 32 Config.identitySeed.toNat
/-- The private transport key as 32 bytes (R432, R433). -/
def transportKey : List Nat := Aes.leN 32 Config.transportKey.toNat
/-- DEVID: the public key of the identity key (R432). -/
def devid : List Byte := toBytes (Crypto.edPublic identitySeed)
/-- The X25519 transport public key (R431, R432). -/
def kxPub : List Byte := toBytes (Crypto.xPublic transportKey)
/-- The signature of a message under the identity key: 64 bytes (R432). -/
def signature (m : List Byte) : List Byte := toBytes (Crypto.edSign identitySeed (ofBytes m))

/-- The sticky mask of a context as MTRR reads it (R211, R392). -/
def Ctx.stickyMask (c : Ctx) : Nat := c.sticky.toNat % 2 ^ 14
/-- A meter; meters 14 and 15 read zero (R392). -/
def Ctx.meterOf (c : Ctx) (i : Nat) : Nat := if i < 14 then KMap.getD c.meters 0 i else 0

/-- The signed part of a record (R394): reason 0 is SIGN, 1 is retirement. -/
def recordBody (roster : KMap Word64) (id reason seq : Nat) (meters : List Nat) (sticky : Nat) : List Byte :=
  leBytes 24 (0x52434D4B + 2 ^ 32 * 1 + 2 ^ 48 * reason + 2 ^ 64 * seq + 2 ^ 128 * id) ++ devid ++
  (List.range 8).flatMap (fun i => leBytes 8 (KMap.getD roster 0 i).toNat) ++
  meters.flatMap (leBytes 8) ++ leBytes 8 sticky

/-- The meters as a record holds them. -/
def Ctx.meterList (c : Ctx) : List Nat := (List.range 16).map c.meterOf

/-- The signed record of a context (R394): 320 bytes. -/
def State.signedRecord (s : State) (ctx reason : Nat) : List Byte :=
  let c := s.ctx ctx
  let m := recordBody c.roster ctx reason s.aon.seq c.meterList c.stickyMask
  m ++ signature m

/-- A record or a dump takes the next SEQ (R395). -/
def State.takeSeq (s : State) : State := { s with aon := { s.aon with seq := s.aon.seq + 1 } }

/-- The roster entry (R398): 928 bytes after a nonce of 32 bytes. -/
def State.rosterEntry (s : State) (nonce : List Byte) : List Byte :=
  let up := fun i => (KMap.getD s.links {} i).st == LinkSt.up
  let mask : Nat := (List.range 24).foldl (fun n i => if up i then n + 2 ^ i else n) 0
  let peers := (List.range 24).flatMap (fun i =>
    if up i then (KMap.getD s.links {} i).peerId ++ List.replicate (32 - (KMap.getD s.links {} i).peerId.length) 0
    else List.replicate 32 0)
  let m := nonce ++ devid ++ leBytes 32 mask ++ peers
  m ++ signature m

/-- The 32 bytes of an event of the black box (R429). -/
def BbEvent.bytes (e : BbEvent) : List Byte :=
  leBytes 32 (e.eseq + 2 ^ 64 * e.code + 2 ^ 80 * (e.core % 2 ^ 16) + 2 ^ 96 * e.ctx + 2 ^ 128 * e.detail)

/-- The dump of the black box (R430): 131,200 bytes. -/
def State.dumpBytes (s : State) (seq cut : Nat) : List Byte :=
  let ev := s.aon.ring.filter (fun e => decide (e.eseq < cut))
  let m := leBytes 24 (0x4B424258 + 2 ^ 32 * ev.length + 2 ^ 64 * seq + 2 ^ 128 * cut) ++ devid ++ leBytes 8 0 ++
    ev.flatMap BbEvent.bytes ++ List.replicate (131072 - 32 * ev.length) 0
  m ++ signature m

end Sys2Proof.Machine
end

