-- ==== Sys2Proof/Machine/Contexts.lean ====
section
/-! DEFINITION. The commands of context control (R377-R384, R397, R400, R401): CREATE, HALT, RESUME, RETIRE, TEARDOWN, and the scrub of
a protected context. -/

namespace Sys2Proof.Machine

/-! ### Commands (R378, R379) -/

/-- Results of CTX_STATUS (R378). -/
def resOk : Nat := 0
def resState : Nat := 1
def resNoSpace : Nat := 2
def resAddr : Nat := 3
def resKeySlot : Nat := 4

/-- The command in progress ends with a result, and the next one may begin. -/
def State.endCommand (s : State) (result : Nat) : State :=
  { s with cc := { s.cc with queue := s.cc.queue.tail, running := false, result := result } }

/-- The command at the head of the queue, where it has not begun and has the given code: its context. -/
def State.nextCommand (s : State) (ok : Nat → Bool) : Option Nat :=
  match s.cc.queue with
  | [] => none
  | (ctx, v) :: _ => if !s.cc.running && ok (v % 16) then some ctx else none

/-- CTX_CMD_INVALID (R378): a value without a command reports STATE. -/
def execCtxCmdInvalid (s : State) : Out :=
  match s.nextCommand (fun v => v == 0 || decide (5 < v)) with
  | none => .next s
  | some _ => .next (s.endCommand resState)

/-! ### CREATE (R379, R387, R388) -/

/-- The tables down to level 3 are there for the window of a layer. -/
def State.windowOk (s : State) (d : LayerDesc) : Bool :=
  (List.range ((d.size + 16383) / 16384)).all (fun k => (s.leafPa (d.lia + 16384 * k)).isSome)

/-- A context is protected, and its key slot. -/
def Ctx.prot (c : Ctx) : Bool := bitOf c.flags 0
def Ctx.keySlot (c : Ctx) : Nat := bitsOf c.flags 13 8

/-- A key slot is held by a context or quarantined (R379, R433). -/
def State.slotHeld (s : State) (slot : Nat) : Bool :=
  s.ctxs.any (fun e => e.2.st != .free && e.2.prot && e.2.keySlot == slot) || s.aon.quarantine.any (fun e => e.2.slot == slot)

/-- First touch of the model table and the layer tables of a context (R367). -/
def State.touchTables (s : State) (ctx : Nat) : State :=
  let n := bitsOf (s.ctx ctx).nmodels 15 0
  (List.range n).foldl (fun s m =>
    match s.iaRead ((s.ctx ctx).models + 16 * m) 16 with
    | .ok e => s.iaTouch (bitsOf e 127 64) (32 * bitsOf e 15 0)
    | .error _ => s) (s.iaTouch (s.ctx ctx).models (16 * n))

/-- The context starts: meters and layers at zero, the quarantine record of a protected one, leaves and flag words of its layers. -/
def State.createCtx (s : State) (ctx : Nat) (l : List (Nat × Nat × LayerDesc)) : State :=
  let c := s.ctx ctx
  let s1 := s.setCtx ctx { c with
    st := .active, installed := 0, meters := [], sticky := 0, fault := none, halting := false, retiring := false, unknown := 0
    images := [], layers := [], frecWait := false, faultDue := false }
  let s2 := if c.prot then { s1 with aon := { s1.aon with
      quarantine := KMap.insert s1.aon.quarantine ctx ⟨c.keySlot, c.scrublist, c.scrubn, [], s1.ctxBlocks (imaged l), 0⟩ } } else s1
  let s3 := (imaged l).foldl (fun s d => s.setLeaves d.lia (some d.flash) 0 (d.size / 16384)) s2
  let new := (s3.ctxBlocks (imaged l)).filter (fun b => !s3.stk.inUse.contains b)
  let s4 := { s3 with stk := { s3.stk with inUse := s3.stk.inUse ++ new } }
  l.foldl (fun s e => s.putLayer ctx e.1 e.2.1 {}) s4

/-- CTX_CREATE (R379). A page of the tables that is not present holds the command (R368); tables that fault meet no requirement. -/
def execCtxCreate (s0 : State) : Out :=
  match s0.nextCommand (fun v => v == 1) with
  | none => .next s0
  | some ctx =>
    let c := s0.ctx ctx
    if c.st ≠ .free then .next (s0.endCommand resState)
    else if !(List.range 16).any (fun n => c.rangeV n) then .next (s0.endCommand resAddr)
    else
      let s := s0.touchTables ctx
      match s.allLayers ctx with
      | .error (.absent page code level) => .next (s.pageNotice noCore ctx page code level)
      | .error _ => .next (s.endCommand resAddr)
      | .ok l =>
        if !(imaged l).all s.windowOk then .next (s.endCommand resAddr)
        else if c.prot && s.slotHeld c.keySlot then .next (s.endCommand resKeySlot)
        else .next ((s.createCtx ctx l).endCommand resOk)

/-! ### HALT (R382, R383) -/

/-- Bytes of the image of a team (R382). -/
def imageSize (sc : Sched) (extent : Nat) : Nat :=
  4096 + sc.groups * (4096 + 256 * sc.regs) + 4096 * ((extent + 4095) / 4096) + 36864 * sc.tiles + 262144 * sc.accr

/-- The lowest image place that no saved team of the context holds. -/
def Ctx.freePlace (c : Ctx) : Option Nat :=
  (List.range (c.images.length + 1)).find? (fun n => decide (n < c.saven % 2 ^ 32) && c.images.all (fun i => i.place != n))

/-- The place for the image of a team, where one remains and the image fits the stride. -/
def State.imagePlace (s : State) (tid : Nat) : Option Nat :=
  let t := s.team tid
  let c := s.ctx t.ctx
  if imageSize (s.schedOf tid) t.extent ≤ 4096 * (c.saven / 2 ^ 32) then c.freePlace else none

/-- No lane of a team is sealed (R273). -/
def State.teamUnsealed (s : State) (tid : Nat) : Bool := (s.groupsOf tid).all (fun e => e.2.sealed == 0 || e.2.ended)

/-- A team is ready to be saved: it has no engine command, and so owns no line, its groups are pre-empted, and its in-flight
instructions and committed stores are complete (R310, R382). -/
def State.teamStill (s : State) (tid : Nat) : Bool :=
  (s.cmdsOf tid).isEmpty && s.teamUnsealed tid && s.teamDrained tid &&
    (s.groupsOf tid).all (fun e => (e.2.ended || (e.2.preempt && minus e.2.live e.2.outside == 0)) && (s.opsOf e.1).isEmpty)

/-- The halt is over: every team that is left is still, and has no place. -/
def State.haltDone (s : State) (ctx : Nat) : Bool :=
  s.teams.all (fun e => e.2.ctx != ctx || (s.teamStill e.1 && (s.imagePlace e.1).isNone))

/-- End a halt that is over (R377, R382). A context that a fault has stopped in the meantime stays STOPPED (log entry 18). -/
def State.haltEnd (s : State) (ctx : Nat) : State :=
  if s.haltDone ctx then
    let left := s.teams.any (fun e => e.2.ctx == ctx)
    let stopped := (s.ctx ctx).st != .active
    (s.modCtx ctx (fun c => { c with halting := false, st := if stopped then c.st else .halted })).endCommand
      (if stopped then resState else if left then resNoSpace else resOk)
  else s

/-- Every group of a context starts no new strand, or may again. -/
def State.holdGroups (s : State) (ctx : Nat) (on : Bool) : State :=
  { s with groups := s.groups.map (fun e => if e.2.ctx = ctx then (e.1, { e.2 with preempt := on }) else e) }

/-- The groups of a team start no new strand, or may again. -/
def State.holdTeam (s : State) (tid : Nat) (on : Bool) : State :=
  { s with groups := s.groups.map (fun e => if e.2.team = tid then (e.1, { e.2 with preempt := on }) else e) }

/-- CTX_HALT (R382): the command begins; it ends when every team is saved or cannot be. The teams run on until their engine commands have
ended. -/
def execCtxHalt (s : State) : Out :=
  match s.nextCommand (fun v => v == 2) with
  | none => .next s
  | some ctx =>
    if (s.ctx ctx).st ≠ .active then .next (s.endCommand resState)
    else
      let s1 := { s with cc := { s.cc with running := true } }
      .next ((s1.modCtx ctx (fun c => { c with halting := true })).haltEnd ctx)

/-- The bytes of an image: the first 64 as R383 lays them out, the rest as the device likes (free values). -/
def State.imageBytes (s : State) (tid size : Nat) : List Byte :=
  let t := s.team tid
  leBytes 64 (t.num + 2 ^ 64 * (s.phase t.phase).record.addr) ++
    (List.range (size - 64)).map (fun i => (Config.freeValue (s.tick + i)).truncate 8)

/-- The scratchpad of a team, and its extension, by offset. -/
def State.scratchOf (s : State) (tid : Nat) : List (Nat × Byte) :=
  (s.mem.filter (fun e => spaceOf e.1 == spTeam tid)).map (fun e => (e.1 % 2 ^ 64, e.2))

/-- Take a saved team off its core (R292, R382). -/
def State.unplaceTeam (s : State) (tid : Nat) : State :=
  let t := s.team tid
  let s1 := s.clearScratch tid
  ({ s1 with teams := KMap.erase s1.teams tid, groups := s1.groups.filter (fun e => e.2.team != tid),
             copies := s1.copies.filter (fun e => e.2.team != tid) }).leaveCore t.core t.ctx

/-- Write the image of a team and free its allocations; its stash is written back first (R329). A page of the save area that is not present holds the write; a fault of it is
one of the context (R445). -/
def State.saveTeam (s00 : State) (tid place : Nat) : Out :=
  let s := s00.emptyStash tid (fun _ => true)
  let t := s.team tid
  let c := s.ctx t.ctx
  let size := imageSize (s.schedOf tid) t.extent
  let addr := c.save + place * 4096 * (c.saven / 2 ^ 32)
  let bytes := s.imageBytes tid size
  let s0 := s.iaTouch addr size
  match s0.iaBytes .store addr size with
  | .error (.absent page code level) => .next (s0.pageNotice noCore t.ctx page code level)
  | .error (.fault x d) => .next ((s0.contextFault t.ctx { cause := x, core := t.core, team := t.num, addr := addr, detail := d }).haltEnd t.ctx)
  | .error .noSuch => .fault .noSuchPhysicalAddress
  | .error .regPage => .refused .deviceRegisterPage
  | .ok l =>
    let s1 := (s.groupsOf tid).foldl (fun s e => s.keepLive e.1) s0
    let im : Image := {
      place := place, addr := addr, bytes := bytes, phase := t.phase, team := t
      groups := (s1.groupsOf tid).map (fun e => (e.1, { e.2 with preempt := false, active := false, range := [] }))
      scratch := s1.scratchOf tid }
    let s2 := { s1.wrAll t.ctx (l.zip bytes) with tick := s1.tick + size }
    .next (((s2.modCtx t.ctx (fun c => { c with images := c.images ++ [im] })).unplaceTeam tid).haltEnd t.ctx)

/-- HALT_TEAM_SAVE (R382): a team whose commands have ended starts no new strand; once none of its lanes is sealed it is pre-empted; and
once its in-flight instructions are complete its image is written. A team without a place stays, with its groups stopped. -/
def execHaltTeamSave (team : Nat) (s : State) : Out :=
  match KMap.find? s.teams team with
  | none => .next s
  | some t =>
    if !(s.ctx t.ctx).halting then .next s
    else if !(s.cmdsOf team).isEmpty then .next (s.holdTeam team false)
    else
      let s0 := s.holdTeam team true
      if !s0.teamUnsealed team then .next s0
      else
        let s1 := ((s0.groupsOf team).foldl (fun s e => s.preemptGroup e.1) s0).recallCore t.core
        -- the team may come back on another core: what its core has committed is visible beyond it first (R384, as R314 has it)
        if !s1.teamStill team || !(s1.fifo t.core).isEmpty then .next s1
        else
          match s1.imagePlace team with
          | none => .next (s1.haltEnd t.ctx)
          | some n => s1.saveTeam team n

/-! ### The end of teams (R172, R232, R330) -/

/-- Slices of copies that never started are dropped with their team (R244). -/
def State.dropSlices (s : State) (tid : Nat) : State :=
  (s.cmdsOf tid).foldl (fun s e => s.cmdGone e.1 e.2) { s with copies := s.copies.filter (fun e => e.2.team != tid) }

/-- Commands of a team that keep it from ending: all but slices whose copy has not started (R232, R244). -/
def State.teamWorks (s : State) (tid : Nat) : Bool :=
  (s.cmdsOf tid).any (fun e => e.2.started || !(e.2.kind == .cpy || e.2.kind == .cpyl))

/-- TEAM_END (R172, R232, R330): the team's groups have ended, its commands are done, what it stored, and what others stored in its scratchpad,
is visible at device scope, and its Dirty lines are written back. When the last group has exited, slices of copies that never started are
dropped first (R244). A halt that waited for the team alone is over (R382). -/
def execTeamEnd (team : Nat) (s : State) : Out :=
  match KMap.find? s.teams team with
  | none => .next s
  | some t =>
    if (s.groupsOf team).all (fun e => e.2.ended) && !s.teamWorks team && !(s.cmdsOf team).isEmpty then .next (s.dropSlices team)
    else if !(s.groupsOf team).isEmpty || s.teamWorks team || t.stash.any (fun l => l.2 == .dirty) || !s.teamDrained team then .next s
    else
      let s1 := s.clearScratch team
      let s2 := { s1 with teams := KMap.erase s1.teams team }
      let s3 := (s2.modPhase t.phase (fun p => { p with endedTeams := p.endedTeams + 1 })).leaveCore t.core t.ctx
      .next (if (s3.ctx t.ctx).halting then s3.haltEnd t.ctx else s3)

/-! ### RESUME and RETIRE (R384, R394, R397) -/

/-- CTX_RESUME (R384). -/
def execCtxResume (s : State) : Out :=
  match s.nextCommand (fun v => v == 3) with
  | none => .next s
  | some ctx =>
    if (s.ctx ctx).st ≠ .halted then .next (s.endCommand resState)
    else .next (((s.holdGroups ctx false).modCtx ctx (fun c => { c with st := .active })).endCommand resOk)

/-- A state that RETIRE may leave (R377). -/
def CtxState.retirable (c : CtxState) : Bool := c == .active || c == .stopped || c == .halted

/-- CTX_RETIRE (R397): every group stops; the command then waits for the context's engine commands. -/
def execCtxRetire (s : State) : Out :=
  match s.nextCommand (fun v => v == 4) with
  | none => .next s
  | some ctx =>
    if !(s.ctx ctx).st.retirable then .next (s.endCommand resState)
    else
      let s1 := { s with cc := { s.cc with running := true } }
      .next ((s1.stopGroups ctx).modCtx ctx (fun c => { c with retiring := true }))

/-- The context is RETIRED, and the command ends. -/
def State.retired (s : State) (ctx : Nat) : State :=
  (s.modCtx ctx (fun c => { c with st := .retired, retiring := false })).endCommand resOk

/-- RETIREMENT_RECORD (R397): every accepted engine command has ended; the record is written at CTX_RECADDR. -/
def execRetirementRecord (ctx : Nat) (s : State) : Out :=
  if !(s.ctx ctx).retiring || s.cmds.any (fun e => e.2.ctx == ctx) then .next s
  else
    match s.iaWrite (s.ctx ctx).recaddr (s.signedRecord ctx 1) with
    | .ok s1 => .next (s1.takeSeq.retired ctx)
    | .error (.absent page code level) => .next (s.pageNotice noCore ctx page code level)
    | .error (.fault x d) => .next ((s.contextFault ctx { cause := x, addr := (s.ctx ctx).recaddr, detail := d }).retired ctx)
    | .error .noSuch => .fault .noSuchPhysicalAddress
    | .error .regPage => .refused .deviceRegisterPage

/-! ### TEARDOWN and the scrub (R400, R401) -/

/-- The teams that satisfy p go, with their groups, instructions in flight and scratchpad. -/
def State.dropTeams (s : State) (p : Team → Bool) : State :=
  let gone := (s.teams.filter (fun e => p e.2)).map (·.1)
  let gids := (s.groups.filter (fun e => gone.contains e.2.team)).map (·.1)
  let s1 := gone.foldl (fun s t => s.clearScratch t) s
  { s1 with
    ops := s1.ops.filter (fun e => !gids.contains e.2.gid)
    groups := s1.groups.filter (fun e => !gone.contains e.2.team)
    teams := s1.teams.filter (fun e => !gone.contains e.1)
    copies := s1.copies.filter (fun e => !gone.contains e.2.team) }

/-- Whatever the context holds on cores and in the Forecourt goes. -/
def State.dropWork (s : State) (ctx : Nat) : State :=
  let phases := (s.phases.filter (fun e => e.2.ctx == ctx)).map (·.1)
  let s1 := s.dropTeams (fun t => t.ctx == ctx)
  { s1 with
    phases := s1.phases.filter (fun e => e.2.ctx != ctx)
    fc := { s1.fc with
      held := s1.fc.held.filter (fun e => (recordOf e.2.addr e.2.raw).ctx != ctx)
      chain := s1.fc.chain.filter (fun e => !phases.contains e.2)
      lastPhase := s1.fc.lastPhase.filter (fun e => !phases.contains e.2) }
    cores := s1.cores.map (fun e => (e.1, { e.2 with
      resident := e.2.resident.filter (fun c => c != ctx)
      running := if e.2.running = some ctx then none else e.2.running
      room := e.2.room.filter (fun k => k / 4 != ctx)
      stalled := KMap.erase e.2.stalled ctx, noticed := e.2.noticed.filter (fun c => c != ctx) })) }

/-- Committed stores of a context wait on some core. -/
def State.ctxStores (s : State) (ctx : Nat) : List Nat := (s.commits.filter (fun e => e.2.any (fun c => c.ctx == ctx))).map (·.1)

/-- TEARDOWN clears the leaves of the layers (R387). -/
def State.clearLeaves (s : State) (l : List LayerDesc) : State :=
  l.foldl (fun s d => s.setLeaves d.lia none 0 (d.size / 16384)) s

/-- The context is FREE: its layers, ranges and records are gone. -/
def State.freeCtx (s : State) (ctx : Nat) : State :=
  s.modCtx ctx (fun c => { c with
    st := .free, fault := none, frecWait := false, faultDue := false, images := [], layers := [], unknown := 0, ranges := [] })

/-- The blocks that only this context's layers name are free again (R400, R443). -/
def State.leaveBlocks (s : State) (ctx : Nat) (blocks : List Nat) : State :=
  let kept := s.blocksBut (fun c _ _ => c == ctx)
  { s with stk := { s.stk with inUse := s.stk.inUse.filter (fun b => !blocks.contains b || kept.contains b) } }

/-- What TEARDOWN does once the tables have been looked at: the leaves go; a protected context is to be scrubbed, and any other one is
FREE at once (R387, R400). -/
def State.teardown (s : State) (ctx : Nat) : State :=
  let c := s.ctx ctx
  let l := s.imagesOf ctx
  let s1 := s.clearLeaves l
  if c.prot then
    let s2 := { s1 with
      ident := { s1.ident with keys := KMap.erase s1.ident.keys c.keySlot }
      cc := { s1.cc with scrubActive := true, scrubDone := 0 } }
    ((s2.modCtx ctx (fun c => { c with st := .scrubbing })).log 11 noCore16 ctx 0).endCommand resOk
  else (((s1.dropWork ctx).leaveBlocks ctx (s1.ctxBlocks l)).freeCtx ctx).endCommand resOk

/-- CTX_TEARDOWN (R400). It waits for the committed stores of the context, and for a page of its tables that is not present; tables that
fault are a fault of the context, and the leaves that they name stay (R368, R445; log entry 94). -/
def execCtxTeardown (s00 : State) : Out :=
  match s00.nextCommand (fun v => v == 5) with
  | none => .next s00
  | some ctx =>
    if (s00.ctx ctx).st ≠ .retired then .next (s00.endCommand resState)
    else
      if !(s00.ctxStores ctx).isEmpty then .next s00
      else
        let s := s00.touchTables ctx
        match s.allLayers ctx with
        | .error (.absent page code level) => .next (s.pageNotice noCore ctx page code level)
        | .error (.fault c d) => .next ((s.contextFault ctx { cause := c, addr := (s.ctx ctx).models, detail := d }).teardown ctx)
        | _ => .next (s.teardown ctx)

/-! ### The scrub (R400, R401) -/

/-- The units of a scrub: the cores, the listed frames and the flash blocks of its record. -/
def Quarantine.units (q : Quarantine) : Nat := q.cores.length + q.n + q.blocks.length

/-- The next unit of a scrub: zeros in what the context held on a core, or in a frame of its list, or a block erased (R400). A block that
another context's layer names, or that is retired, is not erased (R418, R443). -/
def State.scrubUnit (s : State) (ctx : Nat) (q : Quarantine) : Except Miss State :=
  let done := fun (s : State) => Except.ok { s with
    aon := { s.aon with quarantine := KMap.modify s.aon.quarantine ctx (fun q => { q with done := q.done + 1 }) }
    cc := { s.cc with scrubDone := s.cc.scrubDone + 1 } }
  if h : q.done < q.cores.length then done (s.dropTeams (fun t => t.ctx == ctx && t.core == q.cores[q.done]))
  else
    let i := q.done - q.cores.length
    if i < q.n then
      let s1 := s.iaTouch (q.list + 8 * i) 8
      match s1.iaRead (q.list + 8 * i) 8 with
      | .ok f => done (s1.zeroBytes (f / 16384 * 16384))
      | .error m => .error m
    else
      match q.blocks[i - q.n]? with
      | none => .ok s
      | some b =>
        if (s.blocksBut (fun c _ _ => c == ctx)).contains b || s.stk.flashRetired.contains b then
          done { s with stk := { s.stk with inUse := s.stk.inUse.filter (fun x => x != b ||
            (s.blocksBut (fun c _ _ => c == ctx)).contains b) } }
        else
          let s1 := { s with mem := s.mem.filter (fun e => !(spaceOf e.1 == spFlash && e.1 % 2 ^ 64 / 2 ^ 18 == b)) }
          done (s1.freeBlock ctx b)

/-- Up to n units of a scrub, and the read of the list that is not made, if one stops it. -/
def State.scrubUnits (s : State) (ctx : Nat) : Nat → State × Option Miss
  | 0 => (s, none)
  | n + 1 =>
    match KMap.find? s.aon.quarantine ctx with
    | none => (s, none)
    | some q =>
      match s.scrubUnit ctx q with
      | .ok s1 => s1.scrubUnits ctx n
      | .error m => (s, some m)

/-- A scrub goes on by n units, and then as k says. A page of the list that is not present holds it, and a fault is one of the
context (R445). -/
def State.scrubThen (s : State) (ctx n : Nat) (k : State → Out) : Out :=
  match s.scrubUnits ctx n with
  | (s1, none) => k s1
  | (s1, some (.absent page code level)) => .next (s1.pageNotice noCore ctx page code level)
  | (s1, some (.fault x d)) => .next (s1.contextFault ctx { cause := x, addr := (KMap.getD s1.aon.quarantine ⟨0, 0, 0, [], [], 0⟩ ctx).list, detail := d })
  | (_, some .noSuch) => .fault .noSuchPhysicalAddress
  | (_, some .regPage) => .refused .deviceRegisterPage

/-- SCRUB_COMPLETE (R400, R401): the units that are left are scrubbed; then everything that the context held is released, its quarantine
bit clears and it is FREE. -/
def execScrubComplete (ctx : Nat) (s : State) : Out :=
  match (s.ctx ctx).st, KMap.find? s.aon.quarantine ctx with
  | .scrubbing, some q =>
    s.scrubThen ctx (q.units - q.done) (fun s1 =>
      let s2 := (s1.dropWork ctx).freeCtx ctx
      let s3 := { s2 with
        aon := { s2.aon with quarantine := KMap.erase s2.aon.quarantine ctx }
        cc := { s2.cc with scrubActive := s2.ctxs.any (fun (e : Nat × Ctx) => e.2.st == CtxState.scrubbing) } }
      .next (s3.log 12 noCore16 ctx 0))
  | _, _ => .next s

end Sys2Proof.Machine
end

