-- ==== Sys2Proof/Machine/Power.lean ====
section
/-! DEFINITION. Current, droop, heat and power states (R419-R427). -/

namespace Sys2Proof.Machine

/-! ### Reservations (R420, R421) -/

/-- Units granted in a district. -/
def District.units (d : District) : Nat := (d.granted.map (fun e => e.2)).sum

/-- The oldest request of a district fits, and the district is not delayed (R421, R422). -/
def District.fits (d : District) : Bool :=
  match d.waiting with
  | [] => false
  | (_, n) :: _ => !d.delayed && decide (d.units + n ≤ d.budget)

/-- The other district of a district's terrace (R22). -/
def otherDistrict (d : Nat) : Nat := if d % 2 = 0 then d + 1 else d - 1

/-- Both bits of a terrace clear once the delayed district has no reservation left (R422). -/
def State.endDelay (s : State) (terrace : Nat) : State :=
  let clear := fun (s : State) (d : Nat) => s.modDistrict d (fun d => { d with delayed := false, ballast := false })
  let done := fun (d : Nat) => (s.district d).delayed && (s.district d).granted.isEmpty
  if done (2 * terrace) || done (2 * terrace + 1) then clear (clear s (2 * terrace)) (2 * terrace + 1) else s

/-- What a terrace last measured. -/
def State.terrace (s : State) (t : Nat) : Terrace := KMap.getD s.pwr.terraces {} t

/-- The other district of the terrace is lighter, and has a request that fits: it goes first (R422). -/
def State.lighterFirst (s : State) (district : Nat) : Bool :=
  let t := s.terrace (terraceOf district)
  t.percent != 0 && t.heavier == district && (s.district (otherDistrict district)).fits

/-- RESERVATION_GRANT (R421, R422): the oldest request is granted where it fits, unless the district is delayed or the lighter one of its
terrace goes first; that of an MXA which can no longer start leaves the queue. A quarter's pipe holds its reservation from the grant on. -/
def execReservationGrant (district : Nat) (s0 : State) : Out :=
  let s := s0.endDelay (terraceOf district)
  let d := s.district district
  match d.waiting with
  | [] => .next s
  | (h, n) :: rest =>
    let stale := match h with
      | .mxa id =>
        match KMap.find? s.cmds id with
        | some c => !s.mxaCan id c
        | none => true
      | _ => false
    if stale then .next (s.modDistrict district (fun d => { d with waiting := rest }))
    else if !d.fits || s.lighterFirst district then .next s
    else
      let s1 := s.modDistrict district (fun d => { d with granted := d.granted ++ [(h, n)], waiting := rest })
      match h with
      | .pipe core q => .next (s1.modCore core (fun k => { k with pipes := KMap.insert k.pipes q (s1.clock core) }))
      | _ => .next s1

/-- PIPE_IDLE_RELEASE (R420): 256 cycles of the core's counter without issue. -/
def execPipeIdleRelease (core quarter : Nat) (s : State) : Out :=
  match KMap.find? (s.core core).pipes quarter with
  | none => .next s
  | some t =>
    if s.clock core < t + 256 then .next s
    else .next ((s.release core (.pipe core quarter)).modCore core (fun k => { k with pipes := KMap.erase k.pipes quarter }))

/-! ### Balance of a terrace (R422) -/

/-- A terrace measures: the time above 10% begins anew where the imbalance was not above it, or another district is the heavier one. -/
def State.measure (s : State) (terrace heavier percent : Nat) : State :=
  let t := s.terrace terrace
  let a := 2 * terrace + heavier % 2
  let since := if 10 < t.percent ∧ t.heavier = a then t.since else s.now (.terrace terrace)
  { s with pwr := { s.pwr with terraces := KMap.setD s.pwr.terraces {} terrace ⟨a, percent, since⟩ } }

/-- TERRACE_DELAY_SET (R422): the imbalance has stayed above 10% for 4,096 cycles; the heavier district is delayed and the lighter one
ballasted. -/
def execTerraceDelaySet (terrace heavier : Nat) (s0 : State) : Out :=
  let s := s0.endDelay terrace
  let t := s.terrace terrace
  let a := 2 * terrace + heavier % 2
  let b := otherDistrict a
  if 32 ≤ terrace ∨ t.heavier ≠ a ∨ t.percent ≤ 10 ∨ s.now (.terrace terrace) < t.since + 4096 ∨ (s.district a).granted.isEmpty ∨ (s.district b).delayed then
    .next s
  else .next ((s.modDistrict a (fun d => { d with delayed := true })).modDistrict b (fun d => { d with ballast := true }))

/-- TERRACE_DELAY_CLEAR (R422): the imbalance is below 5%, or the heavier district has no reservation left. -/
def execTerraceDelayClear (terrace : Nat) (s0 : State) : Out :=
  let s := s0.endDelay terrace
  if 32 ≤ terrace ∨ 5 ≤ (s.terrace terrace).percent then .next s
  else .next ((s.modDistrict (2 * terrace) (fun d => { d with delayed := false, ballast := false })).modDistrict (2 * terrace + 1)
    (fun d => { d with delayed := false, ballast := false }))

/-! ### Droop (R423) -/

/-- Cycles of the recent injections that lie from one cycle up to another. -/
def District.injected (d : District) (a b : Nat) : Nat :=
  d.recent.foldl (fun n e => n + (min b (e.1 + e.2) - max a e.1)) 0

/-- Consecutive cycles for which injection may go on from a cycle: at most 8, and at most 8 in any 512 (R423). -/
def District.allow (d : District) (t : Nat) : Nat :=
  ((List.range 8).takeWhile (fun k => decide (d.injected (t + k + 1 - 512) (t + k + 1) + k + 1 ≤ 8))).length

/-- DROOP_DETECT (R423): injection starts, as far as its limits allow, in an open suspect window too. -/
def execDroopDetect (district : Nat) (s : State) : Out :=
  let d := s.district district
  let now := s.now (.district district)
  if 64 ≤ district ∨ d.low then .next s
  else .next (s.modDistrict district (fun d => { d with
    low := true, lowSince := now, injecting := decide (0 < d.allow now), overlap := [] }))

/-- Injection has lasted n cycles and stops. -/
def District.endInjection (d : District) (n : Nat) : District :=
  let old := d.recent.filter (fun e => decide (d.lowSince < e.1 + e.2 + 512))
  { d with injecting := false, inj := (d.inj + n) % 2 ^ 64, recent := if n = 0 then old else old ++ [(d.lowSince, n)] }

/-- The cycles that the injection of an open window has lasted where the supply was low for n cycles (R423). -/
def District.injectedFor (d : District) (n : Nat) : Nat := if d.injecting then min n (d.allow d.lowSince) else 0

/-- SUPPLY_RECOVERY (R423): the supply recovers within the limits, and no window opens; or it recovers in an open window, which ends 64 cycles
later. -/
def execSupplyRecovery (district : Nat) (s : State) : Out :=
  let d := s.district district
  let now := s.now (.district district)
  let n := now - d.lowSince
  if !d.low || (!d.suspect && decide (d.allow d.lowSince < n)) then .next s
  else .next (s.modDistrict district (fun d =>
    { d.endInjection (if d.suspect then d.injectedFor n else n) with
      low := false, lowSince := if d.suspect then now else d.lowSince, overlap := [] }))

/-- The groups on a district. -/
def State.onDistrict (s : State) (district gid : Nat) : Bool :=
  (KMap.find? s.groups gid).isSome && districtOf (s.coreOf gid) == district

/-- The started MXAs of a district. -/
def State.mxasOf (s : State) (district : Nat) : List (Nat × Cmd) :=
  s.cmds.filter (fun e => e.2.kind == .mxa && e.2.started && districtOf e.2.core == district)

/-- A group is discarded by a suspect window, and its discarded lanes wait for the window's end (R270, R423). -/
def State.suspectDiscard (s : State) (gid : Nat) : State :=
  ((s.discardGroup gid true).modGrp gid (fun g => { g with suspectHold := true })).settle gid

/-- SUSPECT_WINDOW_OPEN (R423): the droop lasts past the injection limits. The groups whose vector results the window strikes are discarded
and wait for its end; MXAs replay, those among them that have completed since the supply fell. What runs again for sealed lanes, and copy sectors, show nothing. -/
def execSuspectWindowOpen (district : Nat) (groups : List Nat) (s : State) : Out :=
  let d := s.district district
  let n := d.allow d.lowSince
  let now := s.now (.district district)
  if !d.low || d.suspect || decide (now < d.lowSince + n) then .next s
  else
    let s1 := (s.modDistrict district (fun d => { d.endInjection n with suspect := true, lowSince := now, overlap := [] })).log 4 noCore16 noCtx
      district
    let s2 := ((s1.mxasOf district).map (·.2) ++ d.overlap).foldl (fun s c => s.strike c) s1
    .next ((groups.eraseDups.filter (s2.onDistrict district)).foldl (fun s g => s.suspectDiscard g) s2)

/-- SUSPECT_WINDOW_END (R423): 64 cycles after the supply recovered the window ends, and the discarded lanes re-enter. A recovery that no
event has told of was then 64 cycles ago. -/
def execSuspectWindowEnd (district : Nat) (s : State) : Out :=
  let d := s.district district
  let now := s.now (.district district)
  if !d.suspect || decide (now < d.lowSince + 64) then .next s
  else
    let s1 := s.modDistrict district (fun d => { d.endInjection (d.injectedFor (now - 64 - d.lowSince)) with suspect := false, low := false })
    .next { s1 with groups := s1.groups.map (fun (e : Nat × Group) =>
      if s1.onDistrict district e.1 then (e.1, { e.2 with suspectHold := false }) else e) }

/-! ### Heat (R425) -/

/-- The hot bit after a reading. -/
def hotAfter (threshold celsius : Nat) (hot : Bool) : Bool :=
  if threshold ≤ celsius then true else if celsius + 5 < threshold then false else hot

/-- THERMAL_READING (R425). -/
def execThermalReading (core engine celsius : Nat) (s : State) : Out :=
  if Config.cores ≤ core ∨ 2 ≤ engine then .next s
  else
    let s0 := s.govSync core
    let k := s0.core core
    let old := if engine = 0 then k.hot0 else k.hot1
    let new := hotAfter s0.pwr.hot celsius old
    let s1 := s0.modCore core (fun k =>
      if engine = 0 then { k with temp0 := min celsius 255, hot0 := new } else { k with temp1 := min celsius 255, hot1 := new })
    if old = new then .next s1 else .next (s1.log 5 core noCtx (engine + 256 * (if new then 1 else 0)))

/-! ### Power states (R426, R427) -/

/-- Nothing of the device is on the district: no team or group, no reservation and no request. -/
def State.districtIdle (s : State) (d : Nat) : Bool :=
  (s.district d).granted.isEmpty && (s.district d).waiting.isEmpty && !s.teams.any (fun e => districtOf e.2.core == d)

/-- DISTRICT_HOLD (R426): the clock stops. -/
def execDistrictHold (district : Nat) (s : State) : Out :=
  let d := s.district district
  if d.st == .on && s.districtIdle district && s.pwr.idle != 0 && decide (d.idle + s.pwr.idle ≤ s.now (.district district)) && decide (district < 64) then
    .next ((s.stopClocks district).modDistrict district (fun d => { d with st := .hold, since := s.now (.district district) }))
  else .next s

/-- DISTRICT_DRAIN (R426). -/
def execDistrictDrain (district : Nat) (s : State) : Out :=
  let d := s.district district
  if d.st == .hold && decide (d.since + s.pwr.hold ≤ s.now (.district district)) then
    .next (s.modDistrict district (fun d => { d with st := .drain, since := s.now (.district district) }))
  else .next s

/-- DISTRICT_OFF (R426): a wake request that waited joins the in-rush queue. -/
def execDistrictOff (district : Nat) (s : State) : Out :=
  let d := s.district district
  if d.st ≠ .drain then .next s
  else
    let s1 := s.modDistrict district (fun d => { d with st := .off, since := s.now (.district district), wake := false })
    if d.wake then .next (s1.wakeDistrict district) else .next s1

/-- The in-rush arbiter of a tower. -/
def State.arbiter (s : State) (tower : Nat) : Inrush := KMap.getD s.pwr.inrush {} tower
def State.setArbiter (s : State) (tower : Nat) (r : Inrush) : State :=
  { s with pwr := { s.pwr with inrush := KMap.setD s.pwr.inrush {} tower r } }

/-- INRUSH_RAMP_START (R427). -/
def execInrushRampStart (tower : Nat) (s : State) : Out :=
  let r := s.arbiter tower
  let now := s.now (.arbiter tower)
  let ready := match r.last with
    | some t => decide (t + 350 ≤ now)
    | none => true
  match r.queue with
  | [] => .next s
  | u :: rest =>
    if ready then .next (s.setArbiter tower { r with queue := rest, ramping := r.ramping ++ [(u, now)], last := some now })
    else .next s

/-- The counters of a district's cores start again at values the spec leaves open (R7, R426; log entry 19). -/
def State.freshClocks (s : State) (d : Nat) : State :=
  (districtCores d).foldl (fun s c =>
    let s1 := { s with tick := s.tick + 1 }
    let s2 := s1.modCore c (fun k => { k with clock := (Config.freeValue s.tick).toNat, clockAt := s.cycle, clockOn := true, passes := 0 })
    s2.modCore c (fun k => { k with window := s2.clock c / 1024 })) s

/-- A wake unit of a tower that is no district goes off, or asks to wake; two requests for it make one wake (R427; log entry 95). -/
def State.unitOff (s : State) (tower unit : Nat) : State :=
  let r := s.arbiter tower
  if unit < 8 ∨ 15 ≤ unit ∨ 8 ≤ tower ∨ r.down.contains unit then s else s.setArbiter tower { r with down := r.down ++ [unit] }
def State.unitWake (s : State) (tower unit : Nat) : State :=
  let r := s.arbiter tower
  if !r.down.contains unit || r.queue.contains unit || r.ramping.any (fun e => e.1 == unit) then s
  else s.setArbiter tower { r with queue := r.queue ++ [unit] }

/-- INRUSH_RAMP_COMPLETE (R427): the unit is on. -/
def execInrushRampComplete (tower unit : Nat) (s : State) : Out :=
  let r := s.arbiter tower
  match r.ramping.find? (fun e => e.1 == unit) with
  | none => .next s
  | some (_, t) =>
    if s.now (.arbiter tower) < t + 1400 then .next s
    else
      let s1 := s.setArbiter tower { r with ramping := r.ramping.filter (fun e => e.1 != unit), down := r.down.filter (fun u => u != unit) }
      if unit < 8 then
        let d := 8 * tower + unit
        .next ((s1.freshClocks d).modDistrict d (fun x => { x with st := .on, since := s.now (.district d), idle := s.now (.district d) }))
      else .next s1

end Sys2Proof.Machine
end

