-- ==== Sys2Proof/Machine/Errors.lean ====
section
/-! DEFINITION. Soft errors and the classes of store they strike (R44, R412, R413, R428), corrected errors and the black box (R429, R430),
and keys (R433). -/

namespace Sys2Proof.Machine

/-! ### Corrected errors (R428, R429) -/

/-- The class and number of a unit, as DETAIL names it, and its core (log entry 21). -/
def unitCode : ErrUnit → Nat × Nat × Nat
  | .pipes c => (13, c, c) | .fastFile c => (1, c, c) | .hidden c => (2, c, c) | .shadow c => (3, c, c) | .scalar c => (4, c, c) | .tiles c => (5, c, c)
  | .accumulators c => (6, c, c) | .scratchpad c => (7, c, c) | .slice n => (8, n, noCore16) | .bus n => (9, n, noCore16)
  | .dram n => (10, n, noCore16) | .flash n => (11, n, noCore16) | .link n => (12, n, noCore16)

/-- DETAIL of a corrected error: address, unit number and class in bytes 16-23, count of the further errors in bytes 24-31. -/
def errDetail (unit : ErrUnit) (addr : Nat) : Nat := addr % 2 ^ 40 + 2 ^ 40 * ((unitCode unit).2.1 % 2 ^ 16) + 2 ^ 56 * (unitCode unit).1

/-- Add 1 to bytes 24-31 of the DETAIL of an event. -/
def bumpEvent (eseq : Nat) (l : List BbEvent) : List BbEvent :=
  l.map (fun e => if e.eseq = eseq then { e with detail := e.detail + 2 ^ 64 } else e)

/-- CORRECTED_ERROR (R428, R429). -/
def execCorrectedError (unit : ErrUnit) (addr : Nat) (s : State) : Out :=
  match s.aon.corrected.find? (fun e => decide (e.1 = unit) && decide (s.now .alwaysOn < e.2.1 + 65536)) with
  | some (_, _, q) =>
    .next { s with aon := { s.aon with ring := bumpEvent q s.aon.ring, second := bumpEvent q s.aon.second } }
  | none =>
    let q := s.aon.eseq
    let s1 := s.log 2 (unitCode unit).2.2 noCtx (errDetail unit addr)
    .next { s1 with aon := { s1.aon with
      corrected := (unit, s.now .alwaysOn, q) :: s1.aon.corrected.filter (fun e => decide (e.1 ≠ unit)) } }

/-! ### Uncorrectable errors (R44, R267, R428) -/

/-- Log an uncorrectable error of a unit: DETAIL names the unit and the address in it (R429, log entry 21). -/
def State.logUnit (s : State) (unit : ErrUnit) (core ctx addr : Nat) : State := s.log 3 core ctx (errDetail unit addr)

/-- The store that holds a group's V registers: the fast file while it is active and its context runs, and else the hidden tier or
a shadow bank (R42, R43). -/
def State.regUnit (s : State) (gid : Nat) : ErrUnit :=
  let core := s.coreOf gid
  if (s.core core).running != some (s.grp gid).ctx then .shadow core
  else if (s.grp gid).active then .fastFile core else .hidden core

/-- A register is poisoned in lanes, and the owning context faults (R44). -/
def State.poisonReg (s : State) (gid reg : Nat) (lanes : BitVec 64) (pc : Nat) : State :=
  (s.modGrp gid (fun g => { g with vpoison := KMap.setD g.vpoison 0 reg (KMap.getD g.vpoison 0 reg ||| lanes) })).groupFault gid 11 pc 0 0

/-- The PC of the entry that holds the lowest lane of a set; 0 without one. -/
def Group.pcOf (g : Group) (m : Mask) : Nat :=
  match lowLane m with
  | none => 0
  | some l =>
    match g.entryAt l with
    | some e => e.pc
    | none => 0

/-- REGISTER_ECC_ERROR (R44, R428): the register is poisoned in the lanes struck, and the owning context faults. -/
def execRegisterEccError (gid reg : Nat) (lanes : BitVec 64) (s : State) : Out :=
  match KMap.find? s.groups gid with
  | none => .next s
  | some g =>
    if g.regs ≤ reg ∨ lanes = 0 then .next s
    else
      .next ((s.logUnit (s.regUnit gid) (s.coreOf gid) g.ctx reg).poisonReg gid reg lanes (g.pcOf lanes))

/-- A detected error of a group without sealed lanes, or of its unsealed lanes, discards them (R270). -/
def State.errorDiscard (s : State) (gid : Nat) : State := (s.discardGroup gid true).settle gid

/-- GROUP_STATE_PARITY_ERROR (R267, R428). -/
def execGroupStateParityError (gid : Nat) (s : State) : Out :=
  match KMap.find? s.groups gid with
  | none => .next s
  | some g =>
    let s1 := s.logUnit (.scalar (s.coreOf gid)) (s.coreOf gid) g.ctx g.num
    if g.sealed ≠ 0 then .next (s1.groupFault gid 11 (g.pcOf g.sealed) 0 0) else .next (s1.errorDiscard gid)

/-- PIPELINE_ERROR (R267, R428): unsealed lanes are discarded; for sealed lanes the instruction runs again, which shows nothing. -/
def execPipelineError (gid : Nat) (s : State) : Out :=
  match KMap.find? s.groups gid with
  | none => .next s
  | some g => .next ((s.logUnit (.pipes (s.coreOf gid)) (s.coreOf gid) g.ctx g.num).errorDiscard gid)

/-- Add a number to a list that does not hold it. -/
def addNew (l : List Nat) (x : Nat) : List Nat := if l.contains x then l else l ++ [x]

/-- What an error strikes is poisoned (R414, R428): a tile, a region row, a line of scratchpad or stash, a line of DRAM, or the copy of a
line in the L2, until it is evicted. -/
def State.poisonTarget (s : State) : ErrTarget → State
  | .tile t i => s.modTeam t (fun x => { x with tiles := KMap.insert x.tiles i { KMap.getD x.tiles {} i with poisoned := true } })
  | .regionRow t r row => s.modTeam t (fun x => { x with badRows := addNew x.badRows (128 * r + row) })
  | .scratchLine t line => s.modTeam t (fun x => { x with badLines := addNew x.badLines line })
  | .dramLine line =>
    match dramKey (64 * line) with
    | some k => { s with poison := addNew s.poison (lineKey k) }
    | none => s
  | .l2Line line ia =>
    match dramKey (64 * line) with
    | some k => { s with l2bad := if s.l2bad.contains (lineKey k, ia) then s.l2bad else s.l2bad ++ [(lineKey k, ia)] }
    | none => s

/-- The home slice of a line, by its DRAM address and its intermediate address / 64 (R371). -/
def homeSlice (line ia : Nat) : Nat := 48 * (64 * line / 2 ^ 37 / 2) + ia % 48

/-- MEMORY_ECC_ERROR (R428): the tile, region row or line is poisoned, and the error is logged. -/
def execMemoryEccError (target : ErrTarget) (s : State) : Out :=
  let team := fun (t : Nat) (unit : Nat → ErrUnit) (addr : Nat) =>
    match KMap.find? s.teams t with
    | none => Host.Outcome.next s
    | some x => .next ((s.poisonTarget target).logUnit (unit x.core) x.core x.ctx addr)
  let line := fun (l : Nat) (unit : ErrUnit) (addr : Nat) =>
    match dramKey (64 * l) with
    | none => Host.Outcome.next s
    | some _ => .next ((s.poisonTarget target).logUnit unit noCore16 noCtx addr)
  match target with
  | .tile t i => team t .tiles i
  | .regionRow t r row => team t .accumulators (128 * r + row)
  | .scratchLine t l => team t .scratchpad (64 * l)
  | .dramLine l => line l (.dram (64 * l / 2 ^ 37)) (64 * l % 2 ^ 37)
  | .l2Line l ia => line l (.slice (homeSlice l ia)) (64 * ia)

/-! ### Vertical bursts (R269, R412, R413) -/

/-- The vertical buses of the package: 1,536 between slices and SRAM dies; and after them, for each core, one of its hidden tier and one of
its shadow banks (R411; DESIGN CHOICE: log entry 96). -/
def sliceBuses : Nat := 1536
def buses : Nat := sliceBuses + 2 * 384

/-- A group consumed beats of a bus that have yet to pass their check (R269). -/
def State.consumed (s : State) (bus gid : Nat) : Bool := (s.grp gid).beats.any (fun b => b.bus == bus)

/-- The bus serves the place where a group's V registers are held: the hidden tier or a shadow bank of its core (R42, R43, R411). -/
def State.busHolds (s : State) (bus gid : Nat) : Bool :=
  match s.regUnit gid with
  | .hidden core => bus == sliceBuses + 2 * core
  | .shadow core => bus == sliceBuses + 2 * core + 1
  | _ => false

/-- A line that the retirement of a slice's bus loses (R413): a dirty line of the L2 of that slice, or a line of an extension that the slice
serves; and none whose stores a FENCE `.layer` has acknowledged (R312). -/
def State.losesLine (s : State) (bus : Nat) : ErrTarget → Bool
  | .l2Line line ia => homeSlice line ia == bus / 4 && s.l2dirty.contains (line, ia) && !s.accepted.contains line
  | .scratchLine t line =>
    let x := s.team t
    (KMap.find? s.teams t).isSome && x.core == bus / 4 && decide (1048576 ≤ 64 * line) && decide (64 * line < x.extent) &&
      !s.accepted.contains (lineKey (memKey (spTeam t) (64 * line)))
  | _ => false

/-- Every V register of a group is poisoned, and the owning context faults (R44, R413). -/
def State.poisonRegs (s : State) (gid : Nat) : State :=
  (s.modGrp gid (fun g => { g with vpoison := (List.range g.regs).map (fun r => (r, allLanes)) })).groupFault gid 11
    ((s.grp gid).pcOf (s.grp gid).live) 0 0

/-- What is lost with the ways, or the registers, that a retired bus served (R413): the dirty lines and the lines of an extension that stood
in the ways are poisoned; and where the bus serves the hidden tier or a shadow bank, so are the V registers held there. Which lines stood
in the ways the event names (DESIGN CHOICE: log entry 64). -/
def State.loseBus (s : State) (bus : Nat) (lost : List ErrTarget) : State :=
  if bus < sliceBuses then
    (lost.filter (s.losesLine bus)).foldl (fun s t =>
      match t with
      | .l2Line line ia =>
        let s1 := s.poisonTarget (.dramLine line)
        { s1 with l2dirty := s1.l2dirty.filter (fun l => l != (line, ia)) }
      | t => s.poisonTarget t) s
  else (s.groups.filter (fun e => !e.2.ended && s.busHolds bus e.1)).foldl (fun s e => s.poisonRegs e.1) s

/-- BURST_CHECK_FAIL (R269, R412, R413): the unsealed lanes of the groups that consumed beats of the burst are discarded; and the burst is
transient, takes a spare wire, or retires what the bus serves. -/
def execBurstCheckFail (bus : Nat) (groups : List Nat) (result : BurstResult) (s : State) : Out :=
  let used := KMap.getD s.stk.spares 0 bus
  let ok := match result with
    | .transient => true
    | .spare => decide (used < 8)
    | .retire _ => used == 8
  if !ok || decide (buses ≤ bus) || s.stk.retired.contains bus then .next s
  else
    let s1 := (groups.eraseDups.filter (s.consumed bus)).foldl (fun s g => s.errorDiscard g) s
    match result with
    | .transient => .next (s1.log 13 noCore16 noCtx bus)
    | .spare => .next ({ s1 with stk := { s1.stk with spares := KMap.setD s1.stk.spares 0 bus (used + 1) } }.log 6 noCore16 noCtx bus)
    | .retire lost =>
      .next (({ s1 with stk := { s1.stk with retired := s1.stk.retired ++ [bus] } }.loseBus bus lost).log 7 noCore16 noCtx bus)

/-! ### Keys (R433) -/

/-- KEY_STATUS after a load. -/
def keyOk : Nat := 0
def keyUnwrap : Nat := 1
def keySlotBad : Nat := 2

/-- The wrapping key of a blob's ephemeral public key. -/
def wrapKey (e : List Nat) : List Nat := (Crypto.sha512 (Crypto.x25519 transportKey e ++ ofBytes devid)).take 32

/-- What a key blob does: the result, and the key it loads into which slot. -/
def State.openBlob (s : State) (b : Nat) : Nat × Option (Nat × Nat) :=
  let bytes := ofBytes (leBytes 128 b)
  let slot := bytes.headD 0
  if (bytes.drop 1).take 23 ≠ List.replicate 23 0 then (keyUnwrap, none)
  else if 64 ≤ slot ∨ s.slotHeld slot then (keySlotBad, none)
  else
    match Aes.unwrap (wrapKey ((bytes.drop 24).take 32)) 8 (bytes.drop 56) with
    | none => (keyUnwrap, none)
    | some k => (keyOk, some (slot, Aes.ofLe k))

/-- KEY_LOAD (R431, R433): the load begins, and KEY_STATUS shows BUSY. An address that is no multiple of 64 is ignored, and so is a write
while a load is in progress (log entry 22). -/
def execKeyLoad (value : BitVec 64) (s : State) : Out :=
  if value.toNat % 64 ≠ 0 ∨ s.ident.keyLoad.isSome then .next s
  else .next { s with ident := { s.ident with keyLoad := some value.toNat } }

/-- The load in progress ends (R433). A page of the blob that is not present holds it; a blob that cannot be read otherwise reports UNWRAP
(log entry 22). -/
def State.keyLoaded (s0 : State) : State :=
  match s0.ident.keyLoad with
  | none => s0
  | some a =>
    let s := s0.iaTouch a 128
    let put := fun (st : State) (r : Nat) => { st with ident := { st.ident with keyStatus := r, keyLoad := none } }
    match s.iaRead a 128 with
    | .error (.absent page code level) => s.pageNotice noCore noCtx page code level
    | .error _ => put s keyUnwrap
    | .ok b =>
      match s.openBlob b with
      | (r, none) => put s r
      | (r, some (slot, key)) => put { s with ident := { s.ident with keys := KMap.insert s.ident.keys slot key } } r

/-! ### The black box (R430) -/

/-- A dump begins: CUT is ESEQ, and it takes the next SEQ. -/
def State.startDump (s : State) (addr : Nat) : State :=
  { s with aon := { s.aon with dump := some (addr, s.aon.seq, s.aon.eseq) } }.takeSeq

/-- BB_DUMP (R430). -/
def execBbDump (value : BitVec 64) (s : State) : Out :=
  let a := value.toNat
  if a % 64 ≠ 0 then .next s
  else if s.aon.dump.isSome then .next { s with aon := { s.aon with dumpWait := s.aon.dumpWait ++ [a] } }
  else .next (s.startDump a)

/-- The dump ends: the events of the second ring enter the main ring, and the next dump begins. -/
def State.endDump (s : State) : State :=
  let s1 := { s with aon := { s.aon with
    ring := s.aon.second.foldl ringPush s.aon.ring, second := [], dump := none, dumpWait := s.aon.dumpWait.tail } }
  match s.aon.dumpWait with
  | [] => s1
  | a :: _ => s1.startDump a

/-- BB_DUMP_COMPLETE (R430): a page that is not present holds the dump, and a dump whose write faults is not written (log entry 22). -/
def execBbDumpComplete (s : State) : Out :=
  match s.aon.dump with
  | none => .next s
  | some (addr, seq, cut) =>
    match s.iaWrite addr (s.dumpBytes seq cut) with
    | .ok s1 => .next s1.endDump
    | .error (.absent page code level) => .next (s.pageNotice noCore noCtx page code level)
    | .error (.fault _ _) => .next s.endDump
    | .error .noSuch => .fault .noSuchPhysicalAddress
    | .error .regPage => .refused .deviceRegisterPage

/-- RST_REQ (R398): the roster entry is written 64 bytes after the nonce. -/
def execRstReq (value : BitVec 64) (s0 : State) : Out :=
  let a := value.toNat
  let s := s0.iaTouch a 32
  if a % 64 ≠ 0 then .next s0
  else
    match s.iaRead a 32 with
    | .error m => s.outsideMiss m
    | .ok n =>
      match s.iaWrite (a + 64) (s.rosterEntry (leBytes 32 n)) with
      | .ok s1 => .next s1
      | .error m => s.outsideMiss m

end Sys2Proof.Machine
end

