-- ==== Sys2Proof/Machine/Layers.lean ====
section
/-! DEFINITION. The flash staging cache and its layers (R389, R390, R415-R417), and the ways given to scratchpad (R408, R409). -/

namespace Sys2Proof.Machine

/-! ### The staging cache (R415) -/

/-- Pages of one DRAM site's share for a size in GB. -/
def sharePages (gb : Nat) : Nat := gb * 10 ^ 9 / 16384 / 16

/-- Pages of the staging cache. -/
def State.stagePages (s : State) : Nat := 16 * sharePages s.stk.stageSize

/-- Every layer of every context: context, key and state. -/
def State.layersAll (s : State) : List (Nat × Nat × Layer) :=
  s.ctxs.flatMap (fun c => c.2.layers.map (fun l => (c.1, l.1, l.2)))

/-- A layer is arriving, resident or evicting. -/
def State.stageBusy (s : State) : Bool := s.layersAll.any (fun e => e.2.2.st != .absent)

/-- Pages of a layer's window. -/
def State.layerPages (s : State) (ctx key : Nat) : Nat :=
  match s.layerDesc ctx (key / 65536) (key % 65536) with
  | .ok (some d) => (d.size + 16383) / 16384
  | _ => 0

/-- Pages that resident and evicting layers hold. -/
def State.pagesHeld (s : State) : Nat :=
  s.layersAll.foldl (fun n e =>
    if e.2.2.st = .resident ∨ e.2.2.st = .evicting then n + s.layerPages e.1 e.2.1 else n) 0

/-- An arriving layer fits in the staging cache as it stands. -/
def State.layerFits (s : State) (ctx key : Nat) : Bool :=
  s.stk.stageSize != 0 && decide (s.pagesHeld + s.layerPages ctx key ≤ s.stagePages)

/-- A place behind every layer that became resident before. -/
def State.nextSince (s : State) : Nat := s.layersAll.foldl (fun n e => max n (e.2.2.since + 1)) 0

/-- An install of the layer that has not met a failure is under way (R254). -/
def State.installing (s : State) (ctx model layer : Nat) : Bool :=
  s.cmds.any (fun e => e.2.kind == .inst && e.2.ctx == ctx && e.2.slot == model && insLayer e.2.block == layer && e.2.code.isNone)

/-- LAYER_ARRIVAL (R313, R389): every page is staged; the flag word is written with a release. While an install rewrites the image the
pages of the new one are not there (DEDUCED: a resident layer's bytes are those of one generation; log entry 87). -/
def execLayerArrival (ctx model layer : Nat) (s : State) : Out :=
  let x := s.layer ctx model layer
  if x.st == .arriving && s.layerFits ctx (model * 65536 + layer) && !s.installing ctx model layer then
    .next (s.putLayer ctx model layer { x with st := .resident, since := s.nextSince })
  else .next s

/-- EPRIO of a layer. -/
def State.eprio (s : State) (ctx key : Nat) : Nat :=
  match s.layerDesc ctx (key / 65536) (key % 65536) with
  | .ok (some d) => d.eprio
  | _ => 0

/-- The victim for an arriving layer (R390): resident and unpinned, of lower EPRIO, or of equal EPRIO in the same model context; the
lowest EPRIO first, then the one resident longest. -/
def State.victim (s : State) (ctx key : Nat) : Option (Nat × Nat × Layer) :=
  let e := s.eprio ctx key
  let can := s.layersAll.filter (fun v =>
    let p := s.eprio v.1 v.2.1
    v.2.2.st == .resident && v.2.2.pins == 0 &&
      (decide (p < e) || (p == e && v.1 == ctx && v.2.1 / 65536 == key / 65536)))
  can.foldl (fun best v =>
    match best with
    | none => some v
    | some b =>
      let p := s.eprio v.1 v.2.1
      let q := s.eprio b.1 b.2.1
      if p < q ∨ (p = q ∧ v.2.2.since < b.2.2.since) then some v else best) none

/-- LAYER_VICTIM_CHOICE (R390): an arriving layer that does not fit takes the place of a victim; victims go one at a time. -/
def execLayerVictimChoice (ctx model layer : Nat) (s : State) : Out :=
  let key := model * 65536 + layer
  if (s.layer ctx model layer).st != .arriving || s.stk.stageSize == 0 || s.layerFits ctx key ||
      s.layersAll.any (fun e => e.2.2.st == .evicting) then .next s
  else
    match s.victim ctx key with
    | none => .next s
    | some v => .next (s.putLayer v.1 (v.2.1 / 65536) (v.2.1 % 65536) { v.2.2 with st := .evicting })

/-- LAYER_EVICTION_COMPLETE (R389): the layer is absent, and a request that waited applies. -/
def execLayerEvictionComplete (ctx model layer : Nat) (s : State) : Out :=
  let x := s.layer ctx model layer
  if x.st ≠ .evicting then .next s
  else
    let s1 := s.putLayer ctx model layer { x with st := .absent, waiting := false }
    if x.waiting then .next (s1.layerRequest ctx model layer) else .next s1

/-! ### Flash errors (R417) -/

/-- The context whose model table names a flash page. -/
def State.pageOwner (s : State) (page : Nat) : Nat :=
  match List.find? (fun (c : Nat × Ctx) => c.2.st != .free && (s.imagesOf c.1).any (fun d =>
    decide (d.flash / 16384 ≤ page) && decide (page < (d.flash + d.size + 16383) / 16384))) s.ctxs with
  | some c => c.1
  | none => noCtx

/-- FLASH_READ_ECC_FAIL (R417, R418): the staging page is poisoned and the block retired. Its contents are never read again, so every page
of the block is poisoned with it (DEDUCED: log entry 97). -/
def execFlashReadEccFail (page : Nat) (s : State) : Out :=
  let ctx := s.pageOwner page
  let b := s.flashBlock (page / 16)
  let pages := ((List.range 16).map (fun i => 16 * b + i)).filter (fun p => !s.stk.badPages.contains p)
  let s1 := ({ s with stk := { s.stk with badPages := s.stk.badPages ++ pages } }).logUnit (.flash (page / 2 ^ 26)) noCore16 ctx
    (16384 * page % 2 ^ 40)
  .next (s1.retireBlock ctx b)

/-! ### The registers of chapter 21 (R408, R409) -/

/-- A team that asked for the whole scratchpad is placed, or an image that has yet to be restored holds an extension (R383, R409). -/
def State.extensionHeld (s : State) : Bool :=
  s.teams.any (fun e => (s.schedOf e.1).whole) ||
    s.ctxs.any (fun c => c.2.images.any (fun i => i.team.ext.isSome))

/-- STK_SCRWAYS (R408, R409). -/
def execStkScrways (value : BitVec 64) (s : State) : Out :=
  let w := value.toNat % 16
  if 8 < w ∨ s.extensionHeld ∨ s.stk.changing then .next { s with stk := { s.stk with refused := true } }
  else .next { s with stk := { s.stk with ways := w, changing := true, refused := false } }

/-- WAY_CHANGE_COMPLETE (R409). -/
def execWayChangeComplete (s : State) : Out := .next { s with stk := { s.stk with changing := false } }

/-- A share of the staging cache fits in a DRAM site from an offset on. -/
def stageOk (base gb : Nat) : Bool := decide (base + 16384 * sharePages gb ≤ Config.dramBytes)

/-- FLS_STAGEBASE (R408, R415). -/
def execFlsStagebase (value : BitVec 64) (s : State) : Out :=
  let v := value.toNat
  if v % 16384 ≠ 0 ∨ Config.dramBytes ≤ v ∨ !stageOk v s.stk.stageSize ∨ s.stageBusy then .next s
  else .next { s with stk := { s.stk with stageBase := v } }

/-- FLS_STAGESZ (R408, R415). -/
def execFlsStagesz (value : BitVec 64) (s : State) : Out :=
  let v := value.toNat % 1024
  if 512 < v ∨ !stageOk s.stk.stageBase v ∨ s.stageBusy then .next s
  else .next { s with stk := { s.stk with stageSize := v } }

end Sys2Proof.Machine
end

