-- ==== Sys2Proof/Machine/Links.lean ====
section
/-! DEFINITION. Rilvik links and routes (R373, R374, R436-R438), device reset and bring-up (R401, R402, R439, R440). -/

namespace Sys2Proof.Machine

/-! ### Links (R436, R437) -/

def State.link (s : State) (l : Nat) : Link := KMap.getD s.links {} l
def State.setLink (s : State) (l : Nat) (x : Link) : State := { s with links := KMap.setD s.links {} l x }

/-- The code of a link's state (R437). -/
def linkCode : LinkSt → Nat
  | .down => 0 | .train => 1 | .ident => 2 | .up => 3

/-- A link takes a new state: black-box event 10 and a notice of code 6 (R435). -/
def State.linkTo (s : State) (l : Nat) (x : Link) : State := (s.setLink l x).linkEvent l (linkCode x.st)

/-- Writes sent to a peer and not acknowledged when the generation advances: each may have landed or not, but none before an earlier one
that it keeps its order with (R302); each counts for its context (R374). -/
def State.loseWrites (s : State) (peer : Nat) : State :=
  let mine := s.peerWrites.filter (fun e => e.2.peer == peer)
  let s1 := mine.foldl (fun s e =>
    let waits := s.peerWrites.any (fun w => decide (w.1 < e.1) && w.2.ordered e.2)
    let s1 := if (Config.freeValue s.tick).getLsbD 0 && !waits then { s.landPeer e.2 with peerWrites := KMap.erase s.peerWrites e.1 } else s
    { s1 with tick := s1.tick + 1 }.modCtx e.2.ctx (fun c => { c with unknown := min (c.unknown + 1) (2 ^ 32 - 1) })) s
  { s1 with peerWrites := s1.peerWrites.filter (fun e => e.2.peer != peer) }

/-- Stores that a core has committed and not yet sent to the peer are lost too, and count: none of them lands (R374). -/
def State.loseCommits (s : State) (peer : Nat) : State :=
  let here : SByte → Bool := fun b => spaceOf b.loc.key == spPeer peer
  let n := fun (ctx : Nat) => ((s.commits.flatMap (fun e => e.2.filter (fun c => c.ctx == ctx))).map (fun c =>
    (peerChunks ctx none ((c.place.bytes.filter here).map (fun b => (b.lane, b.loc, b.val)))).length)).sum
  { s with
    commits := s.commits.map (fun e => (e.1, e.2.map (fun c =>
      { c with place := { c.place with bytes := c.place.bytes.filter (fun b => !here b) } })))
    ctxs := s.ctxs.map (fun e => (e.1, { e.2 with unknown := min (e.2.unknown + n e.1) (2 ^ 32 - 1) })) }

/-- The range register, with the virtual address, by which a context reaches an intermediate address; only one of those that name the peer,
where that is asked (R361). -/
def Ctx.rangeBack (c : Ctx) (ia : Nat) (peer : Option Nat) : Option (Nat × Nat) :=
  (List.range 16).findSome? (fun n =>
    let va := (ia + 2 ^ 64 - c.range n 2) % 2 ^ 64
    let named := match peer with
      | some p => bitOf (c.range n 3) 6 && bitsOf (c.range n 3) 41 32 == p
      | none => true
    if named && c.rangeOf (va / 64 * 64) == some n then some (n, va) else none)

/-- A place on a peer is cut off: the link that its line takes is not up, or the generation of the range that reaches it is stale (R373,
R438). -/
def State.cutOff (s : State) (ctx peer : Nat) (p : Loc) : Bool :=
  spaceOf p.key == spPeer peer && (!s.peerUp peer p.ia ||
    (match (s.ctx ctx).rangeBack p.ia (some peer) with
     | some (n, _) => bitsOf ((s.ctx ctx).range n 3) 63 48 != KMap.getD s.xl.peerGen 0 peer
     | none => false))

/-- DETAIL of REMOTE_UNREACHABLE at a place (R376). -/
def State.cutDetail (s : State) (ctx peer : Nat) (kind : Acc) (p : Loc) : Nat :=
  let ia := p.ia / 64 * 64
  match ((s.ctx ctx).rangeBack ia (some peer)).or ((s.ctx ctx).rangeBack ia none) with
  | some (n, va) => detailOf 5 kind n va ia peer
  | none => detailOf 5 kind 0xFF 0 ia peer

/-- The kind of access that an in-flight instruction has yet to make (R376). -/
def OpKind.acc : OpKind → Acc
  | .atom _ _ _ _ _ _ _ => .atomic
  | .tst _ _ _ _ | .acst _ _ _ | .sign _ _ _ _ _ _ => .store
  | _ => .load

/-- The first access of a group that is cut off: the address of its word, its kind and its place. -/
def State.firstCut (s : State) (gid peer : Nat) : Option (Nat × Acc × Loc) :=
  let ctx := (s.grp gid).ctx
  ((s.opsOf gid).findSome? (fun e => (e.2.kind.places.find? (s.cutOff ctx peer)).map (fun p => (e.2.pc, e.2.kind.acc, p)))).or
    ((s.grp gid).buffer.findSome? (fun q => (q.bytes.find? (fun b => s.cutOff ctx peer b.loc)).map (fun b => (q.pc, .store, b.loc))))

/-- A group with an access to the peer in flight, or with a store for it in its buffer, faults REMOTE_UNREACHABLE. What of a committed strand
is in flight is gone, and its register keeps what it holds (DEDUCED: R373 and R438 fault the access and name no result; log entry 106). -/
def State.cutGroup (s : State) (peer gid : Nat) : State :=
  let ctx := (s.grp gid).ctx
  match s.firstCut gid peer with
  | none => s
  | some (pc, kind, p) =>
    let s1 := { s with ops := s.ops.filter (fun e => !(e.2.gid == gid && e.2.committed && e.2.kind.places.any (s.cutOff ctx peer))) }
    s1.groupFault gid 9 pc (s.cutDetail ctx peer kind p) 0

/-- An engine command with bytes for the peer that it has not finished fails, and they are not sent (R231, R438). -/
def State.cutCmd (s : State) (peer id : Nat) : State :=
  match KMap.find? s.cmds id with
  | none => s
  | some c =>
    match c.staged.find? (fun b => s.cutOff c.ctx peer b.loc) with
    | none => s
    | some b =>
      let left : Cmd := { c with staged := c.staged.filter (fun b => !s.cutOff c.ctx peer b.loc) }
      ({ s with cmds := KMap.insert s.cmds id left }).cmdFail id left 9 (s.cutDetail c.ctx peer .engWrite b.loc)

/-- Remote access to a peer ends at once where it is cut off (R373, R438). -/
def State.cutPeer (s : State) (peer : Nat) : State :=
  let s1 := s.cmds.foldl (fun s e => s.cutCmd peer e.1) s
  s1.groups.foldl (fun s e => s.cutGroup peer e.1) s1

/-- The generation of a peer advances (R373, R438). -/
def State.advanceGen (s : State) (peer : Nat) : State :=
  let s1 := { s with xl := { s.xl with peerGen := KMap.setD s.xl.peerGen 0 peer ((KMap.getD s.xl.peerGen 0 peer + 1) % 2 ^ 16) } }
  (((s1.loseWrites peer).loseCommits peer).log 14 noCore16 noCtx peer).cutPeer peer

/-- A link leaves UP: it is down, and the generation of every peer whose mask names it advances (R438). -/
def State.dropLink (s : State) (l : Nat) : State :=
  (s.routes.filter (fun e => bitOf e.2 l)).foldl (fun s e => s.advanceGen e.1) (s.linkTo l {})

/-- LINK_DOWN (R437, R438): a reset or power-down of a link that is up. -/
def execLinkDown (link : Nat) (s : State) : Out :=
  if link < 24 ∧ (s.link link).st = .up then .next (s.dropLink link) else .next s

/-- A flit gets through: what fails next is another one (R436). -/
def State.flitPasses (s : State) (l : Nat) : State := s.setLink l { s.link l with fails := 0 }

/-- LINK_CRC_FAIL (R436): the flit is sent again; at the 16th failure in a row the link leaves UP. -/
def execLinkCrcFail (link : Nat) (s : State) : Out :=
  let x := s.link link
  if ¬ link < 24 ∨ x.st ≠ .up then .next s
  else if 16 ≤ x.fails + 1 then .next (s.dropLink link)
  else .next (s.setLink link { x with fails := x.fails + 1 })

/-- LINK_TRAIN_START (R437, R439): no earlier than step 5 of bring-up. -/
def execLinkTrainStart (link : Nat) (s : State) : Out :=
  if link < 24 ∧ (s.link link).st = .down ∧ 5 ≤ s.ident.devState ∧ !s.ident.fail then .next (s.linkTo link { st := .train })
  else .next s

/-- LINK_TRAIN_RESULT (R437): equalisation at 8 lanes, or at 4 when a lane is lost. -/
def execLinkTrainResult (link : Nat) (lanes : Option Nat) (s : State) : Out :=
  if (s.link link).st ≠ .train then .next s
  else
    match lanes with
    | none => .next (s.linkTo link {})
    | some n => if n = 8 ∨ n = 4 then .next (s.linkTo link { st := .ident, width := n }) else .next s

/-- LINK_IDENT_COMPLETE (R437): DEVID and link number are exchanged. -/
def execLinkIdentComplete (link peerLink : Nat) (devid : List (BitVec 8)) (s : State) : Out :=
  let x := s.link link
  if x.st ≠ .ident ∨ 32 ≤ peerLink ∨ devid.length ≠ 32 then .next s
  else .next (s.linkTo link { x with st := .up, peerLink := peerLink, peerId := devid, fails := 0 })

/-- RL_ROUTE_WRITE (R438). -/
def execRlRouteWrite (peer : Nat) (value : BitVec 64) (s : State) : Out :=
  if peer < 1024 then .next { s with routes := KMap.setD s.routes 0 peer (value.toNat % 2 ^ 24) } else .next s

/-! ### Host links (R439, R440) -/

/-- HOST_LINK_RETRY (R440): after a failure of step 4 on both links, both are trained again every 2^24 cycles, one after the other. -/
def execHostLinkRetry (link : Nat) (trained : Bool) (s : State) : Out :=
  let h := s.hw
  let due := !h.up0 && !h.up1 && decide (h.retrySince + 2 ^ 24 ≤ s.now .host)
  if !s.ident.fail || s.ident.devState != 4 || !(due || !h.tried.isEmpty) || h.tried.contains link || decide (2 ≤ link) then .next s
  else
    let h1 := { h with up0 := h.up0 || (trained && link == 0), up1 := h.up1 || (trained && link == 1) }
    .next { s with hw := if h.tried.isEmpty then { h1 with tried := [link] } else { h1 with tried := [], retrySince := s.now .host } }

/-! ### Reset (R402) -/

/-- Everything that was sent to a peer may have landed or not (R373, R374). -/
def State.loseAll (s : State) : State :=
  ((s.peerWrites.map (fun e => e.2.peer)).eraseDups).foldl (fun s p => s.loseWrites p) s

/-- A line of DRAM takes back bytes that stood in it before: dirty lines of the L2 and the stash are dropped by a reset, and which older
bytes memory holds is not said (R402): free values. -/
def State.dropLine (s : State) (line : Nat) : State :=
  match dramKey (64 * line) with
  | none => s
  | some k =>
    { s with
      mem := (List.range 64).foldl (fun m i => m.set (k + i) ((Config.freeValue (s.tick + i)).truncate 8)) s.mem
      tick := s.tick + 64 }

/-- The DRAM lines whose newest bytes stand in a Dirty line of some stash. -/
def State.dirtyStash (s : State) : List Nat :=
  s.teams.flatMap (fun e => (e.2.stash.filter (fun l => l.2 == .dirty)).filterMap (fun l =>
    (s.stashLoc e.2 l.1).bind (fun p => if spaceOf p.key = spDram then some (p.key / 64) else none)))

/-- DEVICE_RESET (R401, R402): every context ends, logged one by one; every quarantined one is to be scrubbed from its first unit. Memory,
the repair map, the flash blocks and the always-on block stay, but for the dirty lines that the reset drops: those of the stash, and
the dirty ones of the L2; after a power-on DRAM holds nothing (log entry 24). The dump in progress ends. -/
def execDeviceReset (powerOn : Bool) (s : State) : Out :=
  let s1 := s.loseAll
  let s2 := { s1 with aon := { s1.aon with
    ring := s1.aon.second.foldl ringPush s1.aon.ring, second := [], dump := none, dumpWait := [], corrected := []
    quarantine := s1.aon.quarantine.map (fun (q : Nat × Quarantine) => (q.1, { q.2 with done := 0 })) } }
  let s3 := s2.ctxs.foldl (fun s c => if c.2.st = .free then s else s.logRaw 15 noCore16 c.1 0) s2
  let s4 := ((s3.l2dirty.map (·.1) ++ s3.dirtyStash).eraseDups).foldl (fun s l => s.dropLine l) s3
  let keep := s4.mem.filter (fun e => spaceOf e.1 < 65536 && !(powerOn && spaceOf e.1 == spDram))
  .next { State.reset with
    agenda := s4.agenda, tick := s4.tick, mem := keep, poison := s4.poison
    ctxs := s4.aon.quarantine.map (fun (q : Nat × Quarantine) => (q.1, ({ st := .scrubbing } : Ctx)))
    stk := { s4.stk with ways := 0, changing := false, refused := false, stageBase := 0, stageSize := 0 }
    aon := s4.aon }

/-! ### Bring-up (R439, R440) -/

/-- What a step has done when it ends. -/
def State.stepDone (s : State) (step : Nat) : State :=
  match step with
  | 1 => s.logRaw 9 noCore16 noCtx 0
  | 2 =>
    let q := s.aon.quarantine
    let s1 := q.foldl (fun s e => s.logRaw 11 noCore16 e.1 0) s
    { s1 with cc := { s1.cc with scrubActive := !q.isEmpty, scrubDone := 0 } }
  | 4 => { s with hw := { s.hw with up0 := true, up1 := true } }
  | _ => s

/-- A step fails: FAIL and DEV_FAIL, an event once step 1 has passed; the host links are trained all the same, but for one that fails
in step 4. -/
def State.stepFail (s : State) (step cls unit : Nat) : State :=
  let s1 := { s with
    ident := { s.ident with
      fail := true, devFail := step + 2 ^ 8 * (cls % 256) + 2 ^ 16 * (unit % 2 ^ 16), limited := decide (step ≤ 3) }
    hw := { s.hw with up0 := !(step == 4 && unit == 0), up1 := !(step == 4 && unit == 1), retrySince := s.now .host } }
  if step = 1 then s1 else s1.logRaw 16 noCore16 noCtx s1.ident.devFail

/-- BRINGUP_STEP (R439, R440): the step in progress ends, and the next begins; or it fails. After a failure of step 4 on one host link the
other one may fail too. -/
def execBringupStep (failed : Option (Nat × Nat)) (s : State) : Out :=
  let n := s.ident.devState
  match failed with
  | none =>
    if s.ident.fail ∨ 6 ≤ n then .next s
    else
      let s1 := s.stepDone n
      .next { s1 with ident := { s1.ident with devState := n + 1 } }
  | some (cls, unit) =>
    if n = 0 ∨ 6 ≤ n then .next s
    else if !s.ident.fail then .next (s.stepFail n cls unit)
    else if n = 4 ∧ cls = 5 then
      .next { s with hw := { s.hw with
        up0 := s.hw.up0 && unit != 0, up1 := s.hw.up1 && unit != 1, retrySince := s.now .host } }
    else .next s

end Sys2Proof.Machine
end

