-- ==== Sys2Proof/Machine/Registers.lean ====
section
/-! DEFINITION. The device control registers of space 1 (R208, R442): one read and one write for every index, used by PRVR, PRVW, the
host window (R434) and the register events. -/

namespace Sys2Proof.Machine

/-! ### Reading -/

/-- Forecourt (R351). -/
def State.readFc (s : State) (i : Nat) : Nat :=
  match i with
  | 0x100 => s.fc.qtBase
  | 0x101 => s.fc.qtCount
  | 0x103 => quantum
  | 0x104 => s.fc.stall
  | _ => 0

/-- Translation (R363). -/
def State.readXl (s : State) (i : Nat) : Nat :=
  match i with
  | 0x180 => s.xl.ptRoot
  | 0x181 => s.xl.ctxSel
  | 0x183 => s.xl.count * 2 ^ 32 + (if s.xl.inv.isSome then 1 else 0)
  | 0x185 => s.xl.flBase
  | _ => if 0x190 ≤ i then (s.ctx s.xl.ctxSel).range ((i - 0x190) / 4) ((i - 0x190) % 4) else 0

/-- The code of a context's state (R378). -/
def ctxCode : CtxState → Nat
  | .free => 0 | .active => 1 | .stopped => 2 | .halted => 3 | .retired => 4 | .scrubbing => 5

/-- A command is in progress, or waits (R379). -/
def State.ctxBusy (s : State) : Bool := !s.cc.queue.isEmpty

/-- Context control (R378). -/
def State.readCc (s : State) (i : Nat) : Nat :=
  let c := s.ctx s.cc.sel
  match i with
  | 0x200 => s.cc.sel
  | 0x202 => (if s.ctxBusy then 2 ^ 16 else 0) + s.cc.result * 2 ^ 8 + ctxCode c.st
  | 0x203 => c.flags
  | 0x204 => c.frec
  | 0x205 => c.save
  | 0x206 => c.saven
  | 0x207 => c.models
  | 0x208 => c.nmodels
  | 0x209 => c.recaddr
  | 0x20A => c.installow
  | 0x20B => c.installed
  | 0x214 => c.scrublist
  | 0x215 => c.scrubn
  | 0x216 => (if s.cc.scrubActive then 2 ^ 63 else 0) + s.cc.scrubDone % 2 ^ 48
  | _ => if 0x20C ≤ i ∧ i ≤ 0x213 then (KMap.getD c.roster 0 (i - 0x20C)).toNat else 0

/-- Ways retired in the whole package: four for each retired bus (R411). -/
def State.retiredWays (s : State) : Nat := 4 * (s.stk.retired.filter (fun b => decide (b < sliceBuses))).length

/-- Stacked SRAM and flash (R408). -/
def State.readStk (s : State) (i : Nat) : Nat :=
  match i with
  | 0x300 => s.stk.ways
  | 0x301 => (if s.stk.changing then 1 else 0) + (if s.stk.refused then 2 else 0)
  | 0x302 => (s.stk.spares.foldl (fun n e => n + e.2) 0) * 2 ^ 32 + s.retiredWays * 2 ^ 16 + s.outOfService
  | 0x303 => s.stk.stageBase
  | 0x304 => s.stk.stageSize
  | 0x305 => s.stk.flashRetired.length * 2 ^ 32 + Config.peLimit
  | _ => 0

/-- Injection goes on: it has begun, and its limits allow this cycle (R423). -/
def District.injectingAt (d : District) (cycle : Nat) : Bool := d.injecting && decide (cycle < d.lowSince + d.allow d.lowSince)

/-- Injection cycles of a district, those of the injection in progress among them (R419). -/
def State.injections (s : State) (d : Nat) : Nat :=
  let x := s.district d
  (x.inj + (if x.injecting then min (s.now (.district d) - x.lowSince) (x.allow x.lowSince) else 0)) % 2 ^ 64

/-- The code of a power state (R427). -/
def powerCode : PowerSt → Nat
  | .on => 0 | .hold => 1 | .drain => 2 | .off => 3

/-- Power and heat (R419). -/
def State.readPwr (s : State) (i : Nat) : Nat :=
  let d := (s.endDelay (terraceOf s.pwr.dsel)).district s.pwr.dsel
  let b := fun (x : Bool) (n : Nat) => if x then 2 ^ n else 0
  match i with
  | 0x800 => s.pwr.dsel
  | 0x801 => d.budget
  | 0x802 =>
    d.units * 2 ^ 32 + min d.waiting.length 1023 * 2 ^ 16 + b (d.injectingAt (s.now (.district s.pwr.dsel))) 9 + b d.suspect 8 + b d.ballast 7 + b d.delayed 6 +
      powerCode d.st
  | 0x803 => s.injections s.pwr.dsel
  | 0x804 => s.pwr.gov
  | 0x805 => s.pwr.hold
  | 0x806 => s.pwr.idle
  | 0x807 => s.pwr.csel
  | 0x808 =>
    let k := (s.govSync s.pwr.csel).core s.pwr.csel
    k.limit * 2 ^ 16 + max k.temp0 k.temp1 * 2 ^ 8 + b k.hot1 1 + b k.hot0 0
  | 0x809 => s.pwr.hot
  | _ => 0

/-- Eight bytes of a byte string. -/
def word8 (l : List Byte) (n : Nat) : Nat := leNat ((l.drop (8 * n)).take 8)

/-- Identity, black box, notices, host window, bring-up and links (R431, R434, R435, R437). -/
def State.readId (s : State) (i : Nat) : Nat :=
  match i with
  | 0x900 => 0x0384 * 2 ^ 32 + Config.stepping.toNat * 2 ^ 24 + 1 * 2 ^ 16
  | 0x90B => s.ident.keyStatus + (if s.ident.keyLoad.isSome then 256 else 0)
  | 0x911 => if s.aon.dump.isSome then 1 else 0
  | 0x918 => s.nr.base
  | 0x919 => s.nr.log2n + (if s.nr.enable then 256 else 0)
  | 0x91A => s.nr.pos
  | 0x91B => s.nr.doneCount
  | 0x91C => s.nr.lost
  | 0x921 => s.hw.bar2
  | 0x922 => s.hw.off0
  | 0x923 => s.hw.off1
  | 0x930 => s.ident.devState + (if s.ident.fail then 128 else 0)
  | 0x931 => s.ident.devFail
  | _ =>
    if 0x901 ≤ i ∧ i ≤ 0x904 then word8 devid (i - 0x901)
    else if 0x905 ≤ i ∧ i ≤ 0x908 then word8 kxPub (i - 0x905)
    else if 0x940 ≤ i ∧ i ≤ 0x957 then
      let l := s.link (i - 0x940)
      linkCode l.st + l.width * 2 ^ 4 + l.peerLink * 2 ^ 8
    else 0

/-- The registers that still work after a failure of steps 1 to 3 (R440). -/
def failRegister (i : Nat) : Bool := i == 0x900 || (decide (0x901 ≤ i) && decide (i ≤ 0x904)) || i == 0x930 || i == 0x931

/-- Read a register of space 1; a write-only or unassigned index reads zero (R9). -/
def State.dcrRead (s : State) (i : Nat) : Nat :=
  if s.ident.limited && !failRegister i then 0
  else if i < 0x180 then s.readFc i
  else if i < 0x200 then s.readXl i
  else if i < 0x300 then s.readCc i
  else if i < 0x400 then s.readStk i
  else if i < 0x800 then KMap.getD s.xl.peerGen 0 (i - 0x400)
  else if i < 0x900 then s.readPwr i
  else if i < 0xC00 then s.readId i
  else KMap.getD s.routes 0 (i - 0xC00)

/-! ### Writing -/

/-- A value without the bits below a power of two: an address that must be a multiple of it (log entry 23). -/
def alignDown (n v : Nat) : Nat := v / n * n

/-- Forecourt (R351). -/
def State.writeFc (s : State) (i v : Nat) : Out :=
  match i with
  | 0x100 => .next { s with fc := { s.fc with qtBase := alignDown 64 v } }
  | 0x101 => .next { s with fc := { s.fc with qtCount := v % 2 ^ 16 } }
  | 0x102 => execFcBell (v % 2 ^ 16) s
  | 0x104 => .next { s with fc := { s.fc with stall := v } }
  | _ => .next s

/-- Translation (R363). -/
def State.writeXl (s : State) (i v : Nat) : Out :=
  match i with
  | 0x180 => .next { s with xl := { s.xl with ptRoot := alignDown 32768 v } }
  | 0x181 => .next { s with xl := { s.xl with ctxSel := v % 2 ^ 32 } }
  | 0x182 => execXlInv (BitVec.ofNat 64 v) s
  | 0x184 => execXlResume (BitVec.ofNat 64 v) s
  | 0x185 => .next { s with xl := { s.xl with flBase := alignDown 256 v } }
  | _ =>
    if 0x190 ≤ i ∧ i ≤ 0x1CF then execXlRangeWrite ((i - 0x190) / 4) ((i - 0x190) % 4) (BitVec.ofNat 64 v) s else .next s

/-- A register of a context after a write. -/
def Ctx.put (c : Ctx) (i v : Nat) : Ctx :=
  match i with
  | 0x203 => { c with flags := v &&& 0x3F03 }
  | 0x204 => { c with frec := alignDown 4096 v }
  | 0x205 => { c with save := alignDown 4096 v }
  | 0x206 => { c with saven := v }
  | 0x207 => { c with models := alignDown 16 v }
  | 0x208 => { c with nmodels := v % 2 ^ 16 }
  | 0x209 => { c with recaddr := alignDown 64 v }
  | 0x20A => { c with installow := v }
  | 0x214 => { c with scrublist := alignDown 8 v }
  | 0x215 => { c with scrubn := v % 2 ^ 32 }
  | _ => if 0x20C ≤ i ∧ i ≤ 0x213 then { c with roster := KMap.setD c.roster 0 (i - 0x20C) (BitVec.ofNat 64 v) } else c

/-- The quarantine record follows the scrub registers (R379). -/
def State.syncQuarantine (s : State) (ctx : Nat) : State :=
  match KMap.find? s.aon.quarantine ctx with
  | none => s
  | some q =>
    let c := s.ctx ctx
    { s with aon := { s.aon with quarantine := KMap.insert s.aon.quarantine ctx { q with list := c.scrublist, n := c.scrubn } } }

/-- The selected context takes the write in its present state (R378). -/
def writable (st : CtxState) (i : Nat) : Bool :=
  if i = 0x204 ∨ i = 0x214 ∨ i = 0x215 then st != .scrubbing else st == .free

/-- Context control (R378). -/
def State.writeCc (s : State) (i v : Nat) : Out :=
  let ctx := s.cc.sel
  match i with
  | 0x200 => .next { s with cc := { s.cc with sel := v % 2 ^ 32 } }
  | 0x201 => .next { s with cc := { s.cc with queue := s.cc.queue ++ [(ctx, v)] } }
  | 0x217 => execRstReq (BitVec.ofNat 64 v) s
  | _ =>
    if i < 0x203 ∨ 0x215 < i then .next s
    else if writable (s.ctx ctx).st i then .next ((s.modCtx ctx (fun c => c.put i v)).syncQuarantine ctx)
    else .next { s with cc := { s.cc with result := resState } }

/-- Stacked SRAM and flash (R408). -/
def State.writeStk (s : State) (i v : Nat) : Out :=
  match i with
  | 0x300 => execStkScrways (BitVec.ofNat 64 v) s
  | 0x303 => execFlsStagebase (BitVec.ofNat 64 v) s
  | 0x304 => execFlsStagesz (BitVec.ofNat 64 v) s
  | _ => .next s

/-- Power and heat (R419). A new GOV_BUDGET follows the boundaries that have passed (R424). -/
def State.writePwr (s : State) (i v : Nat) : Out :=
  let put := fun (f : Power → Power) => Host.Outcome.next ({ s with pwr := f s.pwr } : State)
  match i with
  | 0x800 => put (fun p => { p with dsel := v % 64 })
  | 0x801 => if v % 1024 < 16 then .next s else .next (s.modDistrict s.pwr.dsel (fun d => { d with budget := v % 1024 }))
  | 0x804 =>
    if v % 256 = 0 then .next s
    else
      let s1 := (List.range Config.cores).foldl (fun s c => s.govSync c) s
      .next { s1 with pwr := { s1.pwr with gov := v % 256 } }
  | 0x805 => if v < 350 ∨ 65535 < v then .next s else put (fun p => { p with hold := v })
  | 0x806 => put (fun p => { p with idle := v })
  | 0x807 => put (fun p => { p with csel := v % 512 })
  | 0x809 => if v < 60 ∨ 120 < v then .next s else put (fun p => { p with hot := v })
  | _ => .next s

/-- Keys, black box, notices and host window (R430, R431, R434, R435). -/
def State.writeId (s : State) (i v : Nat) : Out :=
  match i with
  | 0x90A => execKeyLoad (BitVec.ofNat 64 v) s
  | 0x910 => execBbDump (BitVec.ofNat 64 v) s
  | 0x918 => if v % 64 = 0 then .next { s with nr := { s.nr with base := v } } else .next s
  | 0x919 =>
    if bitOf v 8 && !(decide (4 ≤ v % 32) && decide (v % 32 ≤ 16)) then .next s
    else .next { s with nr := { s.nr with log2n := v % 32, enable := bitOf v 8 } }
  | 0x91B => .next { s with nr := { s.nr with doneCount := v } }
  | 0x921 => .next { s with hw := { s.hw with bar2 := alignDown (2 ^ 36) v } }
  | 0x922 => .next { s with hw := { s.hw with off0 := v } }
  | 0x923 => .next { s with hw := { s.hw with off1 := v } }
  | _ => .next s

/-- Write a register of space 1; read-only and unassigned indices ignore it (R9). -/
def State.dcrWrite (s : State) (i : Nat) (value : BitVec 64) : Out :=
  let v := value.toNat
  if s.ident.limited then .next s
  else if i < 0x180 then s.writeFc i v
  else if i < 0x200 then s.writeXl i v
  else if i < 0x300 then s.writeCc i v
  else if i < 0x400 then s.writeStk i v
  else if i < 0x800 then .next s
  else if i < 0x900 then s.writePwr i v
  else if i < 0xC00 then s.writeId i v
  else execRlRouteWrite (i - 0xC00) value s

/-- REGISTER_WRITE (R9). -/
def execRegisterWrite (index : Nat) (value : BitVec 64) (s : State) : Out := s.dcrWrite index value

/-! ### The host (R315, R434, R440) -/

/-- A host link is up. -/
def HostWin.up (h : HostWin) (link : Nat) : Bool := (link == 0 && h.up0) || (link == 1 && h.up1)

/-- HOST_BAR0_ACCESS (R434): the register of index i at offset 8i. -/
def execHostBar0Access (link index : Nat) (value : Option (BitVec 64)) (s : State) : Out :=
  if !s.hw.up link || decide (4096 ≤ index) then .next s
  else
    match value with
    | some v => s.dcrWrite index v
    | none => .next { s with hw := { s.hw with readData := leBytes 8 (s.dcrRead index) } }

/-- HOST_BAR2_ACCESS (R315, R434): a weak access at system scope to the IA range at BAR2_IA. A read that is not made leaves no data. -/
def execHostBar2Access (offset : Nat) (count : Nat) (data : Option (List (BitVec 8))) (s : State) : Out :=
  let n := match data with
    | some l => l.length
    | none => count
  if !(s.hw.up0 || s.hw.up1) || s.ident.limited || decide (2 ^ 36 < offset + n) then .next s
  else
    let ia := s.hw.bar2 + offset
    match data with
    | none =>
      let s1 := s.iaTouch ia n
      match s1.iaBytes .load ia n with
      | .error m => s1.outsideMiss m
      | .ok l =>
        if l.any (fun p => s1.owned p.key) then .next s1
        else
          let s2 := s1.recallAll l false
          .next { s2 with hw := { s2.hw with readData := s2.outsideRead l } }
    | some bytes =>
      let s1 := s.iaTouch ia n
      match s1.iaBytes .store ia n with
      | .error m => s1.outsideMiss m
      | .ok l => if l.any (fun p => s1.owned p.key) then .next s1 else .next (s1.outsideWrite (l.zip bytes))

end Sys2Proof.Machine
end

