-- ==== Sys2Proof/Machine/System.lean ====
section
/-! DEFINITION. System words (R208-R212): privileged registers, ERET, service requests, meters and signed records. -/

namespace Sys2Proof.Machine

/-! ### PRVR and PRVW (R208) -/

/-- The space that SUB names. -/
def FS.space1 (f : FS) : Bool := f.sub.toNat / 4 == 1

/-- The register of a privileged word, in a lane. -/
def Issue.privReg (x : Issue) (f : FS) (l : Nat) : Nat :=
  if FS.space1 f then x.s.dcrRead f.idx.toNat else x.special f.idx.toNat l

/-- PRVR. -/
def execPrvr (f : FS) (s : State) : Out :=
  lanewise (.prvr f) s { priv := true } none f.d (partTy f.sub) (FS.partBits f) (fun x l => partOf f.sub (x.privReg f l))

/-- PRVW: the lowest passing lane gives the value, as in SWR (log entry 71). The word is done before the register takes it. A half written
to a register that can only be written goes with a half of zeros, as that register reads (DESIGN CHOICE: R208 does not say what the other
half carries; log entry 105). -/
def execPrvw (f : FS) (s : State) : Out :=
  stage (.prvw f) s { priv := true } (fun x =>
    match lowLane x.pass with
    | none => x.finish x.g
    | some l =>
      let v := partSet f.sub (x.privReg f l) (x.src f.a (FS.partBits f) l)
      if FS.space1 f then
        match x.finish x.g with
        | .next s1 => s1.dcrWrite f.idx.toNat (BitVec.ofNat 64 v)
        | o => o
      else x.finish (x.g.setSpecial f.idx.toNat v))

/-! ### ERET (R209) -/

/-- Clear CAUSE in the fault record of a context (R386), after the record's own write where that waits still: a page that is not present holds the write, and a fault of it is one of the
context (R368, R445). -/
def State.clearRecord (s0 : State) (ctx : Nat) : State :=
  let s := if (s0.ctx ctx).frecWait then s0.writeFault ctx else s0
  let c := s.ctx ctx
  let gone := fun (s : State) => s.modCtx ctx (fun c => { c with fault := none, frecWait := false, faultDue := false })
  if c.frec = 0 then gone s
  else
    match s.iaWrite c.frec (leBytes 2 0) with
    | .ok t => gone t
    | .error (.absent page code level) =>
      ((s.iaTouch c.frec 2).pageNotice noCore ctx page code level).modCtx ctx (fun c => { c with
        fault := c.fault.map (fun r => { r with cause := 0 }), frecWait := true })
    | .error (.fault cause d) => (gone s).contextFault ctx { cause := cause, addr := c.frec, detail := d }
    | .error _ => gone s

/-- A context that stopped at a fault goes on: its record's CAUSE clears, and its groups re-enter (R209, R386). -/
def State.eret (s : State) (ctx : Nat) : State :=
  if (s.ctx ctx).st ≠ .stopped then s
  else
    let s1 := (s.modCtx ctx (fun c => { c with st := .active })).clearRecord ctx
    (s1.groupsOfCtx ctx).foldl (fun s e => s.settle e.1) s1

/-- ERET: the lowest passing lane names the context. -/
def execEret (f : FS) (s : State) : Out :=
  stage (.eret f) s { priv := true } (fun x =>
    match lowLane x.pass with
    | none => x.finish x.g
    | some l =>
      match x.finish x.g with
      | .next s1 => .next (s1.eret (x.src f.a 32 l))
      | o => o)

/-! ### SYSC (R210) -/

/-- Places of the service queue. -/
def servicePlaces : Nat := 1024

/-- SYSC: the request of the lowest passing lane is posted, and the entry seals; it waits while the queue is full. -/
def execSysc (f : FS) (s : State) : Out :=
  stage (.sysc f) s { memaff := true, point := true } (fun x =>
    match lowLane x.pass with
    | none => x.finish x.g
    | some l =>
      if servicePlaces ≤ x.s.service.length then x.await .sysc
      else
        let s1 := x.s.makeVisible x.gid
        let r : ServiceReq := ⟨x.ctx, x.gid, x.tid, x.g.num, f.idx.toNat, x.src f.a 64 l⟩
        x.finishS ({ s1 with service := s1.service ++ [r] }.seal x.gid x.e.mask))

/-- SERVICE_REQUEST_CONSUMED (R210, R281): a place frees, and the waiting words may issue. -/
def execServiceRequestConsumed (s : State) : Out :=
  match s.service with
  | [] => .next s
  | _ :: rest =>
    .next { s with
      service := rest
      groups := s.groups.map (fun (e : Nat × Group) => (e.1, { e.2 with entries := e.2.entries.map (fun x =>
        if x.wait = .sysc then { x with wait := .none } else x) })) }

/-! ### MTRR (R211) -/

/-- What MTRR reads of a context. -/
def Ctx.meterWord (c : Ctx) (idx : Nat) : Nat := if idx = 16 then c.stickyMask else c.meterOf idx

/-- A context that a SUB 1 word may name: neither FREE nor SCRUBBING. -/
def State.named (s : State) (ctx : Nat) : Bool := (s.ctx ctx).st != .free && (s.ctx ctx).st != .scrubbing

/-- MTRR: long-latency; the value is read at issue. -/
def execMtrr (f : FS) (s : State) : Out :=
  let other := f.sub.toNat == 1
  stage (.mtrr f) s { priv := other } (fun x =>
    let who := fun l => if other then x.src f.a 32 l else x.ctx
    if (lanesOf x.pass).any (fun l => !x.s.named (who l)) then x.fault 6 0
    else if x.pass = 0 then x.finish x.g
    else
      match (Instr.mtrr f).info with
      | none => .next s
      | some i =>
        x.finishS (x.launch i {
          gid := x.gid, pc := x.pc, flag := none, lanes := x.pass, entry := x.e.mask, dst := f.d, ty := .b64
          regs := opRegs f.d 64
          kind := .mtrr (x.vals (fun l => (x.s.ctx (who l)).meterWord f.idx.toNat)) }))

/-- MTRR_COMPLETE (R211). -/
def execMtrrComplete (op : Nat) (s : State) : Out :=
  match KMap.find? s.ops op with
  | none => .next s
  | some o =>
    match o.kind with
    | .mtrr vals =>
      let s1 := s.modGrp o.gid (fun g => (g.write o.dst o.ty 64 (vals.filter (fun e => o.lanes.getLsbD e.1))).keepResult o)
      .next ({ s1 with ops := KMap.erase s1.ops op }.settle o.gid)
    | _ => .next s

/-! ### SIGN (R212) -/

/-- SIGN: performed once for the entry. At issue to the signing unit the record takes its SEQ and its counts (R264, R396). -/
def execSign (f : FS) (s : State) : Out :=
  let other := f.sub.toNat == 1
  stage (.sign f) s { memaff := true, point := true, priv := other } (fun x =>
    match lowLane x.pass with
    | none => x.finish x.g
    | some l =>
      let a := x.src f.a 64 l
      let who := if other then x.src f.d 32 l else x.ctx
      if a % 64 ≠ 0 then x.trap .align 28
      else if !x.s.named who then (x.visible true).fault 6 0
      else
        let s0 := (x.visible true).s.touchRange x.ctx (towerOf x.team.core) .store a 320
        match s0.vaBytes x.ctx .store a 320, (Instr.sign f).info with
        | .error m, _ => s0.missOut x.gid x.e x.pass m
        | _, none => .next s
        | .ok locs, some i =>
          let c := s0.ctx who
          let o : Op := {
            gid := x.gid, pc := x.pc, flag := none, lanes := x.pass, entry := x.e.mask, once := true
            kind := .sign locs who s0.aon.seq c.meterList c.stickyMask false }
          let s1 := ({ x with s := s0 } : Issue).launch i o
          x.finishS (s1.takeSeq.seal x.gid x.e.mask))

/-- A write on its way to a peer touches one of the places. -/
def State.sentTo (s : State) (locs : List Loc) : Bool := locs.any (fun p => (s.pendingPeer p).isSome)

/-- SIGN_COMPLETE (R212, R394): the record is signed and stored behind what the group has committed; the flag clears once it is visible at
system scope, which a peer acknowledges (R374). A poisoned line faults (R414). -/
def execSignComplete (op : Nat) (s : State) : Out :=
  match KMap.find? s.ops op with
  | none => .next s
  | some o =>
    match o.kind with
    | .sign locs who seq meters sticky sent =>
      let core := s.coreOf o.gid
      if sent then
        if !s.drained core locs || s.sentTo locs then .next s
        else .next ({ s with ops := KMap.erase s.ops op }.settle o.gid)
      else if locs.any (fun p => s.owned p.key) then .next s
      else if locs.any (fun p => s.spoiled p.key) then
        .next ({ s with ops := KMap.erase s.ops op }.groupFault o.gid 10 o.pc 0 0)
      else
        let m := recordBody (s.ctx who).roster who 0 seq meters sticky
        let bytes := (locs.zip (m ++ signature m)).map (fun e => (⟨0, e.1, e.2⟩ : SByte))
        .next ((s.commitPlace o.gid ⟨o.pc, o.lanes, bytes, []⟩).modOp op (fun o => { o with
          kind := .sign locs who seq meters sticky true }))
    | _ => .next s

end Sys2Proof.Machine
end

