-- ==== Sys2Proof/Machine/Dispatch.lean ====
section
/-! DEFINITION. One arm for each instruction word and each device step: a direct call of its meaning. -/

namespace Sys2Proof.Machine

/-- The meaning of every row of the opcode table. -/
def exec (i : Instr) (s : State) : Host.Outcome State Fault Refusal :=
  match i with
  | .nop f => Sys2Proof.Machine.execNop f s
  | .bra f => Sys2Proof.Machine.execBra f s
  | .brx f => Sys2Proof.Machine.execBrx f s
  | .call f => Sys2Proof.Machine.execCall f s
  | .callx f => Sys2Proof.Machine.execCallx f s
  | .ret f => Sys2Proof.Machine.execRet f s
  | .exit f => Sys2Proof.Machine.execExit f s
  | .bnd f => Sys2Proof.Machine.execBnd f s
  | .rcv f => Sys2Proof.Machine.execRcv f s
  | .elect f => Sys2Proof.Machine.execElect f s
  | .yield f => Sys2Proof.Machine.execYield f s
  | .trap f => Sys2Proof.Machine.execTrap f s
  | .bkpt f => Sys2Proof.Machine.execBkpt f s
  | .tret f => Sys2Proof.Machine.execTret f s
  | .iadd f => Sys2Proof.Machine.execIadd f s
  | .isub f => Sys2Proof.Machine.execIsub f s
  | .iaddc f => Sys2Proof.Machine.execIaddc f s
  | .isubb f => Sys2Proof.Machine.execIsubb f s
  | .imul f => Sys2Proof.Machine.execImul f s
  | .imulh f => Sys2Proof.Machine.execImulh f s
  | .imad f => Sys2Proof.Machine.execImad f s
  | .imadw f => Sys2Proof.Machine.execImadw f s
  | .iabs f => Sys2Proof.Machine.execIabs f s
  | .ineg f => Sys2Proof.Machine.execIneg f s
  | .imin f => Sys2Proof.Machine.execImin f s
  | .imax f => Sys2Proof.Machine.execImax f s
  | .isad f => Sys2Proof.Machine.execIsad f s
  | .shl f => Sys2Proof.Machine.execShl f s
  | .shr f => Sys2Proof.Machine.execShr f s
  | .sha f => Sys2Proof.Machine.execSha f s
  | .rot f => Sys2Proof.Machine.execRot f s
  | .andw f => Sys2Proof.Machine.execAndw f s
  | .orw f => Sys2Proof.Machine.execOrw f s
  | .xorw f => Sys2Proof.Machine.execXorw f s
  | .notw f => Sys2Proof.Machine.execNotw f s
  | .andn f => Sys2Proof.Machine.execAndn f s
  | .lop3 f => Sys2Proof.Machine.execLop3 f s
  | .popc f => Sys2Proof.Machine.execPopc f s
  | .clz f => Sys2Proof.Machine.execClz f s
  | .ctz f => Sys2Proof.Machine.execCtz f s
  | .brev f => Sys2Proof.Machine.execBrev f s
  | .bfx f => Sys2Proof.Machine.execBfx f s
  | .bfi f => Sys2Proof.Machine.execBfi f s
  | .prmt f => Sys2Proof.Machine.execPrmt f s
  | .lea f => Sys2Proof.Machine.execLea f s
  | .leaw f => Sys2Proof.Machine.execLeaw f s
  | .dp4 f => Sys2Proof.Machine.execDp4 f s
  | .iaddImm f => Sys2Proof.Machine.execIaddImm f s
  | .imulImm f => Sys2Proof.Machine.execImulImm f s
  | .iminImm f => Sys2Proof.Machine.execIminImm f s
  | .imaxImm f => Sys2Proof.Machine.execImaxImm f s
  | .shlImm f => Sys2Proof.Machine.execShlImm f s
  | .shrImm f => Sys2Proof.Machine.execShrImm f s
  | .shaImm f => Sys2Proof.Machine.execShaImm f s
  | .rotImm f => Sys2Proof.Machine.execRotImm f s
  | .andImm f => Sys2Proof.Machine.execAndImm f s
  | .orImm f => Sys2Proof.Machine.execOrImm f s
  | .xorImm f => Sys2Proof.Machine.execXorImm f s
  | .leaImm f => Sys2Proof.Machine.execLeaImm f s
  | .bfxImm f => Sys2Proof.Machine.execBfxImm f s
  | .bfiImm f => Sys2Proof.Machine.execBfiImm f s
  | .prmtImm f => Sys2Proof.Machine.execPrmtImm f s
  | .fadd f => Sys2Proof.Machine.execFadd f s
  | .fsub f => Sys2Proof.Machine.execFsub f s
  | .fmul f => Sys2Proof.Machine.execFmul f s
  | .ffma f => Sys2Proof.Machine.execFfma f s
  | .fmin f => Sys2Proof.Machine.execFmin f s
  | .fmax f => Sys2Proof.Machine.execFmax f s
  | .fabs f => Sys2Proof.Machine.execFabs f s
  | .fneg f => Sys2Proof.Machine.execFneg f s
  | .fdiv f => Sys2Proof.Machine.execFdiv f s
  | .fsqrt f => Sys2Proof.Machine.execFsqrt f s
  | .frcp f => Sys2Proof.Machine.execFrcp f s
  | .frsq f => Sys2Proof.Machine.execFrsq f s
  | .fex2 f => Sys2Proof.Machine.execFex2 f s
  | .flg2 f => Sys2Proof.Machine.execFlg2 f s
  | .fsin f => Sys2Proof.Machine.execFsin f s
  | .fcos f => Sys2Proof.Machine.execFcos f s
  | .fflr f => Sys2Proof.Machine.execFflr f s
  | .fceil f => Sys2Proof.Machine.execFceil f s
  | .ftrunc f => Sys2Proof.Machine.execFtrunc f s
  | .frnd f => Sys2Proof.Machine.execFrnd f s
  | .ffrc f => Sys2Proof.Machine.execFfrc f s
  | .fclass f => Sys2Proof.Machine.execFclass f s
  | .fscale f => Sys2Proof.Machine.execFscale f s
  | .fgetexp f => Sys2Proof.Machine.execFgetexp f s
  | .fdot2 f => Sys2Proof.Machine.execFdot2 f s
  | .faddImm f => Sys2Proof.Machine.execFaddImm f s
  | .fmulImm f => Sys2Proof.Machine.execFmulImm f s
  | .fminImm f => Sys2Proof.Machine.execFminImm f s
  | .fmaxImm f => Sys2Proof.Machine.execFmaxImm f s
  | .cvt f => Sys2Proof.Machine.execCvt f s
  | .cvq f => Sys2Proof.Machine.execCvq f s
  | .cvd f => Sys2Proof.Machine.execCvd f s
  | .packt f => Sys2Proof.Machine.execPackt f s
  | .unpkt f => Sys2Proof.Machine.execUnpkt f s
  | .pack f => Sys2Proof.Machine.execPack f s
  | .unpk f => Sys2Proof.Machine.execUnpk f s
  | .icmp f => Sys2Proof.Machine.execIcmp f s
  | .fcmp f => Sys2Proof.Machine.execFcmp f s
  | .plop f => Sys2Proof.Machine.execPlop f s
  | .pmov f => Sys2Proof.Machine.execPmov f s
  | .sel f => Sys2Proof.Machine.execSel f s
  | .mov f => Sys2Proof.Machine.execMov f s
  | .movi f => Sys2Proof.Machine.execMovi f s
  | .movx f => Sys2Proof.Machine.execMovx f s
  | .movxs f => Sys2Proof.Machine.execMovxs f s
  | .shfl f => Sys2Proof.Machine.execShfl f s
  | .vote f => Sys2Proof.Machine.execVote f s
  | .ballot f => Sys2Proof.Machine.execBallot f s
  | .lred f => Sys2Proof.Machine.execLred f s
  | .bcast f => Sys2Proof.Machine.execBcast f s
  | .srd f => Sys2Proof.Machine.execSrd f s
  | .swr f => Sys2Proof.Machine.execSwr f s
  | .ld f => Sys2Proof.Machine.execLd f s
  | .st f => Sys2Proof.Machine.execSt f s
  | .lds f => Sys2Proof.Machine.execLds f s
  | .sts f => Sys2Proof.Machine.execSts f s
  | .ldq f => Sys2Proof.Machine.execLdq f s
  | .atom f => Sys2Proof.Machine.execAtom f s
  | .atoms f => Sys2Proof.Machine.execAtoms f s
  | .red f => Sys2Proof.Machine.execRed f s
  | .prf f => Sys2Proof.Machine.execPrf f s
  | .tbinit f => Sys2Proof.Machine.execTbinit f s
  | .tbexp f => Sys2Proof.Machine.execTbexp f s
  | .tbarv f => Sys2Proof.Machine.execTbarv f s
  | .tbtest f => Sys2Proof.Machine.execTbtest f s
  | .waita f => Sys2Proof.Machine.execWaita f s
  | .fence f => Sys2Proof.Machine.execFence f s
  | .bar f => Sys2Proof.Machine.execBar f s
  | .barc f => Sys2Proof.Machine.execBarc f s
  | .tcfg f => Sys2Proof.Machine.execTcfg f s
  | .tld f => Sys2Proof.Machine.execTld f s
  | .tst f => Sys2Proof.Machine.execTst f s
  | .tzero f => Sys2Proof.Machine.execTzero f s
  | .mxa f => Sys2Proof.Machine.execMxa f s
  | .acz f => Sys2Proof.Machine.execAcz f s
  | .acv f => Sys2Proof.Machine.execAcv f s
  | .acld f => Sys2Proof.Machine.execAcld f s
  | .acst f => Sys2Proof.Machine.execAcst f s
  | .cpy f => Sys2Proof.Machine.execCpy f s
  | .cpyl f => Sys2Proof.Machine.execCpyl f s
  | .hred f => Sys2Proof.Machine.execHred f s
  | .hgat f => Sys2Proof.Machine.execHgat f s
  | .hfetch f => Sys2Proof.Machine.execHfetch f s
  | .lyrq f => Sys2Proof.Machine.execLyrq f s
  | .inst f => Sys2Proof.Machine.execInst f s
  | .instqQuery f => Sys2Proof.Machine.execInstqQuery f s
  | .instqAbort f => Sys2Proof.Machine.execInstqAbort f s
  | .prvr f => Sys2Proof.Machine.execPrvr f s
  | .prvw f => Sys2Proof.Machine.execPrvw f s
  | .eret f => Sys2Proof.Machine.execEret f s
  | .sysc f => Sys2Proof.Machine.execSysc f s
  | .mtrr f => Sys2Proof.Machine.execMtrr f s
  | .sign f => Sys2Proof.Machine.execSign f s
  | .clauseStart gid lane => Sys2Proof.Machine.execClauseStart gid lane s
  | .strandCommit gid => Sys2Proof.Machine.execStrandCommit gid s
  | .stashWriteback team line => Sys2Proof.Machine.execStashWriteback team line s
  | .waitaRecheck gid lane => Sys2Proof.Machine.execWaitaRecheck gid lane s
  | .waitaTimeout gid lane => Sys2Proof.Machine.execWaitaTimeout gid lane s
  | .loadComplete op => Sys2Proof.Machine.execLoadComplete op s
  | .atomComplete op => Sys2Proof.Machine.execAtomComplete op s
  | .funcResultWrite op => Sys2Proof.Machine.execFuncResultWrite op s
  | .tileTransferComplete op => Sys2Proof.Machine.execTileTransferComplete op s
  | .accTransferComplete op => Sys2Proof.Machine.execAccTransferComplete op s
  | .acvComplete op => Sys2Proof.Machine.execAcvComplete op s
  | .mxaStart cmd => Sys2Proof.Machine.execMxaStart cmd s
  | .matrixResidueMismatch cmd pass => Sys2Proof.Machine.execMatrixResidueMismatch cmd pass s
  | .mxaComplete cmd => Sys2Proof.Machine.execMxaComplete cmd s
  | .workSteal engine => Sys2Proof.Machine.execWorkSteal engine s
  | .copySectorLand cmd row sector => Sys2Proof.Machine.execCopySectorLand cmd row sector s
  | .homeSliceStep isCmd id step => Sys2Proof.Machine.execHomeSliceStep isCmd id step s
  | .hgatResponse cmd first count => Sys2Proof.Machine.execHgatResponse cmd first count s
  | .engineAccessFault cmd step => Sys2Proof.Machine.execEngineAccessFault cmd step s
  | .engineLineFinish cmd line => Sys2Proof.Machine.execEngineLineFinish cmd line s
  | .instComplete cmd verified failed => Sys2Proof.Machine.execInstComplete cmd verified failed s
  | .signComplete op => Sys2Proof.Machine.execSignComplete op s
  | .mtrrComplete op => Sys2Proof.Machine.execMtrrComplete op s
  | .serviceRequestConsumed => Sys2Proof.Machine.execServiceRequestConsumed s
  | .groupSwap gid => Sys2Proof.Machine.execGroupSwap gid s
  | .groupResourcesFree gid => Sys2Proof.Machine.execGroupResourcesFree gid s
  | .compaction team place => Sys2Proof.Machine.execCompaction team place s
  | .teamPlacement phase tower cores slots => Sys2Proof.Machine.execTeamPlacement phase tower cores slots s
  | .teamMigration team core slots => Sys2Proof.Machine.execTeamMigration team core slots s
  | .teamEnd team => Sys2Proof.Machine.execTeamEnd team s
  | .fcBell queue => Sys2Proof.Machine.execFcBell queue s
  | .quantumBoundary => Sys2Proof.Machine.execQuantumBoundary s
  | .phaseStart queue => Sys2Proof.Machine.execPhaseStart queue s
  | .dependenceRecheck queue => Sys2Proof.Machine.execDependenceRecheck queue s
  | .phaseComplete phase => Sys2Proof.Machine.execPhaseComplete phase s
  | .stallAll core ctx => Sys2Proof.Machine.execStallAll core ctx s
  | .contextSwitch core ctx => Sys2Proof.Machine.execContextSwitch core ctx s
  | .ctxCreate => Sys2Proof.Machine.execCtxCreate s
  | .ctxHalt => Sys2Proof.Machine.execCtxHalt s
  | .haltTeamSave team => Sys2Proof.Machine.execHaltTeamSave team s
  | .ctxResume => Sys2Proof.Machine.execCtxResume s
  | .ctxRetire => Sys2Proof.Machine.execCtxRetire s
  | .retirementRecord ctx => Sys2Proof.Machine.execRetirementRecord ctx s
  | .ctxTeardown => Sys2Proof.Machine.execCtxTeardown s
  | .ctxCmdInvalid => Sys2Proof.Machine.execCtxCmdInvalid s
  | .scrubComplete ctx => Sys2Proof.Machine.execScrubComplete ctx s
  | .xlRangeWrite reg word value => Sys2Proof.Machine.execXlRangeWrite reg word value s
  | .xlInv value => Sys2Proof.Machine.execXlInv value s
  | .xlInvComplete => Sys2Proof.Machine.execXlInvComplete s
  | .xlResume value => Sys2Proof.Machine.execXlResume value s
  | .stkScrways value => Sys2Proof.Machine.execStkScrways value s
  | .wayChangeComplete => Sys2Proof.Machine.execWayChangeComplete s
  | .flsStagebase value => Sys2Proof.Machine.execFlsStagebase value s
  | .flsStagesz value => Sys2Proof.Machine.execFlsStagesz value s
  | .keyLoad value => Sys2Proof.Machine.execKeyLoad value s
  | .bbDump value => Sys2Proof.Machine.execBbDump value s
  | .bbDumpComplete => Sys2Proof.Machine.execBbDumpComplete s
  | .rstReq value => Sys2Proof.Machine.execRstReq value s
  | .rlRouteWrite peer value => Sys2Proof.Machine.execRlRouteWrite peer value s
  | .registerWrite index value => Sys2Proof.Machine.execRegisterWrite index value s
  | .hostBar0Access link index value => Sys2Proof.Machine.execHostBar0Access link index value s
  | .hostBar2Access offset count data => Sys2Proof.Machine.execHostBar2Access offset count data s
  | .peerAccess peer ia act => Sys2Proof.Machine.execPeerAccess peer ia act s
  | .remoteWriteAck write => Sys2Proof.Machine.execRemoteWriteAck write s
  | .layerArrival ctx model layer => Sys2Proof.Machine.execLayerArrival ctx model layer s
  | .layerVictimChoice ctx model layer => Sys2Proof.Machine.execLayerVictimChoice ctx model layer s
  | .layerEvictionComplete ctx model layer => Sys2Proof.Machine.execLayerEvictionComplete ctx model layer s
  | .flashReadEccFail page => Sys2Proof.Machine.execFlashReadEccFail page s
  | .reservationGrant district => Sys2Proof.Machine.execReservationGrant district s
  | .pipeIdleRelease core quarter => Sys2Proof.Machine.execPipeIdleRelease core quarter s
  | .terraceDelaySet terrace heavier => Sys2Proof.Machine.execTerraceDelaySet terrace heavier s
  | .terraceDelayClear terrace => Sys2Proof.Machine.execTerraceDelayClear terrace s
  | .droopDetect district => Sys2Proof.Machine.execDroopDetect district s
  | .suspectWindowOpen district groups => Sys2Proof.Machine.execSuspectWindowOpen district groups s
  | .suspectWindowEnd district => Sys2Proof.Machine.execSuspectWindowEnd district s
  | .governorWindow core => Sys2Proof.Machine.execGovernorWindow core s
  | .thermalReading core engine celsius => Sys2Proof.Machine.execThermalReading core engine celsius s
  | .districtHold district => Sys2Proof.Machine.execDistrictHold district s
  | .districtDrain district => Sys2Proof.Machine.execDistrictDrain district s
  | .districtOff district => Sys2Proof.Machine.execDistrictOff district s
  | .inrushRampStart tower => Sys2Proof.Machine.execInrushRampStart tower s
  | .inrushRampComplete tower unit => Sys2Proof.Machine.execInrushRampComplete tower unit s
  | .correctedError unit addr => Sys2Proof.Machine.execCorrectedError unit addr s
  | .registerEccError gid reg lanes => Sys2Proof.Machine.execRegisterEccError gid reg lanes s
  | .groupStateParityError gid => Sys2Proof.Machine.execGroupStateParityError gid s
  | .pipelineError gid => Sys2Proof.Machine.execPipelineError gid s
  | .memoryEccError target => Sys2Proof.Machine.execMemoryEccError target s
  | .burstCheckFail bus groups result => Sys2Proof.Machine.execBurstCheckFail bus groups result s
  | .linkCrcFail link => Sys2Proof.Machine.execLinkCrcFail link s
  | .linkTrainStart link => Sys2Proof.Machine.execLinkTrainStart link s
  | .linkTrainResult link lanes => Sys2Proof.Machine.execLinkTrainResult link lanes s
  | .linkIdentComplete link peerLink devid => Sys2Proof.Machine.execLinkIdentComplete link peerLink devid s
  | .linkDown link => Sys2Proof.Machine.execLinkDown link s
  | .deviceReset powerOn => Sys2Proof.Machine.execDeviceReset powerOn s
  | .bringupStep failed => Sys2Proof.Machine.execBringupStep failed s
  | .hostLinkRetry link trained => Sys2Proof.Machine.execHostLinkRetry link trained s
  | .fenceComplete op => Sys2Proof.Machine.execFenceComplete op s
  | .supplyRecovery district => Sys2Proof.Machine.execSupplyRecovery district s

end Sys2Proof.Machine
end

