-- ==== Sys2Proof/Machine/Turns.lean ====
section
/-! DEFINITION. One turn of the device: which entry of a group issues (R282-R284), the decoding of its word, and dual issue (R283). -/

namespace Sys2Proof.Machine

/-- Cycles for which a word holds its quarter's pipe (R134, R441). -/
def pipeCycles (i : Instr) : Nat :=
  match i.info with
  | none => 1
  | some f =>
    let wide := f.ops.any (fun e => e.1 == .src 64 || e.1 == .dst 64)
    if 0x48 ≤ f.op ∧ f.op ≤ 0x4F then 4
    else if f.op = 0x8C then 2
    else if 0xA0 ≤ f.op ∧ f.op ≤ 0xA7 then (if f.ops.any (fun e => e.1 == .src 128 || e.1 == .dst 128) then 2 else 1)
    else if f.op = 0x17 ∨ f.op = 0x2F then 1
    else if (0x10 ≤ f.op ∧ f.op ≤ 0x3F) ∨ (0x80 ≤ f.op ∧ f.op ≤ 0x88) ∨ f.op = 0x8E ∨ f.op = 0x8F then
      (if wide then 2 else 1)
    else 1

/-- An entry can go on: eligible, and where it is about to start a clause, not held back by WAITM (R71, R281). -/
def State.canGo (s : State) (gid : Nat) (e : Entry) : Bool := (s.grp gid).ready e && s.startClear gid e

/-- The entry that ranks first among those that can go on (R282). -/
def State.pick (s : State) (gid : Nat) : Option Entry := (s.grp gid).first (s.canGo gid)

/-- One entry issues its word, or starts its clause; a word that does not decode traps (R94). -/
def State.issueEntry (s : State) (gid : Nat) (e : Entry) : Out :=
  match lowLane e.mask with
  | none => .next s
  | some lane =>
    if e.clause.isNone then exec (.clauseStart gid lane) s
    else
      match decodeWord e.word with
      | .instr i => exec i { s with focus := some ⟨gid, lane⟩ }
      | .bad c pos => s.trapOut gid lane e c pos
      | .short => .next s

/-- The quarter's vector pipe holds its reservation, or asks for it (R420). -/
def State.pipeHeld (s : State) (core q : Nat) : Bool := (KMap.find? (s.core core).pipes q).isSome

/-- The entry is no longer at its word as it was: the word did not wait (R81). -/
def State.moved (s : State) (gid : Nat) (e : Entry) : Bool :=
  !(s.grp gid).entries.any (fun x => x.pc == e.pc && x.mask == e.mask && x.clause == e.clause && x.wait == e.wait)

/-- The first entry of a group would issue now, and not wait at its word (R282, R284). -/
def State.issues (s : State) (gid : Nat) : Bool :=
  s.mayIssue gid && s.pipeHeld (s.coreOf gid) (s.grp gid).quarter &&
    (match s.pick gid with
     | none => false
     | some e =>
       match s.issueEntry gid e with
       | .next t => t.moved gid e
       | _ => true)

/-- It is the group's turn in the rotation of its quarter (R284): of the active groups that stand between the one chosen last and this one
none can issue. -/
def State.inTurn (s : State) (gid : Nat) : Bool :=
  let last := KMap.getD (s.core (s.coreOf gid)).rot 0 (s.grp gid).quarter
  let before := fun (x : Nat) => if last < gid then decide (last < x) && decide (x < gid) else decide (last < x) || decide (x < gid)
  (s.activeSet gid).all (fun e => !before e.1 || !s.issues e.1)

/-- A quarter has issued for a group: its pipe's idle time starts again, the rotation goes on behind this place, and its context is not
wholly stalled (R284, R358, R420). -/
def State.markIssue (s : State) (core q ctx gid : Nat) : State :=
  let now := s.clock core
  s.modCore core (fun k => { k with
    pipes := KMap.insert k.pipes q now, rot := KMap.setD k.rot 0 q gid
    stalled := KMap.erase k.stalled ctx, noticed := k.noticed.filter (fun x => x != ctx) })

/-- A word whose result a vector pipe gives (R134, R423). -/
def vectorResult (i : Instr) : Bool :=
  match i.info with
  | some f => decide (0x10 ≤ f.op) && decide (f.op < 0xA0) && f.ops.any (fun x => !(opkWrites x.1 x.2.1).isEmpty)
  | none => false

/-- The word of an entry gives a result of a vector pipe to an unsealed lane while a suspect window of the district is open (R423). -/
def State.suspects (s : State) (gid : Nat) (e : Entry) : Bool :=
  (s.district (districtOf (s.coreOf gid))).suspect && e.clause.isSome && minus e.mask (s.grp gid).sealed != 0 &&
    (match decodeWord e.word with
     | .instr i => vectorResult i
     | _ => false)

/-- What issue brings with it is noted after what an entry of a group did, where its word did not wait. -/
def State.noted (s : State) (gid : Nat) (e : Entry) : Out → Out
  | .next t =>
    if t.moved gid e then
      let t1 := t.markIssue (s.coreOf gid) (s.grp gid).quarter (s.grp gid).ctx gid
      .next (if s.suspects gid e then t1.suspectDiscard gid else t1)
    else .next t
  | o => o

/-- The entry issues. -/
def State.issueNow (s : State) (gid : Nat) (e : Entry) : Out := s.noted gid e (s.issueEntry gid e)

/-- The first entry of a group would do something now: what it does shows in the group, or in what its core has committed. A word that only
waits asks for no current (R420). -/
def State.wouldIssue (s : State) (gid : Nat) (e : Entry) : Bool :=
  match s.issueEntry gid e with
  | .next t => t.grp gid != s.grp gid || t.commits != s.commits
  | _ => true

/-- The turn of a group: its first entry issues, or asks for the quarter's reservation where it would (R282, R284, R420). -/
def State.turn (s : State) (gid : Nat) : Out :=
  if !s.mayIssue gid then .next s
  else
    let c := s.coreOf gid
    let q := (s.grp gid).quarter
    match s.pick gid with
    | none => .next s
    | some e =>
      if !s.pipeHeld c q then (if s.wouldIssue gid e then .next (s.request c (.pipe c q) 4) else .next s)
      else if s.inTurn gid then s.issueNow gid e
      else .next s

/-- The entry executes, or is about to start, a clause with DUALOK = 1 (R75). -/
def State.dualOk (s : State) (gid : Nat) (e : Entry) : Bool :=
  match e.clause with
  | some c => hdrDual c.word
  | none =>
    match s.fetchWord (s.grp gid).ctx e.pc with
    | .ok h => hdrDual h
    | .error _ => false

/-- The word of an entry holds the pipe for one cycle. -/
def Entry.onePipe (e : Entry) : Bool :=
  if e.clause.isNone then true
  else
    match decodeWord e.word with
    | .instr i => pipeCycles i == 1
    | _ => true

/-- The second entry that may issue beside the first (R283). -/
def State.second (s : State) (gid : Nat) (e : Entry) : Option Entry :=
  let q := quads e.mask
  match (s.grp gid).first (fun x => s.canGo gid x && !x.mask.getLsbD ((lowLane e.mask).getD 64) &&
      (quads x.mask).all (fun k => !q.contains k)) with
  | none => none
  | some x =>
    if s.dualOk gid e && s.dualOk gid x && !e.handler && !x.handler && e.onePipe && x.onePipe then some x else none

/-- The turn of a group in which two entries issue where R283 allows it, the first counting first (R81). -/
def State.dualTurn (s : State) (gid : Nat) : Out :=
  match s.turn gid with
  | .next s1 =>
    if !s.mayIssue gid || !s.pipeHeld (s.coreOf gid) (s.grp gid).quarter then .next s1
    else
      match s.pick gid with
      | none => .next s1
      | some e =>
        match s.second gid e with
        | none => .next s1
        | some x =>
          if s1.moved gid e && (s1.grp gid).entries.any (fun y => y == x) then s1.issueNow gid x else .next s1
  | o => o

/-- What a turn does. -/
def State.runTurn (s : State) : Turn → Out
  | .issue gid => s.turn gid
  | .dual gid => s.dualTurn gid
  | .event i => exec i s
  | .idle n => .next { s with cycle := s.cycle + n }
  | .drift core n => .next (s.modCore core (fun k => if k.clockOn then { k with clock := (k.clock + n) % 2 ^ 64 } else k))
  | .unitDrift unit n => .next { s with timers := KMap.setD s.timers 0 unit.key (KMap.getD s.timers 0 unit.key + n) }
  | .drain core => .next (s.drainTurn core)
  | .unchecked op bus => s.loadUnchecked op bus
  | .checked bus => .next (s.beatsPass bus)
  | .evict line => .next { s with l2bad := s.l2bad.filter (fun l => l.1 != line), l2dirty := s.l2dirty.filter (fun l => l.1 != line) }
  | .dirtied line ia => .next { s with l2dirty := if s.l2dirty.contains (line, ia) then s.l2dirty else s.l2dirty ++ [(line, ia)] }
  | .eraseFails block => .next { s with stk := { s.stk with failing := addNew s.stk.failing block } }
  | .scrubUnit ctx => if (s.ctx ctx).st == .scrubbing then s.scrubThen ctx 1 .next else .next s
  | .imbalance terrace heavier percent => .next (s.measure terrace heavier percent)
  | .unitOff tower unit => .next (s.unitOff tower unit)
  | .unitWake tower unit => .next (s.unitWake tower unit)
  | .keyLoaded => .next s.keyLoaded
  | .flitPasses link => .next (s.flitPasses link)

/-- Time goes on by a cycle after every turn, and no word is in focus (log entry 1). -/
def tickOut : Out → Out
  | .next s => .next { s with cycle := s.cycle + 1, focus := none }
  | o => o

end Sys2Proof.Machine
end

