-- ==== Sys2Proof/Machine/Sched.lean ====
section
/-! DEFINITION. Who moves next where the agenda says nothing (MODEL, log entry 1): one deterministic choice among the courses that
the spec allows, so that the device can run by itself: what is in flight completes oldest first, then the units of the device go
on, then a group issues. -/

namespace Sys2Proof.Machine

/-- The groups that can issue now, where it is their turn. -/
def State.issuable (s : State) : List Nat :=
  (s.groups.filter (fun e => s.mayIssue e.1 && (s.pick e.1).isSome && s.inTurn e.1)).map (·.1)

/-- Make the first of the moves that changes the state; the last resort is that nothing happens. -/
def firstMove : List (State → Out) → State → Out
  | [], s => .next s
  | f :: l, s =>
    match f s with
    | .next t => if t = s then firstMove l s else .next t
    | o => o

/-- The step that completes an in-flight instruction. -/
def opMoves (id : Nat) (o : Op) : List (State → Out) :=
  match o.kind with
  | .load _ _ _ _ => [execLoadComplete id]
  | .atom _ _ _ _ true _ _ => [execAtomComplete id]
  | .atom _ _ _ _ false _ steps => steps.map (fun t => execHomeSliceStep false id t.lane) ++ [execAtomComplete id]
  | .func _ => [execFuncResultWrite id]
  | .tld _ _ _ => [execTileTransferComplete id]
  | .tst _ _ _ _ => [execTileTransferComplete id]
  | .acld _ _ _ => [execAccTransferComplete id]
  | .acst _ _ _ => [execAccTransferComplete id]
  | .acv _ _ _ _ _ _ => [execAcvComplete id]
  | .mtrr _ => [execMtrrComplete id]
  | .sign _ _ _ _ _ _ => [execSignComplete id]
  | .fence _ _ _ => [execFenceComplete id]
  | .cmd _ => []

/-- The next step of a command that is not done, if any. -/
def Cmd.nextStep (c : Cmd) : Option Nat := (List.range c.steps).find? (fun i => !c.done.contains i)

/-- The steps of an engine command. -/
def cmdMoves (id : Nat) (c : Cmd) : List (State → Out) :=
  let i := c.nextStep.getD 0
  match c.kind with
  | .mxa => [execMxaStart id, execMxaComplete id]
  | .cpy => [execCopySectorLand id (i / max 1 c.rowSectors) (i % max 1 c.rowSectors)]
  | .cpyl => [execCopySectorLand id (i / max 1 c.rowSectors) (i % max 1 c.rowSectors)]
  | .hred => [execHomeSliceStep true id i]
  | .hfetch => [execHomeSliceStep true id i]
  | .hgat => [execHgatResponse id i 1]
  | .inst => [execInstComplete id true []]
  | _ => []

/-- An access of a command that fails, and the stalled words of groups that wait. -/
def failMoves (id : Nat) (c : Cmd) : List (State → Out) := [execEngineAccessFault id (c.nextStep.getD 0)]

/-- The lowest slots of a core's quarters for the groups of a team. -/
def State.lowSlots (s : State) (core groups : Nat) : List Nat :=
  (List.range groups).map (fun g =>
    let taken := s.slotsTaken core (g % 4)
    (((List.range 32).filter (fun n => !taken.contains n))[g / 4]?).getD 32)

/-- The first cores of a tower on which the teams of a phase's cluster fit, or that are asked to wake. -/
def State.coresFor (s : State) (tower ctx n : Nat) (sc : Sched) : List Nat :=
  (((List.range 48).map (fun i => 48 * tower + i)).filter (fun c =>
    (s.district (districtOf c)).st != .on || s.coreFits c ctx sc (s.lowSlots c sc.groups))).take n

/-- The placement of the next cluster of a phase, or of its next saved team. -/
def State.placeMoves (s : State) (pid : Nat) (p : Phase) : List (State → Out) :=
  let saved := (s.ctx p.ctx).images.any (fun im => im.phase == pid)
  let n := if saved then 1 else p.sched.cluster
  (if saved || s.unplaced p then List.range 8 else []).map (fun t =>
    let cores := s.coresFor t p.ctx n p.sched
    execTeamPlacement pid t cores (cores.flatMap (fun c => s.lowSlots c p.sched.groups)))

/-- The steps of a group beside its issue: a group that can issue is swapped only after YIELD. -/
def State.groupMoves (s : State) (gid : Nat) (g : Group) : List (State → Out) :=
  [execStrandCommit gid, execGroupResourcesFree gid] ++
  (if !g.active || g.yieldMark || (s.pick gid).isNone then [execGroupSwap gid] else []) ++
  g.entries.flatMap (fun e =>
    match e.wait, lowLane e.mask with
    | .waita _ _ _, some l => [execWaitaRecheck gid l, execWaitaTimeout gid l]
    | _, _ => [])

/-- The steps of a team: a team whose groups have ended writes its Dirty lines back and ends. -/
def teamMoves (e : Nat × Team) : List (State → Out) :=
  (e.2.stash.filter (fun l => l.2 == .dirty)).map (fun l => execStashWriteback e.1 l.1) ++ [execHaltTeamSave e.1, execTeamEnd e.1]

/-- The steps of the Forecourt for a queue. -/
def queueMoves (q : Nat) : List (State → Out) := [execDependenceRecheck q, execPhaseStart q]

/-- The steps of a layer. -/
def layerMoves (e : Nat × Nat × Layer) : List (State → Out) :=
  let m := e.2.1 / 65536
  let l := e.2.1 % 65536
  match e.2.2.st with
  | .arriving => [execLayerArrival e.1 m l, execLayerVictimChoice e.1 m l]
  | .evicting => [execLayerEvictionComplete e.1 m l]
  | _ => []

/-- The steps of a core: its context switches. -/
def coreMoves (core : Nat) (k : CoreSt) : List (State → Out) :=
  k.resident.map (fun c => execContextSwitch core c)

/-- Reservations and power of a district. -/
def powerMoves (d : Nat) (x : District) : List (State → Out) :=
  x.granted.filterMap (fun e =>
    match e.1 with
    | .pipe core quarter => some (execPipeIdleRelease core quarter)
    | _ => none) ++
  (if x.waiting.isEmpty then [] else [execReservationGrant d]) ++
  (match x.st with
   | .drain => [execDistrictOff d]
   | _ => [])

/-- Every move that the units of the device may make, in order of preference. -/
def State.moves (s : State) : List (State → Out) :=
  (if s.ident.devState < 6 ∧ !s.ident.fail then [execBringupStep none] else []) ++
  s.commits.map (fun e => fun s => .next (s.drainTurn e.1)) ++
  s.groups.flatMap (fun e => e.2.beats.map (fun b => fun s => .next (s.beatsPass b.bus))) ++
  s.ops.flatMap (fun e => opMoves e.1 e.2) ++
  s.cmds.flatMap (fun e => cmdMoves e.1 e.2) ++
  s.pwr.districts.flatMap (fun e => powerMoves e.1 e.2) ++
  s.peerWrites.map (fun e => execRemoteWriteAck e.1) ++
  s.groups.flatMap (fun e => s.groupMoves e.1 e.2) ++
  s.cmds.flatMap (fun e => failMoves e.1 e.2) ++
  (if s.xl.inv.isSome then [execXlInvComplete] else []) ++
  (if s.stk.changing then [execWayChangeComplete] else []) ++
  (if s.aon.dump.isSome then [execBbDumpComplete] else []) ++
  (if s.cc.queue.isEmpty then [] else
    [execCtxCmdInvalid, execCtxCreate, execCtxHalt, execCtxResume, execCtxRetire, execCtxTeardown]) ++
  s.teams.flatMap teamMoves ++
  s.ctxs.map (fun e => execRetirementRecord e.1) ++
  s.phases.map (fun e => execPhaseComplete e.1) ++
  s.layersAll.flatMap layerMoves ++
  (if s.ident.keyLoad.isSome then [fun s => .next s.keyLoaded] else []) ++
  s.links.map (fun e => fun s => .next (s.flitPasses e.1)) ++
  s.fc.bells.map execFcBell ++
  s.fc.slots.flatMap (fun e => queueMoves e.1) ++
  s.phases.flatMap (fun e => s.placeMoves e.1 e.2) ++
  s.cores.flatMap (fun e => coreMoves e.1 e.2)

/-- Slow moves, where nothing else happens: a quantum ends, a ramp starts or ends, a scrub is done. -/
def State.idleMoves (s : State) : List (State → Out) :=
  (List.range 8).flatMap (fun t => execInrushRampStart t :: (List.range 8).map (fun u => execInrushRampComplete t u)) ++
    [execQuantumBoundary] ++ s.ctxs.map (fun e => execScrubComplete e.1)

/-- The default course. -/
def State.schedule (s : State) : Out :=
  match firstMove s.moves s with
  | .next t =>
    if t = s then
      match s.issuable with
      | [] => firstMove s.idleMoves s
      | l => s.turn (l.getD (s.cycle % l.length) 0)
    else .next t
  | o => o

end Sys2Proof.Machine
end

