-- ==== Sys2Proof/Safety.lean ====
section
/-! DEFINITION. The terms that claims use: safe runs, when a word issues, what a word that completes leaves, and what it leaves
alone. -/

namespace Sys2Proof

/-- n steps from s all answer a next state: the machine neither stops at a hole of physical memory nor meets a device register
page. -/
def Safe (n : Nat) (s : Machine.State) : Prop := ∃ t, Sys2Proof.core.run n s = .next t

/-- The rational value of a finite datum; 0 for an infinity or NaN. -/
def FVal.toRat : FVal → ℚ
  | .fin s m e => (if s then -1 else 1) * m * 2 ^ e
  | _ => 0

/-- A finite datum. -/
def FVal.isFin : FVal → Bool
  | .fin _ _ _ => true
  | _ => false

/-- The order of numbers in which minimum and maximum choose: by value, and -0 below +0 (R51). -/
def FVal.below : FVal → FVal → Prop
  | .inf s, .inf t => s = true ∧ t = false
  | .inf s, .fin _ _ _ => s = true
  | .fin _ _ _, .inf t => t = false
  | .fin s m e, .fin t k g => (FVal.fin s m e).toRat < (FVal.fin t k g).toRat ∨ (m = 0 ∧ k = 0 ∧ s = true ∧ t = false)
  | _, _ => False

/-- What R50 asks of rounding a nonzero x to multiples of q: the multiple of q that the mode takes. -/
def roundsTo (m : RMode) (x q y : ℚ) : Prop :=
  let lo := ⌊x / q⌋ * q
  let hi := lo + q
  if x = lo then y = lo
  else
    match m with
    | .rn => if x - lo < hi - x then y = lo else if hi - x < x - lo then y = hi else (y = lo ∨ y = hi) ∧ ∃ k : ℤ, y = 2 * k * q
    | .rz => y = if 0 < x then lo else hi
    | .rd => y = lo
    | .ru => y = hi

/-- R50, R131: the bits z are the nonzero real x rounded to a format under a mode: x lies between two rationals of its sign that both
round to z (rounding keeps order, and RoundingHelper says what it does with a rational). -/
def FFmt.rounds (F : FFmt) (m : RMode) (x : ℝ) (z : Nat) : Prop :=
  ∃ (neg : Bool) (a b d : Nat), 0 < a ∧ 0 < d ∧ (neg = true ↔ x < 0) ∧ (a : ℝ) / d ≤ |x| ∧ |x| ≤ (b : ℝ) / d ∧
    rndQ F m neg a d = z ∧ rndQ F m neg b d = z

/-- One of the precisions at which the enclosures of a value are taken decides its rounding: both ends have its sign and round alike
(log entry 11). -/
def FFmt.decides (F : FFmt) (m : RMode) (sc : Int) (enc : Nat → Encl) : Prop :=
  ∃ p ∈ zivPrecisions, rndFix F m p sc ((enc p).s - (enc p).err) = rndFix F m p sc ((enc p).s + (enc p).err) ∧
    (0 < (enc p).s - (enc p).err ∨ (enc p).s + (enc p).err < 0)

/-! ### The words, as the tables of chapter 4 and of each instruction give them -/

namespace Table

/-- Bits hi down to lo of a word. -/
def field (w hi lo : Nat) : Nat := w / 2 ^ lo % 2 ^ (hi + 1 - lo)

/-- R90: the assigned opcodes. -/
def assigned (op : Nat) : Bool := (List.range 14).contains op || (decide (0x10 ≤ op) && decide (op ≤ 0x5C)) ||
  (decide (0x70 ≤ op) && decide (op ≤ 0x76)) || (decide (0x80 ≤ op) && decide (op ≤ 0x8F)) ||
  (decide (0xA0 ≤ op) && decide (op ≤ 0xA8)) || (decide (0xC0 ≤ op) && decide (op ≤ 0xC7)) ||
  (decide (0xD0 ≤ op) && decide (op ≤ 0xD8)) || (decide (0xE0 ≤ op) && decide (op ≤ 0xE7)) ||
  (decide (0xF0 ≤ op) && decide (op ≤ 0xF5))

/-- R91: the long-latency words. -/
def long (op : Nat) : Bool := (decide (0x48 ≤ op) && decide (op ≤ 0x4F)) ||
  [0xA0, 0xA2, 0xA4, 0xA5, 0xA6, 0xD1, 0xD2, 0xD4, 0xD6, 0xD7, 0xD8, 0xF4, 0xF5].contains op || (decide (0xE0 ≤ op) && decide (op ≤ 0xE7))

/-- The ranges of bits that must be zero: lowest bit and number of bits of each (R77, R80, R87 to R89, and the rule of each word). D, A,
B and C lie at 38, 28, 18 and 8. -/
def zeroFields (op w : Nat) : List (Nat × Nat) :=
  (7, 1) ::
  (if [0x00, 0x06, 0x08, 0x0A, 0x0D].contains op then [(8, 10), (18, 10), (28, 10), (38, 10)]
   else if op = 0x01 ∨ op = 0x03 then [(48, 4)]
   else if op = 0x02 ∨ op = 0x05 then [(8, 10), (18, 10), (38, 10)]
   else if op = 0x09 then [(8, 10), (18, 10), (28, 10)]
   else if op = 0x0B ∨ op = 0x0C then [(28, 10), (38, 10)]
   else if [0x10, 0x11, 0x14, 0x15, 0x1A, 0x1B, 0x1D, 0x1E, 0x1F, 0x20, 0x21, 0x22, 0x23, 0x25, 0x2B, 0x2E, 0x2F, 0x40, 0x41, 0x42,
     0x44, 0x45, 0x48, 0x56, 0x71, 0x76, 0x80, 0x81, 0x8D].contains op then [(8, 10)]
   else if [0x04, 0x18, 0x19, 0x24, 0x27, 0x28, 0x29, 0x2A, 0x46, 0x47, 0x85, 0x8A, 0x8B, 0x8C, 0xD0].contains op ∨
     (0x49 ≤ op ∧ op ≤ 0x55) ∨ op = 0x57 then [(8, 10), (18, 10)]
   else if op = 0x3D then [(24, 4)]
   else if op = 0x3E then [(14, 2)]
   else if op = 0x70 then (if field w 55 52 = 11 ∨ field w 55 52 = 12 then [(8, 10)] else [(8, 10), (18, 10)])
   else if op = 0x83 then [(8, 10), (18, 10), if w.testBit 48 then (38, 10) else (28, 10)]
   else if op = 0x86 then [(28, 10)]
   else if op = 0x87 ∨ op = 0x88 then (if w.testBit 48 then [] else [(8, 10)])
   else if op = 0x8E ∨ op = 0xF0 then [(8, 8), (28, 10), (48, 4)]
   else if [0x8F, 0xF1, 0xF2, 0xF3].contains op then [(8, 8), (38, 10), (48, 4)]
   else if op = 0xF4 then (if field w 55 52 = 0 then [(8, 8), (28, 10), (48, 4)] else [(8, 8), (48, 4)])
   else if op = 0xF5 then (if field w 55 52 = 0 then [(8, 8), (38, 10), (48, 4)] else [(8, 8), (48, 4)])
   else if op = 0xA8 then [(38, 10)]
   else if op = 0xC5 then [(28, 10), (38, 10)]
   else if op = 0xC6 ∨ op = 0xC7 then [(21, 7), (28, 10), (38, 10)]
   else if op = 0xD1 ∨ op = 0xD2 then [(49, 7)]
   else if op = 0xD3 ∨ op = 0xD5 then [(8, 10), (18, 10), (28, 10)]
   else if op = 0xD7 ∨ op = 0xD8 then [(50, 6)]
   else if op = 0xD6 ∨ op = 0xE1 then [(8, 12), (20, 8), (48, 1)]
   else if [0xD4, 0xE0, 0xE3, 0xE6, 0xE7].contains op then [(8, 12), (20, 8), (28, 10), (48, 1)]
   else if op = 0xE2 then [(8, 12), (22, 6), (28, 10), (48, 1)]
   else if op = 0xE4 ∨ op = 0xE5 then [(8, 12), (21, 7), (28, 10), (48, 1)]
   else [])

/-- Bit p of the word must be zero and is not. -/
def reserved (op w p : Nat) : Bool := w.testBit p && (zeroFields op w).any (fun r => decide (r.1 ≤ p) && decide (p < r.1 + r.2))

/-- The type codes that a word accepts in TY (R83, R129, and the rule of each word); none where TY is no type. LRED's follow its
operation. -/
def types (op w : Nat) : Option (List Nat) :=
  let int32 := [0, 1, 3]
  let ints := [0, 1, 3, 4, 5, 6]
  let signs := [0, 1, 4, 5]
  let floats := [2, 9, 10]
  if op ≤ 0x0D ∧ op ≠ 0x01 ∧ op ≠ 0x03 then some [0]
  else if [0xC6, 0xC7, 0xD0, 0xD3, 0xD5, 0x8A].contains op then some [0]
  else if [0x15, 0x1A, 0x1B, 0x2B, 0x33, 0x34, 0x3D].contains op then some signs
  else if [0x17, 0x1C, 0x2F, 0x30].contains op then some [0, 1]
  else if op = 0x18 then some [0, 4]
  else if op = 0x26 then none
  else if [0x2D, 0x2E, 0x3C, 0x3F].contains op ∨ (0x73 ≤ op ∧ op ≤ 0x76) then some int32
  else if (0x10 ≤ op ∧ op ≤ 0x3F) ∨ op = 0x80 then some ints
  else if 0x40 ≤ op ∧ op ≤ 0x47 then some (floats ++ [11, 12])
  else if (0x48 ≤ op ∧ op ≤ 0x57) ∨ op = 0x71 ∨ op = 0x72 ∨ op = 0x81 then some floats
  else if op = 0x58 then some [11, 12]
  else if 0x59 ≤ op ∧ op ≤ 0x5C then some [2]
  else if op = 0x70 then some [0, 1, 2, 4, 5, 7, 8, 9, 10, 11, 12, 13, 14]
  else if [0x83, 0x86, 0x87, 0x88, 0x89].contains op then some [3]
  else if [0x84, 0x85, 0x8D].contains op then some [3, 6]
  else if op = 0x8B then some [6]
  else if op = 0x8C then
    (match field w 50 48 with
     | 0 => some [0, 1, 2, 3]
     | 1 | 2 => some [0, 1, 2]
     | 3 | 4 | 5 => some int32
     | _ => none)
  else none

/-- The lowest bits of the parts of MOD that hold a value the word does not accept (R130, and the rule of each word). -/
def mods (op w : Nat) : List Nat :=
  let m := field w 51 48
  let ty := field w 55 52
  let at_ := fun (bad : Prop) [Decidable bad] (p : Nat) => if bad then [p] else []
  if [0x10, 0x11, 0x18, 0x19, 0x31].contains op then at_ (m % 2 = 1 ∧ (ty = 3 ∨ ty = 6)) 48 ++ at_ (2 ≤ m) 49
  else if op = 0x30 then at_ (m % 2 = 1 ∧ ty ≠ 0) 48 ++ at_ (2 ≤ m) 49
  else if [0x2E, 0x2F, 0x3C].contains op then at_ (8 ≤ m) 51
  else if [0x40, 0x41, 0x42, 0x43, 0x53, 0x56, 0x58, 0x59, 0x5A, 0x8A].contains op ∨ (0x48 ≤ op ∧ op ≤ 0x4F) then at_ (4 ≤ m) 50
  else if [0x73, 0x74, 0x83, 0x86, 0x87, 0x88].contains op then at_ (2 ≤ m) 49
  else if op = 0x75 ∨ op = 0x76 then at_ (m % 4 = 3) 48 ++ at_ (4 ≤ m) 50
  else if op = 0x70 then
    at_ (m ∉ [0, 1, 2, 4, 5, 7, 8, 9, 10, 13, 14] ∨ ((ty = 11 ∨ ty = 12) ∧ m ≠ 2)) 48
  else if op = 0x80 then at_ (6 ≤ m % 8 ∨ (2 ≤ m % 8 ∧ (ty = 3 ∨ ty = 6))) 48 ++ at_ (8 ≤ m) 51
  else if op = 0x81 then at_ (8 ≤ m) 48
  else if op = 0x8C then at_ (6 ≤ m % 8) 48 ++ at_ (8 ≤ m) 51
  else if [0x01, 0x03, 0x26, 0x71, 0x72, 0x82, 0x89].contains op then []
  else if op ≤ 0x8D ∨ [0xC6, 0xC7, 0xD0, 0xD3, 0xD5].contains op then at_ (m ≠ 0) 48
  else []

/-- The number fields of a word: lowest bit, and how many numbers there are: 24 predicates, 16 tiles, 3 regions (R80). -/
def numbers (op : Nat) : List (Nat × Nat) :=
  if op = 0x09 ∨ op = 0x80 ∨ op = 0x81 then [(38, 24)]
  else if [0x12, 0x13, 0x72, 0x74, 0x84, 0x89].contains op then [(8, 24)]
  else if op = 0x82 then [(38, 24), (28, 24), (18, 24), (8, 24)]
  else if op = 0x8A then [(38, 24), (28, 24)]
  else if op = 0x8B ∨ op = 0xD6 then [(28, 24)]
  else if [0xD0, 0xD1, 0xD2, 0xD3].contains op then [(38, 16)]
  else if [0xD5, 0xD7, 0xD8].contains op then [(38, 3)]
  else []

/-- R85, R86, R192, R197, R202, R204, R206, R218, R224: the fields of the memory words. -/
def memory (op w : Nat) : List Nat :=
  let sz := field w 55 53
  let ord := field w 52 51
  let scope := field w 50 48
  let rb := field w 27 20
  let aop := field w 19 16
  let at_ := fun (bad : Prop) [Decidable bad] (p : Nat) => if bad then [p] else []
  let sizes := fun (n : Nat) => at_ (n < sz) 53
  let order := fun (l : List Nat) (weak top : Nat) =>
    if ord ∈ l then at_ ((if ord = 0 then weak else top) < scope) 48 else at_ (5 < scope) 48 ++ [51]
  let base := at_ (0xC0 ≤ rb ∧ rb ≠ 0xFF) 20
  let scratch := at_ (rb < 0x80 ∨ (0xC0 ≤ rb ∧ rb ≠ 0xFF)) 20
  let op_ := at_ (10 < aop ∨ (aop = 10 ∧ sz ≠ 0)) 16
  match op with
  | 0xA0 => sizes 4 ++ order [0, 1] 0 5 ++ base
  | 0xA1 => sizes 4 ++ order [0, 2] 0 4 ++ base
  | 0xA2 => sizes 4 ++ order [0, 1] 0 4 ++ scratch
  | 0xA3 => sizes 4 ++ order [0, 2] 0 4 ++ scratch
  | 0xA4 => sizes 2 ++ order [0] 0 0 ++ base
  | 0xA5 => sizes 1 ++ at_ (5 < scope ∨ (scope = 5 ∧ ord % 2 = 0)) 48 ++ base ++ op_
  | 0xA6 => sizes 1 ++ at_ (4 < scope) 48 ++ scratch ++ op_
  | 0xA7 => sizes 1 ++ at_ (4 < scope) 48 ++ base ++ op_ ++ at_ (aop = 8 ∨ aop = 9) 16
  | 0xA8 => sizes 0 ++ order [0] 0 0 ++ base
  | 0xC0 | 0xC1 => sizes 0 ++ order [0] 2 2 ++ scratch
  | 0xC2 => sizes 0 ++ order [0, 2] 2 2 ++ scratch
  | 0xC3 => sizes 0 ++ order [0, 1] 2 2 ++ at_ (24 ≤ rb) 20
  | 0xC4 => sizes 1 ++ order [0, 1] 0 (if w.testBit 27 then 4 else 5) ++ at_ (field w 26 24 = 7) 24
  | 0xC5 => sizes 0 ++ at_ (field w 19 8 ≠ 0) 8 ++ at_ (1 < rb) 20 ++ at_ (4 < scope) 48 ++ at_ (ord = 0 ∧ rb ≠ 1) 51
  | 0xD1 | 0xD2 => scratch
  | 0xD7 | 0xD8 => if w.testBit 49 then scratch else base
  | _ => []

/-- R87 to R89, R185, R208 to R212, R226, R250, R255: the fields of the branches, of the engine commands and of the system words. -/
def others (op w : Nat) : List Nat :=
  let sub := field w 55 52
  let idx := field w 27 16
  let ef := field w 27 20
  let at_ := fun (bad : Prop) [Decidable bad] (p : Nat) => if bad then [p] else []
  let slot := at_ (field w 51 49 ≠ 0) 49
  match op with
  | 0x01 | 0x03 => at_ (2 < sub) 52
  | 0x8E => at_ (2 < sub) 52 ++ at_ (0x12 < idx) 16
  | 0x8F => at_ (2 < sub) 52 ++ at_ (idx ≠ 0x0A ∧ idx ≠ 0x0B) 16
  | 0xD4 | 0xD6 => at_ (0 < sub) 52
  | 0xE0 | 0xE1 | 0xE3 | 0xE4 | 0xE5 | 0xE6 => at_ (0 < sub) 52 ++ slot
  | 0xE2 => at_ (4 < sub) 52 ++ slot ++ at_ (ef % 4 = 3 ∨ (ef % 4 = 2 ∧ sub ≠ 0)) 20
  | 0xE7 => at_ (1 < sub) 52 ++ slot
  | 0xF0 | 0xF1 => at_ (sub % 4 = 3 ∨ 8 ≤ sub) 52 ++ at_ (sub / 4 = 0 ∧ 0x12 < idx) 16 ++
      at_ (sub / 4 = 1 ∧ ¬ ((0x100 ≤ idx ∧ idx ≤ 0x104) ∨ (0x180 ≤ idx ∧ idx ≤ 0x185) ∨ (0x190 ≤ idx ∧ idx ≤ 0x1CF) ∨
        (0x200 ≤ idx ∧ idx ≤ 0x217) ∨ (0x300 ≤ idx ∧ idx ≤ 0x305) ∨ (0x400 ≤ idx ∧ idx ≤ 0x7FF) ∨ (0x800 ≤ idx ∧ idx ≤ 0x809) ∨
        (0x900 ≤ idx ∧ idx ≤ 0x908) ∨ (0x90A ≤ idx ∧ idx ≤ 0x90B) ∨ (0x910 ≤ idx ∧ idx ≤ 0x911) ∨ (0x918 ≤ idx ∧ idx ≤ 0x91C) ∨
        (0x921 ≤ idx ∧ idx ≤ 0x923) ∨ (0x930 ≤ idx ∧ idx ≤ 0x931) ∨ (0x940 ≤ idx ∧ idx ≤ 0x957) ∨ (0xC00 ≤ idx ∧ idx ≤ 0xFFF))) 16
  | 0xF2 => at_ (0 < sub) 52 ++ at_ (0 < idx) 16
  | 0xF3 => at_ (0 < sub) 52
  | 0xF4 => at_ (1 < sub) 52 ++ at_ (16 < idx) 16
  | 0xF5 => at_ (1 < sub) 52 ++ at_ (0 < idx) 16
  | _ => []

/-- R146, R167, R176, R184, R207 and the immediate forms: the conditions of single words on their operands. -/
def operands (op w : Nat) : List Nat :=
  let d := field w 47 38
  let a := field w 37 28
  let b := field w 27 18
  let c := field w 17 8
  let at_ := fun (bad : Prop) [Decidable bad] (p : Nat) => if bad then [p] else []
  let bare := at_ (field w 6 2 ≠ 31) 2
  match op with
  | 0x07 => bare ++ at_ ((c ≠ 0 ∨ b ≠ 0) ∧ ((a = 0 ∧ d = 0) ∨ 256 ≤ c)) 8 ++
      at_ ((c ≠ 0 ∨ b ≠ 0) ∧ (b / 256 ≠ 1 ∨ ((a ≠ 0 ∨ d ≠ 0) ∧ b = d))) 18 ++
      at_ ((a ≠ 0 ∨ d ≠ 0) ∧ 256 ≤ a) 28 ++ at_ ((a ≠ 0 ∨ d ≠ 0) ∧ d / 256 ≠ 1) 38
  | 0x08 => bare
  | 0x3E => at_ (8 < field w 19 16) 16
  | 0x3F => (List.range 4).flatMap (fun k => at_ (6 ≤ field w (10 + 5 * k) (8 + 5 * k)) (8 + 5 * k))
  | 0x87 => at_ (a / 256 ≠ 1) 28
  | 0x88 => at_ (d / 256 ≠ 1) 38
  | 0xC6 => bare ++ at_ (32 < field w 20 12) 12
  | 0xC7 => bare ++ at_ (384 < field w 20 12) 12
  | _ => []

/-- R78, R79, R94, R96: the lowest bit of every field of a word that holds a value the word does not accept. -/
def offends (op w : Nat) : List Nat :=
  (if w.testBit 0 && !long op then [0] else []) ++ (if w.testBit 1 && decide (field w 6 2 = 31) then [1] else []) ++
  (if 24 ≤ field w 6 2 ∧ field w 6 2 ≤ 30 then [2] else []) ++
  ((numbers op).filter (fun n => decide (n.2 ≤ field w (n.1 + 9) n.1))).map (·.1) ++
  (match types op w with
   | some l => if field w 55 52 ∈ l then [] else [52]
   | none => []) ++ mods op w ++ memory op w ++ others op w ++ operands op w

end Table

end Sys2Proof

namespace Sys2Proof.Machine

/-- The state after the first touches of the constants that the focused word reads (R32, R367). -/
def wordTouch (i : Instr) (s : State) : State :=
  match s.focus, i.info with
  | some ⟨gid, lane⟩, some f =>
    match (s.grp gid).entryAt lane with
    | some e => s.touchWord gid ((s.grp gid).guard e.mask f.g) f
    | none => s
  | _, _ => s

/-- The issue of a word of the focused entry, where none of the conditions holds that keep a word from its own effect: it waits for
nothing (R21, R72, R81, R221, R269, R310), decodes in the group's state (R94), is not a privileged word in an unprivileged context (R92) nor a
strand-ending word in handler mode (R99), its cohorts are complete (R168), its lanes are not sealed if it is memory-affecting
(R265), no register it reads is poisoned (R44), it overwrites no register that the strand has read (R263), and the constants it
names can be read (R32). n lists what the word is; the issue holds the state with the word's reads and its issue recorded. -/
def issueOf (i : Instr) (s : State) (n : Need) : Option Issue :=
  match s.focus, i.info with
  | some ⟨gid, lane⟩, some f =>
    let g := s.grp gid
    match g.entryAt lane with
    | none => none
    | some e =>
      let reads := f.ops.flatMap (fun x => opkReads x.1 x.2.1) ++ n.reads
      let writes := f.ops.flatMap (fun x => opkWrites x.1 x.2.1) ++ n.writes
      let pass := g.guard e.mask f.g
      let rset := addReads g.readSet (vRegs reads ++ n.laneReads.map (·.2))
      let poison := (vRegs reads).any (fun r => (KMap.getD g.vpoison 0 r &&& pass) != 0) ||
        n.laneReads.any (fun x => (KMap.getD g.vpoison 0 x.2).getLsbD x.1)
      if s.holds gid e f n || (s.decodeTrap gid e f n).isSome || (n.priv && !bitOf (s.ctx g.ctx).flags 1) ||
          (n.nested && e.handler) || (n.cross && !g.crossOk e.mask) || (n.memaff && (g.sealed &&& e.mask) != 0) || poison ||
          (!n.survivors && (vRegs writes).any (fun r => rset.getLsbD r)) then none
      else
        let s1 := (s.touchWord gid pass f).setGrp gid { g with
          readSet := rset
          issued := if minus e.mask e.retry = 0 then g.issued else g.issued ++ [minus e.mask e.retry] }
        match s1.readWord gid pass f with
        | .error _ => none
        | .ok q => some ⟨s1, gid, lane, e, pass, q⟩
  | _, _ => none

/-- The state after a word that is done for its whole entry and leaves the group as g: the entry goes to the next word (R69), and the
group does what it does of itself. -/
def Issue.done (x : Issue) (g : Group) : State := (x.s.setGrp x.gid (g.modEntry x.lane Entry.advance)).settle x.gid

/-- As done, where the word has changed the whole state. -/
def Issue.doneS (x : Issue) (s : State) : State := (s.modGrp x.gid (fun g => g.modEntry x.lane Entry.advance)).settle x.gid

/-- The word completes, and leaves its group with the result val l in each passing lane l of its destination d (R31, R33), the
lanes counted to a meter where one counts them (R136). -/
def Gives (i : Instr) (s : State) (x : Issue) (meter : Option (Nat × Nat)) (d : Operand) (ty : Ty) (w : Nat) (val : Nat → Nat) :
    Prop :=
  exec i s = .next (x.done ((x.g.write d ty w (x.vals val)).count x.pass meter))

/-- Every issue of a V3 word gives the result val, of type ty and w bits, in its passing lanes. -/
def Computes (mk : V3 → Instr) (ty : V3 → Ty) (w : V3 → Nat) (val : V3 → Issue → Nat → Nat) : Prop :=
  ∀ f s x, issueOf (mk f) s {} = some x → Gives (mk f) s x none f.d (ty f) (w f) (val f x)

/-- The same of a VI word, whose result has the type and width of its TY. -/
def ComputesI (mk : VI → Instr) (val : VI → Issue → Nat → Nat) : Prop :=
  ∀ f s x, issueOf (mk f) s {} = some x → Gives (mk f) s x none f.d f.ty f.w (val f x)

/-- Every issue of a V3 word gives a w-bit result whose bit i is bit. -/
def ComputesBits (mk : V3 → Instr) (ty : V3 → Ty) (w : V3 → Nat) (bit : V3 → Issue → Nat → Nat → Bool) : Prop :=
  ∀ f s x, issueOf (mk f) s {} = some x →
    ∃ val, Gives (mk f) s x none f.d (ty f) (w f) val ∧
      ∀ l, val l < 2 ^ w f ∧ ∀ i, i < w f → (val l).testBit i = bit f x l i

/-- The same of a VI word. -/
def ComputesBitsI (mk : VI → Instr) (bit : VI → Issue → Nat → Nat → Bool) : Prop :=
  ∀ f s x, issueOf (mk f) s {} = some x →
    ∃ val, Gives (mk f) s x none f.d f.ty f.w val ∧
      ∀ l, val l < 2 ^ f.w ∧ ∀ i, i < f.w → (val l).testBit i = bit f x l i

/-- The opcode of a word. -/
def opcodeOf (i : Instr) : Option Nat := i.info.map (fun f => f.op)

/-- No trap of another entry waits to be taken (R98), and some lane of the group has not exited: nothing but the word itself acts
on the group's registers at this step. -/
def Group.calm (g : Group) : Bool := (g.deferred.isNone || g.handler.isSome) && g.exited != allLanes

/-- What a word that touches registers only leaves alone: V registers and kerb slots but those it writes in the lanes that pass, S
registers and predicates but those it writes (predicates in the lanes that pass), every special register, and everything outside
the group, as it stands in u: the state in which the pages of the word's constants are placed. -/
structure LeavesAlone (s u t : State) (gid : Nat) (pass : Mask) (ws : List RegRef) : Prop where
  vector : ∀ r l, l < 64 → ¬ (.v r ∈ ws ∧ pass.getLsbD l = true) → (t.grp gid).vGet r l = (s.grp gid).vGet r l
  kerb : ∀ r l, l < 64 → ¬ (.k r ∈ ws ∧ pass.getLsbD l = true) →
    KMap.find? (t.grp gid).kerb (r * 64 + l) = KMap.find? (s.grp gid).kerb (r * 64 + l)
  scalar : ∀ r, .s r ∉ ws → (t.grp gid).sGet r = (s.grp gid).sGet r
  pred : ∀ r l, ¬ (.p r ∈ ws ∧ pass.getLsbD l = true) → ((t.grp gid).pGet r).getLsbD l = ((s.grp gid).pGet r).getLsbD l
  cause : (t.grp gid).xcause = (s.grp gid).xcause
  decode : (t.grp gid).xdec0 = (s.grp gid).xdec0 ∧ (t.grp gid).xdec1 = (s.grp gid).xdec1 ∧
    (t.grp gid).xdec2 = (s.grp gid).xdec2 ∧ (t.grp gid).xdec3 = (s.grp gid).xdec3
  utvec : (t.grp gid).utvec = (s.grp gid).utvec
  reentry : (t.grp gid).reentry = (s.grp gid).reentry ∧ (t.grp gid).limit = (s.grp gid).limit
  stall : (t.grp gid).govStall = (s.grp gid).govStall
  lanes : (t.grp gid).exited = (s.grp gid).exited ∧ (t.grp gid).sealed = (s.grp gid).sealed
  buffer : (t.grp gid).buffer = (s.grp gid).buffer
  others : ∀ h, h ≠ gid → t.grp h = s.grp h
  rest : { t with groups := [] } = { u with groups := [] }

/-- What the issue of a register word needs beyond its operand fields. -/
def wordNeed (i : Instr) (s : State) : Need :=
  match i with
  | .elect _ | .shfl _ | .vote _ | .ballot _ | .lred _ | .bcast _ => { cross := true }
  | .cvq f | .cvd f => { slot := some (f.mod.toNat % 8) }
  | .pmov f => if f.mod.getLsbD 0 then { writes := allPreds } else { reads := allPreds }
  | .movx f => { laneReads := indexPlan i s f f.a }
  | .movxs f => { writes := (indexPlan i s f f.d).map (fun e => .v e.2) }
  | _ => {}

/-- The registers that a register word may write in its passing lanes; none for a word that does more than write registers, and
for an indexed move with a bad index, which traps. -/
def wordWrites (i : Instr) (x : Issue) : Option (List RegRef) :=
  match i with
  | .nop _ | .yield _ => some []
  | .iadd f | .isub f | .imul f | .imulh f | .imad f | .iabs f | .ineg f | .imin f | .imax f | .shl f | .shr f | .sha f | .rot f
  | .andw f | .orw f | .xorw f | .notw f | .andn f | .brev f | .bfx f | .bfi f | .cvt f | .sel f | .mov f | .bcast f =>
    some (opRegs f.d f.w)
  | .isad f | .lop3 f | .popc f | .clz f | .ctz f | .prmt f | .lea f | .dp4 f | .fadd f | .fsub f | .fmul f | .ffma f | .fmin f
  | .fmax f | .fabs f | .fneg f | .fflr f | .fceil f | .ftrunc f | .frnd f | .ffrc f | .fclass f | .fscale f | .fgetexp f
  | .fdot2 f | .cvq f | .packt f | .pack f | .unpk f | .lred f => some (opRegs f.d 32)
  | .imadw f | .leaw f | .ballot f => some (opRegs f.d 64)
  | .iaddc f | .isubb f => some (.p f.c.idx.toNat :: opRegs f.d f.w)
  | .cvd f | .unpkt f | .shfl f => some (.p f.c.idx.toNat :: opRegs f.d 32)
  | .elect f | .icmp f | .fcmp f | .plop f | .vote f => some [.p f.d.idx.toNat]
  | .iaddImm f | .imulImm f | .iminImm f | .imaxImm f | .shlImm f | .shrImm f | .shaImm f | .rotImm f | .andImm f | .orImm f
  | .xorImm f | .leaImm f | .bfxImm f | .bfiImm f | .prmtImm f => some (opRegs f.d f.w)
  | .faddImm f | .fmulImm f | .fminImm f | .fmaxImm f | .movi f => some (opRegs f.d 32)
  | .pmov f => some (if f.mod.getLsbD 0 then allPreds else opRegs f.d 32)
  | .movx f => if (x.indexAll f f.a).isSome then some (opRegs f.d 32) else none
  | .movxs f => (x.indexAll f f.d).map (fun l => l.map (fun e => .v e.2))
  | .srd f => some (opRegs f.d f.partBits)
  | _ => none

/-! ### Where entries go, traps and accesses -/

/-- R69: the address is no header: the headers of the code say so, or, where a page of them is not present or faults, what kld's load
tells of it. -/
def Issue.noHeader (x : Issue) (target : Nat) : Prop :=
  x.s.isHeader x.gid target = .ok false ∨ ∃ m, x.s.isHeader x.gid target = .error m ∧ x.s.loadedHeader x.gid target = false

/-- R275: %reentry after lanes have trapped STRAND_LIVELOCK: the limit, where the re-entry of one of them would take it above. -/
def Group.livelock (g : Group) (m : Mask) : Nat :=
  if (lanesOf m).any (fun l => decide (g.limit < KMap.getD g.recheck 0 l)) then g.limit else g.reentry

/-- The frontier of t after the entry of an issue has ended: the lanes of stay are at the next word, and those of each target (its
address, PRIO and lanes) stand there and have yet to start its clause; the other entries are as they were. -/
def Issue.sends (x : Issue) (t : Group) (stay : Mask) (tgts : List (Nat × Nat × Mask)) : Prop :=
  ∀ y, y ∈ t.entries ↔ (y ∈ x.g.entries ∧ y.mask.getLsbD x.lane = false) ∨
    (stay ≠ 0 ∧ y = { x.e.advance with mask := stay }) ∨
    ∃ e ∈ tgts, y = { x.e with pc := e.1, prio := e.2.1, mask := e.2.2, clause := none, wait := .none, retry := 0, governed := false }

/-- The registers of two groups are equal. -/
structure SameRegs (g t : Group) : Prop where
  vector : t.v = g.v
  kerb : t.kerb = g.kerb
  scalar : t.s = g.s
  pred : t.p = g.p
  buffer : t.buffer = g.buffer
  sealed : t.sealed = g.sealed ∧ t.exited = g.exited

/-- R96 to R98: group t is group g after the entry e, which holds the lane, has trapped with a cause at a position of a word that
stands at pc: the decode registers, the entry at the handler that %utvec names, and where TRET returns to. -/
structure TrapEntered (g t : Group) (lane : Nat) (e : Entry) (c : Cause) (pos word pc : Nat) : Prop where
  cause : t.xcause.toNat = pos * 256 + c.code
  dec0 : t.xdec0.toNat = word / 2 ^ 48 % 2 ^ 16
  dec1 : t.xdec1.toNat = word / 2 ^ 28 % 2 ^ 20
  dec2 : t.xdec2.toNat = word / 2 ^ 8 % 2 ^ 20
  dec3 : t.xdec3.toNat = pc / 8 % 2 ^ 54 * 256 + word % 256
  entries : t.entries = g.entries.map (fun y => if y.mask.getLsbD lane then
    { y with pc := g.utvec, clause := none, wait := .none, handler := true, retry := 0, governed := false } else y)
  handler : t.handler = some ⟨c, e.advance.pc, e.advance.clause, e.prio⟩
  regs : SameRegs g t

/-- The issue after the first touch of the record that RB names (R86, R367). -/
def Issue.touched (x : Issue) (f : FM) : Issue := if x.pass ≠ 0 ∧ f.rb.toNat < 0x80 then x.touchRecord f.rb.toNat else x

/-- R86: the address that a lane forms: a 64-bit A, or a base and a signed 32-bit A, with the offset. -/
def Issue.formed (x : Issue) (f : FM) (off : Int) (base l : Nat) : Nat :=
  if f.rb.toNat = 0xFF then wrapNat 64 ((x.src f.a 64 l : Int) + off)
  else wrapNat 64 (((if 0x80 ≤ f.rb.toNat then (x.g.sGet (f.rb.toNat - 0x80)).toNat else base : Nat) : Int) +
    signedOf 32 (x.src f.a 32 l) + off)

/-- R86, R191: the passing lanes form their addresses as RB says, all aligned; and where RB names a record of the pool, it is there
and can be read, gives the permission, and where CHK is set, its range holds every access of n bytes. -/
def Issue.reaches (x : Issue) (f : FM) (off : Int) (n align perm : Nat) (addr : Nat → Nat) : Prop :=
  ∃ base : Nat,
    (f.rb.toNat < 0x80 → f.rb.toNat < x.phase.record.poolCount ∧ ∃ r, x.record f.rb.toNat = .ok r ∧ r.base = base ∧
      bitOf r.flags perm = true ∧
      (bitOf r.flags 3 = true → ∀ l, x.pass.getLsbD l = true → r.base ≤ addr l ∧ addr l + n ≤ r.base + r.size)) ∧
    ∀ l, x.pass.getLsbD l = true → addr l % align = 0 ∧ addr l = x.formed f off base l

/-- R191: the checks of a word i that accesses memory with some lane passing. RB names a record that the pool lacks: RECORD_RANGE at 20.
An address is not aligned: ALIGN at 28. The record forbids the access, or with CHK a byte of it lies outside the record's range:
RECORD_RANGE at 20. -/
structure Issue.Checks (x : Issue) (i : Instr) (s : State) (f : FM) (off : Int) (n align perm : Nat) : Prop where
  missing : f.rb.toNat < 0x80 → x.phase.record.poolCount ≤ f.rb.toNat → exec i s = x.trap .recordRange 20
  aligned : 0x80 ≤ f.rb.toNat → (∃ l, x.pass.getLsbD l = true ∧ x.formed f off 0 l % align ≠ 0) → exec i s = x.trap .align 28
  record : f.rb.toNat < x.phase.record.poolCount → f.rb.toNat < 0x80 → ∀ r, (x.touched f).record f.rb.toNat = .ok r →
    ((∃ l, x.pass.getLsbD l = true ∧ x.formed f off r.base l % align ≠ 0) → exec i s = (x.touched f).trap .align 28) ∧
    ((∀ l, x.pass.getLsbD l = true → x.formed f off r.base l % align = 0) →
      (bitOf r.flags perm = false ∨ (bitOf r.flags 3 = true ∧ ∃ l, x.pass.getLsbD l = true ∧
        (x.formed f off r.base l < r.base ∨ r.base + r.size < x.formed f off r.base l + n))) →
      exec i s = (x.touched f).trap .recordRange 20)

/-- Every stash line but the one through which a place is reached holds another line (R329): reading and writing the places recalls
nothing. -/
def State.unshared (s : State) (locs : List Loc) : Prop :=
  ∀ e ∈ s.teams, ∀ l ∈ e.2.stash, ∀ p ∈ locs, p.win = some (e.1, l.1) ∨
    ∃ q, KMap.find? e.2.stashAt l.1 = some q ∧ lineKey q.key ≠ lineKey p.key

/-- The accesses of the passing lanes are served: after the first touch of their pages the state is s1, and lane l finds its n bytes
at locs l, in the stash lines that lines l names. -/
def Issue.served (x : Issue) (spad : Bool) (kind : Acc) (n : Nat) (addr : Nat → Nat) (s1 : State) (locs : Nat → List Loc)
    (lines : Nat → List (Nat × Nat)) : Prop :=
  s1 = (x.vals addr).foldl (fun s e =>
    if spad then s.spadTouch x.tid (e.2 % 2 ^ 32) n else s.touchRange x.ctx (towerOf x.team.core) kind e.2 n) x.s ∧
  ∀ l, x.pass.getLsbD l = true →
    (if spad then s1.spadSpan x.tid kind (addr l % 2 ^ 32) n else s1.globalSpan x.ctx kind n (addr l)) =
      .ok ⟨locs l, lines l⟩

/-- As served, where an access may miss: lane l's n bytes have the span that span l names, or miss as it says. -/
def Issue.placed (x : Issue) (spad : Bool) (kind : Acc) (n : Nat) (addr : Nat → Nat) (s1 : State) (span : Nat → Except Miss Span) : Prop :=
  s1 = (x.vals addr).foldl (fun s e =>
    if spad then s.spadTouch x.tid (e.2 % 2 ^ 32) n else s.touchRange x.ctx (towerOf x.team.core) kind e.2 n) x.s ∧
  ∀ l, x.pass.getLsbD l = true →
    span l = (if spad then s1.spadSpan x.tid kind (addr l % 2 ^ 32) n else s1.globalSpan x.ctx kind n (addr l))

/-- R191, R361: an access faults, that of the lowest passing lane that misses otherwise than on a page that is not present. -/
def Issue.faultsBy (x : Issue) (span : Nat → Except Miss Span) (cause detail : Nat) : Prop :=
  ∃ l, x.pass.getLsbD l = true ∧ span l = .error (.fault cause detail) ∧
    ∀ k, k < l → x.pass.getLsbD k = true → (∃ sp, span k = .ok sp) ∨ ∃ p c z, span k = .error (.absent p c z)

/-- R191, R272: no access faults; those of the lanes in ok are served, and the lanes in away meet a page that is not present: the page,
the code of its notice and the level. -/
structure Issue.Splits (x : Issue) (span : Nat → Except Miss Span) (ok : List (Nat × Span)) (away : List (Nat × Nat × Nat × Nat)) : Prop where
  served : ok = (lanesOf x.pass).filterMap (fun l => (span l).toOption.map (fun sp => (l, sp)))
  parked : away = (lanesOf x.pass).filterMap (fun l => match span l with
    | .error (.absent page code level) => some (l, page, code, level)
    | _ => none)
  only : ∀ l, x.pass.getLsbD l = true → (∃ sp, span l = .ok sp) ∨ ∃ p c z, span l = .error (.absent p c z)

/-- R272, R285, R368: lanes park on their pages, each page after its notice. -/
def Issue.parkAll (x : Issue) (t : State) (away : List (Nat × Nat × Nat × Nat)) : State :=
  ((away.foldl (fun s e => s.pageNotice (s.coreOf x.gid) x.ctx e.2.1 e.2.2.1 e.2.2.2) t).park x.gid
    (away.map (fun e => (e.1, e.2.1)))).settle x.gid

/-- R272: the word is done for the lanes that are served, and the others park. -/
def Issue.parkS (x : Issue) (t : State) (away : List (Nat × Nat × Nat × Nat)) : State :=
  x.parkAll (t.modGrp x.gid (fun g => g.modEntry x.lane Entry.advance)) away

/-- The flag that an issue takes (R72). -/
def Issue.flagOf (x : Issue) (fsel : Bool) : Option Nat := x.e.clause.bind (fun c => c.flag fsel)

/-- The state with one more in-flight instruction. -/
def State.addOp (s : State) (o : Op) : State := { s with ops := KMap.insert s.ops (KMap.nextKey s.ops) o }

/-- A read of n bytes that the Forecourt makes under a context is served: after the first touch of its pages the state is t, no page of it
waits to be resumed, no engine owns a line of it and no stash holds one, and the bytes are the number x (R310, R357, R367, R445). -/
def State.fcServed (s : State) (ctx va n : Nat) (t : State) (x : Nat) : Prop :=
  t = s.touchRange ctx 0 .load va n ∧ ∃ l, t.vaBytes ctx .load va n = .ok l ∧ t.vaHeld ctx .load va n = false ∧
    (∀ p ∈ l, t.owned p.key = false) ∧ t.unshared l ∧ x = leNat (l.map (t.rd ctx))

/-! ### Engine commands -/

/-- R226, R228: the parameter block of an engine command that is read: its lowest passing lane holds in P the address a, a multiple of
64 in the team's extent and outside every window; every store of the core is visible beyond it, the group's own among them, no engine
owns a line of the block, and its 64 bytes are the number b. -/
def Issue.commands (x : Issue) (p : Operand) (a b : Nat) : Prop :=
  x.g.skip.contains x.pc = false ∧
  (∃ l, x.pass.getLsbD l = true ∧ (∀ k, k < l → x.pass.getLsbD k = false) ∧ a = x.src p 32 l) ∧
  a % 64 = 0 ∧ a < 2 ^ 24 ∧ a + 64 ≤ x.team.extent ∧ x.phase.record.window a = none ∧
  x.s.fifo x.team.core = [] ∧ x.g.buffer = [] ∧
  ∃ sp, x.s.spadSpan x.tid .load a 64 = .ok sp ∧ (∀ p ∈ sp.locs, x.s.owned p.key = false) ∧ b = x.s.readOwn x.gid sp.locs

/-- R72, R227, R264, R274: state t holds the accepted command: of a kind, with its block at a, holding the flag of the word; the entry
has sealed, and the address of the word is kept. -/
structure Issue.Accepted (x : Issue) (t : State) (kind : CmdKind) (fsel : Bool) (a b : Nat) (c : Cmd) : Prop where
  cmd : KMap.find? t.cmds (KMap.nextKey x.s.cmds) = some c
  fields : c.kind = kind ∧ c.team = x.tid ∧ c.gid = x.gid ∧ c.ctx = x.ctx ∧ c.core = x.team.core ∧ c.pc = x.pc ∧
    c.blockAddr = a ∧ c.block = b ∧ c.baddr = b / 2 ^ 384 % 2 ^ 32
  op : KMap.find? t.ops (KMap.nextKey x.s.ops) = some {
    gid := x.gid, pc := x.pc, flag := x.flagOf fsel, lanes := x.pass, entry := x.e.mask, once := true
    kind := .cmd (KMap.nextKey x.s.cmds) }
  sealed : (t.grp x.gid).sealed = x.g.sealed ||| x.e.mask
  kept : (t.grp x.gid).accepted = x.g.accepted ++ [x.pc]
  buffer : (t.grp x.gid).buffer = []

end Sys2Proof.Machine
end

