-- ==== Sys2Proof/WellFormed.lean ====
section
/-! DEFINITION. Well-formed instruction words (R94): the decidable statement that the checks of Machine/Forms find nothing. -/

namespace Sys2Proof

/-- Every bit that must be zero is zero, and every field holds a value that the instruction accepts (R94). -/
abbrev WellFormed (i : Instr) : Prop := i.wf = true

end Sys2Proof
end

