-- ==== Sys2Proof/Certificates/Slice0/Obligations.lean ====
section
/-! DEFINITION. The statements for the provers: what the words and the other agents of the device do, the rules of decoding, and
what every step keeps. -/

open Sys2Proof Sys2Proof.Machine

/-! ### Reset, steps and decoding -/

/-- R7, R9, R351, R363, R378, R395, R402, R408, R419, R424, R431, R435, R437 to R439: the machine right after reset. No group, team, phase,
operation or command is there, no code is loaded and no store or request waits; memory lists nothing and no line is poisoned; every
context is FREE with all of its registers 0; every register of space 1 but the fused identity reads the reset value of its rule,
whichever district, core or context is selected, and the rest read 0; every link is DOWN, every key slot zeroised, and bring-up is at
step 0. The clock starts at 0. A register with no reset value in the spec is 0 (the model's choice, log entry 3: NR_BASE, NR_POS,
NR_DONE, NR_LOST, BAR2_IA, the temperatures); the repair map, the wear counts and the black box are as manufacture leaves a new
device (the model's choice, log entry 4); a byte that nothing has written reads 0 (log entry 7). -/
def Obligations.ResetState : Prop :=
  let s := State.reset
  (s.groups = [] ∧ s.teams = [] ∧ s.phases = [] ∧ s.ops = [] ∧ s.cmds = [] ∧ s.copies = [] ∧ s.units = [] ∧ s.service = [] ∧
    s.commits = [] ∧ s.peerWrites = [] ∧ s.codes = []) ∧
  (s.mem = [] ∧ s.poison = [] ∧ s.l2bad = [] ∧ s.cycle = 0 ∧ ∀ k, s.mem.get k = 0) ∧
  (∀ c, (s.ctx c).st = .free ∧ (s.ctx c).flags = 0 ∧ (s.ctx c).frec = 0 ∧ (s.ctx c).save = 0 ∧ (s.ctx c).saven = 0 ∧
    (s.ctx c).models = 0 ∧ (s.ctx c).nmodels = 0 ∧ (s.ctx c).recaddr = 0 ∧ (s.ctx c).installow = 0 ∧ (s.ctx c).installed = 0 ∧
    (s.ctx c).roster = [] ∧ (s.ctx c).scrublist = 0 ∧ (s.ctx c).scrubn = 0 ∧ (s.ctx c).ranges = [] ∧ (s.ctx c).meters = [] ∧
    (s.ctx c).sticky = 0 ∧ (s.ctx c).fault = none ∧ (s.ctx c).unknown = 0 ∧ (s.ctx c).images = [] ∧ (s.ctx c).layers = []) ∧
  (∀ i, (i < 0x900 ∨ 0x908 < i) → s.dcrRead i = match i with
    | 0x103 => 65536
    | 0x104 => 1048576
    | 0x305 => 3000
    | 0x801 => 240
    | 0x804 => 32
    | 0x805 => 2800
    | 0x806 => 16384
    | 0x808 => 32 * 2 ^ 16
    | 0x809 => 95
    | _ => 0) ∧
  (∀ core, s.clock core = 0 ∧ (s.core core).resident = [] ∧ (s.core core).running = none ∧ (s.core core).limit = 32 ∧
    (s.core core).passes = 0 ∧ (s.core core).hot0 = false ∧ (s.core core).hot1 = false ∧ (s.core core).temp0 = 0 ∧
    (s.core core).temp1 = 0 ∧ (s.core core).pipes = []) ∧
  (∀ d, (s.district d).budget = 240 ∧ (s.district d).granted = [] ∧ (s.district d).waiting = [] ∧ (s.district d).st = .on ∧
    (s.district d).delayed = false ∧ (s.district d).ballast = false ∧ (s.district d).injecting = false ∧
    (s.district d).suspect = false ∧ (s.district d).inj = 0) ∧
  (s.fc.slots = [] ∧ s.fc.tails = [] ∧ s.fc.held = [] ∧ s.xl.peerGen = [] ∧ s.xl.noticed = [] ∧ s.cc.queue = [] ∧
    s.cc.scrubActive = false) ∧
  (s.stk.spares = [] ∧ s.stk.retired = [] ∧ s.stk.wear = [] ∧ s.stk.flashRetired = [] ∧ s.stk.inUse = []) ∧
  (s.aon.ring = [] ∧ s.aon.seq = 0 ∧ s.aon.eseq = 0 ∧ s.aon.quarantine = [] ∧ s.aon.dump = none) ∧
  (s.nr.base = 0 ∧ s.nr.enable = false ∧ s.nr.pos = 0 ∧ s.nr.doneCount = 0 ∧ s.nr.lost = 0) ∧
  (s.hw.bar2 = 0 ∧ s.hw.off0 = 0 ∧ s.hw.off1 = 0 ∧ s.hw.up0 = false ∧ s.hw.up1 = false) ∧
  (s.links = [] ∧ s.routes = [] ∧ s.ident.keys = [] ∧ s.ident.keyStatus = 0 ∧ s.ident.devState = 0 ∧ s.ident.fail = false ∧
    s.ident.devFail = 0) ∧
  s.agenda = [] ∧ s.focus = none

/-- R81, R281, R282, R284: in its turn a group issues the entry that ranks first among those that can go on: the highest PRIO, and on
equal PRIO the lowest PC. No other entry goes ahead of it; and a word that waits leaves the state as it was. It is a group's turn
where no active group that stands between the one chosen last in its quarter and this one can issue; otherwise it waits. -/
def Obligations.FrontierOrder : Prop :=
  (∀ (s : State) (gid : Nat) (e : Entry), s.pick gid = some e →
    e ∈ (s.grp gid).entries ∧ s.canGo gid e = true ∧
    ∀ x ∈ (s.grp gid).entries, s.canGo gid x = true → x.prio < e.prio ∨ (x.prio = e.prio ∧ e.pc ≤ x.pc)) ∧
  (∀ (s : State) (gid : Nat), s.pick gid = none → ∀ x ∈ (s.grp gid).entries, s.canGo gid x = false) ∧
  (∀ (s : State) (gid : Nat) (e : Entry), s.mayIssue gid = true → s.pipeHeld (s.coreOf gid) (s.grp gid).quarter = true →
    s.pick gid = some e →
    let last := KMap.getD (s.core (s.coreOf gid)).rot 0 (s.grp gid).quarter
    let between := fun (x : Nat) => (last < gid ∧ last < x ∧ x < gid) ∨ (gid ≤ last ∧ (last < x ∨ x < gid))
    ((∀ y ∈ s.activeSet gid, between y.1 → s.issues y.1 = false) → s.turn gid = s.noted gid e (s.issueEntry gid e)) ∧
    ((∃ y ∈ s.activeSet gid, between y.1 ∧ s.issues y.1 = true) → s.turn gid = .next s)) ∧
  (∀ (i : Instr) (s : State) (n : Need) (k : Issue → Out) (gid lane : Nat) (e : Entry) (f : Info),
    s.focus = some ⟨gid, lane⟩ → (s.grp gid).entryAt lane = some e → i.info = some f → s.holds gid e f n = true →
      stage i s n k = .next s)

/-- A step runs the first turn of the agenda, and time goes on by a cycle. In the turn of a group that may issue, whose pipe holds
its reservation, in the rotation of its quarter, the entry that ranks first runs the meaning of the instruction its word decodes to,
traps where the word does not decode (R94), and starts its clause where it is at a header (R71); what an issue brings with it is then
noted: the cycle of the pipe's last issue, the place of the rotation, and that the context is not wholly stalled (R284, R358, R420),
and nothing else, where no suspect window is open (R423). In a turn for two, the entry that would rank first among those of other quads
issues after it, where both are of clauses with DUALOK, neither is in handler mode, each word takes one cycle of the pipe, and the first did
not wait (R75, R81, R283); else only the first issues. The turn of another agent runs the meaning of its row. A placed word is the
first that step runs (log entry 1). -/
def Obligations.StepRunsDecoded : Prop :=
  (∀ (s : State) (gid : Nat) (rest : List Turn) (e : Entry) (lane : Nat), s.agenda = .issue gid :: rest →
    let s1 := { s with agenda := rest }
    s1.mayIssue gid = true → s1.pipeHeld (s1.coreOf gid) (s1.grp gid).quarter = true → s1.inTurn gid = true →
    s1.pick gid = some e → lowLane e.mask = some lane →
      (e.clause.isNone = true → step s = tickOut (s1.noted gid e (exec (.clauseStart gid lane) s1))) ∧
      (e.clause.isSome = true → ∀ i, decodeWord e.word = .instr i →
        step s = tickOut (s1.noted gid e (exec i { s1 with focus := some ⟨gid, lane⟩ }))) ∧
      (e.clause.isSome = true → ∀ c pos, decodeWord e.word = .bad c pos →
        step s = tickOut (s1.noted gid e (.next ((s1.trap gid lane c pos e.word e.pc).settle gid))))) ∧
  (∀ (s t : State) (gid : Nat) (rest : List Turn) (e : Entry),
    let s1 := { s with agenda := rest }
    (s.agenda = .issue gid :: rest → step s = tickOut (s1.turn gid)) ∧
    (s.agenda = .dual gid :: rest → s1.mayIssue gid = true → s1.pipeHeld (s1.coreOf gid) (s1.grp gid).quarter = true →
      s1.pick gid = some e → s1.turn gid = .next t →
      let apart := fun (x : Entry) => x ∈ (s1.grp gid).entries ∧ s1.canGo gid x = true ∧ e.mask ≠ 0 ∧
        ∀ l k, l < 64 → k < 64 → e.mask.getLsbD l = true → x.mask.getLsbD k = true → l / 4 ≠ k / 4
      let able := fun (y : Entry) => s1.dualOk gid y = true ∧ y.handler = false ∧
        (y.clause.isSome = true → ∀ i, decodeWord y.word = .instr i → pipeCycles i = 1)
      (t.moved gid e = false → step s = tickOut (.next t)) ∧
      ((∀ x, apart x → ¬ (able e ∧ able x)) → e.mask ≠ 0 → step s = tickOut (.next t)) ∧
      (∀ x lane, t.moved gid e = true → apart x → (∀ y, apart y → y ≠ x → x.outranks y = true) → able e → able x →
        x ∈ (t.grp gid).entries → lowLane x.mask = some lane →
        (x.clause.isNone = true → step s = tickOut (t.noted gid x (exec (.clauseStart gid lane) t))) ∧
        (x.clause.isSome = true → ∀ i j, decodeWord e.word = .instr j ∨ e.clause.isNone = true → decodeWord x.word = .instr i →
          step s = tickOut (t.noted gid x (exec i { t with focus := some ⟨gid, lane⟩ })))))) ∧
  (∀ (s t : State) (gid : Nat) (e : Entry), s.suspects gid e = false →
    let c := s.coreOf gid
    let q := (s.grp gid).quarter
    ∃ u : State, s.noted gid e (.next t) = .next u ∧ { u with cores := [] } = { t with cores := [] } ∧
      (∀ k, k ≠ c → u.core k = t.core k) ∧
      ((t.core c = u.core c) ∨ (KMap.find? (u.core c).pipes q = some (t.clock c) ∧
        { u.core c with pipes := [], rot := [], stalled := [], noticed := [] } =
          { t.core c with pipes := [], rot := [], stalled := [], noticed := [] } ∧
        (∀ p, p ≠ q → KMap.find? (u.core c).pipes p = KMap.find? (t.core c).pipes p)))) ∧
  (∀ (s : State) (i : Instr) (rest : List Turn), s.agenda = .event i :: rest →
    step s = tickOut (exec i { s with agenda := rest })) ∧
  (∀ (s : State) (n : Nat) (rest : List Turn), s.agenda = .idle n :: rest →
    step s = .next { s with agenda := rest, cycle := s.cycle + n + 1, focus := none }) ∧
  (∀ (s : State), s.agenda = [] → step s = tickOut s.schedule) ∧
  (∀ (w : Nat) (i : Instr), w < 2 ^ 64 → decodeWord w = .instr i → ∃ s : State, ∃ e : Entry,
    step (State.reset.withFetchWord 64 w) = tickOut (s.noted 0 e (exec i { s with focus := some ⟨0, 0⟩ })) ∧
    (s.grp 0).entryAt 0 = some e ∧ e.word = w ∧ e.mask = allLanes)

/-- R77 to R91: words written out from the spec's encodings decode to the instructions they stand for. -/
def Obligations.WordsDecode : Prop :=
  decodeWord 0x000000000000007C = .instr (.nop ⟨.i32, 0, .zero, .zero, .zero, .zero, .always, false⟩) ∧
  decodeWord 0x12004110240C057C = .instr (.iaddc ⟨.i32, 0, ⟨.v, 4⟩, ⟨.v, 2⟩, ⟨.v, 3⟩, ⟨.k, 5⟩, .always, false⟩) ∧
  decodeWord 0x26964050240D047C = .instr (.lop3 ⟨.f16, 6, ⟨.v, 1⟩, ⟨.v, 2⟩, ⟨.v, 3⟩, ⟨.v, 4⟩, .always, false⟩) ∧
  decodeWord 0x5920009073FC007C = .instr (.faddImm ⟨.f32, 0, ⟨.k, 2⟩, ⟨.v, 7⟩, 0x3FC00, .always, false⟩) ∧
  decodeWord 0x4C2341905000007D = .instr (.fex2 ⟨.f32, 3, ⟨.v, 6⟩, ⟨.v, 5⟩, .zero, .zero, .always, true⟩) ∧
  decodeWord 0x712542908C08007C = .instr (.cvq ⟨.f32, 5, ⟨.v, 10⟩, ⟨.v, 8⟩, ⟨.q, 2⟩, .zero, .always, false⟩) ∧
  decodeWord 0x87314510840F047C = .instr (.movx ⟨.b32, 1, ⟨.v, 20⟩, ⟨.v, 8⟩, ⟨.v, 3⟩, ⟨.q, 4⟩, .always, false⟩) ∧
  decodeWord 0x0B00000000002A7C = .instr (.trap ⟨.i32, 0, .zero, .zero, 0x2A, .always, false⟩) ∧
  decodeWord 0x070044402448057C = .instr (.bnd ⟨.i32, 0, ⟨.v, 17⟩, ⟨.k, 2⟩, ⟨.v, 18⟩, ⟨.k, 5⟩, .always, false⟩) ∧
  decodeWord 0x6020444058130C7C = .bad .opcode 56

/-- R77 to R91: the word of every well-formed instruction decodes to that instruction, with every operand at every value that the
encoding admits; and every row of the opcode table that is a word has one. -/
def Obligations.DecodeOfEncode : Prop :=
  (∀ i : Instr, (encode i).isSome = i.info.isSome) ∧
  ∀ (i : Instr) (w : Nat), WellFormed i → encode i = some w → w < 2 ^ 64 ∧ decodeWord w = .instr i

/-- R77 to R91: no bit of a word is dropped: a word that decodes is the word of the instruction it decodes to, which is well
formed. -/
def Obligations.EncodeOfDecode : Prop :=
  ∀ (w : Nat) (i : Instr), w < 2 ^ 64 → decodeWord w = .instr i → encode i = some w ∧ WellFormed i

/-- R78 to R80, R83, R85, R87 to R90, R94 to R96: a word that does not decode, by the tables of its fields. An opcode that the opcode
map does not assign is refused as OPCODE at position 56, before any other check. A word with a bit set that must be zero is refused as
RSVBIT at the lowest such bit, before any field. A word with a field that holds a value it does not accept, a reserved PG or PN among
them, is refused as FIELD at the lowest of their lowest bits (where several offend, the model's choice, log entry 8). Every other
word is an instruction. -/
def Obligations.DecodeRefuses : Prop :=
  ∀ w, w < 2 ^ 64 →
    let op := w / 2 ^ 56
    (Table.assigned op = false → decodeWord w = .bad .opcode 56) ∧
    (Table.assigned op = true →
      (∀ p, Table.reserved op w p = true → (∀ q, q < p → Table.reserved op w q = false) → decodeWord w = .bad .rsvbit p) ∧
      ((∀ p, Table.reserved op w p = false) →
        (∀ p ∈ Table.offends op w, (∀ q ∈ Table.offends op w, p ≤ q) → decodeWord w = .bad .field p) ∧
        (Table.offends op w = [] → ∃ i, decodeWord w = .instr i)))

/-! ### Integer words -/

/-- R137, R139: integer arithmetic, wrapped modulo 2^w, or clamped to the type under .sat (MOD[48]).
R132, R137: the immediate forms of arithmetic have the effect of the V3 forms with B the immediate sign-extended to w bits. -/
def Obligations.IntegerArithmetic : Prop :=
  (Computes .iadd V3.ty V3.w (fun f x l =>
     if f.mod.getLsbD 0 then wrapNat f.w (satn f.ty.signed f.w (tyVal f.ty f.w (x.src f.a f.w l) + tyVal f.ty f.w (x.src f.b f.w l)))
     else (x.src f.a f.w l + x.src f.b f.w l) % 2 ^ f.w) ∧
   Computes .isub V3.ty V3.w (fun f x l =>
     if f.mod.getLsbD 0 then wrapNat f.w (satn f.ty.signed f.w (tyVal f.ty f.w (x.src f.a f.w l) - tyVal f.ty f.w (x.src f.b f.w l)))
     else (x.src f.a f.w l + (2 ^ f.w - x.src f.b f.w l % 2 ^ f.w)) % 2 ^ f.w) ∧
   Computes .imul V3.ty V3.w (fun f x l => x.src f.a f.w l * x.src f.b f.w l % 2 ^ f.w) ∧
   Computes .imulh V3.ty V3.w (fun f x l =>
     wrapNat f.w (tyVal f.ty f.w (x.src f.a f.w l) * tyVal f.ty f.w (x.src f.b f.w l) / 2 ^ f.w)) ∧
   Computes .imad V3.ty V3.w (fun f x l => (x.src f.a f.w l * x.src f.b f.w l + x.src f.c f.w l) % 2 ^ f.w) ∧
   Computes .imadw V3.ty (fun _ => 64) (fun f x l =>
     wrapNat 64 (tyVal f.ty 32 (x.src f.a 32 l) * tyVal f.ty 32 (x.src f.b 32 l) + x.src f.c 64 l)) ∧
   Computes .iabs V3.ty V3.w (fun f x l =>
     let a := signedOf f.w (x.src f.a f.w l)
     wrapNat f.w (if f.mod.getLsbD 0 then satn f.ty.signed f.w (max a (-a)) else max a (-a))) ∧
   Computes .ineg V3.ty V3.w (fun f x l =>
     if f.mod.getLsbD 0 then (if f.ty.signed then wrapNat f.w (satn true f.w (-(signedOf f.w (x.src f.a f.w l)))) else 0)
     else (2 ^ f.w - x.src f.a f.w l % 2 ^ f.w) % 2 ^ f.w) ∧
   Computes .imin V3.ty V3.w (fun f x l =>
     if tyVal f.ty f.w (x.src f.b f.w l) < tyVal f.ty f.w (x.src f.a f.w l) then x.src f.b f.w l else x.src f.a f.w l) ∧
   Computes .imax V3.ty V3.w (fun f x l =>
     if tyVal f.ty f.w (x.src f.b f.w l) < tyVal f.ty f.w (x.src f.a f.w l) then x.src f.a f.w l else x.src f.b f.w l) ∧
   Computes .isad V3.ty (fun _ => 32) (fun f x l =>
     ((tyVal f.ty 32 (x.src f.a 32 l) - tyVal f.ty 32 (x.src f.b 32 l)).natAbs + x.src f.c 32 l) % 2 ^ 32)) ∧
  (let imm := fun f : VI => wrapNat f.w (signedOf 20 f.imm.toNat)
   ComputesI .iaddImm (fun f x l =>
     if f.mod.getLsbD 0 then wrapNat f.w (satn f.ty.signed f.w (tyVal f.ty f.w (x.src f.a f.w l) + tyVal f.ty f.w (imm f)))
     else (x.src f.a f.w l + imm f) % 2 ^ f.w) ∧
   ComputesI .imulImm (fun f x l => x.src f.a f.w l * imm f % 2 ^ f.w) ∧
   ComputesI .iminImm (fun f x l => if tyVal f.ty f.w (imm f) < tyVal f.ty f.w (x.src f.a f.w l) then imm f else x.src f.a f.w l) ∧
   ComputesI .imaxImm (fun f x l => if tyVal f.ty f.w (imm f) < tyVal f.ty f.w (x.src f.a f.w l) then x.src f.a f.w l else imm f))

/-- R138: IADDC and ISUBB take the unsigned values whatever the code, read predicate C as carry-in or borrow-in, and write the
outcome back into it in each lane that passes the guard as it was read at issue; every other lane keeps its bit. -/
def Obligations.CarryChain : Prop :=
  ∀ f : V3,
    opcodeOf (.iaddc f) = some 0x12 ∧ opcodeOf (.isubb f) = some 0x13 ∧
    (WellFormed (.iaddc f) ↔ f.ty ∈ tyI32 ++ tyI64 ∧ f.mod = 0 ∧ f.fsel = false ∧ f.c.lvl = .k ∧ f.c.idx.toNat < 24) ∧
    (WellFormed (.isubb f) ↔ f.ty ∈ tyI32 ++ tyI64 ∧ f.mod = 0 ∧ f.fsel = false ∧ f.c.lvl = .k ∧ f.c.idx.toNat < 24) ∧
    (∀ s x, issueOf (.iaddc f) s {} = some x →
      ∃ out : Mask,
        exec (.iaddc f) s = .next (x.done ((x.g.write f.d f.ty f.w (x.vals (fun l =>
          (x.src f.a f.w l + x.src f.b f.w l + x.g.pBit f.c.idx.toNat l) % 2 ^ f.w))).pSet
            f.c.idx.toNat out)) ∧
        ∀ l, l < 64 → out.getLsbD l =
          if x.pass.getLsbD l then
            decide (2 ^ f.w ≤ x.src f.a f.w l + x.src f.b f.w l + x.g.pBit f.c.idx.toNat l)
          else (x.g.pGet f.c.idx.toNat).getLsbD l) ∧
    (∀ s x, issueOf (.isubb f) s {} = some x →
      ∃ out : Mask,
        exec (.isubb f) s = .next (x.done ((x.g.write f.d f.ty f.w (x.vals (fun l =>
          wrapNat f.w ((x.src f.a f.w l : Int) - x.src f.b f.w l - x.g.pBit f.c.idx.toNat l)))).pSet
            f.c.idx.toNat out)) ∧
        ∀ l, l < 64 → out.getLsbD l =
          if x.pass.getLsbD l then
            decide ((x.src f.a f.w l : Int) - x.src f.b f.w l - x.g.pBit f.c.idx.toNat l < 0)
          else (x.g.pGet f.c.idx.toNat).getLsbD l)

/-- R140: shifts by a 32-bit count, all the bits gone at w or more, and the rotation by the count modulo w; under the immediate
forms the count is the sign-extended immediate. -/
def Obligations.ShiftsAndRotations : Prop :=
  (∀ f : V3, ∀ i ∈ [(Instr.shl f, 0x1D), (.shr f, 0x1E), (.sha f, 0x1F), (.rot f, 0x20)],
    opcodeOf i.1 = some i.2 ∧ (WellFormed i.1 ↔ f.ty ∈ tyI32 ++ tyI64 ∧ f.mod = 0 ∧ f.fsel = false ∧ f.c = .zero)) ∧
  (∀ f : VI, ∀ i ∈ [(Instr.shlImm f, 0x35), (.shrImm f, 0x36), (.shaImm f, 0x37), (.rotImm f, 0x38)],
    opcodeOf i.1 = some i.2 ∧ (WellFormed i.1 ↔ f.ty ∈ tyI32 ++ tyI64 ∧ f.mod = 0 ∧ f.fsel = false)) ∧
  Computes .shl V3.ty V3.w (fun f x l =>
    if x.src f.b 32 l < f.w then x.src f.a f.w l * 2 ^ x.src f.b 32 l % 2 ^ f.w else 0) ∧
  Computes .shr V3.ty V3.w (fun f x l => x.src f.a f.w l / 2 ^ x.src f.b 32 l) ∧
  Computes .sha V3.ty V3.w (fun f x l =>
    if x.src f.b 32 l < f.w then wrapNat f.w (signedOf f.w (x.src f.a f.w l) / 2 ^ x.src f.b 32 l)
    else if signedOf f.w (x.src f.a f.w l) < 0 then 2 ^ f.w - 1 else 0) ∧
  Computes .rot V3.ty V3.w (fun f x l =>
    (x.src f.a f.w l * 2 ^ (x.src f.b 32 l % f.w) + x.src f.a f.w l / 2 ^ (f.w - x.src f.b 32 l % f.w)) % 2 ^ f.w) ∧
  ComputesI .shlImm (fun f x l =>
    if wrapNat 32 (signedOf 20 f.imm.toNat) < f.w then
      x.src f.a f.w l * 2 ^ wrapNat 32 (signedOf 20 f.imm.toNat) % 2 ^ f.w else 0) ∧
  ComputesI .shrImm (fun f x l => x.src f.a f.w l / 2 ^ wrapNat 32 (signedOf 20 f.imm.toNat)) ∧
  ComputesI .shaImm (fun f x l =>
    if wrapNat 32 (signedOf 20 f.imm.toNat) < f.w then
      wrapNat f.w (signedOf f.w (x.src f.a f.w l) / 2 ^ wrapNat 32 (signedOf 20 f.imm.toNat))
    else if signedOf f.w (x.src f.a f.w l) < 0 then 2 ^ f.w - 1 else 0) ∧
  ComputesI .rotImm (fun f x l =>
    (x.src f.a f.w l * 2 ^ (wrapNat 32 (signedOf 20 f.imm.toNat) % f.w) +
      x.src f.a f.w l / 2 ^ (f.w - wrapNat 32 (signedOf 20 f.imm.toNat) % f.w)) % 2 ^ f.w) ∧
  ∀ imm : BitVec 20, signedOf 20 imm.toNat < 0 → (wrapNat 32 (signedOf 20 imm.toNat) : Int) = 2 ^ 32 + signedOf 20 imm.toNat

/-- R141, R142: the logic words bit by bit, the immediate sign-extended to w bits; LOP3 takes bit i from its function table, at
the place that the bits of A, B and C weigh as 1, 2 and 4.
R143: the number of 1 bits, of 0 bits above the highest 1 and below the lowest 1 (w where A is 0), always in 32 bits, so that any V register may
take them, and the reversal in w bits. That LOP3, which has no TY, fills an S destination with zeros is the model's choice (log entry 98). -/
def Obligations.LogicAndBitCounts : Prop :=
  ((∀ f : V3, ∀ i ∈ [(Instr.andw f, 0x21), (.orw f, 0x22), (.xorw f, 0x23), (.andn f, 0x25)],
     opcodeOf i.1 = some i.2 ∧ (WellFormed i.1 ↔ f.ty ∈ tyI32 ++ tyI64 ∧ f.mod = 0 ∧ f.fsel = false ∧ f.c = .zero)) ∧
   (∀ f : V3, opcodeOf (.notw f) = some 0x24 ∧
     (WellFormed (.notw f) ↔ f.ty ∈ tyI32 ++ tyI64 ∧ f.mod = 0 ∧ f.fsel = false ∧ f.b = .zero ∧ f.c = .zero)) ∧
   (∀ f : VI, ∀ i ∈ [(Instr.andImm f, 0x39), (.orImm f, 0x3A), (.xorImm f, 0x3B)],
     opcodeOf i.1 = some i.2 ∧ (WellFormed i.1 ↔ f.ty ∈ tyI32 ++ tyI64 ∧ f.mod = 0 ∧ f.fsel = false)) ∧
   (∀ f : V3, opcodeOf (.lop3 f) = some 0x26 ∧ (WellFormed (.lop3 f) ↔ f.fsel = false)) ∧
   ComputesBits .andw V3.ty V3.w (fun f x l i => (x.src f.a f.w l).testBit i && (x.src f.b f.w l).testBit i) ∧
   ComputesBits .orw V3.ty V3.w (fun f x l i => (x.src f.a f.w l).testBit i || (x.src f.b f.w l).testBit i) ∧
   ComputesBits .xorw V3.ty V3.w (fun f x l i => (x.src f.a f.w l).testBit i != (x.src f.b f.w l).testBit i) ∧
   ComputesBits .andn V3.ty V3.w (fun f x l i => (x.src f.a f.w l).testBit i && !(x.src f.b f.w l).testBit i) ∧
   ComputesBits .notw V3.ty V3.w (fun f x l i => !(x.src f.a f.w l).testBit i) ∧
   ComputesBitsI .andImm (fun f x l i => (x.src f.a f.w l).testBit i && f.imm.toNat.testBit (min i 19)) ∧
   ComputesBitsI .orImm (fun f x l i => (x.src f.a f.w l).testBit i || f.imm.toNat.testBit (min i 19)) ∧
   ComputesBitsI .xorImm (fun f x l i => (x.src f.a f.w l).testBit i != f.imm.toNat.testBit (min i 19)) ∧
   ComputesBits .lop3 (fun _ => .b32) (fun _ => 32) (fun f x l i =>
     (16 * f.ty.code + f.mod.toNat).testBit (((x.src f.a 32 l).testBit i).toNat + 2 * ((x.src f.b 32 l).testBit i).toNat +
       4 * ((x.src f.c 32 l).testBit i).toNat))) ∧
  ((∀ f : V3, ∀ i ∈ [Instr.popc f, .clz f, .ctz f], ∀ inf, i.info = some inf → (OpK.dst 32, f.d, 38) ∈ inf.ops) ∧
   (∀ (alloc : Nat) (o : Operand), o.lvl = .v → o.idx.toNat < alloc → levelBad alloc (.dst 32) o = false) ∧
   (∀ f : V3, ∀ i ∈ [(Instr.popc f, 0x27), (.clz f, 0x28), (.ctz f, 0x29), (.brev f, 0x2A)],
     opcodeOf i.1 = some i.2 ∧
     (WellFormed i.1 ↔ f.ty ∈ tyI32 ++ tyI64 ∧ f.mod = 0 ∧ f.fsel = false ∧ f.b = .zero ∧ f.c = .zero)) ∧
   Computes .popc (fun _ => .n32) (fun _ => 32) (fun f x l =>
     (List.range f.w).countP (fun i => (x.src f.a f.w l).testBit i)) ∧
   (∀ f s x, issueOf (.clz f) s {} = some x → ∃ val, Gives (.clz f) s x none f.d .n32 32 val ∧ ∀ l,
     (x.src f.a f.w l = 0 → val l = f.w) ∧
     (x.src f.a f.w l ≠ 0 → val l < f.w ∧ (x.src f.a f.w l).testBit (f.w - 1 - val l) = true ∧
       ∀ i, i < val l → (x.src f.a f.w l).testBit (f.w - 1 - i) = false)) ∧
   (∀ f s x, issueOf (.ctz f) s {} = some x → ∃ val, Gives (.ctz f) s x none f.d .n32 32 val ∧ ∀ l,
     (x.src f.a f.w l = 0 → val l = f.w) ∧
     (x.src f.a f.w l ≠ 0 → val l < f.w ∧ (x.src f.a f.w l).testBit (val l) = true ∧
       ∀ i, i < val l → (x.src f.a f.w l).testBit i = false)) ∧
   ComputesBits .brev V3.ty V3.w (fun f x l i => (x.src f.a f.w l).testBit (f.w - 1 - i)))

/-- R144, R145: BFX extracts the field of len bits at pos, cut at w and sign-extended under a signed TY; BFI puts the low bits of
A into that field of C. pos and len come from B, or from IMM20, where BFI_IMM inserts VAL into A.
R146: byte k of PRMT is the source byte that its code names, under the fill that its code names. -/
def Obligations.FieldsAndBytes : Prop :=
  ((∀ f : V3, opcodeOf (.bfx f) = some 0x2B ∧ opcodeOf (.bfi f) = some 0x2C ∧
     (WellFormed (.bfx f) ↔ f.ty ∈ tyS32 ++ tyS64 ∧ f.mod = 0 ∧ f.fsel = false ∧ f.c = .zero) ∧
     (WellFormed (.bfi f) ↔ f.ty ∈ tyI32 ++ tyI64 ∧ f.mod = 0 ∧ f.fsel = false)) ∧
   (∀ f : VI, opcodeOf (.bfxImm f) = some 0x3D ∧ opcodeOf (.bfiImm f) = some 0x3E ∧
     (∀ w, f.ty ∈ tyI32 ++ tyI64 → f.mod = 0 → f.fsel = false → 8 < bitsOf f.imm.toNat 11 8 → bitsOf f.imm.toNat 7 6 = 0 →
       encode (.bfiImm f) = some w → decodeWord w = .bad .field 16) ∧
     (WellFormed (.bfxImm f) ↔ f.ty ∈ tyS32 ++ tyS64 ∧ f.mod = 0 ∧ f.fsel = false ∧ f.imm.toNat < 2 ^ 16) ∧
     (WellFormed (.bfiImm f) ↔ f.ty ∈ tyI32 ++ tyI64 ∧ f.mod = 0 ∧ f.fsel = false ∧ bitsOf f.imm.toNat 11 8 ≤ 8 ∧
       bitsOf f.imm.toNat 7 6 = 0)) ∧
   (∀ f s x, issueOf (.bfx f) s {} = some x → ∃ val, Gives (.bfx f) s x none f.d f.ty f.w val ∧ ∀ l i,
     let pos := x.src f.b 32 l % 256
     let len := x.src f.b 32 l / 256 % 256
     let n := min len (f.w - pos)
     i < f.w → (val l).testBit i =
       (if i < n then (x.src f.a f.w l).testBit (pos + i)
        else f.ty.signed && decide (0 < n) && (x.src f.a f.w l).testBit (pos + n - 1))) ∧
   (∀ f s x, issueOf (.bfi f) s {} = some x → ∃ val, Gives (.bfi f) s x none f.d f.ty f.w val ∧ ∀ l i,
     let pos := x.src f.b 32 l % 256
     let len := x.src f.b 32 l / 256 % 256
     i < f.w → (val l).testBit i =
       (if pos ≤ i ∧ i < pos + len then (x.src f.a f.w l).testBit (i - pos) else (x.src f.c f.w l).testBit i)) ∧
   (∀ f s x, WellFormed (.bfxImm f) → issueOf (.bfxImm f) s {} = some x → ∃ val, Gives (.bfxImm f) s x none f.d f.ty f.w val ∧ ∀ l i,
     let pos := f.imm.toNat % 256
     let n := min (f.imm.toNat / 256) (f.w - pos)
     i < f.w → (val l).testBit i =
       (if i < n then (x.src f.a f.w l).testBit (pos + i)
        else f.ty.signed && decide (0 < n) && (x.src f.a f.w l).testBit (pos + n - 1))) ∧
   (∀ f s x, WellFormed (.bfiImm f) → issueOf (.bfiImm f) s {} = some x → ∃ val, Gives (.bfiImm f) s x none f.d f.ty f.w val ∧ ∀ l i,
     let pos := f.imm.toNat % 64
     let len := f.imm.toNat / 256 % 16
     i < f.w → (val l).testBit i =
       (if pos ≤ i ∧ i < pos + len then (f.imm.toNat / 4096).testBit (i - pos) else (x.src f.a f.w l).testBit i))) ∧
  ((∀ f : V3, opcodeOf (.prmt f) = some 0x2D ∧ (WellFormed (.prmt f) ↔ f.ty ∈ tyI32 ∧ f.mod = 0 ∧ f.fsel = false)) ∧
   (∀ f : VI, opcodeOf (.prmtImm f) = some 0x3F ∧
     (WellFormed (.prmtImm f) ↔ f.ty ∈ tyI32 ∧ f.mod = 0 ∧ f.fsel = false ∧ ∀ k, k < 4 → f.imm.toNat / 2 ^ (5 * k) % 8 < 6) ∧
     ∀ k w, k < 4 → f.ty ∈ tyI32 → f.mod = 0 → f.fsel = false → (∀ j, j < k → f.imm.toNat / 2 ^ (5 * j) % 8 < 6) →
       6 ≤ f.imm.toNat / 2 ^ (5 * k) % 8 → encode (.prmtImm f) = some w → decodeWord w = .bad .field (8 + 5 * k)) ∧
   (∀ f s x, issueOf (.prmt f) s {} = some x → ∃ val, Gives (.prmt f) s x none f.d f.ty 32 val ∧ ∀ l, val l < 2 ^ 32 ∧ ∀ k, k < 4 →
     let code := x.src f.c 32 l / 2 ^ (8 * k) % 256
     let b := if code % 16 < 8 then (x.src f.a 32 l + 2 ^ 32 * x.src f.b 32 l) / 2 ^ (8 * (code % 16)) % 256
       else if code % 16 = 9 then 0xFF else 0
     val l / 2 ^ (8 * k) % 256 = prmtFill (code / 16 % 4) b) ∧
   (∀ f s x, WellFormed (.prmtImm f) → issueOf (.prmtImm f) s {} = some x →
     ∃ val, Gives (.prmtImm f) s x none f.d f.ty 32 val ∧ ∀ l, val l < 2 ^ 32 ∧ ∀ k, k < 4 →
       let code := f.imm.toNat / 2 ^ (5 * k) % 32
       let b := if code % 8 < 4 then x.src f.a 32 l / 2 ^ (8 * (code % 8)) % 256 else if code % 8 = 5 then 0xFF else 0
       val l / 2 ^ (8 * k) % 256 = prmtFill (code / 8) b) ∧
   (∀ b, b < 256 → prmtFill 0 b = b ∧ prmtFill 1 b = (if b.testBit 7 then 0xFF else 0) ∧ prmtFill 3 b = 0xFF - b ∧
     ∀ j, j < 8 → (prmtFill 2 b).testBit (7 - j) = b.testBit j))

/-- R147: LEA and LEAW add A shifted by MOD[50:48] to B, in 32 bits and in 64 bits with A extended by its TY.
R148: DP4 adds the products of the four byte pairs to C; bytes are signed under i32, unsigned under n32, and under .mix those
of A alone are signed. -/
def Obligations.AddressesAndDotProducts : Prop :=
  ((∀ f : V3,
     opcodeOf (.lea f) = some 0x2E ∧ opcodeOf (.leaw f) = some 0x2F ∧
     (WellFormed (.lea f) ↔ f.ty ∈ tyI32 ∧ f.mod.getLsbD 3 = false ∧ f.fsel = false ∧ f.c = .zero) ∧
     (WellFormed (.leaw f) ↔ f.ty ∈ tyS32 ∧ f.mod.getLsbD 3 = false ∧ f.fsel = false ∧ f.c = .zero)) ∧
   (∀ f : VI, opcodeOf (.leaImm f) = some 0x3C ∧
     (WellFormed (.leaImm f) ↔ f.ty ∈ tyI32 ∧ f.mod.getLsbD 3 = false ∧ f.fsel = false)) ∧
   Computes .lea V3.ty (fun _ => 32) (fun f x l =>
     (x.src f.a 32 l * 2 ^ (f.mod.toNat % 8) + x.src f.b 32 l) % 2 ^ 32) ∧
   Computes .leaw V3.ty (fun _ => 64) (fun f x l =>
     wrapNat 64 (x.src f.b 64 l + tyVal f.ty 32 (x.src f.a 32 l) * 2 ^ (f.mod.toNat % 8))) ∧
   (∀ f s x, WellFormed (.leaImm f) → issueOf (.leaImm f) s {} = some x →
     Gives (.leaImm f) s x none f.d f.ty 32 (fun l =>
       (x.src f.a 32 l * 2 ^ (f.mod.toNat % 8) + wrapNat 32 (signedOf 20 f.imm.toNat)) % 2 ^ 32))) ∧
  ((∀ f : V3, opcodeOf (.dp4 f) = some 0x30 ∧
     (WellFormed (.dp4 f) ↔ f.ty ∈ tyS32 ∧ f.mod.toNat < 2 ∧ (f.mod.getLsbD 0 = true → f.ty = .i32) ∧ f.fsel = false)) ∧
   ∀ f s x, WellFormed (.dp4 f) → issueOf (.dp4 f) s {} = some x → Gives (.dp4 f) s x none f.d f.ty 32 (fun l =>
     let a : Nat → Int := fun i =>
       let b := x.src f.a 32 l / 2 ^ (8 * i) % 256
       if f.ty = .i32 then signedOf 8 b else b
     let b : Nat → Int := fun i =>
       let b := x.src f.b 32 l / 2 ^ (8 * i) % 256
       if f.ty = .i32 ∧ f.mod = 0 then signedOf 8 b else b
     wrapNat 32 (x.src f.c 32 l + a 0 * b 0 + a 1 * b 1 + a 2 * b 2 + a 3 * b 3)))

/-! ### Rounding and floating-point words -/

/-- R50: the helpers round the exact real x = ± num / den, and leave zero as it is, with its sign. For a floating-point format the quantum is that of x's binade,
bounded below by emin; a y beyond the largest finite value becomes what the mode gives; and a result of zero keeps the sign of x.
For an integer format the quantum is 1, and nothing is clamped. -/
def Obligations.RoundingHelper : Prop :=
  (∀ (m : RMode) (neg : Bool) (den : Nat), rndIntQ m neg 0 den = 0 ∧
    ∀ f : FFmt, ∃ e, f.value (rndQ f m neg 0 den) = .fin neg 0 e) ∧
  ∀ (m : RMode) (neg : Bool) (num den : Nat), 0 < num → 0 < den →
    let x : ℚ := (if neg then -1 else 1) * (num / den)
    (∀ f : FFmt, ∃ y : ℚ,
      let largest := f.value f.largestBits
      roundsTo m x (2 ^ (max (Int.log 2 |x|) f.emin - f.prec + 1)) y ∧
      (|y| ≤ largest.toRat →
        ∃ k e, f.value (rndQ f m neg num den) = .fin neg k e ∧ (FVal.fin neg k e).toRat = y) ∧
      (largest.toRat < |y| → f.value (rndQ f m neg num den) =
        match m with
        | .rn => .inf neg
        | .rz => if neg then largest.neg else largest
        | .rd => if neg then .inf true else largest
        | .ru => if neg then largest.neg else .inf false)) ∧
    roundsTo m x 1 (rndIntQ m neg num den)

/-- R51, R131, R150, R158, R188: products and sums of any number of terms before rounding are exact; a NaN, infinity times zero, and
infinities of both signs give NaN; infinity times anything else is the infinity of the product's sign; an exact zero sum has the sign
that its terms share if all are zeros of one sign, and else is -0 under .rd alone. -/
def Obligations.ExactResults : Prop :=
  (∀ a b : FVal, a.isFin = true → b.isFin = true → (a.mul b).isFin = true ∧ (a.mul b).toRat = a.toRat * b.toRat ∧
    (a.mul b).isNeg = (a.isNeg != b.isNeg)) ∧
  (∀ (m : RMode) (ts : List FVal), (∀ t ∈ ts, t.isFin = true) →
    (FVal.sum m ts).isFin = true ∧ (FVal.sum m ts).toRat = (ts.map FVal.toRat).sum) ∧
  (∀ (m : RMode) (ts : List FVal), ts ≠ [] → (∀ t ∈ ts, t.isFin = true) → (ts.map FVal.toRat).sum = 0 →
    (FVal.sum m ts).isZero = true ∧
    (∀ neg, (∀ t ∈ ts, t.isZero = true ∧ t.isNeg = neg) → (FVal.sum m ts).isNeg = neg) ∧
    ((¬ ∃ neg, ∀ t ∈ ts, t.isZero = true ∧ t.isNeg = neg) → (FVal.sum m ts).isNeg = decide (m = .rd))) ∧
  (∀ (m : RMode) (ts : List FVal), (.nan ∈ ts ∨ (.inf true ∈ ts ∧ .inf false ∈ ts)) → FVal.sum m ts = .nan) ∧
  (∀ (m : RMode) (s : Bool) (ts : List FVal), .inf s ∈ ts → .nan ∉ ts → .inf (!s) ∉ ts → FVal.sum m ts = .inf s) ∧
  (∀ (s t : Bool) (e : Int), (FVal.inf s).mul (.fin t 0 e) = .nan ∧ (FVal.fin t 0 e).mul (.inf s) = .nan) ∧
  (∀ (s t : Bool) (k : Nat) (e : Int), k ≠ 0 → (FVal.inf s).mul (.fin t k e) = .inf (s != t) ∧
    (FVal.fin t k e).mul (.inf s) = .inf (s != t)) ∧
  (∀ s t : Bool, (FVal.inf s).mul (.inf t) = .inf (s != t)) ∧
  ∀ v : FVal, FVal.nan.mul v = .nan ∧ v.mul .nan = .nan

/-- R131, R149, R150, R151, R159: the basic words round the exact result once under MOD[49:48], element by element in the packed
forms; minimum, maximum, absolute value and negation do not round; and R136: the four FMA forms count one lane towards meter 5
(f32) or 6 (f16, bf16), and two towards 6 in the packed forms. R47, R50: rounding gives the canonical NaN of the format for NaN, an
infinity for an infinity, and for every other value what the helper gives for it. R51: minimum and maximum ignore a NaN where the
other operand is a number, give the canonical NaN for two of them, and else an operand's own bits, -0 below +0. -/
def Obligations.FloatArithmetic : Prop :=
  (∀ (F : FFmt) (m : RMode),
    (F.canonNan = match F with
      | .f32 => 0x7FC00000
      | .f16 => 0x7E00
      | .bf16 => 0x7FC0) ∧
    F.rnd m .nan = F.canonNan ∧ (∀ neg, F.value (F.rnd m (.inf neg)) = .inf neg) ∧
    ∀ neg k e, F.rnd m (.fin neg k e) =
      if 0 ≤ e then rndQ F m neg (k * 2 ^ e.toNat) 1 else rndQ F m neg k (2 ^ (-e).toNat)) ∧
  (∀ (F : FFmt) (a b : Nat),
    let x := F.value a
    let y := F.value b
    (x = .nan → y = .nan → F.minNum a b = F.canonNan ∧ F.maxNum a b = F.canonNan) ∧
    (x = .nan → y ≠ .nan → F.minNum a b = b ∧ F.maxNum a b = b) ∧
    (x ≠ .nan → y = .nan → F.minNum a b = a ∧ F.maxNum a b = a) ∧
    (x.below y → F.minNum a b = a ∧ F.maxNum a b = b) ∧
    (y.below x → F.minNum a b = b ∧ F.maxNum a b = a) ∧
    (x ≠ .nan → F.minNum a a = a ∧ F.maxNum a a = a)) ∧
  ∀ (f : V3) (s : State) (x : Issue),
    let F := tyFmt f.ty
    let m := RMode.ofCode (f.mod.toNat % 4)
    let meter : Option (Nat × Nat) :=
      match f.ty with
      | .f32 => some (5, 1)
      | .f16 | .bf16 => some (6, 1)
      | _ => some (6, 2)
    let el : (Nat → Nat → Nat → Nat) → Nat → Nat := fun op l =>
      let a := x.src f.a 32 l
      let b := x.src f.b 32 l
      let c := x.src f.c 32 l
      if f.ty = .f32 then op a b c
      else if f.ty = .f16 ∨ f.ty = .bf16 then op (a % 2 ^ 16) (b % 2 ^ 16) (c % 2 ^ 16)
      else op (a % 2 ^ 16) (b % 2 ^ 16) (c % 2 ^ 16) + 2 ^ 16 * op (a / 2 ^ 16) (b / 2 ^ 16) (c / 2 ^ 16)
    (WellFormed (.fadd f) → issueOf (.fadd f) s {} = some x →
      Gives (.fadd f) s x meter f.d f.ty 32 (el (fun a b _ => F.rnd m (FVal.sum m [F.value a, F.value b])))) ∧
    (WellFormed (.fsub f) → issueOf (.fsub f) s {} = some x →
      Gives (.fsub f) s x meter f.d f.ty 32 (el (fun a b _ => F.rnd m (FVal.sum m [F.value a, (F.value b).neg])))) ∧
    (WellFormed (.fmul f) → issueOf (.fmul f) s {} = some x →
      Gives (.fmul f) s x meter f.d f.ty 32 (el (fun a b _ => F.rnd m ((F.value a).mul (F.value b))))) ∧
    (WellFormed (.ffma f) → issueOf (.ffma f) s {} = some x →
      Gives (.ffma f) s x meter f.d f.ty 32 (el (fun a b c => F.rnd m (FVal.sum m [(F.value a).mul (F.value b), F.value c])))) ∧
    (WellFormed (.fmin f) → issueOf (.fmin f) s {} = some x → Gives (.fmin f) s x none f.d f.ty 32 (el (fun a b _ => F.minNum a b))) ∧
    (WellFormed (.fmax f) → issueOf (.fmax f) s {} = some x → Gives (.fmax f) s x none f.d f.ty 32 (el (fun a b _ => F.maxNum a b))) ∧
    (WellFormed (.fabs f) → issueOf (.fabs f) s {} = some x → Gives (.fabs f) s x none f.d f.ty 32
      (el (fun a _ _ => if F.value a = .nan then F.canonNan else a % 2 ^ (F.width - 1)))) ∧
    (WellFormed (.fneg f) → issueOf (.fneg f) s {} = some x → Gives (.fneg f) s x none f.d f.ty 32
      (el (fun a _ _ => if F.value a = .nan then F.canonNan else (a + 2 ^ (F.width - 1)) % 2 ^ F.width)))

/-- R154 to R158: rounding to an integral value (a NaN canonical; a zero, an infinity and an integral value as they are; a result of
zero with the sign of A), the fraction, the class, scaling, the exponent and the packed dot product, with their special values.
R132: the floating-point immediate forms take IMM20 above twelve zero bits as the f32 B, and f32 alone. -/
def Obligations.FloatUnaryAndImmediate : Prop :=
  (∀ (f : V3) (s : State) (x : Issue),
     let F := tyFmt f.ty
     let m := RMode.ofCode (f.mod.toNat % 4)
     let a : Nat → Nat := fun l => x.src f.a 32 l % 2 ^ F.width
     (WellFormed (.fflr f) → issueOf (.fflr f) s {} = some x → Gives (.fflr f) s x none f.d f.ty 32 (fun l => F.integral .rd (a l))) ∧
     (WellFormed (.fceil f) → issueOf (.fceil f) s {} = some x → Gives (.fceil f) s x none f.d f.ty 32 (fun l => F.integral .ru (a l))) ∧
     (WellFormed (.ftrunc f) → issueOf (.ftrunc f) s {} = some x →
       Gives (.ftrunc f) s x none f.d f.ty 32 (fun l => F.integral .rz (a l))) ∧
     (WellFormed (.frnd f) → issueOf (.frnd f) s {} = some x → Gives (.frnd f) s x none f.d f.ty 32 (fun l => F.integral m (a l))) ∧
     (WellFormed (.ffrc f) → issueOf (.ffrc f) s {} = some x → Gives (.ffrc f) s x none f.d f.ty 32 (fun l => F.frc (a l))) ∧
     (WellFormed (.fclass f) → issueOf (.fclass f) s {} = some x →
       Gives (.fclass f) s x none f.d .n32 32 (fun l => F.classOf (a l))) ∧
     (WellFormed (.fscale f) → issueOf (.fscale f) s {} = some x →
       Gives (.fscale f) s x none f.d f.ty 32 (fun l => F.scale m (a l) (signedOf 32 (x.src f.b 32 l)))) ∧
     (WellFormed (.fgetexp f) → issueOf (.fgetexp f) s {} = some x →
       Gives (.fgetexp f) s x none f.d .i32 32 (fun l => F.getExp (a l))) ∧
     (WellFormed (.fdot2 f) → issueOf (.fdot2 f) s {} = some x → Gives (.fdot2 f) s x (some (6, 2)) f.d .f32 32 (fun l =>
       let lo := fun o => F.value (x.src o 32 l % 2 ^ 16)
       let hi := fun o => F.value (x.src o 32 l / 2 ^ 16)
       FFmt.f32.rnd m (FVal.sum m [(lo f.a).mul (lo f.b), (hi f.a).mul (hi f.b), FFmt.f32.value (x.src f.c 32 l)]))) ∧
     (∀ k n : Nat, ∀ e : Int, F.value n = .fin false k e → k ≠ 0 → ∀ mo, (F.value (F.integral mo n)).toRat =
       rndIntFin mo false k e)) ∧
  (∀ (F : FFmt) (n : Nat), n < 2 ^ F.width →
     (F.value n = .nan → (∀ mo, F.integral mo n = F.canonNan) ∧ F.frc n = F.canonNan ∧ F.getExp n = 0x7FFFFFFF ∧
       F.classOf n = (if n.testBit (F.fbits - 1) then 2 ^ 9 else 2 ^ 8) ∧ ∀ mo sh, F.scale mo n sh = F.canonNan) ∧
     (∀ neg, F.value n = .inf neg → (∀ mo, F.integral mo n = n) ∧ F.frc n = F.canonNan ∧ F.getExp n = 0x7FFFFFFF ∧
       F.classOf n = (if neg then 2 ^ 0 else 2 ^ 7) ∧ ∀ mo sh, F.scale mo n sh = n) ∧
     (∀ neg e, F.value n = .fin neg 0 e → (∀ mo, F.integral mo n = n) ∧ F.frc n = n ∧ F.getExp n = 0x80000000 ∧
       F.classOf n = (if neg then 2 ^ 3 else 2 ^ 4) ∧ ∀ mo sh, F.scale mo n sh = n) ∧
     (∀ neg k e, F.value n = .fin neg k e → k ≠ 0 →
       let x := (FVal.fin neg k e).toRat
       (∀ mo, ∃ j g, F.value (F.integral mo n) = .fin neg j g ∧ roundsTo mo x 1 (FVal.fin neg j g).toRat) ∧
       (x = ⌊x⌋ → F.frc n = 0) ∧
       (x ≠ ⌊x⌋ → ∃ num den : Nat, 0 < num ∧ 0 < den ∧ (num : ℚ) / den = x - ⌊x⌋ ∧ F.frc n = rndQ F .rz false num den) ∧
       F.getExp n = wrapNat 32 (Int.log 2 |x|) ∧
       F.classOf n = (if n / 2 ^ F.fbits % 2 ^ F.ebits = 0 then (if neg then 2 ^ 2 else 2 ^ 5) else if neg then 2 ^ 1 else 2 ^ 6) ∧
       ∀ mo (sh : Int) (num den : Nat), 0 < num → 0 < den → (num : ℚ) / den = |x| * 2 ^ sh →
         F.value (F.scale mo n sh) = F.value (rndQ F mo neg num den))) ∧
  (∀ (f : VI) (s : State) (x : Issue),
     let m := RMode.ofCode (f.mod.toNat % 4)
     let v : Nat → FVal := fun l => FFmt.f32.value (x.src f.a 32 l)
     let b := f.imm.toNat * 2 ^ 12
     (WellFormed (.faddImm f) → f.ty = .f32) ∧ (WellFormed (.fmulImm f) → f.ty = .f32) ∧
     (WellFormed (.fminImm f) → f.ty = .f32) ∧ (WellFormed (.fmaxImm f) → f.ty = .f32) ∧
     (issueOf (.faddImm f) s {} = some x → Gives (.faddImm f) s x (some (5, 1)) f.d f.ty 32 (fun l =>
       FFmt.f32.rnd m (FVal.sum m [v l, FFmt.f32.value b]))) ∧
     (issueOf (.fmulImm f) s {} = some x → Gives (.fmulImm f) s x (some (5, 1)) f.d f.ty 32 (fun l =>
       FFmt.f32.rnd m ((v l).mul (FFmt.f32.value b)))) ∧
     (issueOf (.fminImm f) s {} = some x →
       Gives (.fminImm f) s x none f.d f.ty 32 (fun l => FFmt.f32.minNum (x.src f.a 32 l) b)) ∧
     (issueOf (.fmaxImm f) s {} = some x →
       Gives (.fmaxImm f) s x none f.d f.ty 32 (fun l => FFmt.f32.maxNum (x.src f.a 32 l) b)))

/-- R78, R135: a long-latency word goes into flight with the results of its passing lanes, holding the flag that its clause and
FSEL name; with no passing lane it is done at once. Its result is written, and the flag is free, when FUNC_RESULT_WRITE comes: in
every lane not discarded since. R35, R81: what a long-latency instruction of a committed strand writes into S registers and predicates
is also their value at the entry of the strand that follows, to which a discard goes back. R131, R152, R153: the results are the quotient,
the square root, the reciprocal and its square root, 2^A, log2 A, sin A and cos A, rounded once, exact where they are exact, with the
results that the table gives for special operands. Of a result of the last four that is not exact, the enclosure of a tried precision
decides the rounding (DEDUCED that one always does: log entry 11). -/
def Obligations.LongLatency : Prop :=
  (∀ (F : FFmt) (m : RMode) (a b : Nat),
    let x : ℝ := ((F.value a).toRat : ℚ)
    let y : ℝ := ((F.value b).toRat : ℚ)
    let zero := fun (z : Nat) (neg : Bool) => z = if neg then 2 ^ (F.width - 1) else 0
    let one := fun (z : Nat) => ∃ k e, F.value z = .fin false k e ∧ (FVal.fin false k e).toRat = 1
    (F.value a = .nan → F.div m a b = F.canonNan ∧ F.sqrt m a = F.canonNan ∧ F.rcp m a = F.canonNan ∧ F.rsq m a = F.canonNan ∧
      F.ex2 m a = F.canonNan ∧ F.lg2 m a = F.canonNan ∧ F.sin m a = F.canonNan ∧ F.cos m a = F.canonNan) ∧
    (F.value b = .nan → F.div m a b = F.canonNan) ∧
    (∀ s, F.value a = .inf s → zero (F.rcp m a) s ∧ F.sin m a = F.canonNan ∧ F.cos m a = F.canonNan ∧
      (∀ t, F.value b = .inf t → F.div m a b = F.canonNan) ∧
      (∀ t k g, F.value b = .fin t k g → F.value (F.div m a b) = .inf (s != t)) ∧
      (s = false → F.value (F.sqrt m a) = .inf false ∧ zero (F.rsq m a) false ∧ F.value (F.ex2 m a) = .inf false ∧
        F.value (F.lg2 m a) = .inf false) ∧
      (s = true → F.sqrt m a = F.canonNan ∧ F.rsq m a = F.canonNan ∧ zero (F.ex2 m a) false ∧ F.lg2 m a = F.canonNan)) ∧
    (∀ s e, F.value a = .fin s 0 e → F.sqrt m a = a ∧ F.value (F.rcp m a) = .inf s ∧ F.value (F.rsq m a) = .inf s ∧ one (F.ex2 m a) ∧
      F.value (F.lg2 m a) = .inf true ∧ F.sin m a = a ∧ one (F.cos m a) ∧
      (∀ t g, F.value b = .fin t 0 g → F.div m a b = F.canonNan) ∧
      (∀ t k g, F.value b = .fin t k g → k ≠ 0 → zero (F.div m a b) (s != t)) ∧ ∀ t, F.value b = .inf t → zero (F.div m a b) (s != t)) ∧
    (∀ s k e, F.value a = .fin s k e → k ≠ 0 →
      (∀ t g, F.value b = .fin t 0 g → F.value (F.div m a b) = .inf (s != t)) ∧
      (∀ t, F.value b = .inf t → zero (F.div m a b) (s != t)) ∧
      (∀ t j g, F.value b = .fin t j g → j ≠ 0 → F.rounds m (x / y) (F.div m a b)) ∧ F.rounds m (1 / x) (F.rcp m a) ∧
      (s = true → F.sqrt m a = F.canonNan ∧ F.rsq m a = F.canonNan ∧ F.lg2 m a = F.canonNan) ∧
      (s = false → F.rounds m (Real.sqrt x) (F.sqrt m a) ∧ F.rounds m (1 / Real.sqrt x) (F.rsq m a)) ∧
      -- FEX2: an integral A, one far outside the range of the format, and every other one
      ((x = ⌊x⌋ ∨ 1024 ≤ ⌊x⌋ ∨ ⌊x⌋ ≤ -1024) → F.rounds m ((2 : ℝ) ^ x) (F.ex2 m a)) ∧
      (∀ (g j : Nat) (n : Int), e = -(g : Int) → (j : Int) = (if s then -1 else 1) * k - n * 2 ^ g → j ≠ 0 → j < 2 ^ g →
        F.decides m n (exp2Encl j g) → F.rounds m ((2 : ℝ) ^ x) (F.ex2 m a)) ∧
      -- FLG2: 1, another power of two, and every other positive A
      (x = 1 → F.lg2 m a = 0) ∧
      (∀ n : Int, x = (2 : ℝ) ^ n → n ≠ 0 → F.rounds m n (F.lg2 m a)) ∧
      (s = false → ∀ g : Nat, 2 ^ g < k → k < 2 ^ (g + 1) → F.decides m 0 (log2Encl (e + g) k g) → F.rounds m (Real.logb 2 x) (F.lg2 m a)) ∧
      (F.decides m 0 (fun p => ⟨(if s then -1 else 1) * (trigEncl false k e p).s, (trigEncl false k e p).err⟩) →
        F.rounds m (Real.sin x) (F.sin m a)) ∧
      (F.decides m 0 (trigEncl true k e) → F.rounds m (Real.cos x) (F.cos m a)))) ∧
  ((∀ m, FFmt.f32.ex2 m 0x3F000000 = if m = .ru then 0x3FB504F4 else 0x3FB504F3) ∧
    ∀ m, FFmt.f32.ex2 m 0x40400000 = 0x41000000 ∧ FFmt.f32.sqrt m 0x40800000 = 0x40000000 ∧ FFmt.f32.rsq m 0x40800000 = 0x3F000000) ∧
  (∀ (f : V3) (s : State) (x : Issue),
    let F := tyFmt f.ty
    let m := RMode.ofCode (f.mod.toNat % 4)
    let a : Nat → Nat := fun l => x.src f.a 32 l % 2 ^ f.ty.valueBits
    let b : Nat → Nat := fun l => x.src f.b 32 l % 2 ^ f.ty.valueBits
    ∀ p ∈ [(Instr.fdiv f, fun l => F.div m (a l) (b l)), (.fsqrt f, fun l => F.sqrt m (a l)), (.frcp f, fun l => F.rcp m (a l)),
        (.frsq f, fun l => F.rsq m (a l)), (.fex2 f, fun l => F.ex2 m (a l)), (.flg2 f, fun l => F.lg2 m (a l)),
        (.fsin f, fun l => F.sin m (a l)), (.fcos f, fun l => F.cos m (a l))],
      issueOf p.1 s {} = some x →
        (x.pass = 0 → exec p.1 s = .next (x.done x.g)) ∧
        (x.pass ≠ 0 → exec p.1 s = .next (x.doneS { x.s with
          ops := KMap.insert x.s.ops (KMap.nextKey x.s.ops)
            { gid := x.gid, pc := x.pc, flag := x.e.clause.bind (fun c => c.flag f.fsel), lanes := x.pass, entry := x.e.mask,
              dst := f.d, ty := f.ty, regs := opRegs f.d 32, kind := .func (x.vals p.2) } }))) ∧
  (∀ (s : State) (n : Nat) (o : Op) (vals : List (Nat × Nat)), KMap.find? s.ops n = some o → o.kind = .func vals →
    exec (.funcResultWrite n) s = .next (State.settle { s with
      groups := KMap.modify s.groups o.gid (fun g =>
        (g.write o.dst o.ty 32 (vals.filter (fun e => o.lanes.getLsbD e.1))).keepResult o)
      ops := KMap.erase s.ops n } o.gid)) ∧
  (∀ (g : Group) (o : Op),
    let t := g.keepResult o
    (o.committed = false → t = g) ∧ { t with snap := g.snap } = g ∧
    (o.committed = true → ∀ n,
      KMap.getD t.snap.s 0 n = (if RegRef.s n ∈ o.regs then g.sGet n else KMap.getD g.snap.s 0 n) ∧
      KMap.getD t.snap.p 0 n = (if RegRef.p n ∈ o.regs then g.pGet n else KMap.getD g.snap.p 0 n)))

/-- R160 to R166: conversions (to an integer towards zero, saturating, a NaN as 0), the quantiser and dequantiser of a format slot,
clamped to the range of its narrow type, and narrow elements and trits, five to a byte or sixteen to a word; R136: a conversion
counts once towards meter 7, twice with a packed destination, and not at all between integer types. -/
def Obligations.Conversions : Prop :=
  (∀ (signed : Bool) (w : Nat), 0 < w → w ≤ 64 →
    let lo : Int := if signed then -(2 ^ (w - 1)) else 0
    let hi : Int := if signed then 2 ^ (w - 1) - 1 else 2 ^ w - 1
    FVal.nan.toIntSat .rz signed w = 0 ∧ (FVal.inf true).toIntSat .rz signed w = lo ∧
    (FVal.inf false).toIntSat .rz signed w = hi ∧
    ∀ neg k e, ∃ y : Int, roundsTo .rz (FVal.fin neg k e).toRat 1 y ∧
      (FVal.fin neg k e).toIntSat .rz signed w = max lo (min hi y)) ∧
  (∀ (t : NTy) (e : Nat), e < 256 →
    let lim : Int × Int := match t with
      | .i8 | .q8 => (-128, 127)
      | .i4 | .q4 => (-8, 7)
      | .t2 | .t5b => (-1, 1)
    (∀ v, e = 0 ∨ e = 255 ∨ v = .nan → quantise t v e = 0) ∧
    (e ≠ 0 → e ≠ 255 → quantise t (.inf true) e = lim.1 ∧ quantise t (.inf false) e = lim.2 ∧
      ∀ neg k g, ∃ y : Int, roundsTo .rn ((FVal.fin neg k g).toRat * 2 ^ (127 - (e : Int))) 1 y ∧
        quantise t (.fin neg k g) e = min (max y lim.1) lim.2)) ∧
  ((∀ n : Int, (narrowCode .i8 n : Int) = n % 256 ∧ (narrowCode .q8 n : Int) = n % 256 ∧ (narrowCode .i4 n : Int) = n % 16 ∧
     (narrowCode .q4 n : Int) = n % 16) ∧
   (∀ t ∈ [NTy.t2, NTy.t5b], narrowCode t 0 = 0 ∧ narrowCode t 1 = 1 ∧ narrowCode t (-1) = 3) ∧
   tritCode 0 = 0 ∧ tritCode 1 = 1 ∧ tritCode (-1) = 3 ∧
   ∀ a : Nat,
     (∀ t ∈ [NTy.i8, NTy.q8], narrowValue t a = (if a % 256 < 128 then (a % 256 : Int) else a % 256 - 256, false)) ∧
     (∀ t ∈ [NTy.i4, NTy.q4], narrowValue t a = (if a % 16 < 8 then (a % 16 : Int) else a % 16 - 16, false)) ∧
     ∀ t ∈ [NTy.t2, NTy.t5b], narrowValue t a =
       if a % 4 = 0 then (0, false) else if a % 4 = 1 then (1, false) else if a % 4 = 3 then (-1, false) else (0, true)) ∧
  (∀ a j c : Nat, c < 2 ^ 32 →
    (16 ≤ j → packT false a j c = c ∧ unpackT false a j = (0, false)) ∧
    (20 ≤ j → packT true a j c = c ∧ unpackT true a j = (0, false)) ∧
    (j < 16 →
      (∀ i, i < 32 → (packT false a j c).testBit i =
        if i / 2 = j then (if a % 4 = 2 then false else a.testBit (i % 2)) else c.testBit i) ∧
      unpackT false a j = (let t := a / 4 ^ j % 4
        if t = 0 then (0, false) else if t = 1 then (1, false) else if t = 3 then (-1, false) else (0, true))) ∧
    (j < 20 →
      (∀ k, k < 4 → k ≠ j / 5 → packT true a j c / 256 ^ k % 256 = c / 256 ^ k % 256) ∧
      (let old := c / 256 ^ (j / 5) % 256
       let new := packT true a j c / 256 ^ (j / 5) % 256
       new < 243 ∧ ∀ d, d < 5 → new / 3 ^ d % 3 =
         if d = j % 5 then (if a % 4 = 1 then 1 else if a % 4 = 3 then 2 else 0) else if old < 243 then old / 3 ^ d % 3 else 0) ∧
      unpackT true a j = (let b := a / 256 ^ (j / 5) % 256
        let t := b / 3 ^ (j % 5) % 3
        if 243 ≤ b then (0, true) else if t = 0 then (0, false) else if t = 1 then (1, false) else (-1, false)))) ∧
  ∀ (f : V3) (s : State) (x : Issue),
    let src := Ty.ofCode f.mod.toNat
    (WellFormed (.cvt f) → f.ty.packed = false → issueOf (.cvt f) s {} = some x →
      Gives (.cvt f) s x (if f.ty.isFloat || src.isFloat then some (7, 1) else none) f.d f.ty f.w (fun l =>
        let a := x.src f.a src.width l % 2 ^ src.valueBits
        let v : FVal := if src.isFloat then (tyFmt src).value a else .ofInt (tyVal src src.valueBits a)
        if f.ty.isFloat then (tyFmt f.ty).rnd .rn v
        else if src.isFloat then wrapNat f.ty.valueBits (v.toIntSat .rz f.ty.signed f.ty.valueBits)
        else wrapNat f.ty.valueBits (satn f.ty.signed f.ty.valueBits (tyVal src src.valueBits a)))) ∧
    (WellFormed (.cvt f) → f.ty.packed = true → issueOf (.cvt f) s {} = some x →
      Gives (.cvt f) s x (some (7, 2)) f.d f.ty 32 (fun l =>
        (tyFmt f.ty).rnd .rn (FFmt.f32.value (x.src f.a 32 l)) + 2 ^ 16 * (tyFmt f.ty).rnd .rn (FFmt.f32.value (x.src f.b 32 l)))) ∧
    (∀ sl : Slot, Slot.decode (x.phase.slot (f.mod.toNat % 8)) = some sl →
      let t := if f.mod.getLsbD 3 then sl.btype else sl.atype
      (issueOf (.cvq f) s { slot := some (f.mod.toNat % 8) } = some x →
        Gives (.cvq f) s x (some (7, 1)) f.d .b32 32 (fun l =>
          narrowCode t (quantise t (tyExact f.ty (x.src f.a 32 l)) (x.src f.b 32 l % 256)))) ∧
      (issueOf (.cvd f) s { slot := some (f.mod.toNat % 8) } = some x → ∃ p : Mask,
        exec (.cvd f) s = .next (x.done (((x.g.write f.d .f32 32 (x.vals (fun l =>
          let n := narrowValue t (x.src f.a 32 l)
          let e := x.src f.b 32 l % 256
          if e = 255 then (tyFmt f.ty).canonNan else if e = 0 ∨ n.1 = 0 then 0
          else (tyFmt f.ty).rnd .rn (.fin (decide (n.1 < 0)) n.1.natAbs ((e : Int) - 127))))).pSet f.c.idx.toNat p).count
            x.pass (some (7, 1)))) ∧
        ∀ l, l < 64 → p.getLsbD l =
          ((x.g.pGet f.c.idx.toNat).getLsbD l || (x.pass.getLsbD l && (narrowValue t (x.src f.a 32 l)).2)))) ∧
    (issueOf (.packt f) s {} = some x → Gives (.packt f) s x none f.d f.ty 32 (fun l =>
      packT (f.mod.getLsbD 0) (x.src f.a 32 l) (x.src f.b 32 l) (x.src f.c 32 l))) ∧
    (issueOf (.unpkt f) s {} = some x → ∃ p : Mask,
      exec (.unpkt f) s = .next (x.done ((x.g.write f.d f.ty 32 (x.vals (fun l =>
        tritCode (unpackT (f.mod.getLsbD 0) (x.src f.a 32 l) (x.src f.b 32 l)).1))).pSet f.c.idx.toNat p)) ∧
      ∀ l, l < 64 → p.getLsbD l = ((x.g.pGet f.c.idx.toNat).getLsbD l ||
        (x.pass.getLsbD l && (unpackT (f.mod.getLsbD 0) (x.src f.a 32 l) (x.src f.b 32 l)).2))) ∧
    (let w := match f.mod.toNat % 4 with
      | 0 => 8
      | 1 => 4
      | _ => 16
     (WellFormed (.pack f) → issueOf (.pack f) s {} = some x → ∃ val, Gives (.pack f) s x none f.d f.ty 32 val ∧ ∀ l i, i < 32 →
      let j := x.src f.b 32 l
      let a := match f.ty with
        | .i32 => wrapNat w (satn true w (signedOf 32 (x.src f.a 32 l)))
        | .n32 => min (x.src f.a 32 l) (2 ^ w - 1)
        | _ => x.src f.a 32 l % 2 ^ w
      (val l).testBit i = (if i / w = j then a.testBit (i % w) else (x.src f.c 32 l).testBit i)) ∧
     (WellFormed (.unpk f) → issueOf (.unpk f) s {} = some x → Gives (.unpk f) s x none f.d f.ty 32 (fun l =>
      let j := x.src f.b 32 l
      if j < 32 / w then
        (if f.ty = .i32 then wrapNat 32 (signedOf w (x.src f.a 32 l / 2 ^ (w * j))) else x.src f.a 32 l / 2 ^ (w * j) % 2 ^ w)
      else 0)))

/-! ### Where results go -/

/-- R31, R33, R128: a result goes to K and V in every lane of the set, 32 bits to a register; at S it is the result of the lowest
lane of the set, filled by its type; with no lane nothing is written. A K write sets the valid bit of the slot. -/
def Obligations.DestinationRules : Prop :=
  ∀ (g : Group) (o : Operand) (ty : Ty) (w : Nat) (m : Mask) (val : Nat → Nat),
    let t := g.write o ty w ((lanesOf m).map (fun l => (l, val l)))
    (m = 0 → t = g) ∧
    (o.lvl = .v → ∀ l j, m.getLsbD l = true → j < regCount w →
      (t.vGet (o.idx.toNat + j) l).toNat = val l / 2 ^ (32 * j) % 2 ^ 32) ∧
    (o.lvl = .k → ∀ l j, m.getLsbD l = true → j < regCount w → t.kValid (o.idx.toNat + j) l = true ∧
      (t.kGet (o.idx.toNat + j) l).toNat = val l / 2 ^ (32 * j) % 2 ^ 32) ∧
    (o.lvl = .s → ∀ k, m.getLsbD k = true → (∀ l, l < k → m.getLsbD l = false) →
      (w = 64 → (t.sGet o.idx.toNat).toNat = val k % 2 ^ 64) ∧
      (w = 32 → ty.valueBits ≤ 32 → t.sGet o.idx.toNat =
        (if ty.signed then (BitVec.ofNat ty.valueBits (val k)).signExtend 64 else (BitVec.ofNat ty.valueBits (val k)).setWidth 64)) ∧
      (w = 128 → (t.sGet o.idx.toNat).toNat = val k % 2 ^ 64 ∧ (t.sGet (o.idx.toNat + 1)).toNat = val k / 2 ^ 64 % 2 ^ 64))

/-- R78, R128: a word that touches registers only completes, and leaves everything but its destinations in its passing lanes:
every other register, predicate and special register, the store buffer, every other group, memory, and all else of the device, but the
pages of first touch that the constants of its Q level place (R367). -/
def Obligations.RegisterWordsFrame : Prop :=
  ∀ (i : Instr) (s : State) (x : Issue) (ws : List RegRef),
    issueOf i s (wordNeed i s) = some x → wordWrites i x = some ws → x.g.calm = true →
      ∃ t, exec i s = .next t ∧ LeavesAlone s (wordTouch i s) t x.gid x.pass ws

/-! ### Predicates, moves and cross-lane words -/

/-- R178 to R181: the words that write predicates do so in their passing lanes, and every other lane keeps its bit. -/
def Obligations.PredicateWords : Prop :=
  ∀ (f : V3) (s : State) (x : Issue),
    let old := x.g.pGet f.d.idx.toNat
    let writes : Instr → (Nat → Bool → Prop) → Prop := fun i ok => ∃ p : Mask,
      exec i s = .next (x.done (x.g.pSet f.d.idx.toNat p)) ∧
      ∀ l, l < 64 → if x.pass.getLsbD l then ok l (p.getLsbD l) else p.getLsbD l = old.getLsbD l
    (issueOf (.elect f) s { cross := true } = some x →
      writes (.elect f) (fun l b => b = true ↔ ∀ k, k < l → x.pass.getLsbD k = false)) ∧
    (WellFormed (.icmp f) → issueOf (.icmp f) s {} = some x → writes (.icmp f) (fun l b =>
      let a := tyVal f.ty f.w (x.src f.a f.w l)
      let c := tyVal f.ty f.w (x.src f.b f.w l)
      b = true ↔ match f.mod.toNat with
        | 0 => a = c
        | 1 => a ≠ c
        | 2 => a < c
        | 3 => a ≤ c
        | 4 => a > c
        | _ => a ≥ c)) ∧
    (WellFormed (.fcmp f) → issueOf (.fcmp f) s {} = some x → writes (.fcmp f) (fun l b =>
      let a := (tyFmt f.ty).value (x.src f.a 32 l % 2 ^ (tyFmt f.ty).width)
      let c := (tyFmt f.ty).value (x.src f.b 32 l % 2 ^ (tyFmt f.ty).width)
      (a = .nan ∨ c = .nan → (b = true ↔ f.mod.toNat = 1 ∨ f.mod.toNat = 7)) ∧
      let lt := fun u v : FVal => u.below v ∧ (u.isZero && v.isZero) = false
      (a ≠ .nan → c ≠ .nan → (b = true ↔ match f.mod.toNat with
        | 0 => ¬ lt a c ∧ ¬ lt c a
        | 1 => lt a c ∨ lt c a
        | 2 => lt a c
        | 3 => ¬ lt c a
        | 4 => lt c a
        | 5 => ¬ lt a c
        | 6 => True
        | _ => False)))) ∧
    (issueOf (.plop f) s {} = some x → writes (.plop f) (fun l b =>
      let bit := fun o : Operand => ((x.g.pGet o.idx.toNat).getLsbD l).toNat
      b = (16 * f.ty.code + f.mod.toNat).testBit (bit f.a + 2 * bit f.b + 4 * bit f.c))) ∧
    (f.mod.getLsbD 0 = false → issueOf (.pmov f) s { reads := allPreds } = some x →
      ∃ val, Gives (.pmov f) s x none f.d f.ty 32 val ∧ ∀ l, val l < 2 ^ 24 ∧ ∀ r, r < 24 →
        (val l).testBit r = (x.g.pGet r).getLsbD l) ∧
    (f.mod.getLsbD 0 = true → issueOf (.pmov f) s { writes := allPreds } = some x → ∃ g : Group,
      exec (.pmov f) s = .next (x.done g) ∧ { g with p := [] } = { x.g with p := [] } ∧
      ∀ r l, l < 64 → (g.pGet r).getLsbD l =
        if x.pass.getLsbD l ∧ r < 24 then (x.src f.a 32 l).testBit r else (x.g.pGet r).getLsbD l)

/-- R182 to R184: select, copy, immediates and the indexed moves, which trap INDEX at POS 18 for the whole entry, with no lane
written, where an index is bad in any passing lane. -/
def Obligations.Moves : Prop :=
  (∀ (f : V3) (s : State) (x : Issue),
    (issueOf (.sel f) s {} = some x → Gives (.sel f) s x none f.d f.ty f.w (fun l =>
      x.src (if (x.g.pGet f.c.idx.toNat).getLsbD l then f.a else f.b) f.w l)) ∧
    (issueOf (.mov f) s {} = some x → Gives (.mov f) s x none f.d f.ty f.w (fun l => x.src f.a f.w l)) ∧
    (let idx := fun (base : Operand) (l : Nat) => (base.idx.toNat : Int) + signedOf 32 (x.src f.b 32 l)
     let bad := fun (base : Operand) (l : Nat) => idx base l < 0 ∨ idx base l ≥ x.g.regs ∨
       (f.mod.getLsbD 0 = true ∧ (signedOf 32 (x.src f.b 32 l) < 0 ∨ signedOf 32 (x.src f.b 32 l) ≥ x.src f.c 32 l))
     (issueOf (.movx f) s { laneReads := indexPlan (.movx f) s f f.a } = some x →
       ((∃ l, x.pass.getLsbD l = true ∧ bad f.a l) → exec (.movx f) s = x.trap .index 18) ∧
       ((∀ l, x.pass.getLsbD l = true → ¬ bad f.a l) →
         Gives (.movx f) s x none f.d f.ty 32 (fun l => (x.g.vGet (idx f.a l).toNat l).toNat))) ∧
     (issueOf (.movxs f) s { writes := (indexPlan (.movxs f) s f f.d).map (fun e => .v e.2) } = some x →
       ((∃ l, x.pass.getLsbD l = true ∧ bad f.d l) → exec (.movxs f) s = x.trap .index 18) ∧
       ((∀ l, x.pass.getLsbD l = true → ¬ bad f.d l) → ∃ g : Group, exec (.movxs f) s = .next (x.done g) ∧
         ∀ r l, l < 64 → (g.vGet r l).toNat =
           if x.pass.getLsbD l ∧ (r : Int) = idx f.d l then x.src f.a 32 l else (x.g.vGet r l).toNat)))) ∧
  (∀ (f : VI) (s : State) (x : Issue), issueOf (.movi f) s {} = some x → Gives (.movi f) s x none f.d f.ty 32 (fun _ =>
    if f.mod.getLsbD 0 then f.imm.toNat * 2 ^ 12 else wrapNat 32 (signedOf 20 f.imm.toNat)))

/-- R186 to R189: the cross-lane words look at the lanes of their entry alone, and write its passing lanes. -/
def Obligations.CrossLaneWords : Prop :=
  ∀ (f : V3) (s : State) (x : Issue),
    let w := match f.mod.toNat / 4 with
      | 0 => 64
      | 1 => 16
      | 2 => 8
      | _ => 4
    let src : Nat → Int := fun l =>
      let g := l - l % w
      let b := x.src f.b 32 l
      match f.mod.toNat % 4 with
      | 0 => g + b % w
      | 1 => g + (l - g + b) % w
      | 2 => ((l ^^^ (b % w) : Nat) : Int)
      | _ => l + signedOf 32 b
    let valid : Nat → Prop := fun l =>
      (f.mod.toNat % 4 = 3 → (l - l % w : Nat) ≤ src l ∧ src l < (l - l % w : Nat) + w) ∧ x.e.mask.getLsbD (src l).toNat = true
    (issueOf (.shfl f) s { cross := true } = some x → ∃ (val : Nat → Nat) (p : Mask),
      exec (.shfl f) s = .next (x.done ((x.g.write f.d f.ty 32 (x.vals val)).pSet f.c.idx.toNat p)) ∧
      ∀ l, l < 64 → if x.pass.getLsbD l then (p.getLsbD l = true ↔ valid l) ∧
          (valid l → val l = x.src f.a 32 (src l).toNat) ∧ (¬ valid l → val l = 0)
        else p.getLsbD l = (x.g.pGet f.c.idx.toNat).getLsbD l) ∧
    (issueOf (.vote f) s { cross := true } = some x → ∃ p : Mask,
      exec (.vote f) s = .next (x.done (x.g.pSet f.d.idx.toNat p)) ∧
      ∀ l, l < 64 → if x.pass.getLsbD l then
          (let a := fun k => (x.g.pGet f.a.idx.toNat).getLsbD k
           let n := (lanesOf x.pass).countP a
           p.getLsbD l = true ↔ match f.mod.toNat % 4 with
            | 0 => ∀ k, x.pass.getLsbD k = true → a k = true
            | 1 => ∃ k, x.pass.getLsbD k = true ∧ a k = true
            | 2 => ∀ k j, x.pass.getLsbD k = true → x.pass.getLsbD j = true → a k = a j
            | _ => n % 2 = 1)
        else p.getLsbD l = (x.g.pGet f.d.idx.toNat).getLsbD l) ∧
    (issueOf (.ballot f) s { cross := true } = some x → Gives (.ballot f) s x none f.d f.ty 64 (fun _ =>
      (x.g.pGet f.a.idx.toNat &&& x.pass).toNat)) ∧
    (WellFormed (.lred f) → issueOf (.lred f) s { cross := true } = some x → ∃ v, Gives (.lred f) s x none f.d f.ty 32 (fun _ => v) ∧
      let vs := (lanesOf x.pass).map (fun l => x.src f.a 32 l)
      (f.mod.toNat = 0 → f.ty ≠ .f32 → v = vs.sum % 2 ^ 32) ∧
      (f.mod.toNat = 0 → f.ty = .f32 → v = FFmt.f32.rnd .rn (FVal.sum .rn (vs.map FFmt.f32.value))) ∧
      (f.mod.toNat = 1 → f.ty ≠ .f32 → vs ≠ [] → v ∈ vs ∧ ∀ a ∈ vs, tyVal f.ty 32 v ≤ tyVal f.ty 32 a) ∧
      (f.mod.toNat = 2 → f.ty ≠ .f32 → vs ≠ [] → v ∈ vs ∧ ∀ a ∈ vs, tyVal f.ty 32 a ≤ tyVal f.ty 32 v) ∧
      (let val := FFmt.f32.value
       f.ty = .f32 → vs ≠ [] → ((∀ a ∈ vs, val a = .nan) → f.mod.toNat ≠ 0 → v = 0x7FC00000) ∧
        ((∃ a ∈ vs, val a ≠ .nan) →
          (f.mod.toNat = 1 → v ∈ vs ∧ val v ≠ .nan ∧ ∀ a ∈ vs, ¬ (val a).below (val v)) ∧
          (f.mod.toNat = 2 → v ∈ vs ∧ val v ≠ .nan ∧ ∀ a ∈ vs, ¬ (val v).below (val a)))) ∧
      (f.mod.toNat = 3 → vs ≠ [] → ∀ i, v.testBit i = vs.all (fun a => a.testBit i)) ∧
      (f.mod.toNat = 4 → ∀ i, v.testBit i = vs.any (fun a => a.testBit i)) ∧
      (f.mod.toNat = 5 → ∀ i, v.testBit i = decide (vs.countP (fun a => a.testBit i) % 2 = 1))) ∧
    (issueOf (.bcast f) s { cross := true } = some x → (x.pass = 0 → exec (.bcast f) s = .next (x.done x.g)) ∧
      ∀ k, x.pass.getLsbD k = true → (∀ l, l < k → x.pass.getLsbD l = false) →
        Gives (.bcast f) s x none f.d f.ty f.w (fun _ =>
          x.src f.a f.w (if x.e.mask.getLsbD (x.src f.b 32 k % 64) then x.src f.b 32 k % 64 else k)))

/-! ### Control -/

/-- R69: the headers of a code segment are its first word and, in the segment, the word after each clause, and no other word is one.
R87, R170: a branch goes with its lanes, the passing ones, or under .any and .all every lane of the entry or none, to the word
OFFS words on, with the priority TPRIO, and no lane of it stays where none goes; a target that is no header traps at POS 8. Where
a page of the headers before a target is not present or faults, what kld's load tells of the target decides (the model's choice, log
entry 43). CALL writes the address of the next word into v0 and v1 of the lanes that go.
R171: BRX, CALLX and RET send each passing lane to the address it holds, as one entry for each target with the priority of its
header, and the others go to the next word; a target that is no header traps BAD_TARGET at POS 28 for the whole entry. CALLX writes
the address of the next word to D. -/
def Obligations.ControlTransfers : Prop :=
  (∀ (f : FBr) (s : State) (x : Issue),
     let target := wrapNat 64 ((x.pc : Int) + 8 * signedOf 32 f.offs.toNat)
     let go : Mask := match f.cond.toNat with
       | 0 => x.pass
       | 1 => if x.pass = 0 then 0 else x.e.mask
       | _ => if x.pass = x.e.mask then x.e.mask else 0
     (issueOf (.bra f) s {} = some x →
       (go = 0 → exec (.bra f) s = .next (x.done x.g)) ∧
       (go ≠ 0 → x.noHeader target → exec (.bra f) s = x.trap .badTarget 8) ∧
       (go ≠ 0 → ¬ x.noHeader target → ∃ g : Group,
         exec (.bra f) s = .next ((x.s.setGrp x.gid g).settle x.gid) ∧
         x.sends g (minus x.e.mask go) [(target, f.tprio.toNat, go)] ∧ { g with entries := [] } = { x.g with entries := [] })) ∧
     (issueOf (.call f) s { writes := [.v 0, .v 1] } = some x →
       (go = 0 → exec (.call f) s = .next (x.done x.g)) ∧
       (go ≠ 0 → x.noHeader target → exec (.call f) s = x.trap .badTarget 8) ∧
       (go ≠ 0 → ¬ x.noHeader target → ∃ g : Group,
         exec (.call f) s = .next ((x.s.setGrp x.gid g).settle x.gid) ∧
         x.sends g (minus x.e.mask go) [(target, f.tprio.toNat, go)] ∧
         g.kerb = x.g.kerb ∧ g.s = x.g.s ∧ g.p = x.g.p ∧ g.buffer = x.g.buffer ∧
         ∀ r l, l < 64 → (g.vGet r l).toNat =
           if go.getLsbD l ∧ r < 2 then (x.pc + 8) / 2 ^ (32 * r) % 2 ^ 32 else (x.g.vGet r l).toNat))) ∧
  (∀ (f : V3) (s : State) (x : Issue),
     let target := fun l => x.src f.a 64 l
     ∀ p ∈ [(Instr.brx f, fun g : Group => g), (.ret f, fun g => g),
         (.callx f, fun g => g.write f.d .b64 64 (x.vals (fun _ => x.pc + 8)))],
       issueOf p.1 s {} = some x →
         ((∃ l, x.pass.getLsbD l = true ∧ x.noHeader (target l)) → exec p.1 s = x.trap .badTarget 28) ∧
         ((∀ l, x.pass.getLsbD l = true → ¬ x.noHeader (target l)) → ∃ (g : Group) (tgts : List (Nat × Nat × Mask)),
           exec p.1 s = .next ((x.s.setGrp x.gid g).settle x.gid) ∧ x.sends g (minus x.e.mask x.pass) tgts ∧
           { g with entries := [] } = { p.2 x.g with entries := [] } ∧
           (∀ l, x.pass.getLsbD l = true → ∃ e ∈ tgts, e.1 = target l) ∧
           ∀ e ∈ tgts, (∀ h, x.s.fetchWord x.ctx e.1 = .ok h → e.2.1 = h / 2 ^ 32 % 2 ^ 8) ∧
             ∀ l, l < 64 → (e.2.2.getLsbD l = true ↔ x.pass.getLsbD l = true ∧ target l = e.1))) ∧
  ∀ (s : State) (gid : Nat),
    let r := (s.phaseOf gid).record
    let at_ := fun (p : Nat) => s.isHeader gid p
    (0 < r.codeExt → at_ r.codeBase = .ok true) ∧
    (∀ p, p < r.codeBase ∨ r.codeBase + r.codeExt ≤ p → at_ p ≠ .ok true) ∧
    ∀ p h, at_ p = .ok true → s.fetchWord (s.grp gid).ctx p = .ok h →
      let next := p + 8 * (h / 2 ^ 60 + 1)
      (next < r.codeBase + r.codeExt → at_ next = .ok true) ∧
      ∀ q, p < q → q < next → q < r.codeBase + r.codeExt → at_ q = .ok false

/-- R172 to R177: NOP does nothing, YIELD marks the strand, EXIT ends its passing lanes; BND waits at the end of its clause, and
traps PLACEMENT elsewhere. Lanes wait at RCV until every lane that neither parked nor exited does: those at the one that ranks first
go on as one entry, and the others wait on. -/
def Obligations.JoinsAndEnds : Prop :=
  (∀ (f : V3) (s : State) (x : Issue),
    (issueOf (.nop f) s {} = some x → exec (.nop f) s = .next (x.done x.g)) ∧
    (issueOf (.yield f) s {} = some x →
      exec (.yield f) s = .next (x.done { x.g with yielded := x.g.yielded || decide (x.pass ≠ 0) })) ∧
    (issueOf (.exit f) s {} = some x → ∃ g : Group,
      exec (.exit f) s = .next ((x.s.setGrp x.gid g).settle x.gid) ∧ g.exited = x.g.exited ||| x.pass ∧
      (∀ y ∈ g.entries, y.mask &&& x.pass = 0 ∧ y.mask ≠ 0) ∧
      (minus x.e.mask x.pass ≠ 0 → { x.e.advance with mask := minus x.e.mask x.pass } ∈ g.entries) ∧
      g.v = x.g.v ∧ g.kerb = x.g.kerb ∧ g.s = x.g.s ∧ g.p = x.g.p ∧ g.buffer = x.g.buffer) ∧
    (issueOf (.bnd f) s { nested := true, survivors := true } = some x →
      (x.e.advance.clause = none → exec (.bnd f) s = .next ((x.s.modGrp x.gid (fun g =>
        g.modEntry x.lane (fun e => { e with wait := .bnd, retry := e.mask }))).settle x.gid)) ∧
      (x.e.advance.clause ≠ none → exec (.bnd f) s = x.trap .placement 0xFF)) ∧
    (issueOf (.rcv f) s {} = some x →
      exec (.rcv f) s = .next ((x.s.modGrp x.gid (fun g =>
        g.modEntry x.lane (fun e => { e with wait := .rcv, retry := e.mask }))).settle x.gid) ∧
      (x.g.entries = [x.e] → x.e.mask = minus allLanes x.g.exited → x.g.calm = true → ∃ t, exec (.rcv f) s = .next t ∧
        (t.grp x.gid).entries = [x.e.advance]))) ∧
  (∀ (g : Group) (e : Entry), e ∈ g.entries → e.wait = .rcv →
    (∀ y ∈ g.entries, y.wait = .rcv → y.prio < e.prio ∨ (y.prio = e.prio ∧ e.pc ≤ y.pc)) →
    let at_ := fun (l : Nat) => ∃ y ∈ g.entries, y.wait = .rcv ∧ y.mask.getLsbD l = true
    ((∃ l, l < 64 ∧ g.exited.getLsbD l = false ∧ g.parked.getLsbD l = false ∧ ¬ at_ l) → g.rcvRelease = g) ∧
    (e.mask ≠ 0 → (∀ l, l < 64 → (at_ l ↔ g.exited.getLsbD l = false ∧ g.parked.getLsbD l = false)) →
      ∃ (f : Entry) (m : Mask), f ∈ g.entries ∧ f.wait = .rcv ∧ f.pc = e.pc ∧ f.prio = e.prio ∧
        (∀ l, l < 64 → (m.getLsbD l = true ↔ ∃ y ∈ g.entries, y.wait = .rcv ∧ y.pc = e.pc ∧ y.mask.getLsbD l = true)) ∧
        g.rcvRelease = { g with
          entries := { f with mask := m }.advance :: g.entries.filter (fun y => !(y.wait == .rcv && y.pc == e.pc)) }))

/-- R96 to R98, R174: an entry that traps with no handler mode on, where %utvec names a handler clause, starts it; the decode
registers hold the cause and the word, and the registers of the group and its stores stay. TRAP and BKPT so trap at POS 8. While
another entry is in handler mode the trap waits.
R25, R27, R44, R64, R80, R94, R95, R220, R263, R265: what traps a word at its issue, at the lowest position of its kind and in this
order: FIELD where the team lacks a tile or region that it names, LEVEL for an illegal operand, KERB_INVALID for a cleared kerb source
of a lane of the entry, FORMAT_SLOT for an invalid slot, ORDER_IN_STRAND for a memory-affecting word of a sealed lane, and
STRAND_CLOBBER for a write of a V register that the strand has read; a poisoned V register that a passing lane reads is the context
fault ECC. The model's choices among these clauses: the position and kind of FORMAT_SLOT and of FIELD for tiles (log entry 8), that
KERB_INVALID looks at the lanes whose guard failed too (log entry 14), and that the word's own V sources count for STRAND_CLOBBER
(log entry 31). -/
def Obligations.TrapTaken : Prop :=
  (∀ (s : State) (gid lane : Nat) (e : Entry) (c : Cause) (pos word pc : Nat),
    (s.grp gid).entryAt lane = some e → e.handler = false → pos < 256 →
    ((s.grp gid).handler = none → (s.touchHandler gid).handlerOk gid = .ok true → ∃ g : Group,
      s.trap gid lane c pos word pc = (s.touchHandler gid).setGrp gid g ∧ TrapEntered (s.grp gid) g lane e c pos word pc ∧
      (c = .strandLivelock → g.reentry = (s.grp gid).livelock e.mask) ∧ (c ≠ .strandLivelock → g.reentry = (s.grp gid).reentry)) ∧
    (∀ page code level, (s.grp gid).handler = none → (s.touchHandler gid).handlerOk gid = .error (.absent page code level) →
      s.trap gid lane c pos word pc = ((s.touchHandler gid).pageNotice (s.coreOf gid) (s.grp gid).ctx page code level).modGrp gid
        (fun g => g.modEntry lane (fun e => { e with wait := .fetch page }))) ∧
    (∀ h, (s.grp gid).handler = some h →
      s.trap gid lane c pos word pc = s.setGrp gid { s.grp gid with deferred := some ⟨e.mask, c, pos, word, pc⟩ })) ∧
  (∀ (f : VI) (s : State) (x : Issue), ∀ p ∈ [(Instr.trap f, Cause.trap), (.bkpt f, .bkpt)],
    issueOf p.1 s {} = some x → x.e.handler = false → x.g.handler = none → (x.s.touchHandler x.gid).handlerOk x.gid = .ok true →
      ∃ g : Group, exec p.1 s = .next (((x.s.touchHandler x.gid).setGrp x.gid g).settle x.gid) ∧
        TrapEntered x.g g x.lane x.e p.2 8 x.e.word x.e.pc) ∧
  (∀ (i : Instr) (s : State) (n : Need) (k : Issue → Out) (gid lane : Nat) (e : Entry) (f : Info),
    let g := s.grp gid
    let sch := (s.phaseOf gid).sched
    let trap := fun (c : Cause) (pos : Nat) => stage i s n k = .next ((s.trap gid lane c pos e.word e.pc).settle gid)
    let lacking : OpK × Operand × Nat → Prop := fun x =>
      (x.1 = .tile ∧ sch.tiles ≤ x.2.1.idx.toNat) ∨ (x.1 = .region ∧ sch.accr ≤ x.2.1.idx.toNat)
    let illegal : OpK × Operand × Nat → Prop := fun x =>
      let m := x.2.1.idx.toNat
      (x.1 = .base ∧ g.regs ≤ m) ∨ ∃ w, (x.1 = .src w ∨ x.1 = .dst w ∨ x.1 = .upd w) ∧ match x.2.1.lvl with
        | .k => 8 ≤ m ∨ m % regCount w ≠ 0
        | .v => g.regs < m + regCount w ∨ m % regCount w ≠ 0
        | .s => 64 ≤ m ∨ (64 < w ∧ m % 2 ≠ 0)
        | .q => x.1 ≠ .src w ∨ m % regCount w ≠ 0
    let invalid : OpK × Operand × Nat → Prop := fun x =>
      ∃ w, (x.1 = .src w ∨ x.1 = .upd w) ∧ x.2.1.lvl = .k ∧ ∃ j, j < regCount w ∧ ∃ l, e.mask.getLsbD l = true ∧
        g.kValid (x.2.1.idx.toNat + j) l = false
    let least := fun (bad : OpK × Operand × Nat → Prop) (p : Nat) =>
      (∃ x ∈ f.ops, bad x ∧ x.2.2 = p) ∧ ∀ x ∈ f.ops, bad x → p ≤ x.2.2
    let free := fun (bad : OpK × Operand × Nat → Prop) => ∀ x ∈ f.ops, ¬ bad x
    let reads := f.ops.flatMap (fun x => opkReads x.1 x.2.1) ++ n.reads
    let writes := f.ops.flatMap (fun x => opkWrites x.1 x.2.1) ++ n.writes
    let mark := fun (r l : Nat) => (KMap.getD g.vpoison 0 r).getLsbD l
    s.focus = some ⟨gid, lane⟩ → g.entryAt lane = some e → i.info = some f → s.holds gid e f n = false →
    (∀ p, least lacking p → trap .field p) ∧
    (free lacking → ∀ p, least illegal p → trap .level p) ∧
    (free lacking → free illegal → ∀ p, least invalid p → trap .kerbInvalid p) ∧
    (free lacking → free illegal → free invalid →
      (∀ sl, n.slot = some sl → Slot.decode ((s.phaseOf gid).slot sl) = none → trap .formatSlot (if 0xD0 ≤ f.op then 49 else 48)) ∧
      ((∀ sl, n.slot = some sl → Slot.decode ((s.phaseOf gid).slot sl) ≠ none) → n.priv = false → (n.nested = true → e.handler = false) →
        (n.cross = true → g.crossOk e.mask = true) →
        (n.memaff = true → g.sealed &&& e.mask ≠ 0 → trap .orderInStrand 0xFF) ∧
        ((n.memaff = true → g.sealed &&& e.mask = 0) →
          ((∃ r l, (.v r ∈ reads ∧ (g.guard e.mask f.g).getLsbD l = true ∨ (l, r) ∈ n.laneReads) ∧ mark r l = true) →
            stage i s n k = .next (s.groupFault gid 11 e.pc 0 0)) ∧
          ((∀ r l, (.v r ∈ reads ∧ (g.guard e.mask f.g).getLsbD l = true ∨ (l, r) ∈ n.laneReads) → mark r l = false) →
            n.survivors = false →
            (∃ r, r < 256 ∧ .v r ∈ writes ∧ (g.readSet.getLsbD r = true ∨ .v r ∈ reads ∨ ∃ l, (l, r) ∈ n.laneReads)) →
              trap .strandClobber 38))))) ∧
  ∀ x : Word64,
    let at_ := fun (hi lo : Nat) => x.toNat / 2 ^ lo % 2 ^ (hi + 1 - lo)
    let scaled := (at_ 31 28, at_ 27 24) ∈ [(4, 5), (5, 5)]
    (Slot.decode x).isSome = true ↔
      (at_ 31 28, at_ 27 24) ∈ [(0, 3), (1, 3), (2, 3), (3, 3), (4, 5), (5, 5)] ∧ at_ 23 21 ≤ 4 ∧ at_ 15 13 ≤ 4 ∧ at_ 10 9 ≤ 1 ∧
      at_ 63 32 = 0 ∧ at_ 8 0 = 0 ∧ (scaled → at_ 20 19 = 1 ∧ at_ 18 16 = at_ 23 21) ∧ (¬ scaled → at_ 20 19 = 0 ∧ at_ 18 16 = 0)

/-- R100, R175: TRET outside handler mode traps PLACEMENT. In it, after a resumable cause its passing lanes go to the
word after the one that trapped, with the priority they had, and the others to the next word, still in handler mode; handler mode
ends with its last lane. After any other cause it is the context fault of escalation, with the cause in XCAUSE. With no passing lane
it only goes to the next word (log entry 25); that, and that the lanes take back the priority they had before the trap (log entry 82), is
the model's choice. -/
def Obligations.TrapReturn : Prop :=
  ∀ (f : V3) (s : State) (x : Issue), issueOf (.tret f) s {} = some x →
    let final : List Cause := [.header, .placement, .strandStores, .strandClobber, .orderInStrand, .strandLivelock]
    (x.e.handler = false → exec (.tret f) s = x.trap .placement 0xFF) ∧
    (x.e.handler = true → ∀ h, x.g.handler = some h →
      (x.pass = 0 → exec (.tret f) s = .next (x.done x.g)) ∧
      (x.pass ≠ 0 → h.cause ∈ final →
        exec (.tret f) s = .next (x.s.groupFault x.gid 1 (h.ret - 8) 0 h.cause.code)) ∧
      (x.pass ≠ 0 → h.cause ∉ final → ∃ g : Group,
        exec (.tret f) s = .next ((x.s.setGrp x.gid g).settle x.gid) ∧ SameRegs x.g g ∧
        { pc := h.ret, prio := h.retPrio, mask := x.pass, clause := h.retClause } ∈ g.entries ∧
        (minus x.e.mask x.pass ≠ 0 → { x.e.advance with mask := minus x.e.mask x.pass } ∈ g.entries) ∧
        (∀ y ∈ g.entries, y.mask &&& x.pass ≠ 0 → y.handler = false ∨ y ∈ x.g.entries) ∧
        (g.handler = none ∨ g.handler = some h) ∧ (g.handler = none ↔ ∀ y ∈ g.entries, y.handler = false)))

/-- R271, R274, R385, R386: a context fault stops an ACTIVE context: its fault is recorded with the cause, the trap's cause, the place
and the address, every lane of its groups that is in a strand is discarded, sealed lanes included (it stands at its entry clause,
with no kerb slot or buffered byte, and the predicates of the strand's begin), and its next acceptance skips what was accepted. A
later fault is counted in OTHERS, and so is a fault that the write of the record itself meets (R445; the model's choice, log entry 35).
A context in another state, and every other context, keeps its state: the fault is only logged.
R92, R99, R101: what does not run. A privileged word of an unprivileged context is the context fault PRIVILEGE, and a word that
may not stand in handler mode is NESTED, both at the word; a trap in handler mode is NESTED, and a trap without a valid handler
escalates with its cause, writing no decode register (the model's choice, log entry 36). -/
def Obligations.ContextFaults : Prop :=
  ((∀ (s : State) (c : Nat) (r : FaultRec), (s.ctx c).st = .active → s.groups.Pairwise (fun a b => a.1 < b.1) →
     let t := s.contextFault c r
     (t.ctx c).st = .stopped ∧
     (∃ f, (t.ctx c).fault = some f ∧ f.cause = r.cause ∧ f.xcause = r.xcause ∧ f.core = r.core ∧
       f.team = r.team ∧ f.group = r.group ∧ f.addr = r.addr ∧
       (f.others = r.others ∨ ((s.ctx c).frec ≠ 0 ∧ f.others = min (r.others + 1) (2 ^ 32 - 1)))) ∧
     ∀ gid g, KMap.find? s.groups gid = some g → g.ctx = c → g.ended = false →
       ((t.grp gid).sealed = 0 ∧ (t.grp gid).skip = g.skip ++ g.accepted ∧ (t.grp gid).accepted = []) ∧
       (t.grp gid).outside = allLanes ∧ (t.grp gid).v = g.v ∧
       ∀ l, l < 64 → g.outside.getLsbD l = false →
         (∃ e ∈ (t.grp gid).entries, e.mask.getLsbD l = true ∧ e.pc = KMap.getD g.entryPc 0 l ∧ e.clause = none ∧ e.wait = .none) ∧
         (∀ k, (t.grp gid).kValid k l = false) ∧ (∀ p ∈ (t.grp gid).buffer, ∀ b ∈ p.bytes, b.lane ≠ l) ∧
         ∀ q, q < 24 → ((t.grp gid).pGet q).getLsbD l = (KMap.getD g.snap.p 0 q).getLsbD l) ∧
   (∀ (s : State) (c : Nat) (r f : FaultRec), (s.ctx c).st = .stopped → (s.ctx c).fault = some f →
     let more := fun (f : FaultRec) => { f with others := min (f.others + 1) (2 ^ 32 - 1) }
     let s1 := (s.logRaw 1 (if r.core = noCore then noCore16 else r.core) c r.cause).modCtx c (fun x => { x with fault := some (more f) })
     ((s.contextFault c r).ctx c).st = .stopped ∧
     ((s.ctx c).frec = 0 ∨ (∀ cause d, s1.iaWrite (s.ctx c).frec (more f).bytes ≠ .error (.fault cause d)) →
       ((s.contextFault c r).ctx c).fault = some (more f)) ∧
     ((s.ctx c).frec ≠ 0 → (∃ cause d, s1.iaWrite (s.ctx c).frec (more f).bytes = .error (.fault cause d)) →
       ((s.contextFault c r).ctx c).fault = some (more (more f)))) ∧
   (∀ (s : State) (c : Nat) (r : FaultRec), (s.ctx c).st ≠ .active → (s.ctx c).st ≠ .stopped →
     s.contextFault c r = s.logRaw 1 (if r.core = noCore then noCore16 else r.core) c r.cause) ∧
   (∀ (s : State) (c d : Nat) (r : FaultRec), d ≠ c → ((s.contextFault c r).ctx d).st = (s.ctx d).st ∧
     ((s.contextFault c r).ctx d).fault = (s.ctx d).fault)) ∧
  ((∀ (i : Instr) (s : State) (n : Need) (k : Issue → Out) (gid lane : Nat) (e : Entry) (f : Info),
     s.focus = some ⟨gid, lane⟩ → (s.grp gid).entryAt lane = some e → i.info = some f → s.holds gid e f n = false →
     s.decodeTrap gid e f n = none →
       (n.priv = true → (s.ctx (s.grp gid).ctx).flags.testBit 1 = false →
         stage i s n k = .next (s.groupFault gid 3 e.pc 0 0)) ∧
       ((n.priv = true → (s.ctx (s.grp gid).ctx).flags.testBit 1 = true) → n.nested = true → e.handler = true →
         stage i s n k = .next (s.groupFault gid 2 e.pc 0 0))) ∧
   (∀ (s : State) (gid lane : Nat) (e : Entry) (c : Cause) (pos word pc : Nat), (s.grp gid).entryAt lane = some e →
     (e.handler = true → s.trap gid lane c pos word pc = s.groupFault gid 2 pc 0 0) ∧
     (e.handler = false → (s.grp gid).handler = none →
       let t := (s.touchHandler gid).livelocked gid c e.mask
       ((s.touchHandler gid).handlerOk gid = .ok false → s.trap gid lane c pos word pc = t.groupFault gid 1 pc 0 c.code) ∧
       ∀ cause d, (s.touchHandler gid).handlerOk gid = .error (.fault cause d) →
         s.trap gid lane c pos word pc = t.groupFault gid cause pc d 0)) ∧
   (∀ (s : State) (gid : Nat) (c : Cause) (m : Mask), c ≠ .strandLivelock → s.livelocked gid c m = s))

/-- R70, R71, R74, R258, R280: an entry of a running group that has not started its clause, whose header can be read and names no
flag with a word in flight, starts it together with every entry at the header outside handler mode: at the first word, with the
header's PRIO, and the words of the clause. A strand-entry clause makes its lanes part of the strand, with this PC and PRIO. A
header with a reserved field traps HEADER, a clause of the wrong kind PLACEMENT at POS 30; while a flag of WAITM is set it waits.
R275: lanes whose re-entry would take %reentry above its limit trap STRAND_LIVELOCK at the header, and %reentry keeps the limit.
R76: the position of a reserved header is that of the first condition that holds. That an entry merged of lanes in the strand and lanes
that re-enter traps PLACEMENT as a whole at a strand-entry header is the model's choice (log entry 40). -/
def Obligations.ClauseStart : Prop :=
  (∀ (s s0 : State) (gid lane h : Nat) (e0 e : Entry),
    (s.grp gid).entryAt lane = some e0 → e0.clause = none → (s.grp gid).ready e0 = true → s.mayIssue gid = true →
    s0 = s.touchRange (s.grp gid).ctx (towerOf (s.coreOf gid)) .fetch e0.pc 8 → s0.fetchWord (s.grp gid).ctx e0.pc = .ok h →
    ((∃ i, i < 12 ∧ (h / 2 ^ 48).testBit i = true ∧ s0.onFlag gid i ≠ 0) → exec (.clauseStart gid lane) s = .next s0) ∧
    ((∀ i, i < 12 → (h / 2 ^ 48).testBit i = true → s0.onFlag gid i = 0) →
      ((s0.grp gid).joinStart lane).entryAt lane = some e →
      let s1 := s0.modGrp gid (fun g => g.joinStart lane)
      let kind := h / 2 ^ 30 % 4
      let beyond := e.handler = false ∧ ∃ l, e.mask.getLsbD l = true ∧ (s0.grp gid).limit < KMap.getD (s0.grp gid).recheck 0 l
      (beyond → exec (.clauseStart gid lane) s = .next ((s1.trap gid lane .strandLivelock 0xFF h e.pc).settle gid)) ∧
      (∀ p, hdrErr h = some p → ¬ beyond →
        exec (.clauseStart gid lane) s = .next ((s1.trap gid lane .header p h e.pc).settle gid)) ∧
      (hdrErr h = none → ¬ beyond →
        ((e.handler = true ∧ kind ≠ 2) ∨ (e.handler = false ∧ kind ≠ 0 ∧ kind ≠ 1) ∨
          (e.handler = false ∧ kind = 1 ∧ minus e.mask (s0.grp gid).outside ≠ 0) ∨
          (e.handler = false ∧ kind = 0 ∧ e.mask &&& (s0.grp gid).outside ≠ 0)) →
        exec (.clauseStart gid lane) s = .next ((s1.trap gid lane .placement 30 h e.pc).settle gid)) ∧
      (hdrErr h = none → ¬ beyond →
        ((e.handler = true ∧ kind = 2) ∨ (e.handler = false ∧ kind = 1 ∧ minus e.mask (s0.grp gid).outside = 0) ∨
          (e.handler = false ∧ kind = 0 ∧ e.mask &&& (s0.grp gid).outside = 0)) →
        let s2 := s1.touchRange (s.grp gid).ctx (towerOf (s.coreOf gid)) .fetch (e.pc + 8) (8 * (h / 2 ^ 60 % 16))
        ∀ ws, s2.fetchWords (s.grp gid).ctx (e.pc + 8) (h / 2 ^ 60 % 16) = .ok ws → ∃ g : Group,
          exec (.clauseStart gid lane) s = .next ((s2.setGrp gid g).settle gid) ∧
          g.entryAt lane = some { e with pc := e.pc + 8, prio := h / 2 ^ 32 % 2 ^ 8, clause := some ⟨e.pc, h, ws⟩, retry := 0, governed := false } ∧
          (kind = 1 → g.outside = minus (s2.grp gid).outside e.mask ∧ g.reentry = (s2.grp gid).reentry ∧
            ∀ l, l < 64 → e.mask.getLsbD l = true → KMap.find? g.recheck l = none ∧
              KMap.find? g.entryPc l = some e.pc ∧ KMap.find? g.entryPrio l = some (h / 2 ^ 32 % 2 ^ 8)) ∧
          (kind ≠ 1 → g.outside = (s2.grp gid).outside ∧ g.entryPc = (s2.grp gid).entryPc) ∧
          g.v = (s2.grp gid).v ∧ g.s = (s2.grp gid).s ∧ g.p = (s2.grp gid).p ∧ g.kerb = (s2.grp gid).kerb))) ∧
  (∀ (g t : Group) (lane : Nat) (e : Entry), g.entryAt lane = some e → e.handler = false → t = g.joinStart lane →
    { t with entries := [] } = { g with entries := [] } ∧ ∃ m : Mask, t.entryAt lane = some { e with mask := m } ∧
      (∀ l, l < 64 → (m.getLsbD l = true ↔ e.mask.getLsbD l = true ∨
        ∃ y ∈ g.entries, y.pc = e.pc ∧ y.clause = none ∧ y.isParked = false ∧ y.handler = false ∧ y.mask.getLsbD l = true))) ∧
  ∀ h, h < 2 ^ 64 →
    let seta := h / 2 ^ 44 % 16
    let setb := h / 2 ^ 40 % 16
    let ok1 := h / 2 ^ 60 ≠ 0
    let ok2 := seta < 12 ∨ seta = 15
    let ok3 := setb < 12 ∨ setb = 15
    let ok4 := seta ≠ setb ∨ seta = 15
    let ok5 := h / 2 ^ 30 % 4 ≠ 3
    (¬ ok1 → hdrErr h = some 60) ∧ (ok1 → ¬ ok2 → hdrErr h = some 44) ∧ (ok1 → ok2 → ¬ ok3 → hdrErr h = some 40) ∧
    (ok1 → ok2 → ok3 → ¬ ok4 → hdrErr h = some 40) ∧ (ok1 → ok2 → ok3 → ok4 → ¬ ok5 → hdrErr h = some 30) ∧
    (ok1 → ok2 → ok3 → ok4 → ok5 →
      (∀ p, p < 28 → h.testBit p = true → (∀ q, q < p → h.testBit q = false) → hdrErr h = some p) ∧
      (h % 2 ^ 28 = 0 → hdrErr h = none))

/-- R176, R260, R268, R302: when every lane that has not exited waits at a BND, and nothing holds the commit back, the strand commits:
its stores are handed to memory in program order, behind those that its core committed before, its kerb and buffer are empty, its lanes unseal and are outside a strand, its re-entries are forgotten, and
a discard of the next strand restores the S registers and predicates of now; then each lane's survivors are written, and each entry
goes to the next clause. Otherwise the lanes wait: while a lane is parked, a consumed beat has not passed its check (R269), a commit
point or a kerb result is to come, or an engine owns a line that the buffer meets. R35, R81, R135: a result that an instruction of a
committed strand writes into S registers or predicates belongs to what a discard of the next strand restores. Which results hold a
commit back (commit points and kerb results to come, lines that an engine owns, and no others) is the model's choice (log entry 13). -/
def Obligations.StrandCommit : Prop :=
  (∀ (s : State) (gid : Nat) (g : Group), KMap.find? s.groups gid = some g → g.ended = false →
    ((g.live = 0 ∨ (∃ e ∈ g.entries, e.wait ≠ .bnd) ∨ s.canCommit gid = false) → exec (.strandCommit gid) s = .next s) ∧
    (g.live ≠ 0 → (∀ e ∈ g.entries, e.wait = .bnd) → s.canCommit gid = true → ∃ s1 : State,
      let t := s1.grp gid
      exec (.strandCommit gid) s = .next (s1.settle gid) ∧ s1.mem = s.mem ∧
      s1.fifo (s.coreOf gid) = s.fifo (s.coreOf gid) ++ g.buffer.map (fun p => ⟨gid, g.ctx, g.team, p⟩) ∧
      (∀ c, c ≠ s.coreOf gid → s1.fifo c = s.fifo c) ∧
      t.kerb = [] ∧ t.buffer = [] ∧ t.sealed = 0 ∧ t.outside = allLanes ∧ t.readSet = 0 ∧ t.reentry = 0 ∧
      t.recheck = [] ∧ t.beats = [] ∧ t.snap.limit = g.limit ∧ t.snap.utvec = g.utvec ∧ t.snap.s = g.s ∧ t.snap.p = g.p ∧ t.s = g.s ∧ t.p = g.p ∧ t.entries = g.entries.map Entry.advance ∧
      (g.entries.Pairwise (fun a b => a.mask &&& b.mask = 0) → ∀ e ∈ g.entries, ∀ l, e.mask.getLsbD l = true → ∀ r,
        (∀ k, (k, r) ∉ survivors e.word → t.vGet r l = g.vGet r l) ∧
        (∀ k, (k, r) ∈ survivors e.word → (∀ j, (j, r) ∈ survivors e.word → j = k) → t.vGet r l = KMap.getD g.kerb 0 (k * 64 + l))))) ∧
  (∀ (s : State) (gid : Nat), s.canCommit gid = true ↔
    (∀ e ∈ (s.grp gid).entries, e.isParked = true → e.mask = 0) ∧ (s.grp gid).beats = [] ∧ s.bufferOwned gid = false ∧
    ∀ o ∈ s.ops, o.2.gid = gid → o.2.committed = true ∨ (o.2.pending = false ∧ ∀ k, .k k ∉ o.2.regs)) ∧
  (∀ (g : Group) (o : Op), (o.committed = false → g.keepResult o = g) ∧ (o.committed = true →
    let t := g.keepResult o
    { t with snap := {} } = { g with snap := {} } ∧ t.snap.limit = g.snap.limit ∧ t.snap.utvec = g.snap.utvec ∧
    (∀ r, KMap.getD t.snap.s 0 r = if .s r ∈ o.regs then g.sGet r else KMap.getD g.snap.s 0 r) ∧
    ∀ r, KMap.getD t.snap.p 0 r = if .p r ∈ o.regs then g.pGet r else KMap.getD g.snap.p 0 r))

/-- R271: a discard of lanes clears their kerb slots and their bytes in the buffer, gives them back the predicates with which the
strand began, undoes their exits and seals, and sends each to its entry clause; the other lanes keep theirs. Where no other
unsealed lane of the group is inside the strand (lanes at a strand boundary are not: the model's choice, log entry 81), the S registers
are those of the strand's begin too. R269: a pending beat goes with the lanes that consumed it. R275: a discard that counts adds 1 to
%reentry, of 8 bits, and its lanes are checked against that count when they re-enter; one that does not count leaves their check. R262: lanes that park, and no others, may refill places. -/
def Obligations.Discard : Prop :=
  ∀ (g : Group) (m : Mask) (counts : Bool) (parks : List (Nat × Nat)) (t : Group), t = g.discard m counts parks →
    (∀ r l, l < 64 → KMap.find? t.kerb (r * 64 + l) = if m.getLsbD l then none else KMap.find? g.kerb (r * 64 + l)) ∧
    (∀ r l, r < 24 → (t.pGet r).getLsbD l = if m.getLsbD l then (KMap.getD g.snap.p 0 r).getLsbD l else (g.pGet r).getLsbD l) ∧
    t.buffer = g.buffer.map (fun p => { p with lanes := minus p.lanes m, bytes := p.bytes.filter (fun b => !m.getLsbD b.lane) }) ∧
    t.exited = minus g.exited m ∧ t.sealed = minus g.sealed m ∧ t.outside = g.outside ||| m ∧ t.v = g.v ∧
    (∀ l, m.getLsbD l = true → ∃ e ∈ t.entries, e.mask.getLsbD l = true ∧ e.pc = KMap.getD g.entryPc 0 l ∧
      e.prio = KMap.getD g.entryPrio 0 l ∧ e.clause = none ∧ e.handler = false ∧ e.wait = parkWait parks l) ∧
    (∀ e ∈ g.entries, ∀ l, e.mask.getLsbD l = true → m.getLsbD l = false → { e with mask := minus e.mask m } ∈ t.entries) ∧
    (minus (minus allLanes g.sealed) (m ||| g.outside) = 0 → t.s = g.snap.s ∧ t.limit = g.snap.limit ∧ t.utvec = g.snap.utvec) ∧
    (minus (minus allLanes g.sealed) (m ||| g.outside) ≠ 0 → t.s = g.s ∧ t.limit = g.limit ∧ t.utvec = g.utvec) ∧
    (counts = true → t.reentry = min 255 (g.reentry + 1) ∧
      ∀ l, l < 64 → m.getLsbD l = true → KMap.find? t.recheck l = some (g.reentry + 1)) ∧
    (counts = false → t.reentry = g.reentry ∧ t.recheck = g.recheck) ∧
    (∀ l, m.getLsbD l = false → KMap.find? t.recheck l = KMap.find? g.recheck l) ∧
    (∀ b ∈ t.beats, b.lanes &&& m = 0) ∧ (∀ b ∈ g.beats, minus b.lanes m ≠ 0 → { b with lanes := minus b.lanes m } ∈ t.beats) ∧
    t.redo = (if parks = [] then minus g.redo m else g.redo ||| m)

/-! ### Memory -/

/-- R86, R190 to R196, R264, R272, R310, R359 to R366, R414: a load whose checks hold goes into flight for its passing lanes with the bytes it will deliver,
those that the group's own buffered stores hold fixed now (R193); a commit point commits the buffer first. Its data arrive as the
groups of the core then see the bytes, and are written to D; under .acq its lanes seal. It waits for an earlier access of the group to
its bytes and for a line that an engine owns; a poisoned line is the context fault 10. A pass of no lane does
nothing. R191: the checks trap in their order. R21: a load waits at its word while its core has no slots for the lines that it needs (one
that needs more than there are takes them alone: the model's choice, log entry 84). R308: under .acq.remote the stores of the cores are
forced beyond them before it answers (of all cores: the model's choice, log entry 6). Where an access faults, the word is the context
fault of the lowest such lane; lanes whose page is not present park, and the load is made for the others. Each line is translated by the
lowest range register that holds it and the walk of the tables, with the causes of R361 and R366; a scratchpad byte beyond the extent is
SCRATCH_RANGE, and one in a window acts on its global byte. PRF changes no register, value or order, and only places the pages
of its lanes whose first touch is due. -/
def Obligations.Loads : Prop :=
  (∀ (f : FM) (s : State) (x : Issue), ∀ p ∈ [(Instr.ld f, false), (.lds f, true), (.ldq f, false)],
    let acq := f.ord.toNat == 1
    issueOf p.1 s { memaff := true, point := acq, miss := !p.2, reads := rbRegs f.rb } = some x →
      let y := x.touched f
      (x.pass = 0 → exec p.1 s = .next (x.doneS x.s)) ∧
      (x.pass ≠ 0 → x.Checks p.1 s f f.offS (f.bits / 8) (f.bits / 8) 0) ∧
      (x.pass ≠ 0 → ∀ addr s1 locs lines, y.reaches f f.offS (f.bits / 8) (f.bits / 8) 0 addr →
        y.served p.2 .load (f.bits / 8) addr s1 locs lines →
          let s2 := if acq then s1.makeVisible x.gid else s1
          let s3 := s2.fillLines ((lanesOf x.pass).flatMap lines) false
          let kind : OpKind := .load f.bits acq f.scope.toNat ((lanesOf x.pass).map (fun l =>
            (l, (locs l).map (fun q => ⟨q, (s3.grp x.gid).buffered q⟩))))
          (s1.slotsFor x.team.core kind = true → exec p.1 s = .next (x.doneS (s3.addOp {
            gid := x.gid, pc := x.pc, flag := x.flagOf f.fsel, lanes := x.pass, entry := x.e.mask, pending := acq
            dst := f.d, ty := rawTy f.bits, regs := opRegs f.d f.bits, kind := kind }))) ∧
          (s1.slotsFor x.team.core kind = false → exec p.1 s = x.again s1)) ∧
      (x.pass ≠ 0 → ∀ addr s1 span, y.reaches f f.offS (f.bits / 8) (f.bits / 8) 0 addr → y.placed p.2 .load (f.bits / 8) addr s1 span →
        let s2 := if acq then s1.makeVisible x.gid else s1
        (∀ c d, x.faultsBy span c d → exec p.1 s = .next (s2.groupFault x.gid c x.pc d 0)) ∧
        (∀ ok away, x.Splits span ok away →
          let s3 := s2.fillLines (ok.flatMap (fun e => e.2.lines)) false
          let kind : OpKind := .load f.bits acq f.scope.toNat (ok.map (fun e =>
            (e.1, e.2.locs.map (fun q => ⟨q, (s3.grp x.gid).buffered q⟩))))
          let t := if ok = [] then s3 else s3.addOp {
            gid := x.gid, pc := x.pc, flag := x.flagOf f.fsel, lanes := maskOf (ok.map (·.1)), entry := x.e.mask, pending := acq
            dst := f.d, ty := rawTy f.bits, regs := opRegs f.d f.bits, kind := kind }
          (s1.slotsFor x.team.core kind = true → exec p.1 s = .next (x.parkS t away)) ∧
          (s1.slotsFor x.team.core kind = false → exec p.1 s = x.again s1)))) ∧
  (∀ (s : State) (n bits scope : Nat) (o : Op) (acq : Bool) (lanes : List (Nat × List LByte)),
    KMap.find? s.ops n = some o → o.kind = .load bits acq scope lanes →
    let u := if acq = true ∧ scope = 5 then s.recallCores else s
    let g := u.grp o.gid
    let todo := lanes.flatMap (fun e => (e.2.filter (fun b => b.val.isNone)).map (·.loc))
    let waits := (∃ p ∈ todo, u.owned p.key = true ∨ u.accessBefore n o.gid p = true) ∨
      (acq = true ∧ (u.pointHeld o.gid = true ∨ (scope = 5 ∧ ∃ c ∈ u.commits, c.2 ≠ [])))
    let value := fun (e : Nat × List LByte) => leNat (e.2.map (fun b => b.val.getD (u.see (u.coreOf o.gid) g.ctx b.loc)))
    KMap.find? u.groups o.gid ≠ none → s.struck u (s.grp o.gid).ctx = false →
    (waits → exec (.loadComplete n) s = .next u) ∧
    (¬ waits → (∃ p ∈ todo, u.badAt p = true) → exec (.loadComplete n) s = .next (u.groupFault o.gid 10 o.pc 0 0)) ∧
    (¬ waits → (∀ p ∈ todo, u.badAt p = false) → u.unshared todo →
      ∃ t : State, exec (.loadComplete n) s = .next (t.settle o.gid) ∧ KMap.find? t.ops n = none ∧ t.mem = u.mem ∧
        let r := (g.write o.dst o.ty bits (lanes.map (fun e => (e.1, value e)))).keepResult o
        (t.grp o.gid).v = r.v ∧ (t.grp o.gid).kerb = r.kerb ∧ (t.grp o.gid).s = r.s ∧ (t.grp o.gid).snap = r.snap ∧
        (t.grp o.gid).p = g.p ∧
        (acq = false → (t.grp o.gid).sealed = g.sealed ∧ (t.grp o.gid).buffer = g.buffer ∧ t.commits = u.commits) ∧
        (acq = true → (t.grp o.gid).sealed = g.sealed ||| o.lanes ∧ (t.grp o.gid).buffer = []))) ∧
  (∀ (f : FM) (s : State) (x : Issue), issueOf (.prf f) s { reads := rbRegs f.rb } = some x →
    ∃ t : State, exec (.prf f) s = .next (x.doneS t) ∧ t.groups = x.s.groups ∧ t.ops = x.s.ops ∧ t.commits = x.s.commits ∧
      t.ctxs = x.s.ctxs ∧ (x.pass = 0 → t = x.s) ∧
      (0x80 ≤ f.rb.toNat → t = ((lanesOf x.pass).filter (fun l => x.formed f f.offS 0 l % (f.bits / 8) == 0)).foldl (fun s l =>
        s.touchVa x.ctx (towerOf x.team.core) .load (x.formed f f.offS 0 l / 64 * 64)) x.s)) ∧
  (∀ (s : State) (core : Nat) (k : OpKind),
    (s.slotsFor core k = true ↔ (∀ l ∈ k.lines, l ∈ s.missLines core) ∨ s.missLines core = [] ∨
      (s.missLines core).length + (k.lines.filter (fun l => decide (l ∉ s.missLines core))).length ≤ 2048) ∧
    ∀ l, l ∈ s.missLines core ↔ ∃ o ∈ s.ops, s.coreOf o.2.gid = core ∧ l ∈ o.2.kind.lines) ∧
  (∀ s : State, s.recallCores = s.commits.foldl (fun s e => (List.range (s.fifo e.1).length).foldl (fun s _ => s.drainOne e.1) s) s) ∧
  (∀ (s : State) (ctx : Nat) (kind : Acc) (line : Nat),
    let c := s.ctx ctx
    let holds := fun (n : Nat) => (c.range n 3).testBit 0 = true ∧ c.range n 0 ≤ line ∧ line + 64 ≤ c.range n 1
    let code := match kind with
      | .load => 0 | .store => 1 | .atomic => 2 | .fetch => 3 | .engRead => 4 | .engWrite => 5 | .stashMove | .stashWrite => 6
    let perm := match kind with
      | .load | .engRead | .stashMove => 2 | .store | .engWrite | .stashWrite => 3 | .atomic => 4 | .fetch => 5
    let fault := fun (cause x n ia dev : Nat) => s.vaIa ctx kind line = .error (.fault cause
      (x + 2 ^ 8 * code + 2 ^ 16 * n + 2 ^ 64 * line + 2 ^ 128 * ia + 2 ^ 192 * dev))
    ((∀ n, n < 16 → ¬ holds n) → fault 8 1 0xFF 0 0) ∧
    ∀ n, n < 16 → holds n → (∀ m, m < n → ¬ holds m) →
      let w := c.range n 3
      let ia := (line + c.range n 2) % 2 ^ 64
      let region := ia / 2 ^ 48
      let none_ := 16 ≤ region ∨ region = 0xC ∨ region = 0xD
      let engine := kind = .atomic ∨ kind = .engRead ∨ kind = .engWrite
      let breaks := (region = 0xE ∧ ((c.flags.testBit 1 = false) ∨ engine)) ∨ (region = 0xF ∧ engine)
      (w.testBit perm = false → fault 8 2 n ia 0) ∧
      (w.testBit perm = true → none_ → fault 8 1 n ia 0) ∧
      (w.testBit perm = true → ¬ none_ → breaks → fault 8 2 n ia 0) ∧
      (w.testBit perm = true → ¬ none_ → ¬ breaks →
        let dev := w / 2 ^ 32 % 2 ^ 10
        (w.testBit 6 = false → s.vaIa ctx kind line = .ok (ia, n, none) ∧ s.vaLine ctx kind line = s.iaLoc kind n line ia) ∧
        (w.testBit 6 = true → w / 2 ^ 48 % 2 ^ 16 ≠ KMap.getD s.xl.peerGen 0 dev → fault 9 5 n ia dev) ∧
        (w.testBit 6 = true → w / 2 ^ 48 % 2 ^ 16 = KMap.getD s.xl.peerGen 0 dev →
          s.vaIa ctx kind line = .ok (ia, n, some dev) ∧ s.vaLine ctx kind line = s.peerLoc dev ia kind n line))) ∧
  (∀ (s : State) (ia fuel level table : Nat), level < 4 →
    let index := match level with
      | 0 => ia / 2 ^ 40 % 2 ^ 12 | 1 => ia / 2 ^ 30 % 2 ^ 10 | 2 => ia / 2 ^ 21 % 2 ^ 9 | _ => ia / 2 ^ 14 % 2 ^ 7
    let pa := table + 8 * index
    let e := s.paWord pa
    let sz := e / 2 ^ 61 % 4
    let bits := match sz with | 1 => 14 | 2 => 21 | _ => 30
    let pres := e.testBit 63
    let ft := e.testBit 58
    let reserved := e / 2 ^ 54 % 4 ≠ 0 ∨ e % 2 ^ 10 ≠ 0 ∨ (sz ≠ 0 ∧ e / 2 ^ 10 % 2 ^ 4 ≠ 0)
    let allowed := (sz = 0 ∧ level < 3) ∨ (sz = 1 ∧ level = 3) ∨ (sz = 2 ∧ level = 2) ∨ (sz = 3 ∧ level = 1)
    let bad := reserved ∨ ¬ allowed ∨ (2 ≤ sz ∧ e / 2 ^ 14 % 2 ^ (bits - 14) ≠ 0) ∨
      (pres = true ∧ sz ≠ 0 ∧ e.testBit 60 = true ∧ (ft = true ∨ e.testBit 57 = true)) ∨ (ft = true ∧ ¬ (level = 3 ∧ sz = 1))
    let got := s.walkFrom ia (fuel + 1) level table
    s.walk ia = s.walkFrom ia 4 0 s.xl.ptRoot ∧
    (pres = false → ft = false → got = .absent level) ∧
    (pres = true ∨ ft = true → bad → got = .format) ∧
    (¬ bad → pres = false → ft = true → got = .touch pa) ∧
    (¬ bad → pres = true → sz = 0 → got = s.walkFrom ia fuel (level + 1) (e / 2 ^ 10 % 2 ^ 33 * 1024)) ∧
    (¬ bad → pres = true → sz ≠ 0 → got = .leaf e sz)) ∧
  (∀ (s : State) (kind : Acc) (rng va ia : Nat),
    let got := s.iaLoc kind rng va ia
    let region := ia / 2 ^ 48
    let fault := fun (cause x : Nat) => got = .error (.fault cause (detailOf x kind rng va ia 0))
    ((16 ≤ region ∨ region = 0xC ∨ region = 0xD) → fault 8 1) ∧ (region = 0xE → got = .error .regPage) ∧
    (region = 0xF → got = .ok ⟨(2 + ia / 2 ^ 47 % 2) * 2 ^ 64 +
      (ia % 2 ^ 47 + (if ia.testBit 47 then s.hw.off1 else s.hw.off0)) % 2 ^ 64, ia, none⟩) ∧
    (region < 0xC →
      (∀ level, s.walk ia = .absent level → got = .error (.absent (ia / 2 ^ 14) 2 level)) ∧
      (∀ pa, s.walk ia = .touch pa → got = .error (.absent (ia / 2 ^ 14) 3 3)) ∧
      (s.walk ia = .format → fault 8 4) ∧
      ∀ e sz, s.walk ia = .leaf e sz →
        let pa := e / 2 ^ 14 % 2 ^ 29 * 2 ^ 14 + ia % 2 ^ (match sz with | 1 => 14 | 2 => 21 | _ => 30)
        let writes := kind = .store ∨ kind = .atomic ∨ kind = .engWrite ∨ kind = .stashWrite
        (e.testBit 59 = true → fault 8 6) ∧
        (e.testBit 59 = false → writes → e.testBit 57 = false → fault 8 3) ∧
        (e.testBit 59 = false → (writes → e.testBit 57 = true) →
          (e.testBit 56 = true → got = s.peerLoc (e / 2 ^ 44 % 2 ^ 10) ia kind rng va) ∧
          (e.testBit 56 = false → e.testBit 60 = false → pa < 2 ^ 41 → pa % 2 ^ 37 < 96 * 10 ^ 9 →
            got = if s.spoiled pa then .error (.fault 10 0) else .ok ⟨pa, ia, none⟩) ∧
          (e.testBit 56 = false → e.testBit 60 = true → s.stk.stageSize ≠ 0 → pa < 2 ^ 43 → pa % 2 ^ 40 / 2 ^ 18 < 3814697 →
            let k := 2 ^ 64 + (s.flashBlock (pa / 2 ^ 18) * 2 ^ 18 + pa % 2 ^ 18)
            got = if s.spoiled k then .error (.fault 10 0) else .ok ⟨k, ia, none⟩) ∧
          (e.testBit 56 = false → e.testBit 60 = true → s.stk.stageSize = 0 → got = .error (.fault 10 0))))) ∧
  (∀ (s : State) (ctx : Nat) (kind : Acc) (va n : Nat) (l : List Loc) (m : Miss), 0 < n →
    let line := fun (i : Nat) => s.vaLine ctx kind (va / 64 * 64 + 64 * i)
    (s.vaBytes ctx kind va n = .ok l ↔ l.length = n ∧
      ∀ i, i < n → ∃ p, s.vaLine ctx kind ((va + i) / 64 * 64) = .ok p ∧ l[i]? = some (p.add ((va + i) % 64))) ∧
    (s.vaBytes ctx kind va n = .error m ↔ ∃ i, 64 * i < va % 64 + n ∧ line i = .error m ∧ ∀ j, j < i → ∃ p, line j = .ok p)) ∧
  ∀ (s : State) (tid : Nat) (kind : Acc) (addr n : Nat), 0 < n →
    let top := addr / 2 ^ 24 % 2 ^ 8
    let off := addr % 2 ^ 24
    (top = 0 → s.spadTeam tid addr = some tid) ∧
    (top ≠ 0 → (top < 0x80 ∨ 0x8B < top) → s.spadTeam tid addr = none) ∧
    (∀ t, 0x80 ≤ top → top ≤ 0x8B → s.spadTeam tid addr = some t → ∃ u, (t, u) ∈ s.teams ∧ u.phase = (s.team tid).phase ∧
      u.cluster = (s.team tid).cluster ∧ u.cy * (s.phase u.phase).sched.clw + u.cx = top % 16) ∧
    (s.spadTeam tid addr = none → s.spadSpan tid kind addr n = .error (.fault 4 0)) ∧
    ∀ t, s.spadTeam tid addr = some t →
      let u := s.team t
      (∀ m, s.spadSpan tid kind addr n = .error m ↔ ∃ i, i < n ∧ s.spadByte t kind (off + i) = .error m ∧
        ∀ j, j < i → ∃ p, s.spadByte t kind (off + j) = .ok p) ∧
      (∀ sp, s.spadSpan tid kind addr n = .ok sp → sp.locs.length = n ∧
        ∀ i, i < n → ∃ p z, s.spadByte t kind (off + i) = .ok (p, z) ∧ sp.locs[i]? = some p) ∧
      ∀ o, (u.extent ≤ o → s.spadByte t kind o = .error (.fault 4 0)) ∧
        (o < u.extent → o / 64 ∈ u.badLines → s.spadByte t kind o = .error (.fault 10 0)) ∧
        (o < u.extent → o / 64 ∉ u.badLines → (s.phase u.phase).record.window o = none →
          s.spadByte t kind o = .ok (⟨(65536 + t) * 2 ^ 64 + o, 0, none⟩, none)) ∧
        (o < u.extent → o / 64 ∉ u.badLines → ∀ d, (s.phase u.phase).record.window o = some d →
          let va := d.gbase + (o - d.soff)
          (∀ m, KMap.find? u.stash (o / 64) = none → s.vaLoc u.ctx .stashMove va = .error m → s.spadByte t kind o = .error m) ∧
          (KMap.find? u.stash (o / 64) ≠ none ∨ (∃ q, s.vaLoc u.ctx .stashMove va = .ok q) →
            (∀ m, s.vaLoc u.ctx kind va = .error m → s.spadByte t kind o = .error m) ∧
            ∀ p, s.vaLoc u.ctx kind va = .ok p → s.spadByte t kind o = .ok ({ p with win := some (t, o / 64) }, some (o / 64))))

/-- R191, R194, R261, R262, R264, R303: a store whose checks hold puts its bytes, the low bytes of D in little-endian order for each
passing lane in lane order, into the strand store buffer, in a new place, be it that no lane passes, or in the one it refills, where a
byte that several lanes write is the highest lane's; no byte of memory changes before the strand commits. Under .rel the buffer and
then the store are committed at once, in this order, and the lanes seal; at system scope it first waits until all that the core
committed is visible and acknowledged. Where all 8 places are taken it traps STRAND_STORES. Where an access faults, the word is the
context fault; lanes whose page is not present park, and the store is made for the others (R191, R272, R361). That the oldest place that
fits is refilled (log entry 42), and that each check is made over every lane before the next check (log entry 41), is the model's
choice. -/
def Obligations.Stores : Prop :=
  (∀ (f : FM) (s : State) (x : Issue), ∀ p ∈ [(Instr.st f, false), (.sts f, true)],
    let rel := f.ord.toNat == 2
    let y := x.touched f
    issueOf p.1 s { memaff := true, point := rel, reads := rbRegs f.rb } = some x →
      (x.pass = 0 →
        (8 ≤ x.g.buffer.length → x.g.refill x.pc x.e.mask = false → exec p.1 s = x.trap .strandStores 0xFF) ∧
        (x.g.buffer.length < 8 → x.g.refill x.pc x.e.mask = false → ∃ t : State, exec p.1 s = .next (x.doneS t) ∧
          t.mem = x.s.mem ∧ (t.grp x.gid).buffer = x.g.buffer ++ [⟨x.pc, 0, [], []⟩]) ∧
        (x.g.refill x.pc x.e.mask = true → ∃ t : State, exec p.1 s = .next (x.doneS t) ∧ t.mem = x.s.mem ∧
          (t.grp x.gid).buffer = (x.g.putStore x.e.mask ⟨x.pc, 0, [], []⟩).buffer)) ∧
      (x.pass ≠ 0 → x.Checks p.1 s f f.offS (f.bits / 8) (f.bits / 8) 1) ∧
      (x.pass ≠ 0 → ∀ addr s1 locs lines, y.reaches f f.offS (f.bits / 8) (f.bits / 8) 1 addr →
        y.served p.2 .store (f.bits / 8) addr s1 locs lines →
        let pl : Place := ⟨x.pc, x.pass, (lanesOf x.pass).flatMap (fun l =>
          ((locs l).zip (List.range (locs l).length)).map (fun e => ⟨l, e.1, BitVec.ofNat 8 (x.src f.d f.bits l / 256 ^ e.2)⟩)),
          (lanesOf x.pass).flatMap lines⟩
        let g1 := s1.grp x.gid
        let core := s1.coreOf x.gid
        let handed := fun (q : Place) => (⟨x.gid, g1.ctx, g1.team, q⟩ : Commit)
        let s2 := s1.makeVisible x.gid
        (8 ≤ g1.buffer.length → g1.refill x.pc x.e.mask = false → exec p.1 s = y.trap .strandStores 0xFF) ∧
        (g1.buffer.length < 8 ∨ g1.refill x.pc x.e.mask = true →
          (rel = false → ∃ t : State, exec p.1 s = .next (x.doneS t) ∧ t.mem = s1.mem ∧ t.commits = s1.commits ∧
            (t.grp x.gid).buffer = (g1.putStore x.e.mask pl).buffer ∧ (t.grp x.gid).sealed = g1.sealed) ∧
          (rel = true → (∀ b ∈ pl.bytes, s1.owned b.loc.key = false) →
            (f.scope.toNat ≠ 4 ∨ s2.released x.gid 4 = true → ∃ t : State, exec p.1 s = .next (x.doneS t) ∧ t.mem = s1.mem ∧
              t.fifo core = s1.fifo core ++ g1.buffer.map handed ++ [handed pl] ∧
              (t.grp x.gid).buffer = [] ∧ (t.grp x.gid).sealed = g1.sealed ||| x.pass) ∧
            (f.scope.toNat = 4 → s2.released x.gid 4 = false → exec p.1 s = x.again s2)) ∧
          (rel = true → (∃ b ∈ pl.bytes, s1.owned b.loc.key = true) → exec p.1 s = .next s))) ∧
      (x.pass ≠ 0 → ∀ addr s1 span, y.reaches f f.offS (f.bits / 8) (f.bits / 8) 1 addr → y.placed p.2 .store (f.bits / 8) addr s1 span →
        (∀ c d, x.faultsBy span c d → exec p.1 s = .next ((if rel then s1.makeVisible x.gid else s1).groupFault x.gid c x.pc d 0)) ∧
        (∀ ok away, x.Splits span ok away → (s1.grp x.gid).buffer.length < 8 ∨ (s1.grp x.gid).refill x.pc x.e.mask = true →
          let pl : Place := ⟨x.pc, maskOf (ok.map (·.1)), ok.flatMap (fun e =>
            (e.2.locs.zip (List.range e.2.locs.length)).map (fun z => ⟨e.1, z.1, BitVec.ofNat 8 (x.src f.d f.bits e.1 / 256 ^ z.2)⟩)),
            ok.flatMap (fun e => e.2.lines)⟩
          let put := fun (s : State) => s.modGrp x.gid (fun g => g.putStore x.e.mask pl)
          let s2 := s1.makeVisible x.gid
          (rel = false → exec p.1 s = .next (x.parkS ((put s1).fillLines pl.stash false) away)) ∧
          (rel = true → (∀ b ∈ pl.bytes, s1.owned b.loc.key = false) → f.scope.toNat ≠ 4 ∨ s2.released x.gid 4 = true →
            exec p.1 s = .next (x.parkS ((((put s2).makeVisible x.gid).seal x.gid pl.lanes).fillLines pl.stash false) away))))) ∧
  (∀ (g : Group) (entry : Mask) (p : Place),
    let fits := fun (q : Place) => q.pc = p.pc ∧ q.lanes &&& entry = 0
    (g.refill p.pc entry = true ↔ minus entry g.redo = 0 ∧ ∃ q ∈ g.buffer, fits q) ∧
    (g.refill p.pc entry = false → g.putStore entry p = { g with buffer := g.buffer ++ [p] }) ∧
    (g.refill p.pc entry = true → ∃ pre q post, g.buffer = pre ++ q :: post ∧ fits q ∧ (∀ z ∈ pre, ¬ fits z) ∧
      g.putStore entry p = { g with buffer := pre ++ { q with
        lanes := q.lanes ||| entry, bytes := laneOrder (q.bytes ++ p.bytes), stash := q.stash ++ p.stash } :: post })) ∧
  ∀ l : List SByte, (laneOrder l).Pairwise (fun a b => a.lane ≤ b.lane) ∧
    ∀ k, k < 64 → (laneOrder l).filter (fun b => b.lane == k) = l.filter (fun b => b.lane == k)

/-- R194, R264, R298, R302: the buffered stores of a group are committed in program order behind those of its core, and the buffer is
empty; the groups of the core see them at once, and memory does not change. The oldest committed place of a core becomes visible
beyond it as a whole: each of its bytes reads as the last one that it writes there, for a context whose lines are not encrypted, every
other byte stays, and its stash lines are Dirty. It is held while an engine owns one of its lines, and a place in the package's own
memory while an earlier write to a peer, of the core or of a group of its context, is not acknowledged. R399: every line of DRAM and flash
that a protected context writes is encrypted with the key of its slot and the line's number IA[51:6], and what it reads there is
decrypted; another context reads the bytes as stored. R414: where a line has been poisoned in the meantime, the
context faults with cause 10.
R327 to R330: a Dirty line of a stash window is written back and becomes Clean; its bytes stand at their global address, so that
no byte of memory changes. A line whose global line is poisoned, or stands on a page that is marked poisoned, and a poisoned line fault the
context, and the poison of the line goes to its global line: the one from which it was filled (R370). A line that is not Dirty stays. -/
def Obligations.StoresBecomeVisible : Prop :=
  (∀ (s : State) (gid : Nat), let g := s.grp gid
     let core := s.coreOf gid
     KMap.find? s.groups gid ≠ none →
       let t := s.makeVisible gid
       (t.grp gid).buffer = [] ∧ t.mem = s.mem ∧
       t.fifo core = s.fifo core ++ g.buffer.map (fun p => ⟨gid, g.ctx, g.team, p⟩) ∧ (∀ c, c ≠ core → t.fifo c = s.fifo c) ∧
       ∀ ctx p, t.see core ctx p = (g.buffered p).getD (s.see core ctx p)) ∧
  (∀ (s : State) (core : Nat) (c : Commit) (rest : List Commit), s.fifo core = c :: rest →
     (s.commitHeld core c = true ↔ (∃ b ∈ c.place.bytes, s.owned b.loc.key = true) ∨
       ((∃ b ∈ c.place.bytes, isPeer b.loc.key = false) ∧
         ∃ w ∈ s.peerWrites, w.2.core = some core ∨ (w.2.core ≠ none ∧ w.2.ctx = c.ctx))) ∧
     (s.commitHeld core c = true → s.drainOne core = s) ∧
     (s.commitHeld core c = false → (s.drainOne core).fifo core = rest ∧
       (s.unshared (c.place.bytes.map (·.loc)) → (∀ b ∈ c.place.bytes, isPeer b.loc.key = false ∧ s.badAt b.loc = false) →
         (s.drainOne core).mem = (s.wrAll c.ctx (c.place.bytes.map (fun b => (b.loc, b.val)))).mem) ∧
       (bitOf (s.ctx c.ctx).flags 0 = false → s.unshared (c.place.bytes.map (·.loc)) →
         (∀ b ∈ c.place.bytes, isPeer b.loc.key = false ∧ s.badAt b.loc = false) →
         let t := s.drainOne core
         (∀ pre b post, c.place.bytes = pre ++ b :: post → (∀ z ∈ post, z.loc.key ≠ b.loc.key) → t.mem.get b.loc.key = b.val) ∧
         (∀ k, (∀ b ∈ c.place.bytes, b.loc.key ≠ k) → t.mem.get k = s.mem.get k) ∧
         (∀ e ∈ c.place.stash, KMap.find? s.teams e.1 ≠ none → KMap.find? (t.team e.1).stash e.2 = some .dirty) ∧
         t.ctxs = s.ctxs ∧ ∀ gid, { t.grp gid with stored := [] } = { s.grp gid with stored := [] } ∧
           ∀ l, l ∈ (t.grp gid).stored ↔ l ∈ (s.grp gid).stored ∨
             (gid = c.gid ∧ KMap.find? s.groups gid ≠ none ∧ ∃ b ∈ c.place.bytes, l = lineKey b.loc.key)) ∧
       ((∃ b ∈ c.place.bytes, s.badAt b.loc = true) → (s.ctx c.ctx).st = .active →
         ((s.drainOne core).ctx c.ctx).st = .stopped))) ∧
  (∀ (s : State) (core : Nat), s.fifo core = [] → s.drainOne core = s) ∧
  (∀ (s : State) (ctx : Nat) (p : Loc) (x : Byte) (l : List (Loc × Byte)),
     let base := p.key / 64 * 64
     let key := KMap.getD s.ident.keys 0 ((s.ctx ctx).flags / 2 ^ 8 % 2 ^ 6)
     let plain := Aes.xtsLine false key (p.ia / 64) ((List.range 64).map (fun i => (s.mem.get (base + i)).toNat))
     let secret := bitOf (s.ctx ctx).flags 0 = true ∧ (spaceOf p.key = 0 ∨ spaceOf p.key = 1)
     let t := s.wr ctx p x
     s.wrAll ctx ((p, x) :: l) = t.wrAll ctx l ∧
     (¬ secret → (∀ k, t.mem.get k = if k = p.key then x else s.mem.get k) ∧ (s.pendingPeer p = none → s.rd ctx p = s.mem.get p.key)) ∧
     (secret → s.rd ctx p = BitVec.ofNat 8 (plain.getD (p.key % 64) 0) ∧
       (∀ j < 64, t.mem.get (base + j) =
         BitVec.ofNat 8 ((Aes.xtsLine true key (p.ia / 64) (plain.set (p.key % 64) x.toNat)).getD j 0)) ∧
       ∀ k, k / 64 ≠ p.key / 64 → t.mem.get k = s.mem.get k)) ∧
  (∀ (s : State) (team line : Nat) (t : Team), KMap.find? s.teams team = some t →
     (KMap.find? t.stash line ≠ some .dirty → exec (.stashWriteback team line) s = .next s) ∧
     (KMap.find? t.stash line = some .dirty →
       let u := s.modTeam team (fun t =>
         { t with stash := KMap.insert t.stash line .clean, badLines := t.badLines.filter (fun l => l != line) })
       KMap.find? (u.team team).stash line = some .clean ∧ u.mem = s.mem ∧
       ((s.phase t.phase).record.window (line * 64) = none → exec (.stashWriteback team line) s = .next u) ∧
       ∀ d, (s.phase t.phase).record.window (line * 64) = some d →
         let va := d.gbase + (line * 64 - d.soff)
         let place := u.vaLoc t.ctx .stashWrite va
         let home := s.stashLoc t line
         let bad := fun (u : State) (c z : Nat) => u.contextFault t.ctx { cause := c, core := t.core, team := t.num, addr := va, detail := z }
         let marked := ∃ c z, place = .error (.fault c z) ∧ (c = 10 ∨ (c = 8 ∧ z % 256 = 6))
         let poisoned := ∃ p, home = some p ∧ u.spoiled p.key = true
         (∀ c z, place = .error (.fault c z) → c = 10 ∨ (c = 8 ∧ z % 256 = 6) →
           exec (.stashWriteback team line) s = .next (bad u c z)) ∧
         (¬ marked → poisoned → exec (.stashWriteback team line) s = .next (bad u 10 0)) ∧
         (¬ marked → ¬ poisoned → ∀ p, home = some p → t.badLines.contains line = true → exec (.stashWriteback team line) s =
           .next (bad { u with poison := lineKey p.key :: u.poison } 10 0)) ∧
         (¬ marked → ¬ poisoned → home = none ∨ t.badLines.contains line = false →
           exec (.stashWriteback team line) s = .next u))) ∧
  ∀ (s : State) (t : Team) (line : Nat),
    (∀ p, KMap.find? t.stashAt line = some p → s.stashLoc t line = some p) ∧
    (KMap.find? t.stashAt line = none → ∀ d, (s.phase t.phase).record.window (line * 64) = some d → ∀ p,
      s.vaLoc t.ctx .stashMove (d.gbase + (line * 64 - d.soff)) = .ok p → s.stashLoc t line = some p)

/-- R191, R197 to R199, R264, R303: an atomic word whose checks hold commits the buffer and puts one step for each passing lane in flight.
Each step, in lane order on one location, reads the location and writes the operation's result there, and seals its lane; under .rel
at a scope wider than the core not before all that the core committed is visible, at any scope not before what the core committed
there is, and at scope .remote not before the stores of the cores have been forced beyond them (R308; log entry 6). R21: the word waits while
its core has no slots for its lines (log entry 84). When all are done ATOM and ATOMS write the old values to D, and RED ends. Where an access faults the word is the context fault; lanes
whose page is not present park, and the others make their steps (R191, R272, R361). -/
def Obligations.Atomics : Prop :=
  (∀ (f : FM) (s : State) (x : Issue), ∀ p ∈ [(Instr.atom f, false, true), (.atoms f, true, true), (.red f, false, false)],
    issueOf p.1 s { memaff := true, point := true, miss := !p.2.1, reads := rbRegs f.rb } = some x →
      let y := x.touched f
      (x.pass = 0 → exec p.1 s = .next (x.doneS x.s)) ∧
      (x.pass ≠ 0 → x.Checks p.1 s f f.off8 (f.bits / 8) (f.bits / 8) 2) ∧
      (x.pass ≠ 0 → ∀ addr s1 locs lines, y.reaches f f.off8 (f.bits / 8) (f.bits / 8) 2 addr →
        y.served p.2.1 .atomic (f.bits / 8) addr s1 locs lines →
          let d := fun l => x.src f.d (if f.isCas then 2 * f.bits else f.bits) l
          let kind : OpKind := .atom f.bits f.aop f.ord.toNat f.scope.toNat p.2.1 p.2.2 ((lanesOf x.pass).map (fun l =>
              { lane := l, loc := (locs l).headD ⟨0, 0, none⟩
                v := if f.isCas then d l / 2 ^ f.bits else d l
                cmp := if f.isCas then d l % 2 ^ f.bits else 0
                stash := lines l }))
          (s1.slotsFor x.team.core kind = true →
            exec p.1 s = .next (x.doneS (((s1.makeVisible x.gid).fillLines ((lanesOf x.pass).flatMap lines) false).addOp {
            gid := x.gid, pc := x.pc, flag := if p.2.2 then x.flagOf f.fsel else none, lanes := x.pass, entry := x.e.mask
            pending := true, dst := f.d, ty := rawTy f.bits, regs := if p.2.2 then opRegs f.d f.bits else [], kind := kind }))) ∧
          (s1.slotsFor x.team.core kind = false → exec p.1 s = x.again s1)) ∧
      (x.pass ≠ 0 → ∀ addr s1 span, y.reaches f f.off8 (f.bits / 8) (f.bits / 8) 2 addr →
        y.placed p.2.1 .atomic (f.bits / 8) addr s1 span →
        (∀ c d, x.faultsBy span c d → exec p.1 s = .next ((s1.makeVisible x.gid).groupFault x.gid c x.pc d 0)) ∧
        (∀ ok away, x.Splits span ok away →
          let d := fun l => x.src f.d (if f.isCas then 2 * f.bits else f.bits) l
          let kind : OpKind := .atom f.bits f.aop f.ord.toNat f.scope.toNat p.2.1 p.2.2 (ok.map (fun e =>
            { lane := e.1, loc := e.2.locs.headD ⟨0, 0, none⟩
              v := if f.isCas then d e.1 / 2 ^ f.bits else d e.1
              cmp := if f.isCas then d e.1 % 2 ^ f.bits else 0
              stash := e.2.lines }))
          let s2 := (s1.makeVisible x.gid).fillLines (ok.flatMap (fun e => e.2.lines)) false
          s1.slotsFor x.team.core kind = true → exec p.1 s = .next (x.parkS (if ok = [] then s2 else s2.addOp {
            gid := x.gid, pc := x.pc, flag := if p.2.2 then x.flagOf f.fsel else none, lanes := maskOf (ok.map (·.1)), entry := x.e.mask
            pending := true, dst := f.d, ty := rawTy f.bits, regs := if p.2.2 then opRegs f.d f.bits else [], kind := kind }) away)))) ∧
  (∀ (s : State) (n bits aop ord sc lane : Nat) (o : Op) (spad ret : Bool) (steps : List AtomStep) (u : AtomStep),
    KMap.find? s.ops n = some o → o.kind = .atom bits aop ord sc spad ret steps → KMap.find? s.groups o.gid ≠ none →
    steps.find? (fun t => t.lane == lane && t.old.isNone) = some u →
    (∀ t ∈ steps, t.lane < lane → t.old = none → overlaps t.loc u.loc (bits / 8) = false) →
    s.owned u.loc.key = false → s.pointHeld o.gid = false →
    let locs := (List.range (bits / 8)).map u.loc.add
    let ctx := (s.grp o.gid).ctx
    let s1 := if sc = 5 then (s.makeVisible o.gid).recallCores else s.makeVisible o.gid
    let ready := (if 2 ≤ ord ∧ 2 ≤ sc then s1.released o.gid sc = true else s1.drained (s1.coreOf o.gid) locs = true) ∧
      (sc = 5 → ∀ c ∈ s1.commits, c.2 = []) ∧ ∀ p ∈ locs, s1.pendingPeer p = none
    (s.badAt u.loc = true → s.atomStep n lane = some (.next (s.groupFault o.gid 10 o.pc 0 0))) ∧
    (s.badAt u.loc = false → s.struck s1 ctx = false → ¬ ready → s.atomStep n lane = some (.next s1)) ∧
    (s.badAt u.loc = false → s.struck s1 ctx = false → ready → KMap.find? s1.groups o.gid ≠ none → s1.unshared [u.loc] → ∃ t : State,
      s.atomStep n lane = some (.next (t.settle o.gid)) ∧ (spad = false → exec (.homeSliceStep false n lane) s = .next (t.settle o.gid)) ∧
      let old := s1.rdN ctx u.loc (bits / 8)
      t.mem = (s1.wrN ctx u.loc (bits / 8) (match aop with
        | 0 => (old + u.v) % 2 ^ bits
        | 1 => if signedOf bits old ≤ signedOf bits u.v then old else u.v
        | 2 => if signedOf bits old ≤ signedOf bits u.v then u.v else old
        | 3 => min old u.v
        | 4 => max old u.v
        | 5 => old &&& u.v
        | 6 => old ||| u.v
        | 7 => old ^^^ u.v
        | 8 => u.v
        | 9 => if old = u.cmp then u.v else old
        | _ => FFmt.f32.add .rn old u.v)).mem ∧
      (t.grp o.gid).sealed = (s1.grp o.gid).sealed ||| laneBit lane ∧
      let after := steps.map (fun z => if z.lane = lane then { z with old := some old } else z)
      let all := after.all (fun z => z.old.isSome)
      KMap.find? t.ops n = if all && !ret then none else
        some { o with kind := .atom bits aop ord sc spad ret after, pending := !all })) ∧
  (∀ (s : State) (n bits aop ord sc : Nat) (o : Op) (steps : List AtomStep) (spad : Bool),
    KMap.find? s.ops n = some o → o.kind = .atom bits aop ord sc spad true steps → (∀ u ∈ steps, u.old ≠ none) →
    ∃ g : Group, exec (.atomComplete n) s = .next (({ s with ops := KMap.erase s.ops n }.modGrp o.gid (fun _ => g.keepResult o)).settle
        o.gid) ∧
      (o.dst.lvl ≠ .s ∨ aop ≠ 9 ∨ bits ≠ 32 → g = (s.grp o.gid).write o.dst o.ty bits (steps.map (fun u => (u.lane, u.old.getD 0)))) ∧
      (o.dst.lvl = .s → aop = 9 → bits = 32 → ∀ u rest, steps = u :: rest → u.old.getD 0 < 2 ^ 32 →
        (g.sGet o.dst.idx.toNat).toNat = ((s.grp o.gid).sGet o.dst.idx.toNat).toNat / 2 ^ 32 * 2 ^ 32 + u.old.getD 0)) ∧
  (∀ (s : State) (n bits aop ord sc : Nat) (o : Op) (steps : List AtomStep),
    KMap.find? s.ops n = some o → o.kind = .atom bits aop ord sc false true steps → (∃ u ∈ steps, u.old = none) →
    exec (.atomComplete n) s = .next s) ∧
  (∀ (s : State) (gid scope : Nat), s.released gid scope = true ↔ scope < 2 ∨ (s.fifo (s.coreOf gid) = [] ∧
    (scope = 4 → ∀ w ∈ s.peerWrites, w.2.ctx ≠ (s.grp gid).ctx))) ∧
  ∀ (s : State) (core : Nat) (locs : List Loc), s.drained core locs = true ↔
    ∀ c ∈ s.fifo core, ∀ b ∈ c.place.bytes, ∀ p ∈ locs, p.key ≠ b.loc.key

/-! ### Barriers and waits -/

/-- R202, R264, R301, R303: a barrier word acts once, at the address of its lowest passing lane, a multiple of 16, or traps ALIGN. TBINIT
sets the barrier to EXP and PEND = D with PHASE 0, TBEXP adds D to SECT, TBARV adds D to SECT and takes 1 from PEND; each makes the
buffer visible first and seals the entry, and an update that overruns is the context fault 5. It waits for what the core committed to
the barrier, and under .rel for what a release at its scope orders before it. TBTEST writes a predicate: whether PHASE, as the
group sees it with its own stores, differs from D; it waits while an engine owns the line of the barrier. With no passing lane nothing is done.
A barrier beyond the team's extent, in a stash window or on a poisoned line is the context fault SCRATCH_RANGE or POISON (R190, R200, R328).
R200 to R203: the update of a barrier adds to SECT and PEND; it overruns where PEND would fall below 0 or SECT leave 32 bits; where
both are then 0 the phase completes: PHASE goes up by 1 modulo 16, and PEND is EXP again. -/
def Obligations.TransactionBarriers : Prop :=
  (∀ (f : FM) (s : State) (x : Issue) (l : Nat), x.pass.getLsbD l = true → (∀ k, k < l → x.pass.getLsbD k = false) →
     let place := fun (addr : Nat) (loc : Loc) => addr % 2 ^ 32 % 16 = 0 ∧ x.s.tbPlace x.tid (addr % 2 ^ 32) = .ok loc
     let s1 := x.s.makeVisible x.gid
     let d := x.src f.d 32 l
     let outcome := fun (i : Instr) (loc : Loc) (init : Bool) (r : Option TBar) =>
       let goes := s1.drained (s1.coreOf x.gid) ((List.range 16).map loc.add) = true ∧
         (f.ord.toNat = 2 → s1.released x.gid f.scope.toNat = true)
       (¬ goes → exec i s = x.again s1) ∧
       (goes → r = none → exec i s = .next (s1.groupFault x.gid 5 x.pc 0 0)) ∧
       (goes → ∀ b, r = some b → exec i s = .next (x.doneS
         ((if init then (s1.wrN x.ctx loc 8 b.toNat).wrN x.ctx (loc.add 8) 8 0 else s1.wrN x.ctx loc 8 b.toNat).seal x.gid x.e.mask)))
     (∀ i ∈ [Instr.tbinit f, .tbexp f, .tbarv f],
       issueOf i s { memaff := true, point := true, reads := rbRegs f.rb } = some x → x.addr f f.offS 0 l % 2 ^ 32 % 16 ≠ 0 →
         exec i s = x.trap .align 28) ∧
     (∀ i ∈ [Instr.tbinit f, .tbexp f, .tbarv f],
       issueOf i s { memaff := true, point := true, reads := rbRegs f.rb } = some x → x.addr f f.offS 0 l % 2 ^ 32 % 16 = 0 →
         ∀ c z, x.s.tbPlace x.tid (x.addr f f.offS 0 l % 2 ^ 32) = .error (.fault c z) →
           exec i s = .next (s1.groupFault x.gid c x.pc z 0)) ∧
     (let acq := f.ord.toNat == 1
      let a := wrapNat 32 ((x.src f.a 32 l : Int) + f.offS)
      issueOf (.tbtest f) s { memaff := true, point := acq, writes := [.p f.rb.toNat] } = some x →
       (a % 16 ≠ 0 → exec (.tbtest f) s = x.trap .align 28) ∧
       (a % 16 = 0 → ∀ c z, x.s.tbPlace x.tid a = .error (.fault c z) →
         exec (.tbtest f) s = .next ((if acq then s1 else x.s).groupFault x.gid c x.pc z 0))) ∧
     ∀ loc,
     (issueOf (.tbinit f) s { memaff := true, point := true, reads := rbRegs f.rb } = some x → place (x.addr f f.offS 0 l) loc →
       outcome (.tbinit f) loc true (if d % 256 = 0 then none else some ⟨d % 256, 0, (d % 256 : Nat), 0⟩)) ∧
     (issueOf (.tbexp f) s { memaff := true, point := true, reads := rbRegs f.rb } = some x → place (x.addr f f.offS 0 l) loc →
       outcome (.tbexp f) loc false ((TBar.ofNat (s1.rdN x.ctx loc 16)).update d 0)) ∧
     (issueOf (.tbarv f) s { memaff := true, point := true, reads := rbRegs f.rb } = some x → place (x.addr f f.offS 0 l) loc →
       outcome (.tbarv f) loc false ((TBar.ofNat (s1.rdN x.ctx loc 16)).update d (-1))) ∧
     (let acq := f.ord.toNat == 1
      issueOf (.tbtest f) s { memaff := true, point := acq, writes := [.p f.rb.toNat] } = some x →
      place (wrapNat 32 ((x.src f.a 32 l : Int) + f.offS)) loc →
       let s2 := if acq then s1 else x.s
       let seen := TBar.ofNat (s2.readOwn x.gid ((List.range 16).map loc.add))
       (x.s.owned loc.key = true → exec (.tbtest f) s = x.again x.s) ∧ (x.s.owned loc.key = false → ∃ t : State, exec (.tbtest f) s = .next (x.doneS t) ∧ t.mem = x.s.mem ∧
         (t.grp x.gid).sealed = (if acq then x.g.sealed ||| x.e.mask else x.g.sealed) ∧
         ∀ k, k < 64 → ((t.grp x.gid).pGet f.rb.toNat).getLsbD k = if x.pass.getLsbD k then
           decide (seen.phase ≠ d % 16) else (x.g.pGet f.rb.toNat).getLsbD k))) ∧
  (∀ (f : FM) (s : State) (x : Issue), x.pass = 0 →
     (∀ i ∈ [Instr.tbinit f, .tbexp f, .tbarv f],
       issueOf i s { memaff := true, point := true, reads := rbRegs f.rb } = some x → exec i s = .next (x.done x.g)) ∧
     (issueOf (.tbtest f) s { memaff := true, point := f.ord.toNat == 1, writes := [.p f.rb.toNat] } = some x →
       exec (.tbtest f) s = .next (x.done x.g))) ∧
  (∀ (s : State) (tid addr : Nat),
     let off := addr % 2 ^ 24
     (s.spadTeam tid addr = none → s.tbPlace tid addr = .error (.fault 4 0)) ∧
     ∀ t, s.spadTeam tid addr = some t →
       let u := s.team t
       let window := (s.phase u.phase).record.window off
       ((window ≠ none ∨ u.extent ≤ off) → s.tbPlace tid addr = .error (.fault 4 0)) ∧
       (window = none → (s.phase u.phase).record.window (off + 15) = none → off + 15 < u.extent → off / 64 ∉ u.badLines →
         (off + 15) / 64 ∉ u.badLines → s.tbPlace tid addr = .ok ⟨(65536 + t) * 2 ^ 64 + off, 0, none⟩)) ∧
  (∀ (b : TBar) (sect pend : Int),
     (b.update sect pend = none ↔ b.pend + pend < 0 ∨ b.sect + sect < -2 ^ 31 ∨ 2 ^ 31 ≤ b.sect + sect) ∧
     ∀ c, b.update sect pend = some c → c.exp = b.exp ∧
       (b.pend + pend = 0 → b.sect + sect = 0 → c.phase = (b.phase + 1) % 16 ∧ c.pend = b.exp ∧ c.sect = 0) ∧
       (b.pend + pend ≠ 0 ∨ b.sect + sect ≠ 0 → c.phase = b.phase ∧ c.pend = b.pend + pend ∧ c.sect = b.sect + sect))

/-- R191, R204, R205, R264, R272, R281: WAITA reads the value of each passing lane, the group's own stores first, and goes on where every
test holds; else the entry waits, and looks again at each recheck, until the tests hold or its bound, where it has one, is reached.
Under .acq the buffer is committed before the last read, and the lanes seal; under .acq.remote the stores of the cores are forced beyond
them before it goes on (R308; of all cores: the model's choice, log entry 6). Lanes that leave a waiting entry are not tested any
more. Where an access faults it is the context fault; where pages are not present their lanes park, and the others test again. -/
def Obligations.Waita : Prop :=
  let outcome : Issue → FM → (Nat → Nat) → (Nat → Nat) → Nat → Out → Prop := fun x f addr d since out =>
    let far := f.ord.toNat = 1 ∧ f.scope.toNat = 5
    let y : Issue := { x with s := if far then x.s.recallCores else x.s }
    ∀ (s1 : State) (locs : Nat → List Loc) (lines : Nat → List (Nat × Nat)), y.served f.spm .load (f.bits / 8) addr s1 locs lines →
    s1.unshared ((lanesOf x.pass).flatMap locs) → x.s.struck s1 x.ctx = false →
      let held := (far ∧ ∃ c ∈ s1.commits, c.2 ≠ []) ∨ ∃ l, x.pass.getLsbD l = true ∧ ∃ q ∈ locs l, s1.owned q.key = true ∨
        s1.accessBefore (KMap.nextKey s1.ops) x.gid q = true
      let holds := ∀ l, x.pass.getLsbD l = true →
        let v := s1.readOwn x.gid (locs l)
        match f.wcond with
          | 0 => v = d l
          | 1 => v ≠ d l
          | 2 => signedOf f.bits v < signedOf f.bits (d l)
          | 3 => signedOf f.bits v ≥ signedOf f.bits (d l)
          | 4 => v < d l
          | 5 => v ≥ d l
          | _ => v % 16 ≠ d l % 16
      let t := s1.fillLines ((lanesOf x.pass).flatMap lines) false
      (¬ held → holds → out = .next (x.doneS (if f.ord.toNat = 1 then (t.makeVisible x.gid).seal x.gid x.pass else t))) ∧
      (held ∨ ¬ holds → out = .next ((t.modGrp x.gid (fun g => g.modEntry x.lane (fun e =>
        { e with wait := .waita f since ((lanesOf x.pass).map (fun l => (l, addr l, d l))), retry := e.mask }))).settle x.gid))
  let missed : Issue → FM → (Nat → Nat) → Out → Prop := fun x f addr out =>
    let y : Issue := { x with s := if f.ord.toNat = 1 ∧ f.scope.toNat = 5 then x.s.recallCores else x.s }
    ∀ s1 span, y.placed f.spm .load (f.bits / 8) addr s1 span →
      (∀ c d, x.faultsBy span c d → out = .next (s1.groupFault x.gid c x.pc d 0)) ∧
      ∀ ok away, x.Splits span ok away → away ≠ [] → out = .next ((((away.foldl (fun s e =>
        s.pageNotice (s.coreOf x.gid) x.ctx e.2.1 e.2.2.1 e.2.2.2) s1).modGrp x.gid (fun g => g.modEntry x.lane (fun e =>
          { e with retry := e.mask }))).park x.gid (away.map (fun e => (e.1, e.2.1)))).settle x.gid)
  (∀ (f : FM) (s : State) (x : Issue),
    let acq := f.ord.toNat == 1
    let addr : Nat → Nat := fun l =>
      if f.spm then wrapNat 32 ((x.src f.a 32 l : Int) + f.offS) else wrapNat 64 ((x.src f.a 64 l : Int) + f.offS)
    let x1 := x.visible acq
    issueOf (.waita f) s { memaff := true, point := acq, miss := !f.spm } = some x →
      (x.pass = 0 → exec (.waita f) s = .next (x.done x.g)) ∧
      ((∃ l, x.pass.getLsbD l = true ∧ addr l % (f.bits / 8) ≠ 0) → exec (.waita f) s = x.trap .align 28) ∧
      (x.pass ≠ 0 → (∀ l, x.pass.getLsbD l = true → addr l % (f.bits / 8) = 0) →
        outcome x1 f addr (fun l => x.src f.d f.bits l) (x1.s.clock x1.team.core) (exec (.waita f) s) ∧
          missed x1 f addr (exec (.waita f) s))) ∧
  (∀ (s : State) (gid lane since : Nat) (e : Entry) (f : FM) (m : Mask) (addr d : Nat → Nat),
    (s.grp gid).entryAt lane = some e → e.wait = .waita f since ((lanesOf m).map (fun l => (l, addr l, d l))) →
    let x : Issue := ⟨s, gid, lane, e, m, []⟩
    let held := f.ord.toNat = 1 ∧ s.pointHeld gid = true
    (held → exec (.waitaRecheck gid lane) s = .next s ∧ exec (.waitaTimeout gid lane) s = .next s) ∧
    (¬ held → outcome x f addr d since (exec (.waitaRecheck gid lane) s) ∧ missed x f addr (exec (.waitaRecheck gid lane) s)) ∧
    (f.wlim = 0 ∨ s.clock (s.coreOf gid) < since + 2 ^ (f.wlim + 6) → exec (.waitaTimeout gid lane) s = .next s) ∧
    (¬ held → f.wlim ≠ 0 → since + 2 ^ (f.wlim + 6) ≤ s.clock (s.coreOf gid) →
      exec (.waitaTimeout gid lane) s = .next (x.doneS (if f.ord.toNat = 1 then (s.makeVisible gid).seal gid x.pass else s)))) ∧
  ∀ (f : FM) (since : Nat) (tests : List (Nat × Nat × Nat)) (m : Mask),
    (Wait.waita f since tests).drop m = .waita f since (tests.filter (fun t => !m.getLsbD t.1))

/-- R206, R264, R303, R312: FENCE makes the buffer visible and waits for its ordering with the lanes unsealed; when it is complete they
seal. A release wider than the core, and FENCE .layer, is not complete before what the core committed is visible beyond it, and at
system scope not before every write of the context to a peer has been acknowledged. FENCE .layer acknowledges the lines that its group's
visible stores wrote: they are accepted, and no retirement of a bus loses them.
R207, R264: BAR and BARC wait at their word. The group arrives once every lane that has not exited waits at one barrier: its stores are
committed, for BARC visible beyond the core, and its arrival is kept; the first arrival fixes the count. At the last arrival that the
count asks for, or with CNT 0 once every group of the team or cluster that has not wholly exited has arrived, every group that
arrived goes on, and its waiting lanes seal; the barrier is as before its first arrival. -/
def Obligations.FencesAndGroupBarriers : Prop :=
  ((∀ (f : FM) (s : State) (x : Issue), issueOf (.fence f) s { memaff := true, point := true } = some x →
     (x.pass = 0 → exec (.fence f) s = .next (x.done x.g)) ∧
     (x.pass ≠ 0 → exec (.fence f) s = .next (x.doneS ((x.s.makeVisible x.gid).addOp {
       gid := x.gid, pc := x.pc, flag := none, lanes := x.pass, entry := x.e.mask, pending := true
       kind := .fence f.rb.toNat f.ord.toNat f.scope.toNat })))) ∧
   (∀ (s : State) (n fk ord sc : Nat) (o : Op), KMap.find? s.ops n = some o → o.kind = .fence fk ord sc →
     KMap.find? s.groups o.gid ≠ none →
     let s1 := s.makeVisible o.gid
     let ordered := (fk = 1 ∨ (2 ≤ ord ∧ 2 ≤ sc) → s1.fifo (s1.coreOf o.gid) = []) ∧
       (sc = 4 → ∀ w ∈ s.peerWrites, w.2.ctx ≠ (s.grp o.gid).ctx)
     (s.pointHeld o.gid = true → exec (.fenceComplete n) s = .next s) ∧
     (s.pointHeld o.gid = false → ¬ ordered → exec (.fenceComplete n) s = .next s1) ∧
     (s.pointHeld o.gid = false → ordered → ∃ t : State,
       exec (.fenceComplete n) s = .next (t.settle o.gid) ∧ KMap.find? t.ops n = none ∧ t.mem = s.mem ∧ t.commits = s1.commits ∧
       (t.grp o.gid).buffer = [] ∧ (t.grp o.gid).sealed = (s.grp o.gid).sealed ||| o.lanes ∧
       (fk ≠ 1 → t.accepted = s.accepted ∧ (t.grp o.gid).stored = (s.grp o.gid).stored) ∧
       (fk = 1 → (t.grp o.gid).stored = [] ∧ ∀ l, l ∈ t.accepted ↔ l ∈ s.accepted ∨ l ∈ (s.grp o.gid).stored)))) ∧
  ((∀ (f : VI) (s : State) (x : Issue), ∀ p ∈ [(Instr.bar f, false), (.barc f, true)],
     issueOf p.1 s { memaff := true, point := true } = some x →
       exec p.1 s = .next ((x.s.modGrp x.gid (fun g => g.modEntry x.lane (fun e =>
         { e with wait := .bar p.2 (f.imm.toNat % 16), retry := e.mask }))).settle x.gid)) ∧
   (∀ (f : VI) (s : State) (x : Issue), ∀ p ∈ [(Instr.bar f, false), (.barc f, true)],
     issueOf p.1 s { memaff := true, point := true } = some x → x.g.entries = [x.e] → x.e.mask = minus allLanes x.g.exited →
     x.g.calm = true → KMap.find? x.s.teams x.g.team ≠ none → KMap.find? x.s.phases (x.s.team x.g.team).phase ≠ none →
     x.s.pointHeld x.gid = false →
     let s1 := x.s.makeVisible x.gid
     let id := f.imm.toNat % 16
     let b := x.s.bar x.gid p.2 id
     let cnt := if b.arrived = [] then barCnt x.e.word else b.cnt
     let here := b.arrived ++ [x.gid]
     let full := if cnt = 0 then (∀ h ∈ x.s.barMembers x.gid p.2, h ∈ here) ∧ (p.2 = true → x.s.savedMember x.gid = false)
       else cnt ≤ here.length
     x.gid ∉ b.arrived → b.arrived.Nodup → (p.2 = true → s1.fifo (s1.coreOf x.gid) = []) →
       (¬ full → ∃ t : State, exec p.1 s = .next t ∧ t.bar x.gid p.2 id = ⟨cnt, here⟩ ∧ (t.grp x.gid).buffer = [] ∧
         t.commits = s1.commits ∧ (t.grp x.gid).sealed = x.g.sealed ∧
         (t.grp x.gid).entries = [{ x.e with wait := .bar p.2 id, retry := x.e.mask }]) ∧
       (full → ∃ t : State, exec p.1 s = .next t ∧ t.bar x.gid p.2 id = {} ∧ (t.grp x.gid).buffer = [] ∧
         t.commits = s1.commits ∧ (t.grp x.gid).sealed = x.g.sealed ||| x.e.mask ∧ (t.grp x.gid).entries = [x.e.advance] ∧
         (∀ h ∈ b.arrived, KMap.find? x.s.groups h ≠ none → t.grp h = (x.s.grp h).barGo p.2 id) ∧
         ∀ h, h ∉ here → t.grp h = x.s.grp h)) ∧
   (∀ (s : State) (gid : Nat) (cluster : Bool),
     (∀ h, h ∈ s.barMembers gid cluster ↔ ∃ y, (h, y) ∈ s.groups ∧ y.ended = false ∧ y.exited ≠ allLanes ∧
       if cluster then ∃ t, (y.team, t) ∈ s.teams ∧ t.phase = (s.teamOf gid).phase ∧ t.cluster = (s.teamOf gid).cluster
       else y.team = (s.grp gid).team) ∧
     (s.savedMember gid = true ↔ ∃ im ∈ (s.ctx (s.teamOf gid).ctx).images, im.phase = (s.teamOf gid).phase ∧
       im.team.cluster = (s.teamOf gid).cluster ∧ ∃ y ∈ im.groups, y.2.ended = false ∧ y.2.exited ≠ allLanes)) ∧
   (∀ (g : Group) (cluster : Bool) (id : Nat),
     (∀ l, l < 64 → (g.barGo cluster id).sealed.getLsbD l =
       (g.sealed.getLsbD l || g.entries.any (fun e => e.wait == .bar cluster id && e.mask.getLsbD l))) ∧
     ∀ e ∈ g.entries, e.wait = .bar cluster id → ∃ y ∈ (g.barGo cluster id).entries, y.pc = e.pc + 8 ∧ minus e.mask y.mask = 0))

/-! ### Tiles and regions -/

/-- R216 to R223: TCFG gives a tile its configuration, from the lowest passing lane, and an invalid one is the context fault 7; TZERO
zeroes a tile's bytes and ACZ a region, poison faults.
R219: an image that is stored row by row is the bytes of the tile, and loading it gives every element back. -/
def Obligations.TileWords : Prop :=
  (∀ (f : V3) (s : State) (x : Issue),
     let n := f.d.idx.toNat
     (issueOf (.tcfg f) s { tiles := [.t n] } = some x →
       (x.pass = 0 → exec (.tcfg f) s = .next (x.done x.g)) ∧
       ∀ l, x.pass.getLsbD l = true → (∀ k, k < l → x.pass.getLsbD k = false) →
         let c := x.src f.a 32 l
         let ok := c / 2 ^ 28 ≤ 8 ∧ c % 256 = 0 ∧
           (c / 2 ^ 20 % 2 ^ 8 + 1) * pitchOf (c / 2 ^ 28) (c / 2 ^ 8 % 2 ^ 12 + 1) ≤ 32768
         (¬ ok → exec (.tcfg f) s = .next (x.s.groupFault x.gid 7 x.pc 0 0)) ∧
         (ok → KMap.find? x.s.teams x.tid ≠ none → ∃ t : State, exec (.tcfg f) s = .next (x.doneS t) ∧
           { t with teams := [] } = { x.s with teams := [] } ∧ ((t.team x.tid).tile n).cfg = some c ∧
           ((t.team x.tid).tile n).bytes = (x.team.tile n).bytes ∧ (∀ m, m ≠ n → (t.team x.tid).tile m = x.team.tile m) ∧
           (t.team x.tid).acc = x.team.acc)) ∧
     (issueOf (.tzero f) s { tiles := [.t n] } = some x → x.pass ≠ 0 →
       ((x.team.tile n).poisoned = true → exec (.tzero f) s = .next (x.s.groupFault x.gid 10 x.pc 0 0)) ∧
       ((x.team.tile n).poisoned = false → KMap.find? x.s.teams x.tid ≠ none → ∃ t : State,
         exec (.tzero f) s = .next (x.doneS t) ∧ (∀ k, ((t.team x.tid).tile n).byte k = 0) ∧
         ((t.team x.tid).tile n).cfg = (x.team.tile n).cfg ∧ (∀ m, m ≠ n → (t.team x.tid).tile m = x.team.tile m))) ∧
     (issueOf (.acz f) s { tiles := [.acc n] } = some x → x.pass ≠ 0 →
       (x.team.regionBad n = true → exec (.acz f) s = .next (x.s.groupFault x.gid 10 x.pc 0 0)) ∧
       (x.team.regionBad n = false → KMap.find? x.s.teams x.tid ≠ none → ∃ t : State,
         exec (.acz f) s = .next (x.doneS t) ∧ (t.team x.tid).tiles = x.team.tiles ∧
         ∀ r i j, i < 128 → j < 256 → (t.team x.tid).accGet r i j = if r = n then 0 else x.team.accGet r i j))) ∧
  (∀ (t : Tile) (cfg : Nat), cfgValid cfg = true →
     (∀ n, t.imageByte false cfg n = t.byte n) ∧
     (∀ (u : Tile) (r c : Nat), r < cfgRows cfg → c < cfgCols cfg →
       (u.loadImage false cfg (t.imageByte false cfg)).elem cfg r c = t.elem cfg r c) ∧
     (∀ (u : Tile) (r c : Nat), r < cfgRows cfg → c < cfgCols cfg →
       (u.loadImage true cfg (t.imageByte true cfg)).elem cfg r c = t.elem cfg r c))

/-- R218 to R220, R264, R310: TLD and TST go into flight once for the entry, with the places of their image, those of the lowest
passing lane's address, a multiple of 4; a tile without a configuration is the context fault 7, a poisoned one 10. When TLD completes,
the tile holds the image read. When TST completes, the tile's image is committed behind the group's buffered stores, and the entry
seals. -/
def Obligations.TileTransfers : Prop :=
  (∀ (f : FM) (s : State) (x : Issue),
    let n := f.d.idx.toNat
    ∀ p ∈ [(Instr.tld f, false), (.tst f, true)],
    issueOf p.1 s { memaff := true, point := p.2, tiles := [.t n], reads := rbRegs f.rb } = some x →
    (x.pass = 0 → exec p.1 s = .next (x.done x.g)) ∧
    ∀ l, x.pass.getLsbD l = true → (∀ k, k < l → x.pass.getLsbD k = false) →
      let a := x.formed f f.offS 0 l % 2 ^ 32
      let sv := if p.2 then x.s.makeVisible x.gid else x.s
      (a % 4 ≠ 0 → exec p.1 s = x.trap .align 28) ∧
      (a % 4 = 0 → (x.team.tile n).poisoned = true → exec p.1 s = .next (sv.groupFault x.gid 10 x.pc 0 0)) ∧
      (a % 4 = 0 → (x.team.tile n).poisoned = false → (x.team.tile n).cfg = none →
        exec p.1 s = .next (sv.groupFault x.gid 7 x.pc 0 0)) ∧
      (a % 4 = 0 → (x.team.tile n).poisoned = false → ∀ cfg, (x.team.tile n).cfg = some cfg →
        let s1 := x.s.spadTouch x.tid a (imageBytes f.bit48 cfg)
        ∀ sp, s1.spadSpan x.tid (if p.2 then .store else .load) a (imageBytes f.bit48 cfg) = .ok sp →
          let kind : OpKind := if p.2 then .tst n f.bit48 sp.locs sp.lines
            else .tld n f.bit48 (sp.locs.map (fun q => ⟨q, x.g.buffered q⟩))
          (p.2 = true ∨ s1.slotsFor x.team.core kind = true →
            exec p.1 s = .next (x.doneS (((if p.2 then s1.makeVisible x.gid else s1).fillLines sp.lines false).addOp {
            gid := x.gid, pc := x.pc, flag := x.flagOf f.fsel, lanes := x.pass, entry := x.e.mask, once := true, pending := p.2
            regs := [.t n], kind := kind }))) ∧
          (p.2 = false → s1.slotsFor x.team.core kind = false → exec p.1 s = x.again s1))) ∧
  (∀ (s : State) (id n cfg : Nat) (o : Op) (col : Bool), KMap.find? s.ops id = some o →
    let tid := (s.grp o.gid).team
    let ctx := (s.grp o.gid).ctx
    let core := s.coreOf o.gid
    KMap.find? s.groups o.gid ≠ none → KMap.find? s.teams tid ≠ none → ((s.team tid).tile n).poisoned = false →
    ((s.team tid).tile n).cfg = some cfg →
    (∀ bytes : List LByte, o.kind = .tld n col bytes →
      (∀ b ∈ bytes, b.val = none → s.owned b.loc.key = false ∧ s.accessBefore id o.gid b.loc = false ∧ s.badAt b.loc = false) →
      s.unshared (bytes.map (·.loc)) → ∃ t : State,
      exec (.tileTransferComplete id) s = .next (t.settle o.gid) ∧ KMap.find? t.ops id = none ∧ t.mem = s.mem ∧
      (t.team tid).tile n = ((s.team tid).tile n).loadImage col cfg (fun k =>
        ((bytes.map (fun (b : LByte) => b.val.getD (s.see core ctx b.loc))).getD k 0).toNat) ∧
      ∀ m, m ≠ n → (t.team tid).tile m = (s.team tid).tile m) ∧
    (∀ (locs : List Loc) (lines : List (Nat × Nat)), o.kind = .tst n col locs lines → s.pointHeld o.gid = false →
      (∀ p ∈ locs, s.owned p.key = false ∧ s.badAt p = false) → ∃ t : State,
      exec (.tileTransferComplete id) s = .next (t.settle o.gid) ∧ KMap.find? t.ops id = none ∧ t.mem = s.mem ∧
      (t.team tid).tiles = (s.team tid).tiles ∧ (t.grp o.gid).sealed = (s.grp o.gid).sealed ||| o.entry ∧
      (t.grp o.gid).buffer = [] ∧
      t.fifo core = (s.makeVisible o.gid).fifo core ++ [⟨o.gid, ctx, tid, ⟨o.pc, o.lanes, (locs.zip (List.range locs.length)).map
        (fun e => ⟨0, e.1, BitVec.ofNat 8 (((s.team tid).tile n).imageByte col cfg e.2)⟩), lines⟩⟩]) ∧
    (∀ (locs : List Loc) (lines : List (Nat × Nat)), o.kind = .tst n col locs lines → s.pointHeld o.gid = false →
      (∀ p ∈ locs, s.owned p.key = false) → (∃ p ∈ locs, s.badAt p = true) →
      exec (.tileTransferComplete id) s = .next (s.groupFault o.gid 10 o.pc 0 0)))

/-- R223 to R225, R264, R310: ACLD and ACST move rows of a region, the row of each passing lane at its address, a multiple of 8, whole;
R191 checks the access, and a poisoned row is the context fault 10. When ACLD completes each row holds its 256 entries. When ACST
completes the rows are committed behind the group's buffered stores, and the lanes seal. -/
def Obligations.RegionTransfers : Prop :=
  (∀ (f : FM) (s : State) (x : Issue), ∀ p ∈ [(Instr.acld f, false), (.acst f, true)],
    let r := f.d.idx.toNat
    let y := x.touched f
    let row := fun l => (if f.bit48 then 64 else 0) + l
    issueOf p.1 s { memaff := true, point := p.2, miss := !p.2 && !f.accSpm, tiles := [.acc r], reads := rbRegs f.rb } = some x →
    (x.pass = 0 → exec p.1 s = .next (x.doneS x.s)) ∧
    (x.pass ≠ 0 → x.Checks p.1 s f f.offS 2048 8 (if p.2 then 1 else 0)) ∧
    ∀ addr, x.pass ≠ 0 → y.reaches f f.offS 2048 8 (if p.2 then 1 else 0) addr →
      ((∃ l, x.pass.getLsbD l = true ∧ x.team.rowBad r (row l) = true) →
        exec p.1 s = .next ((if p.2 then y.s.makeVisible x.gid else y.s).groupFault x.gid 10 x.pc 0 0)) ∧
      ((∀ l, x.pass.getLsbD l = true → x.team.rowBad r (row l) = false) → ∀ s1 locs lines,
        y.served f.accSpm (if p.2 then .store else .load) 2048 addr s1 locs lines →
        let kind : OpKind := if p.2 then .acst r f.bit48 ((lanesOf x.pass).map (fun l => (l, locs l, lines l)))
          else .acld r f.bit48 ((lanesOf x.pass).map (fun l => (l, (locs l).map (fun q => ⟨q, x.g.buffered q⟩))))
        (p.2 = true ∨ s1.slotsFor x.team.core kind = true →
          exec p.1 s = .next (x.doneS (((if p.2 then s1.makeVisible x.gid else s1).fillLines ((lanesOf x.pass).flatMap lines)
            false).addOp {
          gid := x.gid, pc := x.pc, flag := x.flagOf f.fsel, lanes := x.pass, entry := x.e.mask, pending := p.2, regs := [.acc r]
          kind := kind }))) ∧
        (p.2 = false → s1.slotsFor x.team.core kind = false → exec p.1 s = x.again s1))) ∧
  (∀ (s : State) (id r : Nat) (o : Op) (half : Bool), KMap.find? s.ops id = some o →
    let tid := (s.grp o.gid).team
    let ctx := (s.grp o.gid).ctx
    let core := s.coreOf o.gid
    let row := fun l => (if half then 64 else 0) + l
    KMap.find? s.groups o.gid ≠ none → KMap.find? s.teams tid ≠ none →
    (∀ lanes : List (Nat × List LByte), o.kind = .acld r half lanes → (lanes.map (·.1)).Nodup →
      (∀ e ∈ lanes, (s.team tid).rowBad r (row e.1) = false ∧ e.1 < 64 ∧ e.2.length = 2048 ∧ ∀ b ∈ e.2, b.val = none →
        s.owned b.loc.key = false ∧ s.accessBefore id o.gid b.loc = false ∧ s.badAt b.loc = false) →
      s.unshared (lanes.flatMap (fun e => e.2.map (·.loc))) → ∃ t : State,
      exec (.accTransferComplete id) s = .next (t.settle o.gid) ∧ KMap.find? t.ops id = none ∧ t.mem = s.mem ∧
      (∀ e ∈ lanes, ∀ j, j < 256 → ((t.team tid).accGet r (row e.1) j).toNat =
        leNat (((e.2.map (fun (b : LByte) => b.val.getD (s.see core ctx b.loc))).drop (8 * j)).take 8)) ∧
      ∀ q i j, i < 128 → j < 256 → (q ≠ r ∨ ∀ e ∈ lanes, i ≠ row e.1) → (t.team tid).accGet q i j = (s.team tid).accGet q i j) ∧
    (∀ lanes : List (Nat × List Loc × List (Nat × Nat)), o.kind = .acst r half lanes → s.pointHeld o.gid = false →
      (∀ e ∈ lanes, (s.team tid).rowBad r (row e.1) = false ∧ ∀ p ∈ e.2.1, s.owned p.key = false ∧ s.badAt p = false) →
      ∃ t : State,
      exec (.accTransferComplete id) s = .next (t.settle o.gid) ∧ KMap.find? t.ops id = none ∧ t.mem = s.mem ∧
      (t.team tid).acc = (s.team tid).acc ∧ (t.grp o.gid).sealed = (s.grp o.gid).sealed ||| o.lanes ∧ (t.grp o.gid).buffer = [] ∧
      t.fifo core = (s.makeVisible o.gid).fifo core ++ [⟨o.gid, ctx, tid, ⟨o.pc, o.lanes, lanes.flatMap (fun e =>
        (e.2.1.zip (List.range 2048)).map (fun b =>
          ⟨e.1, b.1, BitVec.ofNat 8 (((s.team tid).accGet r (row e.1) (b.2 / 8)).toNat / 256 ^ (b.2 % 8))⟩)),
        lanes.flatMap (fun e => e.2.2)⟩⟩]))

/-- R241 to R243, R310, R420: ACV reads its block and its vectors at issue, and waits at its word while an engine owns a line of them. A
block that fails a check of R242 is the context fault 6, and poison in the tile or in a row that it reads the fault 10, at its issue or
when it completes. A good one goes
into flight once for the entry, with the words of its enabled vectors, and its request for 4 units of current is queued. When it is
granted and completes, each element of its M by N block of the tile is the conversion of the region's entry, and the status predicate
is set in its lanes where one was clamped or poisoned; the predicate is also the value at the entry of a strand that begins while it
is in flight (R35). -/
def Obligations.Conversion : Prop :=
  (∀ (t : Team) (sc : Sched) (o : OTy) (b : Nat), acvOk t sc o b = true ↔
    (∀ i, i < 512 → (i = 2 ∨ i = 3 ∨ i = 15 ∨ i = 31 ∨ (43 ≤ i ∧ i < 64) ∨ 160 ≤ i) → b.testBit i = false) ∧
    acvReg b < sc.accr ∧ acvRow b + acvM b ≤ 128 ∧ acvCol b + acvN b ≤ 256 ∧ acvDt b < sc.tiles ∧
    (∃ c, (t.tile (acvDt b)).cfg = some c ∧ acvM b ≤ cfgRows c ∧ acvN b ≤ cfgCols c ∧ cfgType c =
      match o with
      | .f32 | .i32 => 8
      | .bf16 | .f16 => 7
      | .i8 => 3) ∧
    ∀ v ∈ acvVectors b, v.2 ≠ 0 → v.1 % 4 = 0 ∧ v.1 < 2 ^ 24 ∧ v.1 + 4 * v.2 ≤ t.extent) ∧
  (∀ (sl : Slot) (e : Word64) (rs cs bi : Option Nat), ∀ F w, (otyFmt sl.otype = some F ∨ (otyFmt sl.otype = none ∧ w = otyIntW sl.otype)) →
    (accPoisoned e = true → acvOut sl e rs cs bi = match otyFmt sl.otype with
      | some _ => (F.canonNan, true)
      | none => (2 ^ (w - 1), true)) ∧
    (accPoisoned e = false →
      let scaled := fun (y : FVal) (v : Option Nat) => v.elim y (fun v => y.mul (FFmt.f32.value v))
      let y1 := scaled (scaled (.fin (decide (accSig e < 0)) (accSig e).natAbs ((accExp e : Int) - 128)) rs) cs
      let y := bi.elim y1 (fun v => FVal.sum .rn [y1, FFmt.f32.value v])
      let y := if y.isZero then FVal.fin false 0 0 else y
      acvOut sl e rs cs bi = match otyFmt sl.otype with
      | some _ =>
        if y = .nan then (F.canonNan, false)
        else if sl.osat = true ∧ F.rnd sl.ornd y % F.signBit = F.infBits then
          ((if y.isNeg then F.signBit else 0) + F.largestBits, false)
        else (F.rnd sl.ornd y, false)
      | none =>
        match y with
        | .nan => (0, false)
        | .inf neg => (if neg then 2 ^ (w - 1) else 2 ^ (w - 1) - 1, true)
        | .fin neg m ex =>
          let v := rndIntFin sl.ornd neg m ex
          (wrapNat w (satn true w v), decide (satn true w v ≠ v)))) ∧
  (∀ (f : FE) (s : State) (x : Issue) (a b : Nat) (sl : Slot) (sp : Span),
    issueOf (.acv f) s { memaff := true, slot := some f.slot.toNat, tiles := [.acc (acvReg b), .t (acvDt b)] } = some x →
    (∃ y l, preIssue (.acv f) s = some y ∧ lowLane y.pass = some l ∧ y.src f.p 32 l = a ∧
      ∃ q, y.s.spadSpan y.tid .load a 64 = .ok q ∧ y.s.readOwn y.gid q.locs = b) →
    (∃ l, x.pass.getLsbD l = true ∧ (∀ k, k < l → x.pass.getLsbD k = false) ∧ a = x.src f.p 32 l) → a % 64 = 0 → a < 2 ^ 24 →
    a + 64 ≤ x.team.extent → x.phase.record.window a = none → x.s.spadSpan x.tid .load a 64 = .ok sp → b = x.s.readOwn x.gid sp.locs →
    Slot.decode (x.phase.slot f.slot.toNat) = some sl →
    ((∃ p ∈ sp.locs, x.s.owned p.key = true) → exec (.acv f) s = x.again x.s) ∧
    ((∀ p ∈ sp.locs, x.s.owned p.key = false) →
      (acvOk x.team x.phase.sched sl.otype b = false → exec (.acv f) s = .next (x.s.groupFault x.gid 6 x.pc 0 0)) ∧
      (acvOk x.team x.phase.sched sl.otype b = true → (x.team.tileBad (acvDt b) = true ∨ x.team.blockBad b = true) →
        exec (.acv f) s = .next (x.s.groupFault x.gid 10 x.pc 0 0)) ∧
      (acvOk x.team x.phase.sched sl.otype b = true → x.team.tileBad (acvDt b) = false → x.team.blockBad b = false →
        let x1 := x.touchVectors b
        ∀ sr sc sb, (acvVectors b).mapM x1.vector = .ok [sr, sc, sb] →
          let locs := sr.locs ++ sc.locs ++ sb.locs
          ((∃ p ∈ locs, x1.s.owned p.key = true) → exec (.acv f) s = x1.again x1.s) ∧
          ((∀ p ∈ locs, x1.s.owned p.key = false) → x1.s.unshared locs →
            let s1 := (x1.s.captureLoads x.gid).fillLines (sr.lines ++ sc.lines ++ sb.lines) false
            let id := KMap.nextKey s1.ops
            let words := fun sp => Issue.vectorWords { x with s := s1 } sp
            ∃ t : State, exec (.acv f) s = .next (x.doneS t) ∧ t.mem = s1.mem ∧
              KMap.find? t.ops id = some {
                gid := x.gid, pc := x.pc, flag := x.flagOf f.fsel, lanes := x.pass, entry := x.e.mask, once := true
                regs := [.t (acvDt b), .acc (acvReg b), .p f.x.idx.toNat]
                kind := .acv b f.slot.toNat f.x.idx.toNat (words sr) (words sc) (words sb) } ∧
              ∃ e ∈ (t.district (districtOf x.team.core)).waiting ++ (t.district (districtOf x.team.core)).granted,
                e.1 = .acv id ∧ ((∀ h ∈ (s1.district (districtOf x.team.core)).waiting ++
                  (s1.district (districtOf x.team.core)).granted, h.1 ≠ .acv id) → e.2 = 4))))) ∧
  (∀ (s : State) (id b sn pr : Nat) (o : Op) (rs cs bi : List Nat) (sl : Slot) (cfg : Nat), KMap.find? s.ops id = some o →
    o.kind = .acv b sn pr rs cs bi →
    let tid := (s.grp o.gid).team
    let team := s.team tid
    (s.granted team.core (.acv id) = false → exec (.acvComplete id) s = .next s) ∧
    (s.granted team.core (.acv id) = true → team.tileBad (acvDt b) = true ∨ team.blockBad b = true →
      exec (.acvComplete id) s = .next (s.groupFault o.gid 10 o.pc 0 0)) ∧
    (s.granted team.core (.acv id) = true → team.tileBad (acvDt b) = false → team.blockBad b = false →
      Slot.decode ((s.phase team.phase).slot sn) = some sl → (team.tile (acvDt b)).cfg = some cfg → acvOk team (s.phase team.phase).sched sl.otype b = true →
      KMap.find? s.teams tid ≠ none → KMap.find? s.groups o.gid ≠ none → ∃ t : State,
        let out := fun (i j : Nat) => acvOut sl (team.accGet (acvReg b) (acvRow b + i) (acvCol b + j))
          (if bitOf b 40 then rs[i]? else none) (if bitOf b 41 then cs[j]? else none) (if bitOf b 42 then bi[j]? else none)
        let flag := (List.range (acvM b)).any (fun i => (List.range (acvN b)).any (fun j => (out i j).2))
        exec (.acvComplete id) s = .next (t.settle o.gid) ∧ KMap.find? t.ops id = none ∧ t.mem = s.mem ∧
        t.granted team.core (.acv id) = false ∧
        (∀ i j, i < acvM b → j < acvN b → ((t.team tid).tile (acvDt b)).elem cfg i j = (out i j).1 % 2 ^ (8 * rowBytes (cfgType cfg) 1)) ∧
        (∀ l, l < 64 → ((t.grp o.gid).pGet pr).getLsbD l =
          (((s.grp o.gid).pGet pr).getLsbD l || (o.lanes.getLsbD l && flag))) ∧
        t.grp o.gid = (if flag then (s.grp o.gid).pWrite pr o.lanes o.lanes else s.grp o.gid).keepResult o ∧
        (t.team tid).acc = team.acc))

/-! ### The matrix engines and engine commands -/

/-- R57 to R59: the radix-4 digits of an element add up to it, and where the values are few enough that no sum can leave 24 bits, the
narrow accumulation of a block is the exact sum of the products, with no clamp; it tells whether any trit was bad. R52 to R61, R215, R238:
everywhere it adds digit plane by digit plane and clamps each sum to 24 bits; a block is promoted into its entry with the scales of its
row and column, where a scale of 255 poisons and one of 0 adds nothing; the smallest exponent whose rounded significand fits is taken,
else the entry saturates; and an MXA leaves in each entry of its rectangle what its operands give, which are elements of tiles or bytes
of images. The model's choices: an entry under ZERO starts from zero where it was poisoned too (log entry 86), and the rows of the
images are read from their first byte (log entry 101). -/
def Obligations.MatrixArithmetic : Prop :=
  (∀ (a : Int) (n : Nat), 0 < n → -2 ^ (2 * n - 1) ≤ a → a < 2 ^ (2 * n - 1) →
    (((booth4 a n).zip (List.range n)).map (fun e => e.1 * 4 ^ e.2)).sum = a ∧ ∀ d ∈ booth4 a n, -2 ≤ d ∧ d ≤ 2) ∧
  (∀ (planes lo n : Nat) (a : Nat → Int × Bool) (b : Nat → Int), 0 < planes →
    (∀ k, -2 ^ (2 * planes - 1) ≤ (a k).1 ∧ (a k).1 < 2 ^ (2 * planes - 1)) → (∀ k, -128 ≤ b k ∧ b k ≤ 127) →
    n * 4 ^ planes * 128 < 2 ^ 23 →
    mxaNarrow planes a b lo n = (((List.range n).map (fun i => (a (lo + i)).1 * b (lo + i))).sum, 0,
      (List.range n).any (fun i => (a (lo + i)).2))) ∧
  (∀ (planes lo n : Nat) (a : Nat → Int × Bool) (b : Nat → Int),
    let add := fun (v : Int) (st : Int × Nat) (d : Int × Nat) =>
      let y := st.1 + d.1 * v * 4 ^ d.2
      if 2 ^ 23 - 1 < y then (2 ^ 23 - 1, st.2 + 1) else if y < -(2 ^ 23 - 1) then (-(2 ^ 23 - 1), st.2 + 1) else (y, st.2)
    let old := mxaNarrow planes a b lo n
    let digits := (booth4 (a (lo + n)).1 planes).zip (List.range planes)
    let new := digits.foldl (add (b (lo + n))) (old.1, old.2.1)
    mxaNarrow planes a b lo 0 = (0, 0, false) ∧ mxaNarrow planes a b lo (n + 1) = (new.1, new.2, old.2.2 || (a (lo + n)).2)) ∧
  (∀ (acc : Word64) (p b : Int),
    let x : ℚ := (accSig acc : ℚ) * 2 ^ ((accExp acc : Int) - 128) + (p : ℚ) * 2 ^ b
    let fits := fun (e : Nat) (m : Int) =>
      |x / 2 ^ ((e : Int) - 128) - m| ≤ 1 / 2 ∧ (|x / 2 ^ ((e : Int) - 128) - m| = 1 / 2 → m % 2 = 0) ∧ -2 ^ 55 ≤ m ∧ m ≤ 2 ^ 55 - 1
    (acc.toNat % 256 = 255 → promote acc p b = (acc, false)) ∧
    (acc.toNat % 256 ≠ 255 →
      (∃ (e : Nat) (m : Int), e < 255 ∧ fits e m ∧ (∀ e' < e, ∀ m', ¬ fits e' m') ∧ promote acc p b = (accEntry m e, false)) ∨
      ((∀ e < 255, ∀ m, ¬ fits e m) ∧ promote acc p b = (accEntry (if 0 < x then 2 ^ 55 - 1 else -(2 ^ 55 - 1)) 254, true)))) ∧
  (∀ (sl : Slot) (k : Nat) (a : Nat → Int × Bool) (b : Nat → Int) (ea eb : Nat → Nat) (acc : Word64),
    mxaEntry sl 0 a b ea eb acc = (acc, 0, 0) ∧
    (0 < k → 0 < sl.interval →
      let blk := (k - 1) / sl.interval
      let m := blk * sl.interval
      let st := mxaEntry sl m a b ea eb acc
      let n := mxaNarrow (NTy.planes sl.atype) a b m (k - m)
      let r := promote st.1 n.1 ((ea blk : Int) - 127 + ((eb blk : Int) - 127))
      let status := fun (sat poison : Bool) => st.2.2 ||| ((if sat then 2 else 0) ||| (if n.2.2 then 4 else 0) ||| if poison then 8 else 0)
      ((ea blk = 255 ∨ eb blk = 255) → mxaEntry sl k a b ea eb acc =
        (BitVec.ofNat 64 (st.1.toNat / 256 * 256 + 255), st.2.1 + n.2.1, status (n.2.1 != 0) true)) ∧
      (ea blk ≠ 255 → eb blk ≠ 255 → (ea blk = 0 ∨ eb blk = 0) → mxaEntry sl k a b ea eb acc =
        (st.1, st.2.1 + n.2.1, status (n.2.1 != 0) false)) ∧
      (ea blk ≠ 255 → eb blk ≠ 255 → ea blk ≠ 0 → eb blk ≠ 0 → mxaEntry sl k a b ea eb acc =
        (r.1, st.2.1 + n.2.1 + (if r.2 then 1 else 0), status (n.2.1 != 0 || r.2) false)))) ∧
  (∀ (by_ : Nat → Nat) (c : Nat),
    let two := by_ (c / 4) / 4 ^ (c % 4) % 4
    let digit := by_ (c / 5) / 3 ^ (c % 5) % 3
    narrowElem .t2 by_ c = (if two = 1 then 1 else if two = 3 then -1 else 0, two == 2) ∧
    narrowElem .t5b by_ c = (if 243 ≤ by_ (c / 5) then 0 else if digit = 1 then 1 else if digit = 2 then -1 else 0,
      decide (243 ≤ by_ (c / 5))) ∧
    (∀ t, t = .i4 ∨ t = .q4 → narrowElem t by_ c = (signedOf 4 (by_ (c / 2) / 16 ^ (c % 2)), false)) ∧
    ∀ t, t = .i8 ∨ t = .q8 → narrowElem t by_ c = (signedOf 8 (by_ c), false)) ∧
  (∀ (t : Team) (sl : Slot) (b : Nat) (img simg : List (List Byte)) (e : Nat × Word64 × Nat × Nat),
    let tileByte := fun (n row k : Nat) => match (t.tile n).cfg with
      | some c => (t.tile n).byte (row * pitchOf (cfgType c) (cfgCols c) + k)
      | none => 0
    let listByte := fun (l : List (List Byte)) (row k : Nat) => ((l.getD row []).getD k 0).toNat
    let source := fun (l : List (List Byte)) (n row k : Nat) => if b.testBit 1 then listByte l row k else tileByte n row k
    let scaled := NTy.scaled sl.atype
    e ∈ mxaCompute t sl b img simg ↔ ∃ i j, i < mxM b ∧ j < mxN b ∧
      let r := mxaEntry sl (mxK b) (fun k => narrowElem sl.atype (source img (b / 2 ^ 8 % 16) i) (mxAk b + k))
        (fun k => (narrowElem sl.btype (tileByte (b / 2 ^ 12 % 16) (mxBk b + k)) j).1)
        (fun blk => if scaled then source simg (b / 2 ^ 16 % 16) i (mxAk b / sl.interval + blk) else 127)
        (fun blk => if scaled then tileByte (b / 2 ^ 20 % 16) (mxBk b / sl.interval + blk) j else 127)
        (if b.testBit 2 then 0 else t.accGet (mxReg b) (mxRow b + i) (mxCol b + j))
      e = (accKey (mxReg b) (mxRow b + i) (mxCol b + j), r.1, r.2.1, r.2.2)) ∧
  (∀ (s : State) (c : Cmd) (sl : Slot) (img simg : List (List Byte)) (i : Nat), s.mxaImages c sl = .ok (img, simg) →
    let b := c.block
    b.testBit 1 = true → i < mxM b →
    (∃ sp, s.cmdSpan c false .engRead (b / 2 ^ 128 % 2 ^ 64 + i * (b / 2 ^ 256 % 2 ^ 32)) (rowBytes (ntyEtype sl.atype) (mxAk b + mxK b)) =
        .ok sp ∧ img[i]? = some (s.cmdRead c sp.locs)) ∧
    (NTy.scaled sl.atype = true → ∃ sp, s.cmdSpan c false .engRead (b / 2 ^ 192 % 2 ^ 64 + i * (b / 2 ^ 288 % 2 ^ 32))
        (mxAk b / sl.interval + (mxK b + sl.interval - 1) / sl.interval) = .ok sp ∧ simg[i]? = some (s.cmdRead c sp.locs)))

/-- R233 to R240, R310, R420, R424, R425: an MXA is held at its word to the end of its core's window while the governor has no pass
left. Otherwise it takes a pass, once, whatever becomes of it, and waits while committed stores of the core are not visible. One whose
block is good is accepted and counts its M × N × K. One that names a layer is accepted only with its generation, resident or arriving, and pins it; otherwise the strand is
discarded and the layer requested. It asks for its current once its order and its layer allow, an engine is free and its operands are there, and at most two
of a core ask; it starts when that is granted, and one that cannot start holds none; replayed passes only count; and when it completes the region holds its
entries, or it fails where a tile or a row of it has been poisoned. -/
def Obligations.MatrixMultiply : Prop :=
  (∀ (t : Team) (sc : Sched) (sl : Slot) (b : Nat), mxaOk t sc sl b = true ↔
    let fits := fun n et rows cols => n < sc.tiles ∧ ∃ c, (t.tile n).cfg = some c ∧ cfgType c = et ∧ rows ≤ cfgRows c ∧ cols ≤ cfgCols c
    let nb := (mxK b + sl.interval - 1) / sl.interval
    let asrc := b.testBit 1
    (∀ i, i < 384 → (i = 0 ∨ i = 3 ∨ i = 6 ∨ i = 7 ∨ i = 31 ∨ (52 ≤ i ∧ i < 64) ∨ i = 71 ∨ (104 ≤ i ∧ i < 128) ∨ 352 ≤ i) →
      b.testBit i = false) ∧
    mxRow b + mxM b ≤ 128 ∧ mxCol b + mxN b ≤ 256 ∧ mxReg b < sc.accr ∧
    fits (b / 2 ^ 12 % 16) (ntyEtype sl.btype) (mxBk b + mxK b) (mxN b) ∧
    (asrc = false → fits (b / 2 ^ 8 % 16) (ntyEtype sl.atype) (mxM b) (mxAk b + mxK b) ∧ b / 2 ^ 128 % 2 ^ 192 = 0) ∧
    (asrc = true → b / 2 ^ 8 % 16 = 0 ∧ b / 2 ^ 16 % 16 = 0 ∧ b / 2 ^ 128 % 2 ^ 64 ≠ 0 ∧
      rowBytes (ntyEtype sl.atype) (mxAk b + mxK b) ≤ b / 2 ^ 256 % 2 ^ 32) ∧
    (NTy.scaled sl.atype = true → mxAk b % sl.interval = 0 ∧ mxBk b % sl.interval = 0 ∧
      fits (b / 2 ^ 20 % 16) 6 (mxBk b / sl.interval + nb) (mxN b) ∧
      (asrc = false → fits (b / 2 ^ 16 % 16) 6 (mxM b) (mxAk b / sl.interval + nb)) ∧
      (asrc = true → b / 2 ^ 192 % 2 ^ 64 ≠ 0 ∧ mxAk b / sl.interval + nb ≤ b / 2 ^ 288 % 2 ^ 32)) ∧
    (NTy.scaled sl.atype = false → b / 2 ^ 16 % 16 = 0 ∧ b / 2 ^ 20 % 16 = 0 ∧ b / 2 ^ 192 % 2 ^ 64 = 0 ∧ b / 2 ^ 288 % 2 ^ 32 = 0) ∧
    (mxLayer b = 0xFFFF → mxGen b = 0)) ∧
  (∀ (f : FE) (s : State) (x : Issue) (a b : Nat) (sl : Slot),
    let core := x.team.core
    let k := (s.govSync core).core core
    let left := min k.limit (s.govSync core).pwr.gov
    let goes := x.e.governed = true ∨ k.passes < left
    let sg := if x.e.governed then x.s.govSync core else (x.s.govSync core).passGovernor x.gid x.lane core
    let s1 := sg.makeVisible x.gid
    let passes := if x.e.governed then k.passes else k.passes + 1
    issueOf (.mxa f) s { memaff := true, point := true, nested := true, slot := some f.slot.toNat } = some x →
    (x.pass = 0 → exec (.mxa f) s = .next (x.done x.g)) ∧
    (∀ l, x.g.skip.contains x.pc = false → x.pass.getLsbD l = true → (∀ k, k < l → x.pass.getLsbD k = false) →
      let a := x.src f.p 32 l
      a % 64 = 0 → a < 2 ^ 24 → a + 64 ≤ x.team.extent →
      (¬ goes → exec (.mxa f) s = .next ((s.govSync core).modGrp x.gid (fun g =>
        g.hold x.lane (s.clock core) (some ((s.clock core / 1024 + 1) * 1024))))) ∧
      (goes → s1.fifo core ≠ [] → exec (.mxa f) s = x.again s1)) ∧
    (x.commands f.p a b → Slot.decode (x.phase.slot f.slot.toNat) = some sl → goes →
      (s1.blockOk x.tid b = false ∨ mxaOk x.team x.phase.sched sl b = false →
        exec (.mxa f) s = .next (s1.groupFault x.gid 6 x.pc 0 0)) ∧
      (s1.blockOk x.tid b = true → mxaOk x.team x.phase.sched sl b = true →
        (mxLayer b = 0xFFFF → ∃ (t : State) (c : Cmd), exec (.mxa f) s = .next (x.doneS t) ∧ x.Accepted t .mxa f.fsel a b c ∧
          c.slot = f.slot.toNat ∧ c.pin = none ∧ c.started = false ∧ (t.core core).passes = passes ∧
          ∀ m, pairMeter sl.atype sl.btype = some m → KMap.getD (x.s.ctx x.ctx).meters 0 m + mxM b * mxN b * mxK b < 2 ^ 64 →
            KMap.getD (t.ctx x.ctx).meters 0 m = KMap.getD (x.s.ctx x.ctx).meters 0 m + mxM b * mxN b * mxK b) ∧
        (mxLayer b ≠ 0xFFFF →
          let x1 := Issue.touchLayer { x with s := s1 } (mxLayer b)
          (x1.s.layerRef x.ctx x.phase (mxLayer b) = .ok .bad → exec (.mxa f) s = .next (x1.s.groupFault x.gid 6 x.pc 0 0)) ∧
          (∀ m l, x1.s.layerRef x.ctx x.phase (mxLayer b) = .ok (.layer m l) →
            let y := x1.s.layer x.ctx m l
            (y.gen = mxGen b → (y.st = .resident ∨ y.st = .arriving) → ∃ (t : State) (c : Cmd),
              exec (.mxa f) s = .next (x.doneS t) ∧ x.Accepted t .mxa f.fsel a b c ∧ c.pin = some (m, l) ∧
              (t.layer x.ctx m l).pins = y.pins + 1 ∧ (t.core core).passes = passes) ∧
            (y.gen ≠ mxGen b ∨ (y.st ≠ .resident ∧ y.st ≠ .arriving) →
              exec (.mxa f) s = .next (((x1.s.discardGroup x.gid true).layerRequest x.ctx m l).settle x.gid))))))) ∧
  (∀ (s : State) (id en : Nat) (c : Cmd) (sl : Slot), KMap.find? s.cmds id = some c → c.kind = .mxa →
    Slot.decode ((s.phase (s.team c.team).phase).slot c.slot) = some sl →
    let rest := fun (u : State) => if u.granted c.core (.mxa id) = true then u.release c.core (.mxa id) else u
    (c.started = false → s.mxaReady id c = false ∨ s.mxaBad c = true ∨ s.pickEngine c.core = none →
      exec (.mxaStart id) s = .next (rest s)) ∧
    (c.started = false → s.mxaReady id c = true → s.mxaBad c = false → s.pickEngine c.core = some en → ∀ img simg,
      let s1 := s.mxaTouch c sl
      s1.mxaImages c sl = .ok (img, simg) →
      ((∃ p ∈ s1.imageLocs c sl, s1.readWaits id c p = true) → exec (.mxaStart id) s = .next (rest s1)) ∧
      ((∀ p ∈ s1.imageLocs c sl, s1.readWaits id c p = false) →
        (s1.granted c.core (.mxa id) = false → 2 ≤ s1.mxaAsked id c.core → exec (.mxaStart id) s = .next s1) ∧
        (s1.granted c.core (.mxa id) = false → s1.mxaAsked id c.core < 2 →
          exec (.mxaStart id) s = .next (s1.request c.core (.mxa id) (match NTy.planes sl.atype with | 1 => 12 | 2 => 14 | _ => 16))) ∧
        (s1.granted c.core (.mxa id) = true → s1.unshared (s1.imageLocs c sl) → (∀ p ∈ s1.imageLocs c sl, s1.badAt p = false) →
          ∃ t : State, exec (.mxaStart id) s = .next t ∧ t.mem = s1.mem ∧
          ∃ c1, KMap.find? t.cmds id = some c1 ∧ c1.started = true ∧ c1.engine = en ∧
            c1.results = (mxaCompute (s1.team c.team) sl c.block img simg).map (fun e => (e.1, e.2.1)) ∧
            c1.status = (mxaCompute (s1.team c.team) sl c.block img simg).foldl (fun n e => n ||| e.2.2.2) 0))) ∧
    (c.started = true →
      (∀ pass n, replayed sl (mxK c.block) (mxK c.block) 0 pass = some n →
        exec (.matrixResidueMismatch id pass) s = .next (s.meter c.ctx 11 n)) ∧
      (s.blockWaits id c = true → exec (.mxaComplete id) s = .next s) ∧
      (s.blockWaits id c = false → s.mxaBad c = true → exec (.mxaComplete id) s = .next (s.cmdFail id c 10 0)) ∧
      (s.blockWaits id c = false → s.mxaBad c = false → KMap.find? s.teams c.team ≠ none → ∃ t : State,
        exec (.mxaComplete id) s = .next t ∧
        KMap.find? t.cmds id = none ∧ (c.baddr = noBarrier → s.endBad c = false → (c.results.map (·.1)).Nodup →
          ∀ e ∈ c.results, KMap.getD (t.team c.team).acc 0 e.1 = e.2))))

/-- R72, R226 to R228, R244 to R256, R264, R274, R310: an engine command with a parameter block traps ALIGN where its address is not a
multiple of 64, faults where the block leaves the team's scratchpad, waits while committed stores of the core are not visible, and is
the context fault 6 where the block fails a check; the checks of a block of CPY, of CPYL and of a layout record, and what a slice
has to agree with among those accepted before under its copy number, are said field by field (R244, R245, R247, R248). Else it is accepted, its lanes sealed and its stores visible, under the flag of its
word; a command that was accepted before a context fault of the strand only seals its lanes. A copy of one slice starts at once. LYRQ
is accepted and requests its layers, a query writes INSTALLED, the free flash, the greatest program/erase count of the layer's image
and the rated count into its block, and an abort turns the installs of its layer over (log entry 50: both complete at acceptance). -/
def Obligations.CommandsAccepted : Prop :=
  (∀ b : Nat,
    (cpyOk b = true ↔ b / 2 ^ 248 % 2 ^ 136 = 0 ∧ b / 2 ^ 216 % 2 ^ 16 ≠ 0 ∧ b / 2 ^ 192 % 2 ^ 24 ≠ 0 ∧ b / 2 ^ 192 % 2 ^ 24 % 32 = 0 ∧
      b / 2 ^ 160 % 2 ^ 32 % 32 = 0 ∧ b / 2 ^ 64 % 2 ^ 64 % 32 = 0 ∧ (b.testBit 246 = true → b / 2 ^ 32 % 2 ^ 32 = 0) ∧
      (b.testBit 247 = true → b / 2 ^ 96 % 2 ^ 32 = 0)) ∧
    (cpylOk b = true ↔ b / 2 ^ 128 % 2 ^ 256 = 0 ∧ b / 2 ^ 46 % 2 ^ 18 = 0 ∧ b / 2 ^ 96 % 2 ^ 32 % 32 = 0 ∧
      b / 2 ^ 64 % 2 ^ 32 % 32 = 0 ∧ b % 2 ^ 32 % 64 = 0) ∧
    (lrecOk b = true ↔ b / 2 ^ 264 % 2 ^ 248 = 0 ∧ b / 2 ^ 114 % 2 ^ 14 = 0 ∧ b / 2 ^ 112 % 4 < 3 ∧ b / 2 ^ 64 % 2 ^ 16 ≠ 0 ∧
      b / 2 ^ 80 % 2 ^ 16 ≠ 0 ∧ b / 2 ^ 96 % 2 ^ 16 ≠ 0 ∧ b / 2 ^ 224 % 2 ^ 16 ≠ 0 ∧ b / 2 ^ 240 % 2 ^ 16 ≠ 0 ∧
      b / 2 ^ 256 % 2 ^ 4 ≠ 0 ∧ b / 2 ^ 260 % 2 ^ 4 ≠ 0 ∧ b / 2 ^ 96 % 2 ^ 16 * 2 ^ (b / 2 ^ 112 % 4) % 32 = 0) ∧
    (cpSli .cpy b = b / 2 ^ 241 % 32 ∧ cpNsl .cpy b = b / 2 ^ 236 % 32 + 1 ∧ cpCid .cpy b = b / 2 ^ 232 % 16 ∧
      cpSli .cpyl b = b / 2 ^ 41 % 32 ∧ cpNsl .cpyl b = b / 2 ^ 36 % 32 + 1 ∧ cpCid .cpyl b = b / 2 ^ 32 % 16) ∧
    ∀ (s : State) (tid : Nat) (k : CmdKind), s.sliceOk tid k b = true ↔ cpSli k b < cpNsl k b ∧
      ∀ c, KMap.find? s.copies (tid * 16 + cpCid k b) = some c → c.kind = k ∧ cpNsl k c.block = cpNsl k b ∧
        (∀ e ∈ c.slices, e.1 ≠ cpSli k b) ∧
        (k ≠ .cpy → c.block % 2 ^ 32 = b % 2 ^ 32 ∧ c.block / 2 ^ 64 % 2 ^ 64 = b / 2 ^ 64 % 2 ^ 64)) ∧
  (∀ (f : FE) (s : State) (x : Issue) (a b : Nat),
    let n : Need := { memaff := true, point := true, nested := true }
    let s1 := x.s.makeVisible x.gid
    let blocks := [Instr.cpy f, .cpyl f, .hred f, .hgat f, .hfetch f, .inst f, .instqQuery f, .instqAbort f]
    (∀ i ∈ Instr.lyrq f :: blocks, issueOf i s n = some x →
      (x.pass = 0 → exec i s = .next (x.done x.g)) ∧
      (x.pass ≠ 0 → x.g.skip.contains x.pc = true → exec i s = .next (x.doneS (s1.seal x.gid x.e.mask)))) ∧
    (∀ i ∈ blocks, issueOf i s n = some x → x.g.skip.contains x.pc = false → ∀ l, x.pass.getLsbD l = true →
      (∀ k, k < l → x.pass.getLsbD k = false) →
      let p := x.src f.p 32 l
      (p % 64 ≠ 0 → exec i s = x.trap .align 38) ∧
      (p % 64 = 0 → (2 ^ 24 ≤ p ∨ x.team.extent < p + 64) → exec i s = .next (x.s.groupFault x.gid 4 x.pc 0 0)) ∧
      (p % 64 = 0 → p < 2 ^ 24 → p + 64 ≤ x.team.extent → s1.fifo x.team.core ≠ [] → exec i s = x.again s1) ∧
      (p % 64 = 0 → p < 2 ^ 24 → p + 64 ≤ x.team.extent → s1.fifo x.team.core = [] → x.phase.record.window p ≠ none →
        exec i s = .next (s1.groupFault x.gid 6 x.pc 0 0))) ∧
    (x.commands f.p a b → s1.blockOk x.tid b = false → ∀ i ∈ blocks, issueOf i s n = some x →
      exec i s = .next (s1.groupFault x.gid 6 x.pc 0 0)) ∧
    (x.commands f.p a b → s1.blockOk x.tid b = true →
      (issueOf (.hred f) s n = some x →
        let good := b / 2 ^ 48 % 2 ^ 16 = 0 ∧ bitsOf b 383 128 = 0 ∧ b / 2 ^ 64 % 2 ^ 64 % (if f.ef.toNat % 4 = 2 then 64 else 4) = 0
        (good → ∃ (t : State) (c : Cmd), exec (.hred f) s = .next (x.doneS t) ∧ x.Accepted t .hred f.fsel a b c ∧
          c.sub = f.sub.toNat ∧ c.ef = f.ef.toNat ∧ c.started = true ∧ c.done = []) ∧
        (¬ good → exec (.hred f) s = .next (s1.groupFault x.gid 6 x.pc 0 0))) ∧
      (issueOf (.hgat f) s n = some x →
        let good := b / 2 ^ 48 % 2 ^ 16 = 0 ∧ bitsOf b 383 160 = 0 ∧ b / 2 ^ 64 % 2 ^ 64 % 4 = 0 ∧ b / 2 ^ 128 % 2 ^ 32 % 4 = 0
        (good → ∃ (t : State) (c : Cmd), exec (.hgat f) s = .next (x.doneS t) ∧ x.Accepted t .hgat f.fsel a b c ∧
          c.started = true ∧ c.done = [] ∧
          ∀ line, line ∈ c.owned ↔ line = blockLine x.tid a ∨ line ∈ s1.destLines c true (b / 2 ^ 128 % 2 ^ 32) (4 * homeCount b)) ∧
        (¬ good → exec (.hgat f) s = .next (s1.groupFault x.gid 6 x.pc 0 0))) ∧
      (issueOf (.hfetch f) s n = some x →
        let good := b / 2 ^ 48 % 2 ^ 16 = 0 ∧ bitsOf b 383 128 = 0 ∧ b % 2 ^ 32 % 4 = 0 ∧ b / 2 ^ 64 % 2 ^ 64 % 64 = 0
        (good → ∃ (t : State) (c : Cmd), exec (.hfetch f) s = .next (x.doneS t) ∧ x.Accepted t .hfetch f.fsel a b c ∧
          c.ef = f.ef.toNat ∧ c.started = true ∧ c.done = [] ∧
          ∀ line, line ∈ c.owned ↔ line = blockLine x.tid a ∨ line ∈ s1.destLines c true (b % 2 ^ 32) (4 * homeCount b)) ∧
        (¬ good → exec (.hfetch f) s = .next (s1.groupFault x.gid 6 x.pc 0 0))) ∧
      (issueOf (.inst f) s n = some x →
        let good := bitsOf b 63 16 = 0 ∧ bitsOf b 383 192 = 0 ∧ insSize b ≠ 0 ∧ insSize b % 16384 = 0
        let y := Issue.touchLayer { x with s := s1 } (insLayer b)
        (¬ good → exec (.inst f) s = .next (s1.groupFault x.gid 6 x.pc 0 0)) ∧
        (good → y.s.layerRef x.ctx x.phase (insLayer b) = .ok .bad → exec (.inst f) s = .next (y.s.groupFault x.gid 6 x.pc 0 0)) ∧
        (good → ∀ m l, y.s.layerRef x.ctx x.phase (insLayer b) = .ok (.layer m l) → ∃ (t : State) (c : Cmd),
          exec (.inst f) s = .next (x.doneS t) ∧ x.Accepted t .inst f.fsel a b c ∧ c.slot = m ∧
          c.code = y.s.instCode x.ctx m l (insSize b))) ∧
      (issueOf (.cpy f) s n = some x →
        ((cpyOk b = false ∨ s1.sliceOk x.tid .cpy b = false) → exec (.cpy f) s = .next (s1.groupFault x.gid 6 x.pc 0 0)) ∧
        (cpyOk b = true → cpSli .cpy b = 0 → cpNsl .cpy b = 1 → KMap.find? s1.copies (copyKey x.tid (cpCid .cpy b)) = none →
          ∃ (t : State) (c : Cmd), exec (.cpy f) s = .next (x.doneS t) ∧ x.Accepted t .cpy f.fsel a b c ∧ c.started = true ∧
          c.done = [] ∧ KMap.getD t.units [] (homeEngine x.team.core 0) = KMap.getD s1.units [] (homeEngine x.team.core 0) ++
            c.unitsOf.map (fun u => ⟨KMap.nextKey x.s.cmds, u.1, u.2, x.team.core⟩))) ∧
      (issueOf (.cpyl f) s n = some x →
        let r := b % 2 ^ 32
        ((cpylOk b = false ∨ x.team.within r 64 = false) → exec (.cpyl f) s = .next (s1.groupFault x.gid 6 x.pc 0 0)) ∧
        (cpylOk b = true → x.team.within r 64 = true → x.phase.record.window r = none →
          ∀ sp, s1.spadSpan x.tid .load r 64 = .ok sp →
            ((∃ p ∈ sp.locs, s1.owned p.key = true) → exec (.cpyl f) s = x.again s1) ∧
            ((∀ p ∈ sp.locs, s1.owned p.key = false) →
              ((lrecOk (s1.readOwn x.gid sp.locs) = false ∨ s1.sliceOk x.tid .cpyl b = false) →
                exec (.cpyl f) s = .next (s1.groupFault x.gid 6 x.pc 0 0)) ∧
              (lrecOk (s1.readOwn x.gid sp.locs) = true → cpSli .cpyl b < cpNsl .cpyl b → 1 < cpNsl .cpyl b →
                KMap.find? s1.copies (copyKey x.tid (cpCid .cpyl b)) = none →
                ∃ (t : State) (c : Cmd), exec (.cpyl f) s = .next (x.doneS t) ∧ x.Accepted t .cpyl f.fsel a b c ∧
                  c.started = false ∧ c.lrec = s1.readOwn x.gid sp.locs ∧
                  ∃ cp, KMap.find? t.copies (copyKey x.tid (cpCid .cpyl b)) = some cp ∧
                    cp.slices = [(cpSli .cpyl b, KMap.nextKey x.s.cmds)])))) ∧
      (let y := Issue.touchLayer { x with s := s1 } (iqLayer b);
        ((bitsOf b 383 272 ≠ 0 ∨ x.phase.record.mctx = 0xFFFF) → ∀ i ∈ [Instr.instqQuery f, .instqAbort f], issueOf i s n = some x →
          exec i s = .next (s1.groupFault x.gid 6 x.pc 0 0)) ∧
        (bitsOf b 383 272 = 0 → x.phase.record.mctx ≠ 0xFFFF →
          (y.s.layerDesc x.ctx x.phase.record.mctx (iqLayer b) = .ok none → ∀ i ∈ [Instr.instqQuery f, .instqAbort f],
            issueOf i s n = some x → exec i s = .next (y.s.groupFault x.gid 6 x.pc 0 0)) ∧
          ∀ d, y.s.layerDesc x.ctx x.phase.record.mctx (iqLayer b) = .ok (some d) →
          y.s.spoiled (memKey (spTeam x.tid) (a + 56)) = false →
          (issueOf (.instqQuery f) s n = some x → ∃ t : State, exec (.instqQuery f) s = .next t ∧
            (b / 2 ^ 384 % 2 ^ 32 = noBarrier → x.g.calm = true → (y.s.ctx x.ctx).installed < 2 ^ 64 →
              let at_ := memKey (spTeam x.tid) a
              t.mem.getN at_ 8 = (y.s.ctx x.ctx).installed ∧ t.mem.getN (at_ + 8) 8 = y.s.freeFlash % 2 ^ 64 ∧
              t.mem.getN (at_ + 16) 8 = y.s.imageWear d.flash d.size % 2 ^ 64 ∧ t.mem.getN (at_ + 24) 8 = Config.peLimit ∧
              t.mem.getN (at_ + 56) 4 = 1)) ∧
          (issueOf (.instqAbort f) s n = some x → ∃ t : State, exec (.instqAbort f) s = .next t ∧
            (b / 2 ^ 384 % 2 ^ 32 = noBarrier → ∀ id c, KMap.find? y.s.cmds id = some c → c.kind = .inst → c.ctx = x.ctx →
              c.slot = x.phase.record.mctx → insLayer c.block = iqLayer b → ∃ c1, KMap.find? t.cmds id = some c1 ∧
                c1.code = some 5))))) ∧
    (issueOf (.lyrq f) s n = some x → x.g.skip.contains x.pc = false → ∀ l, x.pass.getLsbD l = true →
      (∀ k, k < l → x.pass.getLsbD k = false) →
      let v := x.src f.p 32 l
      let next := f.ef.getLsbD 0
      let y := Issue.touchLayer { x with s := s1 } v
      let y := if next then y.touchLayer (v + 1) else y
      let done := fun (s : State) =>
        x.doneS ((s.seal x.gid x.e.mask).modGrp x.gid (fun g => { g with accepted := g.accepted ++ [x.pc] }))
      (s1.fifo x.team.core ≠ [] → exec (.lyrq f) s = x.again s1) ∧
      (s1.fifo x.team.core = [] → 2 ^ 16 ≤ v → exec (.lyrq f) s = .next (s1.groupFault x.gid 6 x.pc 0 0)) ∧
      (s1.fifo x.team.core = [] → v < 2 ^ 16 → (next = true → ∃ r, y.s.layerRef x.ctx x.phase (v + 1) = .ok r) →
        (y.s.layerRef x.ctx x.phase v = .ok .bad → exec (.lyrq f) s = .next (y.s.groupFault x.gid 6 x.pc 0 0)) ∧
        ∀ m k, y.s.layerRef x.ctx x.phase v = .ok (.layer m k) →
          ((next = false ∨ y.s.layerRef x.ctx x.phase (v + 1) = .ok .bad) →
            exec (.lyrq f) s = .next ((done y.s).layerRequest x.ctx m k)) ∧
          ∀ m' k', next = true → y.s.layerRef x.ctx x.phase (v + 1) = .ok (.layer m' k') →
            exec (.lyrq f) s = .next (((done y.s).layerRequest x.ctx m k).layerRequest x.ctx m k'))))

/-- R229 to R231, R246, R250 to R252, R310, R311, R322 to R324, R331, R333: the steps of accepted commands. An engine without work takes
the oldest unit of another. A sector of a copy lands with the bytes of its source; a home slice adds a word or an exact sum in place,
in one write also at a peer, or fetches one, and a gather answers words; a step that is done is not made again, and one waits for the
lines that an earlier command owns, and before a byte that another command had written when this one was accepted. What a command writes into a line that it owns becomes visible as a whole when it gives the line
up, after the last step that writes it; the line of its block it gives up at completion. An access that faults ends its command: what
it wrote stands, and it frees its lines and its flag; and so does poison that has struck one of its lines. An install ends with the
code decided before, or programs the free blocks of the lowest counts, replaces those that fail and retires them, and where the read-back
verifies the layer's table entry and leaves name the new image and the old blocks are freed and erased; CODE is OK, REMAPPED or VERIFY_FAIL
(R254, R255, R387, R391, R418). What a protected context's commands write is encrypted (R399). The copies read and write the addresses of R245 to R249, the home commands those of R250 to R252. The
model's choices among these clauses: NO_SPACE where no site has the blocks (log entry 103), the blocks of one site (log entry 53), the
retirement of a block that reaches PELIMIT by being programmed (log entry 88), the blocks of a protected context's record (log entry 89). -/
def Obligations.EngineSteps : Prop :=
  (∀ (s : State) (en e : Nat) (u : CopyUnit) (rest : List CopyUnit), en < 768 → KMap.getD s.units [] en = [] →
    e = en / 96 * 96 + (if en % 96 % 2 = 0 then en % 96 + 1 else en % 96 - 1) → KMap.getD s.units [] e = u :: rest → u ∉ rest →
    s.unitTaken u = false → ∃ t : State, exec (.workSteal en) s = .next t ∧ KMap.getD t.units [] en = [u] ∧
      KMap.getD t.units [] e = rest ∧ (Holder.unit u.cmd u.first, 2) ∈ (t.district (districtOf u.core)).waiting) ∧
  (∀ (s : State) (id i : Nat) (c : Cmd) (p : Piece), KMap.find? s.cmds id = some c → c.started = true → i < c.steps → i ∉ c.done →
    let s1 := s.pieceTouch c i
    let s2 := s1.pieceRecall p
    s1.piece c i = .ok p → s1.pieceWaits id c p = false → c.done.length + 1 < c.steps → (∀ q ∈ p.reads, s2.badAt q = false) →
    (∀ e u row sector, (c.kind = .cpy ∨ c.kind = .cpyl) → sector < c.rowSectors → i = row * c.rowSectors + sector →
      s.unitOf id i = some (e, u) → s.granted u.core (.unit id u.first) = true → ∃ t : State,
        exec (.copySectorLand id row sector) s = .next t ∧ (c.baddr = noBarrier → t.mem = (s2.pieceDo id c i p).mem ∧
          ∃ c1, KMap.find? t.cmds id = some c1 ∧ c1.done = c.done ++ [i])) ∧
    ((c.kind = .hred ∨ c.kind = .hfetch) → ∃ t : State, exec (.homeSliceStep true id i) s = .next t ∧
      t.mem = (s2.pieceDo id c i p).mem ∧ ∃ c1, KMap.find? t.cmds id = some c1 ∧ c1.done = c.done ++ [i]) ∧
    (c.kind = .hgat → s.blockWaits id c = false → ∃ t : State, exec (.hgatResponse id i 1) s = .next t ∧
      t.mem = (s2.pieceDo id c i p).mem ∧ ∃ c1, KMap.find? t.cmds id = some c1 ∧ c1.done = c.done ++ [i])) ∧
  (∀ (s : State) (id i : Nat) (c : Cmd) (p : Piece), KMap.find? s.cmds id = some c →
    (s.pieceWaits id c p = true ↔ (∃ q ∈ p.dst.locs, ∃ e ∈ s.cmds, e.1 ≠ id ∧ e.2.seq < c.seq ∧ s.ownsLine e.2 (lineKey q.key) = true) ∨
      (∃ q ∈ p.idx.locs ++ p.src.locs, ∃ e ∈ s.cmds, e.1 ≠ id ∧ ∃ b ∈ e.2.staged, b.loc.key = q.key ∧ b.mark ≤ c.seq) ∨
      ∃ q, ((c.kind = .hred ∧ q ∈ p.dst.locs) ∨ (c.kind = .hfetch ∧ q ∈ p.src.locs)) ∧
        ((∃ e ∈ s.cmds, e.1 ≠ id ∧ s.ownsLine e.2 (lineKey q.key) = true) ∨ s.pendingPeer q ≠ none)) ∧
    (s.unshared (p.idx.locs ++ p.src.locs) → s.pieceRecall p = s.fillLines (p.idx.lines ++ p.src.lines) false) ∧
    (let t := s.pieceDo id c i p;
      (p.clr = false → c.kind ≠ .hred → t.mem = s.mem ∧ ∃ c1, KMap.find? t.cmds id = some c1 ∧ c1.done = c.done ++ [i] ∧
        c1.staged = c.staged ++ (p.dst.locs.zip (s.pieceBytes c p)).map (fun e => ⟨i, s.nextSeq, e.1, e.2, p.dst.lines.head?⟩)) ∧
      (∀ q rest, c.kind = .hred → p.clr = false → p.dst.locs = q :: rest → isPeer q.key = true → t.mem = s.mem ∧
        t.peerWrites = s.peerWrites ++ [(KMap.nextKey s.peerWrites,
          ⟨c.ctx, none, spaceOf q.key - 16, q.ia, s.pieceBytes c p⟩)]) ∧
      (c.kind = .hred → p.clr = false → (∀ q ∈ p.dst.locs, isPeer q.key = false) → s.unshared p.dst.locs →
        t.mem = (s.wrAll c.ctx (p.dst.locs.zip (s.pieceBytes c p))).mem) ∧
      (c.kind = .hred → p.clr = false → (∀ q ∈ p.dst.locs, isPeer q.key = false) → (p.dst.locs.map (·.key)).Nodup →
        bitOf (s.ctx c.ctx).flags 0 = false → s.unshared p.dst.locs →
        (∀ e ∈ p.dst.locs.zip (s.pieceBytes c p), t.mem.get e.1.key = e.2) ∧
        ∀ k, (∀ q ∈ p.dst.locs, q.key ≠ k) → t.mem.get k = s.mem.get k))) ∧
  (∀ (s : State) (c : Cmd) (p : Piece),
    let old := leNat (s.cmdRead c p.dst.locs)
    let src := leNat (s.cmdRead c p.src.locs)
    (c.kind = .hred → s.pieceBytes c p = if c.ef % 4 = 2 then leBytes 64 (exactsum old src)
      else leBytes 4 (match c.sub with
        | 0 => (old + src) % 2 ^ 32
        | 1 => if c.ef % 4 = 0 then (if signedOf 32 old ≤ signedOf 32 src then old else src) else min old src
        | 2 => if c.ef % 4 = 0 then (if signedOf 32 old ≤ signedOf 32 src then src else old) else max old src
        | 3 => old &&& src
        | _ => old ||| src)) ∧
    ((c.kind = .cpy ∨ c.kind = .cpyl) → s.pieceBytes c p =
      if p.src.locs = [] then List.replicate 32 0 else s.cmdRead c p.src.locs) ∧
    (c.kind = .hgat → s.pieceBytes c p = s.cmdRead c p.src.locs) ∧
    (c.kind = .hfetch → s.pieceBytes c p = leBytes 4 (longSumValue src))) ∧
  (∀ (s : State) (id step cause detail : Nat) (c : Cmd), KMap.find? s.cmds id = some c →
    s.cmdProbe id c step = .error (.fault cause detail) → ∃ t : State, exec (.engineAccessFault id step) s = .next t ∧
      let s1 := s.cmdFlush id c (fun _ => true)
      t = (s1.cmdGone id c).contextFault c.ctx { cause := cause, core := c.core, team := ((s1.cmdGone id c).team c.team).num
                                                 group := 0xFF, addr := c.pc, detail := detail } ∧
      KMap.find? (s1.cmdGone id c).cmds id = none ∧ ∀ e ∈ (s1.cmdGone id c).ops, e.2.kind ≠ .cmd id) ∧
  (∀ (s : State) (id line : Nat) (c : Cmd), KMap.find? s.cmds id = some c →
    let here := fun (b : Staged) => lineKey b.loc.key = line
    ((s.ownsLine c line = false ∨ line = blockLine c.team c.blockAddr ∨ s.lineOpen c line = true) →
      exec (.engineLineFinish id line) s = .next s) ∧
    (s.ownsLine c line = true → line ≠ blockLine c.team c.blockAddr → s.lineOpen c line = false →
      ((∃ b ∈ c.staged, here b ∧ s.badAt b.loc = true) → exec (.engineLineFinish id line) s = .next (s.cmdFail id c 10 0)) ∧
      ((∀ b ∈ c.staged, here b → s.badAt b.loc = false) → ∃ t : State, exec (.engineLineFinish id line) s = .next t ∧
        (∃ c1, KMap.find? t.cmds id = some c1 ∧ c1.staged = c.staged.filter (fun b => decide (lineKey b.loc.key ≠ line)) ∧
          c1.owned = c.owned.filter (fun l => l != line)) ∧
        (s.unshared (c.staged.map (·.loc)) → (∀ b ∈ c.staged, here b → isPeer b.loc.key = false) →
          t.mem = (s.wrAll c.ctx ((c.staged.filter here).map (fun b => (b.loc, b.val)))).mem) ∧
        (bitOf (s.ctx c.ctx).flags 0 = false → s.unshared (c.staged.map (·.loc)) →
          (∀ b ∈ c.staged, here b → isPeer b.loc.key = false) →
          (∀ pre b post, c.staged = pre ++ b :: post → here b → (∀ z ∈ post, z.loc.key ≠ b.loc.key) →
            t.mem.get b.loc.key = b.val) ∧
          ∀ k, lineKey k ≠ line → t.mem.get k = s.mem.get k)))) ∧
  (∀ (s : State) (id k : Nat) (c : Cmd) (v : Bool) (l : List Nat), KMap.find? s.cmds id = some c → c.kind = .inst →
    (s.blockWaits id c = true → exec (.instComplete id v l) s = .next s) ∧
    (s.blockWaits id c = false → c.code = some k → ∃ t : State, exec (.instComplete id v l) s = .next t ∧ KMap.find? t.cmds id = none ∧
      t = s.cmdComplete id c (1 + 256 * k))) ∧
  (∀ (s : State) (id site first : Nat) (c : Cmd) (v : Bool) (l : List Nat) (d : LayerDesc) (locs : List Loc),
    KMap.find? s.cmds id = some c → c.kind = .inst → s.blockWaits id c = false →
    (s.endBad c = true → exec (.instComplete id v l) s = .next (s.cmdFail id c 10 0)) ∧
    (s.endBad c = false → c.code = none →
      let n := (insSize c.block + 262143) / 262144
      let blocks := s.lowestFree site n
      let bad := l.eraseDups.filter (fun b => blocks.contains b)
      let spare := (s.lowestFree site (n + bad.length)).drop n
      let s0 := (s.touchRange c.ctx (towerOf c.core) .engRead (insSrc c.block) (insSize c.block)).touchLayer c.ctx c.slot (insLayer c.block)
      let s1 := s0.recallAll locs false
      (s.imageSite n = none → exec (.instComplete id v l) s = .next (s.cmdComplete id c (1 + 256 * 2))) ∧
      (s.imageSite n = some site → spare.length < bad.length →
        exec (.instComplete id v l) s = .next (s.cmdComplete id c (1 + 256 * 2))) ∧
      (s.imageSite n = some site → bad.length ≤ spare.length → s0.instSource c = .ok locs →
        s0.layerDesc c.ctx c.slot (insLayer c.block) = .ok (some d) → s0.freeRun site n = some first →
        (∀ q ∈ locs, s0.readWaits id c q = false ∧ s1.badAt q = false) →
        let final := replaceFailed blocks bad spare
        let s2 := bad.foldl (fun s b => s.retireBlock c.ctx b) (s1.program c.ctx (blocks ++ spare.take bad.length))
        (v = false → exec (.instComplete id v l) s =
          .next ((final.foldl (fun s b => s.freeBlock c.ctx b) s2).cmdComplete id c (1 + 256 * 3))) ∧
        (v = true →
          let k := (final.zip (List.range final.length)).foldl (fun (k : Stack) e => k.remap (first + e.2) e.1) s2.stk
          let w : State := { s2 with stk := { k with inUse := k.inUse ++ final
                                                     badPages := k.badPages.filter (fun g => !final.contains (g / 16)) } }
          ∀ u, w.takeImage c d first (s1.cmdRead c locs) = .ok u →
            exec (.instComplete id v l) s = .next (u.cmdComplete id c (1 + 256 * (if bad = [] then 0 else 1))))))) ∧
  (∀ (w w1 w2 : State) (c : Cmd) (d : LayerDesc) (first : Nat) (bytes : List Byte) (k : Ctx),
    w.iaWrite (d.at_ + 16) (leBytes 8 (first * 2 ^ 18)) = .ok w1 → w1.iaWrite (d.at_ + 24) (leBytes 5 bytes.length) = .ok w2 →
    KMap.find? w.ctxs c.ctx = some k → bytes ≠ [] →
    ∃ u k', w.takeImage c d first bytes = .ok u ∧ KMap.find? u.ctxs c.ctx = some k' ∧ k'.installed = k.installed + bytes.length ∧
      KMap.getD k'.meters 0 10 = min (KMap.getD k.meters 0 10 + bytes.length) (2 ^ 64 - 1) ∧
      let w3 := w2.putImage c.ctx d.lia first bytes
      let w4 := (w3.setLeaves d.lia (some (first * 2 ^ 18)) 0 (bytes.length / 16384)).setLeaves d.lia none (bytes.length / 16384)
        (d.size / 16384 - bytes.length / 16384)
      let kept := w4.blocksBut (fun x m l => x == c.ctx && m == c.slot && l == insLayer c.block)
      let freed := ((imageBlocks d.flash d.size).map w4.flashBlock).filter (fun b => !kept.contains b)
      u.mem = (freed.foldl (fun s b => s.freeBlock c.ctx b)
        (w4.quarantineBlocks c.ctx ((imageBlocks (first * 2 ^ 18) bytes.length).map w4.flashBlock) freed)).mem ∧
      u.stk = (freed.foldl (fun s b => s.freeBlock c.ctx b)
        (w4.quarantineBlocks c.ctx ((imageBlocks (first * 2 ^ 18) bytes.length).map w4.flashBlock) freed)).stk) ∧
  (∀ (w : State) (ctx lia first : Nat) (bytes : List Byte), bytes.length % 64 = 0 → (∀ i, w.flashBlock i < 2 ^ 40) →
    (∀ i j, i < (bytes.length + 262143) / 262144 → j < (bytes.length + 262143) / 262144 →
      w.flashBlock (first + i) = w.flashBlock (first + j) → i = j) →
    let at_ := fun (i : Nat) => memKey spFlash (w.flashBlock (first + i / 2 ^ 18) * 2 ^ 18 + i % 2 ^ 18)
    let t := w.putImage ctx lia first bytes
    (w.xtsKey ctx (at_ 0) = none → ∀ i x, bytes[i]? = some x → t.mem.get (at_ i) = x) ∧
    (∀ key, w.xtsKey ctx (at_ 0) = some key → ∀ n, 64 * n < bytes.length → ∀ j < 64, t.mem.get (at_ (64 * n + j)) =
      BitVec.ofNat 8 ((Aes.xtsLine true key ((lia + 64 * n) / 64) (((bytes.drop (64 * n)).take 64).map BitVec.toNat)).getD j 0)) ∧
    ∀ q, (∀ i < (bytes.length + 262143) / 262144, q / 2 ^ 18 ≠ memKey spFlash (w.flashBlock (first + i) * 2 ^ 18) / 2 ^ 18) →
      t.mem.get q = w.mem.get q) ∧
  (∀ (w : State) (lia f k n pa key : Nat) (flash : Option Nat), w.leafPa (lia + 16384 * k) = some pa → dramKey pa = some key →
    (w.setLeaves lia flash k (n + 1) = (w.setLeaves lia flash k 1).setLeaves lia flash (k + 1) n) ∧
    (w.setLeaves lia (some f) k 1).mem.getN key 8 = 2 ^ 63 + 2 ^ 61 + 2 ^ 60 + (f + 16384 * k) / 2 ^ 14 % 2 ^ 29 * 2 ^ 14 ∧
    (w.setLeaves lia none k 1).mem.getN key 8 = 0 ∧
    ∀ j, (j < key ∨ key + 8 ≤ j) → (w.setLeaves lia flash k 1).mem.get j = w.mem.get j) ∧
  (∀ (s : State) (ctx b : Nat) (l : List Nat),
    (s.program ctx (b :: l) = (s.program ctx [b]).program ctx l) ∧
    (let t := s.program ctx [b];
      t.wearOf b = s.wearOf b + 1 ∧ (∀ j, j ≠ b → t.wearOf j = s.wearOf j) ∧ t.stk.inUse = s.stk.inUse ∧
      ∀ j, j ∈ t.stk.flashRetired ↔ j ∈ s.stk.flashRetired ∨ (j = b ∧ 3000 ≤ s.wearOf b + 1)) ∧
    (let t := s.freeBlock ctx b;
      (∀ j, j ∈ t.stk.inUse ↔ j ∈ s.stk.inUse ∧ j ≠ b) ∧
      (b ∈ s.stk.flashRetired → t.wearOf b = s.wearOf b ∧ t.stk.flashRetired = s.stk.flashRetired) ∧
      (b ∉ s.stk.flashRetired → t.wearOf b = s.wearOf b + 1 ∧
        (b ∈ t.stk.flashRetired ↔ 3000 ≤ s.wearOf b + 1 ∨ b ∈ s.stk.failing)) ∧
      ∀ j, j ≠ b → t.wearOf j = s.wearOf j ∧ (j ∈ t.stk.flashRetired ↔ j ∈ s.stk.flashRetired)) ∧
    (let t := s.retireBlock ctx b; t.stk.wear = s.stk.wear ∧ t.stk.inUse = s.stk.inUse ∧
      (∀ j, j ∈ t.stk.flashRetired ↔ j = b ∨ j ∈ s.stk.flashRetired) ∧
      (b ∉ s.stk.flashRetired → t = ({ s with stk := { s.stk with flashRetired := b :: s.stk.flashRetired } } : State).log 8 noCore16 ctx
        (b / 2 ^ 22 * 2 ^ 40 + b % 2 ^ 22 * 2 ^ 18)))) ∧
  (∀ (s : State) (site n b j : Nat), b ∈ s.lowestFree site n →
    s.blockFree b = true ∧ b / 2 ^ 22 = site ∧ (s.lowestFree site n).length ≤ n ∧
    (s.blockFree j = true → j / 2 ^ 22 = site → j % 2 ^ 22 < 3814697 → s.wearOf j ≤ 3000 → j ∉ s.lowestFree site n →
      s.wearOf b < s.wearOf j ∨ (s.wearOf b = s.wearOf j ∧ b < j))) ∧
  (∀ (blocks bad spare : List Nat), (blocks.filter (fun b => bad.contains b)).length ≤ spare.length →
    (replaceFailed blocks bad spare).length = blocks.length ∧
    ∀ (i b : Nat), blocks[i]? = some b → (replaceFailed blocks bad spare)[i]? =
      if bad.contains b then spare[((blocks.take i).filter (fun b => bad.contains b)).length]? else some b) ∧
  (∀ (k : Stack) (l p m : Nat),
    let at_ := fun (k : Stack) (i : Nat) => KMap.getD k.blockMap i i
    KMap.sortedFrom 0 k.blockMap = true → (∀ x y, at_ k x = at_ k y → x = y) → at_ k m = p →
    at_ (k.remap l p) l = p ∧ (m ≠ l → at_ (k.remap l p) m = at_ k l) ∧
    ∀ x, x ≠ l → x ≠ m → at_ (k.remap l p) x = at_ k x) ∧
  (∀ (s : State) (c : Cmd) (i : Nat),
    let b := c.block
    let r := c.lrec
    let none_ : Span := ⟨[], []⟩
    (c.kind = .cpy →
      let n := b / 2 ^ 192 % 2 ^ 24 / 32
      let row := i / n
      let off := 32 * (i % n)
      c.steps = b / 2 ^ 216 % 2 ^ 16 * n ∧
      ∀ src dst, s.cmdSpan c (b.testBit 246) .engRead (b % 2 ^ 64 + row * (b / 2 ^ 128 % 2 ^ 32) + off) 32 = .ok src →
        s.cmdSpan c (b.testBit 247) .engWrite (b / 2 ^ 64 % 2 ^ 64 + row * (b / 2 ^ 160 % 2 ^ 32) + off) 32 = .ok dst →
        s.piece c i = .ok ⟨none_, src, dst, false⟩) ∧
    (c.kind = .cpyl →
      let n := r / 2 ^ 96 % 2 ^ 16 * 2 ^ (r / 2 ^ 112 % 4) / 32
      let nsl := b / 2 ^ 36 % 32 + 1
      let sli := b / 2 ^ 41 % 32
      let oh := r / 2 ^ 224 % 2 ^ 16
      let ow := r / 2 ^ 240 % 2 ^ 16
      let ceil := fun (m : Nat) => (m * (oh * ow) + nsl - 1) / nsl
      let p := ceil sli + i / n
      let off := 32 * (i % n)
      let y : Int := signedOf 16 (r / 2 ^ 192) + (p / ow * (r / 2 ^ 256 % 16) : Nat) + signedOf 16 (c.x / 2 ^ 16)
      let x : Int := signedOf 16 (r / 2 ^ 208) + (p % ow * (r / 2 ^ 260 % 16) : Nat) + signedOf 16 c.x
      let inside := 0 ≤ y ∧ y < (r / 2 ^ 64 % 2 ^ 16 : Nat) ∧ 0 ≤ x ∧ x < (r / 2 ^ 80 % 2 ^ 16 : Nat)
      c.steps = (ceil (sli + 1) - ceil sli) * n ∧
      ∀ dst, s.cmdSpan c true .engWrite (b / 2 ^ 64 % 2 ^ 32 + p * (b / 2 ^ 96 % 2 ^ 32) + off) 32 = .ok dst →
        (¬ inside → s.piece c i = .ok ⟨none_, none_, dst, false⟩) ∧
        (inside → ∀ src, s.cmdSpan c false .engRead
            (r % 2 ^ 64 + y.toNat * (r / 2 ^ 160 % 2 ^ 32) + x.toNat * (r / 2 ^ 128 % 2 ^ 32) + off) 32 = .ok src →
          s.piece c i = .ok ⟨none_, src, dst, false⟩)) ∧
    ((c.kind = .hred ∨ c.kind = .hgat ∨ c.kind = .hfetch) → c.steps = b / 2 ^ 32 % 2 ^ 16 + 1) ∧
    (c.kind = .hred →
      let n := if c.ef % 4 = 2 then 64 else 4
      ∀ src dst, s.cmdSpan c true .engRead (b % 2 ^ 32 + 4 * i) 4 = .ok src →
        s.cmdSpan c false .atomic (b / 2 ^ 64 % 2 ^ 64 + n * i) n = .ok dst → s.piece c i = .ok ⟨none_, src, dst, false⟩) ∧
    (c.kind = .hgat → ∀ idx src dst, s.cmdSpan c true .engRead (b % 2 ^ 32 + 4 * i) 4 = .ok idx →
      (∀ a : Nat, (a : Int) = ((b / 2 ^ 64 % 2 ^ 64 : Nat) + 4 * signedOf 32 (leNat (s.cmdRead c idx.locs))) % 2 ^ 64 →
        s.cmdSpan c false .engRead a 4 = .ok src) →
      s.cmdSpan c true .engWrite (b / 2 ^ 128 % 2 ^ 32 + 4 * i) 4 = .ok dst → s.piece c i = .ok ⟨idx, src, dst, false⟩) ∧
    (c.kind = .hfetch → ∀ src dst,
      s.cmdSpan c false .engRead (b / 2 ^ 64 % 2 ^ 64 + 64 * i) 64 = .ok src →
      (c.ef.testBit 0 = true → s.cmdSpan c false .atomic (b / 2 ^ 64 % 2 ^ 64 + 64 * i) 64 = .ok src) →
      s.cmdSpan c true .engWrite (b % 2 ^ 32 + 4 * i) 4 = .ok dst → s.piece c i = .ok ⟨none_, src, dst, c.ef.testBit 0⟩)) ∧
  (∀ (s : State) (id st : Nat) (c : Cmd), KMap.find? s.cmds id = some c →
    (s.endBad c = true → s.cmdComplete id c st = s.cmdFail id c 10 0) ∧
    (s.endBad c = false → s.cmdComplete id c st =
      (((s.cmdFlush id c (fun _ => true)).putStatus c st).cmdBarrier c 0 (-1)).cmdGone id c) ∧
    KMap.find? (s.cmdComplete id c st).cmds id = none)

/-! ### Special registers and system words -/

/-- R38 to R41, R96, R97, R185, R208, R424: SRD reads the part that SUB names of a special register, in each passing lane, and PRVR
reads it or a device register. SWR writes %reentry_limit, which keeps its value where 0 is written, and %utvec, whose bits 2 to 0
are 0, with the value of the lowest passing lane; every other register stays. PRVW writes a device register likewise, after the word
is done. That the lowest passing lane gives the value of PRVW is the model's choice (log entry 71). -/
def Obligations.SpecialRegisters : Prop :=
  ∀ (f : FS) (s : State) (x : Issue),
    let value : Nat → Nat := fun l => match f.idx.toNat with
      | 0 => l
      | 1 => x.g.num
      | 2 => x.team.num
      | 3 => x.team.cluster
      | 4 => x.team.core * 2 ^ 32 + x.team.cx * 2 ^ 13 + x.team.cy * 2 ^ 9 + x.g.quarter * 2 ^ 7 + x.g.slot * 2 ^ 2
      | 5 => (let k := x.s.core x.team.core; (k.clock + (if k.clockOn then x.s.cycle - k.clockAt else 0)) % 2 ^ 64)
      | 6 => x.e.mask.toNat
      | 7 => x.g.regs
      | 8 => x.phase.num % 2 ^ 24 * 2 ^ 8 + x.phase.schedIdx
      | 9 => x.g.reentry
      | 10 => x.g.limit
      | 11 => x.g.utvec
      | 12 => x.g.xdec0.toNat
      | 13 => x.g.xdec1.toNat
      | 14 => x.g.xdec2.toNat
      | 15 => x.g.xdec3.toNat
      | 16 => x.g.xcause.toNat
      | 17 => min (x.g.govStall + (x.g.entries.map (fun e => e.heldCycles (x.s.clock x.team.core))).sum) (2 ^ 64 - 1)
      | 18 => x.ctx
      | _ => 0
    let part : Nat → Nat := fun v => match f.sub.toNat % 4 with
      | 0 => v % 2 ^ 32
      | 1 => v / 2 ^ 32 % 2 ^ 32
      | _ => v % 2 ^ 64
    let put : Nat → Nat → Nat := fun old v => match f.sub.toNat % 4 with
      | 0 => old / 2 ^ 32 * 2 ^ 32 + v % 2 ^ 32
      | 1 => v % 2 ^ 32 * 2 ^ 32 + old % 2 ^ 32
      | _ => v % 2 ^ 64
    (issueOf (.srd f) s {} = some x → Gives (.srd f) s x none f.d (partTy f.sub) f.partBits (fun l => part (value l))) ∧
    (issueOf (.swr f) s {} = some x → (x.pass = 0 → exec (.swr f) s = .next (x.done x.g)) ∧
      ∀ l, x.pass.getLsbD l = true → (∀ k, k < l → x.pass.getLsbD k = false) →
        let v := put (value l) (x.src f.a f.partBits l)
        exec (.swr f) s = .next (x.done { x.g with
          limit := if f.idx.toNat = 10 ∧ v % 256 ≠ 0 then v % 256 else x.g.limit
          utvec := if f.idx.toNat = 11 then v - v % 8 else x.g.utvec })) ∧
    (issueOf (.prvr f) s { priv := true } = some x → Gives (.prvr f) s x none f.d (partTy f.sub) f.partBits (fun l =>
      part (if f.sub.toNat / 4 = 1 then x.s.dcrRead f.idx.toNat else value l))) ∧
    (issueOf (.prvw f) s { priv := true } = some x → (x.pass = 0 → exec (.prvw f) s = .next (x.done x.g)) ∧
      ∀ l, x.pass.getLsbD l = true → (∀ k, k < l → x.pass.getLsbD k = false) →
        let s1 := x.done x.g
        let v := put (x.s.dcrRead f.idx.toNat) (x.src f.a f.partBits l)
        (f.sub.toNat / 4 = 1 → exec (.prvw f) s = s1.dcrWrite f.idx.toNat (BitVec.ofNat 64 v)) ∧
        (f.sub.toNat / 4 = 1 → s1.ident.limited = false → f.idx.toNat = 0x104 →
          exec (.prvw f) s = .next { s1 with fc := { s1.fc with stall := v % 2 ^ 64 } }) ∧
        (f.sub.toNat / 4 ≠ 1 → exec (.prvw f) s = .next (x.done { x.g with
          limit := if f.idx.toNat = 10 ∧ put (value l) (x.src f.a f.partBits l) % 256 ≠ 0
            then put (value l) (x.src f.a f.partBits l) % 256 else x.g.limit
          utvec := if f.idx.toNat = 11 then put (value l) (x.src f.a f.partBits l) / 8 * 8 else x.g.utvec })))

/-- R209 to R212, R264, R281, R386, R394 to R396: ERET makes a STOPPED context ACTIVE, its fault forgotten. SYSC posts a request,
visible stores first, and seals; it waits while 1,024 requests stand, and each one that is taken wakes the waiting words. MTRR reads
a meter or the sticky mask, of its own or of a context that is named, at issue. SIGN takes the next SEQ and the counts at issue to
the signing unit and seals; the signed record of 320 bytes is then committed to its address, and the flag is free once it is visible at
system scope, which a peer acknowledges (R374). The model's choices: the lane that ERET and SYSC take, and that the whole entry seals (log
entry 71), that SEQ is taken before it goes up (log entry 72), and what an absent or faulting write of CAUSE does at ERET (log entry 35). -/
def Obligations.SystemWords : Prop :=
  (∀ (f : FS) (s : State) (x : Issue) (l : Nat), x.pass.getLsbD l = true → (∀ k, k < l → x.pass.getLsbD k = false) →
    (issueOf (.eret f) s { priv := true } = some x →
      let s1 := x.done x.g
      let c := x.src f.a 32 l
      ((s1.ctx c).st ≠ .stopped → exec (.eret f) s = .next s1) ∧
      let s0 := s1.modCtx c (fun c => { c with st := .active })
      let s2 := if (s1.ctx c).frecWait then s0.writeFault c else s0
      ((s1.ctx c).st = .stopped → (∀ h, (s1.grp h).deferred = none) → ∃ t : State, exec (.eret f) s = .next t ∧
        ((s1.ctx c).frec = 0 → (t.ctx c).st = .active ∧ (t.ctx c).fault = none) ∧
        (∀ u, (s1.ctx c).frec ≠ 0 → s2.iaWrite (s1.ctx c).frec (leBytes 2 0) = .ok u → KMap.find? s1.ctxs c ≠ none →
          (t.ctx c).st = .active ∧ (t.ctx c).fault = none ∧ t.mem = u.mem) ∧
        (∀ p k v, (s1.ctx c).frec ≠ 0 → s2.iaWrite (s1.ctx c).frec (leBytes 2 0) = .error (.absent p k v) → KMap.find? s1.ctxs c ≠ none →
          (t.ctx c).st = .active ∧ (t.ctx c).frecWait = true) ∧
        (∀ k d, (s1.ctx c).frec ≠ 0 → s2.iaWrite (s1.ctx c).frec (leBytes 2 0) = .error (.fault k d) → KMap.find? s1.ctxs c ≠ none →
          (t.ctx c).st = .stopped))) ∧
    (issueOf (.sysc f) s { memaff := true, point := true } = some x →
      (1024 ≤ x.s.service.length → exec (.sysc f) s = .next ((x.s.modGrp x.gid (fun g =>
        g.modEntry x.lane (fun e => { e with wait := .sysc, retry := e.mask }))).settle x.gid)) ∧
      (x.s.service.length < 1024 → ∃ t : State, exec (.sysc f) s = .next (x.doneS t) ∧
        t.service = x.s.service ++ [⟨x.ctx, x.gid, x.tid, x.g.num, f.idx.toNat, x.src f.a 64 l⟩] ∧
        t.mem = (x.s.makeVisible x.gid).mem ∧ (t.grp x.gid).sealed = x.g.sealed ||| x.e.mask)) ∧
    (let who := fun l => if f.sub.toNat = 1 then x.src f.a 32 l else x.ctx
     issueOf (.mtrr f) s { priv := f.sub.toNat == 1 } = some x →
      ((∃ k, x.pass.getLsbD k = true ∧ ((x.s.ctx (who k)).st = .free ∨ (x.s.ctx (who k)).st = .scrubbing)) →
        exec (.mtrr f) s = .next (x.s.groupFault x.gid 6 x.pc 0 0)) ∧
      ((∀ k, x.pass.getLsbD k = true → (x.s.ctx (who k)).st ≠ .free ∧ (x.s.ctx (who k)).st ≠ .scrubbing) →
        exec (.mtrr f) s = .next (x.doneS (x.s.addOp {
          gid := x.gid, pc := x.pc, flag := x.flagOf f.fsel, lanes := x.pass, entry := x.e.mask, dst := f.d, ty := .b64
          regs := opRegs f.d 64
          kind := .mtrr (x.vals (fun k =>
            if f.idx.toNat = 16 then (x.s.ctx (who k)).sticky.toNat % 2 ^ 14
            else if f.idx.toNat < 14 then KMap.getD (x.s.ctx (who k)).meters 0 f.idx.toNat else 0)) })))) ∧
    (let who := if f.sub.toNat = 1 then x.src f.d 32 l else x.ctx
     let a := x.src f.a 64 l
     issueOf (.sign f) s { memaff := true, point := true, priv := f.sub.toNat == 1 } = some x →
      (a % 64 ≠ 0 → exec (.sign f) s = x.trap .align 28) ∧
      (a % 64 = 0 → ((x.s.ctx who).st = .free ∨ (x.s.ctx who).st = .scrubbing) →
        exec (.sign f) s = .next ((x.s.makeVisible x.gid).groupFault x.gid 6 x.pc 0 0)) ∧
      (a % 64 = 0 → (x.s.ctx who).st ≠ .free → (x.s.ctx who).st ≠ .scrubbing →
        let s0 := (x.s.makeVisible x.gid).touchRange x.ctx (towerOf x.team.core) .store a 320
        ∀ locs, s0.vaBytes x.ctx .store a 320 = .ok locs → ∃ t : State, exec (.sign f) s = .next (x.doneS t) ∧
          t.aon.seq = s0.aon.seq + 1 ∧ (t.grp x.gid).sealed = x.g.sealed ||| x.e.mask ∧
          KMap.find? t.ops (KMap.nextKey s0.ops) = some {
            gid := x.gid, pc := x.pc, flag := x.flagOf f.fsel, lanes := x.pass, entry := x.e.mask, once := true
            kind := .sign locs who s0.aon.seq (s0.ctx who).meterList (s0.ctx who).stickyMask false }))) ∧
  (∀ (s : State) (r : ServiceReq) (rest : List ServiceReq), s.service = r :: rest → ∃ t : State,
    exec .serviceRequestConsumed s = .next t ∧ t.service = rest ∧ { t with groups := [], service := [] } = { s with groups := [], service := [] } ∧
    ∀ gid g, KMap.find? s.groups gid = some g → ∃ h, KMap.find? t.groups gid = some h ∧ { h with entries := [] } = { g with entries := [] } ∧
      h.entries = g.entries.map (fun e => if e.wait = .sysc then { e with wait := .none } else e)) ∧
  (∀ (s : State) (n : Nat) (o : Op) (vals : List (Nat × Nat)), KMap.find? s.ops n = some o → o.kind = .mtrr vals →
    exec (.mtrrComplete n) s = .next (({ s with ops := KMap.erase s.ops n }.modGrp o.gid (fun g =>
      (g.write o.dst o.ty 64 (vals.filter (fun e => o.lanes.getLsbD e.1))).keepResult o)).settle o.gid)) ∧
  (∀ (s : State) (n who seq sticky : Nat) (o : Op) (locs : List Loc) (meters : List Nat) (sent : Bool), KMap.find? s.ops n = some o →
    o.kind = .sign locs who seq meters sticky sent →
    let core := s.coreOf o.gid
    let g := s.grp o.gid
    let m := recordBody (s.ctx who).roster who 0 seq meters sticky
    (sent = false → (∃ p ∈ locs, s.owned p.key = true) → exec (.signComplete n) s = .next s) ∧
    (sent = false → (∀ p ∈ locs, s.owned p.key = false) →
      ((∃ p ∈ locs, s.spoiled p.key = true) →
        exec (.signComplete n) s = .next ({ s with ops := KMap.erase s.ops n }.groupFault o.gid 10 o.pc 0 0)) ∧
      ((∀ p ∈ locs, s.spoiled p.key = false) → ∃ t : State, exec (.signComplete n) s = .next t ∧ t.mem = s.mem ∧
        (∃ o1, KMap.find? t.ops n = some o1 ∧ o1.kind = .sign locs who seq meters sticky true) ∧
        t.fifo core = s.fifo core ++ [⟨o.gid, g.ctx, g.team, ⟨o.pc, o.lanes,
          (locs.zip (m ++ signature m)).map (fun e => ⟨0, e.1, e.2⟩), []⟩⟩])) ∧
    (sent = true →
      (((∃ c ∈ s.fifo core, ∃ b ∈ c.place.bytes, ∃ p ∈ locs, p.key = b.loc.key) ∨ (∃ p ∈ locs, s.pendingPeer p ≠ none)) →
        exec (.signComplete n) s = .next s) ∧
      ((∀ c ∈ s.fifo core, ∀ b ∈ c.place.bytes, ∀ p ∈ locs, p.key ≠ b.loc.key) → (∀ p ∈ locs, s.pendingPeer p = none) →
        exec (.signComplete n) s = .next ({ s with ops := KMap.erase s.ops n }.settle o.gid)))) ∧
  (∀ (roster : KMap Word64) (who seq sticky : Nat) (meters : List Nat), meters.length = 16 →
    (recordBody roster who 0 seq meters sticky ++ signature (recordBody roster who 0 seq meters sticky)).length = 320)

/-! ### Groups, teams and the Forecourt -/

/-- R172, R232, R287 to R294, R314, R330, R355, R383, R384: the first ready group of a quarter joins the active set where it fits, else
a swap candidate leaves for the end of the rotation order, and room is made for the ready group; a placed group joins where it fits and
no room is being made. An ended group leaves. Storage comes in aligned blocks of a power of two, one for each 1 bit of the request, that
meet no other; an idle team's storage moves, and no value changes. The phase of the highest PRIO, and among equals the next in
the rotation, places its saved teams, and else its next cluster; a saved image that changed is the context fault 6, and one on a page
that the Forecourt waits on stays until it is resumed. A team at strand boundaries moves to another core once every store of its old core
is visible beyond it, and a team ends, with zeros in its scratchpad, once nothing is on its way to that. The model's choice are: the
rotation by queue number (log entry 90); that no phase is passed over by one that ranks behind it, and that a cluster is placed whole or
not at all (log entry 59); what a move waits for (log entry 60); and the contents of an image (log entry 62). -/
def Obligations.GroupsAndTeams : Prop :=
  (∀ (s : State) (gid : Nat),
    (s.firstReady gid = none → exec (.groupSwap gid) s = .next s) ∧
    ∀ r, s.firstReady gid = some r →
      let fits := fun (s : State) => fitsActive (s.activeSet gid) (s.grp r).regs
      let s1 := s.modGrp gid (fun g => { g with active := false, range := [], order := s.nextOrder, yieldMark := false })
      (fits s = true → exec (.groupSwap gid) s = .next (s.activate r)) ∧
      (fits s = false → s.swapCandidate gid = false → exec (.groupSwap gid) s = .next s) ∧
      (fits s = false → s.swapCandidate gid = true → fits s1 = true → exec (.groupSwap gid) s = .next (s1.activate r)) ∧
      (fits s = false → s.swapCandidate gid = true → fits s1 = false → ∃ t : State, exec (.groupSwap gid) s = .next t ∧
        t.groups = s1.groups ∧ (s.grp gid).setKey ∈ (t.core (s1.coreOf gid)).room)) ∧
  (∀ (s : State) (gid : Nat), KMap.find? s.groups gid ≠ none →
    let s1 := s.modGrp gid (fun g => { g with active := false, range := [], order := s.nextOrder, yieldMark := false })
    ((s.joinActive gid).grp gid).active = (fitsActive (s1.activeSet gid) (s1.grp gid).regs && !s1.makesRoom gid) ∧
    ((s.activate gid).grp gid).active = true ∧ (s.grp gid).setKey ∉ ((s.activate gid).core (s.coreOf gid)).room) ∧
  (∀ (set : List (Nat × Group)) (n : Nat), fitsActive set n = true ↔ set.length < 8 ∧ (set.map (fun e => e.2.regs)).sum + n ≤ 1536) ∧
  (∀ (pool from_ : Nat) (taken reqs : List (Nat × Nat)) (l : List (Nat × Nat × Nat)), packBlocks pool from_ taken reqs = some l →
    (∀ e ∈ l, ∃ b r, b < 9 ∧ r ∈ reqs ∧ e.1 = r.1 ∧ r.2.testBit b = true ∧ e.2.2 = 2 ^ b ∧ e.2.1 % 2 ^ b = 0 ∧ from_ ≤ e.2.1 ∧
      e.2.1 + 2 ^ b ≤ pool ∧ ∀ t ∈ taken, e.2.1 + 2 ^ b ≤ t.1 ∨ t.1 + t.2 ≤ e.2.1) ∧
    l.Pairwise (fun e d => e.2.1 + e.2.2 ≤ d.2.1 ∨ d.2.1 + d.2.2 ≤ e.2.1) ∧
    ((reqs.map (·.1)).Nodup → ∀ r ∈ reqs, r.2 < 512 → ((ownBlocks l r.1).map (·.2)).sum = r.2)) ∧
  (∀ (s : State) (gid : Nat) (g : Group), KMap.find? s.groups gid = some g → g.ended = true → s.opsOf gid = [] →
    ((∃ e ∈ s.commits, ∃ c ∈ e.2, c.gid = gid) → exec (.groupResourcesFree gid) s = .next s) ∧
    ((∀ e ∈ s.commits, ∀ c ∈ e.2, c.gid ≠ gid) → ∃ t : State,
      exec (.groupResourcesFree gid) s = .next t ∧ KMap.find? t.groups gid = none ∧ t.mem = s.mem ∧ t.teams = s.teams)) ∧
  (∀ (s : State) (team place : Nat) (u : Team), KMap.find? s.teams team = some u →
    (s.teamIdle team = false → exec (.compaction team place) s = .next s) ∧
    (s.teamIdle team = true → s.giveStorage team place = none → exec (.compaction team place) s = .next s) ∧
    (∀ t, s.giveStorage team place = some t →
      (s.teamIdle team = true → exec (.compaction team place) s = .next t) ∧
      t.mem = s.mem ∧ t.groups = s.groups ∧
      (∀ i, { t.team i with place := [], tileAt := [], accAt := [] } = { s.team i with place := [], tileAt := [], accAt := [] }) ∧
      ((s.schedOf team).units < 512 → (((t.team team).place).map (·.2)).sum = (s.schedOf team).units) ∧
      (∀ n ∈ (t.team team).tileAt, n < 16) ∧ (∀ n ∈ (t.team team).accAt, n < 3) ∧
      ∀ i v, i ≠ team → KMap.find? t.teams i = some v → v.core = u.core →
        (∀ b ∈ (t.team team).place, ∀ c ∈ v.place, b.1 + b.2 ≤ c.1 ∨ c.1 + c.2 ≤ b.1) ∧
        (∀ n ∈ (t.team team).tileAt, n ∉ v.tileAt) ∧ ∀ n ∈ (t.team team).accAt, n ∉ v.accAt)) ∧
  (∀ (s : State) (p : Phase), s.toServe p = true ↔ ∀ e ∈ s.phases, s.placing e = true →
    e.2.record.prio < p.record.prio ∨ (e.2.record.prio = p.record.prio ∧
      (p.queue + 65535 - s.fc.served % 65536) % 65536 ≤ (e.2.queue + 65535 - s.fc.served % 65536) % 65536)) ∧
  (∀ (s : State) (pid tower c : Nat) (cores slots : List Nat) (p : Phase), KMap.find? s.phases pid = some p →
    ((s.placing (pid, p) = false ∨ s.toServe p = false) → exec (.teamPlacement pid tower cores slots) s = .next s) ∧
    (s.placing (pid, p) = true → s.toServe p = true → s.savedOf pid = [] → cores.length = p.sched.cluster →
      (∀ k ∈ cores, k / 48 = tower) → cores.eraseDups = cores →
      (s.allOn cores = false → exec (.teamPlacement pid tower cores slots) s = .next (s.wakeAll cores)) ∧
      (s.allOn cores = true → p.nextCluster tower = some c →
        (∀ i k, cores[i]? = some k → s.coreFits k p.ctx p.sched (slotsOf slots p.sched.groups i) = true) →
        let s1 := s.modPhase pid (fun p => { p with placed := KMap.setD p.placed 0 (c % 8) (KMap.getD p.placed 0 (c % 8) + 1)
                                                    placedTeams := p.placedTeams + p.sched.cluster })
        ∀ s2, (List.range cores.length).foldl (fun (o : Option State) i => o.bind (fun s =>
          s.placeTeam pid c i (cores.getD i 0) (slotsOf slots p.sched.groups i))) (some s1) = some s2 → ∃ t : State,
        exec (.teamPlacement pid tower cores slots) s = .next t ∧ (t.phase pid).placedTeams = p.placedTeams + p.sched.cluster ∧
        t.mem = s.mem ∧ t.fc.served = p.queue ∧
        ∀ i k, cores[i]? = some k → ∃ u, KMap.find? t.teams (KMap.nextKey s.teams + i) = some u ∧
          u.phase = pid ∧ u.num = c * p.sched.cluster + i ∧ u.cluster = c ∧ u.cx = i % p.sched.clw ∧ u.cy = i / p.sched.clw ∧
          u.core = k ∧ u.ctx = p.ctx ∧ u.tiles = [] ∧ u.acc = [] ∧ ∀ n, n < p.sched.groups → ∃ gid g, KMap.find? t.groups gid = some g ∧
            g.team = KMap.nextKey s.teams + i ∧ g.num = n ∧ g.ctx = p.ctx ∧ g.quarter = n % 4 ∧ g.v = [] ∧ g.s = [] ∧ g.p = [] ∧
            g.entries = [{ pc := p.record.codeBase + p.sched.entry, prio := 0, mask := allLanes }]))) ∧
  (∀ (s : State) (pid tower core : Nat) (slots : List Nat) (p : Phase) (im : Image) (more : List Image),
    KMap.find? s.phases pid = some p → s.savedOf pid = im :: more → s.placing (pid, p) = true → s.toServe p = true →
    s.allOn [core] = true → s.coreFits core p.ctx p.sched slots = true →
    let s1 := s.iaTouch im.addr im.bytes.length
    let go := exec (.teamPlacement pid tower [core] slots) s
    let tid := KMap.nextKey s1.teams
    (s1.iaHeld im.addr im.bytes.length = true → go = .next s1) ∧
    (s1.iaHeld im.addr im.bytes.length = false →
    (s1.imageChanged p.ctx im = .ok true → go = .next (s1.contextFault p.ctx { cause := 6, core := core, team := im.team.num })) ∧
    (∀ k d, s1.imageChanged p.ctx im = .error (.fault k d) →
      go = .next (s1.contextFault p.ctx { cause := k, core := core, team := im.team.num, addr := im.addr, detail := d })) ∧
    (∀ a k v, s1.imageChanged p.ctx im = .error (.absent a k v) → go = .next ((s1.pageNotice noCore p.ctx a k v).fcHold a)) ∧
    (∀ s2, s1.imageChanged p.ctx im = .ok false → s1.seatTeam p.ctx core tid im = some s2 → ∃ t : State, go = .next t ∧
      t.fc.served = p.queue ∧ (t.team tid).core = core ∧ (t.team tid).num = im.team.num ∧ (t.team tid).tiles = im.team.tiles ∧
      (t.team tid).acc = im.team.acc ∧
      ((im.scratch.map (·.1)).Nodup → ∀ e ∈ im.scratch, t.mem.get (memKey (spTeam tid) e.1) = e.2) ∧
      ∀ i e, im.groups[i]? = some e → ∃ g, KMap.find? t.groups (KMap.nextKey s.groups + i) = some g ∧ g.team = tid ∧ g.num = e.2.num ∧
        g.entries = e.2.entries ∧ g.v = e.2.v ∧ g.s = e.2.s ∧ g.p = e.2.p))) ∧
  (∀ (s : State) (team core : Nat) (slots : List Nat) (u : Team), KMap.find? s.teams team = some u → core ≠ u.core →
    (∀ e ∈ s.groupsOf team, e.2.atBoundary = true ∧ s.opsOf e.1 = []) → s.cmdsOf team = [] → s.allOn [core] = true →
    s.coreFits core u.ctx (s.schedOf team) slots = true →
    let s0 := s.recallCore u.core
    let away := s0.fifo u.core = [] ∧ (∀ e ∈ s0.commits, ∀ c ∈ e.2, c.team ≠ team ∧ (∀ l ∈ c.place.stash, l.1 ≠ team) ∧
      ∀ b ∈ c.place.bytes, spaceOf b.loc.key ≠ spTeam team)
    (¬ away → exec (.teamMigration team core slots) s = .next s0) ∧
    (away → ((s0.emptyStash team (fun _ => true)).modTeam team (fun t => { t with
        core := core, place := [], tileAt := [], accAt := [] })).giveStorage team 0 ≠ none →
      ∃ t : State, exec (.teamMigration team core slots) s = .next t ∧
        (t.team team).core = core ∧ (t.team team).stash = [] ∧ (t.team team).tiles = (s0.team team).tiles ∧
        (t.team team).acc = (s0.team team).acc ∧ ((∀ l ∈ (s0.team team).stash, l.2 ≠ .dirty) → t.mem = s0.mem))) ∧
  (∀ (s : State) (team : Nat) (u : Team), KMap.find? s.teams team = some u → s.groupsOf team = [] → s.cmdsOf team = [] →
    let away := ∀ e ∈ s.commits, ∀ c ∈ e.2, c.team ≠ team ∧ (∀ l ∈ c.place.stash, l.1 ≠ team) ∧
      ∀ b ∈ c.place.bytes, spaceOf b.loc.key ≠ spTeam team
    (((∃ l ∈ u.stash, l.2 = .dirty) ∨ ¬ away) → exec (.teamEnd team) s = .next s) ∧
    ((∀ l ∈ u.stash, l.2 ≠ .dirty) → away →
      ∃ t : State, exec (.teamEnd team) s = .next t ∧ KMap.find? t.teams team = none ∧
        (KMap.find? s.phases u.phase ≠ none → (t.phase u.phase).endedTeams = (s.phase u.phase).endedTeams + 1) ∧
        ((s.ctx u.ctx).halting = true → (s.ctx u.ctx).st = .active → (∀ e ∈ s.teams, e.1 ≠ team → e.2.ctx ≠ u.ctx) →
          (t.ctx u.ctx).st = .halted ∧ t.cc.running = false ∧ t.cc.result = 0) ∧
        (∀ a, a < 2 ^ 64 → t.mem.get (memKey (spTeam team) a) = 0) ∧
        ∀ k, spaceOf k ≠ spTeam team → t.mem.get k = s.mem.get k))

/-- R43, R117, R347 to R358, R368, R380, R381, R397, R445: a bell reads the TAIL of its queue, of a refused one QSTATUS first, and waits for
a page that is not there; the Forecourt reads nothing on a page that it waits on until that is resumed. A quantum ends after 65,536 cycles:
every TAIL is read, waiting queues take free slots, and the slots held longest go to queues that still wait. The head record of a queue that
holds a slot is read once and held; it is refused with the code of the first check that fails; dependence words once satisfied stay so, and
the size word is read once; the phase then starts with the first schedule whose BOUND holds its size, HEAD gains 1 and CUR takes NEXT, and
one without teams completes at once. A fault of what the Forecourt reads is one of the context, but for the record and its run. A phase whose
teams have ended completes unless its context retires, and its completion word gains 1. A core's stall is noticed after FC_STALL cycles. The
context that a core switches to takes it from one that has run for 65,536 cycles, whose groups keep their V registers; a team that is saved
keeps those that are live at its entries. The model's choices are: code 4 for a run that cannot be read, and code 3 before it (log entry 56);
the permission of the completion word (log entry 57); that a phase waits for every write of its context to a peer (log entry 44); when the
stall count begins (log entry 61); that LIVEIN is looked at lane by lane (log entry 92); and what follows a fault of a context that none can
stop (log entry 93). -/
def Obligations.ForecourtSteps : Prop :=
  (∀ (s : State) (q x : Nat) (d : QDesc) (s2 : State), q < 65536 → s.noQueue q = false →
    (q ∉ s.fc.refused → exec (.fcBell q) s = andThen (s.readTail q) (fun s => .next s.serveQueues)) ∧
    (q ∈ s.fc.refused → ((s.bell q).iaTouch (s.fc.qtBase + 32 * q) 32).queueDesc q = .ok (some d) →
      ((s.bell q).iaTouch (s.fc.qtBase + 32 * q) 32).iaHeld (s.fc.qtBase + 32 * q) 32 = false →
      ((s.bell q).iaTouch (s.fc.qtBase + 32 * q) 32).fcServed d.ctx d.headAddr 24 s2 x →
      exec (.fcBell q) s = andThen ((if (headOf x).status = 0 then { s2 with fc := { s2.fc with
        refused := s2.fc.refused.filter (fun y => y != q) } } else s2.unbell q).readTail q) (fun s => .next s.serveQueues))) ∧
  (∀ (s : State) (q tail : Nat) (d : QDesc) (s2 : State), s.noQueue q = false →
    let s1 := (if q ∈ s.fc.refused then s else s.bell q).iaTouch (s.fc.qtBase + 32 * q) 32
    s1.queueDesc q = .ok (some d) →
    (s1.iaHeld (s.fc.qtBase + 32 * q) 32 = true → s.readTail q = .next s1) ∧
    (s1.iaHeld (s.fc.qtBase + 32 * q) 32 = false →
    (s1.fcServed d.ctx d.tailAddr 8 s2 tail → ∃ t : State, s.readTail q = .next t ∧ KMap.getD t.fc.tails 0 q = tail ∧
      q ∉ t.fc.bells ∧ t.fc.slots = s2.fc.slots ∧ t.fc.refused = s2.fc.refused ∧ { t with fc := {} } = { s2 with fc := {} } ∧
      (t.hasWork q = true → (∃ e ∈ t.fc.slots, e.1 = q) ∨ q ∈ t.fc.fifo)) ∧
    let s3 := s1.touchRange d.ctx 0 .load d.tailAddr 8
    (∀ p k v, s3.vaBytes d.ctx .load d.tailAddr 8 = .error (.absent p k v) → s.readTail q =
      .next ((s3.pageNotice noCore d.ctx p k v).fcHold p) ∧ p ∈ ((s3.pageNotice noCore d.ctx p k v).fcHold p).fc.waits ∧
      (q ∉ s.fc.refused → q ∈ ((s3.pageNotice noCore d.ctx p k v).fcHold p).fc.bells)) ∧
    (∀ k v, s3.vaBytes d.ctx .load d.tailAddr 8 = .error (.fault k v) → (s3.ctx d.ctx).st = .active → s.readTail q =
      .next ((s3.contextFault d.ctx { cause := k, addr := d.tailAddr, detail := v }).unbell q)))) ∧
  (∀ (s : State) (ctx va n : Nat) (bad : State → Nat → Nat → Out) (k : State → Nat → Out),
    let s1 := s.touchRange ctx 0 .load va n
    (∀ l, s1.vaBytes ctx .load va n = .ok l → (s1.vaHeld ctx .load va n = true ∨ ∃ p ∈ l, s1.owned p.key = true) →
      s.fcRead ctx va n bad k = .next s1) ∧
    (∀ t x, s.fcServed ctx va n t x → s.fcRead ctx va n bad k = k t x)) ∧
  (∀ (s : State), s.now .forecourt < s.fc.quantum + 65536 → exec .quantumBoundary s = .next s) ∧
  (∀ (s : State), s.fc.quantum + 65536 ≤ s.now .forecourt → s.fc.qtCount = 0 → ∃ t : State, exec .quantumBoundary s = .next t ∧
    t.fc.quantum = s.fc.quantum + 65536 ∧ { t with fc := {} } = { s with fc := {} }) ∧
  (let rotates := fun (u t : State) =>
      let n := min u.fc.fifo.length (min 64 u.fc.slots.length)
      t.fc.slots.map (·.1) = (u.fc.slots.drop n).map (·.1) ++ u.fc.fifo.take n ∧
      t.fc.fifo = u.fc.fifo.drop n ++ ((u.fc.slots.take n).map (·.1)).filter u.hasWork ∧
      { t with fc := {} } = { u with fc := {} } ∧ t.fc.tails = u.fc.tails ∧ t.fc.quantum = u.fc.quantum
   (∀ (s : State) (reads : Nat → State), s.fc.quantum + 65536 ≤ s.now .forecourt →
      reads 0 = { s with fc := { s.fc with quantum := s.fc.quantum + 65536 } } →
      (∀ q, q < s.fc.qtCount → (reads q).readTail q = .next (reads (q + 1))) →
      ∃ t : State, exec .quantumBoundary s = .next t ∧ rotates (reads s.fc.qtCount).serveQueues t) ∧
   (∀ (s : State) (d : Nat → QDesc) (x : Nat → Nat), s.fc.quantum + 65536 ≤ s.now .forecourt → 6 ≤ s.ident.devState →
      (∀ q, q < s.fc.qtCount → s.iaTouch (s.fc.qtBase + 32 * q) 32 = s ∧ s.queueDesc q = .ok (some (d q)) ∧
        s.iaHeld (s.fc.qtBase + 32 * q) 32 = false ∧ s.fcServed (d q).ctx (d q).tailAddr 8 s (x q)) →
      ∃ t u : State, exec .quantumBoundary s = .next t ∧ rotates u t ∧ { u with fc := {} } = { s with fc := {} } ∧
        u.fc.quantum = s.fc.quantum + 65536 ∧ (∀ q, q < s.fc.qtCount → KMap.getD u.fc.tails 0 q = x q ∧
          (u.hasWork q = true → (∃ e ∈ u.fc.slots, e.1 = q) ∨ q ∈ u.fc.fifo)))) ∧
  (∀ (s : State), let u := s.serveQueues
    { u with fc := { u.fc with slots := s.fc.slots, fifo := s.fc.fifo, order := s.fc.order } } = s ∧
    (∀ e ∈ u.fc.slots, u.hasWork e.1 = true) ∧ (∀ q ∈ u.fc.fifo, u.hasWork q = true) ∧
    (u.fc.fifo ≠ [] → 64 ≤ u.fc.slots.length) ∧
    u.fc.slots.map (·.1) ++ u.fc.fifo = (s.fc.slots.map (·.1) ++ s.fc.fifo).filter u.hasWork) ∧
  (∀ (s : State) (q : Nat) (h : QHead), s.shows q h = true ↔ h.status = 0 ∧ (KMap.getD s.fc.tails 0 q ≠ h.head ∨ h.cur ≠ 0)) ∧
  (∀ (s0 : State) (q x : Nat) (d : QDesc) (s2 : State), s0.noQueue q = false →
    let s1 := s0.iaTouch (s0.fc.qtBase + 32 * q) 32
    let h := headOf x
    let slot := d.ring + 8 * (h.head % 2 ^ d.log2n)
    s1.queueDesc q = .ok (some d) → (∃ e ∈ s1.fc.slots, e.1 = q) → q ∉ s1.fc.refused →
    (s1.iaHeld (s0.fc.qtBase + 32 * q) 32 = true → exec (.phaseStart q) s0 = .next s1) ∧
    (s1.iaHeld (s0.fc.qtBase + 32 * q) 32 = false → (((s1.ctx d.ctx).st = .stopped ∨ (s1.ctx d.ctx).st = .halted) → exec (.phaseStart q) s0 = .next s1) ∧
    ((s1.ctx d.ctx).st ≠ .stopped → (s1.ctx d.ctx).st ≠ .halted → s1.fcServed d.ctx d.headAddr 24 s2 x →
      (s2.shows q h = false → exec (.phaseStart q) s0 = .next s2) ∧
      (s2.shows q h = true → ∀ k, KMap.find? s2.fc.held q = some k → exec (.phaseStart q) s0 = s2.goOn q d h k) ∧
      (s2.shows q h = true → KMap.find? s2.fc.held q = none →
        ((s1.ctx d.ctx).st = .active → s2.mayStart q h = false → exec (.phaseStart q) s0 = .next s2) ∧
        (s2.mayStart q h = true →
          (∀ addr s3 s4 raw, ((h.cur ≠ 0 ∧ addr = h.cur ∧ s3 = s2) ∨ (h.cur = 0 ∧ s2.fcServed d.ctx slot 8 s3 addr)) →
            (s3.fcServed d.ctx addr 320 s4 raw → exec (.phaseStart q) s0 = s4.goOn q d h { addr := addr, raw := raw }) ∧
            (∀ k v, (s3.touchRange d.ctx 0 .load addr 320).vaBytes d.ctx .load addr 320 = .error (.fault k v) →
              exec (.phaseStart q) s0 = .next ((s3.touchRange d.ctx 0 .load addr 320).refuse q d 1))) ∧
          (∀ k v, h.cur = 0 → (s2.touchRange d.ctx 0 .load slot 8).vaBytes d.ctx .load slot 8 = .error (.fault k v) →
            exec (.phaseStart q) s0 = .next ((s2.touchRange d.ctx 0 .load slot 8).fcFault q d.ctx slot k v))))))) ∧
  (∀ (s0 : State) (q : Nat) (d : QDesc) (hd : QHead) (h : Held),
    let r := h.record
    let s := s0.hold q h
    let st := (s.ctx d.ctx).st
    let named := r.ctx = d.ctx ∧ (st = .active ∨ st = .stopped ∨ st = .halted)
    (recordOk h.addr h.raw = false → s0.goOn q d hd h = .next (s.refuse q d 1)) ∧
    (recordOk h.addr h.raw = true → ¬ named → s0.goOn q d hd h = .next (s.refuse q d 2)) ∧
    (recordOk h.addr h.raw = true → named → h.scheds = none → s.codeOk r = false → s0.goOn q d hd h = .next (s.refuse q d 3)) ∧
    (recordOk h.addr h.raw = true → named → h.scheds = none → s.codeOk r = true →
      let n := min r.schedN 8
      let u := s.touchRange r.ctx 0 .load r.schedAddr (32 * n)
      (∀ k v, u.vaBytes r.ctx .load r.schedAddr (32 * n) = .error (.fault k v) → s0.goOn q d hd h = .next (u.refuse q d 4)) ∧
      ∀ s1 x, s.fcServed r.ctx r.schedAddr (32 * n) s1 x →
        let scs := schedsOf n x
        let run := 1 ≤ r.schedN ∧ r.schedN ≤ 8 ∧ ascending scs = true
        let s2 := if r.mctx = 0xFFFF ∨ r.layer = 0xFFFF then s1 else s1.touchLayer r.ctx r.mctx r.layer
        ((∃ sc ∈ scs, r.codeExt ≤ sc.entry) → s0.goOn q d hd h = .next (s1.refuse q d 3)) ∧
        ((∀ sc ∈ scs, sc.entry < r.codeExt) → ¬ run → s0.goOn q d hd h = .next (s1.refuse q d 4)) ∧
        ((∀ sc ∈ scs, sc.entry < r.codeExt) → run → s2.layerHeld r.ctx r.mctx = true → s0.goOn q d hd h = .next s2) ∧
        (s2.layerHeld r.ctx r.mctx = false →
        ((∀ sc ∈ scs, sc.entry < r.codeExt) → run → s2.modelOk r = .ok false → s0.goOn q d hd h = .next (s2.refuse q d 5)) ∧
        (∀ k v, (∀ sc ∈ scs, sc.entry < r.codeExt) → run → s2.modelOk r = .error (.fault k v) →
          s0.goOn q d hd h = .next (s2.fcFault q r.ctx 0 k v)) ∧
        ((∀ sc ∈ scs, sc.entry < r.codeExt) → run → s2.modelOk r = .ok true → ∀ s3 done, done.length < 4 →
          (s2.hold q { h with scheds := some scs }).dependences r.ctx h.done (r.events.zip (List.range 4)) = (s3, done, none) →
          s0.goOn q d hd h = .next (s3.hold q { h with scheds := some scs, done := done })))) ∧
    (recordOk h.addr h.raw = true → named → ∀ scs n, h.scheds = some scs → (∀ i, i < 4 → i ∈ h.done) → 4 ≤ h.done.length →
      h.size = some n → s0.goOn q d hd h = (s.hold q h).startPhase q d hd r scs n)) ∧
  (∀ (s : State) (ctx : Nat) (done : List Nat) (l : List ((Nat × Nat) × Nat)), ∀ i ∈ done, i ∈ (s.dependences ctx done l).2.1) ∧
  (∀ (s s1 : State) (ctx va least i x : Nat) (done : List Nat), i ∉ done → va ≠ 0 → s.fcServed ctx va 8 s1 x →
    (i ∈ (s.dependences ctx done [((va, least), i)]).2.1 ↔ least ≤ x)) ∧
  (∀ (s : State) (q : Nat) (h : Held), KMap.find? s.fc.held q = some h →
    ((h.scheds = none ∨ (s.ctx h.record.ctx).st ≠ .active) → exec (.dependenceRecheck q) s = .next s) ∧
    (h.scheds ≠ none → (s.ctx h.record.ctx).st = .active → ∀ s1 done,
      s.dependences h.record.ctx h.done (h.record.events.zip (List.range 4)) = (s1, done, none) →
      exec (.dependenceRecheck q) s = .next (s1.hold q { h with done := done }))) ∧
  (∀ (s : State) (q size : Nat) (d : QDesc) (h : QHead) (r : Record) (scs : List Sched),
    ((∀ sc ∈ scs, sc.bound < size) → s.startPhase q d h r scs size = .next (s.refuse q d 7)) ∧
    ∀ idx sc, scs[idx]? = some sc → size ≤ sc.bound → (∀ j x, j < idx → scs[j]? = some x → x.bound < size) →
      let whole := r.teams = 0 ∨ r.teams % sc.cluster = 0
      (s.stashesOk r sc = false → s.startPhase q d h r scs size = .next (s.refuse q d 6)) ∧
      (s.stashesOk r sc = true → s.banksOk r sc = false → s.startPhase q d h r scs size = .next (s.refuse q d 9)) ∧
      (s.stashesOk r sc = true → s.banksOk r sc = true → ¬ (sc.fits = true ∧ whole) →
        s.startPhase q d h r scs size = .next (s.refuse q d 8)) ∧
      (s.stashesOk r sc = true → s.banksOk r sc = true → sc.fits = true → whole → teamCount r sc size ≠ 0 →
        ∃ (t : State) (p : Phase), s.startPhase q d h r scs size = .next t ∧
          KMap.find? t.phases (KMap.nextKey s.phases) = some p ∧ p.queue = q ∧ p.ctx = r.ctx ∧ p.record = r ∧ p.sched = sc ∧
          p.schedIdx = idx ∧ p.teams = teamCount r sc size ∧ p.placedTeams = 0 ∧ p.codeIa = s.codeAt r ∧ KMap.find? t.fc.held q = none ∧
          (r.layer = 0xFFFF → t.mem = ((if h.cur = 0 then s.fcWrite d.ctx d.headAddr (h.head + 1) else s).fcWrite d.ctx
            (d.headAddr + 16) r.next).mem)) ∧
      (s.stashesOk r sc = true → s.banksOk r sc = true → sc.fits = true → whole → teamCount r sc size = 0 →
        ∃ (s4 : State) (p : Phase), s.startPhase q d h r scs size =
            andThen (exec (.phaseComplete (KMap.nextKey s.phases)) s4) (fun u => .next u.serveQueues) ∧
          KMap.find? s4.phases (KMap.nextKey s.phases) = some p ∧ p.teams = 0 ∧ p.endedTeams = 0 ∧ p.ctx = r.ctx ∧ p.record = r ∧
          KMap.find? s4.fc.held q = none ∧
          (r.layer = 0xFFFF → s4.mem = ((if h.cur = 0 then s.fcWrite d.ctx d.headAddr (h.head + 1) else s).fcWrite d.ctx
            (d.headAddr + 16) r.next).mem))) ∧
  (∀ (s : State) (ctx va v : Nat) (l : List Loc),
    let s1 := s.touchRange ctx 0 .store va 8
    (s1.vaBytes ctx .store va 8 = .ok l → (l.map (·.key)).Nodup → (∀ p ∈ l, isPeer p.key = false) → bitOf (s1.ctx ctx).flags 0 = false →
      s1.unshared l →
      ∀ i p, i < 8 → l[i]? = some p → (s.fcWrite ctx va v).mem.get p.key = (leBytes 8 v).getD i 0) ∧
    (∀ k z, s1.vaBytes ctx .store va 8 = .error (.fault k z) →
      s.fcWrite ctx va v = s1.contextFault ctx { cause := k, addr := va, detail := z })) ∧
  (∀ (s : State) (id : Nat) (p : Phase), KMap.find? s.phases id = some p →
    ((p.endedTeams ≠ p.teams ∨ (s.ctx p.ctx).retiring = true ∨ ∃ w ∈ s.peerWrites, w.2.ctx = p.ctx) →
      exec (.phaseComplete id) s = .next s) ∧
    (p.endedTeams = p.teams → ((s.ctx p.ctx).st = .active ∨ (s.ctx p.ctx).st = .stopped ∨ (s.ctx p.ctx).st = .halted) →
      (s.ctx p.ctx).retiring = false → (∀ w ∈ s.peerWrites, w.2.ctx ≠ p.ctx) →
      (p.record.comp = 0 → ∃ t : State, exec (.phaseComplete id) s = .next t ∧ KMap.find? t.phases id = none ∧ t.mem = s.mem) ∧
      (∀ loc, p.record.comp ≠ 0 → let s1 := s.touchVa p.record.ctx 0 .atomic (p.record.comp / 64 * 64)
        s1.vaLoc p.record.ctx .atomic p.record.comp = .ok loc → s1.vaHeld p.record.ctx .atomic p.record.comp 8 = false →
        s1.owned loc.key = false → s1.pendingPeer loc = none → (spaceOf loc.key < 16 ∧ spaceOf (loc.key + 7) < 16) → bitOf (s1.ctx p.record.ctx).flags 0 = false →
        s1.unshared ((List.range 8).map loc.add) → ∃ t : State,
          exec (.phaseComplete id) s = .next t ∧ KMap.find? t.phases id = none ∧
          t.mem.getN loc.key 8 = (s1.mem.getN loc.key 8 + 1) % 2 ^ 64))) ∧
  (∀ (s : State) (core ctx t0 : Nat),
    (s.allStalled core ctx = true → KMap.find? (s.core core).stalled ctx = none → exec (.stallAll core ctx) s =
      .next (s.modCore core (fun k => { k with stalled := KMap.insert k.stalled ctx (s.clock core) }))) ∧
    (s.allStalled core ctx = true → KMap.find? (s.core core).stalled ctx = some t0 → s.fc.stall ≠ 0 → t0 + s.fc.stall ≤ s.clock core →
      ctx ∉ (s.core core).noticed → exec (.stallAll core ctx) s =
        .next ((s.notice 1 core ctx (s.clock core - t0)).modCore core (fun k => { k with noticed := ctx :: k.noticed }))) ∧
    (s.allStalled core ctx = true →
      (∀ e ∈ s.cmds, e.2.ctx = ctx → (s.team e.2.team).core ≠ core) ∧ (∀ c ∈ s.fifo core, c.ctx ≠ ctx) ∧
      (∀ w ∈ s.peerWrites, w.2.core = some core → w.2.ctx ≠ ctx) ∧
      ∀ e ∈ s.groups, (s.team e.2.team).core = core → e.2.ctx = ctx → e.2.ended = false → (∀ o ∈ s.opsOf e.1, o.2.kind.accesses = false) ∧
        ∀ y ∈ e.2.entries, (∃ l, y.wait = .parked l) ∨ ∃ a b c, y.wait = .waita a b c)) ∧
  (∀ (s : State) (core ctx : Nat),
    let k := s.core core
    (s.switchTo core ctx = true ↔ k.running ≠ some ctx ∧
      (∀ c ∈ k.resident, s.ctxWants core c = true → s.ctxPrio core c ≤ s.ctxPrio core ctx) ∧
      ∃ pre post, k.resident = pre ++ ctx :: post ∧ s.ctxWants core ctx = true ∧
        ∀ c ∈ pre, s.ctxWants core c = true → s.ctxPrio core c = s.ctxPrio core ctx → k.running = some c) ∧
    (s.switchTo core ctx = false → exec (.contextSwitch core ctx) s = .next (s.switchOff core)) ∧
    (∀ old, k.running = some old → (∀ c ∈ k.resident, s.switchTo core c = false) → (s.ctx old).halting = false →
      { s.switchOff core with groups := [] } = { s with groups := [] } ∧
      ∀ gid, (s.switchOff core).grp gid = if s.coreOf gid = core ∧ (s.grp gid).ctx = old then { s.grp gid with preempt := false }
        else s.grp gid) ∧
    (s.switchTo core ctx = true →
      (k.running = none → exec (.contextSwitch core ctx) s =
        .next (s.modCore core (fun k => { k with running := some ctx, since := s.clock core }))) ∧
      ∀ old, k.running = some old →
        (s.ctxWants core old = true → s.clock core < k.since + 65536 → exec (.contextSwitch core ctx) s = .next s) ∧
        ((s.ctxWants core old = true → k.since + 65536 ≤ s.clock core) →
          (s.sealedOn core old = true → exec (.contextSwitch core ctx) s = .next (s.setPreempt core old true)) ∧
          (s.sealedOn core old = false → ∃ t : State, exec (.contextSwitch core ctx) s = .next t ∧ (t.core core).running = some ctx ∧
            (t.core core).since = s.clock core ∧ (∀ gid, (t.grp gid).v = (s.grp gid).v) ∧
            (old ∈ k.resident → (t.core core).resident = k.resident.filter (fun c => c != old) ++ [old]))))) ∧
  (∀ (s : State) (gid r l : Nat), l < 64 → KMap.find? s.groups gid ≠ none → ((s.keepLive gid).grp gid).vGet r l =
    match (s.grp gid).entryAt l with
    | some e => if (s.liveIn gid e.pc).getLsbD r then (s.grp gid).vGet r l else 0
    | none => 0)

/-! ### Contexts -/

/-- R368, R377 to R384, R387, R394 to R401, R445: each command of context control moves its context by the table of states, and ends
with OK; in another state it reports STATE and changes nothing else; a page of its tables that is not there holds it. Under HALT the
teams run on until their engine commands have ended, are then pre-empted, and their images are written. RETIRE ends once the context's
engine commands have: the record is written. TEARDOWN of an unprotected context leaves it FREE, without work; of a protected one it
erases its key and scrubs, unit by unit: what it held on each core, the listed frames, which read as zeros, and its flash blocks; at
the end of the scrub there is no quarantine, and the context is FREE. The model's choice are: ADDR where a table of CREATE faults, and that
CREATE waits for a page of one (log entry 69); TEARDOWN with tables that fault (log entry 94); that a record takes SEQ before the
increment (log entry 72); and what a quarantine record keeps for the scrub (log entry 89). -/
def Obligations.ContextCommands : Prop :=
  (∀ (s : State) (c v : Nat) (rest : List (Nat × Nat)), s.cc.queue = (c, v) :: rest → s.cc.running = false →
    let x := s.ctx c
    let done := fun (t : State) (res : Nat) => t.cc.queue = rest ∧ t.cc.running = false ∧ t.cc.result = res
    let refused := fun (i : Instr) => ∃ t : State, exec i s = .next t ∧ done t 1 ∧ { t with cc := s.cc } = s
    let s1 := s.touchTables c
    (v % 16 = 1 →
      (x.st ≠ .free → refused .ctxCreate) ∧
      (x.st = .free → (∀ n, n < 16 → x.rangeV n = false) → ∃ t : State, exec .ctxCreate s = .next t ∧ done t 3) ∧
      (x.st = .free → (∃ n, n < 16 ∧ x.rangeV n = true) →
        (∀ a k d, s1.allLayers c = .error (.absent a k d) → exec .ctxCreate s = .next (s1.pageNotice noCore c a k d)) ∧
        (∀ k d, s1.allLayers c = .error (.fault k d) → ∃ t : State, exec .ctxCreate s = .next t ∧ done t 3) ∧
        ∀ l, s1.allLayers c = .ok l →
          ((imaged l).all s1.windowOk = false → ∃ t : State, exec .ctxCreate s = .next t ∧ done t 3) ∧
          ((imaged l).all s1.windowOk = true → bitOf x.flags 0 = true → s1.slotHeld x.keySlot = true →
            ∃ t : State, exec .ctxCreate s = .next t ∧ done t 4) ∧
          ((imaged l).all s1.windowOk = true → (bitOf x.flags 0 = true → s1.slotHeld x.keySlot = false) →
            exec .ctxCreate s = .next ((s1.createCtx c l).endCommand 0) ∧
            (l = [] → ∃ t : State, exec .ctxCreate s = .next t ∧ done t 0 ∧ (t.ctx c).st = .active ∧ (t.ctx c).meters = [] ∧
              (t.ctx c).fault = none ∧ (t.ctx c).ranges = x.ranges ∧
              (bitOf x.flags 0 = true → ∃ q, KMap.find? t.aon.quarantine c = some q ∧ q.slot = x.keySlot ∧ q.list = x.scrublist ∧
                q.n = x.scrubn ∧ q.cores = [] ∧ q.done = 0))))) ∧
    (v % 16 = 2 →
      (x.st ≠ .active → refused .ctxHalt) ∧
      (x.st = .active → (∀ e ∈ s.teams, e.2.ctx ≠ c) → ∃ t : State, exec .ctxHalt s = .next t ∧ done t 0 ∧ (t.ctx c).st = .halted) ∧
      (x.st = .active → ({ s with cc := { s.cc with running := true } }.modCtx c (fun y =>
          { y with halting := true })).haltDone c = false → ∃ t : State, exec .ctxHalt s = .next t ∧ t.cc.running = true ∧
        (t.ctx c).halting = true ∧ (t.ctx c).st = .active ∧ t.groups = s.groups)) ∧
    (v % 16 = 3 →
      (x.st ≠ .halted → refused .ctxResume) ∧
      (x.st = .halted → ∃ t : State, exec .ctxResume s = .next t ∧ done t 0 ∧ (t.ctx c).st = .active ∧ (t.ctx c).images = x.images)) ∧
    (v % 16 = 4 →
      (x.st = .free ∨ x.st = .retired ∨ x.st = .scrubbing → refused .ctxRetire) ∧
      (x.st = .active ∨ x.st = .stopped ∨ x.st = .halted → ∃ t : State, exec .ctxRetire s = .next t ∧ t.cc.running = true ∧
        (t.ctx c).retiring = true ∧ (t.ctx c).st = x.st ∧ t.mem = s.mem)) ∧
    (v % 16 = 5 →
      (x.st ≠ .retired → refused .ctxTeardown) ∧
      (x.st = .retired → (∃ e ∈ s.commits, ∃ k ∈ e.2, k.ctx = c) → exec .ctxTeardown s = .next s) ∧
      (x.st = .retired → (∀ e ∈ s.commits, ∀ k ∈ e.2, k.ctx ≠ c) →
        (∀ a k d, s1.allLayers c = .error (.absent a k d) → exec .ctxTeardown s = .next (s1.pageNotice noCore c a k d)) ∧
        (∀ k d, s1.allLayers c = .error (.fault k d) → exec .ctxTeardown s =
          .next ((s1.contextFault c { cause := k, addr := (s1.ctx c).models, detail := d }).teardown c)) ∧
        ∀ l, s1.allLayers c = .ok l → exec .ctxTeardown s = .next (s1.teardown c))) ∧
    ((v % 16 = 0 ∨ 5 < v % 16) → refused .ctxCmdInvalid)) ∧
  (∀ (s : State) (c : Nat),
    let t := s.teardown c
    t.cc.queue = s.cc.queue.tail ∧ t.cc.running = false ∧ t.cc.result = 0 ∧
    (bitOf (s.ctx c).flags 0 = false → (t.ctx c).st = .free ∧
      (∀ e ∈ t.groups, ∀ u ∈ s.teams, u.1 = e.2.team → u.2.ctx ≠ c) ∧ (∀ e ∈ t.teams, e.2.ctx ≠ c) ∧
      ∀ e ∈ t.phases, e.2.ctx ≠ c) ∧
    (bitOf (s.ctx c).flags 0 = true → (t.ctx c).st = .scrubbing ∧ KMap.find? t.ident.keys (s.ctx c).keySlot = none ∧
      t.cc.scrubActive = true ∧ t.cc.scrubDone = 0 ∧ t.aon.quarantine = s.aon.quarantine)) ∧
  (∀ (s : State) (team n : Nat) (u : Team), KMap.find? s.teams team = some u →
    let s0 := s.holdTeam team true
    let s1 := ((s0.groupsOf team).foldl (fun s e => s.preemptGroup e.1) s0).recallCore u.core
    let still := s1.teamStill team = true ∧ s1.fifo u.core = []
    let go := exec (.haltTeamSave team) s
    ((s.ctx u.ctx).halting = false → go = .next s) ∧
    ((s.ctx u.ctx).halting = true → s.cmdsOf team ≠ [] → go = .next (s.holdTeam team false)) ∧
    ((s.ctx u.ctx).halting = true → s.cmdsOf team = [] →
      (s0.teamUnsealed team = false → go = .next s0) ∧
      (s0.teamUnsealed team = true → ¬ still → go = .next s1) ∧
      (s0.teamUnsealed team = true → still → s1.imagePlace team = none → go = .next (s1.haltEnd u.ctx)) ∧
      (s0.teamUnsealed team = true → still → s1.imagePlace team = some n →
        let s2 := s1.emptyStash team (fun _ => true)
        let size := imageSize (s2.schedOf team) (s2.team team).extent
        let addr := (s2.ctx (s2.team team).ctx).save + n * 4096 * ((s2.ctx (s2.team team).ctx).saven / 2 ^ 32)
        (∀ a k d, (s2.iaTouch addr size).iaBytes .store addr size = .error (.absent a k d) →
          go = .next ((s2.iaTouch addr size).pageNotice noCore (s2.team team).ctx a k d)) ∧
        ∀ l : List Loc, (s2.iaTouch addr size).iaBytes .store addr size = .ok l → ∃ t : State, go = .next t ∧
          KMap.find? t.teams team = none ∧ (∀ e ∈ t.groups, e.2.team ≠ team) ∧
          ∃ im ∈ (t.ctx (s2.team team).ctx).images, im.place = n ∧ im.addr = addr ∧ im.team.num = u.num ∧ im.bytes.length = size))) ∧
  (∀ (s s1 : State) (c : Nat),
    (((s.ctx c).retiring = false ∨ ∃ e ∈ s.cmds, e.2.ctx = c) → exec (.retirementRecord c) s = .next s) ∧
    ((s.ctx c).retiring = true → (∀ e ∈ s.cmds, e.2.ctx ≠ c) →
      s.iaWrite (s.ctx c).recaddr (s.signedRecord c 1) = .ok s1 → ∃ t : State, exec (.retirementRecord c) s = .next t ∧
        (t.ctx c).st = .retired ∧ (t.ctx c).retiring = false ∧ t.aon.seq = s1.aon.seq + 1 ∧ t.mem = s1.mem ∧ t.cc.result = 0 ∧
        t.cc.queue = s1.cc.queue.tail)) ∧
  (∀ (s : State) (c : Nat) (q : Quarantine), KMap.find? s.aon.quarantine c = some q →
    let next := fun (t : State) => KMap.find? t.aon.quarantine c = some { q with done := q.done + 1 } ∧
      t.cc.scrubDone = s.cc.scrubDone + 1
    (∀ k, q.cores[q.done]? = some k → ∃ t : State, s.scrubUnit c q = .ok t ∧ next t ∧ ∀ e ∈ t.teams, ¬ (e.2.ctx = c ∧ e.2.core = k)) ∧
    (∀ i f, q.done = q.cores.length + i → i < q.n →
      let s1 := s.iaTouch (q.list + 8 * i) 8
      s1.iaRead (q.list + 8 * i) 8 = .ok f → ∃ t : State, s.scrubUnit c q = .ok t ∧ next t ∧
        (∀ j, j < 16384 → t.mem.get (memKey spDram (f / 16384 * 16384) + j) = 0)) ∧
    (∀ i b, q.done = q.cores.length + q.n + i → q.blocks[i]? = some b → b ∉ s.blocksBut (fun x _ _ => x == c) →
      b ∉ s.stk.flashRetired → ∃ t : State, s.scrubUnit c q = .ok t ∧ next t ∧
        ∀ e ∈ t.mem, ¬ (spaceOf e.1 = spFlash ∧ e.1 % 2 ^ 64 / 2 ^ 18 = b))) ∧
  (∀ (s s1 : State) (c : Nat) (q : Quarantine), (s.ctx c).st = .scrubbing → KMap.find? s.aon.quarantine c = some q →
    (s.scrubUnits c (q.cores.length + q.n + q.blocks.length - q.done) = (s1, none) → ∃ t : State,
      exec (.scrubComplete c) s = .next t ∧ (t.ctx c).st = .free ∧ KMap.find? t.aon.quarantine c = none ∧ (∀ e ∈ t.teams, e.2.ctx ≠ c) ∧
      t.mem.filter (fun e => decide (spaceOf e.1 < 65536)) = s1.mem.filter (fun e => decide (spaceOf e.1 < 65536))) ∧
    (∀ a k d, s.scrubUnits c (q.cores.length + q.n + q.blocks.length - q.done) = (s1, some (.absent a k d)) →
      exec (.scrubComplete c) s = .next (s1.pageNotice noCore c a k d)))

/-! ### Registers, the host and peers -/

/-- R351, R360 to R363, R368, R370, R378, R408, R409, R415, R419, R430, R433 to R435, R438: what writes of device registers do. A range
register takes a write unless it would then be valid and fail its check; invalidations are done one at a time and counted; the ways
change unless a team holds an extension; the staging cache is set while nothing is staged; one dump is made at a time. A written register reads back with its reserved bits 0 and the
others stay; a register of the selected context takes a write only while that is FREE, CTX_FREC and the scrub registers in every state but SCRUBBING, and any other
write reports STATE. The model's choices: the low bits of an address that must be aligned read as 0 (log entry 23), and KEY_LOAD with a
misaligned address, a second load, an unreadable blob or an absent page (log entry 22). -/
def Obligations.DeviceRegisters : Prop :=
  (∀ (s : State) (v : BitVec 64), s.ident.limited = false →
    let w := v.toNat
    exec (.registerWrite 0x100 v) s = .next { s with fc := { s.fc with qtBase := w / 64 * 64 } } ∧
    exec (.registerWrite 0x101 v) s = .next { s with fc := { s.fc with qtCount := w % 2 ^ 16 } } ∧
    exec (.registerWrite 0x104 v) s = .next { s with fc := { s.fc with stall := w } } ∧
    exec (.registerWrite 0x180 v) s = .next { s with xl := { s.xl with ptRoot := w / 32768 * 32768 } } ∧
    exec (.registerWrite 0x181 v) s = .next { s with xl := { s.xl with ctxSel := w % 2 ^ 32 } } ∧
    exec (.registerWrite 0x185 v) s = .next { s with xl := { s.xl with flBase := w / 256 * 256 } } ∧
    exec (.registerWrite 0x200 v) s = .next { s with cc := { s.cc with sel := w % 2 ^ 32 } } ∧
    exec (.registerWrite 0x201 v) s = .next { s with cc := { s.cc with queue := s.cc.queue ++ [(s.cc.sel, w)] } } ∧
    exec (.registerWrite 0x800 v) s = .next { s with pwr := { s.pwr with dsel := w % 64 } } ∧
    exec (.registerWrite 0x806 v) s = .next { s with pwr := { s.pwr with idle := w } } ∧
    exec (.registerWrite 0x91B v) s = .next { s with nr := { s.nr with doneCount := w } } ∧
    exec (.registerWrite 0x922 v) s = .next { s with hw := { s.hw with off0 := w } } ∧
    (350 ≤ w ∧ w ≤ 65535 → exec (.registerWrite 0x805 v) s = .next { s with pwr := { s.pwr with hold := w } }) ∧
    (w < 350 ∨ 65535 < w → exec (.registerWrite 0x805 v) s = .next s) ∧
    (∀ i, i ∈ [0x103, 0x183, 0x202, 0x302, 0x305, 0x802, 0x803, 0x900, 0x91A, 0x91C, 0x930, 0x931] →
      exec (.registerWrite i v) s = .next s)) ∧
  (∀ (s : State) (v : BitVec 64) (i x : Nat), s.ident.limited = false →
    let w := v.toNat
    ((i, x) ∈ [(0x100, w / 64 * 64), (0x101, w % 2 ^ 16), (0x104, w), (0x180, w / 32768 * 32768), (0x185, w / 256 * 256), (0x806, w),
        (0x91B, w), (0x921, w / 2 ^ 36 * 2 ^ 36), (0x922, w), (0x923, w)] →
      ∃ t : State, exec (.registerWrite i v) s = .next t ∧ t.dcrRead i = x ∧ ∀ j, j ≠ i → t.dcrRead j = s.dcrRead j) ∧
    ((i, x) ∈ [(0x181, w % 2 ^ 32), (0x200, w % 2 ^ 32), (0x800, w % 64), (0x807, w % 512)] →
      ∃ t : State, exec (.registerWrite i v) s = .next t ∧ t.dcrRead i = x ∧ t.ctxs = s.ctxs ∧ t.cores = s.cores ∧
        t.pwr.districts = s.pwr.districts ∧ t.mem = s.mem) ∧
    (16 ≤ w % 1024 → ∃ t : State, exec (.registerWrite 0x801 v) s = .next t ∧ t.dcrRead 0x801 = w % 1024 ∧
      ∀ d, d ≠ s.pwr.dsel → t.district d = s.district d) ∧
    (w % 1024 < 16 → exec (.registerWrite 0x801 v) s = .next s) ∧
    (w % 256 ≠ 0 → ∃ t : State, exec (.registerWrite 0x804 v) s = .next t ∧ t.dcrRead 0x804 = w % 256 ∧ t.mem = s.mem ∧
      t.ctxs = s.ctxs ∧ t.groups = s.groups ∧ t.pwr.districts = s.pwr.districts) ∧
    (w % 256 = 0 → exec (.registerWrite 0x804 v) s = .next s) ∧
    (60 ≤ w ∧ w ≤ 120 → exec (.registerWrite 0x809 v) s = .next { s with pwr := { s.pwr with hot := w } }) ∧
    (w < 60 ∨ 120 < w → exec (.registerWrite 0x809 v) s = .next s) ∧
    (w % 64 = 0 → exec (.registerWrite 0x918 v) s = .next { s with nr := { s.nr with base := w } }) ∧
    (w % 64 ≠ 0 → exec (.registerWrite 0x918 v) s = .next s) ∧
    (w.testBit 8 = true → (w % 32 < 4 ∨ 16 < w % 32) → exec (.registerWrite 0x919 v) s = .next s) ∧
    ((w.testBit 8 = true → 4 ≤ w % 32 ∧ w % 32 ≤ 16) →
      exec (.registerWrite 0x919 v) s = .next { s with nr := { s.nr with log2n := w % 32, enable := w.testBit 8 } }) ∧
    exec (.registerWrite 0x102 v) s = exec (.fcBell (w % 2 ^ 16)) s ∧
    exec (.registerWrite 0x182 v) s = exec (.xlInv v) s ∧ exec (.registerWrite 0x184 v) s = exec (.xlResume v) s ∧
    (∀ r k, r < 16 → k < 4 → exec (.registerWrite (0x190 + 4 * r + k) v) s = exec (.xlRangeWrite r k v) s) ∧
    exec (.registerWrite 0x217 v) s = exec (.rstReq v) s ∧ exec (.registerWrite 0x300 v) s = exec (.stkScrways v) s ∧
    exec (.registerWrite 0x303 v) s = exec (.flsStagebase v) s ∧ exec (.registerWrite 0x304 v) s = exec (.flsStagesz v) s ∧
    exec (.registerWrite 0x90A v) s = exec (.keyLoad v) s ∧ exec (.registerWrite 0x910 v) s = exec (.bbDump v) s ∧
    (∀ peer, peer < 1024 → exec (.registerWrite (0xC00 + peer) v) s = exec (.rlRouteWrite peer v) s)) ∧
  (∀ (s : State) (v : BitVec 64) (i : Nat), s.ident.limited = false → 0x203 ≤ i → i ≤ 0x215 →
    let w := v.toNat
    let c := s.cc.sel
    let st := (s.ctx c).st
    let accepted := if i = 0x204 ∨ i = 0x214 ∨ i = 0x215 then st ≠ .scrubbing else st = .free
    let value := if i = 0x203 then w &&& 0x3F03 else if i = 0x204 ∨ i = 0x205 then w / 4096 * 4096 else if i = 0x207 then w / 16 * 16
      else if i = 0x208 then w % 2 ^ 16 else if i = 0x209 then w / 64 * 64 else if i = 0x20B then (s.ctx c).installed
      else if i = 0x214 then w / 8 * 8 else if i = 0x215 then w % 2 ^ 32 else w
    (accepted → ∃ t : State, exec (.registerWrite i v) s = .next t ∧ t.dcrRead i = value ∧ (∀ j, j ≠ i → t.dcrRead j = s.dcrRead j) ∧
      (∀ k, k ≠ c → t.ctx k = s.ctx k) ∧ t.mem = s.mem ∧ t.groups = s.groups ∧
      KMap.find? t.aon.quarantine c = (KMap.find? s.aon.quarantine c).map (fun q =>
        { q with list := (t.ctx c).scrublist, n := (t.ctx c).scrubn })) ∧
    (¬ accepted → exec (.registerWrite i v) s = .next { s with cc := { s.cc with result := 1 } })) ∧
  (∀ (s : State) (r w : Nat) (v : BitVec 64), r < 16 → w < 4 →
    let c := s.ctx s.xl.ctxSel
    let new := fun i => if i = w then v.toNat else c.range r i
    let valid := new 0 % 16384 = 0 ∧ new 0 < 2 ^ 57 ∧ new 1 % 16384 = 0 ∧ new 1 < 2 ^ 57 ∧ new 0 < new 1 ∧
      (new 3 &&& rangeBits) = new 3
    ((new 3).testBit 0 = true → ¬ valid → exec (.xlRangeWrite r w v) s = .next s) ∧
    ((new 3).testBit 0 = true → valid → ∃ t : State, exec (.xlRangeWrite r w v) s = .next t ∧
      (t.ctx s.xl.ctxSel).range r w = v.toNat ∧ t.mem = s.mem ∧
      ∀ n i, i < 4 → (n ≠ r ∨ i ≠ w) → (t.ctx s.xl.ctxSel).range n i = c.range n i) ∧
    ((new 3).testBit 0 = false → ∃ t : State, exec (.xlRangeWrite r w v) s = .next t ∧
      (t.ctx s.xl.ctxSel).range r w = if w = 3 then v.toNat &&& rangeBits else v.toNat)) ∧
  (∀ (s : State) (v : BitVec 64),
    (s.xl.inv = none → exec (.xlInv v) s = .next { s with xl := { s.xl with inv := some v.toNat } }) ∧
    (s.xl.inv ≠ none → exec (.xlInv v) s = .next { s with xl := { s.xl with invWait := s.xl.invWait ++ [v.toNat] } })) ∧
  (∀ (s : State) (w : Nat), s.xl.inv = some w → (s.rangeInUse w = true → exec .xlInvComplete s = .next s) ∧
    (s.rangeInUse w = false → ∃ t : State, exec .xlInvComplete s = .next t ∧ t.xl.count = (s.xl.count + 1) % 2 ^ 32 ∧
      t.xl.inv = s.xl.invWait.head? ∧ t.xl.invWait = s.xl.invWait.tail ∧
      ((w.testBit 2 = false ∨ ∀ e ∈ s.teams, e.2.stash = []) → t.mem = s.mem) ∧
      (w.testBit 2 = true → (∀ l ∈ t.l2bad ++ t.l2dirty, inRange w (64 * l.2) = false)))) ∧
  (∀ (s : State) (v : BitVec 64),
    let s1 := { s with
      xl := { s.xl with noticed := s.xl.noticed.filter (fun p => !inRange v.toNat (p * 16384)) }
      fc := { s.fc with waits := s.fc.waits.filter (fun p => !inRange v.toNat (p * 16384)) } }
    let s2 := (s1.groups.foldl (fun (t : State) (e : Nat × Group) => t.resumeGroup v.toNat e.1) s1).retryAllFlags.retryRecords
    exec (.xlResume v) s = s2.fc.bells.foldl (fun o q => andThen o (fun t => exec (.fcBell q) t)) (.next s2)) ∧
  (∀ (s : State) (v gid : Nat) (g : Group), KMap.find? s.groups gid = some g → ∃ t : State, s.resumeGroup v gid = t.settle gid ∧
    t.mem = s.mem ∧
    let tower := towerOf (s.coreOf gid)
    let here := fun (e : Entry) p => (e.wait = .parked p ∨ e.wait = .fetch p) ∧ inRange v (p * 16384) = true
    ((t.grp gid).entries = g.entries.map (fun e => match e.wait with
      | .parked p | .fetch p => if inRange v (p * 16384) && s.pageHere tower (p * 16384) then { e with wait := .none } else e
      | _ => e)) ∧
    ∀ e ∈ g.entries, ∀ p, here e p → s.pageHere tower (p * 16384) = false → p ∈ t.xl.noticed) ∧
  (∀ (s : State) (v : BitVec 64), let w := v.toNat % 16
    (8 < w ∨ s.extensionHeld = true ∨ s.stk.changing = true →
      exec (.stkScrways v) s = .next { s with stk := { s.stk with refused := true } }) ∧
    (w ≤ 8 → s.extensionHeld = false → s.stk.changing = false →
      exec (.stkScrways v) s = .next { s with stk := { s.stk with ways := w, changing := true, refused := false } })) ∧
  (∀ (s : State), exec .wayChangeComplete s = .next { s with stk := { s.stk with changing := false } }) ∧
  (∀ (s : State) (v : BitVec 64),
    (v.toNat % 16384 = 0 → v.toNat < Config.dramBytes → stageOk v.toNat s.stk.stageSize = true → s.stageBusy = false →
      exec (.flsStagebase v) s = .next { s with stk := { s.stk with stageBase := v.toNat } }) ∧
    (v.toNat % 1024 ≤ 512 → stageOk s.stk.stageBase (v.toNat % 1024) = true → s.stageBusy = false →
      exec (.flsStagesz v) s = .next { s with stk := { s.stk with stageSize := v.toNat % 1024 } }) ∧
    (s.stageBusy = true → exec (.flsStagebase v) s = .next s ∧ exec (.flsStagesz v) s = .next s)) ∧
  (∀ (s : State) (v : BitVec 64),
    (v.toNat % 64 = 0 → s.ident.keyLoad = none → exec (.keyLoad v) s = .next { s with ident := { s.ident with keyLoad := some v.toNat } }) ∧
    ((v.toNat % 64 ≠ 0 ∨ s.ident.keyLoad ≠ none) → exec (.keyLoad v) s = .next s) ∧
    (s.ident.keyLoad ≠ none → (s.dcrRead 0x90B).testBit 8 = true) ∧
    ∀ a, s.ident.keyLoad = some a →
      let s1 := s.iaTouch a 128
      (∀ p k d, s1.iaRead a 128 = .error (.absent p k d) → s.keyLoaded = s1.pageNotice noCore noCtx p k d) ∧
      (∀ k d, s1.iaRead a 128 = .error (.fault k d) → s.keyLoaded = { s1 with ident := { s1.ident with
        keyStatus := keyUnwrap, keyLoad := none } }) ∧
      ∀ b, s1.iaRead a 128 = .ok b → s.keyLoaded = { s1 with ident := { s1.ident with
        keyStatus := (s1.openBlob b).1, keyLoad := none
        keys := (s1.openBlob b).2.elim s1.ident.keys (fun e => KMap.insert s1.ident.keys e.1 e.2) } }) ∧
  (∀ (s : State) (v : BitVec 64), v.toNat % 64 = 0 →
    (s.aon.dump = none → ∃ t : State, exec (.bbDump v) s = .next t ∧ t.aon.dump = some (v.toNat, s.aon.seq, s.aon.eseq) ∧
      t.aon.seq = s.aon.seq + 1 ∧ t.mem = s.mem) ∧
    (s.aon.dump ≠ none → exec (.bbDump v) s = .next { s with aon := { s.aon with dumpWait := s.aon.dumpWait ++ [v.toNat] } })) ∧
  (∀ (s s1 : State) (addr seq cut : Nat), s.aon.dump = some (addr, seq, cut) → s.iaWrite addr (s.dumpBytes seq cut) = .ok s1 → ∃ t : State,
    exec .bbDumpComplete s = .next t ∧ t.mem = s1.mem ∧ t.aon.second = [] ∧ (s1.aon.dumpWait = [] → t.aon.dump = none) ∧
    t.aon.ring = s1.aon.second.foldl ringPush s1.aon.ring) ∧
  (∀ (s0 s1 : State) (v : BitVec 64) (n : Nat), v.toNat % 64 = 0 → let s := s0.iaTouch v.toNat 32
    (s.iaRead v.toNat 32 = .ok n → s.iaWrite (v.toNat + 64) (s.rosterEntry (leBytes 32 n)) = .ok s1 → exec (.rstReq v) s0 = .next s1) ∧
    ∀ p k d, s.iaRead v.toNat 32 = .error (.absent p k d) → exec (.rstReq v) s0 = .next (s.pageNotice noCore noCtx p k d)) ∧
  (∀ (s : State) (peer : Nat) (v : BitVec 64), peer < 1024 → ∃ t : State, exec (.rlRouteWrite peer v) s = .next t ∧
    KMap.getD t.routes 0 peer = v.toNat % 2 ^ 24 ∧ (∀ q, q ≠ peer → KMap.getD t.routes 0 q = KMap.getD s.routes 0 q) ∧
    { t with routes := [] } = { s with routes := [] })

/-- R302, R308, R315, R333, R361, R374, R434, R440: a host reaches the registers through BAR0 and memory through BAR2, over a link that is up; a
peer reads, writes, makes atomic steps and adds over one; their accesses wait for lines that an engine owns, and a `.remote` acquire until
the stores of the cores are beyond them. A host reads the bytes as they are stored, those of a protected context encrypted (R399). A write to a peer lands when it is acknowledged, after the earlier writes to its bytes and the
earlier ones of its core and of its context. -/
def Obligations.HostAndPeers : Prop :=
  let put := fun (s1 t : State) (l : List Loc) (bytes : List Byte) =>
    (∀ p ∈ l, spaceOf p.key < 16) → (l.map (·.key)).Nodup → bitOf (s1.ctx outsideCtx).flags 0 = false → s1.unshared l →
      ∀ (i : Nat) (p : Loc) (x : Byte), l[i]? = some p → bytes[i]? = some x → t.mem.get p.key = x
  (∀ (s : State) (link i : Nat) (v : BitVec 64), (link = 0 ∧ s.hw.up0 = true) ∨ (link = 1 ∧ s.hw.up1 = true) → i < 4096 →
    exec (.hostBar0Access link i (some v)) s = exec (.registerWrite i v) s ∧
    exec (.hostBar0Access link i none) s = .next { s with hw := { s.hw with readData := leBytes 8 (s.dcrRead i) } }) ∧
  (∀ (s : State) (off n : Nat) (bytes : List Byte), (s.hw.up0 = true ∨ s.hw.up1 = true) → s.ident.limited = false →
    (off + n ≤ 2 ^ 36 → let s1 := s.iaTouch (s.hw.bar2 + off) n
      ∀ l : List Loc, s1.iaBytes .load (s.hw.bar2 + off) n = .ok l →
        ((∃ p ∈ l, s1.owned p.key = true) → exec (.hostBar2Access off n none) s = .next s1) ∧
        ((∀ p ∈ l, s1.owned p.key = false) → ∃ t : State,
          exec (.hostBar2Access off n none) s = .next t ∧ (s1.unshared l → t.hw.readData = s1.outsideRead l ∧ t.mem = s1.mem ∧
            ∀ (i : Nat) (p : Loc), l[i]? = some p → s1.pendingPeer p = none →
              (s1.outsideRead l)[i]? = some (s1.mem.get p.key)))) ∧
    (off + bytes.length ≤ 2 ^ 36 → let s1 := s.iaTouch (s.hw.bar2 + off) bytes.length
      ∀ l : List Loc, s1.iaBytes .store (s.hw.bar2 + off) bytes.length = .ok l → (∀ p ∈ l, s1.owned p.key = false) → ∃ t : State,
        exec (.hostBar2Access off n (some bytes)) s = .next t ∧ put s1 t l bytes)) ∧
  (∀ (s : State) (peer ia n scope : Nat) (sync : Bool) (bytes : List Byte) (z : BitVec 32), s.peerUp peer ia = true →
    (let s0 := if sync = true ∧ scope = 5 then s.recallCores else s
     let away := sync = true → scope = 5 → ∀ e ∈ s0.commits, e.2 = []
     (¬ away → exec (.peerAccess peer ia (.read n scope sync)) s = .next s0) ∧
     ∀ (s1 : State) (l : List Loc), away → s0.peerPlaces peer ia n .load = (s1, .ok l) →
      ((∃ p ∈ l, s1.owned p.key = true) → exec (.peerAccess peer ia (.read n scope sync)) s = .next s1) ∧
      ((∀ p ∈ l, s1.owned p.key = false) → ∃ t : State,
        exec (.peerAccess peer ia (.read n scope sync)) s = .next t ∧ (s1.unshared l → t.mem = s1.mem))) ∧
    (∀ (s1 : State) (l : List Loc), s.peerPlaces peer ia bytes.length .store = (s1, .ok l) → (∀ p ∈ l, s1.owned p.key = false) → ∃ t : State,
      exec (.peerAccess peer ia (.write bytes scope sync)) s = .next t ∧ put s1 t l bytes) ∧
    (∀ bits aop v cmp ord : Nat,
      let acq := (ord = 1 ∨ ord = 3) ∧ scope = 5
      let s0 := if acq then s.recallCores else s
      let away := acq → ∀ e ∈ s0.commits, e.2 = []
      (¬ away → exec (.peerAccess peer ia (.atomic bits aop v cmp ord scope)) s = .next s0) ∧
      ∀ (s1 : State) (l : List Loc), away → s0.peerPlaces peer ia (bits / 8) .atomic = (s1, .ok l) →
      (∀ p ∈ l, s1.owned p.key = false ∧ s1.pendingPeer p = none) → ∃ t : State,
      exec (.peerAccess peer ia (.atomic bits aop v cmp ord scope)) s = .next t ∧
      put s1 t l (leBytes (bits / 8) (atomNew aop bits (leNat (l.map (fun p => s1.mem.get p.key))) v cmp))) ∧
    (∀ (s1 : State) (l : List Loc), s.peerPlaces peer (ia / 64 * 64) 64 .atomic = (s1, .ok l) →
      (∀ p ∈ l, s1.owned p.key = false ∧ s1.pendingPeer p = none) → ∃ t : State,
      exec (.peerAccess peer ia (.addF32 z)) s = .next t ∧
      put s1 t l (leBytes 64 (exactsum (leNat (l.map (fun p => s1.mem.get p.key))) z.toNat)))) ∧
  (∀ (s : State) (peer ia : Nat) (act : PeerAct), s.peerUp peer ia = false → exec (.peerAccess peer ia act) s = .next s) ∧
  (∀ (s : State) (k : Nat) (w : PeerWrite), KMap.find? s.peerWrites k = some w → s.peerUp w.peer w.ia = true →
    let before := fun (e : Nat × PeerWrite) => e.1 < k ∧ ((e.2.peer = w.peer ∧ e.2.ia < w.ia + w.bytes.length ∧
      w.ia < e.2.ia + e.2.bytes.length) ∨ (e.2.core ≠ none ∧ w.core ≠ none ∧ (e.2.core = w.core ∨ e.2.ctx = w.ctx)))
    ((∃ e ∈ s.peerWrites, before e) → exec (.remoteWriteAck k) s = .next s) ∧
    ((∀ e ∈ s.peerWrites, ¬ before e) →
      ∃ t : State, exec (.remoteWriteAck k) s = .next t ∧ KMap.find? t.peerWrites k = none ∧
        (∀ i x, w.bytes[i]? = some x → t.mem.get (memKey (spPeer w.peer) (w.ia + i)) = x) ∧
        ∀ key, (∀ i, i < w.bytes.length → key ≠ memKey (spPeer w.peer) (w.ia + i)) → t.mem.get key = s.mem.get key))

/-! ### The staging cache -/

/-- R388 to R390, R417: a layer whose pages are all staged is resident, its generation kept and its flag word written; while it does not
fit, or an install rewrites its image, it waits (log entry 87). A layer that
does not fit takes the place of one victim at a time: resident, unpinned, of lower EPRIO or of equal EPRIO in the same model context,
the lowest EPRIO first and then the one resident longest. An evicted layer is absent, and a request that waited applies. A flash read
that fails poisons its page, with the other pages of the block (log entry 97), retires its block, and is logged by its unit and address (the layout of DETAIL: the model's choice, log entry 21). -/
def Obligations.LayerStates : Prop :=
  let mayGo : State → Nat → Nat → Nat × Nat × Layer → Bool := fun s ctx key v =>
    v.2.2.st == .resident && v.2.2.pins == 0 && (decide (s.eprio v.1 v.2.1 < s.eprio ctx key) ||
      (s.eprio v.1 v.2.1 == s.eprio ctx key && v.1 == ctx && v.2.1 / 65536 == key / 65536))
  (∀ (s : State) (ctx model layer : Nat), let x := s.layer ctx model layer
    let new : Layer := { x with st := .resident, since := s.nextSince }
    (x.st ≠ .arriving ∨ s.layerFits ctx (model * 65536 + layer) = false ∨ s.installing ctx model layer = true →
      exec (.layerArrival ctx model layer) s = .next s) ∧
    (x.st = .arriving → s.layerFits ctx (model * 65536 + layer) = true → s.installing ctx model layer = false → ∃ t : State,
      exec (.layerArrival ctx model layer) s = .next t ∧ (t.layer ctx model layer).st = .resident ∧
      (t.layer ctx model layer).gen = x.gen ∧ (t.layer ctx model layer).pins = x.pins ∧
      (∀ (d : LayerDesc) (l : List Loc), x.flagWrites = [] →
        let s1 := (s.setLayer ctx model layer { new with flagWrites := [2 + 2 ^ 32 * x.gen] }).touchLayer ctx model layer
        s1.layerDesc ctx model layer = .ok (some d) →
        let s2 := s1.touchVa ctx 0 .store (d.flagAddr / 64 * 64)
        s2.vaBytes ctx .store d.flagAddr 8 = .ok l → (∀ p ∈ l, isPeer p.key = false) → s2.unshared l →
        t.mem = ((l.zip (leBytes 8 (2 + 2 ^ 32 * x.gen))).foldl (fun s e => s.wr ctx e.1 e.2) s2).mem))) ∧
  (∀ (s : State) (ctx model layer : Nat), (s.layer ctx model layer).st = .arriving →
    s.layerFits ctx (model * 65536 + layer) = false → s.stk.stageSize ≠ 0 → (∀ e ∈ s.layersAll, e.2.2.st ≠ .evicting) →
    (∀ v ∈ s.layersAll, mayGo s ctx (model * 65536 + layer) v = true → ∃ (t : State) (w : Nat × Nat × Layer),
      exec (.layerVictimChoice ctx model layer) s = .next t ∧ w ∈ s.layersAll ∧ mayGo s ctx (model * 65536 + layer) w = true ∧
      (s.eprio w.1 w.2.1 < s.eprio v.1 v.2.1 ∨ (s.eprio w.1 w.2.1 = s.eprio v.1 v.2.1 ∧ w.2.2.since ≤ v.2.2.since)) ∧
      (t.layer w.1 (w.2.1 / 65536) (w.2.1 % 65536)).st = .evicting) ∧
    ((∀ v ∈ s.layersAll, mayGo s ctx (model * 65536 + layer) v = false) → exec (.layerVictimChoice ctx model layer) s = .next s)) ∧
  (∀ (s : State) (ctx model layer : Nat), let x := s.layer ctx model layer
    x.st = .evicting → ∃ t : State, exec (.layerEvictionComplete ctx model layer) s = .next t ∧
      (x.waiting = false → (t.layer ctx model layer).st = .absent ∧ (t.layer ctx model layer).gen = x.gen) ∧
      (x.waiting = true → (t.layer ctx model layer).st = .arriving ∧ (t.layer ctx model layer).gen = (x.gen + 1) % 2 ^ 16)) ∧
  (∀ (s : State) (page : Nat), let b := s.flashBlock (page / 16)
    ∃ t : State, exec (.flashReadEccFail page) s = .next t ∧ (∀ i, i < 16 → 16 * b + i ∈ t.stk.badPages) ∧
    (∀ p ∈ t.stk.badPages, p ∈ s.stk.badPages ∨ p / 16 = b) ∧ (∀ p ∈ s.stk.badPages, p ∈ t.stk.badPages) ∧
    b ∈ t.stk.flashRetired ∧ t.stk.stageSize = s.stk.stageSize ∧
    ∃ e ∈ t.aon.ring ++ t.aon.second, e.eseq = s.aon.eseq ∧ e.code = 3 ∧
      e.detail = 16384 * page % 2 ^ 40 + 2 ^ 40 * (page / 2 ^ 26 % 2 ^ 16) + 2 ^ 56 * 11)

/-! ### Current, heat and power states -/

/-- R420 to R427: the oldest request of a district is granted where it fits, the district is not delayed, and the lighter district of
its terrace has none that fits; a pipe gives its reservation back after 256 cycles of its core's counter without issue. A terrace whose
imbalance stays above 10% for 4,096 cycles delays the heavier district and ballasts the other, until it falls below 5% or the heavier
one has no reservation left. Injection starts at a droop and keeps to 8 cycles in any 512; a droop that lasts longer opens a suspect
window: the district's started MXAs are struck, the groups whose results it struck are discarded and wait, and its end lets them go
on. The governor's limit halves, or doubles up to GOV_BUDGET, at each boundary; a hot bit sets at PWR_HOT and clears 5 degrees below.
A district goes from ON to HOLD, where its clocks stop, DRAIN and OFF, and comes back through the in-rush arbiter, its counters
starting anew at values the spec leaves open (log entry 19); so do the other wake units of a tower (log entry 95). -/
def Obligations.CurrentAndPower : Prop :=
  let idle := fun (s : State) (d : Nat) => (s.district d).delayed = true ∧ (s.district d).granted = []
  let cleared := fun (s t : State) (terrace : Nat) =>
    (∀ d, d / 2 = terrace → t.district d = { s.district d with delayed := false, ballast := false }) ∧
    (∀ d, d / 2 ≠ terrace → t.district d = s.district d) ∧ t.mem = s.mem ∧ t.groups = s.groups ∧ t.cores = s.cores ∧ t.cycle = s.cycle ∧ t.timers = s.timers
  (∀ (s : State) (terrace : Nat), (idle s (2 * terrace) ∨ idle s (2 * terrace + 1) → cleared s (s.endDelay terrace) terrace) ∧
    (¬ idle s (2 * terrace) → ¬ idle s (2 * terrace + 1) → s.endDelay terrace = s)) ∧
  (∀ (s : State) (d : Nat), (s.district d).fits = true ↔ ∃ h n rest, (s.district d).waiting = (h, n) :: rest ∧
    (s.district d).delayed = false ∧ ((s.district d).granted.map (fun e => e.2)).sum + n ≤ (s.district d).budget) ∧
  (∀ (s0 : State) (d n : Nat) (h : Holder) (rest : List (Holder × Nat)), let s := s0.endDelay (d / 2)
    (s.district d).waiting = (h, n) :: rest →
    let lighter := (s.terrace (d / 2)).percent ≠ 0 ∧ (s.terrace (d / 2)).heavier = d ∧
      (s.district (if d % 2 = 0 then d + 1 else d - 1)).fits = true
    let stale := ∃ id, h = .mxa id ∧ ∀ c, KMap.find? s.cmds id = some c → s.mxaCan id c = false
    (stale → ∃ t : State, exec (.reservationGrant d) s0 = .next t ∧ (t.district d).waiting = rest ∧
      (t.district d).granted = (s.district d).granted ∧ t.mem = s.mem ∧ t.groups = s.groups ∧ ∀ e, e ≠ d → t.district e = s.district e) ∧
    (¬ stale → (s.district d).fits = true → ¬ lighter → ∃ t : State,
      exec (.reservationGrant d) s0 = .next t ∧ (t.district d).granted = (s.district d).granted ++ [(h, n)] ∧
      (t.district d).waiting = rest ∧ (∀ core q, h = .pipe core q → KMap.find? (t.core core).pipes q = some (s.clock core)) ∧
      t.mem = s.mem ∧ t.groups = s.groups ∧ ∀ e, e ≠ d → t.district e = s.district e) ∧
    (¬ stale → ((s.district d).fits = false ∨ lighter) → exec (.reservationGrant d) s0 = .next s)) ∧
  (∀ (s : State) (core q since : Nat), KMap.find? (s.core core).pipes q = some since →
    (s.clock core < since + 256 → exec (.pipeIdleRelease core q) s = .next s) ∧
    (since + 256 ≤ s.clock core → ∃ t : State, exec (.pipeIdleRelease core q) s = .next t ∧
      KMap.find? (t.core core).pipes q = none ∧ ∀ e ∈ (t.district (districtOf core)).granted, e.1 ≠ .pipe core q)) ∧
  (∀ (s : State) (terrace heavier percent : Nat), let a := 2 * terrace + heavier % 2
    (s.measure terrace heavier percent).terrace terrace = ⟨a, percent,
      if 10 < (s.terrace terrace).percent ∧ (s.terrace terrace).heavier = a then (s.terrace terrace).since else s.now (.terrace terrace)⟩) ∧
  (∀ (s0 : State) (terrace heavier : Nat), terrace < 32 →
    let s := s0.endDelay terrace
    let a := 2 * terrace + heavier % 2
    let b := 2 * terrace + (heavier + 1) % 2
    let x := s.terrace terrace
    (x.heavier = a → 10 < x.percent → x.since + 4096 ≤ s.now (.terrace terrace) → (s.district a).granted ≠ [] → (s.district b).delayed = false →
      ∃ t : State, exec (.terraceDelaySet terrace heavier) s0 = .next t ∧
      (t.district a).delayed = true ∧ (t.district b).ballast = true ∧ (t.district b).delayed = false ∧
      ∀ d, d ≠ a → d ≠ b → t.district d = s.district d) ∧
    (x.heavier ≠ a ∨ x.percent ≤ 10 ∨ s.now (.terrace terrace) < x.since + 4096 ∨ (s.district a).granted = [] ∨ (s.district b).delayed = true →
      exec (.terraceDelaySet terrace heavier) s0 = .next s) ∧
    (x.percent < 5 → ∃ t : State, exec (.terraceDelayClear terrace) s0 = .next t ∧ cleared s t terrace) ∧
    (5 ≤ x.percent → exec (.terraceDelayClear terrace) s0 = .next s)) ∧
  (∀ (d : District) (c : Nat), d.allow c ≤ 8 ∧ ∀ k, k < d.allow c → d.injected (c + k + 1 - 512) (c + k + 1) + k + 1 ≤ 8) ∧
  (∀ (s : State) (d : Nat), d < 64 → (s.district d).low = false → ∃ t : State, exec (.droopDetect d) s = .next t ∧
    (t.district d).low = true ∧ (t.district d).lowSince = s.now (.district d) ∧
    (t.district d).suspect = (s.district d).suspect ∧ (t.district d).overlap = [] ∧
    ((t.district d).injecting = true ↔ 0 < (s.district d).allow (s.now (.district d))) ∧ ∀ e, e ≠ d → t.district e = s.district e) ∧
  (∀ (s : State) (d : Nat), let x := s.district d
    let now := s.now (.district d)
    (x.low = true → x.suspect = false → now ≤ x.lowSince + x.allow x.lowSince → ∃ t : State,
      exec (.supplyRecovery d) s = .next t ∧ (t.district d).low = false ∧ (t.district d).suspect = false ∧
      (t.district d).injecting = false ∧ (t.district d).inj = (x.inj + (now - x.lowSince)) % 2 ^ 64) ∧
    (x.low = true → x.suspect = true → ∃ t : State, exec (.supplyRecovery d) s = .next t ∧ (t.district d).low = false ∧
      (t.district d).suspect = true ∧ (t.district d).injecting = false ∧ (t.district d).lowSince = now ∧
      (t.district d).inj = (x.inj + (if x.injecting = true then min (now - x.lowSince) (x.allow x.lowSince) else 0)) % 2 ^ 64)) ∧
  (∀ (s : State) (d : Nat) (groups : List Nat), let x := s.district d
    x.low = true → x.suspect = false → x.lowSince + x.allow x.lowSince ≤ s.now (.district d) → ∃ t : State,
      exec (.suspectWindowOpen d groups) s = .next t ∧ (t.district d).suspect = true ∧ (t.district d).injecting = false ∧
      (t.district d).inj = (x.inj + x.allow x.lowSince) % 2 ^ 64 ∧ (t.district d).lowSince = s.now (.district d) ∧
      s.aon.eseq < t.aon.eseq ∧ ∀ g ∈ groups, s.onDistrict d g = true → (t.grp g).suspectHold = true) ∧
  (∀ (s : State) (gid : Nat), s.suspectDiscard gid =
    ((s.discardGroup gid true).modGrp gid (fun g => { g with suspectHold := true })).settle gid) ∧
  (∀ (s : State) (c : Cmd) (sl : Slot), Slot.decode ((s.phase (s.team c.team).phase).slot c.slot) = some sl →
    0 < mxK c.block → 0 < sl.interval → ∃ b p again : Nat, b * sl.interval < mxK c.block ∧
      p < NTy.planes sl.atype * ((min sl.interval (mxK c.block - b * sl.interval) + 63) / 64) ∧
      (s.strike c).ctx c.ctx = (s.ctx c.ctx).addMeter 11 (p + 1 + again) ∧
      (s.strike c).groups = s.groups ∧ (s.strike c).teams = s.teams ∧ (s.strike c).mem = s.mem ∧ (s.strike c).cmds = s.cmds) ∧
  (∀ (s : State) (d : Nat), (s.district d).suspect = true → (s.district d).lowSince + 64 ≤ s.now (.district d) → ∃ t : State,
    exec (.suspectWindowEnd d) s = .next t ∧ (t.district d).suspect = false ∧ (t.district d).low = false ∧
    ∀ g, t.grp g = if s.onDistrict d g then { s.grp g with suspectHold := false } else s.grp g) ∧
  (∀ (s : State) (core : Nat), let k := s.core core
    let w := s.clock core / 1024
    (w ≤ k.window → ∃ t : State, exec (.governorWindow core) s = .next t ∧ t.core core = k) ∧
    (w = k.window + 1 → ∃ t : State, exec (.governorWindow core) s = .next t ∧ (t.core core).window = w ∧
      (t.core core).passes = 0 ∧ (t.core core).limit = if k.hot0 && k.hot1 then max 1 (k.limit / 2)
        else min s.pwr.gov (2 * k.limit))) ∧
  (∀ (s : State) (core engine celsius : Nat), core < 384 → engine < 2 → let k := s.core core
    ∃ t : State, exec (.thermalReading core engine celsius) s = .next t ∧
      ((t.core core).hot0 = if engine = 0 then (if s.pwr.hot ≤ celsius then true else if celsius + 5 < s.pwr.hot then false
        else k.hot0) else k.hot0) ∧
      ((t.core core).hot1 = if engine = 1 then (if s.pwr.hot ≤ celsius then true else if celsius + 5 < s.pwr.hot then false
        else k.hot1) else k.hot1) ∧
      t.aon.eseq = s.aon.eseq + (if (t.core core).hot0 = k.hot0 ∧ (t.core core).hot1 = k.hot1 then 0 else 1)) ∧
  (∀ (s : State) (d : Nat), let x := s.district d
    (d < 64 → x.st = .on → s.districtIdle d = true → s.pwr.idle ≠ 0 → x.idle + s.pwr.idle ≤ s.now (.district d) →
      ∃ t : State, exec (.districtHold d) s = .next t ∧ (t.district d).st = .hold ∧ (t.district d).since = s.now (.district d) ∧ t.mem = s.mem ∧
      ∀ core, (t.core core).clockOn = (if districtOf core = d ∧ core < 384 then false else (s.core core).clockOn) ∧
        t.clock core = s.clock core) ∧
    (x.st = .hold → x.since + s.pwr.hold ≤ s.now (.district d) → ∃ t : State, exec (.districtDrain d) s = .next t ∧
      (t.district d).st = .drain ∧ (t.district d).since = s.now (.district d) ∧ t.mem = s.mem) ∧
    (x.st = .drain → ∃ t : State, exec (.districtOff d) s = .next t ∧ (t.district d).st = .off ∧ (t.district d).wake = false ∧
      t.mem = s.mem ∧ (x.wake = true → d % 8 ∈ (t.arbiter (d / 8)).queue ∨ ∃ e ∈ (t.arbiter (d / 8)).ramping, e.1 = d % 8))) ∧
  (∀ (s : State) (tower u : Nat) (rest : List Nat), (s.arbiter tower).queue = u :: rest →
    (∀ c, (s.arbiter tower).last = some c → c + 350 ≤ s.now (.arbiter tower)) → ∃ t : State, exec (.inrushRampStart tower) s = .next t ∧
      t.arbiter tower = { s.arbiter tower with
        queue := rest, ramping := (s.arbiter tower).ramping ++ [(u, s.now (.arbiter tower))]
        last := some (s.now (.arbiter tower)) }) ∧
  (∀ (s : State) (tower u : Nat), let r := s.arbiter tower
    (s.unitOff tower u).arbiter tower = (if 8 ≤ u ∧ u < 15 ∧ tower < 8 ∧ u ∉ r.down then { r with down := r.down ++ [u] } else r) ∧
    (s.unitWake tower u).arbiter tower =
      (if u ∈ r.down ∧ u ∉ r.queue ∧ (∀ e ∈ r.ramping, e.1 ≠ u) then { r with queue := r.queue ++ [u] } else r)) ∧
  (∀ (s : State) (tower u c : Nat), (s.arbiter tower).ramping.find? (fun e => e.1 == u) = some (u, c) →
    (s.now (.arbiter tower) < c + 1400 → exec (.inrushRampComplete tower u) s = .next s) ∧
    (c + 1400 ≤ s.now (.arbiter tower) → ∃ t : State, exec (.inrushRampComplete tower u) s = .next t ∧
      (∀ e ∈ (t.arbiter tower).ramping, e.1 ≠ u) ∧ u ∉ (t.arbiter tower).down ∧ t.mem = s.mem ∧
      (u < 8 → (t.district (8 * tower + u)).st = .on ∧
        ∀ core, core < 384 → districtOf core = 8 * tower + u → (t.core core).clockOn = true ∧ (t.core core).passes = 0)))

/-! ### Errors, links and bring-up -/

/-- R44, R267, R269, R270, R412 to R414, R428, R429: a corrected error is logged, and a further one of the unit within 65,536 cycles
counts in its event. A register error poisons the register in the lanes struck and faults the context with cause 11; an error of the
state of a group with sealed lanes does so too, and of unsealed lanes discards them; a pipeline error discards them. An error of a
tile, a region row, a line of a scratchpad, of DRAM or of the L2 poisons it. DETAIL names the unit that erred and the address in it (its
layout: log entry 21). A bad burst discards the groups that consumed beats of it, and then its bus takes a spare wire, or, with none
left, is retired; dirty lines of the slice of a retired bus, and no line whose stores a FENCE `.layer` has acknowledged, and V registers
behind one of a hidden tier or shadow bank, are poisoned (the numbers of those buses: log entry 96; which lines stood behind the bus:
log entry 64). That ADDR of a struck register or group is the PC of the entry that holds the lowest struck lane, and that a parity discard
counts towards %reentry, is the model's choice (log entry 65). -/
def Obligations.SoftErrors : Prop :=
  (∀ (s : State) (unit : ErrUnit) (addr : Nat),
    ((∀ e ∈ s.aon.corrected, e.1 = unit → e.2.1 + 65536 ≤ s.now .alwaysOn) → ∃ t : State,
      exec (.correctedError unit addr) s = .next t ∧ t.aon.eseq = s.aon.eseq + 1 ∧ (unit, s.now .alwaysOn, s.aon.eseq) ∈ t.aon.corrected ∧
      (s.aon.dump = none → t.aon.ring = ringPush s.aon.ring ⟨s.aon.eseq, 2, (unitCode unit).2.2, noCtx, errDetail unit addr⟩)) ∧
    (∀ c q rest, s.aon.corrected = (unit, c, q) :: rest → s.now .alwaysOn < c + 65536 → ∃ t : State,
      exec (.correctedError unit addr) s = .next t ∧ t.aon.eseq = s.aon.eseq ∧
      t.aon.ring = s.aon.ring.map (fun e => if e.eseq = q then { e with detail := e.detail + 2 ^ 64 } else e))) ∧
  let detail := fun (cls unit addr : Nat) => addr % 2 ^ 40 + 2 ^ 40 * (unit % 2 ^ 16) + 2 ^ 56 * cls
  let told := fun (s t : State) (d : Nat) => ∃ e ∈ t.aon.ring ++ t.aon.second, e.eseq = s.aon.eseq ∧ e.code = 3 ∧ e.detail = d
  (∀ (unit : ErrUnit) (addr : Nat), errDetail unit addr = detail (unitCode unit).1 (unitCode unit).2.1 addr) ∧
  (∀ (s : State) (gid : Nat) (g : Group), KMap.find? s.groups gid = some g →
    let core := s.coreOf gid
    let strikes := fun (i : Instr) (pc d : Nat) => ∃ t : State, exec i s = .next t ∧ (t.ctx g.ctx).st = .stopped ∧ told s t d ∧
      ∃ f, (t.ctx g.ctx).fault = some f ∧ f.cause = 11 ∧ f.addr = pc
    (∀ reg lanes, reg < g.regs → lanes ≠ 0 → (s.ctx g.ctx).st = .active →
      strikes (.registerEccError gid reg lanes) (g.pcOf lanes)
        (detail (if (s.core core).running ≠ some g.ctx then 3 else if g.active then 1 else 2) core reg) ∧
      ∀ t, exec (.registerEccError gid reg lanes) s = .next t → ∀ l, lanes.getLsbD l = true →
        (KMap.getD (t.grp gid).vpoison 0 reg).getLsbD l = true) ∧
    (g.sealed ≠ 0 → (s.ctx g.ctx).st = .active →
      strikes (.groupStateParityError gid) (g.pcOf g.sealed) (detail 4 core g.num)) ∧
    (g.sealed = 0 → exec (.groupStateParityError gid) s =
      .next (((s.log 3 core g.ctx (detail 4 core g.num)).discardGroup gid true).settle gid)) ∧
    exec (.pipelineError gid) s = .next (((s.log 3 core g.ctx (detail 13 core g.num)).discardGroup gid true).settle gid)) ∧
  (∀ (s : State) (team : Nat) (u : Team), KMap.find? s.teams team = some u →
    (∀ i, ∃ t : State, exec (.memoryEccError (.tile team i)) s = .next t ∧ (KMap.getD (t.team team).tiles {} i).poisoned = true ∧
      (KMap.getD (t.team team).tiles {} i).bytes = (KMap.getD u.tiles {} i).bytes ∧ told s t (detail 5 u.core i)) ∧
    (∀ r row, ∃ t : State, exec (.memoryEccError (.regionRow team r row)) s = .next t ∧ 128 * r + row ∈ (t.team team).badRows ∧
      told s t (detail 6 u.core (128 * r + row))) ∧
    (∀ line, ∃ t : State, exec (.memoryEccError (.scratchLine team line)) s = .next t ∧ line ∈ (t.team team).badLines ∧
      told s t (detail 7 u.core (64 * line)))) ∧
  (∀ (s : State) (line ia k : Nat), dramKey (64 * line) = some k →
    (∃ s1 : State, exec (.memoryEccError (.dramLine line)) s =
        .next (s1.log 3 noCore16 noCtx (detail 10 (64 * line / 2 ^ 37) (64 * line % 2 ^ 37))) ∧
      s1.spoiled k = true ∧ (∀ p ∈ s.poison, p ∈ s1.poison) ∧ s1.mem = s.mem) ∧
    ∃ s1 : State, exec (.memoryEccError (.l2Line line ia)) s =
        .next (s1.log 3 noCore16 noCtx (detail 8 (48 * (64 * line / 2 ^ 38) + ia % 48) (64 * ia))) ∧
      s1.spoiled k = true ∧ (k / 64, ia) ∈ s1.l2bad ∧ (∀ p ∈ s.l2bad, p ∈ s1.l2bad) ∧ s1.poison = s.poison ∧ s1.mem = s.mem) ∧
  (∀ (s : State) (bus gid : Nat) (g : Group), bus < 2304 → bus ∉ s.stk.retired → KMap.find? s.groups gid = some g →
    ((∃ b ∈ g.beats, b.bus = bus) →
      exec (.burstCheckFail bus [gid] .transient) s = .next (((s.discardGroup gid true).settle gid).log 13 noCore16 noCtx bus)) ∧
    ((∀ b ∈ g.beats, b.bus ≠ bus) → exec (.burstCheckFail bus [gid] .transient) s = .next (s.log 13 noCore16 noCtx bus))) ∧
  (∀ (s : State) (bus : Nat) (groups : List Nat) (lost : List ErrTarget), bus < 2304 → bus ∉ s.stk.retired →
    (KMap.getD s.stk.spares 0 bus < 8 → ∃ t : State, exec (.burstCheckFail bus groups .spare) s = .next t ∧
      KMap.getD t.stk.spares 0 bus = KMap.getD s.stk.spares 0 bus + 1 ∧ t.stk.retired = s.stk.retired) ∧
    (KMap.getD s.stk.spares 0 bus = 8 → ∃ t : State,
      exec (.burstCheckFail bus groups (.retire lost)) s = .next (t.log 7 noCore16 noCtx bus) ∧
      t.stk.retired = s.stk.retired ++ [bus] ∧
      let lineLost := fun (line ia : Nat) => ErrTarget.l2Line line ia ∈ lost ∧ 48 * (64 * line / 2 ^ 37 / 2) + ia % 48 = bus / 4 ∧
        (line, ia) ∈ s.l2dirty ∧ line ∉ s.accepted
      (bus < 1536 →
        (∀ line ia k, lineLost line ia → dramKey (64 * line) = some k → t.spoiled k = true ∧ (line, ia) ∉ t.l2dirty) ∧
        (∀ n ∈ t.poison, n ∈ s.poison ∨ ∃ line ia k, lineLost line ia ∧ dramKey (64 * line) = some k ∧ n = k / 64) ∧
        (∀ team line u, ErrTarget.scratchLine team line ∈ lost → KMap.find? s.teams team = some u → u.core = bus / 4 →
          1048576 ≤ 64 * line → 64 * line < u.extent → memKey (spTeam team) (64 * line) / 64 ∉ s.accepted →
          line ∈ (t.team team).badLines)) ∧
      (1536 ≤ bus → groups = [] → (∀ n ∈ t.poison, n ∈ s.poison) ∧ ∀ gid g, KMap.find? s.groups gid = some g → g.ended = false →
        (s.regUnit gid = .hidden (s.coreOf gid) ∧ bus = 1536 + 2 * s.coreOf gid ∨
          s.regUnit gid = .shadow (s.coreOf gid) ∧ bus = 1536 + 2 * s.coreOf gid + 1) →
        ∀ reg l, reg < g.regs → l < 64 → (KMap.getD (t.grp gid).vpoison 0 reg).getLsbD l = true)))

/-- R436 to R438, R374: a link trains, exchanges identities and comes up; the 16th CRC failure of a flit in a row, or a reset, takes it
down (a flit that gets through ends the row), and then the generation of every peer whose route names it advances by 1, and of no
other. A write to the peer that was not acknowledged is then settled: its bytes have landed whole, or not at all, and an earlier write that
it keeps its order with has landed before it (R302); which of the two is a free value (log entry 79). A committed store that was not yet sent
does not land, and counts too; and an access of a group to the peer that is still in flight ends in REMOTE_UNREACHABLE. -/
def Obligations.LinkStates : Prop :=
  let loses := fun (s : State) (link : Nat) (i : Instr) => ∃ t : State, exec i s = .next t ∧ (t.link link).st = .down ∧
    (∀ l, l ≠ link → t.link l = s.link l) ∧
    (∀ p m, s.routes.filter (fun e => e.1 == p) = [(p, m)] → m.testBit link = true →
      KMap.getD t.xl.peerGen 0 p = (KMap.getD s.xl.peerGen 0 p + 1) % 2 ^ 16 ∧
      ((∀ e ∈ s.cmds, ∀ b ∈ e.2.staged, spaceOf b.loc.key ≠ spPeer p) → ∀ e ∈ t.peerWrites, e.2.peer ≠ p) ∧
      ∀ e ∈ t.commits, ∀ c ∈ e.2, ∀ b ∈ c.place.bytes, spaceOf b.loc.key ≠ spPeer p) ∧
    (∀ p, (∀ e ∈ s.routes, e.1 = p → e.2.testBit link = false) → KMap.getD t.xl.peerGen 0 p = KMap.getD s.xl.peerGen 0 p)
  (∀ (s : State) (link : Nat), link < 24 → (s.link link).st = .up →
    loses s link (.linkDown link) ∧
    (15 ≤ (s.link link).fails → loses s link (.linkCrcFail link)) ∧
    ((s.link link).fails < 15 → ∃ t : State, exec (.linkCrcFail link) s = .next t ∧
      t.link link = { s.link link with fails := (s.link link).fails + 1 } ∧ t.xl = s.xl) ∧
    ((s.flitPasses link).link link = { s.link link with fails := 0 } ∧ ∀ l, l ≠ link → (s.flitPasses link).link l = s.link l)) ∧
  (∀ (s : State) (peer k : Nat) (w : PeerWrite), s.peerWrites = [(k, w)] → w.peer = peer → ∃ landed : Bool,
    let t := s.loseWrites peer
    t.peerWrites = [] ∧ (t.ctx w.ctx).unknown = min ((s.ctx w.ctx).unknown + 1) (2 ^ 32 - 1) ∧ t.tick = s.tick + 1 ∧
    (landed = false → t.mem = s.mem) ∧ (landed = true → t.mem = (s.landPeer w).mem)) ∧
  (∀ (s : State) (peer k1 k2 : Nat) (w1 w2 : PeerWrite), s.peerWrites = [(k1, w1), (k2, w2)] → k1 < k2 → w1.peer = peer → w2.peer = peer →
    w1.ordered w2 = true → let t := s.loseWrites peer
    t.peerWrites = [] ∧
      (t.mem = s.mem ∨ t.mem = (s.landPeer w1).mem ∨ t.mem = ((s.landPeer w1).landPeer w2).mem)) ∧
  (∀ (s : State) (peer : Nat), let t := s.loseCommits peer
    (∀ core, (t.fifo core).map (fun c => (c.gid, c.place.pc, c.place.bytes)) = (s.fifo core).map (fun c =>
      (c.gid, c.place.pc, c.place.bytes.filter (fun b => spaceOf b.loc.key != spPeer peer)))) ∧
    t.mem = s.mem ∧ t.peerWrites = s.peerWrites ∧ ∀ ctx, (t.ctx ctx).unknown ≤ 2 ^ 32 - 1 ∨ (t.ctx ctx) = s.ctx ctx) ∧
  (∀ (s : State) (peer core ctx : Nat) (c : Commit) (b : SByte), s.commits = [(core, [c])] → c.ctx = ctx → c.place.bytes = [b] →
    spaceOf b.loc.key = spPeer peer → KMap.find? s.ctxs ctx ≠ none →
    ((s.loseCommits peer).ctx ctx).unknown = min ((s.ctx ctx).unknown + 1) (2 ^ 32 - 1)) ∧
  (∀ (s : State) (gid peer : Nat), let ctx := (s.grp gid).ctx
    let cut := fun (p : Loc) => spaceOf p.key = spPeer peer ∧ s.cutOff ctx peer p = true
    ((∀ e ∈ s.opsOf gid, ∀ p ∈ e.2.kind.places, ¬ cut p) → (∀ q ∈ (s.grp gid).buffer, ∀ b ∈ q.bytes, ¬ cut b.loc) →
      s.cutGroup peer gid = s) ∧
    (((∃ e ∈ s.opsOf gid, ∃ p ∈ e.2.kind.places, cut p) ∨ ∃ q ∈ (s.grp gid).buffer, ∃ b ∈ q.bytes, cut b.loc) → (s.ctx ctx).st = .active →
      ((s.cutGroup peer gid).ctx ctx).st = .stopped ∧ ∃ f, ((s.cutGroup peer gid).ctx ctx).fault = some f ∧ f.cause = 9)) ∧
  (∀ (s : State) (ctx peer : Nat) (p : Loc), spaceOf p.key = spPeer peer → s.peerUp peer p.ia = false → s.cutOff ctx peer p = true) ∧
  (∀ (s : State) (link : Nat), link < 24 → (s.link link).st = .down → 5 ≤ s.ident.devState → s.ident.fail = false → ∃ t : State,
    exec (.linkTrainStart link) s = .next t ∧ (t.link link).st = .train ∧ s.aon.eseq < t.aon.eseq) ∧
  (∀ (s : State) (link : Nat), (s.link link).st = .train →
    (∀ n, n = 8 ∨ n = 4 → ∃ t : State, exec (.linkTrainResult link (some n)) s = .next t ∧ (t.link link).st = .ident ∧
      (t.link link).width = n) ∧
    ∃ t : State, exec (.linkTrainResult link none) s = .next t ∧ (t.link link).st = .down) ∧
  (∀ (s : State) (link peer : Nat) (id : List Byte), (s.link link).st = .ident → peer < 32 → id.length = 32 → ∃ t : State,
    exec (.linkIdentComplete link peer id) s = .next t ∧ (t.link link).st = .up ∧ (t.link link).peerLink = peer ∧
    (t.link link).peerId = id ∧ (t.link link).width = (s.link link).width ∧ (t.link link).fails = 0)

/-- R401, R402, R439, R440: a device reset ends every context, and leaves a quarantined one to be scrubbed; the always-on block's
counters, the repair map, the flash and, without a loss of power, DRAM stay, but for the dirty lines of the L2 and the stash, which are
dropped: which older bytes stand there then the spec leaves open (log entry 24). Bring-up goes step by step; a step that fails sets FAIL
and DEV_FAIL, and in steps 1 to 3 leaves the host with a few registers. After a failure of both host links both are tried again, every
2^24 cycles. -/
def Obligations.ResetAndBringUp : Prop :=
  (∀ (s : State) (powerOn : Bool), ∃ t : State, exec (.deviceReset powerOn) s = .next t ∧
    (t.groups = [] ∧ t.teams = [] ∧ t.phases = [] ∧ t.ops = [] ∧ t.cmds = [] ∧ t.links = [] ∧ t.ident = {} ∧ t.cycle = 0) ∧
    (∀ c q, KMap.find? s.aon.quarantine c = some q → t.ctx c = { st := .scrubbing } ∧
      KMap.find? t.aon.quarantine c = some { q with done := 0 }) ∧
    (∀ c, KMap.find? s.aon.quarantine c = none → t.ctx c = {} ∧ KMap.find? t.aon.quarantine c = none) ∧
    (t.aon.seq = s.aon.seq ∧ t.aon.dump = none ∧ s.aon.eseq ≤ t.aon.eseq) ∧
    (t.stk.spares = s.stk.spares ∧ t.stk.retired = s.stk.retired ∧ t.stk.wear = s.stk.wear ∧ t.stk.blockMap = s.stk.blockMap ∧
      t.stk.flashRetired = s.stk.flashRetired ∧ t.stk.ways = 0 ∧ t.stk.stageSize = 0) ∧
    (∀ k, spaceOf k = spFlash → t.mem.get k = s.mem.get k) ∧
    (∀ k, spaceOf k = spDram → powerOn = true → t.mem.get k = 0) ∧
    (∀ k, spaceOf k = spDram → powerOn = false →
      (∀ l ∈ s.loseAll.l2dirty.map (·.1) ++ s.loseAll.dirtyStash, ∀ k0, dramKey (64 * l) = some k0 → k / 64 ≠ k0 / 64) → t.mem.get k = s.mem.get k) ∧
    (∀ k, 65536 ≤ spaceOf k → t.mem.get k = 0)) ∧
  (∀ (s : State), s.ident.fail = false → s.ident.devState < 6 → ∃ t : State, exec (.bringupStep none) s = .next t ∧
    t.ident = { s.ident with devState := s.ident.devState + 1 } ∧ t.mem = s.mem ∧
    (s.ident.devState = 1 → t.aon.eseq = s.aon.eseq + 1) ∧
    (s.ident.devState = 2 → (t.cc.scrubActive = true ↔ s.aon.quarantine ≠ [])) ∧
    (s.ident.devState = 4 → t.hw.up0 = true ∧ t.hw.up1 = true)) ∧
  (∀ (s : State) (cls unit : Nat), s.ident.fail = false → 0 < s.ident.devState → s.ident.devState < 6 → ∃ t : State,
    exec (.bringupStep (some (cls, unit))) s = .next t ∧ t.ident.fail = true ∧ t.ident.devState = s.ident.devState ∧
    t.ident.devFail = s.ident.devState + 2 ^ 8 * (cls % 256) + 2 ^ 16 * (unit % 2 ^ 16) ∧
    (t.ident.limited = true ↔ s.ident.devState ≤ 3) ∧
    t.aon.eseq = s.aon.eseq + (if s.ident.devState = 1 then 0 else 1)) ∧
  (∀ (s : State) (link other : Nat) (trained again : Bool), s.ident.fail = true → s.ident.devState = 4 → s.hw.up0 = false →
    s.hw.up1 = false → s.hw.tried = [] → link < 2 → other < 2 → other ≠ link →
    (s.now .host < s.hw.retrySince + 2 ^ 24 → exec (.hostLinkRetry link trained) s = .next s) ∧
    (s.hw.retrySince + 2 ^ 24 ≤ s.now .host → ∃ t : State, exec (.hostLinkRetry link trained) s = .next t ∧
      (t.hw.up0 = true ↔ trained = true ∧ link = 0) ∧ (t.hw.up1 = true ↔ trained = true ∧ link = 1) ∧
      exec (.hostLinkRetry link again) t = .next t ∧ ∃ u : State, exec (.hostLinkRetry other again) t = .next u ∧
      (u.hw.up0 = true ↔ (trained = true ∧ link = 0) ∨ (again = true ∧ other = 0)) ∧
      (u.hw.up1 = true ↔ (trained = true ∧ link = 1) ∨ (again = true ∧ other = 1)) ∧
      u.hw.tried = [] ∧ u.hw.retrySince = s.now .host)) ∧
  (∀ (s : State) (unit : Nat), s.ident.fail = true → s.ident.devState = 4 → ∃ t : State,
    exec (.bringupStep (some (5, unit))) s = .next t ∧ t.hw.up0 = (s.hw.up0 && unit != 0) ∧ t.hw.up1 = (s.hw.up1 && unit != 1) ∧
    t.ident = s.ident)

/-! ### What every step keeps -/

/-- R4 and log entry 7: memory keeps its canonical form: keys strictly rising, and no entry equal to what an unlisted byte reads as.
Memory at reset has it, and every step that answers a next state keeps it, whichever turn the agenda names. -/
def Obligations.MemoryKept : Prop := State.reset.mem.wf ∧ ∀ s t : State, s.mem.wf → step s = .next t → t.mem.wf
end

