-- ==== Sys2Proof/Laws/Sparse.lean ====
section
/-! SUPPORT. What the sparse stores do: a read after a write, and the canonical form each write keeps. -/

namespace Sys2Proof.KMap

variable {α : Type}

@[simp] theorem find?_nil (k : Nat) : find? ([] : KMap α) k = none := rfl

theorem find?_insert (m : KMap α) (k j : Nat) (v : α) :
    find? (insert m k v) j = if k = j then some v else find? m j := by
  induction m with
  | nil => simp [insert, find?]
  | cons e m ih =>
    obtain ⟨i, w⟩ := e
    simp only [insert]
    split
    · simp [find?]
    · split
      · next hik =>
        subst hik
        by_cases h : i = j <;> simp [find?, h]
      · by_cases h : i = j
        · subst h
          have hk : k ≠ i := fun hk => by simp_all
          simp [find?, hk]
        · simp [find?, h, ih]

theorem find?_erase (m : KMap α) (k j : Nat) :
    find? (erase m k) j = if k = j then none else find? m j := by
  unfold erase
  induction m with
  | nil => simp
  | cons e m ih =>
    obtain ⟨i, w⟩ := e
    by_cases hi : i = k
    · subst hi
      simp only [List.filter_cons]
      simp [ih, find?]
      split <;> simp_all
    · simp only [List.filter_cons]
      simp [hi, find?, ih]
      by_cases hj : i = j
      · subst hj; simp [Ne.symm hi]
      · simp [hj]

@[simp] theorem find?_insert_self (m : KMap α) (k : Nat) (v : α) : find? (insert m k v) k = some v := by
  simp [find?_insert]

theorem find?_insert_ne (m : KMap α) {k j : Nat} (v : α) (h : k ≠ j) :
    find? (insert m k v) j = find? m j := by
  simp [find?_insert, h]

theorem getD_setD [DecidableEq α] (m : KMap α) (d v : α) (k j : Nat) :
    getD (setD m d k v) d j = if k = j then v else getD m d j := by
  unfold setD getD
  by_cases hv : v = d
  · simp only [hv, if_true, find?_erase]
    split <;> simp
  · simp only [hv, if_false, find?_insert]
    split <;> simp

@[simp] theorem getD_setD_self [DecidableEq α] (m : KMap α) (d v : α) (k : Nat) :
    getD (setD m d k v) d k = v := by
  simp [getD_setD]

theorem getD_setD_ne [DecidableEq α] (m : KMap α) (d v : α) {k j : Nat} (h : k ≠ j) :
    getD (setD m d k v) d j = getD m d j := by
  simp [getD_setD, h]

theorem find?_modify (m : KMap α) (k j : Nat) (f : α → α) :
    find? (modify m k f) j = if k = j then (find? m j).map f else find? m j := by
  unfold modify
  split
  · next v hv =>
    rw [find?_insert]
    split
    · next h => subst h; simp [hv]
    · rfl
  · next hv =>
    split
    · next h => subst h; simp [hv]
    · rfl

theorem sortedFrom_mono {b c : Nat} (h : c ≤ b) (m : KMap α) (hs : sortedFrom b m = true) :
    sortedFrom c m = true := by
  cases m with
  | nil => rfl
  | cons e m =>
    obtain ⟨i, w⟩ := e
    simp only [sortedFrom, Bool.and_eq_true, decide_eq_true_eq] at hs ⊢
    exact ⟨Nat.le_trans h hs.1, hs.2⟩

theorem sortedFrom_insert (m : KMap α) (b k : Nat) (v : α) (hk : b ≤ k) (hs : sortedFrom b m = true) :
    sortedFrom b (insert m k v) = true := by
  induction m generalizing b with
  | nil => simp [insert, sortedFrom, hk]
  | cons e m ih =>
    obtain ⟨i, w⟩ := e
    simp only [sortedFrom, Bool.and_eq_true, decide_eq_true_eq] at hs
    simp only [insert]
    split
    · next h =>
      simp only [sortedFrom, Bool.and_eq_true, decide_eq_true_eq]
      exact ⟨hk, h, hs.2⟩
    · split
      · next h =>
        subst h
        simp only [sortedFrom, Bool.and_eq_true, decide_eq_true_eq]
        exact ⟨hs.1, hs.2⟩
      · simp only [sortedFrom, Bool.and_eq_true, decide_eq_true_eq]
        exact ⟨hs.1, ih (i + 1) (by omega) hs.2⟩

theorem sortedFrom_filter (m : KMap α) (b : Nat) (p : Nat × α → Bool) (hs : sortedFrom b m = true) :
    sortedFrom b (m.filter p) = true := by
  induction m generalizing b with
  | nil => rfl
  | cons e m ih =>
    obtain ⟨i, w⟩ := e
    simp only [sortedFrom, Bool.and_eq_true, decide_eq_true_eq] at hs
    simp only [List.filter_cons]
    split
    · simp only [sortedFrom, Bool.and_eq_true, decide_eq_true_eq]
      exact ⟨hs.1, ih _ hs.2⟩
    · exact sortedFrom_mono (by omega) _ (ih _ hs.2)

theorem all_insert (m : KMap α) (k : Nat) (v : α) (p : Nat × α → Bool)
    (hm : m.all p = true) (hv : p (k, v) = true) : (insert m k v).all p = true := by
  induction m with
  | nil => simp [insert, hv]
  | cons e m ih =>
    obtain ⟨i, w⟩ := e
    simp only [List.all_cons, Bool.and_eq_true] at hm
    simp only [insert]
    split
    · simp [List.all_cons, hv, hm]
    · split
      · simp [List.all_cons, hv, hm]
      · simp [List.all_cons, hm.1, ih hm.2]

/-- Storing through `setD` keeps the canonical form. -/
theorem canonical_setD [DecidableEq α] (m : KMap α) (d v : α) (k : Nat) (hm : canonical d m = true) :
    canonical d (setD m d k v) = true := by
  unfold canonical at hm ⊢
  simp only [Bool.and_eq_true] at hm ⊢
  unfold setD
  split
  · refine ⟨sortedFrom_filter _ _ _ hm.1, ?_⟩
    simp only [erase, List.all_eq_true, List.mem_filter] at hm ⊢
    intro e he
    exact hm.2 e he.1
  · next h => exact ⟨sortedFrom_insert _ _ _ _ (Nat.zero_le _) hm.1, all_insert _ _ _ _ hm.2 (by simpa using h)⟩

end Sys2Proof.KMap
end

