-- ==== Sys2Proof/Laws/State.lean ====
section
/-! SUPPORT. What each named update of the state and of a group leaves alone: one equation a field, true by the definition. -/

namespace Sys2Proof.Machine

/-! ### Updates of the state -/

@[simp] theorem State.setGrp_agenda (s : State) (g : Nat) (x : Group) : (s.setGrp g x).agenda = s.agenda := rfl
@[simp] theorem State.setGrp_focus (s : State) (g : Nat) (x : Group) : (s.setGrp g x).focus = s.focus := rfl
@[simp] theorem State.setGrp_tick (s : State) (g : Nat) (x : Group) : (s.setGrp g x).tick = s.tick := rfl
@[simp] theorem State.setGrp_cycle (s : State) (g : Nat) (x : Group) : (s.setGrp g x).cycle = s.cycle := rfl
@[simp] theorem State.setGrp_timers (s : State) (g : Nat) (x : Group) : (s.setGrp g x).timers = s.timers := rfl
@[simp] theorem State.setGrp_mem (s : State) (g : Nat) (x : Group) : (s.setGrp g x).mem = s.mem := rfl
@[simp] theorem State.setGrp_poison (s : State) (g : Nat) (x : Group) : (s.setGrp g x).poison = s.poison := rfl
@[simp] theorem State.setGrp_l2bad (s : State) (g : Nat) (x : Group) : (s.setGrp g x).l2bad = s.l2bad := rfl
@[simp] theorem State.setGrp_l2dirty (s : State) (g : Nat) (x : Group) : (s.setGrp g x).l2dirty = s.l2dirty := rfl
@[simp] theorem State.setGrp_accepted (s : State) (g : Nat) (x : Group) : (s.setGrp g x).accepted = s.accepted := rfl
@[simp] theorem State.setGrp_teams (s : State) (g : Nat) (x : Group) : (s.setGrp g x).teams = s.teams := rfl
@[simp] theorem State.setGrp_phases (s : State) (g : Nat) (x : Group) : (s.setGrp g x).phases = s.phases := rfl
@[simp] theorem State.setGrp_ops (s : State) (g : Nat) (x : Group) : (s.setGrp g x).ops = s.ops := rfl
@[simp] theorem State.setGrp_cmds (s : State) (g : Nat) (x : Group) : (s.setGrp g x).cmds = s.cmds := rfl
@[simp] theorem State.setGrp_copies (s : State) (g : Nat) (x : Group) : (s.setGrp g x).copies = s.copies := rfl
@[simp] theorem State.setGrp_units (s : State) (g : Nat) (x : Group) : (s.setGrp g x).units = s.units := rfl
@[simp] theorem State.setGrp_commits (s : State) (g : Nat) (x : Group) : (s.setGrp g x).commits = s.commits := rfl
@[simp] theorem State.setGrp_peerWrites (s : State) (g : Nat) (x : Group) : (s.setGrp g x).peerWrites = s.peerWrites := rfl
@[simp] theorem State.setGrp_service (s : State) (g : Nat) (x : Group) : (s.setGrp g x).service = s.service := rfl
@[simp] theorem State.setGrp_cores (s : State) (g : Nat) (x : Group) : (s.setGrp g x).cores = s.cores := rfl
@[simp] theorem State.setGrp_ctxs (s : State) (g : Nat) (x : Group) : (s.setGrp g x).ctxs = s.ctxs := rfl
@[simp] theorem State.setGrp_codes (s : State) (g : Nat) (x : Group) : (s.setGrp g x).codes = s.codes := rfl
@[simp] theorem State.setGrp_fc (s : State) (g : Nat) (x : Group) : (s.setGrp g x).fc = s.fc := rfl
@[simp] theorem State.setGrp_xl (s : State) (g : Nat) (x : Group) : (s.setGrp g x).xl = s.xl := rfl
@[simp] theorem State.setGrp_cc (s : State) (g : Nat) (x : Group) : (s.setGrp g x).cc = s.cc := rfl
@[simp] theorem State.setGrp_stk (s : State) (g : Nat) (x : Group) : (s.setGrp g x).stk = s.stk := rfl
@[simp] theorem State.setGrp_pwr (s : State) (g : Nat) (x : Group) : (s.setGrp g x).pwr = s.pwr := rfl
@[simp] theorem State.setGrp_aon (s : State) (g : Nat) (x : Group) : (s.setGrp g x).aon = s.aon := rfl
@[simp] theorem State.setGrp_nr (s : State) (g : Nat) (x : Group) : (s.setGrp g x).nr = s.nr := rfl
@[simp] theorem State.setGrp_hw (s : State) (g : Nat) (x : Group) : (s.setGrp g x).hw = s.hw := rfl
@[simp] theorem State.setGrp_links (s : State) (g : Nat) (x : Group) : (s.setGrp g x).links = s.links := rfl
@[simp] theorem State.setGrp_routes (s : State) (g : Nat) (x : Group) : (s.setGrp g x).routes = s.routes := rfl
@[simp] theorem State.setGrp_ident (s : State) (g : Nat) (x : Group) : (s.setGrp g x).ident = s.ident := rfl

@[simp] theorem State.modGrp_agenda (s : State) (g : Nat) (f : Group → Group) : (s.modGrp g f).agenda = s.agenda := rfl
@[simp] theorem State.modGrp_focus (s : State) (g : Nat) (f : Group → Group) : (s.modGrp g f).focus = s.focus := rfl
@[simp] theorem State.modGrp_tick (s : State) (g : Nat) (f : Group → Group) : (s.modGrp g f).tick = s.tick := rfl
@[simp] theorem State.modGrp_cycle (s : State) (g : Nat) (f : Group → Group) : (s.modGrp g f).cycle = s.cycle := rfl
@[simp] theorem State.modGrp_timers (s : State) (g : Nat) (f : Group → Group) : (s.modGrp g f).timers = s.timers := rfl
@[simp] theorem State.modGrp_mem (s : State) (g : Nat) (f : Group → Group) : (s.modGrp g f).mem = s.mem := rfl
@[simp] theorem State.modGrp_poison (s : State) (g : Nat) (f : Group → Group) : (s.modGrp g f).poison = s.poison := rfl
@[simp] theorem State.modGrp_l2bad (s : State) (g : Nat) (f : Group → Group) : (s.modGrp g f).l2bad = s.l2bad := rfl
@[simp] theorem State.modGrp_l2dirty (s : State) (g : Nat) (f : Group → Group) : (s.modGrp g f).l2dirty = s.l2dirty := rfl
@[simp] theorem State.modGrp_accepted (s : State) (g : Nat) (f : Group → Group) : (s.modGrp g f).accepted = s.accepted := rfl
@[simp] theorem State.modGrp_teams (s : State) (g : Nat) (f : Group → Group) : (s.modGrp g f).teams = s.teams := rfl
@[simp] theorem State.modGrp_phases (s : State) (g : Nat) (f : Group → Group) : (s.modGrp g f).phases = s.phases := rfl
@[simp] theorem State.modGrp_ops (s : State) (g : Nat) (f : Group → Group) : (s.modGrp g f).ops = s.ops := rfl
@[simp] theorem State.modGrp_cmds (s : State) (g : Nat) (f : Group → Group) : (s.modGrp g f).cmds = s.cmds := rfl
@[simp] theorem State.modGrp_copies (s : State) (g : Nat) (f : Group → Group) : (s.modGrp g f).copies = s.copies := rfl
@[simp] theorem State.modGrp_units (s : State) (g : Nat) (f : Group → Group) : (s.modGrp g f).units = s.units := rfl
@[simp] theorem State.modGrp_commits (s : State) (g : Nat) (f : Group → Group) : (s.modGrp g f).commits = s.commits := rfl
@[simp] theorem State.modGrp_peerWrites (s : State) (g : Nat) (f : Group → Group) : (s.modGrp g f).peerWrites = s.peerWrites := rfl
@[simp] theorem State.modGrp_service (s : State) (g : Nat) (f : Group → Group) : (s.modGrp g f).service = s.service := rfl
@[simp] theorem State.modGrp_cores (s : State) (g : Nat) (f : Group → Group) : (s.modGrp g f).cores = s.cores := rfl
@[simp] theorem State.modGrp_ctxs (s : State) (g : Nat) (f : Group → Group) : (s.modGrp g f).ctxs = s.ctxs := rfl
@[simp] theorem State.modGrp_codes (s : State) (g : Nat) (f : Group → Group) : (s.modGrp g f).codes = s.codes := rfl
@[simp] theorem State.modGrp_fc (s : State) (g : Nat) (f : Group → Group) : (s.modGrp g f).fc = s.fc := rfl
@[simp] theorem State.modGrp_xl (s : State) (g : Nat) (f : Group → Group) : (s.modGrp g f).xl = s.xl := rfl
@[simp] theorem State.modGrp_cc (s : State) (g : Nat) (f : Group → Group) : (s.modGrp g f).cc = s.cc := rfl
@[simp] theorem State.modGrp_stk (s : State) (g : Nat) (f : Group → Group) : (s.modGrp g f).stk = s.stk := rfl
@[simp] theorem State.modGrp_pwr (s : State) (g : Nat) (f : Group → Group) : (s.modGrp g f).pwr = s.pwr := rfl
@[simp] theorem State.modGrp_aon (s : State) (g : Nat) (f : Group → Group) : (s.modGrp g f).aon = s.aon := rfl
@[simp] theorem State.modGrp_nr (s : State) (g : Nat) (f : Group → Group) : (s.modGrp g f).nr = s.nr := rfl
@[simp] theorem State.modGrp_hw (s : State) (g : Nat) (f : Group → Group) : (s.modGrp g f).hw = s.hw := rfl
@[simp] theorem State.modGrp_links (s : State) (g : Nat) (f : Group → Group) : (s.modGrp g f).links = s.links := rfl
@[simp] theorem State.modGrp_routes (s : State) (g : Nat) (f : Group → Group) : (s.modGrp g f).routes = s.routes := rfl
@[simp] theorem State.modGrp_ident (s : State) (g : Nat) (f : Group → Group) : (s.modGrp g f).ident = s.ident := rfl

@[simp] theorem State.setTeam_agenda (s : State) (t : Nat) (x : Team) : (s.setTeam t x).agenda = s.agenda := rfl
@[simp] theorem State.setTeam_focus (s : State) (t : Nat) (x : Team) : (s.setTeam t x).focus = s.focus := rfl
@[simp] theorem State.setTeam_tick (s : State) (t : Nat) (x : Team) : (s.setTeam t x).tick = s.tick := rfl
@[simp] theorem State.setTeam_cycle (s : State) (t : Nat) (x : Team) : (s.setTeam t x).cycle = s.cycle := rfl
@[simp] theorem State.setTeam_timers (s : State) (t : Nat) (x : Team) : (s.setTeam t x).timers = s.timers := rfl
@[simp] theorem State.setTeam_mem (s : State) (t : Nat) (x : Team) : (s.setTeam t x).mem = s.mem := rfl
@[simp] theorem State.setTeam_poison (s : State) (t : Nat) (x : Team) : (s.setTeam t x).poison = s.poison := rfl
@[simp] theorem State.setTeam_l2bad (s : State) (t : Nat) (x : Team) : (s.setTeam t x).l2bad = s.l2bad := rfl
@[simp] theorem State.setTeam_l2dirty (s : State) (t : Nat) (x : Team) : (s.setTeam t x).l2dirty = s.l2dirty := rfl
@[simp] theorem State.setTeam_accepted (s : State) (t : Nat) (x : Team) : (s.setTeam t x).accepted = s.accepted := rfl
@[simp] theorem State.setTeam_groups (s : State) (t : Nat) (x : Team) : (s.setTeam t x).groups = s.groups := rfl
@[simp] theorem State.setTeam_phases (s : State) (t : Nat) (x : Team) : (s.setTeam t x).phases = s.phases := rfl
@[simp] theorem State.setTeam_ops (s : State) (t : Nat) (x : Team) : (s.setTeam t x).ops = s.ops := rfl
@[simp] theorem State.setTeam_cmds (s : State) (t : Nat) (x : Team) : (s.setTeam t x).cmds = s.cmds := rfl
@[simp] theorem State.setTeam_copies (s : State) (t : Nat) (x : Team) : (s.setTeam t x).copies = s.copies := rfl
@[simp] theorem State.setTeam_units (s : State) (t : Nat) (x : Team) : (s.setTeam t x).units = s.units := rfl
@[simp] theorem State.setTeam_commits (s : State) (t : Nat) (x : Team) : (s.setTeam t x).commits = s.commits := rfl
@[simp] theorem State.setTeam_peerWrites (s : State) (t : Nat) (x : Team) : (s.setTeam t x).peerWrites = s.peerWrites := rfl
@[simp] theorem State.setTeam_service (s : State) (t : Nat) (x : Team) : (s.setTeam t x).service = s.service := rfl
@[simp] theorem State.setTeam_cores (s : State) (t : Nat) (x : Team) : (s.setTeam t x).cores = s.cores := rfl
@[simp] theorem State.setTeam_ctxs (s : State) (t : Nat) (x : Team) : (s.setTeam t x).ctxs = s.ctxs := rfl
@[simp] theorem State.setTeam_codes (s : State) (t : Nat) (x : Team) : (s.setTeam t x).codes = s.codes := rfl
@[simp] theorem State.setTeam_fc (s : State) (t : Nat) (x : Team) : (s.setTeam t x).fc = s.fc := rfl
@[simp] theorem State.setTeam_xl (s : State) (t : Nat) (x : Team) : (s.setTeam t x).xl = s.xl := rfl
@[simp] theorem State.setTeam_cc (s : State) (t : Nat) (x : Team) : (s.setTeam t x).cc = s.cc := rfl
@[simp] theorem State.setTeam_stk (s : State) (t : Nat) (x : Team) : (s.setTeam t x).stk = s.stk := rfl
@[simp] theorem State.setTeam_pwr (s : State) (t : Nat) (x : Team) : (s.setTeam t x).pwr = s.pwr := rfl
@[simp] theorem State.setTeam_aon (s : State) (t : Nat) (x : Team) : (s.setTeam t x).aon = s.aon := rfl
@[simp] theorem State.setTeam_nr (s : State) (t : Nat) (x : Team) : (s.setTeam t x).nr = s.nr := rfl
@[simp] theorem State.setTeam_hw (s : State) (t : Nat) (x : Team) : (s.setTeam t x).hw = s.hw := rfl
@[simp] theorem State.setTeam_links (s : State) (t : Nat) (x : Team) : (s.setTeam t x).links = s.links := rfl
@[simp] theorem State.setTeam_routes (s : State) (t : Nat) (x : Team) : (s.setTeam t x).routes = s.routes := rfl
@[simp] theorem State.setTeam_ident (s : State) (t : Nat) (x : Team) : (s.setTeam t x).ident = s.ident := rfl

@[simp] theorem State.modTeam_agenda (s : State) (t : Nat) (f : Team → Team) : (s.modTeam t f).agenda = s.agenda := rfl
@[simp] theorem State.modTeam_focus (s : State) (t : Nat) (f : Team → Team) : (s.modTeam t f).focus = s.focus := rfl
@[simp] theorem State.modTeam_tick (s : State) (t : Nat) (f : Team → Team) : (s.modTeam t f).tick = s.tick := rfl
@[simp] theorem State.modTeam_cycle (s : State) (t : Nat) (f : Team → Team) : (s.modTeam t f).cycle = s.cycle := rfl
@[simp] theorem State.modTeam_timers (s : State) (t : Nat) (f : Team → Team) : (s.modTeam t f).timers = s.timers := rfl
@[simp] theorem State.modTeam_mem (s : State) (t : Nat) (f : Team → Team) : (s.modTeam t f).mem = s.mem := rfl
@[simp] theorem State.modTeam_poison (s : State) (t : Nat) (f : Team → Team) : (s.modTeam t f).poison = s.poison := rfl
@[simp] theorem State.modTeam_l2bad (s : State) (t : Nat) (f : Team → Team) : (s.modTeam t f).l2bad = s.l2bad := rfl
@[simp] theorem State.modTeam_l2dirty (s : State) (t : Nat) (f : Team → Team) : (s.modTeam t f).l2dirty = s.l2dirty := rfl
@[simp] theorem State.modTeam_accepted (s : State) (t : Nat) (f : Team → Team) : (s.modTeam t f).accepted = s.accepted := rfl
@[simp] theorem State.modTeam_groups (s : State) (t : Nat) (f : Team → Team) : (s.modTeam t f).groups = s.groups := rfl
@[simp] theorem State.modTeam_phases (s : State) (t : Nat) (f : Team → Team) : (s.modTeam t f).phases = s.phases := rfl
@[simp] theorem State.modTeam_ops (s : State) (t : Nat) (f : Team → Team) : (s.modTeam t f).ops = s.ops := rfl
@[simp] theorem State.modTeam_cmds (s : State) (t : Nat) (f : Team → Team) : (s.modTeam t f).cmds = s.cmds := rfl
@[simp] theorem State.modTeam_copies (s : State) (t : Nat) (f : Team → Team) : (s.modTeam t f).copies = s.copies := rfl
@[simp] theorem State.modTeam_units (s : State) (t : Nat) (f : Team → Team) : (s.modTeam t f).units = s.units := rfl
@[simp] theorem State.modTeam_commits (s : State) (t : Nat) (f : Team → Team) : (s.modTeam t f).commits = s.commits := rfl
@[simp] theorem State.modTeam_peerWrites (s : State) (t : Nat) (f : Team → Team) : (s.modTeam t f).peerWrites = s.peerWrites := rfl
@[simp] theorem State.modTeam_service (s : State) (t : Nat) (f : Team → Team) : (s.modTeam t f).service = s.service := rfl
@[simp] theorem State.modTeam_cores (s : State) (t : Nat) (f : Team → Team) : (s.modTeam t f).cores = s.cores := rfl
@[simp] theorem State.modTeam_ctxs (s : State) (t : Nat) (f : Team → Team) : (s.modTeam t f).ctxs = s.ctxs := rfl
@[simp] theorem State.modTeam_codes (s : State) (t : Nat) (f : Team → Team) : (s.modTeam t f).codes = s.codes := rfl
@[simp] theorem State.modTeam_fc (s : State) (t : Nat) (f : Team → Team) : (s.modTeam t f).fc = s.fc := rfl
@[simp] theorem State.modTeam_xl (s : State) (t : Nat) (f : Team → Team) : (s.modTeam t f).xl = s.xl := rfl
@[simp] theorem State.modTeam_cc (s : State) (t : Nat) (f : Team → Team) : (s.modTeam t f).cc = s.cc := rfl
@[simp] theorem State.modTeam_stk (s : State) (t : Nat) (f : Team → Team) : (s.modTeam t f).stk = s.stk := rfl
@[simp] theorem State.modTeam_pwr (s : State) (t : Nat) (f : Team → Team) : (s.modTeam t f).pwr = s.pwr := rfl
@[simp] theorem State.modTeam_aon (s : State) (t : Nat) (f : Team → Team) : (s.modTeam t f).aon = s.aon := rfl
@[simp] theorem State.modTeam_nr (s : State) (t : Nat) (f : Team → Team) : (s.modTeam t f).nr = s.nr := rfl
@[simp] theorem State.modTeam_hw (s : State) (t : Nat) (f : Team → Team) : (s.modTeam t f).hw = s.hw := rfl
@[simp] theorem State.modTeam_links (s : State) (t : Nat) (f : Team → Team) : (s.modTeam t f).links = s.links := rfl
@[simp] theorem State.modTeam_routes (s : State) (t : Nat) (f : Team → Team) : (s.modTeam t f).routes = s.routes := rfl
@[simp] theorem State.modTeam_ident (s : State) (t : Nat) (f : Team → Team) : (s.modTeam t f).ident = s.ident := rfl

@[simp] theorem State.modPhase_agenda (s : State) (p : Nat) (f : Phase → Phase) : (s.modPhase p f).agenda = s.agenda := rfl
@[simp] theorem State.modPhase_focus (s : State) (p : Nat) (f : Phase → Phase) : (s.modPhase p f).focus = s.focus := rfl
@[simp] theorem State.modPhase_tick (s : State) (p : Nat) (f : Phase → Phase) : (s.modPhase p f).tick = s.tick := rfl
@[simp] theorem State.modPhase_cycle (s : State) (p : Nat) (f : Phase → Phase) : (s.modPhase p f).cycle = s.cycle := rfl
@[simp] theorem State.modPhase_timers (s : State) (p : Nat) (f : Phase → Phase) : (s.modPhase p f).timers = s.timers := rfl
@[simp] theorem State.modPhase_mem (s : State) (p : Nat) (f : Phase → Phase) : (s.modPhase p f).mem = s.mem := rfl
@[simp] theorem State.modPhase_poison (s : State) (p : Nat) (f : Phase → Phase) : (s.modPhase p f).poison = s.poison := rfl
@[simp] theorem State.modPhase_l2bad (s : State) (p : Nat) (f : Phase → Phase) : (s.modPhase p f).l2bad = s.l2bad := rfl
@[simp] theorem State.modPhase_l2dirty (s : State) (p : Nat) (f : Phase → Phase) : (s.modPhase p f).l2dirty = s.l2dirty := rfl
@[simp] theorem State.modPhase_accepted (s : State) (p : Nat) (f : Phase → Phase) : (s.modPhase p f).accepted = s.accepted := rfl
@[simp] theorem State.modPhase_groups (s : State) (p : Nat) (f : Phase → Phase) : (s.modPhase p f).groups = s.groups := rfl
@[simp] theorem State.modPhase_teams (s : State) (p : Nat) (f : Phase → Phase) : (s.modPhase p f).teams = s.teams := rfl
@[simp] theorem State.modPhase_ops (s : State) (p : Nat) (f : Phase → Phase) : (s.modPhase p f).ops = s.ops := rfl
@[simp] theorem State.modPhase_cmds (s : State) (p : Nat) (f : Phase → Phase) : (s.modPhase p f).cmds = s.cmds := rfl
@[simp] theorem State.modPhase_copies (s : State) (p : Nat) (f : Phase → Phase) : (s.modPhase p f).copies = s.copies := rfl
@[simp] theorem State.modPhase_units (s : State) (p : Nat) (f : Phase → Phase) : (s.modPhase p f).units = s.units := rfl
@[simp] theorem State.modPhase_commits (s : State) (p : Nat) (f : Phase → Phase) : (s.modPhase p f).commits = s.commits := rfl
@[simp] theorem State.modPhase_peerWrites (s : State) (p : Nat) (f : Phase → Phase) : (s.modPhase p f).peerWrites = s.peerWrites := rfl
@[simp] theorem State.modPhase_service (s : State) (p : Nat) (f : Phase → Phase) : (s.modPhase p f).service = s.service := rfl
@[simp] theorem State.modPhase_cores (s : State) (p : Nat) (f : Phase → Phase) : (s.modPhase p f).cores = s.cores := rfl
@[simp] theorem State.modPhase_ctxs (s : State) (p : Nat) (f : Phase → Phase) : (s.modPhase p f).ctxs = s.ctxs := rfl
@[simp] theorem State.modPhase_codes (s : State) (p : Nat) (f : Phase → Phase) : (s.modPhase p f).codes = s.codes := rfl
@[simp] theorem State.modPhase_fc (s : State) (p : Nat) (f : Phase → Phase) : (s.modPhase p f).fc = s.fc := rfl
@[simp] theorem State.modPhase_xl (s : State) (p : Nat) (f : Phase → Phase) : (s.modPhase p f).xl = s.xl := rfl
@[simp] theorem State.modPhase_cc (s : State) (p : Nat) (f : Phase → Phase) : (s.modPhase p f).cc = s.cc := rfl
@[simp] theorem State.modPhase_stk (s : State) (p : Nat) (f : Phase → Phase) : (s.modPhase p f).stk = s.stk := rfl
@[simp] theorem State.modPhase_pwr (s : State) (p : Nat) (f : Phase → Phase) : (s.modPhase p f).pwr = s.pwr := rfl
@[simp] theorem State.modPhase_aon (s : State) (p : Nat) (f : Phase → Phase) : (s.modPhase p f).aon = s.aon := rfl
@[simp] theorem State.modPhase_nr (s : State) (p : Nat) (f : Phase → Phase) : (s.modPhase p f).nr = s.nr := rfl
@[simp] theorem State.modPhase_hw (s : State) (p : Nat) (f : Phase → Phase) : (s.modPhase p f).hw = s.hw := rfl
@[simp] theorem State.modPhase_links (s : State) (p : Nat) (f : Phase → Phase) : (s.modPhase p f).links = s.links := rfl
@[simp] theorem State.modPhase_routes (s : State) (p : Nat) (f : Phase → Phase) : (s.modPhase p f).routes = s.routes := rfl
@[simp] theorem State.modPhase_ident (s : State) (p : Nat) (f : Phase → Phase) : (s.modPhase p f).ident = s.ident := rfl

@[simp] theorem State.setCtx_agenda (s : State) (c : Nat) (x : Ctx) : (s.setCtx c x).agenda = s.agenda := rfl
@[simp] theorem State.setCtx_focus (s : State) (c : Nat) (x : Ctx) : (s.setCtx c x).focus = s.focus := rfl
@[simp] theorem State.setCtx_tick (s : State) (c : Nat) (x : Ctx) : (s.setCtx c x).tick = s.tick := rfl
@[simp] theorem State.setCtx_cycle (s : State) (c : Nat) (x : Ctx) : (s.setCtx c x).cycle = s.cycle := rfl
@[simp] theorem State.setCtx_timers (s : State) (c : Nat) (x : Ctx) : (s.setCtx c x).timers = s.timers := rfl
@[simp] theorem State.setCtx_mem (s : State) (c : Nat) (x : Ctx) : (s.setCtx c x).mem = s.mem := rfl
@[simp] theorem State.setCtx_poison (s : State) (c : Nat) (x : Ctx) : (s.setCtx c x).poison = s.poison := rfl
@[simp] theorem State.setCtx_l2bad (s : State) (c : Nat) (x : Ctx) : (s.setCtx c x).l2bad = s.l2bad := rfl
@[simp] theorem State.setCtx_l2dirty (s : State) (c : Nat) (x : Ctx) : (s.setCtx c x).l2dirty = s.l2dirty := rfl
@[simp] theorem State.setCtx_accepted (s : State) (c : Nat) (x : Ctx) : (s.setCtx c x).accepted = s.accepted := rfl
@[simp] theorem State.setCtx_groups (s : State) (c : Nat) (x : Ctx) : (s.setCtx c x).groups = s.groups := rfl
@[simp] theorem State.setCtx_teams (s : State) (c : Nat) (x : Ctx) : (s.setCtx c x).teams = s.teams := rfl
@[simp] theorem State.setCtx_phases (s : State) (c : Nat) (x : Ctx) : (s.setCtx c x).phases = s.phases := rfl
@[simp] theorem State.setCtx_ops (s : State) (c : Nat) (x : Ctx) : (s.setCtx c x).ops = s.ops := rfl
@[simp] theorem State.setCtx_cmds (s : State) (c : Nat) (x : Ctx) : (s.setCtx c x).cmds = s.cmds := rfl
@[simp] theorem State.setCtx_copies (s : State) (c : Nat) (x : Ctx) : (s.setCtx c x).copies = s.copies := rfl
@[simp] theorem State.setCtx_units (s : State) (c : Nat) (x : Ctx) : (s.setCtx c x).units = s.units := rfl
@[simp] theorem State.setCtx_commits (s : State) (c : Nat) (x : Ctx) : (s.setCtx c x).commits = s.commits := rfl
@[simp] theorem State.setCtx_peerWrites (s : State) (c : Nat) (x : Ctx) : (s.setCtx c x).peerWrites = s.peerWrites := rfl
@[simp] theorem State.setCtx_service (s : State) (c : Nat) (x : Ctx) : (s.setCtx c x).service = s.service := rfl
@[simp] theorem State.setCtx_cores (s : State) (c : Nat) (x : Ctx) : (s.setCtx c x).cores = s.cores := rfl
@[simp] theorem State.setCtx_codes (s : State) (c : Nat) (x : Ctx) : (s.setCtx c x).codes = s.codes := rfl
@[simp] theorem State.setCtx_fc (s : State) (c : Nat) (x : Ctx) : (s.setCtx c x).fc = s.fc := rfl
@[simp] theorem State.setCtx_xl (s : State) (c : Nat) (x : Ctx) : (s.setCtx c x).xl = s.xl := rfl
@[simp] theorem State.setCtx_cc (s : State) (c : Nat) (x : Ctx) : (s.setCtx c x).cc = s.cc := rfl
@[simp] theorem State.setCtx_stk (s : State) (c : Nat) (x : Ctx) : (s.setCtx c x).stk = s.stk := rfl
@[simp] theorem State.setCtx_pwr (s : State) (c : Nat) (x : Ctx) : (s.setCtx c x).pwr = s.pwr := rfl
@[simp] theorem State.setCtx_aon (s : State) (c : Nat) (x : Ctx) : (s.setCtx c x).aon = s.aon := rfl
@[simp] theorem State.setCtx_nr (s : State) (c : Nat) (x : Ctx) : (s.setCtx c x).nr = s.nr := rfl
@[simp] theorem State.setCtx_hw (s : State) (c : Nat) (x : Ctx) : (s.setCtx c x).hw = s.hw := rfl
@[simp] theorem State.setCtx_links (s : State) (c : Nat) (x : Ctx) : (s.setCtx c x).links = s.links := rfl
@[simp] theorem State.setCtx_routes (s : State) (c : Nat) (x : Ctx) : (s.setCtx c x).routes = s.routes := rfl
@[simp] theorem State.setCtx_ident (s : State) (c : Nat) (x : Ctx) : (s.setCtx c x).ident = s.ident := rfl

@[simp] theorem State.modCtx_agenda (s : State) (c : Nat) (f : Ctx → Ctx) : (s.modCtx c f).agenda = s.agenda := rfl
@[simp] theorem State.modCtx_focus (s : State) (c : Nat) (f : Ctx → Ctx) : (s.modCtx c f).focus = s.focus := rfl
@[simp] theorem State.modCtx_tick (s : State) (c : Nat) (f : Ctx → Ctx) : (s.modCtx c f).tick = s.tick := rfl
@[simp] theorem State.modCtx_cycle (s : State) (c : Nat) (f : Ctx → Ctx) : (s.modCtx c f).cycle = s.cycle := rfl
@[simp] theorem State.modCtx_timers (s : State) (c : Nat) (f : Ctx → Ctx) : (s.modCtx c f).timers = s.timers := rfl
@[simp] theorem State.modCtx_mem (s : State) (c : Nat) (f : Ctx → Ctx) : (s.modCtx c f).mem = s.mem := rfl
@[simp] theorem State.modCtx_poison (s : State) (c : Nat) (f : Ctx → Ctx) : (s.modCtx c f).poison = s.poison := rfl
@[simp] theorem State.modCtx_l2bad (s : State) (c : Nat) (f : Ctx → Ctx) : (s.modCtx c f).l2bad = s.l2bad := rfl
@[simp] theorem State.modCtx_l2dirty (s : State) (c : Nat) (f : Ctx → Ctx) : (s.modCtx c f).l2dirty = s.l2dirty := rfl
@[simp] theorem State.modCtx_accepted (s : State) (c : Nat) (f : Ctx → Ctx) : (s.modCtx c f).accepted = s.accepted := rfl
@[simp] theorem State.modCtx_groups (s : State) (c : Nat) (f : Ctx → Ctx) : (s.modCtx c f).groups = s.groups := rfl
@[simp] theorem State.modCtx_teams (s : State) (c : Nat) (f : Ctx → Ctx) : (s.modCtx c f).teams = s.teams := rfl
@[simp] theorem State.modCtx_phases (s : State) (c : Nat) (f : Ctx → Ctx) : (s.modCtx c f).phases = s.phases := rfl
@[simp] theorem State.modCtx_ops (s : State) (c : Nat) (f : Ctx → Ctx) : (s.modCtx c f).ops = s.ops := rfl
@[simp] theorem State.modCtx_cmds (s : State) (c : Nat) (f : Ctx → Ctx) : (s.modCtx c f).cmds = s.cmds := rfl
@[simp] theorem State.modCtx_copies (s : State) (c : Nat) (f : Ctx → Ctx) : (s.modCtx c f).copies = s.copies := rfl
@[simp] theorem State.modCtx_units (s : State) (c : Nat) (f : Ctx → Ctx) : (s.modCtx c f).units = s.units := rfl
@[simp] theorem State.modCtx_commits (s : State) (c : Nat) (f : Ctx → Ctx) : (s.modCtx c f).commits = s.commits := rfl
@[simp] theorem State.modCtx_peerWrites (s : State) (c : Nat) (f : Ctx → Ctx) : (s.modCtx c f).peerWrites = s.peerWrites := rfl
@[simp] theorem State.modCtx_service (s : State) (c : Nat) (f : Ctx → Ctx) : (s.modCtx c f).service = s.service := rfl
@[simp] theorem State.modCtx_cores (s : State) (c : Nat) (f : Ctx → Ctx) : (s.modCtx c f).cores = s.cores := rfl
@[simp] theorem State.modCtx_codes (s : State) (c : Nat) (f : Ctx → Ctx) : (s.modCtx c f).codes = s.codes := rfl
@[simp] theorem State.modCtx_fc (s : State) (c : Nat) (f : Ctx → Ctx) : (s.modCtx c f).fc = s.fc := rfl
@[simp] theorem State.modCtx_xl (s : State) (c : Nat) (f : Ctx → Ctx) : (s.modCtx c f).xl = s.xl := rfl
@[simp] theorem State.modCtx_cc (s : State) (c : Nat) (f : Ctx → Ctx) : (s.modCtx c f).cc = s.cc := rfl
@[simp] theorem State.modCtx_stk (s : State) (c : Nat) (f : Ctx → Ctx) : (s.modCtx c f).stk = s.stk := rfl
@[simp] theorem State.modCtx_pwr (s : State) (c : Nat) (f : Ctx → Ctx) : (s.modCtx c f).pwr = s.pwr := rfl
@[simp] theorem State.modCtx_aon (s : State) (c : Nat) (f : Ctx → Ctx) : (s.modCtx c f).aon = s.aon := rfl
@[simp] theorem State.modCtx_nr (s : State) (c : Nat) (f : Ctx → Ctx) : (s.modCtx c f).nr = s.nr := rfl
@[simp] theorem State.modCtx_hw (s : State) (c : Nat) (f : Ctx → Ctx) : (s.modCtx c f).hw = s.hw := rfl
@[simp] theorem State.modCtx_links (s : State) (c : Nat) (f : Ctx → Ctx) : (s.modCtx c f).links = s.links := rfl
@[simp] theorem State.modCtx_routes (s : State) (c : Nat) (f : Ctx → Ctx) : (s.modCtx c f).routes = s.routes := rfl
@[simp] theorem State.modCtx_ident (s : State) (c : Nat) (f : Ctx → Ctx) : (s.modCtx c f).ident = s.ident := rfl

@[simp] theorem State.modCore_agenda (s : State) (c : Nat) (f : CoreSt → CoreSt) : (s.modCore c f).agenda = s.agenda := rfl
@[simp] theorem State.modCore_focus (s : State) (c : Nat) (f : CoreSt → CoreSt) : (s.modCore c f).focus = s.focus := rfl
@[simp] theorem State.modCore_tick (s : State) (c : Nat) (f : CoreSt → CoreSt) : (s.modCore c f).tick = s.tick := rfl
@[simp] theorem State.modCore_cycle (s : State) (c : Nat) (f : CoreSt → CoreSt) : (s.modCore c f).cycle = s.cycle := rfl
@[simp] theorem State.modCore_timers (s : State) (c : Nat) (f : CoreSt → CoreSt) : (s.modCore c f).timers = s.timers := rfl
@[simp] theorem State.modCore_mem (s : State) (c : Nat) (f : CoreSt → CoreSt) : (s.modCore c f).mem = s.mem := rfl
@[simp] theorem State.modCore_poison (s : State) (c : Nat) (f : CoreSt → CoreSt) : (s.modCore c f).poison = s.poison := rfl
@[simp] theorem State.modCore_l2bad (s : State) (c : Nat) (f : CoreSt → CoreSt) : (s.modCore c f).l2bad = s.l2bad := rfl
@[simp] theorem State.modCore_l2dirty (s : State) (c : Nat) (f : CoreSt → CoreSt) : (s.modCore c f).l2dirty = s.l2dirty := rfl
@[simp] theorem State.modCore_accepted (s : State) (c : Nat) (f : CoreSt → CoreSt) : (s.modCore c f).accepted = s.accepted := rfl
@[simp] theorem State.modCore_groups (s : State) (c : Nat) (f : CoreSt → CoreSt) : (s.modCore c f).groups = s.groups := rfl
@[simp] theorem State.modCore_teams (s : State) (c : Nat) (f : CoreSt → CoreSt) : (s.modCore c f).teams = s.teams := rfl
@[simp] theorem State.modCore_phases (s : State) (c : Nat) (f : CoreSt → CoreSt) : (s.modCore c f).phases = s.phases := rfl
@[simp] theorem State.modCore_ops (s : State) (c : Nat) (f : CoreSt → CoreSt) : (s.modCore c f).ops = s.ops := rfl
@[simp] theorem State.modCore_cmds (s : State) (c : Nat) (f : CoreSt → CoreSt) : (s.modCore c f).cmds = s.cmds := rfl
@[simp] theorem State.modCore_copies (s : State) (c : Nat) (f : CoreSt → CoreSt) : (s.modCore c f).copies = s.copies := rfl
@[simp] theorem State.modCore_units (s : State) (c : Nat) (f : CoreSt → CoreSt) : (s.modCore c f).units = s.units := rfl
@[simp] theorem State.modCore_commits (s : State) (c : Nat) (f : CoreSt → CoreSt) : (s.modCore c f).commits = s.commits := rfl
@[simp] theorem State.modCore_peerWrites (s : State) (c : Nat) (f : CoreSt → CoreSt) : (s.modCore c f).peerWrites = s.peerWrites := rfl
@[simp] theorem State.modCore_service (s : State) (c : Nat) (f : CoreSt → CoreSt) : (s.modCore c f).service = s.service := rfl
@[simp] theorem State.modCore_ctxs (s : State) (c : Nat) (f : CoreSt → CoreSt) : (s.modCore c f).ctxs = s.ctxs := rfl
@[simp] theorem State.modCore_codes (s : State) (c : Nat) (f : CoreSt → CoreSt) : (s.modCore c f).codes = s.codes := rfl
@[simp] theorem State.modCore_fc (s : State) (c : Nat) (f : CoreSt → CoreSt) : (s.modCore c f).fc = s.fc := rfl
@[simp] theorem State.modCore_xl (s : State) (c : Nat) (f : CoreSt → CoreSt) : (s.modCore c f).xl = s.xl := rfl
@[simp] theorem State.modCore_cc (s : State) (c : Nat) (f : CoreSt → CoreSt) : (s.modCore c f).cc = s.cc := rfl
@[simp] theorem State.modCore_stk (s : State) (c : Nat) (f : CoreSt → CoreSt) : (s.modCore c f).stk = s.stk := rfl
@[simp] theorem State.modCore_pwr (s : State) (c : Nat) (f : CoreSt → CoreSt) : (s.modCore c f).pwr = s.pwr := rfl
@[simp] theorem State.modCore_aon (s : State) (c : Nat) (f : CoreSt → CoreSt) : (s.modCore c f).aon = s.aon := rfl
@[simp] theorem State.modCore_nr (s : State) (c : Nat) (f : CoreSt → CoreSt) : (s.modCore c f).nr = s.nr := rfl
@[simp] theorem State.modCore_hw (s : State) (c : Nat) (f : CoreSt → CoreSt) : (s.modCore c f).hw = s.hw := rfl
@[simp] theorem State.modCore_links (s : State) (c : Nat) (f : CoreSt → CoreSt) : (s.modCore c f).links = s.links := rfl
@[simp] theorem State.modCore_routes (s : State) (c : Nat) (f : CoreSt → CoreSt) : (s.modCore c f).routes = s.routes := rfl
@[simp] theorem State.modCore_ident (s : State) (c : Nat) (f : CoreSt → CoreSt) : (s.modCore c f).ident = s.ident := rfl

@[simp] theorem State.modDistrict_agenda (s : State) (d : Nat) (f : District → District) : (s.modDistrict d f).agenda = s.agenda := rfl
@[simp] theorem State.modDistrict_focus (s : State) (d : Nat) (f : District → District) : (s.modDistrict d f).focus = s.focus := rfl
@[simp] theorem State.modDistrict_tick (s : State) (d : Nat) (f : District → District) : (s.modDistrict d f).tick = s.tick := rfl
@[simp] theorem State.modDistrict_cycle (s : State) (d : Nat) (f : District → District) : (s.modDistrict d f).cycle = s.cycle := rfl
@[simp] theorem State.modDistrict_timers (s : State) (d : Nat) (f : District → District) : (s.modDistrict d f).timers = s.timers := rfl
@[simp] theorem State.modDistrict_mem (s : State) (d : Nat) (f : District → District) : (s.modDistrict d f).mem = s.mem := rfl
@[simp] theorem State.modDistrict_poison (s : State) (d : Nat) (f : District → District) : (s.modDistrict d f).poison = s.poison := rfl
@[simp] theorem State.modDistrict_l2bad (s : State) (d : Nat) (f : District → District) : (s.modDistrict d f).l2bad = s.l2bad := rfl
@[simp] theorem State.modDistrict_l2dirty (s : State) (d : Nat) (f : District → District) : (s.modDistrict d f).l2dirty = s.l2dirty := rfl
@[simp] theorem State.modDistrict_accepted (s : State) (d : Nat) (f : District → District) : (s.modDistrict d f).accepted = s.accepted := rfl
@[simp] theorem State.modDistrict_groups (s : State) (d : Nat) (f : District → District) : (s.modDistrict d f).groups = s.groups := rfl
@[simp] theorem State.modDistrict_teams (s : State) (d : Nat) (f : District → District) : (s.modDistrict d f).teams = s.teams := rfl
@[simp] theorem State.modDistrict_phases (s : State) (d : Nat) (f : District → District) : (s.modDistrict d f).phases = s.phases := rfl
@[simp] theorem State.modDistrict_ops (s : State) (d : Nat) (f : District → District) : (s.modDistrict d f).ops = s.ops := rfl
@[simp] theorem State.modDistrict_cmds (s : State) (d : Nat) (f : District → District) : (s.modDistrict d f).cmds = s.cmds := rfl
@[simp] theorem State.modDistrict_copies (s : State) (d : Nat) (f : District → District) : (s.modDistrict d f).copies = s.copies := rfl
@[simp] theorem State.modDistrict_units (s : State) (d : Nat) (f : District → District) : (s.modDistrict d f).units = s.units := rfl
@[simp] theorem State.modDistrict_commits (s : State) (d : Nat) (f : District → District) : (s.modDistrict d f).commits = s.commits := rfl
@[simp] theorem State.modDistrict_peerWrites (s : State) (d : Nat) (f : District → District) : (s.modDistrict d f).peerWrites = s.peerWrites := rfl
@[simp] theorem State.modDistrict_service (s : State) (d : Nat) (f : District → District) : (s.modDistrict d f).service = s.service := rfl
@[simp] theorem State.modDistrict_cores (s : State) (d : Nat) (f : District → District) : (s.modDistrict d f).cores = s.cores := rfl
@[simp] theorem State.modDistrict_ctxs (s : State) (d : Nat) (f : District → District) : (s.modDistrict d f).ctxs = s.ctxs := rfl
@[simp] theorem State.modDistrict_codes (s : State) (d : Nat) (f : District → District) : (s.modDistrict d f).codes = s.codes := rfl
@[simp] theorem State.modDistrict_fc (s : State) (d : Nat) (f : District → District) : (s.modDistrict d f).fc = s.fc := rfl
@[simp] theorem State.modDistrict_xl (s : State) (d : Nat) (f : District → District) : (s.modDistrict d f).xl = s.xl := rfl
@[simp] theorem State.modDistrict_cc (s : State) (d : Nat) (f : District → District) : (s.modDistrict d f).cc = s.cc := rfl
@[simp] theorem State.modDistrict_stk (s : State) (d : Nat) (f : District → District) : (s.modDistrict d f).stk = s.stk := rfl
@[simp] theorem State.modDistrict_aon (s : State) (d : Nat) (f : District → District) : (s.modDistrict d f).aon = s.aon := rfl
@[simp] theorem State.modDistrict_nr (s : State) (d : Nat) (f : District → District) : (s.modDistrict d f).nr = s.nr := rfl
@[simp] theorem State.modDistrict_hw (s : State) (d : Nat) (f : District → District) : (s.modDistrict d f).hw = s.hw := rfl
@[simp] theorem State.modDistrict_links (s : State) (d : Nat) (f : District → District) : (s.modDistrict d f).links = s.links := rfl
@[simp] theorem State.modDistrict_routes (s : State) (d : Nat) (f : District → District) : (s.modDistrict d f).routes = s.routes := rfl
@[simp] theorem State.modDistrict_ident (s : State) (d : Nat) (f : District → District) : (s.modDistrict d f).ident = s.ident := rfl

@[simp] theorem State.modCmd_agenda (s : State) (c : Nat) (f : Cmd → Cmd) : (s.modCmd c f).agenda = s.agenda := rfl
@[simp] theorem State.modCmd_focus (s : State) (c : Nat) (f : Cmd → Cmd) : (s.modCmd c f).focus = s.focus := rfl
@[simp] theorem State.modCmd_tick (s : State) (c : Nat) (f : Cmd → Cmd) : (s.modCmd c f).tick = s.tick := rfl
@[simp] theorem State.modCmd_cycle (s : State) (c : Nat) (f : Cmd → Cmd) : (s.modCmd c f).cycle = s.cycle := rfl
@[simp] theorem State.modCmd_timers (s : State) (c : Nat) (f : Cmd → Cmd) : (s.modCmd c f).timers = s.timers := rfl
@[simp] theorem State.modCmd_mem (s : State) (c : Nat) (f : Cmd → Cmd) : (s.modCmd c f).mem = s.mem := rfl
@[simp] theorem State.modCmd_poison (s : State) (c : Nat) (f : Cmd → Cmd) : (s.modCmd c f).poison = s.poison := rfl
@[simp] theorem State.modCmd_l2bad (s : State) (c : Nat) (f : Cmd → Cmd) : (s.modCmd c f).l2bad = s.l2bad := rfl
@[simp] theorem State.modCmd_l2dirty (s : State) (c : Nat) (f : Cmd → Cmd) : (s.modCmd c f).l2dirty = s.l2dirty := rfl
@[simp] theorem State.modCmd_accepted (s : State) (c : Nat) (f : Cmd → Cmd) : (s.modCmd c f).accepted = s.accepted := rfl
@[simp] theorem State.modCmd_groups (s : State) (c : Nat) (f : Cmd → Cmd) : (s.modCmd c f).groups = s.groups := rfl
@[simp] theorem State.modCmd_teams (s : State) (c : Nat) (f : Cmd → Cmd) : (s.modCmd c f).teams = s.teams := rfl
@[simp] theorem State.modCmd_phases (s : State) (c : Nat) (f : Cmd → Cmd) : (s.modCmd c f).phases = s.phases := rfl
@[simp] theorem State.modCmd_ops (s : State) (c : Nat) (f : Cmd → Cmd) : (s.modCmd c f).ops = s.ops := rfl
@[simp] theorem State.modCmd_copies (s : State) (c : Nat) (f : Cmd → Cmd) : (s.modCmd c f).copies = s.copies := rfl
@[simp] theorem State.modCmd_units (s : State) (c : Nat) (f : Cmd → Cmd) : (s.modCmd c f).units = s.units := rfl
@[simp] theorem State.modCmd_commits (s : State) (c : Nat) (f : Cmd → Cmd) : (s.modCmd c f).commits = s.commits := rfl
@[simp] theorem State.modCmd_peerWrites (s : State) (c : Nat) (f : Cmd → Cmd) : (s.modCmd c f).peerWrites = s.peerWrites := rfl
@[simp] theorem State.modCmd_service (s : State) (c : Nat) (f : Cmd → Cmd) : (s.modCmd c f).service = s.service := rfl
@[simp] theorem State.modCmd_cores (s : State) (c : Nat) (f : Cmd → Cmd) : (s.modCmd c f).cores = s.cores := rfl
@[simp] theorem State.modCmd_ctxs (s : State) (c : Nat) (f : Cmd → Cmd) : (s.modCmd c f).ctxs = s.ctxs := rfl
@[simp] theorem State.modCmd_codes (s : State) (c : Nat) (f : Cmd → Cmd) : (s.modCmd c f).codes = s.codes := rfl
@[simp] theorem State.modCmd_fc (s : State) (c : Nat) (f : Cmd → Cmd) : (s.modCmd c f).fc = s.fc := rfl
@[simp] theorem State.modCmd_xl (s : State) (c : Nat) (f : Cmd → Cmd) : (s.modCmd c f).xl = s.xl := rfl
@[simp] theorem State.modCmd_cc (s : State) (c : Nat) (f : Cmd → Cmd) : (s.modCmd c f).cc = s.cc := rfl
@[simp] theorem State.modCmd_stk (s : State) (c : Nat) (f : Cmd → Cmd) : (s.modCmd c f).stk = s.stk := rfl
@[simp] theorem State.modCmd_pwr (s : State) (c : Nat) (f : Cmd → Cmd) : (s.modCmd c f).pwr = s.pwr := rfl
@[simp] theorem State.modCmd_aon (s : State) (c : Nat) (f : Cmd → Cmd) : (s.modCmd c f).aon = s.aon := rfl
@[simp] theorem State.modCmd_nr (s : State) (c : Nat) (f : Cmd → Cmd) : (s.modCmd c f).nr = s.nr := rfl
@[simp] theorem State.modCmd_hw (s : State) (c : Nat) (f : Cmd → Cmd) : (s.modCmd c f).hw = s.hw := rfl
@[simp] theorem State.modCmd_links (s : State) (c : Nat) (f : Cmd → Cmd) : (s.modCmd c f).links = s.links := rfl
@[simp] theorem State.modCmd_routes (s : State) (c : Nat) (f : Cmd → Cmd) : (s.modCmd c f).routes = s.routes := rfl
@[simp] theorem State.modCmd_ident (s : State) (c : Nat) (f : Cmd → Cmd) : (s.modCmd c f).ident = s.ident := rfl

@[simp] theorem State.modOp_agenda (s : State) (o : Nat) (f : Op → Op) : (s.modOp o f).agenda = s.agenda := rfl
@[simp] theorem State.modOp_focus (s : State) (o : Nat) (f : Op → Op) : (s.modOp o f).focus = s.focus := rfl
@[simp] theorem State.modOp_tick (s : State) (o : Nat) (f : Op → Op) : (s.modOp o f).tick = s.tick := rfl
@[simp] theorem State.modOp_cycle (s : State) (o : Nat) (f : Op → Op) : (s.modOp o f).cycle = s.cycle := rfl
@[simp] theorem State.modOp_timers (s : State) (o : Nat) (f : Op → Op) : (s.modOp o f).timers = s.timers := rfl
@[simp] theorem State.modOp_mem (s : State) (o : Nat) (f : Op → Op) : (s.modOp o f).mem = s.mem := rfl
@[simp] theorem State.modOp_poison (s : State) (o : Nat) (f : Op → Op) : (s.modOp o f).poison = s.poison := rfl
@[simp] theorem State.modOp_l2bad (s : State) (o : Nat) (f : Op → Op) : (s.modOp o f).l2bad = s.l2bad := rfl
@[simp] theorem State.modOp_l2dirty (s : State) (o : Nat) (f : Op → Op) : (s.modOp o f).l2dirty = s.l2dirty := rfl
@[simp] theorem State.modOp_accepted (s : State) (o : Nat) (f : Op → Op) : (s.modOp o f).accepted = s.accepted := rfl
@[simp] theorem State.modOp_groups (s : State) (o : Nat) (f : Op → Op) : (s.modOp o f).groups = s.groups := rfl
@[simp] theorem State.modOp_teams (s : State) (o : Nat) (f : Op → Op) : (s.modOp o f).teams = s.teams := rfl
@[simp] theorem State.modOp_phases (s : State) (o : Nat) (f : Op → Op) : (s.modOp o f).phases = s.phases := rfl
@[simp] theorem State.modOp_cmds (s : State) (o : Nat) (f : Op → Op) : (s.modOp o f).cmds = s.cmds := rfl
@[simp] theorem State.modOp_copies (s : State) (o : Nat) (f : Op → Op) : (s.modOp o f).copies = s.copies := rfl
@[simp] theorem State.modOp_units (s : State) (o : Nat) (f : Op → Op) : (s.modOp o f).units = s.units := rfl
@[simp] theorem State.modOp_commits (s : State) (o : Nat) (f : Op → Op) : (s.modOp o f).commits = s.commits := rfl
@[simp] theorem State.modOp_peerWrites (s : State) (o : Nat) (f : Op → Op) : (s.modOp o f).peerWrites = s.peerWrites := rfl
@[simp] theorem State.modOp_service (s : State) (o : Nat) (f : Op → Op) : (s.modOp o f).service = s.service := rfl
@[simp] theorem State.modOp_cores (s : State) (o : Nat) (f : Op → Op) : (s.modOp o f).cores = s.cores := rfl
@[simp] theorem State.modOp_ctxs (s : State) (o : Nat) (f : Op → Op) : (s.modOp o f).ctxs = s.ctxs := rfl
@[simp] theorem State.modOp_codes (s : State) (o : Nat) (f : Op → Op) : (s.modOp o f).codes = s.codes := rfl
@[simp] theorem State.modOp_fc (s : State) (o : Nat) (f : Op → Op) : (s.modOp o f).fc = s.fc := rfl
@[simp] theorem State.modOp_xl (s : State) (o : Nat) (f : Op → Op) : (s.modOp o f).xl = s.xl := rfl
@[simp] theorem State.modOp_cc (s : State) (o : Nat) (f : Op → Op) : (s.modOp o f).cc = s.cc := rfl
@[simp] theorem State.modOp_stk (s : State) (o : Nat) (f : Op → Op) : (s.modOp o f).stk = s.stk := rfl
@[simp] theorem State.modOp_pwr (s : State) (o : Nat) (f : Op → Op) : (s.modOp o f).pwr = s.pwr := rfl
@[simp] theorem State.modOp_aon (s : State) (o : Nat) (f : Op → Op) : (s.modOp o f).aon = s.aon := rfl
@[simp] theorem State.modOp_nr (s : State) (o : Nat) (f : Op → Op) : (s.modOp o f).nr = s.nr := rfl
@[simp] theorem State.modOp_hw (s : State) (o : Nat) (f : Op → Op) : (s.modOp o f).hw = s.hw := rfl
@[simp] theorem State.modOp_links (s : State) (o : Nat) (f : Op → Op) : (s.modOp o f).links = s.links := rfl
@[simp] theorem State.modOp_routes (s : State) (o : Nat) (f : Op → Op) : (s.modOp o f).routes = s.routes := rfl
@[simp] theorem State.modOp_ident (s : State) (o : Nat) (f : Op → Op) : (s.modOp o f).ident = s.ident := rfl

@[simp] theorem State.setLayer_agenda (s : State) (c m l : Nat) (x : Layer) : (s.setLayer c m l x).agenda = s.agenda := rfl
@[simp] theorem State.setLayer_focus (s : State) (c m l : Nat) (x : Layer) : (s.setLayer c m l x).focus = s.focus := rfl
@[simp] theorem State.setLayer_tick (s : State) (c m l : Nat) (x : Layer) : (s.setLayer c m l x).tick = s.tick := rfl
@[simp] theorem State.setLayer_cycle (s : State) (c m l : Nat) (x : Layer) : (s.setLayer c m l x).cycle = s.cycle := rfl
@[simp] theorem State.setLayer_timers (s : State) (c m l : Nat) (x : Layer) : (s.setLayer c m l x).timers = s.timers := rfl
@[simp] theorem State.setLayer_mem (s : State) (c m l : Nat) (x : Layer) : (s.setLayer c m l x).mem = s.mem := rfl
@[simp] theorem State.setLayer_poison (s : State) (c m l : Nat) (x : Layer) : (s.setLayer c m l x).poison = s.poison := rfl
@[simp] theorem State.setLayer_l2bad (s : State) (c m l : Nat) (x : Layer) : (s.setLayer c m l x).l2bad = s.l2bad := rfl
@[simp] theorem State.setLayer_l2dirty (s : State) (c m l : Nat) (x : Layer) : (s.setLayer c m l x).l2dirty = s.l2dirty := rfl
@[simp] theorem State.setLayer_accepted (s : State) (c m l : Nat) (x : Layer) : (s.setLayer c m l x).accepted = s.accepted := rfl
@[simp] theorem State.setLayer_groups (s : State) (c m l : Nat) (x : Layer) : (s.setLayer c m l x).groups = s.groups := rfl
@[simp] theorem State.setLayer_teams (s : State) (c m l : Nat) (x : Layer) : (s.setLayer c m l x).teams = s.teams := rfl
@[simp] theorem State.setLayer_phases (s : State) (c m l : Nat) (x : Layer) : (s.setLayer c m l x).phases = s.phases := rfl
@[simp] theorem State.setLayer_ops (s : State) (c m l : Nat) (x : Layer) : (s.setLayer c m l x).ops = s.ops := rfl
@[simp] theorem State.setLayer_cmds (s : State) (c m l : Nat) (x : Layer) : (s.setLayer c m l x).cmds = s.cmds := rfl
@[simp] theorem State.setLayer_copies (s : State) (c m l : Nat) (x : Layer) : (s.setLayer c m l x).copies = s.copies := rfl
@[simp] theorem State.setLayer_units (s : State) (c m l : Nat) (x : Layer) : (s.setLayer c m l x).units = s.units := rfl
@[simp] theorem State.setLayer_commits (s : State) (c m l : Nat) (x : Layer) : (s.setLayer c m l x).commits = s.commits := rfl
@[simp] theorem State.setLayer_peerWrites (s : State) (c m l : Nat) (x : Layer) : (s.setLayer c m l x).peerWrites = s.peerWrites := rfl
@[simp] theorem State.setLayer_service (s : State) (c m l : Nat) (x : Layer) : (s.setLayer c m l x).service = s.service := rfl
@[simp] theorem State.setLayer_cores (s : State) (c m l : Nat) (x : Layer) : (s.setLayer c m l x).cores = s.cores := rfl
@[simp] theorem State.setLayer_codes (s : State) (c m l : Nat) (x : Layer) : (s.setLayer c m l x).codes = s.codes := rfl
@[simp] theorem State.setLayer_fc (s : State) (c m l : Nat) (x : Layer) : (s.setLayer c m l x).fc = s.fc := rfl
@[simp] theorem State.setLayer_xl (s : State) (c m l : Nat) (x : Layer) : (s.setLayer c m l x).xl = s.xl := rfl
@[simp] theorem State.setLayer_cc (s : State) (c m l : Nat) (x : Layer) : (s.setLayer c m l x).cc = s.cc := rfl
@[simp] theorem State.setLayer_stk (s : State) (c m l : Nat) (x : Layer) : (s.setLayer c m l x).stk = s.stk := rfl
@[simp] theorem State.setLayer_pwr (s : State) (c m l : Nat) (x : Layer) : (s.setLayer c m l x).pwr = s.pwr := rfl
@[simp] theorem State.setLayer_aon (s : State) (c m l : Nat) (x : Layer) : (s.setLayer c m l x).aon = s.aon := rfl
@[simp] theorem State.setLayer_nr (s : State) (c m l : Nat) (x : Layer) : (s.setLayer c m l x).nr = s.nr := rfl
@[simp] theorem State.setLayer_hw (s : State) (c m l : Nat) (x : Layer) : (s.setLayer c m l x).hw = s.hw := rfl
@[simp] theorem State.setLayer_links (s : State) (c m l : Nat) (x : Layer) : (s.setLayer c m l x).links = s.links := rfl
@[simp] theorem State.setLayer_routes (s : State) (c m l : Nat) (x : Layer) : (s.setLayer c m l x).routes = s.routes := rfl
@[simp] theorem State.setLayer_ident (s : State) (c m l : Nat) (x : Layer) : (s.setLayer c m l x).ident = s.ident := rfl

/-! ### Updates of a group -/

@[simp] theorem Group.vSet_team (g : Group) (r l : Nat) (x : Word) : (g.vSet r l x).team = g.team := rfl
@[simp] theorem Group.vSet_num (g : Group) (r l : Nat) (x : Word) : (g.vSet r l x).num = g.num := rfl
@[simp] theorem Group.vSet_ctx (g : Group) (r l : Nat) (x : Word) : (g.vSet r l x).ctx = g.ctx := rfl
@[simp] theorem Group.vSet_regs (g : Group) (r l : Nat) (x : Word) : (g.vSet r l x).regs = g.regs := rfl
@[simp] theorem Group.vSet_quarter (g : Group) (r l : Nat) (x : Word) : (g.vSet r l x).quarter = g.quarter := rfl
@[simp] theorem Group.vSet_slot (g : Group) (r l : Nat) (x : Word) : (g.vSet r l x).slot = g.slot := rfl
@[simp] theorem Group.vSet_active (g : Group) (r l : Nat) (x : Word) : (g.vSet r l x).active = g.active := rfl
@[simp] theorem Group.vSet_joined (g : Group) (r l : Nat) (x : Word) : (g.vSet r l x).joined = g.joined := rfl
@[simp] theorem Group.vSet_order (g : Group) (r l : Nat) (x : Word) : (g.vSet r l x).order = g.order := rfl
@[simp] theorem Group.vSet_range (g : Group) (r l : Nat) (x : Word) : (g.vSet r l x).range = g.range := rfl
@[simp] theorem Group.vSet_entries (g : Group) (r l : Nat) (x : Word) : (g.vSet r l x).entries = g.entries := rfl
@[simp] theorem Group.vSet_kerb (g : Group) (r l : Nat) (x : Word) : (g.vSet r l x).kerb = g.kerb := rfl
@[simp] theorem Group.vSet_s (g : Group) (r l : Nat) (x : Word) : (g.vSet r l x).s = g.s := rfl
@[simp] theorem Group.vSet_p (g : Group) (r l : Nat) (x : Word) : (g.vSet r l x).p = g.p := rfl
@[simp] theorem Group.vSet_reentry (g : Group) (r l : Nat) (x : Word) : (g.vSet r l x).reentry = g.reentry := rfl
@[simp] theorem Group.vSet_limit (g : Group) (r l : Nat) (x : Word) : (g.vSet r l x).limit = g.limit := rfl
@[simp] theorem Group.vSet_utvec (g : Group) (r l : Nat) (x : Word) : (g.vSet r l x).utvec = g.utvec := rfl
@[simp] theorem Group.vSet_xdec0 (g : Group) (r l : Nat) (x : Word) : (g.vSet r l x).xdec0 = g.xdec0 := rfl
@[simp] theorem Group.vSet_xdec1 (g : Group) (r l : Nat) (x : Word) : (g.vSet r l x).xdec1 = g.xdec1 := rfl
@[simp] theorem Group.vSet_xdec2 (g : Group) (r l : Nat) (x : Word) : (g.vSet r l x).xdec2 = g.xdec2 := rfl
@[simp] theorem Group.vSet_xdec3 (g : Group) (r l : Nat) (x : Word) : (g.vSet r l x).xdec3 = g.xdec3 := rfl
@[simp] theorem Group.vSet_xcause (g : Group) (r l : Nat) (x : Word) : (g.vSet r l x).xcause = g.xcause := rfl
@[simp] theorem Group.vSet_govStall (g : Group) (r l : Nat) (x : Word) : (g.vSet r l x).govStall = g.govStall := rfl
@[simp] theorem Group.vSet_snap (g : Group) (r l : Nat) (x : Word) : (g.vSet r l x).snap = g.snap := rfl
@[simp] theorem Group.vSet_exited (g : Group) (r l : Nat) (x : Word) : (g.vSet r l x).exited = g.exited := rfl
@[simp] theorem Group.vSet_sealed (g : Group) (r l : Nat) (x : Word) : (g.vSet r l x).sealed = g.sealed := rfl
@[simp] theorem Group.vSet_outside (g : Group) (r l : Nat) (x : Word) : (g.vSet r l x).outside = g.outside := rfl
@[simp] theorem Group.vSet_entryPc (g : Group) (r l : Nat) (x : Word) : (g.vSet r l x).entryPc = g.entryPc := rfl
@[simp] theorem Group.vSet_entryPrio (g : Group) (r l : Nat) (x : Word) : (g.vSet r l x).entryPrio = g.entryPrio := rfl
@[simp] theorem Group.vSet_cohort (g : Group) (r l : Nat) (x : Word) : (g.vSet r l x).cohort = g.cohort := rfl
@[simp] theorem Group.vSet_parkedIn (g : Group) (r l : Nat) (x : Word) : (g.vSet r l x).parkedIn = g.parkedIn := rfl
@[simp] theorem Group.vSet_owing (g : Group) (r l : Nat) (x : Word) : (g.vSet r l x).owing = g.owing := rfl
@[simp] theorem Group.vSet_redo (g : Group) (r l : Nat) (x : Word) : (g.vSet r l x).redo = g.redo := rfl
@[simp] theorem Group.vSet_recheck (g : Group) (r l : Nat) (x : Word) : (g.vSet r l x).recheck = g.recheck := rfl
@[simp] theorem Group.vSet_beats (g : Group) (r l : Nat) (x : Word) : (g.vSet r l x).beats = g.beats := rfl
@[simp] theorem Group.vSet_handler (g : Group) (r l : Nat) (x : Word) : (g.vSet r l x).handler = g.handler := rfl
@[simp] theorem Group.vSet_deferred (g : Group) (r l : Nat) (x : Word) : (g.vSet r l x).deferred = g.deferred := rfl
@[simp] theorem Group.vSet_buffer (g : Group) (r l : Nat) (x : Word) : (g.vSet r l x).buffer = g.buffer := rfl
@[simp] theorem Group.vSet_readSet (g : Group) (r l : Nat) (x : Word) : (g.vSet r l x).readSet = g.readSet := rfl
@[simp] theorem Group.vSet_accepted (g : Group) (r l : Nat) (x : Word) : (g.vSet r l x).accepted = g.accepted := rfl
@[simp] theorem Group.vSet_issued (g : Group) (r l : Nat) (x : Word) : (g.vSet r l x).issued = g.issued := rfl
@[simp] theorem Group.vSet_counts (g : Group) (r l : Nat) (x : Word) : (g.vSet r l x).counts = g.counts := rfl
@[simp] theorem Group.vSet_acv (g : Group) (r l : Nat) (x : Word) : (g.vSet r l x).acv = g.acv := rfl
@[simp] theorem Group.vSet_skip (g : Group) (r l : Nat) (x : Word) : (g.vSet r l x).skip = g.skip := rfl
@[simp] theorem Group.vSet_stored (g : Group) (r l : Nat) (x : Word) : (g.vSet r l x).stored = g.stored := rfl
@[simp] theorem Group.vSet_yielded (g : Group) (r l : Nat) (x : Word) : (g.vSet r l x).yielded = g.yielded := rfl
@[simp] theorem Group.vSet_yieldMark (g : Group) (r l : Nat) (x : Word) : (g.vSet r l x).yieldMark = g.yieldMark := rfl
@[simp] theorem Group.vSet_suspectHold (g : Group) (r l : Nat) (x : Word) : (g.vSet r l x).suspectHold = g.suspectHold := rfl
@[simp] theorem Group.vSet_ended (g : Group) (r l : Nat) (x : Word) : (g.vSet r l x).ended = g.ended := rfl
@[simp] theorem Group.vSet_preempt (g : Group) (r l : Nat) (x : Word) : (g.vSet r l x).preempt = g.preempt := rfl

@[simp] theorem Group.kSet_team (g : Group) (r l : Nat) (x : Word) : (g.kSet r l x).team = g.team := rfl
@[simp] theorem Group.kSet_num (g : Group) (r l : Nat) (x : Word) : (g.kSet r l x).num = g.num := rfl
@[simp] theorem Group.kSet_ctx (g : Group) (r l : Nat) (x : Word) : (g.kSet r l x).ctx = g.ctx := rfl
@[simp] theorem Group.kSet_regs (g : Group) (r l : Nat) (x : Word) : (g.kSet r l x).regs = g.regs := rfl
@[simp] theorem Group.kSet_quarter (g : Group) (r l : Nat) (x : Word) : (g.kSet r l x).quarter = g.quarter := rfl
@[simp] theorem Group.kSet_slot (g : Group) (r l : Nat) (x : Word) : (g.kSet r l x).slot = g.slot := rfl
@[simp] theorem Group.kSet_active (g : Group) (r l : Nat) (x : Word) : (g.kSet r l x).active = g.active := rfl
@[simp] theorem Group.kSet_joined (g : Group) (r l : Nat) (x : Word) : (g.kSet r l x).joined = g.joined := rfl
@[simp] theorem Group.kSet_order (g : Group) (r l : Nat) (x : Word) : (g.kSet r l x).order = g.order := rfl
@[simp] theorem Group.kSet_range (g : Group) (r l : Nat) (x : Word) : (g.kSet r l x).range = g.range := rfl
@[simp] theorem Group.kSet_entries (g : Group) (r l : Nat) (x : Word) : (g.kSet r l x).entries = g.entries := rfl
@[simp] theorem Group.kSet_v (g : Group) (r l : Nat) (x : Word) : (g.kSet r l x).v = g.v := rfl
@[simp] theorem Group.kSet_vpoison (g : Group) (r l : Nat) (x : Word) : (g.kSet r l x).vpoison = g.vpoison := rfl
@[simp] theorem Group.kSet_s (g : Group) (r l : Nat) (x : Word) : (g.kSet r l x).s = g.s := rfl
@[simp] theorem Group.kSet_p (g : Group) (r l : Nat) (x : Word) : (g.kSet r l x).p = g.p := rfl
@[simp] theorem Group.kSet_reentry (g : Group) (r l : Nat) (x : Word) : (g.kSet r l x).reentry = g.reentry := rfl
@[simp] theorem Group.kSet_limit (g : Group) (r l : Nat) (x : Word) : (g.kSet r l x).limit = g.limit := rfl
@[simp] theorem Group.kSet_utvec (g : Group) (r l : Nat) (x : Word) : (g.kSet r l x).utvec = g.utvec := rfl
@[simp] theorem Group.kSet_xdec0 (g : Group) (r l : Nat) (x : Word) : (g.kSet r l x).xdec0 = g.xdec0 := rfl
@[simp] theorem Group.kSet_xdec1 (g : Group) (r l : Nat) (x : Word) : (g.kSet r l x).xdec1 = g.xdec1 := rfl
@[simp] theorem Group.kSet_xdec2 (g : Group) (r l : Nat) (x : Word) : (g.kSet r l x).xdec2 = g.xdec2 := rfl
@[simp] theorem Group.kSet_xdec3 (g : Group) (r l : Nat) (x : Word) : (g.kSet r l x).xdec3 = g.xdec3 := rfl
@[simp] theorem Group.kSet_xcause (g : Group) (r l : Nat) (x : Word) : (g.kSet r l x).xcause = g.xcause := rfl
@[simp] theorem Group.kSet_govStall (g : Group) (r l : Nat) (x : Word) : (g.kSet r l x).govStall = g.govStall := rfl
@[simp] theorem Group.kSet_snap (g : Group) (r l : Nat) (x : Word) : (g.kSet r l x).snap = g.snap := rfl
@[simp] theorem Group.kSet_exited (g : Group) (r l : Nat) (x : Word) : (g.kSet r l x).exited = g.exited := rfl
@[simp] theorem Group.kSet_sealed (g : Group) (r l : Nat) (x : Word) : (g.kSet r l x).sealed = g.sealed := rfl
@[simp] theorem Group.kSet_outside (g : Group) (r l : Nat) (x : Word) : (g.kSet r l x).outside = g.outside := rfl
@[simp] theorem Group.kSet_entryPc (g : Group) (r l : Nat) (x : Word) : (g.kSet r l x).entryPc = g.entryPc := rfl
@[simp] theorem Group.kSet_entryPrio (g : Group) (r l : Nat) (x : Word) : (g.kSet r l x).entryPrio = g.entryPrio := rfl
@[simp] theorem Group.kSet_cohort (g : Group) (r l : Nat) (x : Word) : (g.kSet r l x).cohort = g.cohort := rfl
@[simp] theorem Group.kSet_parkedIn (g : Group) (r l : Nat) (x : Word) : (g.kSet r l x).parkedIn = g.parkedIn := rfl
@[simp] theorem Group.kSet_owing (g : Group) (r l : Nat) (x : Word) : (g.kSet r l x).owing = g.owing := rfl
@[simp] theorem Group.kSet_redo (g : Group) (r l : Nat) (x : Word) : (g.kSet r l x).redo = g.redo := rfl
@[simp] theorem Group.kSet_recheck (g : Group) (r l : Nat) (x : Word) : (g.kSet r l x).recheck = g.recheck := rfl
@[simp] theorem Group.kSet_beats (g : Group) (r l : Nat) (x : Word) : (g.kSet r l x).beats = g.beats := rfl
@[simp] theorem Group.kSet_handler (g : Group) (r l : Nat) (x : Word) : (g.kSet r l x).handler = g.handler := rfl
@[simp] theorem Group.kSet_deferred (g : Group) (r l : Nat) (x : Word) : (g.kSet r l x).deferred = g.deferred := rfl
@[simp] theorem Group.kSet_buffer (g : Group) (r l : Nat) (x : Word) : (g.kSet r l x).buffer = g.buffer := rfl
@[simp] theorem Group.kSet_readSet (g : Group) (r l : Nat) (x : Word) : (g.kSet r l x).readSet = g.readSet := rfl
@[simp] theorem Group.kSet_accepted (g : Group) (r l : Nat) (x : Word) : (g.kSet r l x).accepted = g.accepted := rfl
@[simp] theorem Group.kSet_issued (g : Group) (r l : Nat) (x : Word) : (g.kSet r l x).issued = g.issued := rfl
@[simp] theorem Group.kSet_counts (g : Group) (r l : Nat) (x : Word) : (g.kSet r l x).counts = g.counts := rfl
@[simp] theorem Group.kSet_acv (g : Group) (r l : Nat) (x : Word) : (g.kSet r l x).acv = g.acv := rfl
@[simp] theorem Group.kSet_skip (g : Group) (r l : Nat) (x : Word) : (g.kSet r l x).skip = g.skip := rfl
@[simp] theorem Group.kSet_stored (g : Group) (r l : Nat) (x : Word) : (g.kSet r l x).stored = g.stored := rfl
@[simp] theorem Group.kSet_yielded (g : Group) (r l : Nat) (x : Word) : (g.kSet r l x).yielded = g.yielded := rfl
@[simp] theorem Group.kSet_yieldMark (g : Group) (r l : Nat) (x : Word) : (g.kSet r l x).yieldMark = g.yieldMark := rfl
@[simp] theorem Group.kSet_suspectHold (g : Group) (r l : Nat) (x : Word) : (g.kSet r l x).suspectHold = g.suspectHold := rfl
@[simp] theorem Group.kSet_ended (g : Group) (r l : Nat) (x : Word) : (g.kSet r l x).ended = g.ended := rfl
@[simp] theorem Group.kSet_preempt (g : Group) (r l : Nat) (x : Word) : (g.kSet r l x).preempt = g.preempt := rfl

@[simp] theorem Group.sSet_team (g : Group) (r : Nat) (x : Word64) : (g.sSet r x).team = g.team := rfl
@[simp] theorem Group.sSet_num (g : Group) (r : Nat) (x : Word64) : (g.sSet r x).num = g.num := rfl
@[simp] theorem Group.sSet_ctx (g : Group) (r : Nat) (x : Word64) : (g.sSet r x).ctx = g.ctx := rfl
@[simp] theorem Group.sSet_regs (g : Group) (r : Nat) (x : Word64) : (g.sSet r x).regs = g.regs := rfl
@[simp] theorem Group.sSet_quarter (g : Group) (r : Nat) (x : Word64) : (g.sSet r x).quarter = g.quarter := rfl
@[simp] theorem Group.sSet_slot (g : Group) (r : Nat) (x : Word64) : (g.sSet r x).slot = g.slot := rfl
@[simp] theorem Group.sSet_active (g : Group) (r : Nat) (x : Word64) : (g.sSet r x).active = g.active := rfl
@[simp] theorem Group.sSet_joined (g : Group) (r : Nat) (x : Word64) : (g.sSet r x).joined = g.joined := rfl
@[simp] theorem Group.sSet_order (g : Group) (r : Nat) (x : Word64) : (g.sSet r x).order = g.order := rfl
@[simp] theorem Group.sSet_range (g : Group) (r : Nat) (x : Word64) : (g.sSet r x).range = g.range := rfl
@[simp] theorem Group.sSet_entries (g : Group) (r : Nat) (x : Word64) : (g.sSet r x).entries = g.entries := rfl
@[simp] theorem Group.sSet_v (g : Group) (r : Nat) (x : Word64) : (g.sSet r x).v = g.v := rfl
@[simp] theorem Group.sSet_vpoison (g : Group) (r : Nat) (x : Word64) : (g.sSet r x).vpoison = g.vpoison := rfl
@[simp] theorem Group.sSet_kerb (g : Group) (r : Nat) (x : Word64) : (g.sSet r x).kerb = g.kerb := rfl
@[simp] theorem Group.sSet_p (g : Group) (r : Nat) (x : Word64) : (g.sSet r x).p = g.p := rfl
@[simp] theorem Group.sSet_reentry (g : Group) (r : Nat) (x : Word64) : (g.sSet r x).reentry = g.reentry := rfl
@[simp] theorem Group.sSet_limit (g : Group) (r : Nat) (x : Word64) : (g.sSet r x).limit = g.limit := rfl
@[simp] theorem Group.sSet_utvec (g : Group) (r : Nat) (x : Word64) : (g.sSet r x).utvec = g.utvec := rfl
@[simp] theorem Group.sSet_xdec0 (g : Group) (r : Nat) (x : Word64) : (g.sSet r x).xdec0 = g.xdec0 := rfl
@[simp] theorem Group.sSet_xdec1 (g : Group) (r : Nat) (x : Word64) : (g.sSet r x).xdec1 = g.xdec1 := rfl
@[simp] theorem Group.sSet_xdec2 (g : Group) (r : Nat) (x : Word64) : (g.sSet r x).xdec2 = g.xdec2 := rfl
@[simp] theorem Group.sSet_xdec3 (g : Group) (r : Nat) (x : Word64) : (g.sSet r x).xdec3 = g.xdec3 := rfl
@[simp] theorem Group.sSet_xcause (g : Group) (r : Nat) (x : Word64) : (g.sSet r x).xcause = g.xcause := rfl
@[simp] theorem Group.sSet_govStall (g : Group) (r : Nat) (x : Word64) : (g.sSet r x).govStall = g.govStall := rfl
@[simp] theorem Group.sSet_snap (g : Group) (r : Nat) (x : Word64) : (g.sSet r x).snap = g.snap := rfl
@[simp] theorem Group.sSet_exited (g : Group) (r : Nat) (x : Word64) : (g.sSet r x).exited = g.exited := rfl
@[simp] theorem Group.sSet_sealed (g : Group) (r : Nat) (x : Word64) : (g.sSet r x).sealed = g.sealed := rfl
@[simp] theorem Group.sSet_outside (g : Group) (r : Nat) (x : Word64) : (g.sSet r x).outside = g.outside := rfl
@[simp] theorem Group.sSet_entryPc (g : Group) (r : Nat) (x : Word64) : (g.sSet r x).entryPc = g.entryPc := rfl
@[simp] theorem Group.sSet_entryPrio (g : Group) (r : Nat) (x : Word64) : (g.sSet r x).entryPrio = g.entryPrio := rfl
@[simp] theorem Group.sSet_cohort (g : Group) (r : Nat) (x : Word64) : (g.sSet r x).cohort = g.cohort := rfl
@[simp] theorem Group.sSet_parkedIn (g : Group) (r : Nat) (x : Word64) : (g.sSet r x).parkedIn = g.parkedIn := rfl
@[simp] theorem Group.sSet_owing (g : Group) (r : Nat) (x : Word64) : (g.sSet r x).owing = g.owing := rfl
@[simp] theorem Group.sSet_redo (g : Group) (r : Nat) (x : Word64) : (g.sSet r x).redo = g.redo := rfl
@[simp] theorem Group.sSet_recheck (g : Group) (r : Nat) (x : Word64) : (g.sSet r x).recheck = g.recheck := rfl
@[simp] theorem Group.sSet_beats (g : Group) (r : Nat) (x : Word64) : (g.sSet r x).beats = g.beats := rfl
@[simp] theorem Group.sSet_handler (g : Group) (r : Nat) (x : Word64) : (g.sSet r x).handler = g.handler := rfl
@[simp] theorem Group.sSet_deferred (g : Group) (r : Nat) (x : Word64) : (g.sSet r x).deferred = g.deferred := rfl
@[simp] theorem Group.sSet_buffer (g : Group) (r : Nat) (x : Word64) : (g.sSet r x).buffer = g.buffer := rfl
@[simp] theorem Group.sSet_readSet (g : Group) (r : Nat) (x : Word64) : (g.sSet r x).readSet = g.readSet := rfl
@[simp] theorem Group.sSet_accepted (g : Group) (r : Nat) (x : Word64) : (g.sSet r x).accepted = g.accepted := rfl
@[simp] theorem Group.sSet_issued (g : Group) (r : Nat) (x : Word64) : (g.sSet r x).issued = g.issued := rfl
@[simp] theorem Group.sSet_counts (g : Group) (r : Nat) (x : Word64) : (g.sSet r x).counts = g.counts := rfl
@[simp] theorem Group.sSet_acv (g : Group) (r : Nat) (x : Word64) : (g.sSet r x).acv = g.acv := rfl
@[simp] theorem Group.sSet_skip (g : Group) (r : Nat) (x : Word64) : (g.sSet r x).skip = g.skip := rfl
@[simp] theorem Group.sSet_stored (g : Group) (r : Nat) (x : Word64) : (g.sSet r x).stored = g.stored := rfl
@[simp] theorem Group.sSet_yielded (g : Group) (r : Nat) (x : Word64) : (g.sSet r x).yielded = g.yielded := rfl
@[simp] theorem Group.sSet_yieldMark (g : Group) (r : Nat) (x : Word64) : (g.sSet r x).yieldMark = g.yieldMark := rfl
@[simp] theorem Group.sSet_suspectHold (g : Group) (r : Nat) (x : Word64) : (g.sSet r x).suspectHold = g.suspectHold := rfl
@[simp] theorem Group.sSet_ended (g : Group) (r : Nat) (x : Word64) : (g.sSet r x).ended = g.ended := rfl
@[simp] theorem Group.sSet_preempt (g : Group) (r : Nat) (x : Word64) : (g.sSet r x).preempt = g.preempt := rfl

@[simp] theorem Group.pSet_team (g : Group) (r : Nat) (x : Mask) : (g.pSet r x).team = g.team := rfl
@[simp] theorem Group.pSet_num (g : Group) (r : Nat) (x : Mask) : (g.pSet r x).num = g.num := rfl
@[simp] theorem Group.pSet_ctx (g : Group) (r : Nat) (x : Mask) : (g.pSet r x).ctx = g.ctx := rfl
@[simp] theorem Group.pSet_regs (g : Group) (r : Nat) (x : Mask) : (g.pSet r x).regs = g.regs := rfl
@[simp] theorem Group.pSet_quarter (g : Group) (r : Nat) (x : Mask) : (g.pSet r x).quarter = g.quarter := rfl
@[simp] theorem Group.pSet_slot (g : Group) (r : Nat) (x : Mask) : (g.pSet r x).slot = g.slot := rfl
@[simp] theorem Group.pSet_active (g : Group) (r : Nat) (x : Mask) : (g.pSet r x).active = g.active := rfl
@[simp] theorem Group.pSet_joined (g : Group) (r : Nat) (x : Mask) : (g.pSet r x).joined = g.joined := rfl
@[simp] theorem Group.pSet_order (g : Group) (r : Nat) (x : Mask) : (g.pSet r x).order = g.order := rfl
@[simp] theorem Group.pSet_range (g : Group) (r : Nat) (x : Mask) : (g.pSet r x).range = g.range := rfl
@[simp] theorem Group.pSet_entries (g : Group) (r : Nat) (x : Mask) : (g.pSet r x).entries = g.entries := rfl
@[simp] theorem Group.pSet_v (g : Group) (r : Nat) (x : Mask) : (g.pSet r x).v = g.v := rfl
@[simp] theorem Group.pSet_vpoison (g : Group) (r : Nat) (x : Mask) : (g.pSet r x).vpoison = g.vpoison := rfl
@[simp] theorem Group.pSet_kerb (g : Group) (r : Nat) (x : Mask) : (g.pSet r x).kerb = g.kerb := rfl
@[simp] theorem Group.pSet_s (g : Group) (r : Nat) (x : Mask) : (g.pSet r x).s = g.s := rfl
@[simp] theorem Group.pSet_reentry (g : Group) (r : Nat) (x : Mask) : (g.pSet r x).reentry = g.reentry := rfl
@[simp] theorem Group.pSet_limit (g : Group) (r : Nat) (x : Mask) : (g.pSet r x).limit = g.limit := rfl
@[simp] theorem Group.pSet_utvec (g : Group) (r : Nat) (x : Mask) : (g.pSet r x).utvec = g.utvec := rfl
@[simp] theorem Group.pSet_xdec0 (g : Group) (r : Nat) (x : Mask) : (g.pSet r x).xdec0 = g.xdec0 := rfl
@[simp] theorem Group.pSet_xdec1 (g : Group) (r : Nat) (x : Mask) : (g.pSet r x).xdec1 = g.xdec1 := rfl
@[simp] theorem Group.pSet_xdec2 (g : Group) (r : Nat) (x : Mask) : (g.pSet r x).xdec2 = g.xdec2 := rfl
@[simp] theorem Group.pSet_xdec3 (g : Group) (r : Nat) (x : Mask) : (g.pSet r x).xdec3 = g.xdec3 := rfl
@[simp] theorem Group.pSet_xcause (g : Group) (r : Nat) (x : Mask) : (g.pSet r x).xcause = g.xcause := rfl
@[simp] theorem Group.pSet_govStall (g : Group) (r : Nat) (x : Mask) : (g.pSet r x).govStall = g.govStall := rfl
@[simp] theorem Group.pSet_snap (g : Group) (r : Nat) (x : Mask) : (g.pSet r x).snap = g.snap := rfl
@[simp] theorem Group.pSet_exited (g : Group) (r : Nat) (x : Mask) : (g.pSet r x).exited = g.exited := rfl
@[simp] theorem Group.pSet_sealed (g : Group) (r : Nat) (x : Mask) : (g.pSet r x).sealed = g.sealed := rfl
@[simp] theorem Group.pSet_outside (g : Group) (r : Nat) (x : Mask) : (g.pSet r x).outside = g.outside := rfl
@[simp] theorem Group.pSet_entryPc (g : Group) (r : Nat) (x : Mask) : (g.pSet r x).entryPc = g.entryPc := rfl
@[simp] theorem Group.pSet_entryPrio (g : Group) (r : Nat) (x : Mask) : (g.pSet r x).entryPrio = g.entryPrio := rfl
@[simp] theorem Group.pSet_cohort (g : Group) (r : Nat) (x : Mask) : (g.pSet r x).cohort = g.cohort := rfl
@[simp] theorem Group.pSet_parkedIn (g : Group) (r : Nat) (x : Mask) : (g.pSet r x).parkedIn = g.parkedIn := rfl
@[simp] theorem Group.pSet_owing (g : Group) (r : Nat) (x : Mask) : (g.pSet r x).owing = g.owing := rfl
@[simp] theorem Group.pSet_redo (g : Group) (r : Nat) (x : Mask) : (g.pSet r x).redo = g.redo := rfl
@[simp] theorem Group.pSet_recheck (g : Group) (r : Nat) (x : Mask) : (g.pSet r x).recheck = g.recheck := rfl
@[simp] theorem Group.pSet_beats (g : Group) (r : Nat) (x : Mask) : (g.pSet r x).beats = g.beats := rfl
@[simp] theorem Group.pSet_handler (g : Group) (r : Nat) (x : Mask) : (g.pSet r x).handler = g.handler := rfl
@[simp] theorem Group.pSet_deferred (g : Group) (r : Nat) (x : Mask) : (g.pSet r x).deferred = g.deferred := rfl
@[simp] theorem Group.pSet_buffer (g : Group) (r : Nat) (x : Mask) : (g.pSet r x).buffer = g.buffer := rfl
@[simp] theorem Group.pSet_readSet (g : Group) (r : Nat) (x : Mask) : (g.pSet r x).readSet = g.readSet := rfl
@[simp] theorem Group.pSet_accepted (g : Group) (r : Nat) (x : Mask) : (g.pSet r x).accepted = g.accepted := rfl
@[simp] theorem Group.pSet_issued (g : Group) (r : Nat) (x : Mask) : (g.pSet r x).issued = g.issued := rfl
@[simp] theorem Group.pSet_counts (g : Group) (r : Nat) (x : Mask) : (g.pSet r x).counts = g.counts := rfl
@[simp] theorem Group.pSet_acv (g : Group) (r : Nat) (x : Mask) : (g.pSet r x).acv = g.acv := rfl
@[simp] theorem Group.pSet_skip (g : Group) (r : Nat) (x : Mask) : (g.pSet r x).skip = g.skip := rfl
@[simp] theorem Group.pSet_stored (g : Group) (r : Nat) (x : Mask) : (g.pSet r x).stored = g.stored := rfl
@[simp] theorem Group.pSet_yielded (g : Group) (r : Nat) (x : Mask) : (g.pSet r x).yielded = g.yielded := rfl
@[simp] theorem Group.pSet_yieldMark (g : Group) (r : Nat) (x : Mask) : (g.pSet r x).yieldMark = g.yieldMark := rfl
@[simp] theorem Group.pSet_suspectHold (g : Group) (r : Nat) (x : Mask) : (g.pSet r x).suspectHold = g.suspectHold := rfl
@[simp] theorem Group.pSet_ended (g : Group) (r : Nat) (x : Mask) : (g.pSet r x).ended = g.ended := rfl
@[simp] theorem Group.pSet_preempt (g : Group) (r : Nat) (x : Mask) : (g.pSet r x).preempt = g.preempt := rfl

@[simp] theorem Group.pWrite_team (g : Group) (r : Nat) (m x : Mask) : (g.pWrite r m x).team = g.team := rfl
@[simp] theorem Group.pWrite_num (g : Group) (r : Nat) (m x : Mask) : (g.pWrite r m x).num = g.num := rfl
@[simp] theorem Group.pWrite_ctx (g : Group) (r : Nat) (m x : Mask) : (g.pWrite r m x).ctx = g.ctx := rfl
@[simp] theorem Group.pWrite_regs (g : Group) (r : Nat) (m x : Mask) : (g.pWrite r m x).regs = g.regs := rfl
@[simp] theorem Group.pWrite_quarter (g : Group) (r : Nat) (m x : Mask) : (g.pWrite r m x).quarter = g.quarter := rfl
@[simp] theorem Group.pWrite_slot (g : Group) (r : Nat) (m x : Mask) : (g.pWrite r m x).slot = g.slot := rfl
@[simp] theorem Group.pWrite_active (g : Group) (r : Nat) (m x : Mask) : (g.pWrite r m x).active = g.active := rfl
@[simp] theorem Group.pWrite_joined (g : Group) (r : Nat) (m x : Mask) : (g.pWrite r m x).joined = g.joined := rfl
@[simp] theorem Group.pWrite_order (g : Group) (r : Nat) (m x : Mask) : (g.pWrite r m x).order = g.order := rfl
@[simp] theorem Group.pWrite_range (g : Group) (r : Nat) (m x : Mask) : (g.pWrite r m x).range = g.range := rfl
@[simp] theorem Group.pWrite_entries (g : Group) (r : Nat) (m x : Mask) : (g.pWrite r m x).entries = g.entries := rfl
@[simp] theorem Group.pWrite_v (g : Group) (r : Nat) (m x : Mask) : (g.pWrite r m x).v = g.v := rfl
@[simp] theorem Group.pWrite_vpoison (g : Group) (r : Nat) (m x : Mask) : (g.pWrite r m x).vpoison = g.vpoison := rfl
@[simp] theorem Group.pWrite_kerb (g : Group) (r : Nat) (m x : Mask) : (g.pWrite r m x).kerb = g.kerb := rfl
@[simp] theorem Group.pWrite_s (g : Group) (r : Nat) (m x : Mask) : (g.pWrite r m x).s = g.s := rfl
@[simp] theorem Group.pWrite_reentry (g : Group) (r : Nat) (m x : Mask) : (g.pWrite r m x).reentry = g.reentry := rfl
@[simp] theorem Group.pWrite_limit (g : Group) (r : Nat) (m x : Mask) : (g.pWrite r m x).limit = g.limit := rfl
@[simp] theorem Group.pWrite_utvec (g : Group) (r : Nat) (m x : Mask) : (g.pWrite r m x).utvec = g.utvec := rfl
@[simp] theorem Group.pWrite_xdec0 (g : Group) (r : Nat) (m x : Mask) : (g.pWrite r m x).xdec0 = g.xdec0 := rfl
@[simp] theorem Group.pWrite_xdec1 (g : Group) (r : Nat) (m x : Mask) : (g.pWrite r m x).xdec1 = g.xdec1 := rfl
@[simp] theorem Group.pWrite_xdec2 (g : Group) (r : Nat) (m x : Mask) : (g.pWrite r m x).xdec2 = g.xdec2 := rfl
@[simp] theorem Group.pWrite_xdec3 (g : Group) (r : Nat) (m x : Mask) : (g.pWrite r m x).xdec3 = g.xdec3 := rfl
@[simp] theorem Group.pWrite_xcause (g : Group) (r : Nat) (m x : Mask) : (g.pWrite r m x).xcause = g.xcause := rfl
@[simp] theorem Group.pWrite_govStall (g : Group) (r : Nat) (m x : Mask) : (g.pWrite r m x).govStall = g.govStall := rfl
@[simp] theorem Group.pWrite_snap (g : Group) (r : Nat) (m x : Mask) : (g.pWrite r m x).snap = g.snap := rfl
@[simp] theorem Group.pWrite_exited (g : Group) (r : Nat) (m x : Mask) : (g.pWrite r m x).exited = g.exited := rfl
@[simp] theorem Group.pWrite_sealed (g : Group) (r : Nat) (m x : Mask) : (g.pWrite r m x).sealed = g.sealed := rfl
@[simp] theorem Group.pWrite_outside (g : Group) (r : Nat) (m x : Mask) : (g.pWrite r m x).outside = g.outside := rfl
@[simp] theorem Group.pWrite_entryPc (g : Group) (r : Nat) (m x : Mask) : (g.pWrite r m x).entryPc = g.entryPc := rfl
@[simp] theorem Group.pWrite_entryPrio (g : Group) (r : Nat) (m x : Mask) : (g.pWrite r m x).entryPrio = g.entryPrio := rfl
@[simp] theorem Group.pWrite_cohort (g : Group) (r : Nat) (m x : Mask) : (g.pWrite r m x).cohort = g.cohort := rfl
@[simp] theorem Group.pWrite_parkedIn (g : Group) (r : Nat) (m x : Mask) : (g.pWrite r m x).parkedIn = g.parkedIn := rfl
@[simp] theorem Group.pWrite_owing (g : Group) (r : Nat) (m x : Mask) : (g.pWrite r m x).owing = g.owing := rfl
@[simp] theorem Group.pWrite_redo (g : Group) (r : Nat) (m x : Mask) : (g.pWrite r m x).redo = g.redo := rfl
@[simp] theorem Group.pWrite_recheck (g : Group) (r : Nat) (m x : Mask) : (g.pWrite r m x).recheck = g.recheck := rfl
@[simp] theorem Group.pWrite_beats (g : Group) (r : Nat) (m x : Mask) : (g.pWrite r m x).beats = g.beats := rfl
@[simp] theorem Group.pWrite_handler (g : Group) (r : Nat) (m x : Mask) : (g.pWrite r m x).handler = g.handler := rfl
@[simp] theorem Group.pWrite_deferred (g : Group) (r : Nat) (m x : Mask) : (g.pWrite r m x).deferred = g.deferred := rfl
@[simp] theorem Group.pWrite_buffer (g : Group) (r : Nat) (m x : Mask) : (g.pWrite r m x).buffer = g.buffer := rfl
@[simp] theorem Group.pWrite_readSet (g : Group) (r : Nat) (m x : Mask) : (g.pWrite r m x).readSet = g.readSet := rfl
@[simp] theorem Group.pWrite_accepted (g : Group) (r : Nat) (m x : Mask) : (g.pWrite r m x).accepted = g.accepted := rfl
@[simp] theorem Group.pWrite_issued (g : Group) (r : Nat) (m x : Mask) : (g.pWrite r m x).issued = g.issued := rfl
@[simp] theorem Group.pWrite_counts (g : Group) (r : Nat) (m x : Mask) : (g.pWrite r m x).counts = g.counts := rfl
@[simp] theorem Group.pWrite_acv (g : Group) (r : Nat) (m x : Mask) : (g.pWrite r m x).acv = g.acv := rfl
@[simp] theorem Group.pWrite_skip (g : Group) (r : Nat) (m x : Mask) : (g.pWrite r m x).skip = g.skip := rfl
@[simp] theorem Group.pWrite_stored (g : Group) (r : Nat) (m x : Mask) : (g.pWrite r m x).stored = g.stored := rfl
@[simp] theorem Group.pWrite_yielded (g : Group) (r : Nat) (m x : Mask) : (g.pWrite r m x).yielded = g.yielded := rfl
@[simp] theorem Group.pWrite_yieldMark (g : Group) (r : Nat) (m x : Mask) : (g.pWrite r m x).yieldMark = g.yieldMark := rfl
@[simp] theorem Group.pWrite_suspectHold (g : Group) (r : Nat) (m x : Mask) : (g.pWrite r m x).suspectHold = g.suspectHold := rfl
@[simp] theorem Group.pWrite_ended (g : Group) (r : Nat) (m x : Mask) : (g.pWrite r m x).ended = g.ended := rfl
@[simp] theorem Group.pWrite_preempt (g : Group) (r : Nat) (m x : Mask) : (g.pWrite r m x).preempt = g.preempt := rfl

@[simp] theorem Group.modEntry_team (g : Group) (l : Nat) (f : Entry → Entry) : (g.modEntry l f).team = g.team := rfl
@[simp] theorem Group.modEntry_num (g : Group) (l : Nat) (f : Entry → Entry) : (g.modEntry l f).num = g.num := rfl
@[simp] theorem Group.modEntry_ctx (g : Group) (l : Nat) (f : Entry → Entry) : (g.modEntry l f).ctx = g.ctx := rfl
@[simp] theorem Group.modEntry_regs (g : Group) (l : Nat) (f : Entry → Entry) : (g.modEntry l f).regs = g.regs := rfl
@[simp] theorem Group.modEntry_quarter (g : Group) (l : Nat) (f : Entry → Entry) : (g.modEntry l f).quarter = g.quarter := rfl
@[simp] theorem Group.modEntry_slot (g : Group) (l : Nat) (f : Entry → Entry) : (g.modEntry l f).slot = g.slot := rfl
@[simp] theorem Group.modEntry_active (g : Group) (l : Nat) (f : Entry → Entry) : (g.modEntry l f).active = g.active := rfl
@[simp] theorem Group.modEntry_joined (g : Group) (l : Nat) (f : Entry → Entry) : (g.modEntry l f).joined = g.joined := rfl
@[simp] theorem Group.modEntry_order (g : Group) (l : Nat) (f : Entry → Entry) : (g.modEntry l f).order = g.order := rfl
@[simp] theorem Group.modEntry_range (g : Group) (l : Nat) (f : Entry → Entry) : (g.modEntry l f).range = g.range := rfl
@[simp] theorem Group.modEntry_v (g : Group) (l : Nat) (f : Entry → Entry) : (g.modEntry l f).v = g.v := rfl
@[simp] theorem Group.modEntry_vpoison (g : Group) (l : Nat) (f : Entry → Entry) : (g.modEntry l f).vpoison = g.vpoison := rfl
@[simp] theorem Group.modEntry_kerb (g : Group) (l : Nat) (f : Entry → Entry) : (g.modEntry l f).kerb = g.kerb := rfl
@[simp] theorem Group.modEntry_s (g : Group) (l : Nat) (f : Entry → Entry) : (g.modEntry l f).s = g.s := rfl
@[simp] theorem Group.modEntry_p (g : Group) (l : Nat) (f : Entry → Entry) : (g.modEntry l f).p = g.p := rfl
@[simp] theorem Group.modEntry_reentry (g : Group) (l : Nat) (f : Entry → Entry) : (g.modEntry l f).reentry = g.reentry := rfl
@[simp] theorem Group.modEntry_limit (g : Group) (l : Nat) (f : Entry → Entry) : (g.modEntry l f).limit = g.limit := rfl
@[simp] theorem Group.modEntry_utvec (g : Group) (l : Nat) (f : Entry → Entry) : (g.modEntry l f).utvec = g.utvec := rfl
@[simp] theorem Group.modEntry_xdec0 (g : Group) (l : Nat) (f : Entry → Entry) : (g.modEntry l f).xdec0 = g.xdec0 := rfl
@[simp] theorem Group.modEntry_xdec1 (g : Group) (l : Nat) (f : Entry → Entry) : (g.modEntry l f).xdec1 = g.xdec1 := rfl
@[simp] theorem Group.modEntry_xdec2 (g : Group) (l : Nat) (f : Entry → Entry) : (g.modEntry l f).xdec2 = g.xdec2 := rfl
@[simp] theorem Group.modEntry_xdec3 (g : Group) (l : Nat) (f : Entry → Entry) : (g.modEntry l f).xdec3 = g.xdec3 := rfl
@[simp] theorem Group.modEntry_xcause (g : Group) (l : Nat) (f : Entry → Entry) : (g.modEntry l f).xcause = g.xcause := rfl
@[simp] theorem Group.modEntry_govStall (g : Group) (l : Nat) (f : Entry → Entry) : (g.modEntry l f).govStall = g.govStall := rfl
@[simp] theorem Group.modEntry_snap (g : Group) (l : Nat) (f : Entry → Entry) : (g.modEntry l f).snap = g.snap := rfl
@[simp] theorem Group.modEntry_exited (g : Group) (l : Nat) (f : Entry → Entry) : (g.modEntry l f).exited = g.exited := rfl
@[simp] theorem Group.modEntry_sealed (g : Group) (l : Nat) (f : Entry → Entry) : (g.modEntry l f).sealed = g.sealed := rfl
@[simp] theorem Group.modEntry_outside (g : Group) (l : Nat) (f : Entry → Entry) : (g.modEntry l f).outside = g.outside := rfl
@[simp] theorem Group.modEntry_entryPc (g : Group) (l : Nat) (f : Entry → Entry) : (g.modEntry l f).entryPc = g.entryPc := rfl
@[simp] theorem Group.modEntry_entryPrio (g : Group) (l : Nat) (f : Entry → Entry) : (g.modEntry l f).entryPrio = g.entryPrio := rfl
@[simp] theorem Group.modEntry_cohort (g : Group) (l : Nat) (f : Entry → Entry) : (g.modEntry l f).cohort = g.cohort := rfl
@[simp] theorem Group.modEntry_parkedIn (g : Group) (l : Nat) (f : Entry → Entry) : (g.modEntry l f).parkedIn = g.parkedIn := rfl
@[simp] theorem Group.modEntry_owing (g : Group) (l : Nat) (f : Entry → Entry) : (g.modEntry l f).owing = g.owing := rfl
@[simp] theorem Group.modEntry_redo (g : Group) (l : Nat) (f : Entry → Entry) : (g.modEntry l f).redo = g.redo := rfl
@[simp] theorem Group.modEntry_recheck (g : Group) (l : Nat) (f : Entry → Entry) : (g.modEntry l f).recheck = g.recheck := rfl
@[simp] theorem Group.modEntry_beats (g : Group) (l : Nat) (f : Entry → Entry) : (g.modEntry l f).beats = g.beats := rfl
@[simp] theorem Group.modEntry_handler (g : Group) (l : Nat) (f : Entry → Entry) : (g.modEntry l f).handler = g.handler := rfl
@[simp] theorem Group.modEntry_deferred (g : Group) (l : Nat) (f : Entry → Entry) : (g.modEntry l f).deferred = g.deferred := rfl
@[simp] theorem Group.modEntry_buffer (g : Group) (l : Nat) (f : Entry → Entry) : (g.modEntry l f).buffer = g.buffer := rfl
@[simp] theorem Group.modEntry_readSet (g : Group) (l : Nat) (f : Entry → Entry) : (g.modEntry l f).readSet = g.readSet := rfl
@[simp] theorem Group.modEntry_accepted (g : Group) (l : Nat) (f : Entry → Entry) : (g.modEntry l f).accepted = g.accepted := rfl
@[simp] theorem Group.modEntry_issued (g : Group) (l : Nat) (f : Entry → Entry) : (g.modEntry l f).issued = g.issued := rfl
@[simp] theorem Group.modEntry_counts (g : Group) (l : Nat) (f : Entry → Entry) : (g.modEntry l f).counts = g.counts := rfl
@[simp] theorem Group.modEntry_acv (g : Group) (l : Nat) (f : Entry → Entry) : (g.modEntry l f).acv = g.acv := rfl
@[simp] theorem Group.modEntry_skip (g : Group) (l : Nat) (f : Entry → Entry) : (g.modEntry l f).skip = g.skip := rfl
@[simp] theorem Group.modEntry_stored (g : Group) (l : Nat) (f : Entry → Entry) : (g.modEntry l f).stored = g.stored := rfl
@[simp] theorem Group.modEntry_yielded (g : Group) (l : Nat) (f : Entry → Entry) : (g.modEntry l f).yielded = g.yielded := rfl
@[simp] theorem Group.modEntry_yieldMark (g : Group) (l : Nat) (f : Entry → Entry) : (g.modEntry l f).yieldMark = g.yieldMark := rfl
@[simp] theorem Group.modEntry_suspectHold (g : Group) (l : Nat) (f : Entry → Entry) : (g.modEntry l f).suspectHold = g.suspectHold := rfl
@[simp] theorem Group.modEntry_ended (g : Group) (l : Nat) (f : Entry → Entry) : (g.modEntry l f).ended = g.ended := rfl
@[simp] theorem Group.modEntry_preempt (g : Group) (l : Nat) (f : Entry → Entry) : (g.modEntry l f).preempt = g.preempt := rfl

@[simp] theorem Group.dropLanes_team (g : Group) (m : Mask) : (g.dropLanes m).team = g.team := rfl
@[simp] theorem Group.dropLanes_num (g : Group) (m : Mask) : (g.dropLanes m).num = g.num := rfl
@[simp] theorem Group.dropLanes_ctx (g : Group) (m : Mask) : (g.dropLanes m).ctx = g.ctx := rfl
@[simp] theorem Group.dropLanes_regs (g : Group) (m : Mask) : (g.dropLanes m).regs = g.regs := rfl
@[simp] theorem Group.dropLanes_quarter (g : Group) (m : Mask) : (g.dropLanes m).quarter = g.quarter := rfl
@[simp] theorem Group.dropLanes_slot (g : Group) (m : Mask) : (g.dropLanes m).slot = g.slot := rfl
@[simp] theorem Group.dropLanes_active (g : Group) (m : Mask) : (g.dropLanes m).active = g.active := rfl
@[simp] theorem Group.dropLanes_joined (g : Group) (m : Mask) : (g.dropLanes m).joined = g.joined := rfl
@[simp] theorem Group.dropLanes_order (g : Group) (m : Mask) : (g.dropLanes m).order = g.order := rfl
@[simp] theorem Group.dropLanes_range (g : Group) (m : Mask) : (g.dropLanes m).range = g.range := rfl
@[simp] theorem Group.dropLanes_v (g : Group) (m : Mask) : (g.dropLanes m).v = g.v := rfl
@[simp] theorem Group.dropLanes_vpoison (g : Group) (m : Mask) : (g.dropLanes m).vpoison = g.vpoison := rfl
@[simp] theorem Group.dropLanes_kerb (g : Group) (m : Mask) : (g.dropLanes m).kerb = g.kerb := rfl
@[simp] theorem Group.dropLanes_s (g : Group) (m : Mask) : (g.dropLanes m).s = g.s := rfl
@[simp] theorem Group.dropLanes_p (g : Group) (m : Mask) : (g.dropLanes m).p = g.p := rfl
@[simp] theorem Group.dropLanes_reentry (g : Group) (m : Mask) : (g.dropLanes m).reentry = g.reentry := rfl
@[simp] theorem Group.dropLanes_limit (g : Group) (m : Mask) : (g.dropLanes m).limit = g.limit := rfl
@[simp] theorem Group.dropLanes_utvec (g : Group) (m : Mask) : (g.dropLanes m).utvec = g.utvec := rfl
@[simp] theorem Group.dropLanes_xdec0 (g : Group) (m : Mask) : (g.dropLanes m).xdec0 = g.xdec0 := rfl
@[simp] theorem Group.dropLanes_xdec1 (g : Group) (m : Mask) : (g.dropLanes m).xdec1 = g.xdec1 := rfl
@[simp] theorem Group.dropLanes_xdec2 (g : Group) (m : Mask) : (g.dropLanes m).xdec2 = g.xdec2 := rfl
@[simp] theorem Group.dropLanes_xdec3 (g : Group) (m : Mask) : (g.dropLanes m).xdec3 = g.xdec3 := rfl
@[simp] theorem Group.dropLanes_xcause (g : Group) (m : Mask) : (g.dropLanes m).xcause = g.xcause := rfl
@[simp] theorem Group.dropLanes_govStall (g : Group) (m : Mask) : (g.dropLanes m).govStall = g.govStall := rfl
@[simp] theorem Group.dropLanes_snap (g : Group) (m : Mask) : (g.dropLanes m).snap = g.snap := rfl
@[simp] theorem Group.dropLanes_exited (g : Group) (m : Mask) : (g.dropLanes m).exited = g.exited := rfl
@[simp] theorem Group.dropLanes_sealed (g : Group) (m : Mask) : (g.dropLanes m).sealed = g.sealed := rfl
@[simp] theorem Group.dropLanes_outside (g : Group) (m : Mask) : (g.dropLanes m).outside = g.outside := rfl
@[simp] theorem Group.dropLanes_entryPc (g : Group) (m : Mask) : (g.dropLanes m).entryPc = g.entryPc := rfl
@[simp] theorem Group.dropLanes_entryPrio (g : Group) (m : Mask) : (g.dropLanes m).entryPrio = g.entryPrio := rfl
@[simp] theorem Group.dropLanes_cohort (g : Group) (m : Mask) : (g.dropLanes m).cohort = g.cohort := rfl
@[simp] theorem Group.dropLanes_parkedIn (g : Group) (m : Mask) : (g.dropLanes m).parkedIn = g.parkedIn := rfl
@[simp] theorem Group.dropLanes_owing (g : Group) (m : Mask) : (g.dropLanes m).owing = g.owing := rfl
@[simp] theorem Group.dropLanes_redo (g : Group) (m : Mask) : (g.dropLanes m).redo = g.redo := rfl
@[simp] theorem Group.dropLanes_recheck (g : Group) (m : Mask) : (g.dropLanes m).recheck = g.recheck := rfl
@[simp] theorem Group.dropLanes_beats (g : Group) (m : Mask) : (g.dropLanes m).beats = g.beats := rfl
@[simp] theorem Group.dropLanes_handler (g : Group) (m : Mask) : (g.dropLanes m).handler = g.handler := rfl
@[simp] theorem Group.dropLanes_deferred (g : Group) (m : Mask) : (g.dropLanes m).deferred = g.deferred := rfl
@[simp] theorem Group.dropLanes_buffer (g : Group) (m : Mask) : (g.dropLanes m).buffer = g.buffer := rfl
@[simp] theorem Group.dropLanes_readSet (g : Group) (m : Mask) : (g.dropLanes m).readSet = g.readSet := rfl
@[simp] theorem Group.dropLanes_accepted (g : Group) (m : Mask) : (g.dropLanes m).accepted = g.accepted := rfl
@[simp] theorem Group.dropLanes_issued (g : Group) (m : Mask) : (g.dropLanes m).issued = g.issued := rfl
@[simp] theorem Group.dropLanes_counts (g : Group) (m : Mask) : (g.dropLanes m).counts = g.counts := rfl
@[simp] theorem Group.dropLanes_acv (g : Group) (m : Mask) : (g.dropLanes m).acv = g.acv := rfl
@[simp] theorem Group.dropLanes_skip (g : Group) (m : Mask) : (g.dropLanes m).skip = g.skip := rfl
@[simp] theorem Group.dropLanes_stored (g : Group) (m : Mask) : (g.dropLanes m).stored = g.stored := rfl
@[simp] theorem Group.dropLanes_yielded (g : Group) (m : Mask) : (g.dropLanes m).yielded = g.yielded := rfl
@[simp] theorem Group.dropLanes_yieldMark (g : Group) (m : Mask) : (g.dropLanes m).yieldMark = g.yieldMark := rfl
@[simp] theorem Group.dropLanes_suspectHold (g : Group) (m : Mask) : (g.dropLanes m).suspectHold = g.suspectHold := rfl
@[simp] theorem Group.dropLanes_ended (g : Group) (m : Mask) : (g.dropLanes m).ended = g.ended := rfl
@[simp] theorem Group.dropLanes_preempt (g : Group) (m : Mask) : (g.dropLanes m).preempt = g.preempt := rfl

@[simp] theorem Group.regang_team (g : Group) : (g.regang).team = g.team := rfl
@[simp] theorem Group.regang_num (g : Group) : (g.regang).num = g.num := rfl
@[simp] theorem Group.regang_ctx (g : Group) : (g.regang).ctx = g.ctx := rfl
@[simp] theorem Group.regang_regs (g : Group) : (g.regang).regs = g.regs := rfl
@[simp] theorem Group.regang_quarter (g : Group) : (g.regang).quarter = g.quarter := rfl
@[simp] theorem Group.regang_slot (g : Group) : (g.regang).slot = g.slot := rfl
@[simp] theorem Group.regang_active (g : Group) : (g.regang).active = g.active := rfl
@[simp] theorem Group.regang_joined (g : Group) : (g.regang).joined = g.joined := rfl
@[simp] theorem Group.regang_order (g : Group) : (g.regang).order = g.order := rfl
@[simp] theorem Group.regang_range (g : Group) : (g.regang).range = g.range := rfl
@[simp] theorem Group.regang_v (g : Group) : (g.regang).v = g.v := rfl
@[simp] theorem Group.regang_vpoison (g : Group) : (g.regang).vpoison = g.vpoison := rfl
@[simp] theorem Group.regang_kerb (g : Group) : (g.regang).kerb = g.kerb := rfl
@[simp] theorem Group.regang_s (g : Group) : (g.regang).s = g.s := rfl
@[simp] theorem Group.regang_p (g : Group) : (g.regang).p = g.p := rfl
@[simp] theorem Group.regang_reentry (g : Group) : (g.regang).reentry = g.reentry := rfl
@[simp] theorem Group.regang_limit (g : Group) : (g.regang).limit = g.limit := rfl
@[simp] theorem Group.regang_utvec (g : Group) : (g.regang).utvec = g.utvec := rfl
@[simp] theorem Group.regang_xdec0 (g : Group) : (g.regang).xdec0 = g.xdec0 := rfl
@[simp] theorem Group.regang_xdec1 (g : Group) : (g.regang).xdec1 = g.xdec1 := rfl
@[simp] theorem Group.regang_xdec2 (g : Group) : (g.regang).xdec2 = g.xdec2 := rfl
@[simp] theorem Group.regang_xdec3 (g : Group) : (g.regang).xdec3 = g.xdec3 := rfl
@[simp] theorem Group.regang_xcause (g : Group) : (g.regang).xcause = g.xcause := rfl
@[simp] theorem Group.regang_govStall (g : Group) : (g.regang).govStall = g.govStall := rfl
@[simp] theorem Group.regang_snap (g : Group) : (g.regang).snap = g.snap := rfl
@[simp] theorem Group.regang_exited (g : Group) : (g.regang).exited = g.exited := rfl
@[simp] theorem Group.regang_sealed (g : Group) : (g.regang).sealed = g.sealed := rfl
@[simp] theorem Group.regang_outside (g : Group) : (g.regang).outside = g.outside := rfl
@[simp] theorem Group.regang_entryPc (g : Group) : (g.regang).entryPc = g.entryPc := rfl
@[simp] theorem Group.regang_entryPrio (g : Group) : (g.regang).entryPrio = g.entryPrio := rfl
@[simp] theorem Group.regang_cohort (g : Group) : (g.regang).cohort = g.cohort := rfl
@[simp] theorem Group.regang_parkedIn (g : Group) : (g.regang).parkedIn = g.parkedIn := rfl
@[simp] theorem Group.regang_owing (g : Group) : (g.regang).owing = g.owing := rfl
@[simp] theorem Group.regang_redo (g : Group) : (g.regang).redo = g.redo := rfl
@[simp] theorem Group.regang_recheck (g : Group) : (g.regang).recheck = g.recheck := rfl
@[simp] theorem Group.regang_beats (g : Group) : (g.regang).beats = g.beats := rfl
@[simp] theorem Group.regang_handler (g : Group) : (g.regang).handler = g.handler := rfl
@[simp] theorem Group.regang_deferred (g : Group) : (g.regang).deferred = g.deferred := rfl
@[simp] theorem Group.regang_buffer (g : Group) : (g.regang).buffer = g.buffer := rfl
@[simp] theorem Group.regang_readSet (g : Group) : (g.regang).readSet = g.readSet := rfl
@[simp] theorem Group.regang_accepted (g : Group) : (g.regang).accepted = g.accepted := rfl
@[simp] theorem Group.regang_issued (g : Group) : (g.regang).issued = g.issued := rfl
@[simp] theorem Group.regang_counts (g : Group) : (g.regang).counts = g.counts := rfl
@[simp] theorem Group.regang_acv (g : Group) : (g.regang).acv = g.acv := rfl
@[simp] theorem Group.regang_skip (g : Group) : (g.regang).skip = g.skip := rfl
@[simp] theorem Group.regang_stored (g : Group) : (g.regang).stored = g.stored := rfl
@[simp] theorem Group.regang_yielded (g : Group) : (g.regang).yielded = g.yielded := rfl
@[simp] theorem Group.regang_yieldMark (g : Group) : (g.regang).yieldMark = g.yieldMark := rfl
@[simp] theorem Group.regang_suspectHold (g : Group) : (g.regang).suspectHold = g.suspectHold := rfl
@[simp] theorem Group.regang_ended (g : Group) : (g.regang).ended = g.ended := rfl
@[simp] theorem Group.regang_preempt (g : Group) : (g.regang).preempt = g.preempt := rfl

end Sys2Proof.Machine
end

