-- ==== Sys2Proof/Laws/Commits.lean ====
section
/-! SUPPORT. What the committed stores of a core go through (R194, R268, R298, R302, R303): the buffer is handed to the core's queue,
the queue lets its oldest place out or holds it, and a release goes on or stays at its word. -/

namespace Sys2Proof.Machine

/-- Committing the buffer empties it. -/
theorem State.commitBuffer_buffer (s : State) (gid : Nat) : ((s.commitBuffer gid).grp gid).buffer = [] := by
  unfold State.commitBuffer
  dsimp only
  split
  · next h => simpa using h
  · next h =>
    have hg : KMap.find? s.groups gid ≠ none := by
      intro hn
      apply h
      simp [State.grp, hn]
    cases hf : KMap.find? s.groups gid with
    | none => exact absurd hf hg
    | some g => simp [State.modGrp, State.grp, KMap.find?_modify, hf]

/-- A place leaves the queue of its core only as the oldest, and only where nothing holds it. -/
theorem State.drainOne_cases (s : State) (core : Nat) :
    s.drainOne core = s ∨ ∃ c rest, s.fifo core = c :: rest ∧ s.commitHeld core c = false ∧
      s.drainOne core = ({ s with commits := KMap.setD s.commits [] core rest }).putPlace core c := by
  unfold State.drainOne
  split
  · exact .inl rfl
  · next c rest hc =>
    split
    · exact .inl rfl
    · next hh => exact .inr ⟨c, rest, hc, by simpa using hh, rfl⟩

/-- A release goes on with its own effect, or leaves its entry at the word; either way the buffer is committed. -/
theorem Issue.release_cases (x : Issue) (scope : Nat) (s : State) (k : State → Out) :
    ((s.makeVisible x.gid).released x.gid scope = true ∧ x.release scope s k = k (s.makeVisible x.gid)) ∨
    ((s.makeVisible x.gid).released x.gid scope = false ∧ x.release scope s k = x.again (s.makeVisible x.gid)) := by
  unfold Issue.release
  dsimp only
  split
  · next h => exact .inl ⟨h, rfl⟩
  · next h => exact .inr ⟨by simpa using h, rfl⟩

/-- A release inside the core waits for nothing. -/
theorem State.released_of_core (s : State) (gid scope : Nat) (h : scope < 2) : s.released gid scope = true := by
  simp [State.released, h]

/-- A load that is delivered before its burst is checked leaves its lanes noted as beats of the bus, or nothing changes, or the load
itself stops. -/
theorem State.loadUnchecked_cases (s : State) (op bus : Nat) :
    s.loadUnchecked op bus = .next s ∨
    (∃ o t, KMap.find? s.ops op = some o ∧ execLoadComplete op s = .next t ∧ KMap.find? t.ops op = none ∧
      s.loadUnchecked op bus = .next (t.modGrp o.gid (fun g => { g with beats := g.beats ++ [⟨bus, o.lanes⟩] }))) ∨
    s.loadUnchecked op bus = execLoadComplete op s := by
  unfold State.loadUnchecked
  cases ho : KMap.find? s.ops op with
  | none => exact .inl rfl
  | some o =>
    dsimp only
    generalize (o.pending || o.committed || (s.grp o.gid).entries.any _) = c
    cases c with
    | true => exact .inl rfl
    | false =>
      cases hl : execLoadComplete op s with
      | next t =>
        cases ht : KMap.find? t.ops op with
        | none => exact .inr (.inl ⟨o, t, rfl, rfl, ht, by simp [ht]⟩)
        | some y => exact .inl (by simp [ht])
      | fault f => exact .inr (.inr (by simp))
      | refused r => exact .inr (.inr (by simp))

end Sys2Proof.Machine
end

