-- ==== Sys2Proof/Laws/Exec.lean ====
section
/-! SUPPORT. The dispatch: each instruction runs its own meaning. -/

namespace Sys2Proof.Machine

theorem exec_nop (f : V3) (s : State) : exec (.nop f) s = execNop f s := rfl
theorem exec_bra (f : FBr) (s : State) : exec (.bra f) s = execBra f s := rfl
theorem exec_brx (f : V3) (s : State) : exec (.brx f) s = execBrx f s := rfl
theorem exec_call (f : FBr) (s : State) : exec (.call f) s = execCall f s := rfl
theorem exec_callx (f : V3) (s : State) : exec (.callx f) s = execCallx f s := rfl
theorem exec_ret (f : V3) (s : State) : exec (.ret f) s = execRet f s := rfl
theorem exec_exit (f : V3) (s : State) : exec (.exit f) s = execExit f s := rfl
theorem exec_bnd (f : V3) (s : State) : exec (.bnd f) s = execBnd f s := rfl
theorem exec_rcv (f : V3) (s : State) : exec (.rcv f) s = execRcv f s := rfl
theorem exec_elect (f : V3) (s : State) : exec (.elect f) s = execElect f s := rfl
theorem exec_yield (f : V3) (s : State) : exec (.yield f) s = execYield f s := rfl
theorem exec_trap (f : VI) (s : State) : exec (.trap f) s = execTrap f s := rfl
theorem exec_bkpt (f : VI) (s : State) : exec (.bkpt f) s = execBkpt f s := rfl
theorem exec_tret (f : V3) (s : State) : exec (.tret f) s = execTret f s := rfl
theorem exec_iadd (f : V3) (s : State) : exec (.iadd f) s = execIadd f s := rfl
theorem exec_isub (f : V3) (s : State) : exec (.isub f) s = execIsub f s := rfl
theorem exec_iaddc (f : V3) (s : State) : exec (.iaddc f) s = execIaddc f s := rfl
theorem exec_isubb (f : V3) (s : State) : exec (.isubb f) s = execIsubb f s := rfl
theorem exec_imul (f : V3) (s : State) : exec (.imul f) s = execImul f s := rfl
theorem exec_imulh (f : V3) (s : State) : exec (.imulh f) s = execImulh f s := rfl
theorem exec_imad (f : V3) (s : State) : exec (.imad f) s = execImad f s := rfl
theorem exec_imadw (f : V3) (s : State) : exec (.imadw f) s = execImadw f s := rfl
theorem exec_iabs (f : V3) (s : State) : exec (.iabs f) s = execIabs f s := rfl
theorem exec_ineg (f : V3) (s : State) : exec (.ineg f) s = execIneg f s := rfl
theorem exec_imin (f : V3) (s : State) : exec (.imin f) s = execImin f s := rfl
theorem exec_imax (f : V3) (s : State) : exec (.imax f) s = execImax f s := rfl
theorem exec_isad (f : V3) (s : State) : exec (.isad f) s = execIsad f s := rfl
theorem exec_shl (f : V3) (s : State) : exec (.shl f) s = execShl f s := rfl
theorem exec_shr (f : V3) (s : State) : exec (.shr f) s = execShr f s := rfl
theorem exec_sha (f : V3) (s : State) : exec (.sha f) s = execSha f s := rfl
theorem exec_rot (f : V3) (s : State) : exec (.rot f) s = execRot f s := rfl
theorem exec_andw (f : V3) (s : State) : exec (.andw f) s = execAndw f s := rfl
theorem exec_orw (f : V3) (s : State) : exec (.orw f) s = execOrw f s := rfl
theorem exec_xorw (f : V3) (s : State) : exec (.xorw f) s = execXorw f s := rfl
theorem exec_notw (f : V3) (s : State) : exec (.notw f) s = execNotw f s := rfl
theorem exec_andn (f : V3) (s : State) : exec (.andn f) s = execAndn f s := rfl
theorem exec_lop3 (f : V3) (s : State) : exec (.lop3 f) s = execLop3 f s := rfl
theorem exec_popc (f : V3) (s : State) : exec (.popc f) s = execPopc f s := rfl
theorem exec_clz (f : V3) (s : State) : exec (.clz f) s = execClz f s := rfl
theorem exec_ctz (f : V3) (s : State) : exec (.ctz f) s = execCtz f s := rfl
theorem exec_brev (f : V3) (s : State) : exec (.brev f) s = execBrev f s := rfl
theorem exec_bfx (f : V3) (s : State) : exec (.bfx f) s = execBfx f s := rfl
theorem exec_bfi (f : V3) (s : State) : exec (.bfi f) s = execBfi f s := rfl
theorem exec_prmt (f : V3) (s : State) : exec (.prmt f) s = execPrmt f s := rfl
theorem exec_lea (f : V3) (s : State) : exec (.lea f) s = execLea f s := rfl
theorem exec_leaw (f : V3) (s : State) : exec (.leaw f) s = execLeaw f s := rfl
theorem exec_dp4 (f : V3) (s : State) : exec (.dp4 f) s = execDp4 f s := rfl
theorem exec_iaddImm (f : VI) (s : State) : exec (.iaddImm f) s = execIaddImm f s := rfl
theorem exec_imulImm (f : VI) (s : State) : exec (.imulImm f) s = execImulImm f s := rfl
theorem exec_iminImm (f : VI) (s : State) : exec (.iminImm f) s = execIminImm f s := rfl
theorem exec_imaxImm (f : VI) (s : State) : exec (.imaxImm f) s = execImaxImm f s := rfl
theorem exec_shlImm (f : VI) (s : State) : exec (.shlImm f) s = execShlImm f s := rfl
theorem exec_shrImm (f : VI) (s : State) : exec (.shrImm f) s = execShrImm f s := rfl
theorem exec_shaImm (f : VI) (s : State) : exec (.shaImm f) s = execShaImm f s := rfl
theorem exec_rotImm (f : VI) (s : State) : exec (.rotImm f) s = execRotImm f s := rfl
theorem exec_andImm (f : VI) (s : State) : exec (.andImm f) s = execAndImm f s := rfl
theorem exec_orImm (f : VI) (s : State) : exec (.orImm f) s = execOrImm f s := rfl
theorem exec_xorImm (f : VI) (s : State) : exec (.xorImm f) s = execXorImm f s := rfl
theorem exec_leaImm (f : VI) (s : State) : exec (.leaImm f) s = execLeaImm f s := rfl
theorem exec_bfxImm (f : VI) (s : State) : exec (.bfxImm f) s = execBfxImm f s := rfl
theorem exec_bfiImm (f : VI) (s : State) : exec (.bfiImm f) s = execBfiImm f s := rfl
theorem exec_prmtImm (f : VI) (s : State) : exec (.prmtImm f) s = execPrmtImm f s := rfl
theorem exec_fadd (f : V3) (s : State) : exec (.fadd f) s = execFadd f s := rfl
theorem exec_fsub (f : V3) (s : State) : exec (.fsub f) s = execFsub f s := rfl
theorem exec_fmul (f : V3) (s : State) : exec (.fmul f) s = execFmul f s := rfl
theorem exec_ffma (f : V3) (s : State) : exec (.ffma f) s = execFfma f s := rfl
theorem exec_fmin (f : V3) (s : State) : exec (.fmin f) s = execFmin f s := rfl
theorem exec_fmax (f : V3) (s : State) : exec (.fmax f) s = execFmax f s := rfl
theorem exec_fabs (f : V3) (s : State) : exec (.fabs f) s = execFabs f s := rfl
theorem exec_fneg (f : V3) (s : State) : exec (.fneg f) s = execFneg f s := rfl
theorem exec_fdiv (f : V3) (s : State) : exec (.fdiv f) s = execFdiv f s := rfl
theorem exec_fsqrt (f : V3) (s : State) : exec (.fsqrt f) s = execFsqrt f s := rfl
theorem exec_frcp (f : V3) (s : State) : exec (.frcp f) s = execFrcp f s := rfl
theorem exec_frsq (f : V3) (s : State) : exec (.frsq f) s = execFrsq f s := rfl
theorem exec_fex2 (f : V3) (s : State) : exec (.fex2 f) s = execFex2 f s := rfl
theorem exec_flg2 (f : V3) (s : State) : exec (.flg2 f) s = execFlg2 f s := rfl
theorem exec_fsin (f : V3) (s : State) : exec (.fsin f) s = execFsin f s := rfl
theorem exec_fcos (f : V3) (s : State) : exec (.fcos f) s = execFcos f s := rfl
theorem exec_fflr (f : V3) (s : State) : exec (.fflr f) s = execFflr f s := rfl
theorem exec_fceil (f : V3) (s : State) : exec (.fceil f) s = execFceil f s := rfl
theorem exec_ftrunc (f : V3) (s : State) : exec (.ftrunc f) s = execFtrunc f s := rfl
theorem exec_frnd (f : V3) (s : State) : exec (.frnd f) s = execFrnd f s := rfl
theorem exec_ffrc (f : V3) (s : State) : exec (.ffrc f) s = execFfrc f s := rfl
theorem exec_fclass (f : V3) (s : State) : exec (.fclass f) s = execFclass f s := rfl
theorem exec_fscale (f : V3) (s : State) : exec (.fscale f) s = execFscale f s := rfl
theorem exec_fgetexp (f : V3) (s : State) : exec (.fgetexp f) s = execFgetexp f s := rfl
theorem exec_fdot2 (f : V3) (s : State) : exec (.fdot2 f) s = execFdot2 f s := rfl
theorem exec_faddImm (f : VI) (s : State) : exec (.faddImm f) s = execFaddImm f s := rfl
theorem exec_fmulImm (f : VI) (s : State) : exec (.fmulImm f) s = execFmulImm f s := rfl
theorem exec_fminImm (f : VI) (s : State) : exec (.fminImm f) s = execFminImm f s := rfl
theorem exec_fmaxImm (f : VI) (s : State) : exec (.fmaxImm f) s = execFmaxImm f s := rfl
theorem exec_cvt (f : V3) (s : State) : exec (.cvt f) s = execCvt f s := rfl
theorem exec_cvq (f : V3) (s : State) : exec (.cvq f) s = execCvq f s := rfl
theorem exec_cvd (f : V3) (s : State) : exec (.cvd f) s = execCvd f s := rfl
theorem exec_packt (f : V3) (s : State) : exec (.packt f) s = execPackt f s := rfl
theorem exec_unpkt (f : V3) (s : State) : exec (.unpkt f) s = execUnpkt f s := rfl
theorem exec_pack (f : V3) (s : State) : exec (.pack f) s = execPack f s := rfl
theorem exec_unpk (f : V3) (s : State) : exec (.unpk f) s = execUnpk f s := rfl
theorem exec_icmp (f : V3) (s : State) : exec (.icmp f) s = execIcmp f s := rfl
theorem exec_fcmp (f : V3) (s : State) : exec (.fcmp f) s = execFcmp f s := rfl
theorem exec_plop (f : V3) (s : State) : exec (.plop f) s = execPlop f s := rfl
theorem exec_pmov (f : V3) (s : State) : exec (.pmov f) s = execPmov f s := rfl
theorem exec_sel (f : V3) (s : State) : exec (.sel f) s = execSel f s := rfl
theorem exec_mov (f : V3) (s : State) : exec (.mov f) s = execMov f s := rfl
theorem exec_movi (f : VI) (s : State) : exec (.movi f) s = execMovi f s := rfl
theorem exec_movx (f : V3) (s : State) : exec (.movx f) s = execMovx f s := rfl
theorem exec_movxs (f : V3) (s : State) : exec (.movxs f) s = execMovxs f s := rfl
theorem exec_shfl (f : V3) (s : State) : exec (.shfl f) s = execShfl f s := rfl
theorem exec_vote (f : V3) (s : State) : exec (.vote f) s = execVote f s := rfl
theorem exec_ballot (f : V3) (s : State) : exec (.ballot f) s = execBallot f s := rfl
theorem exec_lred (f : V3) (s : State) : exec (.lred f) s = execLred f s := rfl
theorem exec_bcast (f : V3) (s : State) : exec (.bcast f) s = execBcast f s := rfl
theorem exec_srd (f : FS) (s : State) : exec (.srd f) s = execSrd f s := rfl
theorem exec_swr (f : FS) (s : State) : exec (.swr f) s = execSwr f s := rfl
theorem exec_ld (f : FM) (s : State) : exec (.ld f) s = execLd f s := rfl
theorem exec_st (f : FM) (s : State) : exec (.st f) s = execSt f s := rfl
theorem exec_lds (f : FM) (s : State) : exec (.lds f) s = execLds f s := rfl
theorem exec_sts (f : FM) (s : State) : exec (.sts f) s = execSts f s := rfl
theorem exec_ldq (f : FM) (s : State) : exec (.ldq f) s = execLdq f s := rfl
theorem exec_atom (f : FM) (s : State) : exec (.atom f) s = execAtom f s := rfl
theorem exec_atoms (f : FM) (s : State) : exec (.atoms f) s = execAtoms f s := rfl
theorem exec_red (f : FM) (s : State) : exec (.red f) s = execRed f s := rfl
theorem exec_prf (f : FM) (s : State) : exec (.prf f) s = execPrf f s := rfl
theorem exec_tbinit (f : FM) (s : State) : exec (.tbinit f) s = execTbinit f s := rfl
theorem exec_tbexp (f : FM) (s : State) : exec (.tbexp f) s = execTbexp f s := rfl
theorem exec_tbarv (f : FM) (s : State) : exec (.tbarv f) s = execTbarv f s := rfl
theorem exec_tbtest (f : FM) (s : State) : exec (.tbtest f) s = execTbtest f s := rfl
theorem exec_waita (f : FM) (s : State) : exec (.waita f) s = execWaita f s := rfl
theorem exec_fence (f : FM) (s : State) : exec (.fence f) s = execFence f s := rfl
theorem exec_bar (f : VI) (s : State) : exec (.bar f) s = execBar f s := rfl
theorem exec_barc (f : VI) (s : State) : exec (.barc f) s = execBarc f s := rfl
theorem exec_tcfg (f : V3) (s : State) : exec (.tcfg f) s = execTcfg f s := rfl
theorem exec_tld (f : FM) (s : State) : exec (.tld f) s = execTld f s := rfl
theorem exec_tst (f : FM) (s : State) : exec (.tst f) s = execTst f s := rfl
theorem exec_tzero (f : V3) (s : State) : exec (.tzero f) s = execTzero f s := rfl
theorem exec_mxa (f : FE) (s : State) : exec (.mxa f) s = execMxa f s := rfl
theorem exec_acz (f : V3) (s : State) : exec (.acz f) s = execAcz f s := rfl
theorem exec_acv (f : FE) (s : State) : exec (.acv f) s = execAcv f s := rfl
theorem exec_acld (f : FM) (s : State) : exec (.acld f) s = execAcld f s := rfl
theorem exec_acst (f : FM) (s : State) : exec (.acst f) s = execAcst f s := rfl
theorem exec_cpy (f : FE) (s : State) : exec (.cpy f) s = execCpy f s := rfl
theorem exec_cpyl (f : FE) (s : State) : exec (.cpyl f) s = execCpyl f s := rfl
theorem exec_hred (f : FE) (s : State) : exec (.hred f) s = execHred f s := rfl
theorem exec_hgat (f : FE) (s : State) : exec (.hgat f) s = execHgat f s := rfl
theorem exec_hfetch (f : FE) (s : State) : exec (.hfetch f) s = execHfetch f s := rfl
theorem exec_lyrq (f : FE) (s : State) : exec (.lyrq f) s = execLyrq f s := rfl
theorem exec_inst (f : FE) (s : State) : exec (.inst f) s = execInst f s := rfl
theorem exec_instqQuery (f : FE) (s : State) : exec (.instqQuery f) s = execInstqQuery f s := rfl
theorem exec_instqAbort (f : FE) (s : State) : exec (.instqAbort f) s = execInstqAbort f s := rfl
theorem exec_prvr (f : FS) (s : State) : exec (.prvr f) s = execPrvr f s := rfl
theorem exec_prvw (f : FS) (s : State) : exec (.prvw f) s = execPrvw f s := rfl
theorem exec_eret (f : FS) (s : State) : exec (.eret f) s = execEret f s := rfl
theorem exec_sysc (f : FS) (s : State) : exec (.sysc f) s = execSysc f s := rfl
theorem exec_mtrr (f : FS) (s : State) : exec (.mtrr f) s = execMtrr f s := rfl
theorem exec_sign (f : FS) (s : State) : exec (.sign f) s = execSign f s := rfl
theorem exec_clauseStart (gid lane : Nat) (s : State) : exec (.clauseStart gid lane) s = execClauseStart gid lane s := rfl
theorem exec_strandCommit (gid : Nat) (s : State) : exec (.strandCommit gid) s = execStrandCommit gid s := rfl
theorem exec_stashWriteback (team line : Nat) (s : State) :
    exec (.stashWriteback team line) s = execStashWriteback team line s := rfl
theorem exec_waitaRecheck (gid lane : Nat) (s : State) : exec (.waitaRecheck gid lane) s = execWaitaRecheck gid lane s := rfl
theorem exec_waitaTimeout (gid lane : Nat) (s : State) : exec (.waitaTimeout gid lane) s = execWaitaTimeout gid lane s := rfl
theorem exec_loadComplete (op : Nat) (s : State) : exec (.loadComplete op) s = execLoadComplete op s := rfl
theorem exec_atomComplete (op : Nat) (s : State) : exec (.atomComplete op) s = execAtomComplete op s := rfl
theorem exec_funcResultWrite (op : Nat) (s : State) : exec (.funcResultWrite op) s = execFuncResultWrite op s := rfl
theorem exec_tileTransferComplete (op : Nat) (s : State) :
    exec (.tileTransferComplete op) s = execTileTransferComplete op s := rfl
theorem exec_accTransferComplete (op : Nat) (s : State) : exec (.accTransferComplete op) s = execAccTransferComplete op s := rfl
theorem exec_acvComplete (op : Nat) (s : State) : exec (.acvComplete op) s = execAcvComplete op s := rfl
theorem exec_mxaStart (cmd : Nat) (s : State) : exec (.mxaStart cmd) s = execMxaStart cmd s := rfl
theorem exec_matrixResidueMismatch (cmd pass : Nat) (s : State) :
    exec (.matrixResidueMismatch cmd pass) s = execMatrixResidueMismatch cmd pass s := rfl
theorem exec_mxaComplete (cmd : Nat) (s : State) : exec (.mxaComplete cmd) s = execMxaComplete cmd s := rfl
theorem exec_workSteal (engine : Nat) (s : State) : exec (.workSteal engine) s = execWorkSteal engine s := rfl
theorem exec_copySectorLand (cmd row sector : Nat) (s : State) :
    exec (.copySectorLand cmd row sector) s = execCopySectorLand cmd row sector s := rfl
theorem exec_homeSliceStep (isCmd : Bool) (id step : Nat) (s : State) :
    exec (.homeSliceStep isCmd id step) s = execHomeSliceStep isCmd id step s := rfl
theorem exec_hgatResponse (cmd first count : Nat) (s : State) :
    exec (.hgatResponse cmd first count) s = execHgatResponse cmd first count s := rfl
theorem exec_engineAccessFault (cmd step : Nat) (s : State) :
    exec (.engineAccessFault cmd step) s = execEngineAccessFault cmd step s := rfl
theorem exec_engineLineFinish (cmd line : Nat) (s : State) :
    exec (.engineLineFinish cmd line) s = execEngineLineFinish cmd line s := rfl
theorem exec_instComplete (cmd : Nat) (verified : Bool) (failed : List Nat) (s : State) :
    exec (.instComplete cmd verified failed) s = execInstComplete cmd verified failed s := rfl
theorem exec_signComplete (op : Nat) (s : State) : exec (.signComplete op) s = execSignComplete op s := rfl
theorem exec_mtrrComplete (op : Nat) (s : State) : exec (.mtrrComplete op) s = execMtrrComplete op s := rfl
theorem exec_serviceRequestConsumed (s : State) : exec .serviceRequestConsumed s = execServiceRequestConsumed s := rfl
theorem exec_groupSwap (gid : Nat) (s : State) : exec (.groupSwap gid) s = execGroupSwap gid s := rfl
theorem exec_groupResourcesFree (gid : Nat) (s : State) : exec (.groupResourcesFree gid) s = execGroupResourcesFree gid s := rfl
theorem exec_compaction (team place : Nat) (s : State) : exec (.compaction team place) s = execCompaction team place s := rfl
theorem exec_teamPlacement (phase tower : Nat) (cores slots : List Nat) (s : State) :
    exec (.teamPlacement phase tower cores slots) s = execTeamPlacement phase tower cores slots s := rfl
theorem exec_teamMigration (team core : Nat) (slots : List Nat) (s : State) :
    exec (.teamMigration team core slots) s = execTeamMigration team core slots s := rfl
theorem exec_teamEnd (team : Nat) (s : State) : exec (.teamEnd team) s = execTeamEnd team s := rfl
theorem exec_fcBell (queue : Nat) (s : State) : exec (.fcBell queue) s = execFcBell queue s := rfl
theorem exec_quantumBoundary (s : State) : exec .quantumBoundary s = execQuantumBoundary s := rfl
theorem exec_phaseStart (queue : Nat) (s : State) : exec (.phaseStart queue) s = execPhaseStart queue s := rfl
theorem exec_dependenceRecheck (queue : Nat) (s : State) :
    exec (.dependenceRecheck queue) s = execDependenceRecheck queue s := rfl
theorem exec_phaseComplete (phase : Nat) (s : State) : exec (.phaseComplete phase) s = execPhaseComplete phase s := rfl
theorem exec_stallAll (core ctx : Nat) (s : State) : exec (.stallAll core ctx) s = execStallAll core ctx s := rfl
theorem exec_contextSwitch (core ctx : Nat) (s : State) : exec (.contextSwitch core ctx) s = execContextSwitch core ctx s := rfl
theorem exec_ctxCreate (s : State) : exec .ctxCreate s = execCtxCreate s := rfl
theorem exec_ctxHalt (s : State) : exec .ctxHalt s = execCtxHalt s := rfl
theorem exec_haltTeamSave (team : Nat) (s : State) : exec (.haltTeamSave team) s = execHaltTeamSave team s := rfl
theorem exec_ctxResume (s : State) : exec .ctxResume s = execCtxResume s := rfl
theorem exec_ctxRetire (s : State) : exec .ctxRetire s = execCtxRetire s := rfl
theorem exec_retirementRecord (ctx : Nat) (s : State) : exec (.retirementRecord ctx) s = execRetirementRecord ctx s := rfl
theorem exec_ctxTeardown (s : State) : exec .ctxTeardown s = execCtxTeardown s := rfl
theorem exec_ctxCmdInvalid (s : State) : exec .ctxCmdInvalid s = execCtxCmdInvalid s := rfl
theorem exec_scrubComplete (ctx : Nat) (s : State) : exec (.scrubComplete ctx) s = execScrubComplete ctx s := rfl
theorem exec_xlRangeWrite (reg word : Nat) (value : BitVec 64) (s : State) :
    exec (.xlRangeWrite reg word value) s = execXlRangeWrite reg word value s := rfl
theorem exec_xlInv (value : BitVec 64) (s : State) : exec (.xlInv value) s = execXlInv value s := rfl
theorem exec_xlInvComplete (s : State) : exec .xlInvComplete s = execXlInvComplete s := rfl
theorem exec_xlResume (value : BitVec 64) (s : State) : exec (.xlResume value) s = execXlResume value s := rfl
theorem exec_stkScrways (value : BitVec 64) (s : State) : exec (.stkScrways value) s = execStkScrways value s := rfl
theorem exec_wayChangeComplete (s : State) : exec .wayChangeComplete s = execWayChangeComplete s := rfl
theorem exec_flsStagebase (value : BitVec 64) (s : State) : exec (.flsStagebase value) s = execFlsStagebase value s := rfl
theorem exec_flsStagesz (value : BitVec 64) (s : State) : exec (.flsStagesz value) s = execFlsStagesz value s := rfl
theorem exec_keyLoad (value : BitVec 64) (s : State) : exec (.keyLoad value) s = execKeyLoad value s := rfl
theorem exec_bbDump (value : BitVec 64) (s : State) : exec (.bbDump value) s = execBbDump value s := rfl
theorem exec_bbDumpComplete (s : State) : exec .bbDumpComplete s = execBbDumpComplete s := rfl
theorem exec_rstReq (value : BitVec 64) (s : State) : exec (.rstReq value) s = execRstReq value s := rfl
theorem exec_rlRouteWrite (peer : Nat) (value : BitVec 64) (s : State) :
    exec (.rlRouteWrite peer value) s = execRlRouteWrite peer value s := rfl
theorem exec_registerWrite (index : Nat) (value : BitVec 64) (s : State) :
    exec (.registerWrite index value) s = execRegisterWrite index value s := rfl
theorem exec_hostBar0Access (link index : Nat) (value : Option (BitVec 64)) (s : State) :
    exec (.hostBar0Access link index value) s = execHostBar0Access link index value s := rfl
theorem exec_hostBar2Access (offset : Nat) (count : Nat) (data : Option (List (BitVec 8))) (s : State) :
    exec (.hostBar2Access offset count data) s = execHostBar2Access offset count data s := rfl
theorem exec_peerAccess (peer ia : Nat) (act : PeerAct) (s : State) :
    exec (.peerAccess peer ia act) s = execPeerAccess peer ia act s := rfl
theorem exec_remoteWriteAck (write : Nat) (s : State) : exec (.remoteWriteAck write) s = execRemoteWriteAck write s := rfl
theorem exec_layerArrival (ctx model layer : Nat) (s : State) :
    exec (.layerArrival ctx model layer) s = execLayerArrival ctx model layer s := rfl
theorem exec_layerVictimChoice (ctx model layer : Nat) (s : State) :
    exec (.layerVictimChoice ctx model layer) s = execLayerVictimChoice ctx model layer s := rfl
theorem exec_layerEvictionComplete (ctx model layer : Nat) (s : State) :
    exec (.layerEvictionComplete ctx model layer) s = execLayerEvictionComplete ctx model layer s := rfl
theorem exec_flashReadEccFail (page : Nat) (s : State) : exec (.flashReadEccFail page) s = execFlashReadEccFail page s := rfl
theorem exec_reservationGrant (district : Nat) (s : State) :
    exec (.reservationGrant district) s = execReservationGrant district s := rfl
theorem exec_pipeIdleRelease (core quarter : Nat) (s : State) :
    exec (.pipeIdleRelease core quarter) s = execPipeIdleRelease core quarter s := rfl
theorem exec_terraceDelaySet (terrace heavier : Nat) (s : State) :
    exec (.terraceDelaySet terrace heavier) s = execTerraceDelaySet terrace heavier s := rfl
theorem exec_terraceDelayClear (terrace : Nat) (s : State) :
    exec (.terraceDelayClear terrace) s = execTerraceDelayClear terrace s := rfl
theorem exec_droopDetect (district : Nat) (s : State) : exec (.droopDetect district) s = execDroopDetect district s := rfl
theorem exec_suspectWindowOpen (district : Nat) (groups : List Nat) (s : State) :
    exec (.suspectWindowOpen district groups) s = execSuspectWindowOpen district groups s := rfl
theorem exec_suspectWindowEnd (district : Nat) (s : State) :
    exec (.suspectWindowEnd district) s = execSuspectWindowEnd district s := rfl
theorem exec_governorWindow (core : Nat) (s : State) : exec (.governorWindow core) s = execGovernorWindow core s := rfl
theorem exec_thermalReading (core engine celsius : Nat) (s : State) :
    exec (.thermalReading core engine celsius) s = execThermalReading core engine celsius s := rfl
theorem exec_districtHold (district : Nat) (s : State) : exec (.districtHold district) s = execDistrictHold district s := rfl
theorem exec_districtDrain (district : Nat) (s : State) : exec (.districtDrain district) s = execDistrictDrain district s := rfl
theorem exec_districtOff (district : Nat) (s : State) : exec (.districtOff district) s = execDistrictOff district s := rfl
theorem exec_inrushRampStart (tower : Nat) (s : State) : exec (.inrushRampStart tower) s = execInrushRampStart tower s := rfl
theorem exec_inrushRampComplete (tower unit : Nat) (s : State) :
    exec (.inrushRampComplete tower unit) s = execInrushRampComplete tower unit s := rfl
theorem exec_correctedError (unit : ErrUnit) (addr : Nat) (s : State) :
    exec (.correctedError unit addr) s = execCorrectedError unit addr s := rfl
theorem exec_registerEccError (gid reg : Nat) (lanes : BitVec 64) (s : State) :
    exec (.registerEccError gid reg lanes) s = execRegisterEccError gid reg lanes s := rfl
theorem exec_groupStateParityError (gid : Nat) (s : State) :
    exec (.groupStateParityError gid) s = execGroupStateParityError gid s := rfl
theorem exec_pipelineError (gid : Nat) (s : State) : exec (.pipelineError gid) s = execPipelineError gid s := rfl
theorem exec_memoryEccError (target : ErrTarget) (s : State) :
    exec (.memoryEccError target) s = execMemoryEccError target s := rfl
theorem exec_burstCheckFail (bus : Nat) (groups : List Nat) (result : BurstResult) (s : State) :
    exec (.burstCheckFail bus groups result) s = execBurstCheckFail bus groups result s := rfl
theorem exec_linkCrcFail (link : Nat) (s : State) : exec (.linkCrcFail link) s = execLinkCrcFail link s := rfl
theorem exec_linkTrainStart (link : Nat) (s : State) : exec (.linkTrainStart link) s = execLinkTrainStart link s := rfl
theorem exec_linkTrainResult (link : Nat) (lanes : Option Nat) (s : State) :
    exec (.linkTrainResult link lanes) s = execLinkTrainResult link lanes s := rfl
theorem exec_linkIdentComplete (link peerLink : Nat) (devid : List (BitVec 8)) (s : State) :
    exec (.linkIdentComplete link peerLink devid) s = execLinkIdentComplete link peerLink devid s := rfl
theorem exec_linkDown (link : Nat) (s : State) : exec (.linkDown link) s = execLinkDown link s := rfl
theorem exec_deviceReset (powerOn : Bool) (s : State) : exec (.deviceReset powerOn) s = execDeviceReset powerOn s := rfl
theorem exec_bringupStep (failed : Option (Nat × Nat)) (s : State) :
    exec (.bringupStep failed) s = execBringupStep failed s := rfl
theorem exec_hostLinkRetry (link : Nat) (trained : Bool) (s : State) :
    exec (.hostLinkRetry link trained) s = execHostLinkRetry link trained s := rfl
theorem exec_fenceComplete (op : Nat) (s : State) : exec (.fenceComplete op) s = execFenceComplete op s := rfl
theorem exec_supplyRecovery (district : Nat) (s : State) :
    exec (.supplyRecovery district) s = execSupplyRecovery district s := rfl

end Sys2Proof.Machine
end

