-- ==== Sys2Proof/Laws/Forms.lean ====
section
/-! SUPPORT. When the checks of a word find nothing: what each field check and each unused field asks. -/

namespace Sys2Proof

theorem setBits_nil (n w pos : Nat) : setBits n w pos = [] ↔ n % 2 ^ w = 0 := by
  unfold setBits
  simp only [List.filterMap_eq_nil_iff, List.mem_range, bitOf]
  constructor
  · intro h
    apply Nat.eq_of_testBit_eq
    intro i
    simp only [Nat.testBit_mod_two_pow, Nat.zero_testBit, Bool.and_eq_false_imp, decide_eq_true_eq]
    intro hi
    have := h i hi
    rw [Nat.testBit_eq_decide_div_mod_eq]
    simpa using this
  · intro h i hi
    have : n.testBit i = false := by
      have h2 := congrArg (fun m => Nat.testBit m i) h
      simpa [Nat.testBit_mod_two_pow, hi] using h2
    rw [Nat.testBit_eq_decide_div_mod_eq] at this
    simpa using this

theorem Operand.code_lt (o : Operand) : o.code < 1024 := by
  have := o.idx.isLt
  unfold Operand.code Level.code
  cases o.lvl <;> simp <;> omega

theorem Operand.code_zero (o : Operand) : o.code = 0 ↔ o = .zero := by
  obtain ⟨l, i⟩ := o
  have := i.isLt
  constructor
  · intro h
    cases l <;> simp [Operand.code, Level.code] at h
    simp only [Operand.zero, Operand.mk.injEq, true_and]
    exact BitVec.eq_of_toNat_eq h
  · intro h
    rw [h]
    decide

@[simp] theorem unused_nil (o : Operand) (pos : Nat) : setBits o.code 10 pos = [] ↔ o = .zero := by
  rw [setBits_nil, Nat.mod_eq_of_lt (show o.code < 2 ^ 10 from o.code_lt), Operand.code_zero]

@[simp] theorem need_nil (b : Bool) (p : Nat) : need b p = [] ↔ b = true := by
  unfold need
  cases b <;> simp

/-! ### Widths -/

theorem V3.w_cases (f : V3) : f.w = 32 ∨ f.w = 64 := by
  unfold V3.w Ty.width
  cases f.ty <;> simp

theorem VI.w_cases (f : VI) : f.w = 32 ∨ f.w = 64 := by
  unfold VI.w Ty.width
  cases f.ty <;> simp

end Sys2Proof
end

