-- ==== Sys2Proof/Laws/Tables.lean ====
section
/-! SUPPORT. Reads of the state's tables after writes to them, and what a group's register writes do to its registers. -/

namespace Sys2Proof.KMap

variable {α : Type}

theorem insert_insert (m : KMap α) (k : Nat) (v w : α) : insert (insert m k v) k w = insert m k w := by
  induction m with
  | nil => simp [insert]
  | cons e m ih =>
    obtain ⟨i, u⟩ := e
    simp only [insert]
    by_cases h : k < i
    · simp [h, insert]
    · by_cases h' : i = k
      · simp [h', insert]
      · simp [h, h', insert, ih]

theorem modify_insert (m : KMap α) (k : Nat) (v : α) (f : α → α) : modify (insert m k v) k f = insert m k (f v) := by
  simp [modify, insert_insert]

end Sys2Proof.KMap

namespace Sys2Proof.Machine

/-! ### Tables of the state -/

theorem State.grp_setGrp (s : State) (g h : Nat) (x : Group) : (s.setGrp g x).grp h = if g = h then x else s.grp h := by
  unfold State.grp State.setGrp
  rw [KMap.find?_insert]
  split <;> simp

@[simp] theorem State.grp_setGrp_self (s : State) (g : Nat) (x : Group) : (s.setGrp g x).grp g = x := by
  simp [State.grp_setGrp]

theorem State.grp_setGrp_ne (s : State) {g h : Nat} (x : Group) (hn : g ≠ h) : (s.setGrp g x).grp h = s.grp h := by
  simp [State.grp_setGrp, hn]

theorem State.grp_modGrp (s : State) (g h : Nat) (f : Group → Group) :
    (s.modGrp g f).grp h = if g = h ∧ (KMap.find? s.groups g).isSome then f (s.grp g) else s.grp h := by
  unfold State.grp State.modGrp
  rw [KMap.find?_modify]
  by_cases hg : g = h
  · subst hg
    cases hf : KMap.find? s.groups g <;> simp
  · simp [hg]

theorem State.modGrp_setGrp (s : State) (g : Nat) (x : Group) (f : Group → Group) :
    (s.setGrp g x).modGrp g f = s.setGrp g (f x) := by
  simp [State.setGrp, State.modGrp, KMap.modify_insert]

theorem State.setGrp_setGrp (s : State) (g : Nat) (x y : Group) : (s.setGrp g x).setGrp g y = s.setGrp g y := by
  simp [State.setGrp, KMap.insert_insert]

theorem State.team_setTeam (s : State) (t u : Nat) (x : Team) : (s.setTeam t x).team u = if t = u then x else s.team u := by
  unfold State.team State.setTeam
  rw [KMap.find?_insert]
  split <;> simp

theorem State.team_modTeam (s : State) (t u : Nat) (f : Team → Team) :
    (s.modTeam t f).team u = if t = u ∧ (KMap.find? s.teams t).isSome then f (s.team t) else s.team u := by
  unfold State.team State.modTeam
  rw [KMap.find?_modify]
  by_cases h : t = u
  · subst h
    cases hf : KMap.find? s.teams t <;> simp
  · simp [h]

theorem State.phase_modPhase (s : State) (t u : Nat) (f : Phase → Phase) :
    (s.modPhase t f).phase u = if t = u ∧ (KMap.find? s.phases t).isSome then f (s.phase t) else s.phase u := by
  unfold State.phase State.modPhase
  rw [KMap.find?_modify]
  by_cases h : t = u
  · subst h
    cases hf : KMap.find? s.phases t <;> simp
  · simp [h]

theorem State.ctx_setCtx (s : State) (c d : Nat) (x : Ctx) : (s.setCtx c x).ctx d = if c = d then x else s.ctx d := by
  simp [State.ctx, State.setCtx, KMap.getD_setD]

@[simp] theorem State.ctx_setCtx_self (s : State) (c : Nat) (x : Ctx) : (s.setCtx c x).ctx c = x := by
  simp [State.ctx_setCtx]

theorem State.ctx_modCtx (s : State) (c d : Nat) (f : Ctx → Ctx) :
    (s.modCtx c f).ctx d = if c = d then f (s.ctx c) else s.ctx d := by
  simp [State.modCtx, State.ctx_setCtx]

@[simp] theorem State.ctx_modCtx_self (s : State) (c : Nat) (f : Ctx → Ctx) : (s.modCtx c f).ctx c = f (s.ctx c) := by
  simp [State.ctx_modCtx]

theorem State.core_modCore (s : State) (c d : Nat) (f : CoreSt → CoreSt) :
    (s.modCore c f).core d = if c = d then f (s.core c) else s.core d := by
  simp [State.core, State.modCore, KMap.getD_setD]

@[simp] theorem State.core_modCore_self (s : State) (c : Nat) (f : CoreSt → CoreSt) :
    (s.modCore c f).core c = f (s.core c) := by
  simp [State.core_modCore]

theorem State.district_modDistrict (s : State) (c d : Nat) (f : District → District) :
    (s.modDistrict c f).district d = if c = d then f (s.district c) else s.district d := by
  simp [State.district, State.modDistrict, KMap.getD_setD]

@[simp] theorem State.district_modDistrict_self (s : State) (c : Nat) (f : District → District) :
    (s.modDistrict c f).district c = f (s.district c) := by
  simp [State.district_modDistrict]

/-! ### Registers of a group -/

theorem lane_key (r q l m : Nat) (hl : l < 64) (hm : m < 64) : r * 64 + l = q * 64 + m ↔ r = q ∧ l = m := by omega

theorem Group.vGet_vSet (g : Group) (r q l m : Nat) (x : Word) (hl : l < 64) (hm : m < 64) :
    (g.vSet r l x).vGet q m = if r = q ∧ l = m then x else g.vGet q m := by
  simp [Group.vGet, Group.vSet, KMap.getD_setD, lane_key _ _ _ _ hl hm]

theorem Group.kerb_kSet (g : Group) (r q l m : Nat) (x : Word) (hl : l < 64) (hm : m < 64) :
    KMap.find? (g.kSet r l x).kerb (q * 64 + m) = if r = q ∧ l = m then some x else KMap.find? g.kerb (q * 64 + m) := by
  simp [Group.kSet, KMap.find?_insert, lane_key _ _ _ _ hl hm]

theorem Group.sGet_sSet (g : Group) (r q : Nat) (x : Word64) : (g.sSet r x).sGet q = if r = q then x else g.sGet q := by
  simp [Group.sGet, Group.sSet, KMap.getD_setD]

theorem Group.pGet_pSet (g : Group) (r q : Nat) (x : Mask) : (g.pSet r x).pGet q = if r = q then x else g.pGet q := by
  simp [Group.pGet, Group.pSet, KMap.getD_setD]

/-- Bits of x in the lanes of m, bits of a elsewhere. -/
theorem blend_bit (a x m : Mask) (l : Nat) (hl : l < 64) :
    (minus a m ||| (x &&& m)).getLsbD l = if m.getLsbD l then x.getLsbD l else a.getLsbD l := by
  simp only [minus, BitVec.getLsbD_or, BitVec.getLsbD_and, BitVec.getLsbD_not, hl]
  generalize a.getLsbD l = p, x.getLsbD l = q, m.getLsbD l = r
  revert p q r
  decide

/-- A predicate write changes the bits of its lanes only. -/
theorem Group.pWrite_bit (g : Group) (r q l : Nat) (m x : Mask) (hl : l < 64) :
    ((g.pWrite r m x).pGet q).getLsbD l =
      if r = q ∧ m.getLsbD l then x.getLsbD l else (g.pGet q).getLsbD l := by
  unfold Group.pWrite
  rw [Group.pGet_pSet]
  by_cases h : r = q
  · subst h
    simp only [if_true, true_and]
    exact blend_bit _ _ _ _ hl
  · simp [h]

end Sys2Proof.Machine
end

