-- ==== Sys2Proof/Laws/Issue.lean ====
section
/-! SUPPORT. How a word issues: where `issueOf` answers an issue, `stage` goes on with it; and what the issue itself leaves. -/

namespace Sys2Proof.Machine

/-- A word that issues goes on with its own effect. -/
theorem stage_of_issueOf {i : Instr} {s : State} {n : Need} {x : Issue} (h : issueOf i s n = some x) (k : Issue → Out) :
    stage i s n k = k x := by
  unfold issueOf at h
  unfold stage
  cases hf : s.focus with
  | none => simp [hf] at h
  | some fo =>
    obtain ⟨gid, lane⟩ := fo
    cases hi : i.info with
    | none => simp [hf, hi] at h
    | some f =>
      simp only [hf, hi] at h ⊢
      cases he : (s.grp gid).entryAt lane with
      | none => simp [he] at h
      | some e =>
        simp only [he] at h ⊢
        split at h
        · cases h
        · next hc =>
          simp only [Bool.or_eq_true, not_or, Bool.not_eq_true, Option.isSome_eq_false_iff, Option.isNone_iff_eq_none] at hc
          obtain ⟨⟨⟨⟨⟨⟨⟨h1, h2⟩, h3⟩, h4⟩, h5⟩, h6⟩, h7, h7'⟩, h8⟩ := hc
          simp only [h1, h2, h3, h4, h5, h6, h7, h7', h8, Bool.false_eq_true, if_false, Bool.or_self]
          split at h
          · cases h
          · next q hq =>
            cases h
            simp only [hq]

/-- What an issue holds: the entry it issues for, and the state with the issue recorded. -/
structure Issue.Of (i : Instr) (s : State) (x : Issue) : Prop where
  focus : s.focus = some ⟨x.gid, x.lane⟩
  entry : (s.grp x.gid).entryAt x.lane = some x.e
  pass : ∃ f, i.info = some f ∧ x.pass = (s.grp x.gid).guard x.e.mask f.g
  state : ∃ b l, x.s = (wordTouch i s).setGrp x.gid { s.grp x.gid with readSet := b, issued := l }

theorem issueOf_spec {i : Instr} {s : State} {n : Need} {x : Issue} (h : issueOf i s n = some x) : Issue.Of i s x := by
  unfold issueOf at h
  cases hf : s.focus with
  | none => simp [hf] at h
  | some fo =>
    obtain ⟨gid, lane⟩ := fo
    cases hi : i.info with
    | none => simp [hf, hi] at h
    | some f =>
      simp only [hf, hi] at h
      cases he : (s.grp gid).entryAt lane with
      | none => simp [he] at h
      | some e =>
        simp only [he] at h
        split at h
        · cases h
        · split at h
          · cases h
          · cases h
            refine ⟨hf, he, ⟨f, hi, rfl⟩, ?_⟩
            rw [show wordTouch i s = s.touchWord gid ((s.grp gid).guard e.mask f.g) f by simp only [wordTouch, hf, hi, he]]
            exact ⟨_, _, rfl⟩

@[simp] theorem Issue.finish_eq (x : Issue) (g : Group) : x.finish g = .next (x.done g) := rfl
@[simp] theorem Issue.finishS_eq (x : Issue) (s : State) : x.finishS s = .next (x.doneS s) := rfl

/-- The words of one register result: they give it wherever they issue. -/
theorem lanewise_gives {i : Instr} {s : State} {n : Need} {x : Issue} {m : Option (Nat × Nat)} {d : Operand} {ty : Ty} {w : Nat}
    {f : Issue → Nat → Nat} (h : issueOf i s n = some x) (he : exec i s = lanewise i s n m d ty w f) :
    Gives i s x m d ty w (f x) := by
  unfold Gives
  rw [he, lanewise, stage_of_issueOf h, Issue.finish_eq]

theorem lanewiseP_gives {i : Instr} {s : State} {n : Need} {x : Issue} {p : Nat} {f : Issue → Nat → Bool}
    (h : issueOf i s n = some x) (he : exec i s = lanewiseP i s n p f) :
    exec i s = .next (x.done (x.g.pWrite p x.pass (laneFilter x.pass (f x)))) := by
  rw [he, lanewiseP, stage_of_issueOf h, Issue.finish_eq]

theorem gives_congr {i : Instr} {s : State} {x : Issue} {m : Option (Nat × Nat)} {d : Operand} {ty : Ty} {w : Nat}
    {v v' : Nat → Nat} (h : Gives i s x m d ty w v) (hv : ∀ l, v l = v' l) : Gives i s x m d ty w v' := by
  obtain rfl : v = v' := funext hv
  exact h

theorem arith3_gives {i : Instr} {s : State} {f : V3} {ty : Ty} {wd wa wb wc : Nat} {op : Nat → Nat → Nat → Nat} {x : Issue}
    (hx : issueOf i s {} = some x) (he : exec i s = arith3 i s f ty wd wa wb wc op) :
    Gives i s x none f.d ty wd (fun l => op (x.src f.a wa l) (x.src f.b wb l) (x.src f.c wc l)) :=
  lanewise_gives (f := fun x l => op (x.src f.a wa l) (x.src f.b wb l) (x.src f.c wc l)) hx he

theorem arithI_gives {i : Instr} {s : State} {f : VI} {op : Nat → Nat} {x : Issue}
    (hx : issueOf i s {} = some x) (he : exec i s = arithI i s f op) :
    Gives i s x none f.d f.ty f.w (fun l => op (x.src f.a f.w l)) :=
  lanewise_gives (f := fun x l => op (x.src f.a f.w l)) hx he

theorem float3_gives {i : Instr} {s : State} {f : V3} {m : Option (Nat × Nat)} {op : Nat → Nat → Nat → Nat} {x : Issue}
    (hx : issueOf i s {} = some x) (he : exec i s = float3 i s f m op) :
    Gives i s x m f.d f.ty 32 (fun l => perElem f.ty op (x.src f.a 32 l) (x.src f.b 32 l) (x.src f.c 32 l)) :=
  lanewise_gives (f := fun x l => perElem f.ty op (x.src f.a 32 l) (x.src f.b 32 l) (x.src f.c 32 l)) hx he

/-! ### Bounds -/

theorem Issue.word_lt (x : Issue) (o : Operand) (l : Nat) : x.word o l < 2 ^ 32 := by
  unfold Issue.word
  dsimp only
  split
  · exact BitVec.isLt _
  · exact BitVec.isLt _
  · exact Nat.mod_lt _ (by norm_num)
  · exact BitVec.isLt _

/-- A source of 32 or 64 bits is below 2^w. -/
theorem Issue.src_lt (x : Issue) (o : Operand) (w l : Nat) (hw : w = 32 ∨ w = 64) : x.src o w l < 2 ^ w := by
  unfold Issue.src
  dsimp only
  rcases hw with rfl | rfl
  · simp only [Nat.le_refl, if_true]
    exact x.word_lt o l
  · simp only [show ¬ (64 ≤ 32) by omega, if_false]
    split
    · simp only [Nat.le_refl, if_true]
      exact BitVec.isLt _
    · have h0 := x.word_lt ⟨o.lvl, BitVec.ofNat 8 (o.idx.toNat + 0)⟩ l
      have h1 := x.word_lt ⟨o.lvl, BitVec.ofNat 8 (o.idx.toNat + 1)⟩ l
      simp only [regCount, show ¬ (64 ≤ 32) by omega, if_false, Nat.le_refl, if_true, List.range, List.range.loop,
        List.foldl_cons, List.foldl_nil]
      omega

theorem wrapNat_lt (w : Nat) (x : Int) : wrapNat w x < 2 ^ w := by
  unfold wrapNat
  have h : (0 : Int) < ((2 ^ w : Nat) : Int) := by positivity
  have h1 := Int.emod_nonneg x (Int.ne_of_gt h)
  have h2 := Int.emod_lt_of_pos x h
  omega

end Sys2Proof.Machine
end

