-- ==== Sys2Proof/Laws/Settle.lean ====
section
/-! SUPPORT. What a group does of itself after a word that goes on: in a calm group only entries and the mask of owing lanes
change. -/

namespace Sys2Proof.Machine

/-- What settling does to a calm group: merges, releases at RCV, and ends waits at cross-lane words. -/
def Group.tidy (g : Group) : Group := (g.regang.settleOwing.rcvRelease).crossWake.regang

/-- Some entry waits for nothing. -/
def Group.goes (g : Group) : Prop := ∃ e ∈ g.entries, e.wait = .none

theorem mergeInto_goes (e : Entry) (l : List Entry) (h : e.wait = .none ∨ ∃ x ∈ l, x.wait = .none) :
    ∃ x ∈ mergeInto e l, x.wait = .none := by
  induction l with
  | nil => simpa [mergeInto] using h
  | cons y l ih =>
    simp only [mergeInto]
    split
    · rcases h with h | ⟨x, hx, hw⟩
      · refine ⟨_, List.mem_cons_self, ?_⟩
        simp only [Entry.merge]
        split
        · next hy => simpa [hy] using h
        · rfl
      · rcases List.mem_cons.mp hx with rfl | hx
        · refine ⟨_, List.mem_cons_self, ?_⟩
          simp only [Entry.merge]
          split
          · exact hw
          · rfl
        · exact ⟨x, List.mem_cons_of_mem _ hx, hw⟩
    · rcases h with h | ⟨x, hx, hw⟩
      · obtain ⟨z, hz, hw⟩ := ih (.inl h)
        exact ⟨z, List.mem_cons_of_mem _ hz, hw⟩
      · rcases List.mem_cons.mp hx with rfl | hx
        · exact ⟨x, List.mem_cons_self, hw⟩
        · obtain ⟨z, hz, hw⟩ := ih (.inr ⟨x, hx, hw⟩)
          exact ⟨z, List.mem_cons_of_mem _ hz, hw⟩

theorem mergeAll_goes (l a : List Entry) (h : (∃ x ∈ a, x.wait = .none) ∨ ∃ x ∈ l, x.wait = .none) :
    ∃ x ∈ l.foldl (fun l e => mergeInto e l) a, x.wait = .none := by
  induction l generalizing a with
  | nil => simpa using h
  | cons y l ih =>
    apply ih
    rcases h with h | ⟨x, hx, hw⟩
    · exact .inl (mergeInto_goes _ _ (.inr h))
    · rcases List.mem_cons.mp hx with rfl | hx
      · exact .inl (mergeInto_goes _ _ (.inl hw))
      · exact .inr ⟨x, hx, hw⟩

theorem Group.regang_goes (g : Group) (h : g.goes) : g.regang.goes := mergeAll_goes _ _ (.inr h)

theorem Group.settleOwing_goes (g : Group) (h : g.goes) : g.settleOwing.goes := h

theorem Entry.advance_wait (e : Entry) : e.advance.wait = .none := by
  unfold Entry.advance
  split <;> (try split) <;> rfl

theorem Group.rcvRelease_goes (g : Group) (h : g.goes) : g.rcvRelease.goes := by
  unfold Group.rcvRelease
  dsimp only
  split
  · exact h
  · split
    · exact h
    · exact ⟨_, List.mem_cons_self, Entry.advance_wait _⟩

theorem Group.crossWake_goes (g : Group) (h : g.goes) : g.crossWake.goes := by
  obtain ⟨e, he, hw⟩ := h
  refine ⟨e, List.mem_map.mpr ⟨e, he, ?_⟩, hw⟩
  simp [hw]

theorem Group.tidy_goes (g : Group) (h : g.goes) : g.tidy.goes :=
  Group.regang_goes _ (Group.crossWake_goes _ (Group.rcvRelease_goes _ (Group.settleOwing_goes _ (Group.regang_goes _ h))))

/-- Tidying changes entries and the mask of owing lanes only. -/
theorem Group.tidy_eq (g : Group) : g.tidy = { g with entries := g.tidy.entries, owing := g.tidy.owing } := by
  unfold Group.tidy
  generalize hg : g.regang = g1
  have h1 : g1 = { g with entries := g1.entries } := by subst hg; rfl
  generalize ho : g1.settleOwing = g2
  have h2 : g2 = { g with entries := g2.entries, owing := g2.owing } := by subst ho; rw [h1]; rfl
  generalize hr : g2.rcvRelease = g3
  have h3 : g3 = { g with entries := g3.entries, owing := g3.owing } := by
    subst hr
    unfold Group.rcvRelease
    dsimp only
    split
    · exact h2
    · split
      · exact h2
      · rw [h2]
  rw [h3]
  rfl

theorem barArrive_goes (s : State) (gid : Nat) (h : (s.grp gid).goes) : s.barArrive gid = s := by
  obtain ⟨x, hx, hw⟩ := h
  unfold State.barArrive
  dsimp only
  split
  · next e l he =>
    split
    · next c id hb =>
      have hall : ((s.grp gid).entries.all fun x => x.wait == .bar c id) = false := by
        rw [List.all_eq_false]
        exact ⟨x, hx, by simp [hw]⟩
      simp [hall]
    · rfl
  · rfl

theorem takeDeferred_calm (s : State) (gid : Nat) (h : ((s.grp gid).deferred.isNone || (s.grp gid).handler.isSome) = true) :
    s.takeDeferred gid = s := by
  unfold State.takeDeferred
  dsimp only
  split
  · next hh hd => simp [hh, hd] at h
  · rfl

/-- A calm group with an entry that waits for nothing only tidies its entries. -/
theorem settle_calm (s : State) (gid : Nat) (g : Group) (hc : g.calm = true) (hg : g.goes) :
    (s.setGrp gid g).settle gid = s.setGrp gid g.tidy := by
  have ht : g.tidy.calm = true := by rw [Group.tidy_eq]; exact hc
  simp only [Group.calm, Bool.and_eq_true, bne_iff_ne, ne_eq] at ht
  have key : ((s.setGrp gid g.tidy).takeDeferred gid).barArrive gid = s.setGrp gid g.tidy := by
    rw [takeDeferred_calm _ _ (by simpa using ht.1), barArrive_goes _ _ (by simpa using Group.tidy_goes g hg)]
  unfold State.settle
  rw [State.modGrp_setGrp]
  unfold Group.tidy at key ht ⊢
  simp only [key, State.grp_setGrp_self, ht.2, false_and, if_false]

/-- The entry of the issue, gone on. -/
theorem Group.modEntry_goes (g : Group) (lane : Nat) (h : (g.entryAt lane).isSome) : (g.modEntry lane Entry.advance).goes := by
  obtain ⟨e, he⟩ := Option.isSome_iff_exists.mp h
  have hm := List.mem_of_find?_eq_some he
  have hp := List.find?_some he
  refine ⟨e.advance, List.mem_map.mpr ⟨e, hm, ?_⟩, Entry.advance_wait e⟩
  exact if_pos hp

/-- A word that is done, in a calm group: the group takes its registers, its entry goes on, and its entries are tidied. -/
theorem Issue.done_calm {i : Instr} {s : State} {x : Issue} (hx : Issue.Of i s x) (g : Group) (hc : g.calm = true)
    (he : g.entries = x.g.entries) : x.done g = (wordTouch i s).setGrp x.gid (g.modEntry x.lane Entry.advance).tidy := by
  obtain ⟨b, l, hs⟩ := hx.state
  have hent : (g.entryAt x.lane).isSome := by
    have : x.g.entries = (s.grp x.gid).entries := by simp [Issue.g, hs]
    have h2 := hx.entry
    simp only [Group.entryAt] at h2 ⊢
    rw [he, this, h2]
    rfl
  unfold Issue.done
  rw [settle_calm _ _ _ (by exact hc) (Group.modEntry_goes _ _ hent), hs, State.setGrp_setGrp]

end Sys2Proof.Machine
end

