-- ==== Sys2Proof/Laws/Write.lean ====
section
/-! SUPPORT. Sets of lanes, and what the one operation that writes a result does to a group: which registers it can change, and
that it changes nothing else. -/

namespace Sys2Proof.Machine

/-! ### Sets of lanes -/

theorem mem_lanesOf (m : Mask) (l : Nat) : l ∈ lanesOf m ↔ m.getLsbD l = true := by
  unfold lanesOf
  simp only [List.mem_filter, List.mem_range, and_iff_right_iff_imp]
  exact fun h => BitVec.lt_of_getLsbD h

theorem laneBit_bit (k l : Nat) (hl : l < 64) : (laneBit k).getLsbD l = decide (k = l) := by
  unfold laneBit
  rw [BitVec.getLsbD_ofNat, Nat.testBit_two_pow]
  simp [hl]

theorem foldl_laneBit (ls : List Nat) (m : Mask) (l : Nat) (hl : l < 64) :
    (ls.foldl (fun m x => m ||| laneBit x) m).getLsbD l = (m.getLsbD l || decide (l ∈ ls)) := by
  induction ls generalizing m with
  | nil => simp
  | cons k ls ih =>
    rw [List.foldl_cons, ih, BitVec.getLsbD_or, laneBit_bit _ _ hl]
    by_cases hk : k = l
    · simp [hk]
    · simp [hk, Ne.symm hk]

theorem maskOf_bit (ls : List Nat) (l : Nat) (hl : l < 64) : (maskOf ls).getLsbD l = decide (l ∈ ls) := by
  unfold maskOf
  rw [foldl_laneBit _ _ _ hl]
  simp

/-- The lanes of a set that satisfy a condition. -/
theorem laneFilter_bit (m : Mask) (p : Nat → Bool) (l : Nat) (hl : l < 64) :
    (laneFilter m p).getLsbD l = (m.getLsbD l && p l) := by
  unfold laneFilter
  rw [maskOf_bit _ _ hl]
  simp [mem_lanesOf]

theorem Issue.vals_lanes (x : Issue) (f : Nat → Nat) : (x.vals f).map (·.1) = lanesOf x.pass := by
  simp [Issue.vals, Function.comp_def]

/-! ### Writing a result -/

/-- A write of a result changes V, poison bits, kerb slots and S registers only. -/
theorem Group.write_eq (g : Group) (o : Operand) (ty : Ty) (w : Nat) (vals : List (Nat × Nat)) :
    g.write o ty w vals = { g with
      v := (g.write o ty w vals).v, vpoison := (g.write o ty w vals).vpoison, kerb := (g.write o ty w vals).kerb,
      s := (g.write o ty w vals).s } := by
  have lane : ∀ (l val : Nat) (js : List Nat) (h : Group),
      (js.foldl (fun g j =>
        match o.lvl with
        | .k => g.kSet (o.idx.toNat + j) l (wordOf val j)
        | _ => g.vSet (o.idx.toNat + j) l (wordOf val j)) h) = { h with
      v := (js.foldl (fun g j =>
        match o.lvl with
        | .k => g.kSet (o.idx.toNat + j) l (wordOf val j)
        | _ => g.vSet (o.idx.toNat + j) l (wordOf val j)) h).v
      vpoison := (js.foldl (fun g j =>
        match o.lvl with
        | .k => g.kSet (o.idx.toNat + j) l (wordOf val j)
        | _ => g.vSet (o.idx.toNat + j) l (wordOf val j)) h).vpoison
      kerb := (js.foldl (fun g j =>
        match o.lvl with
        | .k => g.kSet (o.idx.toNat + j) l (wordOf val j)
        | _ => g.vSet (o.idx.toNat + j) l (wordOf val j)) h).kerb
      s := h.s } := by
    intro l val js
    induction js with
    | nil => intro h; rfl
    | cons j js ih =>
      intro h
      simp only [List.foldl_cons]
      rw [ih]
      cases o.lvl <;> rfl
  have all : ∀ (es : List (Nat × Nat)) (h : Group),
      es.foldl (fun g e => g.writeLane o w e.1 e.2) h = { h with
        v := (es.foldl (fun g e => g.writeLane o w e.1 e.2) h).v
        vpoison := (es.foldl (fun g e => g.writeLane o w e.1 e.2) h).vpoison
        kerb := (es.foldl (fun g e => g.writeLane o w e.1 e.2) h).kerb
        s := h.s } := by
    intro es
    induction es with
    | nil => intro h; rfl
    | cons e es ih =>
      intro h
      simp only [List.foldl_cons]
      rw [ih]
      have hl : h.writeLane o w e.1 e.2 = _ := lane e.1 e.2 (List.range (regCount w)) h
      rw [hl]
  unfold Group.write
  split
  · cases vals with
    | nil => rfl
    | cons e es =>
      simp only
      split <;> rfl
  · rfl
  · rw [all]

theorem Group.count_eq (g : Group) (m : Mask) (c : Option (Nat × Nat)) :
    g.count m c = { g with counts := (g.count m c).counts } := by
  unfold Group.count
  cases c <;> rfl

theorem Group.write_p (g : Group) (o : Operand) (ty : Ty) (w : Nat) (vals : List (Nat × Nat)) :
    (g.write o ty w vals).p = g.p := by rw [Group.write_eq]

theorem Group.write_pGet (g : Group) (o : Operand) (ty : Ty) (w : Nat) (vals : List (Nat × Nat)) (r : Nat) :
    (g.write o ty w vals).pGet r = g.pGet r := by
  unfold Group.pGet
  rw [Group.write_p]

theorem Group.write_entries (g : Group) (o : Operand) (ty : Ty) (w : Nat) (vals : List (Nat × Nat)) :
    (g.write o ty w vals).entries = g.entries := by rw [Group.write_eq]

theorem Group.write_calm (g : Group) (o : Operand) (ty : Ty) (w : Nat) (vals : List (Nat × Nat)) :
    (g.write o ty w vals).calm = g.calm := by rw [Group.write_eq]; rfl

/-- The words of one lane put into V registers from n on. -/
def Group.vPuts (g : Group) (n l val : Nat) (js : List Nat) : Group :=
  js.foldl (fun g j => g.vSet (n + j) l (wordOf val j)) g
/-- The words of one lane put into kerb slots from n on. -/
def Group.kPuts (g : Group) (n l val : Nat) (js : List Nat) : Group :=
  js.foldl (fun g j => g.kSet (n + j) l (wordOf val j)) g

theorem Group.writeLane_vLvl (g : Group) (o : Operand) (w l val : Nat) (h : o.lvl = .v) :
    g.writeLane o w l val = g.vPuts o.idx.toNat l val (List.range (regCount w)) := by
  unfold Group.writeLane Group.vPuts
  rw [h]

theorem Group.writeLane_kLvl (g : Group) (o : Operand) (w l val : Nat) (h : o.lvl = .k) :
    g.writeLane o w l val = g.kPuts o.idx.toNat l val (List.range (regCount w)) := by
  unfold Group.writeLane Group.kPuts
  rw [h]

theorem Group.vPuts_vGet (g : Group) (n l val q m : Nat) (js : List Nat) (hj : js.Nodup) (hl : l < 64) (hm : m < 64) :
    (g.vPuts n l val js).vGet q m = if m = l ∧ n ≤ q ∧ q - n ∈ js then wordOf val (q - n) else g.vGet q m := by
  unfold Group.vPuts
  induction js generalizing g with
  | nil => simp
  | cons j js ih =>
    rw [List.foldl_cons, ih _ (List.nodup_cons.mp hj).2, Group.vGet_vSet _ _ _ _ _ _ hl hm]
    have hn := (List.nodup_cons.mp hj).1
    by_cases hlm : m = l
    · by_cases hq : n ≤ q
      · by_cases h1 : q - n = j
        · subst h1
          simp [hlm, hq, hn]
        · have : ¬ (n + j = q) := by omega
          simp [hlm, hq, h1, this]
      · have : ¬ (n + j = q) := by omega
        simp [hq, this]
    · simp [hlm, Ne.symm hlm]

theorem Group.kPuts_kerb (g : Group) (n l val q m : Nat) (js : List Nat) (hj : js.Nodup) (hl : l < 64) (hm : m < 64) :
    KMap.find? (g.kPuts n l val js).kerb (q * 64 + m) =
      if m = l ∧ n ≤ q ∧ q - n ∈ js then some (wordOf val (q - n)) else KMap.find? g.kerb (q * 64 + m) := by
  unfold Group.kPuts
  induction js generalizing g with
  | nil => simp
  | cons j js ih =>
    rw [List.foldl_cons, ih _ (List.nodup_cons.mp hj).2, Group.kerb_kSet _ _ _ _ _ _ hl hm]
    have hn := (List.nodup_cons.mp hj).1
    by_cases hlm : m = l
    · by_cases hq : n ≤ q
      · by_cases h1 : q - n = j
        · subst h1
          simp [hlm, hq, hn]
        · have : ¬ (n + j = q) := by omega
          simp [hlm, hq, h1, this]
      · have : ¬ (n + j = q) := by omega
        simp [hq, this]
    · simp [hlm, Ne.symm hlm]

theorem Group.vPuts_kerb (g : Group) (n l val : Nat) (js : List Nat) : (g.vPuts n l val js).kerb = g.kerb := by
  unfold Group.vPuts
  induction js generalizing g with
  | nil => rfl
  | cons j js ih => rw [List.foldl_cons, ih]; rfl

theorem Group.kPuts_v (g : Group) (n l val : Nat) (js : List Nat) : (g.kPuts n l val js).v = g.v := by
  unfold Group.kPuts
  induction js generalizing g with
  | nil => rfl
  | cons j js ih => rw [List.foldl_cons, ih]; rfl

theorem Group.vPuts_s (g : Group) (n l val : Nat) (js : List Nat) : (g.vPuts n l val js).s = g.s := by
  unfold Group.vPuts
  induction js generalizing g with
  | nil => rfl
  | cons j js ih => rw [List.foldl_cons, ih]; rfl

theorem Group.kPuts_s (g : Group) (n l val : Nat) (js : List Nat) : (g.kPuts n l val js).s = g.s := by
  unfold Group.kPuts
  induction js generalizing g with
  | nil => rfl
  | cons j js ih => rw [List.foldl_cons, ih]; rfl

/-- A V word is changed only where the operand covers its register and its lane is among those written. -/
theorem Group.write_vGet_ne (g : Group) (o : Operand) (ty : Ty) (w : Nat) (vals : List (Nat × Nat)) (r m : Nat)
    (hv : ∀ e ∈ vals, e.1 < 64) (hm : m < 64) (h : ¬ (.v r ∈ opRegs o w ∧ m ∈ vals.map (·.1))) :
    (g.write o ty w vals).vGet r m = g.vGet r m := by
  have loop : ∀ (es : List (Nat × Nat)) (g : Group), (∀ e ∈ es, e ∈ vals) → (o.lvl = .v ∨ o.lvl = .k) →
      (es.foldl (fun g e => g.writeLane o w e.1 e.2) g).vGet r m = g.vGet r m := by
    intro es
    induction es with
    | nil => intro g _ _; rfl
    | cons e es ih =>
      intro g he hlv
      rw [List.foldl_cons, ih _ (fun e h => he e (List.mem_cons_of_mem _ h)) hlv]
      rcases hlv with hlv | hlv
      · rw [Group.writeLane_vLvl _ _ _ _ _ hlv,
          Group.vPuts_vGet _ _ _ _ _ _ _ List.nodup_range (hv e (he e List.mem_cons_self)) hm, if_neg]
        rintro ⟨h1, h2, h3⟩
        apply h
        constructor
        · simp only [opRegs, hlv, List.mem_map]
          exact ⟨r - o.idx.toNat, h3, by congr 1; omega⟩
        · exact List.mem_map.mpr ⟨e, he e List.mem_cons_self, h1.symm⟩
      · rw [Group.writeLane_kLvl _ _ _ _ _ hlv]
        simp only [Group.vGet, Group.kPuts_v]
  unfold Group.write
  split
  · cases vals with
    | nil => rfl
    | cons e es => simp only; split <;> rfl
  · rfl
  · next h1 h2 =>
    apply loop _ _ (fun e h => h)
    cases hl : o.lvl <;> simp_all

/-- A kerb slot is changed only where the operand covers it and its lane is among those written. -/
theorem Group.write_kerb_ne (g : Group) (o : Operand) (ty : Ty) (w : Nat) (vals : List (Nat × Nat)) (r m : Nat)
    (hv : ∀ e ∈ vals, e.1 < 64) (hm : m < 64) (h : ¬ (.k r ∈ opRegs o w ∧ m ∈ vals.map (·.1))) :
    KMap.find? (g.write o ty w vals).kerb (r * 64 + m) = KMap.find? g.kerb (r * 64 + m) := by
  have loop : ∀ (es : List (Nat × Nat)) (g : Group), (∀ e ∈ es, e ∈ vals) → (o.lvl = .v ∨ o.lvl = .k) →
      KMap.find? (es.foldl (fun g e => g.writeLane o w e.1 e.2) g).kerb (r * 64 + m) = KMap.find? g.kerb (r * 64 + m) := by
    intro es
    induction es with
    | nil => intro g _ _; rfl
    | cons e es ih =>
      intro g he hlv
      rw [List.foldl_cons, ih _ (fun e h => he e (List.mem_cons_of_mem _ h)) hlv]
      rcases hlv with hlv | hlv
      · rw [Group.writeLane_vLvl _ _ _ _ _ hlv, Group.vPuts_kerb]
      · rw [Group.writeLane_kLvl _ _ _ _ _ hlv,
          Group.kPuts_kerb _ _ _ _ _ _ _ List.nodup_range (hv e (he e List.mem_cons_self)) hm, if_neg]
        rintro ⟨h1, h2, h3⟩
        apply h
        constructor
        · simp only [opRegs, hlv, List.mem_map]
          exact ⟨r - o.idx.toNat, h3, by congr 1; omega⟩
        · exact List.mem_map.mpr ⟨e, he e List.mem_cons_self, h1.symm⟩
  unfold Group.write
  split
  · cases vals with
    | nil => rfl
    | cons e es => simp only; split <;> rfl
  · rfl
  · next h1 h2 =>
    apply loop _ _ (fun e h => h)
    cases hl : o.lvl <;> simp_all

/-- An S register is changed only by a write whose operand covers it. -/
theorem Group.write_sGet_ne (g : Group) (o : Operand) (ty : Ty) (w : Nat) (vals : List (Nat × Nat)) (r : Nat)
    (h : .s r ∉ opRegs o w) : (g.write o ty w vals).sGet r = g.sGet r := by
  unfold Group.write
  split
  · next hs =>
    have hr : ∀ i, i < (if w ≤ 64 then 1 else 2) → o.idx.toNat + i ≠ r := by
      intro i hi he
      apply h
      simp only [opRegs, hs, List.mem_map, List.mem_range]
      exact ⟨i, hi, by rw [he]⟩
    cases vals with
    | nil => rfl
    | cons e es =>
      simp only
      split
      · next hw =>
        rw [Group.sGet_sSet, if_neg]
        simpa using hr 0 (by simp [hw])
      · next hw =>
        rw [Group.sGet_sSet, if_neg (hr 1 (by simp [hw])), Group.sGet_sSet, if_neg]
        simpa using hr 0 (by simp [hw])
  · rfl
  · have loop : ∀ (es : List (Nat × Nat)) (g : Group),
        (es.foldl (fun g e => g.writeLane o w e.1 e.2) g).s = g.s := by
      intro es
      induction es with
      | nil => intro g; rfl
      | cons e es ih =>
        intro g
        rw [List.foldl_cons, ih]
        by_cases hv : o.lvl = .v
        · rw [Group.writeLane_vLvl _ _ _ _ _ hv, Group.vPuts_s]
        · by_cases hk : o.lvl = .k
          · rw [Group.writeLane_kLvl _ _ _ _ _ hk, Group.kPuts_s]
          · cases hl : o.lvl <;> simp_all
    simp only [Group.sGet, loop]

end Sys2Proof.Machine
end

