-- ==== Sys2Proof/Laws/Frame.lean ====
section
/-! SUPPORT. What a completed register word leaves alone, from what its new group leaves alone. -/

namespace Sys2Proof.Machine

/-! ### First touches -/

/-- Two states that differ in memory and poison marks only. -/
def SameButMemory (s t : State) : Prop := t = { s with mem := t.mem, poison := t.poison, l2bad := t.l2bad }

theorem SameButMemory.refl (s : State) : SameButMemory s s := rfl

theorem SameButMemory.trans {s t u : State} (h1 : SameButMemory s t) (h2 : SameButMemory t u) : SameButMemory s u := by
  unfold SameButMemory at *
  rw [h2, h1]

theorem SameButMemory.foldl {α : Type} (f : State → α → State) (l : List α) (s : State) (hf : ∀ s a, SameButMemory s (f s a)) :
    SameButMemory s (l.foldl f s) := by
  induction l generalizing s with
  | nil => exact .refl s
  | cons a l ih => exact (hf s a).trans (ih _)

theorem State.setPaWord_same (s : State) (pa x : Nat) : SameButMemory s (s.setPaWord pa x) := by
  unfold State.setPaWord
  split <;> rfl

theorem State.firstTouch_same (s : State) (tower ia : Nat) : SameButMemory s (s.firstTouch tower ia) := by
  unfold State.firstTouch
  split
  · dsimp only
    split
    · exact .refl s
    · exact (show SameButMemory s (s.zeroFrame _) from rfl).trans ((State.setPaWord_same _ _ _).trans (State.setPaWord_same _ _ _))
  · exact .refl s

theorem State.touchVa_same (s : State) (ctx tower : Nat) (kind : Acc) (line : Nat) : SameButMemory s (s.touchVa ctx tower kind line) := by
  unfold State.touchVa
  split
  · split
    · exact State.firstTouch_same s tower _
    · exact .refl s
  · exact .refl s

/-- The first touches of a word's constants change memory only (R32, R367). -/
theorem State.touchWord_same (s : State) (gid : Nat) (pass : Mask) (f : Info) : SameButMemory s (s.touchWord gid pass f) := by
  unfold State.touchWord
  split
  · exact .refl s
  · refine .foldl _ _ _ fun s e => ?_
    split
    · split
      · exact .foldl _ _ _ fun s i => State.touchVa_same s _ _ _ _
      · exact .refl s
    · exact .refl s

theorem wordTouch_same (i : Instr) (s : State) : SameButMemory s (wordTouch i s) := by
  unfold wordTouch
  split
  · split
    · exact State.touchWord_same s _ _ _
    · exact .refl s
  · exact .refl s

theorem SameButMemory.grp {s t : State} (h : SameButMemory s t) (gid : Nat) : t.grp gid = s.grp gid := by rw [h]; rfl

/-! ### What a word keeps -/

/-- A group that differs from another in the registers of a list, in the lanes of a set, and in the counts of meters, the mark of
YIELD and the poison bits of V registers. -/
structure Group.Keeps (g h : Group) (pass : Mask) (ws : List RegRef) : Prop where
  vector : ∀ r l, l < 64 → ¬ (.v r ∈ ws ∧ pass.getLsbD l = true) → h.vGet r l = g.vGet r l
  kerb : ∀ r l, l < 64 → ¬ (.k r ∈ ws ∧ pass.getLsbD l = true) →
    KMap.find? h.kerb (r * 64 + l) = KMap.find? g.kerb (r * 64 + l)
  scalar : ∀ r, .s r ∉ ws → h.sGet r = g.sGet r
  pred : ∀ r l, ¬ (.p r ∈ ws ∧ pass.getLsbD l = true) → (h.pGet r).getLsbD l = (g.pGet r).getLsbD l
  rest : h = { g with v := h.v, vpoison := h.vpoison, kerb := h.kerb, s := h.s, p := h.p, counts := h.counts, yielded := h.yielded }

theorem Group.Keeps.refl (g : Group) (pass : Mask) (ws : List RegRef) : g.Keeps g pass ws :=
  ⟨fun _ _ _ _ => rfl, fun _ _ _ _ => rfl, fun _ _ => rfl, fun _ _ _ => rfl, rfl⟩

theorem Group.Keeps.trans {g h k : Group} {pass : Mask} {ws : List RegRef} (h1 : g.Keeps h pass ws) (h2 : h.Keeps k pass ws) :
    g.Keeps k pass ws := by
  refine ⟨fun r l hl hn => (h2.vector r l hl hn).trans (h1.vector r l hl hn),
    fun r l hl hn => (h2.kerb r l hl hn).trans (h1.kerb r l hl hn), fun r hn => (h2.scalar r hn).trans (h1.scalar r hn),
    fun r l hn => (h2.pred r l hn).trans (h1.pred r l hn), ?_⟩
  rw [h2.rest, h1.rest]

/-- A write of a result keeps what the operand does not cover. -/
theorem Group.write_keeps (g : Group) (o : Operand) (ty : Ty) (w : Nat) (x : Issue) (f : Nat → Nat) (ws : List RegRef)
    (h : ∀ r ∈ opRegs o w, r ∈ ws) : g.Keeps (g.write o ty w (x.vals f)) x.pass ws := by
  have hv : ∀ e ∈ x.vals f, e.1 < 64 := by
    intro e he
    have : e.1 ∈ lanesOf x.pass := by rw [← x.vals_lanes f]; exact List.mem_map.mpr ⟨e, he, rfl⟩
    exact BitVec.lt_of_getLsbD ((mem_lanesOf _ _).mp this)
  refine ⟨?_, ?_, ?_, ?_, ?_⟩
  · intro r l hl hn
    apply Group.write_vGet_ne _ _ _ _ _ _ _ hv hl
    rintro ⟨h1, h2⟩
    rw [x.vals_lanes] at h2
    exact hn ⟨h _ h1, (mem_lanesOf _ _).mp h2⟩
  · intro r l hl hn
    apply Group.write_kerb_ne _ _ _ _ _ _ _ hv hl
    rintro ⟨h1, h2⟩
    rw [x.vals_lanes] at h2
    exact hn ⟨h _ h1, (mem_lanesOf _ _).mp h2⟩
  · intro r hn
    exact Group.write_sGet_ne _ _ _ _ _ _ (fun h1 => hn (h _ h1))
  · intro r l _
    rw [Group.write_pGet]
  · rw [Group.write_eq]

/-- A predicate write keeps every other predicate, and the other lanes of its own. -/
theorem Group.pWrite_keeps (g : Group) (r : Nat) (m y pass : Mask) (ws : List RegRef) (h : .p r ∈ ws)
    (hm : ∀ l, m.getLsbD l = true → pass.getLsbD l = true) : g.Keeps (g.pWrite r m y) pass ws := by
  refine ⟨fun _ _ _ _ => rfl, fun _ _ _ _ => rfl, fun _ _ => rfl, ?_, rfl⟩
  intro q l hn
  by_cases hl : l < 64
  · rw [Group.pWrite_bit _ _ _ _ _ _ hl, if_neg]
    rintro ⟨rfl, hml⟩
    exact hn ⟨h, hm _ hml⟩
  · have h1 : ∀ z : Mask, z.getLsbD l = false := fun z => BitVec.getLsbD_of_ge z l (by omega)
    rw [h1, h1]

theorem Group.count_keeps (g : Group) (m : Mask) (c : Option (Nat × Nat)) (pass : Mask) (ws : List RegRef) :
    g.Keeps (g.count m c) pass ws := by
  cases c with
  | none => exact .refl _ _ _
  | some c => exact ⟨fun _ _ _ _ => rfl, fun _ _ _ _ => rfl, fun _ _ => rfl, fun _ _ _ => rfl, rfl⟩

/-- A word that is done in a calm group leaves alone what its new group keeps. -/
theorem Issue.done_leaves {i : Instr} {s : State} {x : Issue} (hx : Issue.Of i s x) (g : Group) (ws : List RegRef)
    (hc : x.g.calm = true) (h : x.g.Keeps g x.pass ws) : LeavesAlone s (wordTouch i s) (x.done g) x.gid x.pass ws := by
  have hce : g.calm = true := by rw [h.rest]; exact hc
  have hent : g.entries = x.g.entries := by rw [h.rest]
  obtain ⟨b, l, hs⟩ := hx.state
  have hg : x.g = { s.grp x.gid with readSet := b, issued := l } := by simp [Issue.g, hs]
  rw [Issue.done_calm hx g hce hent, Group.tidy_eq]
  have hr := h.rest
  rw [hg] at h hr
  refine ⟨?_, ?_, ?_, ?_, ?_, ?_, ?_, ?_, ?_, ?_, ?_, ?_, rfl⟩
  · intro r l hl hn
    simp only [State.grp_setGrp_self]
    exact h.vector r l hl hn
  · intro r l hl hn
    simp only [State.grp_setGrp_self]
    exact h.kerb r l hl hn
  · intro r hn
    simp only [State.grp_setGrp_self]
    exact h.scalar r hn
  · intro r l hn
    simp only [State.grp_setGrp_self]
    exact h.pred r l hn
  all_goals first
    | (simp only [State.grp_setGrp_self]; rw [hr]; (first | rfl | exact ⟨rfl, rfl⟩ | exact ⟨rfl, rfl, rfl, rfl⟩))
    | (intro k hk; rw [State.grp_setGrp_ne _ _ (Ne.symm hk)]; exact (wordTouch_same i s).grp k)

end Sys2Proof.Machine
end

