-- ==== Sys2Proof/Laws/Memory.lean ====
section
/-! SUPPORT. Memory: a read after a write, and the canonical form that every operation on memory keeps. -/

namespace Sys2Proof.Machine

/-! ### The store -/

theorem Memory.get_set (m : Memory) (k j : Nat) (x : Byte) : (m.set k x).get j = if k = j then x else m.get j :=
  KMap.getD_setD m 0 x k j

@[simp] theorem Memory.get_set_self (m : Memory) (k : Nat) (x : Byte) : (m.set k x).get k = x := by
  simp [Memory.get_set]

theorem Memory.get_set_ne (m : Memory) {k j : Nat} (x : Byte) (h : k ≠ j) : (m.set k x).get j = m.get j := by
  simp [Memory.get_set, h]

/-- Filtering by key: a key that is kept reads as before, the others read 0. -/
theorem Memory.get_filter (m : Memory) (p : Nat → Bool) (k : Nat) :
    Memory.get (m.filter (fun e => p e.1)) k = if p k then m.get k else 0 := by
  unfold Memory.get KMap.getD
  induction m with
  | nil => simp
  | cons e m ih =>
    obtain ⟨j, v⟩ := e
    simp only [List.filter_cons]
    by_cases hj : j = k
    · subst hj
      by_cases hp : p j
      · simp [hp, KMap.find?]
      · simpa [hp] using ih
    · by_cases hp : p j
      · simpa [hp, KMap.find?, hj] using ih
      · simpa [hp, KMap.find?, hj] using ih

theorem Memory.wf_nil : Memory.wf [] := rfl

theorem Memory.wf_set (m : Memory) (k : Nat) (x : Byte) (h : m.wf) : (m.set k x).wf := KMap.canonical_setD m 0 x k h

theorem Memory.wf_filter (m : Memory) (p : Nat × Byte → Bool) (h : m.wf) : Memory.wf (m.filter p) := by
  unfold Memory.wf KMap.canonical at *
  simp only [Bool.and_eq_true] at *
  refine ⟨KMap.sortedFrom_filter m 0 p h.1, ?_⟩
  have h2 := h.2
  simp only [List.all_eq_true, List.mem_filter] at *
  exact fun e he => h2 e he.1

theorem Memory.wf_setN (m : Memory) (k n x : Nat) (h : m.wf) : (m.setN k n x).wf := by
  induction n generalizing m k x with
  | zero => exact h
  | succ n ih => exact ih _ _ _ (Memory.wf_set m k _ h)

theorem Memory.wf_setLine (m : Memory) (base : Nat) (l : List Nat) (h : m.wf) : (m.setLine base l).wf := by
  unfold Memory.setLine
  suffices ∀ (a : Memory × Nat), a.1.wf →
      Memory.wf (l.foldl (fun (a : Memory × Nat) b => (Memory.set a.1 a.2 (BitVec.ofNat 8 b), a.2 + 1)) a).1 from this (m, base) h
  induction l with
  | nil => exact fun a ha => ha
  | cons b l ih => exact fun a ha => ih _ (Memory.wf_set a.1 a.2 _ ha)

/-- A fold keeps the form of memory if each of its steps does. -/
theorem wf_foldl {α : Type} (f : State → α → State) (l : List α) (s : State) (h : s.mem.wf)
    (hf : ∀ s a, s.mem.wf → (f s a).mem.wf) : (l.foldl f s).mem.wf := by
  induction l generalizing s with
  | nil => exact h
  | cons a l ih => exact ih _ (hf s a h)

/-- A fold leaves memory as it is if each of its steps does. -/
theorem mem_foldl {α : Type} (f : State → α → State) (l : List α) (s : State) (hf : ∀ s a, (f s a).mem = s.mem) :
    (l.foldl f s).mem = s.mem := by
  induction l generalizing s with
  | nil => rfl
  | cons a l ih => exact (ih _).trans (hf s a)

/-! ### Writes -/

theorem State.wr_wf (s : State) (ctx : Nat) (p : Loc) (x : Byte) (h : s.mem.wf) : (s.wr ctx p x).mem.wf := by
  unfold State.wr
  split
  · exact Memory.wf_set _ _ _ h
  · next key _ =>
    dsimp only
    generalize Aes.xtsLine true key _ _ = line
    exact Memory.wf_setLine s.mem _ line h

theorem State.wrN_wf (s : State) (ctx : Nat) (p : Loc) (n x : Nat) (h : s.mem.wf) : (s.wrN ctx p n x).mem.wf := by
  induction n generalizing s p x with
  | zero => exact h
  | succ n ih => exact ih _ _ _ (State.wr_wf s ctx p _ h)

theorem State.wrAll_wf (s : State) (ctx : Nat) (l : List (Loc × Byte)) (h : s.mem.wf) : (s.wrAll ctx l).mem.wf := by
  induction l generalizing s with
  | nil => exact h
  | cons e l ih => exact ih _ (State.wr_wf s ctx e.1 e.2 h)

theorem State.setPaWord_wf (s : State) (pa x : Nat) (h : s.mem.wf) : (s.setPaWord pa x).mem.wf := by
  unfold State.setPaWord
  split
  · exact Memory.wf_setN _ _ _ _ h
  · exact h

theorem State.zeroBytes_wf (s : State) (pa : Nat) (h : s.mem.wf) : (s.zeroBytes pa).mem.wf := Memory.wf_filter _ _ h

theorem State.zeroFrame_wf (s : State) (pa : Nat) (h : s.mem.wf) : (s.zeroFrame pa).mem.wf := Memory.wf_filter _ _ h

theorem State.firstTouch_wf (s : State) (tower ia : Nat) (h : s.mem.wf) : (s.firstTouch tower ia).mem.wf := by
  unfold State.firstTouch
  split
  · dsimp only
    split
    · exact h
    · exact State.setPaWord_wf _ _ _ (State.setPaWord_wf _ _ _ (State.zeroFrame_wf _ _ h))
  · exact h

theorem State.firstTouchPeer_wf (s : State) (peer tower ia : Nat) (h : s.mem.wf) : (s.firstTouchPeer peer tower ia).mem.wf := by
  unfold State.firstTouchPeer
  split
  · dsimp only
    split
    · exact State.setPaWord_wf _ _ _ (Memory.wf_filter _ _ h)
    · exact State.firstTouch_wf _ _ _ h
  · exact h

theorem State.touchVa_wf (s : State) (ctx tower : Nat) (kind : Acc) (line : Nat) (h : s.mem.wf) :
    (s.touchVa ctx tower kind line).mem.wf := by
  unfold State.touchVa
  split
  · split
    · exact State.firstTouch_wf _ _ _ h
    · exact h
  · exact h

theorem State.touchRange_wf (s : State) (ctx tower : Nat) (kind : Acc) (va n : Nat) (h : s.mem.wf) :
    (s.touchRange ctx tower kind va n).mem.wf :=
  wf_foldl _ _ _ h (fun s _ hs => State.touchVa_wf s _ _ _ _ hs)

theorem State.iaTouch_wf (s : State) (ia n : Nat) (h : s.mem.wf) : (s.iaTouch ia n).mem.wf :=
  wf_foldl _ _ _ h (fun s _ hs => by
    dsimp only
    split
    · exact State.firstTouch_wf _ _ _ hs
    · exact hs)

theorem State.vaWrite_wf (s t : State) (ctx : Nat) (kind : Acc) (va n x : Nat) (h : s.mem.wf)
    (ht : s.vaWrite ctx kind va n x = .ok t) : t.mem.wf := by
  unfold State.vaWrite at ht
  split at ht
  · cases ht
  · cases ht
    exact State.wrAll_wf _ _ _ h

theorem State.iaWrite_wf (s t : State) (ia : Nat) (bytes : List Byte) (h : s.mem.wf) (ht : s.iaWrite ia bytes = .ok t) :
    t.mem.wf := by
  unfold State.iaWrite at ht
  dsimp only at ht
  split at ht
  · cases ht
  · cases ht
    exact wf_foldl _ _ _ (State.iaTouch_wf s _ _ h) (fun s e hs => Memory.wf_set _ _ _ hs)

/-! ### Reports -/

@[simp] theorem State.logRaw_mem (s : State) (code core ctx detail : Nat) : (s.logRaw code core ctx detail).mem = s.mem := by
  unfold State.logRaw
  dsimp only
  split <;> rfl

theorem State.notice_wf (s : State) (code core ctx hi : Nat) (h : s.mem.wf) : (s.notice code core ctx hi).mem.wf := by
  unfold State.notice
  dsimp only
  split
  · exact h
  · split
    · exact h
    · split
      · next s1 hs => exact State.iaWrite_wf s s1 _ _ h hs
      · exact h

theorem State.log_wf (s : State) (code core ctx detail : Nat) (h : s.mem.wf) : (s.log code core ctx detail).mem.wf := by
  unfold State.log
  dsimp only
  split
  · exact State.notice_wf _ _ _ _ _ (by rw [State.logRaw_mem]; exact h)
  · rw [State.logRaw_mem]
    exact h

theorem State.pageNotice_wf (s : State) (core ctx page code level : Nat) (h : s.mem.wf) :
    (s.pageNotice core ctx page code level).mem.wf := by
  unfold State.pageNotice
  split
  · exact h
  · exact State.notice_wf s _ _ _ _ h

@[simp] theorem State.meter_mem (s : State) (ctx i n : Nat) : (s.meter ctx i n).mem = s.mem := rfl

theorem State.linkEvent_wf (s : State) (link st : Nat) (h : s.mem.wf) : (s.linkEvent link st).mem.wf :=
  State.notice_wf _ _ _ _ _ (State.log_wf _ _ _ _ _ h)

/-! ### Stores, discards and faults -/

@[simp] theorem State.captureLoads_mem (s : State) (gid : Nat) : (s.captureLoads gid).mem = s.mem := rfl

@[simp] theorem State.captureOver_mem (s : State) (gid : Nat) : (s.captureOver gid).mem = s.mem := rfl

@[simp] theorem State.commitBuffer_mem (s : State) (gid : Nat) : (s.commitBuffer gid).mem = s.mem := by
  unfold State.commitBuffer
  dsimp only
  split <;> rfl

/-- A commit point hands the buffer to the core; memory itself changes later, as the core's commits become visible (R302). -/
@[simp] theorem State.makeVisible_mem (s : State) (gid : Nat) : (s.makeVisible gid).mem = s.mem := by
  unfold State.makeVisible
  simp

@[simp] theorem State.commitPlace_mem (s : State) (gid : Nat) (p : Place) : (s.commitPlace gid p).mem = s.mem := rfl

@[simp] theorem State.withdraw_mem (s : State) (gid : Nat) : (s.withdraw gid).mem = s.mem := rfl

@[simp] theorem State.dropHolders_mem (s : State) (core : Nat) : (s.dropHolders core).mem = s.mem := rfl

@[simp] theorem State.discard_mem (s : State) (gid : Nat) (m : Mask) (counts : Bool) (parks : List (Nat × Nat)) :
    (s.discard gid m counts parks).mem = s.mem := by
  unfold State.discard
  dsimp only
  split
  · rfl
  · simp only [State.dropHolders_mem, State.meter_mem, State.modGrp_mem]
    split <;> rfl

@[simp] theorem State.discardGroup_mem (s : State) (gid : Nat) (counts : Bool) : (s.discardGroup gid counts).mem = s.mem := by
  unfold State.discardGroup
  simp

@[simp] theorem State.stopGroups_mem (s : State) (ctx : Nat) : (s.stopGroups ctx).mem = s.mem :=
  mem_foldl _ _ _ (fun s e => by simp)

theorem State.faultNotice_wf (s : State) (ctx : Nat) (h : s.mem.wf) : (s.faultNotice ctx).mem.wf := by
  unfold State.faultNotice
  split
  · split
    · exact State.notice_wf _ _ _ _ _ (by rw [State.modCtx_mem]; exact h)
    · exact h
  · exact h

theorem State.writeFault_wf (s : State) (ctx : Nat) (h : s.mem.wf) : (s.writeFault ctx).mem.wf := by
  unfold State.writeFault
  dsimp only
  split
  · exact h
  · split
    · exact State.faultNotice_wf _ _ h
    · split
      · next s1 hs =>
        exact State.faultNotice_wf _ _ (by rw [State.modCtx_mem]; exact State.iaWrite_wf s s1 _ _ h hs)
      · rw [State.modCtx_mem]
        exact State.pageNotice_wf _ _ _ _ _ _ (State.iaTouch_wf _ _ _ h)
      · exact State.faultNotice_wf _ _ (by simp only [State.modCtx_mem, State.logRaw_mem]; exact h)
      · exact State.faultNotice_wf _ _ h

theorem State.contextFault_wf (s : State) (ctx : Nat) (r : FaultRec) (h : s.mem.wf) : (s.contextFault ctx r).mem.wf := by
  have h0 : ∀ code core c d, (s.logRaw code core c d).mem.wf := fun _ _ _ _ => by rw [State.logRaw_mem]; exact h
  unfold State.contextFault
  dsimp only
  split
  · refine State.writeFault_wf _ _ ?_
    simp only [State.modCtx_mem, State.stopGroups_mem]
    exact h0 _ _ _ _
  · refine State.writeFault_wf _ _ ?_
    simp only [State.modCtx_mem]
    exact h0 _ _ _ _
  · exact h0 _ _ _ _

theorem State.groupFault_wf (s : State) (gid cause pc detail xcause : Nat) (h : s.mem.wf) :
    (s.groupFault gid cause pc detail xcause).mem.wf := State.contextFault_wf s _ _ h

theorem State.cmdFault_wf (s : State) (c : Cmd) (cause detail : Nat) (h : s.mem.wf) : (s.cmdFault c cause detail).mem.wf :=
  State.contextFault_wf s _ _ h

@[simp] theorem State.livelocked_mem (s : State) (gid : Nat) (cause : Cause) (m : Mask) : (s.livelocked gid cause m).mem = s.mem := by
  unfold State.livelocked
  split <;> rfl

theorem State.touchHandler_wf (s : State) (gid : Nat) (h : s.mem.wf) : (s.touchHandler gid).mem.wf := by
  unfold State.touchHandler
  dsimp only
  split
  · exact h
  · exact State.touchRange_wf _ _ _ _ _ _ h

theorem State.trap_wf (s : State) (gid lane : Nat) (cause : Cause) (pos word pc : Nat) (h : s.mem.wf) :
    (s.trap gid lane cause pos word pc).mem.wf := by
  unfold State.trap
  dsimp only
  split
  · exact h
  · split
    · exact State.groupFault_wf s _ _ _ _ _ h
    · split
      · exact h
      · have ht := State.touchHandler_wf s gid h
        split
        · exact State.pageNotice_wf _ _ _ _ _ _ ht
        · exact State.groupFault_wf _ _ _ _ _ _ (by rw [State.livelocked_mem]; exact ht)
        · exact ht
        · exact State.groupFault_wf _ _ _ _ _ _ (by rw [State.livelocked_mem]; exact ht)

theorem State.takeDeferred_wf (s : State) (gid : Nat) (h : s.mem.wf) : (s.takeDeferred gid).mem.wf := by
  unfold State.takeDeferred
  dsimp only
  split
  · split
    · exact State.trap_wf _ _ _ _ _ _ _ h
    · exact h
  · exact h

/-! ### What a group does of itself -/

@[simp] theorem State.addCounts_mem (s : State) (gid : Nat) : (s.addCounts gid).mem = s.mem := by
  unfold State.addCounts
  dsimp only
  split
  · exact mem_foldl _ _ _ (fun s a => by split <;> rfl)
  · exact mem_foldl _ _ _ (fun s a => by split <;> rfl)

@[simp] theorem State.commitStrand_mem (s : State) (gid : Nat) : (s.commitStrand gid).mem = s.mem := by
  unfold State.commitStrand
  simp

@[simp] theorem State.setBar_mem (s : State) (gid : Nat) (cluster : Bool) (id : Nat) (b : Bar) :
    (s.setBar gid cluster id b).mem = s.mem := by
  unfold State.setBar
  dsimp only
  split <;> rfl

@[simp] theorem State.barRelease_mem (s : State) (gid : Nat) (cluster : Bool) (id : Nat) :
    (s.barRelease gid cluster id).mem = s.mem := by
  unfold State.barRelease
  dsimp only
  generalize (if (s.bar gid cluster id).arrived.isEmpty = true then false else _ : Bool) = full
  cases full
  · rfl
  · exact (mem_foldl (fun s x => s.modGrp x fun g => g.barGo cluster id) _ _ (fun s x => rfl)).trans
      (State.setBar_mem s gid cluster id {})

@[simp] theorem State.barArrive_mem (s : State) (gid : Nat) : (s.barArrive gid).mem = s.mem := by
  unfold State.barArrive
  dsimp only
  split
  · split
    · split
      · split <;> split
        all_goals first
          | exact State.makeVisible_mem s gid
          | rw [State.barRelease_mem, State.setBar_mem, State.makeVisible_mem]
      · rfl
    · rfl
  · rfl

@[simp] theorem State.barExits_mem (s : State) (gid : Nat) : (s.barExits gid).mem = s.mem :=
  mem_foldl _ _ _ (fun s id => by simp)

@[simp] theorem State.groupEnd_mem (s : State) (gid : Nat) : (s.groupEnd gid).mem = s.mem := by
  unfold State.groupEnd
  simp

theorem State.settle_wf (s : State) (gid : Nat) (h : s.mem.wf) : (s.settle gid).mem.wf := by
  unfold State.settle
  dsimp only
  have h2 := State.takeDeferred_wf (s.modGrp gid (fun g => (g.regang.settleOwing.rcvRelease).crossWake.regang)) gid h
  split
  · rw [State.groupEnd_mem, State.barArrive_mem]
    exact h2
  · rw [State.barArrive_mem]
    exact h2

theorem State.park_wf (s : State) (gid : Nat) (faults : List (Nat × Nat)) (h : s.mem.wf) : (s.park gid faults).mem.wf := by
  unfold State.park
  rw [State.discard_mem]
  exact h

/-! ### What a word answers -/

/-- Every next state that an outcome answers has memory in canonical form. -/
def KeepsForm (o : Out) : Prop := ∀ t, o = .next t → t.mem.wf

theorem KeepsForm.next {s : State} (h : s.mem.wf) : KeepsForm (.next s) := fun t ht => by cases ht; exact h

theorem KeepsForm.fault (f : Fault) : KeepsForm (.fault f) := fun t ht => by cases ht

theorem KeepsForm.refused (r : Refusal) : KeepsForm (.refused r) := fun t ht => by cases ht

theorem State.trapOut_keeps (s : State) (gid lane : Nat) (e : Entry) (c : Cause) (pos : Nat) (h : s.mem.wf) :
    KeepsForm (s.trapOut gid lane e c pos) := .next (State.settle_wf _ _ (State.trap_wf s _ _ _ _ _ _ h))

theorem State.faultOut_keeps (s : State) (gid : Nat) (e : Entry) (cause detail : Nat) (h : s.mem.wf) :
    KeepsForm (s.faultOut gid e cause detail) := .next (State.groupFault_wf s _ _ _ _ _ h)

theorem Issue.trap_keeps (x : Issue) (c : Cause) (pos : Nat) (h : x.s.mem.wf) : KeepsForm (x.trap c pos) :=
  State.trapOut_keeps _ _ _ _ _ _ h

theorem Issue.fault_keeps (x : Issue) (cause detail : Nat) (h : x.s.mem.wf) : KeepsForm (x.fault cause detail) :=
  State.faultOut_keeps _ _ _ _ _ h

theorem State.missOut_keeps (s : State) (gid : Nat) (e : Entry) (lanes : Mask) (m : Miss) (h : s.mem.wf) :
    KeepsForm (s.missOut gid e lanes m) := by
  cases m with
  | fault c d => exact State.faultOut_keeps _ _ _ _ _ h
  | absent page code level =>
    have h1 := State.pageNotice_wf s (s.coreOf gid) (s.grp gid).ctx page code level h
    unfold State.missOut
    dsimp only
    split
    · exact .next h1
    · exact .next (State.settle_wf _ _ (State.park_wf _ _ _ h1))
  | noSuch => exact .fault _
  | regPage => exact .refused _

theorem State.fetchMiss_keeps (s : State) (gid lane : Nat) (e : Entry) (m : Miss) (h : s.mem.wf) :
    KeepsForm (s.fetchMiss gid lane e m) := by
  cases m with
  | fault c d => exact State.faultOut_keeps _ _ _ _ _ h
  | absent page code level => exact .next (State.pageNotice_wf s _ _ _ _ _ h)
  | noSuch => exact .fault _
  | regPage => exact .refused _

theorem Issue.visible_wf (x : Issue) (point : Bool) (h : x.s.mem.wf) : (x.visible point).s.mem.wf := by
  unfold Issue.visible
  split
  · dsimp only
    rw [State.makeVisible_mem]
    exact h
  · exact h

theorem State.touchWord_wf (s : State) (gid : Nat) (pass : Mask) (f : Info) (h : s.mem.wf) : (s.touchWord gid pass f).mem.wf := by
  unfold State.touchWord
  split
  · exact h
  · refine wf_foldl _ _ _ h (fun s e hs => ?_)
    split
    · split
      · exact State.touchRange_wf _ _ _ _ _ _ hs
      · exact hs
    · exact hs

/-- A word keeps the form if its own effect does, from a state whose memory has it. -/
theorem stage_keeps (i : Instr) (s : State) (n : Need) (k : Issue → Out) (h : s.mem.wf)
    (hk : ∀ x : Issue, x.s.mem.wf → KeepsForm (k x)) : KeepsForm (stage i s n k) := by
  unfold stage
  split
  · dsimp only
    split
    · exact .next h
    · split
      · exact .next h
      · split
        · exact State.trapOut_keeps _ _ _ _ _ _ h
        · split
          · exact State.faultOut_keeps _ _ _ _ _ h
          · split
            · exact State.faultOut_keeps _ _ _ _ _ h
            · split
              · exact .next (State.settle_wf _ _ h)
              · split
                · exact State.trapOut_keeps _ _ _ _ _ _ h
                · split
                  · exact State.faultOut_keeps _ _ _ _ _ h
                  · split
                    · exact State.trapOut_keeps _ _ _ _ _ _ h
                    · split
                      · exact State.missOut_keeps _ _ _ _ _ (State.touchWord_wf s _ _ _ h)
                      · exact hk _ (State.touchWord_wf s _ _ _ h)
  · exact .next h

theorem Issue.finish_keeps (x : Issue) (g : Group) (h : x.s.mem.wf) : KeepsForm (x.finish g) :=
  .next (State.settle_wf _ _ h)

theorem Issue.finishS_keeps (x : Issue) (s : State) (h : s.mem.wf) : KeepsForm (x.finishS s) :=
  .next (State.settle_wf _ _ h)

theorem Issue.await_keeps (x : Issue) (w : Wait) (h : x.s.mem.wf) : KeepsForm (x.await w) := .next (State.settle_wf _ _ h)

theorem Issue.access_keeps (x : Issue) (f : FM) (off : Int) (n : Nat) (perm : Option Nat) (k : Issue → List (Nat × Nat) → Out)
    (h : x.s.mem.wf) (hk : ∀ (y : Issue) l, y.s.mem.wf → KeepsForm (k y l)) : KeepsForm (x.access f off n perm k) := by
  have ht : ∀ i, (x.touchRecord i).s.mem.wf := fun i => State.touchRange_wf _ _ _ _ _ _ h
  unfold Issue.access
  split
  · exact hk _ _ h
  · split
    · split
      · exact Issue.trap_keeps _ _ _ h
      · dsimp only
        split
        · exact State.missOut_keeps _ _ _ _ _ (ht _)
        · split
          · exact Issue.trap_keeps _ _ _ (ht _)
          · exact hk _ _ (ht _)
    · dsimp only
      split
      · exact Issue.trap_keeps _ _ _ h
      · exact hk _ _ h

theorem State.spadTouch_wf (s : State) (tid addr n : Nat) (h : s.mem.wf) : (s.spadTouch tid addr n).mem.wf := by
  unfold State.spadTouch
  split
  · exact h
  · refine wf_foldl _ _ _ h (fun s i hs => ?_)
    split
    · exact State.touchVa_wf _ _ _ _ _ hs
    · exact hs

theorem Issue.place_keeps (x : Issue) (point spad : Bool) (kind : Acc) (n : Nat) (addrs : List (Nat × Nat)) (k : State → Places → Out)
    (h : x.s.mem.wf) (hk : ∀ s p, s.mem.wf → KeepsForm (k s p)) : KeepsForm (x.place point spad kind n addrs k) := by
  unfold Issue.place
  dsimp only
  have h1 : (addrs.foldl (fun s e => if spad then s.spadTouch x.tid (e.2 % 2 ^ 32) n
      else s.touchRange x.ctx (towerOf x.team.core) kind e.2 n) x.s).mem.wf := wf_foldl _ _ _ h (fun s e hs => by
    split
    · exact State.spadTouch_wf _ _ _ _ hs
    · exact State.touchRange_wf _ _ _ _ _ _ hs)
  split
  · exact State.missOut_keeps _ _ _ _ _ (Issue.visible_wf _ _ h1)
  · exact hk _ _ h1

theorem State.pageNotices_wf {α : Type} (f : α → Nat × Nat × Nat × Nat × Nat) (l : List α) (s : State) (h : s.mem.wf) :
    (l.foldl (fun s e => s.pageNotice (f e).1 (f e).2.1 (f e).2.2.1 (f e).2.2.2.1 (f e).2.2.2.2) s).mem.wf :=
  wf_foldl _ _ _ h (fun s _ hs => State.pageNotice_wf s _ _ _ _ _ hs)

theorem Issue.finishPark_keeps (x : Issue) (s : State) (p : Places) (h : s.mem.wf) : KeepsForm (x.finishPark s p) := by
  unfold Issue.finishPark
  exact .next (State.settle_wf _ _ (State.park_wf _ _ _ (wf_foldl _ _ _ h (fun s _ hs => State.pageNotice_wf s _ _ _ _ _ hs))))

@[simp] theorem State.setStash_mem (s : State) (team line : Nat) (st : StashState) : (s.setStash team line st).mem = s.mem := rfl
@[simp] theorem State.dropStash_mem (s : State) (team line : Nat) : (s.dropStash team line).mem = s.mem := rfl

@[simp] theorem State.fillLines_mem (s : State) (lines : List (Nat × Nat)) (write : Bool) : (s.fillLines lines write).mem = s.mem :=
  mem_foldl _ _ _ (fun s e => by
    split
    · rfl
    · split <;> rfl)

/-! ### The stash of other teams, and what a core has committed (R302, R329) -/

theorem State.writeBack_wf (s : State) (team line : Nat) (h : s.mem.wf) : (s.writeBack team line).mem.wf := by
  unfold State.writeBack
  dsimp only
  split
  · exact h
  · split
    · exact State.contextFault_wf _ _ _ h
    · split
      · exact State.contextFault_wf _ _ _ h
      · exact h
    · exact h

theorem State.stashOther_wf (s : State) (p : Loc) (write : Bool) (h : s.mem.wf) : (s.stashOther p write).mem.wf := by
  unfold State.stashOther
  refine wf_foldl _ _ _ h (fun s e hs => ?_)
  have h1 : (if e.2.2 = .dirty then s.writeBack e.1 e.2.1 else s).mem.wf := by
    split
    · exact State.writeBack_wf _ _ _ hs
    · exact hs
  dsimp only
  split
  · exact h1
  · exact h1

theorem State.recallAll_wf (s : State) (l : List Loc) (write : Bool) (h : s.mem.wf) :
    (s.recallAll l write).mem.wf := wf_foldl _ _ _ h (fun s _ hs => State.stashOther_wf s _ _ hs)

@[simp] theorem State.sendPeer_mem (s : State) (l : List PeerWrite) : (s.sendPeer l).mem = s.mem := mem_foldl _ _ _ (fun _ _ => rfl)

theorem State.putBytes_wf (s : State) (ctx : Nat) (core : Option Nat) (l : List (Nat × Loc × Byte)) (h : s.mem.wf) :
    (s.putBytes ctx core l).mem.wf := by
  unfold State.putBytes
  rw [State.sendPeer_mem]
  exact wf_foldl _ _ _ h (fun s e hs => State.wr_wf _ _ _ _ (State.stashOther_wf s _ _ hs))

theorem State.putPlace_wf (s : State) (core : Nat) (c : Commit) (h : s.mem.wf) : (s.putPlace core c).mem.wf := by
  have h2 : ∀ s1 : State, s1.mem.wf → ∀ l, (c.place.stash.foldl (fun s e => s.setStash e.1 e.2 .dirty)
      (s1.putBytes c.ctx (some core) l)).mem.wf :=
    fun s1 h1 l => wf_foldl _ _ _ (State.putBytes_wf _ _ _ _ h1) (fun s e hs => hs)
  unfold State.putPlace
  dsimp only
  split
  · exact State.contextFault_wf _ _ _ (h2 _ (by rw [State.modGrp_mem]; exact h) _)
  · exact h2 _ (by rw [State.modGrp_mem]; exact h) _

theorem State.drainOne_wf (s : State) (core : Nat) (h : s.mem.wf) : (s.drainOne core).mem.wf := by
  unfold State.drainOne
  split
  · exact h
  · split
    · exact h
    · exact State.putPlace_wf _ _ _ h

theorem State.drainMany_wf (core : Nat) : ∀ (n : Nat) (s : State), s.mem.wf → (s.drainMany core n).mem.wf
  | 0, _, h => h
  | n + 1, s, h => State.drainMany_wf core n _ (State.drainOne_wf s core h)

theorem State.recallCore_wf (s : State) (core : Nat) (h : s.mem.wf) : (s.recallCore core).mem.wf := State.drainMany_wf core _ s h

theorem State.recallCores_wf (s : State) (h : s.mem.wf) : s.recallCores.mem.wf :=
  wf_foldl _ _ _ h (fun s e hs => State.recallCore_wf s e.1 hs)

theorem State.acquiring_wf (s : State) (scope : Nat) (h : s.mem.wf) : (s.acquiring scope).mem.wf := by
  unfold State.acquiring
  split
  · exact State.recallCores_wf s h
  · exact h

@[simp] theorem State.seal_mem (s : State) (gid : Nat) (m : Mask) : (s.seal gid m).mem = s.mem := rfl

@[simp] theorem Issue.launch_mem (x : Issue) (f : Info) (o : Op) : (x.launch f o).mem = x.s.mem := rfl

end Sys2Proof.Machine
end

