-- ==== Sys2Proof/Laws/PerInstr.lean ====
section
/-! SUPPORT. What holds of every instruction as syntax: a word carries its opcode in bits 63 to 56 and a zero in bit 7, and a step of
another agent of the device has no word. -/

namespace Sys2Proof.Laws.Fields

/-- R77, R90: the word of an instruction has 64 bits, its opcode in bits 63 to 56 and a zero in bit 7; what is no word has neither
fields nor an encoding. -/
def Statement (i : Instr) : Prop :=
  (i.info = none → encode i = none) ∧
  ∀ f w, i.info = some f → encode i = some w → w < 2 ^ 64 ∧ w / 2 ^ 56 = f.op ∧ w / 2 ^ 7 % 2 = 0

theorem tail_lt (g : Guard) (b : Bool) : encTail g b < 128 := by
  unfold encTail
  cases g with
  | always => cases b <;> decide
  | pred p n =>
    have := p.isLt
    cases b <;> cases n <;> simp <;> omega

theorem ty_lt (t : Ty) : t.code < 16 := by cases t <;> decide

theorem word_v3 (op : Nat) (f : V3) (h : op < 256) :
    encV3 op f < 2 ^ 64 ∧ encV3 op f / 2 ^ 56 = op ∧ encV3 op f / 2 ^ 7 % 2 = 0 := by
  have h1 := tail_lt f.g f.fsel
  have h2 := f.c.code_lt
  have h3 := f.b.code_lt
  have h4 := f.a.code_lt
  have h5 := f.d.code_lt
  have h6 := f.mod.isLt
  have h7 := ty_lt f.ty
  unfold encV3
  omega

theorem word_vi (op : Nat) (f : VI) (h : op < 256) :
    encVI op f < 2 ^ 64 ∧ encVI op f / 2 ^ 56 = op ∧ encVI op f / 2 ^ 7 % 2 = 0 := by
  have h1 := tail_lt f.g f.fsel
  have h2 := f.imm.isLt
  have h4 := f.a.code_lt
  have h5 := f.d.code_lt
  have h6 := f.mod.isLt
  have h7 := ty_lt f.ty
  unfold encVI
  omega

theorem word_m (op : Nat) (f : FM) (h : op < 256) :
    encM op f < 2 ^ 64 ∧ encM op f / 2 ^ 56 = op ∧ encM op f / 2 ^ 7 % 2 = 0 := by
  have h1 := tail_lt f.g f.fsel
  have h2 := f.off.isLt
  have h3 := f.rb.isLt
  have h4 := f.a.code_lt
  have h5 := f.d.code_lt
  have h6 := f.scope.isLt
  have h7 := f.ord.isLt
  have h8 := f.sz.isLt
  unfold encM
  omega

theorem word_br (op : Nat) (f : FBr) (h : op < 256) :
    encBr op f < 2 ^ 64 ∧ encBr op f / 2 ^ 56 = op ∧ encBr op f / 2 ^ 7 % 2 = 0 := by
  have h1 := tail_lt f.g f.fsel
  have h2 := f.offs.isLt
  have h3 := f.tprio.isLt
  have h4 := f.cond.isLt
  unfold encBr
  omega

theorem word_e (op : Nat) (f : FE) (h : op < 256) :
    encE op f < 2 ^ 64 ∧ encE op f / 2 ^ 56 = op ∧ encE op f / 2 ^ 7 % 2 = 0 := by
  have h1 := tail_lt f.g f.fsel
  have h2 := f.ef.isLt
  have h3 := f.x.code_lt
  have h4 := f.p.code_lt
  have h5 := f.slot.isLt
  have h6 := f.sub.isLt
  unfold encE
  omega

theorem word_s (op : Nat) (f : FS) (h : op < 256) :
    encS op f < 2 ^ 64 ∧ encS op f / 2 ^ 56 = op ∧ encS op f / 2 ^ 7 % 2 = 0 := by
  have h1 := tail_lt f.g f.fsel
  have h2 := f.idx.isLt
  have h3 := f.a.code_lt
  have h4 := f.d.code_lt
  have h5 := f.sub.isLt
  unfold encS
  omega

/-- A word of a format whose opcode is that of its fields. -/
theorem of_word {i : Instr} {f : Info} {w : Nat} (hi : i.info = some f) (he : encode i = some w)
    (h : w < 2 ^ 64 ∧ w / 2 ^ 56 = f.op ∧ w / 2 ^ 7 % 2 = 0) : Statement i := by
  refine ⟨fun hn => ?_, fun f' w' hf hw => ?_⟩
  · rw [hn] at hi
    cases hi
  · rw [hi] at hf
    rw [he] at hw
    cases hf
    cases hw
    exact h

/-- What has no word. -/
theorem of_event {i : Instr} (hi : i.info = none) (he : encode i = none) : Statement i :=
  ⟨fun _ => he, fun f _ hf _ => by rw [hi] at hf; cases hf⟩

theorem nop (f : V3) : Statement (.nop f) := of_word rfl rfl (word_v3 0x00 f (by decide))
theorem bra (f : FBr) : Statement (.bra f) := of_word rfl rfl (word_br 0x01 f (by decide))
theorem brx (f : V3) : Statement (.brx f) := of_word rfl rfl (word_v3 0x02 f (by decide))
theorem call (f : FBr) : Statement (.call f) := of_word rfl rfl (word_br 0x03 f (by decide))
theorem callx (f : V3) : Statement (.callx f) := of_word rfl rfl (word_v3 0x04 f (by decide))
theorem ret (f : V3) : Statement (.ret f) := of_word rfl rfl (word_v3 0x05 f (by decide))
theorem exit (f : V3) : Statement (.exit f) := of_word rfl rfl (word_v3 0x06 f (by decide))
theorem bnd (f : V3) : Statement (.bnd f) := of_word rfl rfl (word_v3 0x07 f (by decide))
theorem rcv (f : V3) : Statement (.rcv f) := of_word rfl rfl (word_v3 0x08 f (by decide))
theorem elect (f : V3) : Statement (.elect f) := of_word rfl rfl (word_v3 0x09 f (by decide))
theorem yield (f : V3) : Statement (.yield f) := of_word rfl rfl (word_v3 0x0A f (by decide))
theorem trap (f : VI) : Statement (.trap f) := of_word rfl rfl (word_vi 0x0B f (by decide))
theorem bkpt (f : VI) : Statement (.bkpt f) := of_word rfl rfl (word_vi 0x0C f (by decide))
theorem tret (f : V3) : Statement (.tret f) := of_word rfl rfl (word_v3 0x0D f (by decide))
theorem iadd (f : V3) : Statement (.iadd f) := of_word rfl rfl (word_v3 0x10 f (by decide))
theorem isub (f : V3) : Statement (.isub f) := of_word rfl rfl (word_v3 0x11 f (by decide))
theorem iaddc (f : V3) : Statement (.iaddc f) := of_word rfl rfl (word_v3 0x12 f (by decide))
theorem isubb (f : V3) : Statement (.isubb f) := of_word rfl rfl (word_v3 0x13 f (by decide))
theorem imul (f : V3) : Statement (.imul f) := of_word rfl rfl (word_v3 0x14 f (by decide))
theorem imulh (f : V3) : Statement (.imulh f) := of_word rfl rfl (word_v3 0x15 f (by decide))
theorem imad (f : V3) : Statement (.imad f) := of_word rfl rfl (word_v3 0x16 f (by decide))
theorem imadw (f : V3) : Statement (.imadw f) := of_word rfl rfl (word_v3 0x17 f (by decide))
theorem iabs (f : V3) : Statement (.iabs f) := of_word rfl rfl (word_v3 0x18 f (by decide))
theorem ineg (f : V3) : Statement (.ineg f) := of_word rfl rfl (word_v3 0x19 f (by decide))
theorem imin (f : V3) : Statement (.imin f) := of_word rfl rfl (word_v3 0x1A f (by decide))
theorem imax (f : V3) : Statement (.imax f) := of_word rfl rfl (word_v3 0x1B f (by decide))
theorem isad (f : V3) : Statement (.isad f) := of_word rfl rfl (word_v3 0x1C f (by decide))
theorem shl (f : V3) : Statement (.shl f) := of_word rfl rfl (word_v3 0x1D f (by decide))
theorem shr (f : V3) : Statement (.shr f) := of_word rfl rfl (word_v3 0x1E f (by decide))
theorem sha (f : V3) : Statement (.sha f) := of_word rfl rfl (word_v3 0x1F f (by decide))
theorem rot (f : V3) : Statement (.rot f) := of_word rfl rfl (word_v3 0x20 f (by decide))
theorem andw (f : V3) : Statement (.andw f) := of_word rfl rfl (word_v3 0x21 f (by decide))
theorem orw (f : V3) : Statement (.orw f) := of_word rfl rfl (word_v3 0x22 f (by decide))
theorem xorw (f : V3) : Statement (.xorw f) := of_word rfl rfl (word_v3 0x23 f (by decide))
theorem notw (f : V3) : Statement (.notw f) := of_word rfl rfl (word_v3 0x24 f (by decide))
theorem andn (f : V3) : Statement (.andn f) := of_word rfl rfl (word_v3 0x25 f (by decide))
theorem lop3 (f : V3) : Statement (.lop3 f) := of_word rfl rfl (word_v3 0x26 f (by decide))
theorem popc (f : V3) : Statement (.popc f) := of_word rfl rfl (word_v3 0x27 f (by decide))
theorem clz (f : V3) : Statement (.clz f) := of_word rfl rfl (word_v3 0x28 f (by decide))
theorem ctz (f : V3) : Statement (.ctz f) := of_word rfl rfl (word_v3 0x29 f (by decide))
theorem brev (f : V3) : Statement (.brev f) := of_word rfl rfl (word_v3 0x2A f (by decide))
theorem bfx (f : V3) : Statement (.bfx f) := of_word rfl rfl (word_v3 0x2B f (by decide))
theorem bfi (f : V3) : Statement (.bfi f) := of_word rfl rfl (word_v3 0x2C f (by decide))
theorem prmt (f : V3) : Statement (.prmt f) := of_word rfl rfl (word_v3 0x2D f (by decide))
theorem lea (f : V3) : Statement (.lea f) := of_word rfl rfl (word_v3 0x2E f (by decide))
theorem leaw (f : V3) : Statement (.leaw f) := of_word rfl rfl (word_v3 0x2F f (by decide))
theorem dp4 (f : V3) : Statement (.dp4 f) := of_word rfl rfl (word_v3 0x30 f (by decide))
theorem iaddImm (f : VI) : Statement (.iaddImm f) := of_word rfl rfl (word_vi 0x31 f (by decide))
theorem imulImm (f : VI) : Statement (.imulImm f) := of_word rfl rfl (word_vi 0x32 f (by decide))
theorem iminImm (f : VI) : Statement (.iminImm f) := of_word rfl rfl (word_vi 0x33 f (by decide))
theorem imaxImm (f : VI) : Statement (.imaxImm f) := of_word rfl rfl (word_vi 0x34 f (by decide))
theorem shlImm (f : VI) : Statement (.shlImm f) := of_word rfl rfl (word_vi 0x35 f (by decide))
theorem shrImm (f : VI) : Statement (.shrImm f) := of_word rfl rfl (word_vi 0x36 f (by decide))
theorem shaImm (f : VI) : Statement (.shaImm f) := of_word rfl rfl (word_vi 0x37 f (by decide))
theorem rotImm (f : VI) : Statement (.rotImm f) := of_word rfl rfl (word_vi 0x38 f (by decide))
theorem andImm (f : VI) : Statement (.andImm f) := of_word rfl rfl (word_vi 0x39 f (by decide))
theorem orImm (f : VI) : Statement (.orImm f) := of_word rfl rfl (word_vi 0x3A f (by decide))
theorem xorImm (f : VI) : Statement (.xorImm f) := of_word rfl rfl (word_vi 0x3B f (by decide))
theorem leaImm (f : VI) : Statement (.leaImm f) := of_word rfl rfl (word_vi 0x3C f (by decide))
theorem bfxImm (f : VI) : Statement (.bfxImm f) := of_word rfl rfl (word_vi 0x3D f (by decide))
theorem bfiImm (f : VI) : Statement (.bfiImm f) := of_word rfl rfl (word_vi 0x3E f (by decide))
theorem prmtImm (f : VI) : Statement (.prmtImm f) := of_word rfl rfl (word_vi 0x3F f (by decide))
theorem fadd (f : V3) : Statement (.fadd f) := of_word rfl rfl (word_v3 0x40 f (by decide))
theorem fsub (f : V3) : Statement (.fsub f) := of_word rfl rfl (word_v3 0x41 f (by decide))
theorem fmul (f : V3) : Statement (.fmul f) := of_word rfl rfl (word_v3 0x42 f (by decide))
theorem ffma (f : V3) : Statement (.ffma f) := of_word rfl rfl (word_v3 0x43 f (by decide))
theorem fmin (f : V3) : Statement (.fmin f) := of_word rfl rfl (word_v3 0x44 f (by decide))
theorem fmax (f : V3) : Statement (.fmax f) := of_word rfl rfl (word_v3 0x45 f (by decide))
theorem fabs (f : V3) : Statement (.fabs f) := of_word rfl rfl (word_v3 0x46 f (by decide))
theorem fneg (f : V3) : Statement (.fneg f) := of_word rfl rfl (word_v3 0x47 f (by decide))
theorem fdiv (f : V3) : Statement (.fdiv f) := of_word rfl rfl (word_v3 0x48 f (by decide))
theorem fsqrt (f : V3) : Statement (.fsqrt f) := of_word rfl rfl (word_v3 0x49 f (by decide))
theorem frcp (f : V3) : Statement (.frcp f) := of_word rfl rfl (word_v3 0x4A f (by decide))
theorem frsq (f : V3) : Statement (.frsq f) := of_word rfl rfl (word_v3 0x4B f (by decide))
theorem fex2 (f : V3) : Statement (.fex2 f) := of_word rfl rfl (word_v3 0x4C f (by decide))
theorem flg2 (f : V3) : Statement (.flg2 f) := of_word rfl rfl (word_v3 0x4D f (by decide))
theorem fsin (f : V3) : Statement (.fsin f) := of_word rfl rfl (word_v3 0x4E f (by decide))
theorem fcos (f : V3) : Statement (.fcos f) := of_word rfl rfl (word_v3 0x4F f (by decide))
theorem fflr (f : V3) : Statement (.fflr f) := of_word rfl rfl (word_v3 0x50 f (by decide))
theorem fceil (f : V3) : Statement (.fceil f) := of_word rfl rfl (word_v3 0x51 f (by decide))
theorem ftrunc (f : V3) : Statement (.ftrunc f) := of_word rfl rfl (word_v3 0x52 f (by decide))
theorem frnd (f : V3) : Statement (.frnd f) := of_word rfl rfl (word_v3 0x53 f (by decide))
theorem ffrc (f : V3) : Statement (.ffrc f) := of_word rfl rfl (word_v3 0x54 f (by decide))
theorem fclass (f : V3) : Statement (.fclass f) := of_word rfl rfl (word_v3 0x55 f (by decide))
theorem fscale (f : V3) : Statement (.fscale f) := of_word rfl rfl (word_v3 0x56 f (by decide))
theorem fgetexp (f : V3) : Statement (.fgetexp f) := of_word rfl rfl (word_v3 0x57 f (by decide))
theorem fdot2 (f : V3) : Statement (.fdot2 f) := of_word rfl rfl (word_v3 0x58 f (by decide))
theorem faddImm (f : VI) : Statement (.faddImm f) := of_word rfl rfl (word_vi 0x59 f (by decide))
theorem fmulImm (f : VI) : Statement (.fmulImm f) := of_word rfl rfl (word_vi 0x5A f (by decide))
theorem fminImm (f : VI) : Statement (.fminImm f) := of_word rfl rfl (word_vi 0x5B f (by decide))
theorem fmaxImm (f : VI) : Statement (.fmaxImm f) := of_word rfl rfl (word_vi 0x5C f (by decide))
theorem cvt (f : V3) : Statement (.cvt f) := of_word rfl rfl (word_v3 0x70 f (by decide))
theorem cvq (f : V3) : Statement (.cvq f) := of_word rfl rfl (word_v3 0x71 f (by decide))
theorem cvd (f : V3) : Statement (.cvd f) := of_word rfl rfl (word_v3 0x72 f (by decide))
theorem packt (f : V3) : Statement (.packt f) := of_word rfl rfl (word_v3 0x73 f (by decide))
theorem unpkt (f : V3) : Statement (.unpkt f) := of_word rfl rfl (word_v3 0x74 f (by decide))
theorem pack (f : V3) : Statement (.pack f) := of_word rfl rfl (word_v3 0x75 f (by decide))
theorem unpk (f : V3) : Statement (.unpk f) := of_word rfl rfl (word_v3 0x76 f (by decide))
theorem icmp (f : V3) : Statement (.icmp f) := of_word rfl rfl (word_v3 0x80 f (by decide))
theorem fcmp (f : V3) : Statement (.fcmp f) := of_word rfl rfl (word_v3 0x81 f (by decide))
theorem plop (f : V3) : Statement (.plop f) := of_word rfl rfl (word_v3 0x82 f (by decide))
theorem pmov (f : V3) : Statement (.pmov f) := of_word rfl rfl (word_v3 0x83 f (by decide))
theorem sel (f : V3) : Statement (.sel f) := of_word rfl rfl (word_v3 0x84 f (by decide))
theorem mov (f : V3) : Statement (.mov f) := of_word rfl rfl (word_v3 0x85 f (by decide))
theorem movi (f : VI) : Statement (.movi f) := of_word rfl rfl (word_vi 0x86 f (by decide))
theorem movx (f : V3) : Statement (.movx f) := of_word rfl rfl (word_v3 0x87 f (by decide))
theorem movxs (f : V3) : Statement (.movxs f) := of_word rfl rfl (word_v3 0x88 f (by decide))
theorem shfl (f : V3) : Statement (.shfl f) := of_word rfl rfl (word_v3 0x89 f (by decide))
theorem vote (f : V3) : Statement (.vote f) := of_word rfl rfl (word_v3 0x8A f (by decide))
theorem ballot (f : V3) : Statement (.ballot f) := of_word rfl rfl (word_v3 0x8B f (by decide))
theorem lred (f : V3) : Statement (.lred f) := of_word rfl rfl (word_v3 0x8C f (by decide))
theorem bcast (f : V3) : Statement (.bcast f) := of_word rfl rfl (word_v3 0x8D f (by decide))
theorem srd (f : FS) : Statement (.srd f) := of_word rfl rfl (word_s 0x8E f (by decide))
theorem swr (f : FS) : Statement (.swr f) := of_word rfl rfl (word_s 0x8F f (by decide))
theorem ld (f : FM) : Statement (.ld f) := of_word rfl rfl (word_m 0xA0 f (by decide))
theorem st (f : FM) : Statement (.st f) := of_word rfl rfl (word_m 0xA1 f (by decide))
theorem lds (f : FM) : Statement (.lds f) := of_word rfl rfl (word_m 0xA2 f (by decide))
theorem sts (f : FM) : Statement (.sts f) := of_word rfl rfl (word_m 0xA3 f (by decide))
theorem ldq (f : FM) : Statement (.ldq f) := of_word rfl rfl (word_m 0xA4 f (by decide))
theorem atom (f : FM) : Statement (.atom f) := of_word rfl rfl (word_m 0xA5 f (by decide))
theorem atoms (f : FM) : Statement (.atoms f) := of_word rfl rfl (word_m 0xA6 f (by decide))
theorem red (f : FM) : Statement (.red f) := of_word rfl rfl (word_m 0xA7 f (by decide))
theorem prf (f : FM) : Statement (.prf f) := of_word rfl rfl (word_m 0xA8 f (by decide))
theorem tbinit (f : FM) : Statement (.tbinit f) := of_word rfl rfl (word_m 0xC0 f (by decide))
theorem tbexp (f : FM) : Statement (.tbexp f) := of_word rfl rfl (word_m 0xC1 f (by decide))
theorem tbarv (f : FM) : Statement (.tbarv f) := of_word rfl rfl (word_m 0xC2 f (by decide))
theorem tbtest (f : FM) : Statement (.tbtest f) := of_word rfl rfl (word_m 0xC3 f (by decide))
theorem waita (f : FM) : Statement (.waita f) := of_word rfl rfl (word_m 0xC4 f (by decide))
theorem fence (f : FM) : Statement (.fence f) := of_word rfl rfl (word_m 0xC5 f (by decide))
theorem bar (f : VI) : Statement (.bar f) := of_word rfl rfl (word_vi 0xC6 f (by decide))
theorem barc (f : VI) : Statement (.barc f) := of_word rfl rfl (word_vi 0xC7 f (by decide))
theorem tcfg (f : V3) : Statement (.tcfg f) := of_word rfl rfl (word_v3 0xD0 f (by decide))
theorem tld (f : FM) : Statement (.tld f) := of_word rfl rfl (word_m 0xD1 f (by decide))
theorem tst (f : FM) : Statement (.tst f) := of_word rfl rfl (word_m 0xD2 f (by decide))
theorem tzero (f : V3) : Statement (.tzero f) := of_word rfl rfl (word_v3 0xD3 f (by decide))
theorem mxa (f : FE) : Statement (.mxa f) := of_word rfl rfl (word_e 0xD4 f (by decide))
theorem acz (f : V3) : Statement (.acz f) := of_word rfl rfl (word_v3 0xD5 f (by decide))
theorem acv (f : FE) : Statement (.acv f) := of_word rfl rfl (word_e 0xD6 f (by decide))
theorem acld (f : FM) : Statement (.acld f) := of_word rfl rfl (word_m 0xD7 f (by decide))
theorem acst (f : FM) : Statement (.acst f) := of_word rfl rfl (word_m 0xD8 f (by decide))
theorem cpy (f : FE) : Statement (.cpy f) := of_word rfl rfl (word_e 0xE0 f (by decide))
theorem cpyl (f : FE) : Statement (.cpyl f) := of_word rfl rfl (word_e 0xE1 f (by decide))
theorem hred (f : FE) : Statement (.hred f) := of_word rfl rfl (word_e 0xE2 f (by decide))
theorem hgat (f : FE) : Statement (.hgat f) := of_word rfl rfl (word_e 0xE3 f (by decide))
theorem hfetch (f : FE) : Statement (.hfetch f) := of_word rfl rfl (word_e 0xE4 f (by decide))
theorem lyrq (f : FE) : Statement (.lyrq f) := of_word rfl rfl (word_e 0xE5 f (by decide))
theorem inst (f : FE) : Statement (.inst f) := of_word rfl rfl (word_e 0xE6 f (by decide))
theorem instqQuery (f : FE) : Statement (.instqQuery f) := of_word rfl rfl (word_e 0xE7 f (by decide))
theorem instqAbort (f : FE) : Statement (.instqAbort f) := of_word rfl rfl (word_e 0xE7 f (by decide))
theorem prvr (f : FS) : Statement (.prvr f) := of_word rfl rfl (word_s 0xF0 f (by decide))
theorem prvw (f : FS) : Statement (.prvw f) := of_word rfl rfl (word_s 0xF1 f (by decide))
theorem eret (f : FS) : Statement (.eret f) := of_word rfl rfl (word_s 0xF2 f (by decide))
theorem sysc (f : FS) : Statement (.sysc f) := of_word rfl rfl (word_s 0xF3 f (by decide))
theorem mtrr (f : FS) : Statement (.mtrr f) := of_word rfl rfl (word_s 0xF4 f (by decide))
theorem sign (f : FS) : Statement (.sign f) := of_word rfl rfl (word_s 0xF5 f (by decide))
theorem clauseStart (gid lane : Nat) : Statement (.clauseStart gid lane) := of_event rfl rfl
theorem strandCommit (gid : Nat) : Statement (.strandCommit gid) := of_event rfl rfl
theorem stashWriteback (team line : Nat) : Statement (.stashWriteback team line) := of_event rfl rfl
theorem waitaRecheck (gid lane : Nat) : Statement (.waitaRecheck gid lane) := of_event rfl rfl
theorem waitaTimeout (gid lane : Nat) : Statement (.waitaTimeout gid lane) := of_event rfl rfl
theorem loadComplete (op : Nat) : Statement (.loadComplete op) := of_event rfl rfl
theorem atomComplete (op : Nat) : Statement (.atomComplete op) := of_event rfl rfl
theorem funcResultWrite (op : Nat) : Statement (.funcResultWrite op) := of_event rfl rfl
theorem tileTransferComplete (op : Nat) : Statement (.tileTransferComplete op) := of_event rfl rfl
theorem accTransferComplete (op : Nat) : Statement (.accTransferComplete op) := of_event rfl rfl
theorem acvComplete (op : Nat) : Statement (.acvComplete op) := of_event rfl rfl
theorem mxaStart (cmd : Nat) : Statement (.mxaStart cmd) := of_event rfl rfl
theorem matrixResidueMismatch (cmd pass : Nat) : Statement (.matrixResidueMismatch cmd pass) := of_event rfl rfl
theorem mxaComplete (cmd : Nat) : Statement (.mxaComplete cmd) := of_event rfl rfl
theorem workSteal (engine : Nat) : Statement (.workSteal engine) := of_event rfl rfl
theorem copySectorLand (cmd row sector : Nat) : Statement (.copySectorLand cmd row sector) := of_event rfl rfl
theorem homeSliceStep (isCmd : Bool) (id step : Nat) : Statement (.homeSliceStep isCmd id step) := of_event rfl rfl
theorem hgatResponse (cmd first count : Nat) : Statement (.hgatResponse cmd first count) := of_event rfl rfl
theorem engineAccessFault (cmd step : Nat) : Statement (.engineAccessFault cmd step) := of_event rfl rfl
theorem engineLineFinish (cmd line : Nat) : Statement (.engineLineFinish cmd line) := of_event rfl rfl
theorem instComplete (cmd : Nat) (verified : Bool) (failed : List Nat) : Statement (.instComplete cmd verified failed) := of_event rfl rfl
theorem signComplete (op : Nat) : Statement (.signComplete op) := of_event rfl rfl
theorem mtrrComplete (op : Nat) : Statement (.mtrrComplete op) := of_event rfl rfl
theorem serviceRequestConsumed : Statement .serviceRequestConsumed := of_event rfl rfl
theorem groupSwap (gid : Nat) : Statement (.groupSwap gid) := of_event rfl rfl
theorem groupResourcesFree (gid : Nat) : Statement (.groupResourcesFree gid) := of_event rfl rfl
theorem compaction (team place : Nat) : Statement (.compaction team place) := of_event rfl rfl
theorem teamPlacement (phase tower : Nat) (cores slots : List Nat) : Statement (.teamPlacement phase tower cores slots) := of_event rfl rfl
theorem teamMigration (team core : Nat) (slots : List Nat) : Statement (.teamMigration team core slots) := of_event rfl rfl
theorem teamEnd (team : Nat) : Statement (.teamEnd team) := of_event rfl rfl
theorem fcBell (queue : Nat) : Statement (.fcBell queue) := of_event rfl rfl
theorem quantumBoundary : Statement .quantumBoundary := of_event rfl rfl
theorem phaseStart (queue : Nat) : Statement (.phaseStart queue) := of_event rfl rfl
theorem dependenceRecheck (queue : Nat) : Statement (.dependenceRecheck queue) := of_event rfl rfl
theorem phaseComplete (phase : Nat) : Statement (.phaseComplete phase) := of_event rfl rfl
theorem stallAll (core ctx : Nat) : Statement (.stallAll core ctx) := of_event rfl rfl
theorem contextSwitch (core ctx : Nat) : Statement (.contextSwitch core ctx) := of_event rfl rfl
theorem ctxCreate : Statement .ctxCreate := of_event rfl rfl
theorem ctxHalt : Statement .ctxHalt := of_event rfl rfl
theorem haltTeamSave (team : Nat) : Statement (.haltTeamSave team) := of_event rfl rfl
theorem ctxResume : Statement .ctxResume := of_event rfl rfl
theorem ctxRetire : Statement .ctxRetire := of_event rfl rfl
theorem retirementRecord (ctx : Nat) : Statement (.retirementRecord ctx) := of_event rfl rfl
theorem ctxTeardown : Statement .ctxTeardown := of_event rfl rfl
theorem ctxCmdInvalid : Statement .ctxCmdInvalid := of_event rfl rfl
theorem scrubComplete (ctx : Nat) : Statement (.scrubComplete ctx) := of_event rfl rfl
theorem xlRangeWrite (reg word : Nat) (value : BitVec 64) : Statement (.xlRangeWrite reg word value) := of_event rfl rfl
theorem xlInv (value : BitVec 64) : Statement (.xlInv value) := of_event rfl rfl
theorem xlInvComplete : Statement .xlInvComplete := of_event rfl rfl
theorem xlResume (value : BitVec 64) : Statement (.xlResume value) := of_event rfl rfl
theorem stkScrways (value : BitVec 64) : Statement (.stkScrways value) := of_event rfl rfl
theorem wayChangeComplete : Statement .wayChangeComplete := of_event rfl rfl
theorem flsStagebase (value : BitVec 64) : Statement (.flsStagebase value) := of_event rfl rfl
theorem flsStagesz (value : BitVec 64) : Statement (.flsStagesz value) := of_event rfl rfl
theorem keyLoad (value : BitVec 64) : Statement (.keyLoad value) := of_event rfl rfl
theorem bbDump (value : BitVec 64) : Statement (.bbDump value) := of_event rfl rfl
theorem bbDumpComplete : Statement .bbDumpComplete := of_event rfl rfl
theorem rstReq (value : BitVec 64) : Statement (.rstReq value) := of_event rfl rfl
theorem rlRouteWrite (peer : Nat) (value : BitVec 64) : Statement (.rlRouteWrite peer value) := of_event rfl rfl
theorem registerWrite (index : Nat) (value : BitVec 64) : Statement (.registerWrite index value) := of_event rfl rfl
theorem hostBar0Access (link index : Nat) (value : Option (BitVec 64)) : Statement (.hostBar0Access link index value) := of_event rfl rfl
theorem hostBar2Access (offset : Nat) (count : Nat) (data : Option (List (BitVec 8))) : Statement (.hostBar2Access offset count data) := of_event rfl rfl
theorem peerAccess (peer ia : Nat) (act : PeerAct) : Statement (.peerAccess peer ia act) := of_event rfl rfl
theorem remoteWriteAck (write : Nat) : Statement (.remoteWriteAck write) := of_event rfl rfl
theorem layerArrival (ctx model layer : Nat) : Statement (.layerArrival ctx model layer) := of_event rfl rfl
theorem layerVictimChoice (ctx model layer : Nat) : Statement (.layerVictimChoice ctx model layer) := of_event rfl rfl
theorem layerEvictionComplete (ctx model layer : Nat) : Statement (.layerEvictionComplete ctx model layer) := of_event rfl rfl
theorem flashReadEccFail (page : Nat) : Statement (.flashReadEccFail page) := of_event rfl rfl
theorem reservationGrant (district : Nat) : Statement (.reservationGrant district) := of_event rfl rfl
theorem pipeIdleRelease (core quarter : Nat) : Statement (.pipeIdleRelease core quarter) := of_event rfl rfl
theorem terraceDelaySet (terrace heavier : Nat) : Statement (.terraceDelaySet terrace heavier) := of_event rfl rfl
theorem terraceDelayClear (terrace : Nat) : Statement (.terraceDelayClear terrace) := of_event rfl rfl
theorem droopDetect (district : Nat) : Statement (.droopDetect district) := of_event rfl rfl
theorem suspectWindowOpen (district : Nat) (groups : List Nat) : Statement (.suspectWindowOpen district groups) := of_event rfl rfl
theorem suspectWindowEnd (district : Nat) : Statement (.suspectWindowEnd district) := of_event rfl rfl
theorem governorWindow (core : Nat) : Statement (.governorWindow core) := of_event rfl rfl
theorem thermalReading (core engine celsius : Nat) : Statement (.thermalReading core engine celsius) := of_event rfl rfl
theorem districtHold (district : Nat) : Statement (.districtHold district) := of_event rfl rfl
theorem districtDrain (district : Nat) : Statement (.districtDrain district) := of_event rfl rfl
theorem districtOff (district : Nat) : Statement (.districtOff district) := of_event rfl rfl
theorem inrushRampStart (tower : Nat) : Statement (.inrushRampStart tower) := of_event rfl rfl
theorem inrushRampComplete (tower unit : Nat) : Statement (.inrushRampComplete tower unit) := of_event rfl rfl
theorem correctedError (unit : ErrUnit) (addr : Nat) : Statement (.correctedError unit addr) := of_event rfl rfl
theorem registerEccError (gid reg : Nat) (lanes : BitVec 64) : Statement (.registerEccError gid reg lanes) := of_event rfl rfl
theorem groupStateParityError (gid : Nat) : Statement (.groupStateParityError gid) := of_event rfl rfl
theorem pipelineError (gid : Nat) : Statement (.pipelineError gid) := of_event rfl rfl
theorem memoryEccError (target : ErrTarget) : Statement (.memoryEccError target) := of_event rfl rfl
theorem burstCheckFail (bus : Nat) (groups : List Nat) (result : BurstResult) : Statement (.burstCheckFail bus groups result) := of_event rfl rfl
theorem linkCrcFail (link : Nat) : Statement (.linkCrcFail link) := of_event rfl rfl
theorem linkTrainStart (link : Nat) : Statement (.linkTrainStart link) := of_event rfl rfl
theorem linkTrainResult (link : Nat) (lanes : Option Nat) : Statement (.linkTrainResult link lanes) := of_event rfl rfl
theorem linkIdentComplete (link peerLink : Nat) (devid : List (BitVec 8)) : Statement (.linkIdentComplete link peerLink devid) := of_event rfl rfl
theorem linkDown (link : Nat) : Statement (.linkDown link) := of_event rfl rfl
theorem deviceReset (powerOn : Bool) : Statement (.deviceReset powerOn) := of_event rfl rfl
theorem bringupStep (failed : Option (Nat × Nat)) : Statement (.bringupStep failed) := of_event rfl rfl
theorem hostLinkRetry (link : Nat) (trained : Bool) : Statement (.hostLinkRetry link trained) := of_event rfl rfl
theorem fenceComplete (op : Nat) : Statement (.fenceComplete op) := of_event rfl rfl
theorem supplyRecovery (district : Nat) : Statement (.supplyRecovery district) := of_event rfl rfl

end Sys2Proof.Laws.Fields
end

