-- ==== Sys2Proof/Laws/Records.lean ====
section
/-! SUPPORT. The lengths of what the device signs (R394, R398, R430, R432). -/

namespace Sys2Proof.Machine

@[simp] theorem length_leN (n x : Nat) : (Aes.leN n x).length = n := by
  induction n generalizing x with
  | zero => rfl
  | succ n ih => simp [Aes.leN, ih]

@[simp] theorem length_leBytes (n x : Nat) : (leBytes n x).length = n := by
  induction n generalizing x with
  | zero => rfl
  | succ n ih => simp [leBytes, ih]

@[simp] theorem length_toBytes (l : List Nat) : (toBytes l).length = l.length := by simp [toBytes]

@[simp] theorem length_encPt (p : Crypto.Pt) : (Crypto.encPt p).length = 32 := by simp [Crypto.encPt]

/-- DEVID is 32 bytes. -/
@[simp] theorem length_devid : devid.length = 32 := by simp [devid, Crypto.edPublic]

/-- A signature is 64 bytes. -/
@[simp] theorem length_signature (m : List Byte) : (signature m).length = 64 := by simp [signature, Crypto.edSign]

theorem length_flatMap_const {α β : Type} (l : List α) (f : α → List β) (n : Nat) (h : ∀ x, (f x).length = n) :
    (l.flatMap f).length = l.length * n := by
  induction l with
  | nil => simp
  | cons a l ih => simp [List.flatMap_cons, ih, h, Nat.add_mul, Nat.add_comm]

/-- A signed record is 320 bytes. -/
theorem length_signedRecord (s : State) (c reason : Nat) : (s.signedRecord c reason).length = 320 := by
  simp [State.signedRecord, recordBody, length_flatMap_const _ _ 8 (fun _ => length_leBytes 8 _), Ctx.meterList]

/-- What a dump of the black box takes where the ring holds at most 4,096 events: 131,200 bytes. -/
theorem length_dumpBytes (s : State) (seq cut : Nat) (h : s.aon.ring.length ≤ 4096) : (s.dumpBytes seq cut).length = 131200 := by
  have : (s.aon.ring.filter (fun e => decide (e.eseq < cut))).length ≤ 4096 := Nat.le_trans (List.length_filter_le _ _) h
  have ev : ∀ l : List BbEvent, (l.flatMap BbEvent.bytes).length = l.length * 32 := fun l =>
    length_flatMap_const l BbEvent.bytes 32 (fun _ => length_leBytes 32 _)
  simp only [State.dumpBytes, List.length_append, ev, length_leBytes, length_devid, List.length_replicate, length_signature]
  omega

end Sys2Proof.Machine
end

