-- ==== Sys2Proof/Tests/Slice0.lean ====
section
/-! SUPPORT. The model's own tests: ill-formed terms that WellFormed refuses, one word of every row of the opcode table that decodes to
its instruction, a witness for the hypotheses of each obligation, and single steps against the spec's examples. -/

namespace Sys2Proof.Tests

-- one theorem is checked after the other, so that their evaluations do not fill the memory together
set_option Elab.async false

open Sys2Proof Sys2Proof.Machine

/-- Page tables (R364, R365) that map the first GiB of the intermediate space to DRAM address 0, writable: a pointer at 0x8000, and
a leaf of SZ 3 at 0x10000. -/
def tables : Memory := [(0x8002, 1), (0x8007, 0x80), (0x10007, 0xE2)]

/-- The n bytes of a number from a key on, as a memory lists them. -/
def bytesAt (k n x : Nat) : Memory :=
  ((List.range n).map (fun i => (k + i, BitVec.ofNat 8 (x / 256 ^ i)))).filter (fun e => e.2 != 0)

/-- A small machine: the word w is the next to issue for all 64 lanes of one group. Its privileged context 0 has range register 0 over the
first GiB, with every permission; its team has 65,536 bytes of scratchpad. -/
def put (w : Nat) : State :=
  let s := State.reset.withFetchWord 64 w
  { s with
    agenda := [], focus := some ⟨0, 0⟩, mem := tables, xl := { s.xl with ptRoot := 0x8000 }
    teams := [(0, { s.team 0 with extent := 65536 })]
    ctxs := [(0, { s.ctx 0 with ranges := [(1, 0x40000000), (3, 0x3D)] })] }


/-! ### Ill-formed words: one for each check of Machine/Forms, written from the rule that the check names -/

/-- A V3 word over v2 and v3 into v4, unguarded. -/
def v3 (ty : Ty) (mod : BitVec 4) : V3 := ⟨ty, mod, ⟨.v, 4⟩, ⟨.v, 2⟩, ⟨.v, 3⟩, .zero, .always, false⟩
/-- A VI word over v2 into v4. -/
def vi (ty : Ty) (mod : BitVec 4) (imm : BitVec 20) : VI := ⟨ty, mod, ⟨.v, 4⟩, ⟨.v, 2⟩, imm, .always, false⟩
/-- An M word with data v6, address v2 and no base. -/
def fm (sz : BitVec 3) (ord : BitVec 2) (scope : BitVec 3) (off : BitVec 12) : FM :=
  ⟨sz, ord, scope, ⟨.v, 6⟩, ⟨.v, 2⟩, 0xFF, off, .always, false⟩
/-- A control word with no field set. -/
def ctl (g : Guard) : V3 := ⟨.i32, 0, .zero, .zero, .zero, .zero, g, false⟩
/-- An E word with the block address in v2. -/
def fe (sub : BitVec 4) (slot : BitVec 3) (ef : BitVec 8) : FE := ⟨sub, slot, ⟨.v, 2⟩, .zero, ef, .always, false⟩

/-- The ill-formed words: the type, the modifier bits, the guard and the operand fields. -/
def illForms : List Instr := [
  .iadd (v3 .f32 0),                                                  -- tyErr: TY is an i, n or b code (R137)
  .imul (v3 .i32 1),                                                  -- zeroErr: IMUL takes no MOD
  .iadd (v3 .i32 2),                                                  -- bit0Err: MOD[49] is undefined
  .fadd (v3 .f32 4),                                                  -- rndErr: MOD[50] is undefined
  .icmp { v3 .i32 8 with d := ⟨.k, 1⟩ },                              -- topErr: MOD[51] is undefined
  .iadd (v3 .b32 1),                                                  -- satErr: .sat takes i and n codes only (R137)
  .dp4 { v3 .n32 1 with c := ⟨.v, 5⟩ },                               -- mixErr: .mix takes i32 only (R148)
  .rcv (ctl (.pred 3 false)),                                         -- unguardedErr: RCV takes no guard (R177)
  .pack { v3 .i32 3 with c := ⟨.v, 5⟩ },                              -- elemErr: element width 3 (R165)
  .cvt { v3 .f32 6 with b := .zero },                                 -- cvtErr: a source of type b64 (R160)
  .icmp { v3 .b32 2 with d := ⟨.k, 1⟩ },                              -- icmpErr: b codes take eq and ne only (R179)
  .icmp { v3 .i32 6 with d := ⟨.k, 1⟩ },                              -- icmpErr: condition 6 (R179)
  .lred { v3 .f32 3 with b := .zero },                                -- lredErr: and takes no f32 (R188)
  .lred { v3 .i32 6 with b := .zero },                                -- lredErr: operation 6 (R188)
  .movx { v3 .b32 0 with a := ⟨.s, 2⟩ },                              -- baseErr: the base is at level V (R184)
  .bnd { ctl .always with d := ⟨.v, 4⟩, a := ⟨.v, 2⟩ },               -- bndErr: a survivor is a kerb slot (R176)
  .bnd { ctl .always with c := ⟨.k, 2⟩, b := ⟨.v, 2⟩ },               -- bndErr: a second pair with no first (R176)
  .bfxImm (vi .n32 0 0x10000),                                        -- immRsv: IMM20[19:16] is reserved (R132)
  .prmtImm (vi .b32 0 0x6),                                           -- prmtErr: SRC 6 (R146)
  .bra ⟨3, 0, 0, .always, false⟩,                                     -- condErr: COND 3 (R87)
  .iadd { v3 .i32 0 with c := ⟨.k, 5⟩ },                              -- unusedBits: C is unused
  .iadd { v3 .i32 0 with fsel := true },                              -- FSEL on a word that is not long-latency (R77)
  .icmp { v3 .i32 0 with d := ⟨.k, 24⟩ },                             -- numBad: predicate 24 (R80)
  .icmp { v3 .i32 0 with d := ⟨.v, 1⟩ },                              -- numBad: a number field's level code (R80)
  .tzero { ctl .always with d := ⟨.k, 16⟩ },                          -- numBad: tile 16
  .acz { ctl .always with d := ⟨.k, 3⟩ }]                             -- numBad: region 3

/-- The ill-formed words: the memory, engine and system fields. -/
def illFields : List Instr := [
  .ld (fm 5 0 0 0),                                                   -- szErr: SZ 5 (R85)
  .ld (fm 0 2 0 0),                                                   -- ordErr: a load takes no .rel (R192)
  .ld (fm 0 0 1 0),                                                   -- ordErr: a scope with .weak (R192)
  .st (fm 0 2 5 0),                                                   -- ordErr: SCOPE 5 of a store (R192)
  .atom (fm 0 0 5 0),                                                 -- atomScopeErr: SCOPE 5 needs .acq or .ar (R85)
  .ld { fm 0 0 0 0 with rb := 0xC0 },                                 -- rbErr: RB 0xC0 (R85)
  .lds { fm 0 0 0 0 with rb := 0x05 },                                -- rbSpadErr: a record as a scratchpad base (R86)
  .atom (fm 0 0 0 0xB00),                                             -- aopErr: AOP 11 (R197)
  .atom (fm 1 0 0 0xA00),                                             -- aopErr: .fadd of 64 bits (R197)
  .red (fm 0 0 0 0x900),                                              -- redErr: RED takes no .cas (R197)
  .fence ⟨0, 3, 5, .zero, .zero, 0, 0, .always, false⟩,               -- fenceErr: SCOPE 5 (R206)
  .fence ⟨0, 3, 4, .zero, .zero, 0, 1, .always, false⟩,               -- fenceErr: OFF must be 0 (R206)
  .bar ⟨.i32, 0, .zero, .zero, 0x210, .always, false⟩,                -- cntErr: a count of 33 (R207)
  .tld { fm 1 0 0 0 with d := ⟨.k, 3⟩, rb := 0x80 },                  -- dirRsv: bits 55 to 49 are reserved (R218)
  .acld { fm 1 0 0 0 with d := ⟨.k, 1⟩, rb := 0x80 },                 -- spcRsv: bits 55 to 50 are reserved (R224)
  .cpy (fe 1 0 0),                                                    -- subErr: SUB 1 (R88)
  .cpy (fe 0 1 0),                                                    -- slotErr: a command names no slot (R88)
  .hred (fe 1 0 2),                                                   -- hredErr: bf16 takes SUB 0 only (R250)
  .hred (fe 0 0 3),                                                   -- hredErr: element type 3 (R250)
  .cpy (fe 0 0 1),                                                    -- efRsv: CPY has no EF (R226)
  .srd ⟨3, ⟨.v, 4⟩, .zero, 0, .always, false⟩,                        -- partErr: part 3 (R185)
  .prvr ⟨8, ⟨.v, 4⟩, .zero, 0, .always, false⟩,                       -- partErr: space 2 (R208)
  .srd ⟨0, ⟨.v, 4⟩, .zero, 0x13, .always, false⟩,                     -- register 0x13 (R185)
  .swr ⟨0, .zero, ⟨.v, 2⟩, 0x00, .always, false⟩,                     -- a register that is not writable (R185)
  .prvr ⟨4, ⟨.v, 4⟩, .zero, 0x105, .always, false⟩,                   -- prvErr: an index that R442 does not assign
  .eret ⟨0, .zero, ⟨.v, 2⟩, 1, .always, false⟩,                       -- idxErr: ERET takes IDX 0
  .mtrr ⟨1, ⟨.v, 4⟩, ⟨.v, 2⟩, 17, .always, false⟩,                    -- idxErr: meter 17
  .waita (fm 0 0 0 0 |> fun f => { f with rb := 0x70 })]              -- WAITA's COND 7 (R204)

theorem test_ill_forms_refused : illForms.all (fun i => decide (¬ WellFormed i)) = true := by decide +kernel
theorem test_ill_fields_refused : illFields.all (fun i => decide (¬ WellFormed i)) = true := by decide +kernel
/-- A device event is no instruction word. -/
theorem test_events_are_no_words : ¬ WellFormed (.quantumBoundary) := by decide

/-! ### Words written out from the spec's encodings decode to what they stand for (R24, R77-R91) -/

def controlWords : List (Nat × Instr) := [
  (0x000000000000007C, .nop ⟨.i32, 0, .zero, .zero, .zero, .zero, .always, false⟩),
  (0x010007FFFFFFFF0E, .bra ⟨0, 7, 0xFFFFFFFF, .pred 3 true, false⟩),
  (0x0200001040000006, .brx ⟨.i32, 0, .zero, ⟨.v, 4⟩, .zero, .zero, .pred 1 true, false⟩),
  (0x032009FFFFFFFF7C, .call ⟨2, 9, 0xFFFFFFFF, .always, false⟩),
  (0x040041904000007C, .callx ⟨.i32, 0, ⟨.v, 6⟩, ⟨.v, 4⟩, .zero, .zero, .always, false⟩),
  (0x050000102000007C, .ret ⟨.i32, 0, .zero, ⟨.v, 2⟩, .zero, .zero, .always, false⟩),
  (0x0600000000000016, .exit ⟨.i32, 0, .zero, .zero, .zero, .zero, .pred 5 true, false⟩),
  (0x070044402448057C, .bnd ⟨.i32, 0, ⟨.v, 17⟩, ⟨.k, 2⟩, ⟨.v, 18⟩, ⟨.k, 5⟩, .always, false⟩),
  (0x080000000000007C, .rcv ⟨.i32, 0, .zero, .zero, .zero, .zero, .always, false⟩),
  (0x090001400000007C, .elect ⟨.i32, 0, ⟨.k, 5⟩, .zero, .zero, .zero, .always, false⟩),
  (0x0A0000000000007C, .yield ⟨.i32, 0, .zero, .zero, .zero, .zero, .always, false⟩),
  (0x0B00000000002A7C, .trap ⟨.i32, 0, .zero, .zero, 0x2A, .always, false⟩),
  (0x0C0000000FFFFF7C, .bkpt ⟨.i32, 0, .zero, .zero, 0xFFFFF, .always, false⟩),
  (0x0D0000000000000A, .tret ⟨.i32, 0, .zero, .zero, .zero, .zero, .pred 2 true, false⟩)]

def integerWords : List (Nat × Instr) := [
  (0x10014110240C007C, .iadd ⟨.i32, 1, ⟨.v, 4⟩, ⟨.v, 2⟩, ⟨.v, 3⟩, .zero, .always, false⟩),
  (0x115041102418000E, .isub ⟨.n64, 0, ⟨.v, 4⟩, ⟨.v, 2⟩, ⟨.v, 6⟩, .zero, .pred 3 true, false⟩),
  (0x12004110240C057C, .iaddc ⟨.i32, 0, ⟨.v, 4⟩, ⟨.v, 2⟩, ⟨.v, 3⟩, ⟨.k, 5⟩, .always, false⟩),
  (0x13104120240C067C, .isubb ⟨.n32, 0, ⟨.v, 4⟩, ⟨.s, 2⟩, ⟨.v, 3⟩, ⟨.k, 6⟩, .always, false⟩),
  (0x144042102410007C, .imul ⟨.i64, 0, ⟨.v, 8⟩, ⟨.v, 2⟩, ⟨.v, 4⟩, .zero, .always, false⟩),
  (0x15104250240C007C, .imulh ⟨.n32, 0, ⟨.v, 9⟩, ⟨.v, 2⟩, ⟨.v, 3⟩, .zero, .always, false⟩),
  (0x16304250240D047C, .imad ⟨.b32, 0, ⟨.v, 9⟩, ⟨.v, 2⟩, ⟨.v, 3⟩, ⟨.v, 4⟩, .always, false⟩),
  (0x17004290240D047C, .imadw ⟨.i32, 0, ⟨.v, 10⟩, ⟨.v, 2⟩, ⟨.v, 3⟩, ⟨.v, 4⟩, .always, false⟩),
  (0x180140502000007C, .iabs ⟨.i32, 1, ⟨.v, 1⟩, ⟨.v, 2⟩, .zero, .zero, .always, false⟩),
  (0x194041102000007C, .ineg ⟨.i64, 0, ⟨.v, 4⟩, ⟨.v, 2⟩, .zero, .zero, .always, false⟩),
  (0x1A004050240C007C, .imin ⟨.i32, 0, ⟨.v, 1⟩, ⟨.v, 2⟩, ⟨.v, 3⟩, .zero, .always, false⟩),
  (0x1B100050240C007C, .imax ⟨.n32, 0, ⟨.k, 1⟩, ⟨.v, 2⟩, ⟨.v, 3⟩, .zero, .always, false⟩),
  (0x1C104050240D047C, .isad ⟨.n32, 0, ⟨.v, 1⟩, ⟨.v, 2⟩, ⟨.v, 3⟩, ⟨.v, 4⟩, .always, false⟩),
  (0x1D304050240C007C, .shl ⟨.b32, 0, ⟨.v, 1⟩, ⟨.v, 2⟩, ⟨.v, 3⟩, .zero, .always, false⟩),
  (0x1E504110241C007C, .shr ⟨.n64, 0, ⟨.v, 4⟩, ⟨.v, 2⟩, ⟨.v, 7⟩, .zero, .always, false⟩),
  (0x1F004050280C007C, .sha ⟨.i32, 0, ⟨.v, 1⟩, ⟨.v, 2⟩, ⟨.s, 3⟩, .zero, .always, false⟩),
  (0x20304050240C007C, .rot ⟨.b32, 0, ⟨.v, 1⟩, ⟨.v, 2⟩, ⟨.v, 3⟩, .zero, .always, false⟩),
  (0x21304050240C007C, .andw ⟨.b32, 0, ⟨.v, 1⟩, ⟨.v, 2⟩, ⟨.v, 3⟩, .zero, .always, false⟩),
  (0x226041102418007C, .orw ⟨.b64, 0, ⟨.v, 4⟩, ⟨.v, 2⟩, ⟨.v, 6⟩, .zero, .always, false⟩),
  (0x23004050240C007C, .xorw ⟨.i32, 0, ⟨.v, 1⟩, ⟨.v, 2⟩, ⟨.v, 3⟩, .zero, .always, false⟩),
  (0x243080502000007C, .notw ⟨.b32, 0, ⟨.s, 1⟩, ⟨.v, 2⟩, .zero, .zero, .always, false⟩),
  (0x25304050240C007C, .andn ⟨.b32, 0, ⟨.v, 1⟩, ⟨.v, 2⟩, ⟨.v, 3⟩, .zero, .always, false⟩),
  (0x26964050240D047C, .lop3 ⟨.f16, 6, ⟨.v, 1⟩, ⟨.v, 2⟩, ⟨.v, 3⟩, ⟨.v, 4⟩, .always, false⟩),
  (0x276041502000007C, .popc ⟨.b64, 0, ⟨.v, 5⟩, ⟨.v, 2⟩, .zero, .zero, .always, false⟩),
  (0x283041502000007C, .clz ⟨.b32, 0, ⟨.v, 5⟩, ⟨.v, 2⟩, .zero, .zero, .always, false⟩),
  (0x293041502000007C, .ctz ⟨.b32, 0, ⟨.v, 5⟩, ⟨.v, 2⟩, .zero, .zero, .always, false⟩),
  (0x2A3041502000007C, .brev ⟨.b32, 0, ⟨.v, 5⟩, ⟨.v, 2⟩, .zero, .zero, .always, false⟩),
  (0x2B004050240C007C, .bfx ⟨.i32, 0, ⟨.v, 1⟩, ⟨.v, 2⟩, ⟨.v, 3⟩, .zero, .always, false⟩),
  (0x2C304050240D047C, .bfi ⟨.b32, 0, ⟨.v, 1⟩, ⟨.v, 2⟩, ⟨.v, 3⟩, ⟨.v, 4⟩, .always, false⟩),
  (0x2D304050240D047C, .prmt ⟨.b32, 0, ⟨.v, 1⟩, ⟨.v, 2⟩, ⟨.v, 3⟩, ⟨.v, 4⟩, .always, false⟩),
  (0x2E034050240C007C, .lea ⟨.i32, 3, ⟨.v, 1⟩, ⟨.v, 2⟩, ⟨.v, 3⟩, .zero, .always, false⟩),
  (0x2F1241102418007C, .leaw ⟨.n32, 2, ⟨.v, 4⟩, ⟨.v, 2⟩, ⟨.v, 6⟩, .zero, .always, false⟩),
  (0x30014050240D047C, .dp4 ⟨.i32, 1, ⟨.v, 1⟩, ⟨.v, 2⟩, ⟨.v, 3⟩, ⟨.v, 4⟩, .always, false⟩)]

def immediateWords : List (Nat × Instr) := [
  (0x310140D02FFFFF12, .iaddImm ⟨.i32, 1, ⟨.v, 3⟩, ⟨.v, 2⟩, 0xFFFFF, .pred 4 true, false⟩),
  (0x323040D02000077C, .imulImm ⟨.b32, 0, ⟨.v, 3⟩, ⟨.v, 2⟩, 0x7, .always, false⟩),
  (0x330040D02800007C, .iminImm ⟨.i32, 0, ⟨.v, 3⟩, ⟨.v, 2⟩, 0x80000, .always, false⟩),
  (0x341040D02000057C, .imaxImm ⟨.n32, 0, ⟨.v, 3⟩, ⟨.v, 2⟩, 0x5, .always, false⟩),
  (0x353040D020001F12, .shlImm ⟨.b32, 0, ⟨.v, 3⟩, ⟨.v, 2⟩, 0x1F, .pred 4 true, false⟩),
  (0x361040D02000047C, .shrImm ⟨.n32, 0, ⟨.v, 3⟩, ⟨.v, 2⟩, 0x4, .always, false⟩),
  (0x370040D02FFFFE7C, .shaImm ⟨.i32, 0, ⟨.v, 3⟩, ⟨.v, 2⟩, 0xFFFFE, .always, false⟩),
  (0x383040D02000087C, .rotImm ⟨.b32, 0, ⟨.v, 3⟩, ⟨.v, 2⟩, 0x8, .always, false⟩),
  (0x393040D02000FF12, .andImm ⟨.b32, 0, ⟨.v, 3⟩, ⟨.v, 2⟩, 0xFF, .pred 4 true, false⟩),
  (0x3A3040D02F0F0F7C, .orImm ⟨.b32, 0, ⟨.v, 3⟩, ⟨.v, 2⟩, 0xF0F0F, .always, false⟩),
  (0x3B3040D02FFFFF7C, .xorImm ⟨.b32, 0, ⟨.v, 3⟩, ⟨.v, 2⟩, 0xFFFFF, .always, false⟩),
  (0x3C0240D02000107C, .leaImm ⟨.i32, 2, ⟨.v, 3⟩, ⟨.v, 2⟩, 0x10, .always, false⟩),
  (0x3D1040D020080412, .bfxImm ⟨.n32, 0, ⟨.v, 3⟩, ⟨.v, 2⟩, 0x804, .pred 4 true, false⟩),
  (0x3E3040D02A54087C, .bfiImm ⟨.b32, 0, ⟨.v, 3⟩, ⟨.v, 2⟩, 0xA5408, .always, false⟩),
  (0x3F3040D020A4187C, .prmtImm ⟨.b32, 0, ⟨.v, 3⟩, ⟨.v, 2⟩, 0xA418, .always, false⟩),
  (0x5920009073FC007C, .faddImm ⟨.f32, 0, ⟨.k, 2⟩, ⟨.v, 7⟩, 0x3FC00, .always, false⟩),
  (0x5A2300907400007C, .fmulImm ⟨.f32, 3, ⟨.k, 2⟩, ⟨.v, 7⟩, 0x40000, .always, false⟩),
  (0x5B2000907BF8007C, .fminImm ⟨.f32, 0, ⟨.k, 2⟩, ⟨.v, 7⟩, 0xBF800, .always, false⟩),
  (0x5C2000907000007C, .fmaxImm ⟨.f32, 0, ⟨.k, 2⟩, ⟨.v, 7⟩, 0x0, .always, false⟩),
  (0x8631408003F8007C, .movi ⟨.b32, 1, ⟨.v, 2⟩, .zero, 0x3F800, .always, false⟩)]

def floatWords : List (Nat × Instr) := [
  (0x40204190240C007C, .fadd ⟨.f32, 0, ⟨.v, 6⟩, ⟨.v, 2⟩, ⟨.v, 3⟩, .zero, .always, false⟩),
  (0x41914190240C007C, .fsub ⟨.f16, 1, ⟨.v, 6⟩, ⟨.v, 2⟩, ⟨.v, 3⟩, .zero, .always, false⟩),
  (0x42C24190240C007C, .fmul ⟨.bf16x2, 2, ⟨.v, 6⟩, ⟨.v, 2⟩, ⟨.v, 3⟩, .zero, .always, false⟩),
  (0x43B34190240D057C, .ffma ⟨.f16x2, 3, ⟨.v, 6⟩, ⟨.v, 2⟩, ⟨.v, 3⟩, ⟨.v, 5⟩, .always, false⟩),
  (0x44204190240C007C, .fmin ⟨.f32, 0, ⟨.v, 6⟩, ⟨.v, 2⟩, ⟨.v, 3⟩, .zero, .always, false⟩),
  (0x45A04190240C007C, .fmax ⟨.bf16, 0, ⟨.v, 6⟩, ⟨.v, 2⟩, ⟨.v, 3⟩, .zero, .always, false⟩),
  (0x46B041902000007C, .fabs ⟨.f16x2, 0, ⟨.v, 6⟩, ⟨.v, 2⟩, .zero, .zero, .always, false⟩),
  (0x472041902000007C, .fneg ⟨.f32, 0, ⟨.v, 6⟩, ⟨.v, 2⟩, .zero, .zero, .always, false⟩),
  (0x502041902000007C, .fflr ⟨.f32, 0, ⟨.v, 6⟩, ⟨.v, 2⟩, .zero, .zero, .always, false⟩),
  (0x519041902000007C, .fceil ⟨.f16, 0, ⟨.v, 6⟩, ⟨.v, 2⟩, .zero, .zero, .always, false⟩),
  (0x52A041902000007C, .ftrunc ⟨.bf16, 0, ⟨.v, 6⟩, ⟨.v, 2⟩, .zero, .zero, .always, false⟩),
  (0x532241902000007C, .frnd ⟨.f32, 2, ⟨.v, 6⟩, ⟨.v, 2⟩, .zero, .zero, .always, false⟩),
  (0x542041902000007C, .ffrc ⟨.f32, 0, ⟨.v, 6⟩, ⟨.v, 2⟩, .zero, .zero, .always, false⟩),
  (0x559041902000007C, .fclass ⟨.f16, 0, ⟨.v, 6⟩, ⟨.v, 2⟩, .zero, .zero, .always, false⟩),
  (0x56204190240C007C, .fscale ⟨.f32, 0, ⟨.v, 6⟩, ⟨.v, 2⟩, ⟨.v, 3⟩, .zero, .always, false⟩),
  (0x572041902000007C, .fgetexp ⟨.f32, 0, ⟨.v, 6⟩, ⟨.v, 2⟩, .zero, .zero, .always, false⟩),
  (0x58B04190240D057C, .fdot2 ⟨.f16x2, 0, ⟨.v, 6⟩, ⟨.v, 2⟩, ⟨.v, 3⟩, ⟨.v, 5⟩, .always, false⟩)]

def longWords : List (Nat × Instr) := [
  (0x48204190240C007D, .fdiv ⟨.f32, 0, ⟨.v, 6⟩, ⟨.v, 2⟩, ⟨.v, 3⟩, .zero, .always, true⟩),
  (0x499141902000007C, .fsqrt ⟨.f16, 1, ⟨.v, 6⟩, ⟨.v, 2⟩, .zero, .zero, .always, false⟩),
  (0x4A2041902000007C, .frcp ⟨.f32, 0, ⟨.v, 6⟩, ⟨.v, 2⟩, .zero, .zero, .always, false⟩),
  (0x4BA041902000007D, .frsq ⟨.bf16, 0, ⟨.v, 6⟩, ⟨.v, 2⟩, .zero, .zero, .always, true⟩),
  (0x4C2341902000007D, .fex2 ⟨.f32, 3, ⟨.v, 6⟩, ⟨.v, 2⟩, .zero, .zero, .always, true⟩),
  (0x4D2041902000007C, .flg2 ⟨.f32, 0, ⟨.v, 6⟩, ⟨.v, 2⟩, .zero, .zero, .always, false⟩),
  (0x4E9041902000007C, .fsin ⟨.f16, 0, ⟨.v, 6⟩, ⟨.v, 2⟩, .zero, .zero, .always, false⟩),
  (0x4F2241902000007D, .fcos ⟨.f32, 2, ⟨.v, 6⟩, ⟨.v, 2⟩, .zero, .zero, .always, true⟩)]

def convertWords : List (Nat × Instr) := [
  (0x702041102000007C, .cvt ⟨.f32, 0, ⟨.v, 4⟩, ⟨.v, 2⟩, .zero, .zero, .always, false⟩),
  (0x712542908408007C, .cvq ⟨.f32, 5, ⟨.v, 10⟩, ⟨.v, 8⟩, ⟨.v, 2⟩, .zero, .always, false⟩),
  (0x722542908408077C, .cvd ⟨.f32, 5, ⟨.v, 10⟩, ⟨.v, 8⟩, ⟨.v, 2⟩, ⟨.k, 7⟩, .always, false⟩),
  (0x73314050240D047C, .packt ⟨.b32, 1, ⟨.v, 1⟩, ⟨.v, 2⟩, ⟨.v, 3⟩, ⟨.v, 4⟩, .always, false⟩),
  (0x74304050240C067C, .unpkt ⟨.b32, 0, ⟨.v, 1⟩, ⟨.v, 2⟩, ⟨.v, 3⟩, ⟨.k, 6⟩, .always, false⟩),
  (0x75014050240D047C, .pack ⟨.i32, 1, ⟨.v, 1⟩, ⟨.v, 2⟩, ⟨.v, 3⟩, ⟨.v, 4⟩, .always, false⟩),
  (0x76124050240C007C, .unpk ⟨.n32, 2, ⟨.v, 1⟩, ⟨.v, 2⟩, ⟨.v, 3⟩, .zero, .always, false⟩)]

def predWords : List (Nat × Instr) := [
  (0x80020150240C007C, .icmp ⟨.i32, 2, ⟨.k, 5⟩, ⟨.v, 2⟩, ⟨.v, 3⟩, .zero, .always, false⟩),
  (0x81270150240C007C, .fcmp ⟨.f32, 7, ⟨.k, 5⟩, ⟨.v, 2⟩, ⟨.v, 3⟩, .zero, .always, false⟩),
  (0x82960040200C047C, .plop ⟨.f16, 6, ⟨.k, 1⟩, ⟨.k, 2⟩, ⟨.k, 3⟩, ⟨.k, 4⟩, .always, false⟩),
  (0x833040C00000007C, .pmov ⟨.b32, 0, ⟨.v, 3⟩, .zero, .zero, .zero, .always, false⟩),
  (0x846041102418037C, .sel ⟨.b64, 0, ⟨.v, 4⟩, ⟨.v, 2⟩, ⟨.v, 6⟩, ⟨.k, 3⟩, .always, false⟩),
  (0x853080D02000007C, .mov ⟨.b32, 0, ⟨.s, 3⟩, ⟨.v, 2⟩, .zero, .zero, .always, false⟩),
  (0x87314510840D047C, .movx ⟨.b32, 1, ⟨.v, 20⟩, ⟨.v, 8⟩, ⟨.v, 3⟩, ⟨.v, 4⟩, .always, false⟩),
  (0x883042103410007C, .movxs ⟨.b32, 0, ⟨.v, 8⟩, ⟨.v, 3⟩, ⟨.v, 4⟩, .zero, .always, false⟩),
  (0x89364050240C027C, .shfl ⟨.b32, 6, ⟨.v, 1⟩, ⟨.v, 2⟩, ⟨.v, 3⟩, ⟨.k, 2⟩, .always, false⟩),
  (0x8A0200402000007C, .vote ⟨.i32, 2, ⟨.k, 1⟩, ⟨.k, 2⟩, .zero, .zero, .always, false⟩),
  (0x8B6041002000007C, .ballot ⟨.b64, 0, ⟨.v, 4⟩, ⟨.k, 2⟩, .zero, .zero, .always, false⟩),
  (0x8C2040502000007C, .lred ⟨.f32, 0, ⟨.v, 1⟩, ⟨.v, 2⟩, .zero, .zero, .always, false⟩),
  (0x8D308110240C007C, .bcast ⟨.b32, 0, ⟨.s, 4⟩, ⟨.v, 2⟩, ⟨.v, 3⟩, .zero, .always, false⟩),
  (0x8E204100000A007C, .srd ⟨2, ⟨.v, 4⟩, .zero, 0xA, .always, false⟩),
  (0x8F000010200A007C, .swr ⟨0, .zero, ⟨.v, 2⟩, 0xA, .always, false⟩)]

def memoryWords : List (Nat × Instr) := [
  (0xA02C41902FF0407D, .ld ⟨1, 1, 4, ⟨.v, 6⟩, ⟨.v, 2⟩, 0xFF, 0x40, .always, true⟩),
  (0xA11341902830107C, .st ⟨0, 2, 3, ⟨.v, 6⟩, ⟨.v, 2⟩, 0x83, 0x10, .always, false⟩),
  (0xA26041902823FF7C, .lds ⟨3, 0, 0, ⟨.v, 6⟩, ⟨.v, 2⟩, 0x82, 0x3FF, .always, false⟩),
  (0xA38041902FF0027C, .sts ⟨4, 0, 0, ⟨.v, 6⟩, ⟨.v, 2⟩, 0xFF, 0x2, .always, false⟩),
  (0xA44042102FF0101E, .ldq ⟨2, 0, 0, ⟨.v, 8⟩, ⟨.v, 2⟩, 0xFF, 0x10, .pred 7 true, false⟩),
  (0xA51C41902FF9087C, .atom ⟨0, 3, 4, ⟨.v, 6⟩, ⟨.v, 2⟩, 0xFF, 0x908, .always, false⟩),
  (0xA62041902800107C, .atoms ⟨1, 0, 0, ⟨.v, 6⟩, ⟨.v, 2⟩, 0x80, 0x10, .always, false⟩),
  (0xA71341902FFA047C, .red ⟨0, 2, 3, ⟨.v, 6⟩, ⟨.v, 2⟩, 0xFF, 0xA04, .always, false⟩),
  (0xA80000102050007C, .prf ⟨0, 0, 0, .zero, ⟨.v, 2⟩, 0x5, 0x0, .always, false⟩),
  (0xC00241902800207C, .tbinit ⟨0, 0, 2, ⟨.v, 6⟩, ⟨.v, 2⟩, 0x80, 0x20, .always, false⟩),
  (0xC10141902FF0107C, .tbexp ⟨0, 0, 1, ⟨.v, 6⟩, ⟨.v, 2⟩, 0xFF, 0x10, .always, false⟩),
  (0xC21241902800307C, .tbarv ⟨0, 2, 2, ⟨.v, 6⟩, ⟨.v, 2⟩, 0x80, 0x30, .always, false⟩),
  (0xC30941902050107C, .tbtest ⟨0, 1, 1, ⟨.v, 6⟩, ⟨.v, 2⟩, 0x5, 0x10, .always, false⟩),
  (0xC42A41902100087C, .waita ⟨1, 1, 2, ⟨.v, 6⟩, ⟨.v, 2⟩, 0x10, 0x8, .always, false⟩),
  (0xC51C00000010007C, .fence ⟨0, 3, 4, .zero, .zero, 0x1, 0x0, .always, false⟩),
  (0xC60000000000137C, .bar ⟨.i32, 0, .zero, .zero, 0x13, .always, false⟩),
  (0xC70000000000257C, .barc ⟨.i32, 0, .zero, .zero, 0x25, .always, false⟩)]

def tileWords : List (Nat × Instr) := [
  (0xD00000D02000007C, .tcfg ⟨.i32, 0, ⟨.k, 3⟩, ⟨.v, 2⟩, .zero, .zero, .always, false⟩),
  (0xD10100D02800047C, .tld ⟨0, 0, 1, ⟨.k, 3⟩, ⟨.v, 2⟩, 0x80, 0x4, .always, false⟩),
  (0xD20000D02FF0007C, .tst ⟨0, 0, 0, ⟨.k, 3⟩, ⟨.v, 2⟩, 0xFF, 0x0, .always, false⟩),
  (0xD30003C00000007C, .tzero ⟨.i32, 0, ⟨.k, 15⟩, .zero, .zero, .zero, .always, false⟩),
  (0xD40A40800000007C, .mxa ⟨0, 5, ⟨.v, 2⟩, .zero, 0, .always, false⟩),
  (0xD50000800000007C, .acz ⟨.i32, 0, ⟨.k, 2⟩, .zero, .zero, .zero, .always, false⟩),
  (0xD60240804000007C, .acv ⟨0, 1, ⟨.v, 2⟩, ⟨.k, 4⟩, 0, .always, false⟩),
  (0xD70200502800007C, .acld ⟨0, 0, 2, ⟨.k, 1⟩, ⟨.v, 2⟩, 0x80, 0x0, .always, false⟩),
  (0xD80100502FF0087C, .acst ⟨0, 0, 1, ⟨.k, 1⟩, ⟨.v, 2⟩, 0xFF, 0x8, .always, false⟩)]

def engineWords : List (Nat × Instr) := [
  (0xE00040800000007C, .cpy ⟨0, 0, ⟨.v, 2⟩, .zero, 0, .always, false⟩),
  (0xE10040903000007C, .cpyl ⟨0, 0, ⟨.v, 2⟩, ⟨.v, 3⟩, 0, .always, false⟩),
  (0xE20040800020007C, .hred ⟨0, 0, ⟨.v, 2⟩, .zero, 2, .always, false⟩),
  (0xE30040800000007C, .hgat ⟨0, 0, ⟨.v, 2⟩, .zero, 0, .always, false⟩),
  (0xE40040800010007D, .hfetch ⟨0, 0, ⟨.v, 2⟩, .zero, 1, .always, true⟩),
  (0xE50040800000007C, .lyrq ⟨0, 0, ⟨.v, 2⟩, .zero, 0, .always, false⟩),
  (0xE60040800000007C, .inst ⟨0, 0, ⟨.v, 2⟩, .zero, 0, .always, false⟩),
  (0xE70040800000007C, .instqQuery ⟨0, 0, ⟨.v, 2⟩, .zero, 0, .always, false⟩),
  (0xE71040800000007C, .instqAbort ⟨1, 0, ⟨.v, 2⟩, .zero, 0, .always, false⟩)]

def systemWords : List (Nat × Instr) := [
  (0xF06041000100007C, .prvr ⟨6, ⟨.v, 4⟩, .zero, 0x100, .always, false⟩),
  (0xF14000102101007C, .prvw ⟨4, .zero, ⟨.v, 2⟩, 0x101, .always, false⟩),
  (0xF20000102000007C, .eret ⟨0, .zero, ⟨.v, 2⟩, 0x0, .always, false⟩),
  (0xF30000102123007C, .sysc ⟨0, .zero, ⟨.v, 2⟩, 0x123, .always, false⟩),
  (0xF41041102010007C, .mtrr ⟨1, ⟨.v, 4⟩, ⟨.v, 2⟩, 0x10, .always, false⟩),
  (0xF51041102000007C, .sign ⟨1, ⟨.v, 4⟩, ⟨.v, 2⟩, 0x0, .always, false⟩)]

/-- Every word of a list decodes to the instruction beside it. -/
abbrev DecodesTo (l : List (Nat × Instr)) : Prop := l.all (fun e => decide (decodeWord e.1 = .instr e.2)) = true

theorem test_decode_control : DecodesTo controlWords := by decide +kernel
theorem test_decode_integer : DecodesTo integerWords := by decide +kernel
theorem test_decode_immediate : DecodesTo immediateWords := by decide +kernel
theorem test_decode_float : DecodesTo floatWords := by decide +kernel
theorem test_decode_long : DecodesTo longWords := by decide +kernel
theorem test_decode_convert : DecodesTo convertWords := by decide +kernel
theorem test_decode_pred : DecodesTo predWords := by decide +kernel
theorem test_decode_memory : DecodesTo memoryWords := by decide +kernel
theorem test_decode_tile : DecodesTo tileWords := by decide +kernel
theorem test_decode_engine : DecodesTo engineWords := by decide +kernel
theorem test_decode_system : DecodesTo systemWords := by decide +kernel
/-- Words that must be refused, with the cause and the position (R94-R96): an unassigned opcode, a reserved bit, a level code in a
predicate's number field, FSEL on a word that has none, and guard 24. -/
theorem test_decode_refuses :
    decodeWord 0x0E0000000000007C = .bad .opcode 56 ∧ decodeWord 0x00000000000000FC = .bad .rsvbit 7 ∧
      decodeWord 0x80024050240C007C = .bad .field 38 ∧ decodeWord 0x10014110240C007D = .bad .field 0 ∧
      decodeWord 0x10014110240C0060 = .bad .field 2 := by decide +kernel

/-! ### The hypotheses of the obligations are met

Each theorem test_<name>_met shows concrete states and operands that meet the hypotheses of Obligations.<name>, clause by clause; where
the clauses part a range, a value at their meeting is among them. -/

/-- What the rule of each word asks of its issue beside its operand fields. -/
def needOf (i : Instr) (s : State) : Need :=
  match i with
  | .call _ => { writes := [.v 0, .v 1] }
  | .bnd _ => { nested := true, survivors := true }
  | .ld f | .ldq f => { memaff := true, point := f.ord.toNat == 1, miss := true, reads := rbRegs f.rb }
  | .lds f => { memaff := true, point := f.ord.toNat == 1, reads := rbRegs f.rb }
  | .st f | .sts f => { memaff := true, point := f.ord.toNat == 2, reads := rbRegs f.rb }
  | .atom f | .red f => { memaff := true, point := true, miss := true, reads := rbRegs f.rb }
  | .atoms f | .tbinit f | .tbexp f | .tbarv f => { memaff := true, point := true, reads := rbRegs f.rb }
  | .prf f => { reads := rbRegs f.rb }
  | .tbtest f => { memaff := true, point := f.ord.toNat == 1, writes := [.p f.rb.toNat] }
  | .waita f => { memaff := true, point := f.ord.toNat == 1, miss := !f.spm }
  | .fence _ | .bar _ | .barc _ | .sysc _ => { memaff := true, point := true }
  | .tcfg f | .tzero f => { tiles := [.t f.d.idx.toNat] }
  | .acz f => { tiles := [.acc f.d.idx.toNat] }
  | .tld f => { memaff := true, tiles := [.t f.d.idx.toNat], reads := rbRegs f.rb }
  | .tst f => { memaff := true, point := true, tiles := [.t f.d.idx.toNat], reads := rbRegs f.rb }
  | .acld f => { memaff := true, miss := !f.accSpm, tiles := [.acc f.d.idx.toNat], reads := rbRegs f.rb }
  | .acst f => { memaff := true, point := true, tiles := [.acc f.d.idx.toNat], reads := rbRegs f.rb }
  | .mxa f => { memaff := true, point := true, nested := true, slot := some f.slot.toNat }
  | .cpy _ | .cpyl _ | .hred _ | .hgat _ | .hfetch _ | .lyrq _ | .inst _ | .instqQuery _ | .instqAbort _ =>
    { memaff := true, point := true, nested := true }
  | .prvr _ | .prvw _ | .eret _ => { priv := true }
  | .mtrr f => { priv := f.sub.toNat == 1 }
  | .sign f => { memaff := true, point := true, priv := f.sub.toNat == 1 }
  | i => wordNeed i s

/-- The word is well formed and, placed in the small machine that f sets up, issues with the property p. -/
def issues (i : Instr) (f : State → State) (p : Issue → Bool) : Bool :=
  decide (WellFormed i) && (encode i).any (fun w => (issueOf i (f (put w)) (needOf i (f (put w)))).any p)

/-- As issues, from the small machine as it is, with passing lanes. -/
def plain (i : Instr) : Bool := issues i id (fun x => x.pass != 0)

/-- The small machine at a word w, changed in its group. -/
def grp (f : Group → Group) (s : State) : State := s.modGrp 0 f

/-- Format slots 5 and 6 hold the values of the table of R64: T2 × i8 with bf16 output, and q8 × q8 with f32 output. -/
def slots (s : State) : State := s.modPhase 0 (fun p => { p with record := { p.record with slots := [0, 0, 0, 0, 0, 0x03602000, 0x55290000, 0] } })
/-- Kerb slots 0 to 7 hold 7 in every lane. -/
def kerbs (s : State) : State :=
  grp (fun g => { g with kerb := (List.range 512).map (fun k => (k, 7)) }) s

/-- Two entries of the group, the second of higher PRIO, at words of their own clauses. -/
def twoEntries (s : State) : State :=
  grp (fun g => { g with entries := [
    { pc := 8, prio := 3, mask := 0xFFFFFFFF, clause := some ⟨0, plainHeader 1, [0x7C]⟩ },
    { pc := 8, prio := 5, mask := 0xFFFFFFFF00000000, clause := some ⟨0, plainHeader 1, [0x7C]⟩ }] }) s
/-- A state whose agenda is one turn. -/
def turn (t : Turn) (s : State) : State := { s with agenda := [t] }
/-- The group's clause has ended: the entry is at a header. -/
def atHeader (s : State) : State := grp (fun g => { g with entries := [{ pc := 0, prio := 0, mask := allLanes }] }) s

/-- A second active group in the same quarter, at the same word. -/
def twoGroups (s : State) : State := { s with groups := [(0, s.grp 0), (1, s.grp 0)] }

theorem test_FrontierOrder_met :
    ((put 0x7C).activeSet 0).map (·.1) = [0] ∧ (twoGroups (put 0x7C)).mayIssue 0 = true ∧
    ((twoGroups (put 0x7C)).activeSet 0).map (·.1) = [0, 1] ∧ (twoGroups (put 0x7C)).issues 1 = true ∧
    ((twoEntries (put 0x7C)).pick 0).any (fun e => e.prio == 5) = true ∧
    (grp (fun g => { g with entries := [] }) (put 0x7C)).pick 0 = none ∧
    (put 0x7C).mayIssue 0 = true ∧ (put 0x7C).pipeHeld 0 0 = true ∧ ((put 0x7C).pick 0).isSome = true ∧
    -- a word that waits: a store while a fence of its lanes is pending
    (let s := (put 0x7C).addOp { gid := 0, pc := 0, flag := none, lanes := 1, entry := 1, pending := true, kind := .fence 0 1 0 }
     (match (s.grp 0).entryAt 0, (Instr.st (fm 0 0 0 0)).info with
      | some e, some f => s.holds 0 e f { memaff := true }
      | _, _ => false)) = true := by decide +kernel

theorem test_StepRunsDecoded_met :
    (let s := turn (.issue 0) (put 0x7C)
     s.mayIssue 0 = true ∧ s.pipeHeld 0 0 = true ∧ s.inTurn 0 = true ∧ (s.pick 0).any (fun e => e.clause.isSome && !s.suspects 0 e &&
       decide (decodeWord e.word = .instr (.nop (ctl .always)))) = true) ∧
    (let s := turn (.issue 0) (put 0x0E0000000000007C)
     (s.pick 0).any (fun e => e.clause.isSome && decide (decodeWord e.word = .bad .opcode 56)) = true) ∧
    ((turn (.issue 0) (atHeader (put 0x7C))).pick 0).any (fun e => e.clause.isNone && decide (lowLane e.mask = some 0)) = true ∧
    (turn (.event .quantumBoundary) (put 0)).agenda = [.event .quantumBoundary] ∧ (turn (.idle 7) (put 0)).agenda = [.idle 7] ∧
    (put 0).agenda = [] ∧ decodeWord (2 ^ 64 - 1) ≠ .short ∧
    decodeWord 0x000000000000007C = .instr (.nop (ctl .always)) := by decide +kernel

/-- Two entries at the words w and 0x7C of clauses with the header h, their lanes in quads apart. -/
def apartEntries (h w : Nat) (s : State) : State :=
  grp (fun g => { g with entries := [
    { pc := 8, prio := 5, mask := 0xFFFFFFFF, clause := some ⟨0, h, [w, 0x7C]⟩ },
    { pc := 8, prio := 3, mask := 0xFFFFFFFF00000000, clause := some ⟨0, h, [0x7C, 0x7C]⟩ }] }) s
/-- The hypotheses of the turn for two: the group has its turn, its first entry issues or waits as told, and whether the second is
one that may issue beside it. -/
def dualMet (s : State) (moves two : Bool) : Bool :=
  match s.pick 0, s.turn 0, (s.grp 0).entries with
  | some e, .next t, [_, x] =>
    let able := fun (y : Entry) => s.dualOk 0 y && !y.handler && y.clause.isSome &&
      (match decodeWord y.word with
       | .instr i => pipeCycles i == 1
       | _ => false)
    s.mayIssue 0 && s.pipeHeld (s.coreOf 0) (s.grp 0).quarter && t.moved 0 e == moves && e.prio == 5 && e.mask != 0 &&
      s.canGo 0 x && (List.range 64).all (fun l => (List.range 64).all (fun k =>
        !(e.mask.getLsbD l && x.mask.getLsbD k) || l / 4 != k / 4)) &&
      (able e && able x) == two && (t.grp 0).entries.contains x && lowLane x.mask == some 32
  | _, _, _ => false
theorem test_StepRunsDecoded_dual_met :
    let dual := plainHeader 2 + 2 ^ 28
    dualMet (apartEntries dual 0x7C (put 0)) true true = true ∧ dualMet (apartEntries (plainHeader 2) 0x7C (put 0)) true false = true ∧
    -- the first waits at its store for a fence of its lanes
    (encode (.st (fm 0 0 0 0))).any (fun w => dualMet ((apartEntries dual w (put 0)).addOp
      { gid := 0, pc := 0, flag := none, lanes := 1, entry := 1, pending := true, kind := .fence 0 1 0 }) false true) = true := by decide +kernel

/-- Well-formed instructions of every format, and the words they have. -/
theorem test_DecodeOfEncode_met : [controlWords, integerWords, immediateWords, floatWords, longWords, convertWords, predWords,
    memoryWords, tileWords, engineWords, systemWords].all (fun l => l.all (fun e =>
      decide (WellFormed e.2) && decide (encode e.2 = some e.1))) = true := by decide +kernel


theorem test_DecodeRefuses_met :
    Table.assigned 0xFF = false ∧ Table.assigned 0x10 = true ∧
    (let w := 0x10014110240C00FC
     Table.reserved 0x10 w 7 = true ∧ ∀ q, q < 7 → Table.reserved 0x10 w q = false) ∧
    [(0x10014110240C007D, 0), (0x10014110240C0060, 2), (0x10014110240C0078, 2), (0x10014110240C007E, 1), (0x10F94110240C007C, 49)].all (fun e =>
      (List.range 64).all (fun p => !Table.reserved 0x10 e.1 p) && (Table.offends 0x10 e.1).contains e.2 &&
        (Table.offends 0x10 e.1).all (fun q => e.2 ≤ q)) = true ∧
    (let w := 0x10014110240C007C
     (List.range 64).all (fun p => !Table.reserved 0x10 w p) = true ∧ Table.offends 0x10 w = []) := by decide +kernel

theorem test_IntegerArithmetic_met : (integerWords ++ immediateWords).all (fun e => plain e.2) = true := by decide +kernel
theorem test_FloatArithmetic_met : (floatWords ++ longWords ++ predWords).all (fun e => plain e.2) = true ∧
    FFmt.f16.value 0x7E01 = .nan ∧ FFmt.f16.value 0x3C00 = .fin false 0x400 (-10) ∧
    (FVal.fin true 0 0).below (.fin false 0 0) ∧ (FVal.inf true).below (.fin true 5 9) :=
  ⟨by decide +kernel, by decide +kernel, by decide +kernel, Or.inr ⟨rfl, rfl, rfl, rfl⟩, rfl⟩
theorem test_CarryChain_met : plain (.iaddc ⟨.i32, 0, ⟨.v, 4⟩, ⟨.v, 2⟩, ⟨.v, 3⟩, ⟨.k, 5⟩, .always, false⟩) = true ∧
    plain (.isubb ⟨.n64, 0, ⟨.v, 4⟩, ⟨.v, 2⟩, ⟨.v, 6⟩, ⟨.k, 23⟩, .always, false⟩) = true := by decide +kernel
theorem test_ShiftsAndRotations_met :
    [Instr.shl (v3 .b32 0), .shr (v3 .n32 0), .sha (v3 .i32 0), .rot (v3 .b32 0), .shlImm (vi .b32 0 32), .shrImm (vi .b32 0 31),
      .shaImm (vi .i32 0 0xFFFFF), .rotImm (vi .b32 0 32)].all plain = true ∧
    signedOf 20 (0x80000 : BitVec 20).toNat < 0 := by decide +kernel
theorem test_LogicAndBitCounts_met :
    (let u := { v3 .b32 0 with b := .zero }
     [Instr.andw (v3 .b32 0), .orw (v3 .b32 0), .xorw (v3 .b32 0), .andn (v3 .b32 0), .notw u, .andImm (vi .b32 0 1),
       .orImm (vi .b32 0 1), .xorImm (vi .b32 0 1), .lop3 { v3 .f16 6 with c := ⟨.v, 5⟩ }, .popc u, .clz u, .ctz u, .brev u].all plain = true) ∧
    -- the V register below the allocation that a 32-bit result may take
    levelBad 256 (.dst 32) ⟨.v, 255⟩ = false ∧ levelBad 8 (.dst 32) ⟨.v, 7⟩ = false ∧ levelBad 8 (.dst 32) ⟨.v, 8⟩ = true := by
  decide +kernel
theorem test_FieldsAndBytes_met :
    (let t := { v3 .b32 0 with c := ⟨.v, 5⟩ }
     [Instr.bfx (v3 .i32 0), .bfi t, .bfxImm (vi .n32 0 0x804), .bfiImm (vi .b32 0 0xA5408), .prmt t, .prmtImm (vi .b32 0 0xA418)].all
       plain = true) ∧
    (let i : BitVec 20 := 0x00908
     8 < bitsOf i.toNat 11 8 ∧ bitsOf i.toNat 7 6 = 0 ∧ (encode (.bfiImm (vi .b32 0 i))).isSome = true) ∧
    (let i : BitVec 20 := 0x000C0
     i.toNat / 2 ^ (5 * 0) % 8 < 6 ∧ 6 ≤ i.toNat / 2 ^ (5 * 1) % 8 ∧ (encode (.prmtImm (vi .b32 0 i))).isSome = true) := by decide +kernel
theorem test_AddressesAndDotProducts_met :
    [Instr.lea (v3 .i32 3), .leaw { v3 .n32 2 with b := ⟨.v, 6⟩ }, .leaImm (vi .i32 2 0x10), .dp4 { v3 .i32 1 with c := ⟨.v, 5⟩ }].all
      plain = true := by decide +kernel

theorem test_RoundingHelper_met : (0 : Nat) < 1 ∧ (0 : Nat) < 3 ∧ rndIntQ .rn true 1 3 = 0 ∧ FFmt.f16.value (rndQ .f16 .rn false 65520 1) = .inf false := by
  decide +kernel
theorem test_ExactResults_met :
    (FVal.fin false 3 (-1)).isFin = true ∧ (∀ t ∈ [FVal.fin true 1 0, .fin false 0 0], t.isFin = true) ∧
    FVal.nan ∈ [FVal.nan] ∧ (FVal.inf true ∈ [FVal.inf true, .inf false] ∧ FVal.inf false ∈ [FVal.inf true, .inf false]) ∧
    (let ts := [FVal.fin true 0 3, .fin true 0 0, .fin true 0 (-1)]
     (ts.map FVal.toRat).sum = 0 ∧ ∀ t ∈ ts, t.isFin = true ∧ t.isZero = true ∧ t.isNeg = true) ∧
    (let ts := [FVal.fin false 2 0, .fin true 1 1, .fin false 0 0]
     (ts.map FVal.toRat).sum = 0 ∧ (∀ t ∈ ts, t.isFin = true) ∧ ¬ ∃ neg, ∀ t ∈ ts, t.isZero = true ∧ t.isNeg = neg) ∧
    FVal.inf true ∈ [FVal.inf true] ∧ FVal.nan ∉ [FVal.inf true] ∧ FVal.inf false ∉ [FVal.inf true] := by decide +kernel
theorem test_FloatUnaryAndImmediate_met :
    (floatWords.drop 8).all (fun e => plain e.2) = true ∧
    [Instr.faddImm (vi .f32 0 0x3FC00), .fmulImm (vi .f32 3 0x40000), .fminImm (vi .f32 0 0xBF800), .fmaxImm (vi .f32 0 0)].all plain = true ∧
    FFmt.f32.value 0x3F800000 = .fin false (2 ^ 23) (-23) ∧ (2 ^ 23 : Nat) ≠ 0 ∧
    FFmt.bf16.value 0x7F81 = .nan ∧ FFmt.bf16.value 0xFF80 = .inf true ∧ FFmt.bf16.value 0x8000 = .fin true 0 (-133) ∧
    (let x := (FVal.fin true 3 (-1)).toRat
     x ≠ ⌊x⌋ ∧ FFmt.f16.value 0xBE00 = .fin true 0x600 (-10) ∧ ((3 : Nat) : ℚ) / (1 : Nat) = |x| * 2 ^ (1 : Int)) := by
  refine ⟨by decide +kernel, by decide +kernel, by decide +kernel, by decide +kernel, by decide +kernel, by decide +kernel, by decide +kernel, ?_⟩
  have h : (FVal.fin true 3 (-1)).toRat = -3 / 2 := by simp [FVal.toRat]; norm_num
  refine ⟨?_, by decide +kernel, ?_⟩
  · rw [h]
    have : ⌊(-3 / 2 : ℚ)⌋ = -2 := by rw [Int.floor_eq_iff]; norm_num
    rw [this]
    norm_num
  · rw [h]
    norm_num [abs_of_neg]

/-- An in-flight instruction of group 0 at identifier 5. -/
def opAt (o : Op) (s : State) : State := { s with ops := [(5, { o with gid := 0 })] }
theorem test_LongLatency_met :
    longWords.all (fun e => plain e.2) = true ∧
    issues (.fdiv { v3 .f32 0 with g := .pred 2 false }) id (fun x => x.pass == 0) = true ∧
    (let o : Op := { gid := 0, pc := 8, flag := some 3, lanes := 1, entry := 1, dst := ⟨.v, 6⟩, ty := .f32, regs := [.v 6], kind := .func [(0, 1)] }
     KMap.find? (opAt o (put 0)).ops 5 = some o ∧ o.kind = .func [(0, 1)] ∧ o.committed = false ∧
     ({ o with committed := true } : Op).committed = true) := by decide +kernel
theorem test_LongLatency_values_met :
    let F := FFmt.f32
    F.value 0x7FC00000 = .nan ∧ F.value 0x7F800000 = .inf false ∧ F.value 0xFF800000 = .inf true ∧
    F.value 0x80000000 = .fin true 0 (-149) ∧ F.value 0xC0400000 = .fin true (3 * 2 ^ 22) (-22) ∧
    -- A = 1/2, of which 2^A, sin A and cos A are decided, and A = 3, of which log2 A is
    F.value 0x3F000000 = .fin false (2 ^ 23) (-24) ∧ F.value 0x40400000 = .fin false (3 * 2 ^ 22) (-22) ∧
    ((2 ^ 23 : Nat) : Int) = (if false then -1 else 1) * (2 ^ 23 : Nat) - 0 * 2 ^ 24 ∧ (2 ^ 23 : Nat) < 2 ^ 24 ∧
    (2 ^ 23 : Nat) < 3 * 2 ^ 22 ∧ 3 * 2 ^ 22 < (2 ^ (23 + 1) : Nat) := by decide +kernel
theorem test_LongLatency_decides_met :
    let F := FFmt.f32
    F.decides .rn 0 (exp2Encl (2 ^ 23) 24) ∧ F.decides .rn 0 (log2Encl (-22 + (23 : Nat)) (3 * 2 ^ 22) 23) ∧
    F.decides .rn 0 (fun p => ⟨(if false then -1 else 1) * (trigEncl false (2 ^ 23) (-24) p).s, (trigEncl false (2 ^ 23) (-24) p).err⟩) ∧
    F.decides .rn 0 (trigEncl true (2 ^ 23) (-24)) :=
  ⟨⟨96, by decide, by decide +kernel⟩, ⟨96, by decide, by decide +kernel⟩, ⟨96, by decide, by decide +kernel⟩, ⟨96, by decide, by decide +kernel⟩⟩
theorem test_LongLatency_exact_met :
    -- an integral A, one beyond the range of the format, 1, and another power of two
    (let x : ℝ := ((FVal.fin false (3 * 2 ^ 22) (-22)).toRat : ℚ)
     x = ⌊x⌋) ∧
    (let x : ℝ := ((FVal.fin false (2 ^ 23) (-12)).toRat : ℚ)
     FFmt.f32.value 0x45000000 = .fin false (2 ^ 23) (-12) ∧ 1024 ≤ ⌊x⌋) ∧
    (FFmt.f32.value 0x3F800000 = .fin false (2 ^ 23) (-23) ∧ (((FVal.fin false (2 ^ 23) (-23)).toRat : ℚ) : ℝ) = 1) ∧
    (FFmt.f32.value 0x40800000 = .fin false (2 ^ 23) (-21) ∧ (((FVal.fin false (2 ^ 23) (-21)).toRat : ℚ) : ℝ) = 2 ^ (2 : Int)) := by
  have h3 : (((FVal.fin false (3 * 2 ^ 22) (-22)).toRat : ℚ) : ℝ) = ((3 : Int) : ℝ) := by simp [FVal.toRat]; norm_num
  have h2048 : (((FVal.fin false (2 ^ 23) (-12)).toRat : ℚ) : ℝ) = ((2048 : Int) : ℝ) := by simp [FVal.toRat]; norm_num
  refine ⟨?_, ⟨by decide +kernel, ?_⟩, ⟨by decide +kernel, ?_⟩, by decide +kernel, ?_⟩
  · simp only [h3, Int.floor_intCast]
  · simp only [h2048, Int.floor_intCast]; norm_num
  · simp [FVal.toRat]; norm_num
  · simp [FVal.toRat]; norm_num
theorem test_Conversions_met :
    [Instr.cvt { v3 .f32 0 with b := .zero }, .cvt { v3 .i32 2 with b := .zero }, .cvt { v3 .i8 1 with b := .zero }, .cvt (v3 .f16x2 2),
      .packt { v3 .b32 1 with c := ⟨.v, 5⟩ }, .unpkt { v3 .b32 0 with c := ⟨.k, 6⟩ }, .pack { v3 .i32 1 with c := ⟨.v, 5⟩ },
      .unpk (v3 .n32 2)].all plain = true ∧
    [Instr.cvq (v3 .f32 5), .cvq (v3 .f16 13), .cvd { v3 .f32 5 with c := ⟨.k, 7⟩ }, .cvd { v3 .bf16 14 with c := ⟨.k, 7⟩ }].all
      (fun i => issues i slots (fun x => x.pass != 0 && (Slot.decode (x.phase.slot 5)).isSome && (Slot.decode (x.phase.slot 6)).isSome)) =
      true := by decide +kernel

theorem test_DestinationRules_met :
    (lanesOf (0 : Mask)).map (fun l => (l, l)) = [] ∧ (1 : Mask).getLsbD 0 = true ∧ 3 < regCount 128 ∧
    ((8 : Mask).getLsbD 3 = true ∧ ∀ l, l < 3 → (8 : Mask).getLsbD l = false) := by decide +kernel

/-- Words of every group that write registers alone, from a group that nothing else acts on. -/
theorem test_RegisterWordsFrame_met :
    (integerWords ++ immediateWords ++ floatWords ++ predWords).all (fun e => issues e.2 id (fun x =>
      x.g.calm && x.pass != 0 && ((wordWrites e.2 x).isSome || (e.2.info.map (fun f => f.op)).any (fun o => o == 0x87 || o == 0x8F)))) = true ∧
    [Instr.nop (ctl .always), .yield (ctl .always), .movx (v3 .b32 0), .pmov { v3 .b32 1 with d := .zero, b := .zero }].all
      (fun i => issues i id (fun x => x.g.calm && (wordWrites i x).isSome)) = true ∧
    issues (.cvq (v3 .f32 5)) slots (fun x => x.g.calm && (wordWrites (.cvq (v3 .f32 5)) x).isSome) = true := by decide +kernel

theorem test_PredicateWords_met :
    (predWords.take 4).all (fun e => plain e.2) = true ∧
    [Instr.elect { ctl .always with d := ⟨.k, 5⟩ }, .icmp { v3 .b64 1 with d := ⟨.k, 0⟩, b := ⟨.v, 4⟩ }, .icmp { v3 .i32 5 with d := ⟨.k, 23⟩ },
      .fcmp { v3 .f32 6 with d := ⟨.k, 1⟩ }, .fcmp { v3 .bf16 7 with d := ⟨.k, 1⟩ }, .pmov { v3 .b32 0 with a := .zero, b := .zero },
      .pmov { v3 .b32 1 with d := .zero, b := .zero }].all plain = true ∧
    FFmt.f32.value 0x7FC00000 = .nan ∧ (FFmt.f32.value 0x3F800000).isFin = true := by decide +kernel

/-- Lane 0 holds x in v3. -/
def v3Is (x : Word) (s : State) : State := grp (fun g => { g with v := [(3 * 64, x)] }) s
theorem test_Moves_met :
    [Instr.sel { v3 .b32 0 with c := ⟨.k, 3⟩ }, .mov { v3 .b64 0 with b := .zero }, .movi ⟨.b32, 1, ⟨.v, 2⟩, .zero, 5, .always, false⟩,
      .movi ⟨.b32, 0, ⟨.v, 2⟩, .zero, 0xFFFFF, .always, false⟩].all plain = true ∧
    -- an index at the allocation, one below it, one below 0, and one at its limit
    (let idx := fun (x : Issue) => (2 : Int) + signedOf 32 (x.src ⟨.v, 3⟩ 32 0)
     issues (.movx (v3 .b32 0)) (v3Is 254) (fun x => x.pass.getLsbD 0 && decide (idx x ≥ x.g.regs)) = true ∧
     issues (.movx (v3 .b32 0)) (v3Is 253) (fun x => (lanesOf x.pass).all (fun l => decide ((2 : Int) + signedOf 32 (x.src ⟨.v, 3⟩ 32 l) < x.g.regs))) = true ∧
     issues (.movx (v3 .b32 0)) (v3Is 0xFFFFFFFD) (fun x => decide (idx x < 0)) = true ∧
     issues (.movx { v3 .b32 1 with c := ⟨.v, 5⟩ }) id (fun x => decide (signedOf 32 (x.src ⟨.v, 3⟩ 32 0) ≥ x.src ⟨.v, 5⟩ 32 0)) = true ∧
     issues (.movxs { v3 .b32 0 with d := ⟨.v, 8⟩ }) (v3Is 0) (fun x => x.pass != 0) = true ∧
     issues (.movxs { v3 .b32 0 with d := ⟨.v, 8⟩, a := ⟨.v, 3⟩, b := ⟨.v, 2⟩ }) id (fun x => x.pass != 0) = true) := by decide +kernel

theorem test_CrossLaneWords_met :
    (predWords.drop 8).take 5 |>.all (fun e => plain e.2) := by decide +kernel
theorem test_CrossLaneWords_kinds_met :
    [Instr.lred { v3 .i32 0 with b := .zero }, .lred { v3 .i32 1 with b := .zero }, .lred { v3 .n32 2 with b := .zero },
      .lred { v3 .b32 3 with b := .zero }, .lred { v3 .b32 4 with b := .zero }, .lred { v3 .b32 5 with b := .zero },
      .shfl { v3 .b32 3 with c := ⟨.k, 2⟩ }, .vote ⟨.i32, 3, ⟨.k, 1⟩, ⟨.k, 2⟩, .zero, .zero, .always, false⟩].all plain = true ∧
    issues (.bcast { v3 .b32 0 with g := .pred 2 false }) id (fun x => x.pass == 0) = true ∧
    issues (.bcast (v3 .b32 0)) id (fun x => x.pass.getLsbD 0) = true := by decide +kernel
theorem test_CrossLaneWords_float_met :
    let w := fun (mod : BitVec 4) => Instr.lred { v3 .f32 mod with b := .zero }
    [w 0, w 1, w 2].all (fun i =>
      issues i id (fun x => x.pass != 0 && (lanesOf x.pass).any (fun l => decide (FFmt.f32.value (x.src ⟨.v, 2⟩ 32 l) ≠ .nan))) &&
      issues i (grp (fun g => { g with v := (List.range 64).map (fun l => (2 * 64 + l, 0x7FC00000)) }))
        (fun x => x.pass != 0 && (lanesOf x.pass).all (fun l => decide (FFmt.f32.value (x.src ⟨.v, 2⟩ 32 l) = .nan)))) = true := by
  decide +kernel

/-- Code at address 0: eight-byte words, the extent of the launch as long. -/
def code (l : List Nat) (s : State) : State :=
  let s1 := { s with mem := l.zipIdx.flatMap (fun (e : Nat × Nat) => bytesAt (8 * e.2) 8 e.1) ++ s.mem }
  s1.modPhase 0 (fun p => { p with record := { p.record with codeExt := 8 * l.length } })
/-- Two plain clauses, a handler clause at 32, a strand-entry clause at 48, and two reserved headers: a length of 0 at 64, and KIND 3 at
72. -/
def someCode (s : State) : State :=
  code [plainHeader 1, 0x7C, plainHeader 1, 0x7C, plainHeader 1 + 2 * 2 ^ 30, 0x0D0000000000007C, plainHeader 1 + 2 ^ 30 + 9 * 2 ^ 32, 0x7C,
    0xFF * 2 ^ 40, plainHeader 1 + 3 * 2 ^ 30, 0x7C] s
/-- v2 holds x in every lane. -/
def v2Is (x : Word) (s : State) : State := grp (fun g => { g with v := (List.range 64).map (fun l => (2 * 64 + l, x)) }) s
/-- The lanes of a branch that go. -/
def goes (f : FBr) (x : Issue) : Mask :=
  match f.cond.toNat with
  | 0 => x.pass
  | 1 => if x.pass = 0 then 0 else x.e.mask
  | _ => if x.pass = x.e.mask then x.e.mask else 0
/-- A branch of a condition, priority 7 and an offset, under guard p3 or not p3. -/
def br (cond : BitVec 4) (offs : BitVec 32) (neg : Bool) : FBr := ⟨cond, 7, offs, .pred 3 neg, false⟩
/-- isHeader answers b. -/
def header (s : State) (gid target : Nat) (b : Bool) : Bool :=
  match s.isHeader gid target with
  | .ok c => c == b
  | .error _ => false

theorem test_ControlTransfers_met :
    [Instr.bra (br 0 1 false), .bra (br 1 1 false), .bra (br 2 1 false), .call (br 0 1 false)].all
      (fun i => issues i someCode (fun x => goes (br 0 1 false) x == 0 && x.pass == 0)) = true ∧
    [(Instr.bra (br 0 1 true), 16, true), (.bra (br 1 (-1) true), 0, true), (.bra (br 2 2 true), 24, false), (.call (br 0 1 true), 16, true),
        (.call (br 0 2 true), 24, false), (.bra (br 0 10 true), 88, false)].all
      (fun e => issues e.1 someCode (fun x => x.pass == allLanes && header x.s x.gid e.2.1 e.2.2)) = true ∧
    (let a := { ctl .always with a := ⟨.v, 2⟩ }
     [Instr.brx a, .ret a, .callx { a with d := ⟨.v, 6⟩ }].all (fun i =>
       issues i (v2Is 16 ∘ someCode) (fun x => x.pass == allLanes && header x.s x.gid (x.src ⟨.v, 2⟩ 64 0) true) &&
       issues i (v2Is 24 ∘ someCode) (fun x => x.pass == allLanes && header x.s x.gid (x.src ⟨.v, 2⟩ 64 0) false) &&
       issues i (v2Is 87 ∘ someCode) (fun x => header x.s x.gid (x.src ⟨.v, 2⟩ 64 0) false))) = true := by decide +kernel

/-- The code segment, of 32 bytes, starts at an address beyond the first GiB, where no page is present, or no range at all. -/
def farCode (base : Nat) (s : State) : State :=
  (s.modCtx 0 (fun c => { c with ranges := [(1, 0x80000000), (3, 0x3D)] })).modPhase 0 (fun p =>
    { p with record := { p.record with codeBase := base, codeExt := 32 } })
/-- The headers of the far code as kld has loaded them: its first word alone. -/
def farLoaded (base : Nat) (s : State) : State :=
  { (farCode base s) with codes := [{ ia := 7, size := 32, hash := 0, headers := [0] }] }.modPhase 0 (fun p => { p with codeIa := some 7 })
theorem test_ControlTransfers_noHeader_met :
    -- a page of the headers is not present, or faults: of code that no load names, and of code whose load names none at the target
    [0x40000000, 0x80000000].all (fun b => [farCode b (put 0), farLoaded b (put 0)].all (fun s =>
      match s.isHeader 0 (b + 16) with
      | .error _ => s.loadedHeader 0 (b + 16) == s.codes.isEmpty
      | .ok _ => false)) = true ∧
    header (someCode (put 0)) 0 0 true = true ∧ header (someCode (put 0)) 0 16 true = true ∧
    (match (someCode (put 0)).fetchWord 0 16 with
     | .ok h => decide (16 + 8 * (h / 2 ^ 60 + 1) = 32)
     | .error _ => false) = true := by decide +kernel

/-- One more word after the placed one in its clause. -/
def longer (s : State) : State := grp (fun g => { g with entries := g.entries.map (fun e =>
  { e with clause := e.clause.map (fun c => ⟨c.hdr, plainHeader 2, c.words ++ [0x7C]⟩) }) }) s
/-- A group with an entry at RCV in the low lanes and one elsewhere in the high lanes, which has exited or waits at the same RCV. -/
def atRcv (other : Wait) (exited : Mask) : Group :=
  { entries := [{ pc := 8, prio := 3, mask := 0xFFFFFFFF, wait := .rcv, clause := some ⟨0, plainHeader 1, [0x080000000000007C]⟩ }] ++
      (if exited = 0 then [{ pc := 8, prio := 3, mask := 0xFFFFFFFF00000000, wait := other,
                             clause := some ⟨0, plainHeader 1, [0x080000000000007C]⟩ }] else [])
    exited := exited }
theorem test_JoinsAndEnds_met :
    [Instr.nop (ctl .always), .yield (ctl .always), .exit (ctl .always), .exit (ctl (.pred 3 false))].all (fun i => issues i longer (fun _ => true)) = true ∧
    (let b : Instr := .bnd ⟨.i32, 0, ⟨.v, 17⟩, ⟨.k, 2⟩, ⟨.v, 18⟩, ⟨.k, 5⟩, .always, false⟩
     issues b kerbs (fun x => x.e.advance.clause.isNone) && issues b (kerbs ∘ longer) (fun x => x.e.advance.clause.isSome)) = true ∧
    issues (.rcv (ctl .always)) id (fun x => decide (x.g.entries = [x.e]) && decide (x.e.mask = minus allLanes x.g.exited) && x.g.calm) = true ∧
    (let g := atRcv .none 0
     g.entries.any (fun e => e.wait == .rcv) && g.exited == 0 && g.parked == 0 &&
       !g.entries.any (fun y => y.wait == .rcv && y.mask.getLsbD 63)) = true ∧
    (let g := atRcv .rcv 0
     (List.range 64).all (fun l => g.entries.any (fun y => y.wait == .rcv && y.mask.getLsbD l) &&
       !g.exited.getLsbD l && !g.parked.getLsbD l)) = true ∧
    (let g := atRcv .rcv 0xFFFFFFFF00000000
     (List.range 64).all (fun l => g.entries.any (fun y => y.wait == .rcv && y.mask.getLsbD l) ==
       (!g.exited.getLsbD l && !g.parked.getLsbD l))) = true := by decide +kernel

/-- %utvec names the handler clause of someCode, and e is what a handler mode holds. -/
def handling (h : Option Handler) (inIt : Bool) (s : State) : State :=
  grp (fun g => { g with utvec := 32, handler := h, entries := g.entries.map (fun e => { e with handler := inIt }) }) (someCode s)
/-- The handler clause, where its page is first touched, is good or not. -/
def handlerIs (s : State) (b : Bool) : Bool :=
  match (s.touchHandler 0).handlerOk 0 with
  | .ok c => c == b
  | .error _ => false
/-- A handler that a trap of a cause started at 8. -/
def after (c : Cause) : Option Handler := some ⟨c, 16, none, 0⟩
/-- The word of the entry of lane 0 is i, waits for nothing, and has a property. -/
def stands (i : Instr) (n : Need) (s : State) (p : Group → Entry → Info → Bool) : Bool :=
  match (s.grp 0).entryAt 0, i.info with
  | some e, some f => !s.holds 0 e f n && p (s.grp 0) e f
  | _, _ => false
/-- No operand of the word is illegal, and no kerb source of it was cleared. -/
def legal (g : Group) (e : Entry) (f : Info) : Bool :=
  f.ops.all (fun x => !levelBad g.regs x.1 x.2.1 && x.1 != .tile && x.1 != .region) &&
    f.ops.all (fun x => (x.1 != .src 32 && x.1 != .upd 32) || x.2.1.lvl != .k || (lanesOf e.mask).all (fun l => g.kValid x.2.1.idx.toNat l))
theorem test_TrapTaken_checks_met :
    -- a tile and a region that the team lacks, an illegal K and S operand, a cleared kerb slot, and an invalid slot
    stands (.tzero ⟨.i32, 0, ⟨.v, 3⟩, .zero, .zero, .zero, .always, false⟩) { tiles := [.t 3] }
      ((put 0).modPhase 0 (fun p => { p with sched := { p.sched with tiles := 3 } })) (fun _ _ f => f.ops.any (fun x => x.1 == .tile && decide (3 ≤ x.2.1.idx.toNat))) = true ∧
    stands (.iadd { v3 .i32 0 with a := ⟨.k, 8⟩ }) {} (put 0) (fun _ _ f => f.ops.any (fun x => x.1 == .src 32 && x.2.1.lvl == .k && decide (8 ≤ x.2.1.idx.toNat)) &&
      f.ops.all (fun x => x.1 != .tile && x.1 != .region)) = true ∧
    stands (.iadd { v3 .i32 0 with a := ⟨.k, 7⟩ }) {} (put 0) (fun g e f => f.ops.all (fun x => !levelBad g.regs x.1 x.2.1) && !g.kValid 7 0 && e.mask.getLsbD 0) = true ∧
    stands (.cvq (v3 .f32 5)) { slot := some 5 } (put 0) (fun g e f => legal g e f && (Slot.decode (((put 0).phaseOf 0).slot 5)).isNone) = true ∧
    -- a memory-affecting word of a sealed lane, a poisoned register, and a write of a register that the strand has read
    stands (.st (fm 0 0 0 0)) { memaff := true } (grp (fun g => { g with sealed := 2 }) (put 0)) (fun g e f => legal g e f && (g.sealed &&& e.mask) != 0) = true ∧
    stands (.iadd (v3 .i32 0)) {} (grp (fun g => { g with vpoison := [(2, 2)] }) (put 0)) (fun g e f => legal g e f &&
      (f.ops.flatMap (fun x => opkReads x.1 x.2.1)).contains (.v 2) && (g.guard e.mask f.g).getLsbD 1 && (KMap.getD g.vpoison 0 2).getLsbD 1) = true ∧
    stands (.iadd (v3 .i32 0)) {} (grp (fun g => { g with readSet := 16 }) (put 0)) (fun g e f => legal g e f &&
      (f.ops.flatMap (fun x => opkWrites x.1 x.2.1)).contains (.v 4) && g.readSet.getLsbD 4) = true ∧
    (Slot.decode 0x03602000).isSome = true ∧ (Slot.decode 0x06602000).isSome = false := by decide +kernel
theorem test_TrapTaken_met :
    (let s := handling none false (put 0x7C)
     ((s.grp 0).entryAt 0).any (fun e => !e.handler) && (s.grp 0).handler.isNone && handlerIs s true) = true ∧
    (let s := handling (after .trap) false (put 0x7C)
     ((s.grp 0).entryAt 0).any (fun e => !e.handler) && (s.grp 0).handler.isSome) = true ∧
    [Instr.trap ⟨.i32, 0, .zero, .zero, 0, .always, false⟩, .bkpt ⟨.i32, 0, .zero, .zero, 0xFFFFF, .always, false⟩].all (fun i =>
      issues i (handling none false) (fun x => !x.e.handler && x.g.handler.isNone && handlerIs x.s true)) = true := by decide +kernel
/-- What the fetch of the handler's header meets. -/
def handlerMeets (s : State) (p : Miss → Bool) : Bool :=
  match (s.touchHandler 0).handlerOk 0 with
  | .error m => p m
  | .ok _ => false
theorem test_TrapTaken_pages_met :
    let at_ := fun (b : Nat) => grp (fun g => { g with utvec := b }) (farCode b (put 0x7C))
    handlerMeets (at_ 0x40000000) (fun m => match m with
      | .absent _ _ _ => true
      | _ => false) = true ∧
    handlerMeets (at_ 0x80000000) (fun m => match m with
      | .fault _ _ => true
      | _ => false) = true ∧
    [at_ 0x40000000, at_ 0x80000000].all (fun s => (s.grp 0).handler.isNone && ((s.grp 0).entryAt 0).any (fun e => !e.handler)) = true ∧
    -- lanes whose re-entry is above the limit, and lanes whose is not
    (let g := (grp (fun g => { g with recheck := [(63, 17)] }) (put 0)).grp 0
     g.limit < KMap.getD g.recheck 0 63 ∧ (lanesOf 1).all (fun l => !decide (g.limit < KMap.getD g.recheck 0 l)) = true) := by decide +kernel
theorem test_TrapReturn_met :
    issues (.tret (ctl .always)) id (fun x => !x.e.handler) = true ∧
    [Cause.header, .placement, .strandStores, .strandClobber, .orderInStrand, .strandLivelock, .trap, .opcode].all (fun c =>
      issues (.tret (ctl .always)) (handling (after c) true) (fun x => x.e.handler && x.g.handler.isSome && x.pass != 0) &&
      issues (.tret (ctl (.pred 3 false))) (handling (after c) true) (fun x => x.e.handler && x.pass == 0)) = true := by decide +kernel
theorem test_ContextFaults_met :
    (let s := put 0x7C
     (s.ctx 0).st = .active ∧ s.groups.Pairwise (fun a b => a.1 < b.1) ∧ (KMap.find? s.groups 0).any (fun g => g.ctx == 0 && !g.ended) = true ∧
     (let t := s.contextFault 0 { cause := 1, core := 0 }
      (t.ctx 0).st = .stopped ∧ (t.ctx 0).fault.isSome = true)) ∧
    -- a later fault of a stopped context, whose record can be written or meets a fault, and a fault of a context in another state
    ([(0, true), (0x1000, true), (0x10000000000000, false)].all (fun (e : Nat × Bool) =>
      let f : FaultRec := { cause := 1, core := 0 }
      let s := (put 0).modCtx 0 (fun c => { c with st := .stopped, fault := some f, frec := e.1 })
      match s.iaWrite e.1 { f with others := 1 }.bytes with
      | .ok _ => e.2
      | .error (.fault _ _) => !e.2
      | .error _ => false)) = true ∧ ((put 0).ctx 1).st = .free ∧
    -- a privileged word of an unprivileged context, and an engine word in handler mode
    (let s := (put 0xF20000102000007C).modCtx 0 (fun c => { c with flags := 0 })
     (match (s.grp 0).entryAt 0, (Instr.eret ⟨0, .zero, ⟨.v, 2⟩, 0, .always, false⟩).info with
      | some e, some f => !s.holds 0 e f { priv := true } && (s.decodeTrap 0 e f { priv := true }).isNone && !(s.ctx (s.grp 0).ctx).flags.testBit 1
      | _, _ => false)) = true ∧
    (let s := handling (after .trap) true (put 0xE00040800000007C)
     let n : Need := { memaff := true, point := true, nested := true }
     (match (s.grp 0).entryAt 0, (Instr.cpy (fe 0 0 0)).info with
      | some e, some f => !s.holds 0 e f n && (s.decodeTrap 0 e f n).isNone && e.handler
      | _, _ => false)) = true ∧
    (let s := put 0x7C
     ((s.grp 0).entryAt 0).any (fun e => !e.handler) && (s.grp 0).handler.isNone && handlerIs s false) = true := by decide +kernel

/-- The group at the header at an address, its lanes inside a strand or at a boundary. -/
def starts (a : Nat) (outside : Mask) (inHandler : Bool) (s : State) : State :=
  grp (fun g => { g with outside := outside, handler := if inHandler then after .trap else none
                         entries := [{ pc := a, prio := 0, mask := allLanes, handler := inHandler }] }) (someCode s)
/-- The first hypotheses of ClauseStart, and a property of the header and of the entry that starts. -/
def startMet (s : State) (p : State → Nat → Entry → Bool) : Bool :=
  match (s.grp 0).entryAt 0 with
  | some e0 =>
    let s0 := s.touchRange (s.grp 0).ctx (towerOf (s.coreOf 0)) .fetch e0.pc 8
    e0.clause.isNone && (s.grp 0).ready e0 && s.mayIssue 0 &&
      (match s0.fetchWord (s.grp 0).ctx e0.pc, ((s0.grp 0).joinStart 0).entryAt 0 with
       | .ok h, some e => p s0 h e
       | _, _ => false)
  | none => false
/-- Lanes of the entry re-enter above the limit. -/
def beyond (s : State) (e : Entry) : Bool :=
  !e.handler && (lanesOf e.mask).any (fun l => decide ((s.grp 0).limit < KMap.getD (s.grp 0).recheck 0 l))
theorem test_ClauseStart_met :
    startMet (grp (fun g => { g with recheck := [(63, 17)] }) (starts 48 allLanes false (put 0))) (fun s _ e => beyond s e) = true ∧
    -- a header that waits for a flag with a word in flight
    startMet ((code [plainHeader 1 + 2 ^ 48, 0x7C] (atHeader (put 0))).addOp
        { gid := 0, pc := 0, flag := some 0, lanes := 1, entry := 1, kind := .func [] })
      (fun s h _ => (h / 2 ^ 48).testBit 0 && s.onFlag 0 0 != 0) = true ∧
    -- the reserved headers, and the clauses of the wrong kind
    startMet (starts 64 0 false (put 0)) (fun s h e => (hdrErr h).isSome && !beyond s e) = true ∧
    startMet (starts 72 0 false (put 0)) (fun s h e => (hdrErr h).isSome && !beyond s e) = true ∧
    startMet (starts 0 0 true (put 0)) (fun _ h e => (hdrErr h).isNone && e.handler && h / 2 ^ 30 % 4 != 2) = true ∧
    startMet (starts 32 0 false (put 0)) (fun _ h e => (hdrErr h).isNone && !e.handler && h / 2 ^ 30 % 4 == 2) = true ∧
    startMet (starts 48 0 false (put 0)) (fun s h e => (hdrErr h).isNone && h / 2 ^ 30 % 4 == 1 && minus e.mask (s.grp 0).outside != 0) = true ∧
    startMet (starts 0 allLanes false (put 0)) (fun s h e => (hdrErr h).isNone && h / 2 ^ 30 % 4 == 0 && (e.mask &&& (s.grp 0).outside) != 0) = true ∧
    -- the three good starts, whose words can be read
    [(32, 0, true), (48, allLanes, false), (0, 0, false)].all (fun e => startMet (starts e.1 e.2.1 e.2.2 (put 0)) (fun s h x =>
      (hdrErr h).isNone && !beyond s x &&
      (match ((s.modGrp 0 (fun g => g.joinStart 0)).touchRange 0 0 .fetch (x.pc + 8) (8 * (h / 2 ^ 60 % 16))).fetchWords 0 (x.pc + 8) (h / 2 ^ 60 % 16) with
       | .ok ws => ws.length == 1
       | .error _ => false))) = true := by decide +kernel

/-- The group waits at a BND with both pairs. -/
def atBnd (s : State) : State := kerbs (grp (fun g => { g with entries := g.entries.map (fun e => { e with wait := .bnd }) }) s)
theorem test_StrandCommit_met :
    (let s := atBnd (put 0x070044402448057C)
     let g := s.grp 0
     KMap.find? s.groups 0 = some g ∧ g.ended = false ∧ g.live ≠ 0 ∧ g.entries.all (fun e => e.wait == .bnd) = true ∧ s.canCommit 0 = true ∧
     g.entries.Pairwise (fun a b => a.mask &&& b.mask = 0) ∧
     g.entries.all (fun e => decide (survivors e.word = [(2, 17), (5, 18)])) = true) ∧
    ((put 0x070044402448057C).grp 0).entries.any (fun e => e.wait != .bnd) = true ∧
    ((atBnd (put 0x070044402448057C)).addOp { gid := 0, pc := 0, flag := none, lanes := 1, entry := 1, pending := true, kind := .fence 0 0 0 }).canCommit 0
      = false ∧
    ((grp (fun g => { g with exited := allLanes }) (put 0)).grp 0).live = 0 := by decide +kernel
theorem test_Discard_met :
    (let g := (put 0).grp 0
     (1 : Mask).getLsbD 0 = true ∧ (minus (minus allLanes g.sealed) (allLanes ||| g.outside) = 0) ∧
     (minus (minus allLanes g.sealed) (1 ||| g.outside) ≠ 0) ∧ g.entries.any (fun e => e.mask.getLsbD 1 && !(1 : Mask).getLsbD 1) = true) ∧
    (16 + 1 > ((put 0).grp 0).limit ∧ ¬ 15 + 1 > ((put 0).grp 0).limit) ∧
    -- a discard that counts and one that does not, with parked lanes and none; a beat that other lanes consumed too
    (let g := { (put 0).grp 0 with reentry := 255, beats := [⟨5, 3⟩] }
     (g.discard 1 true []).reentry = 255 ∧ (g.discard 1 false [(0, 7)]).reentry = 255 ∧
     (∃ b ∈ g.beats, minus b.lanes 1 ≠ 0)) := by decide +kernel

/-! ### Accesses -/

/-- The base that RB names as a record; 0 where there is none. -/
def baseOf (x : Issue) (f : FM) : Nat :=
  if f.rb.toNat < 0x80 then
    match x.record f.rb.toNat with
    | .ok r => r.base
    | .error _ => 0
  else 0
/-- The address that Issue.reaches names for a lane. -/
def addrOf (x : Issue) (f : FM) (off : Int) (l : Nat) : Nat := x.formed f off (baseOf x f) l
/-- No stash line but the one through which it is reached holds the line of one of the places. -/
def alone (s : State) (locs : List Loc) : Bool :=
  s.teams.all (fun e => e.2.stash.all (fun l => locs.all (fun p => p.win == some (e.1, l.1) ||
    (match KMap.find? e.2.stashAt l.1 with
     | some q => lineKey q.key != lineKey p.key
     | none => false))))
theorem unshared_of_alone {s : State} {locs : List Loc} (h : alone s locs = true) : s.unshared locs := by
  intro e he l hl p hp
  have h2 := List.all_eq_true.mp (List.all_eq_true.mp (List.all_eq_true.mp h e he) l hl) p hp
  simp only [Bool.or_eq_true, beq_iff_eq] at h2
  rcases h2 with h2 | h2
  · exact .inl h2
  · cases hq : KMap.find? e.2.stashAt l.1 with
    | none => rw [hq] at h2; cases h2
    | some q => rw [hq] at h2; exact .inr ⟨q, rfl, by simpa using h2⟩
/-- The record that RB names is there, with the permission, and holds the accesses. -/
def recordMet (x : Issue) (f : FM) (off : Int) (n perm : Nat) : Bool :=
  decide (f.rb.toNat < x.phase.record.poolCount) &&
    (match x.record f.rb.toNat with
     | .ok r => bitOf r.flags perm && (!bitOf r.flags 3 || (lanesOf x.pass).all (fun l =>
         decide (r.base ≤ addrOf x f off l) && decide (addrOf x f off l + n ≤ r.base + r.size)))
     | .error _ => false)
/-- The state after the first touches. -/
def touched (x : Issue) (spad : Bool) (kind : Acc) (n : Nat) (addr : Nat → Nat) : State :=
  (x.vals addr).foldl (fun s e =>
    if spad then s.spadTouch x.tid (e.2 % 2 ^ 32) n else s.touchRange x.ctx (towerOf x.team.core) kind e.2 n) x.s
/-- The places of a lane's access. -/
def spanOf (x : Issue) (spad : Bool) (kind : Acc) (n : Nat) (addr : Nat → Nat) (l : Nat) : Except Miss Span :=
  if spad then (touched x spad kind n addr).spadSpan x.tid kind (addr l % 2 ^ 32) n
  else (touched x spad kind n addr).globalSpan x.ctx kind n (addr l)
/-- The places of an access that is served; none else. -/
def spanGet : Except Miss Span → Span
  | .ok sp => sp
  | .error _ => ⟨[], []⟩
/-- The access is served. -/
def spanOk : Except Miss Span → Bool
  | .ok _ => true
  | .error _ => false
/-- Every passing lane's access is served. -/
def servedMet (x : Issue) (spad : Bool) (kind : Acc) (n : Nat) (addr : Nat → Nat) : Bool :=
  (lanesOf x.pass).all (fun l => spanOk (spanOf x spad kind n addr l))
/-- The hypotheses reaches and served of the memory statements. -/
def accessMet (x : Issue) (f : FM) (off : Int) (n align perm : Nat) (spad : Bool) (kind : Acc) : Bool :=
  x.pass != 0 && (decide (0x80 ≤ f.rb.toNat) || recordMet x f off n perm) &&
    (lanesOf x.pass).all (fun l => addrOf x f off l % align == 0) && servedMet x spad kind n (addrOf x f off)

theorem mem_lanesOf {m : Mask} {l : Nat} (h : m.getLsbD l = true) : l ∈ lanesOf m := by
  have := BitVec.lt_of_getLsbD h
  simp [lanesOf, h, this]
/-- What servedMet computes is what Issue.served asks. -/
theorem served_of_met {x : Issue} {spad : Bool} {kind : Acc} {n : Nat} {addr : Nat → Nat} (h : servedMet x spad kind n addr = true) :
    x.served spad kind n addr (touched x spad kind n addr) (fun l => (spanGet (spanOf x spad kind n addr l)).locs)
      (fun l => (spanGet (spanOf x spad kind n addr l)).lines) := by
  refine ⟨rfl, fun l hl => ?_⟩
  have := List.all_eq_true.mp h l (mem_lanesOf hl)
  change spanOf x spad kind n addr l = _
  cases hs : spanOf x spad kind n addr l with
  | ok sp => simp [hs, spanGet]
  | error m => rw [hs] at this; cases this
/-- What accessMet computes is what the memory statements assume of an access. -/
theorem access_of_met {x : Issue} {f : FM} {off : Int} {n align perm : Nat} {spad : Bool} {kind : Acc}
    (h : accessMet x f off n align perm spad kind = true) :
    x.pass ≠ 0 ∧ ∃ (addr : Nat → Nat) (s1 : State) (locs : Nat → List Loc) (lines : Nat → List (Nat × Nat)),
      x.reaches f off n align perm addr ∧ x.served spad kind n addr s1 locs lines := by
  simp only [accessMet, Bool.and_eq_true, Bool.or_eq_true, decide_eq_true_eq, bne_iff_ne] at h
  obtain ⟨⟨⟨hp, hr⟩, ha⟩, hs⟩ := h
  refine ⟨hp, addrOf x f off, _, _, _, ⟨baseOf x f, fun hlt => ?_, fun l hl => ⟨by simpa using List.all_eq_true.mp ha l (mem_lanesOf hl), rfl⟩⟩,
    served_of_met hs⟩
  have hr : recordMet x f off n perm = true := hr.resolve_left (by omega)
  simp only [recordMet, Bool.and_eq_true, decide_eq_true_eq] at hr
  refine ⟨hr.1, ?_⟩
  cases hb : x.record f.rb.toNat with
  | error m => rw [hb] at hr; exact absurd hr.2 (by simp)
  | ok r =>
    rw [hb] at hr
    simp only [Bool.and_eq_true, Bool.or_eq_true] at hr
    refine ⟨r, rfl, by simp [baseOf, hlt, hb], hr.2.1, fun hc l hl => ?_⟩
    rcases hr.2.2 with h0 | h1
    · simp [hc] at h0
    · simpa using List.all_eq_true.mp h1 l (mem_lanesOf hl)

/-- Lanes 0 and 63 pass guard p3; v2 is 0x1000 in every lane, s3 is 0x1000; record 0 of the pool is the 256 bytes at 0x1000 with RD, WR, AT
and CHK; scratchpad bytes 0x800 to 0x83F are a stash window on 0x4000. -/
def memSetup (s : State) : State :=
  let s1 := grp (fun g => { g with
    p := [(3, 0x8000000000000001)], s := [(3, 0x1000)], v := (List.range 64).map (fun l => (2 * 64 + l, 0x1000)) }) s
  { s1.modPhase 0 (fun p => { p with record := { p.record with poolBase := 0x20000, poolCount := 1, stash := [⟨0x4000, 64, 0x800⟩] } }) with
    mem := s1.mem ++ bytesAt 0x20000 8 0x1000 ++ bytesAt 0x20008 8 0x100 ++ bytesAt 0x20010 8 0xF }
/-- v2 is 0 in every lane. -/
def v2Zero (s : State) : State := grp (fun g => { g with v := [] }) s
/-- An M word under guard p3. -/
def gm (sz : BitVec 3) (ord : BitVec 2) (scope : BitVec 3) (rb : BitVec 8) (off : BitVec 12) : FM :=
  ⟨sz, ord, scope, ⟨.v, 6⟩, ⟨.v, 2⟩, rb, off, .pred 3 false, false⟩
/-- Both passing lanes, and the hypotheses of an access. -/
def two (x : Issue) : Bool := x.pass == 0x8000000000000001
/-- An access of a word is served. -/
def loadMet (i : Instr) (f : FM) (n align perm : Nat) (off : Int) (spad : Bool) (kind : Acc) (setup : State → State) : Bool :=
  issues i setup (fun x => two x && accessMet (x.touched f) f off n align perm spad kind)
/-- A line that an engine command owns, and a poisoned line, by an address in DRAM. -/
def owns (a : Nat) (s : State) : State := { s with cmds := [(9, { kind := .cpy, team := 0, gid := 0, ctx := 0, core := 0, pc := 8, baddr := 0, blockAddr := 0, block := 0, seq := 0, owned := [lineKey (memKey 0 a)] })] }
def poison (a : Nat) (s : State) : State := { s with poison := [lineKey (memKey 0 a)] }
/-- A committed store whose line an engine owns. -/
def commitLeft (s : State) : State :=
  { owns 0x2000 s with commits := [(1, [⟨1, 0, 0, ⟨8, 1, [⟨0, ⟨memKey 0 0x2004, 0x2004, none⟩, 2⟩], []⟩⟩])] }
/-- The base fields of the test machine: none, s3 and record 0; the last word of the record is at OFF 0xFC. -/
theorem eraseDups_of_nodup : ∀ {l : List Nat}, l.Pairwise (· ≠ ·) → l.eraseDups = l
  | [], _ => rfl
  | a :: l, h => by
    have ⟨h1, h2⟩ := List.pairwise_cons.mp h
    rw [List.eraseDups_cons, List.filter_eq_self.mpr (fun b hb => by simpa using (h1 b hb).symm), eraseDups_of_nodup h2]
/-- An in-flight load of a byte at each of n lines. -/
def fullOp (n : Nat) : Op := { gid := 0, pc := 8, flag := none, lanes := 1, entry := 1, dst := ⟨.v, 6⟩
                               kind := .load 8 false 0 ((List.range n).map (fun i => (0, [⟨⟨64 * i, 64 * i, none⟩, none⟩]))) }
theorem full_lines (n : Nat) (hn : n ≤ 4096) : (fullOp n).kind.lines = List.range n := by
  have e : ∀ l : List Nat, (∀ i ∈ l, i < 4096) → (((OpKind.load 8 false 0 (l.map (fun i => ((0 : Nat), [(⟨⟨64 * i, 64 * i, none⟩, none⟩ : LByte)])))).unread.filter
      (fun p => decide (spaceOf p.key < 65536))).map (fun p => lineKey p.key)) = l := by
    intro l
    induction l with
    | nil => intro _; rfl
    | cons a l ih =>
      intro hl
      have ha := hl a (by simp)
      have hd : 64 * a / 18446744073709551616 < 65536 := by omega
      have hk : lineKey (64 * a) = a := by unfold lineKey; omega
      have := ih (fun i hi => hl i (List.mem_cons_of_mem _ hi))
      simp_all [spaceOf, OpKind.unread]
  rw [← eraseDups_of_nodup List.nodup_range]
  exact congrArg List.eraseDups (e (List.range n) (fun i hi => by have := List.mem_range.mp hi; omega))
/-- A core whose 2,048 slots are taken has none for a word of another line; it has for one of its own lines. -/
theorem full_slots (s : State) (k : OpKind) (l : Nat) (hl : k.lines = [l]) (n : Nat) (hn : n = 2048) :
    let t : State := { s with ops := [(5, fullOp n)] }
    (n ≤ l → t.slotsFor (t.coreOf 0) k = false) ∧ (l < n → t.slotsFor (t.coreOf 0) k = true) := by
  intro t
  have hm : t.missLines (t.coreOf 0) = List.range n := by
    have : (t.ops.filter (fun e => t.coreOf e.2.gid == t.coreOf 0)).flatMap (fun e => e.2.kind.lines) = (fullOp n).kind.lines := by
      simp [t, fullOp]
    rw [State.missLines, this, full_lines n (by omega), eraseDups_of_nodup List.nodup_range]
  refine ⟨fun h => ?_, fun h => ?_⟩
  · have h1 : ¬ l < n := by omega
    have h2 : missSlots = n := hn.symm
    have h3 : n ≠ 0 := by omega
    simp [State.slotsFor, hm, hl, h1, h2, List.filter, h3]
  · simp [State.slotsFor, hm, hl, h, List.filter]
theorem test_slots_met :
    let kind := fun (a : Nat) => OpKind.load 32 false 0 [(0, [⟨⟨a, a, none⟩, none⟩])]
    let t : State := { put 0x7C with ops := [(5, fullOp 2048)] }
    t.slotsFor (t.coreOf 0) (kind 0x20000) = false ∧ t.slotsFor (t.coreOf 0) (kind 0x1FFC0) = true ∧ (put 0x7C).slotsFor 0 (kind 0x20000) = true :=
  ⟨(full_slots _ _ 2048 (by decide) 2048 rfl).1 (by omega), (full_slots _ _ 2047 (by decide) 2048 rfl).2 (by omega), by decide +kernel⟩

/-- The first two GiB are in the range; the tables map the first. -/
def twoGiB (s : State) : State :=
  { memSetup s with ctxs := [(0, { s.ctx 0 with ranges := [(1, 0x80000000), (3, 0x3D)] })] }
/-- Lane 63 has another address than lane 0. -/
def lane63 (a : Word) (s : State) : State :=
  grp (fun g => { g with v := g.v.map (fun e => if e.1 = 2 * 64 + 63 then (e.1, a) else e) }) (twoGiB s)
/-- Every access is served or meets a page that is not present. -/
def onlyParks (x : Issue) (span : Nat → Except Miss Span) : Bool := (lanesOf x.pass).all (fun l => match span l with
  | .ok _ => true
  | .error (.absent _ _ _) => true
  | .error _ => false)
theorem splits_of_met {x : Issue} {span : Nat → Except Miss Span} (h : onlyParks x span = true) : ∃ ok away, x.Splits span ok away := by
  refine ⟨_, _, rfl, rfl, fun l hl => ?_⟩
  have := List.all_eq_true.mp h l (mem_lanesOf hl)
  cases hs : span l with
  | ok sp => exact .inl ⟨sp, rfl⟩
  | error m =>
    cases m with
    | absent p c z => exact .inr ⟨p, c, z, rfl⟩
    | _ => simp [hs] at this
/-- What Issue.placed asks holds of the spans as spanOf computes them. -/
theorem placed_of_span (x : Issue) (spad : Bool) (kind : Acc) (n : Nat) (addr : Nat → Nat) :
    x.placed spad kind n addr (touched x spad kind n addr) (spanOf x spad kind n addr) := ⟨rfl, fun _ _ => rfl⟩
/-- The access of lane 0 is served, and lane 63 misses as said. -/
def missMet (i : Instr) (f : FM) (off : Int) (spad : Bool) (kind : Acc) (a : Word) (p : Issue → (Nat → Except Miss Span) → Bool) : Bool :=
  issues i (lane63 a) (fun x => two x && spanOk (spanOf x spad kind (f.bits / 8) (addrOf x f off) 0) &&
    p x (spanOf x spad kind (f.bits / 8) (addrOf x f off)))
def faultAt (l : Nat) (span : Nat → Except Miss Span) (cause : Nat) : Bool := match span l with
  | .error (.fault c _) => c == cause
  | _ => false
/-- Lane 63 faults beyond the range or the extent, or parks at the first page that the tables do not hold. -/
theorem test_misses_met :
    (let f := gm 0 0 0 0xFF 0
     [(Instr.ld f, f.offS, Acc.load), (.ldq f, f.offS, .load), (.st f, f.offS, .store), (.st { f with ord := 2 }, f.offS, .store),
      (.red f, f.off8, .atomic), (.atom { f with d := ⟨.s, 4⟩ }, f.off8, .atomic)].all (fun (e : Instr × Int × Acc) =>
       missMet e.1 f e.2.1 false e.2.2 0x80000000 (fun _ sp => faultAt 63 sp 8) &&
       missMet e.1 f e.2.1 false e.2.2 0x40000000 (fun x sp => onlyParks x sp && !spanOk (sp 63))) &&
     [(Instr.lds f, f.offS, Acc.load), (.sts f, f.offS, .store), (.atoms { f with d := ⟨.s, 4⟩ }, f.off8, .atomic)].all (fun (e : Instr × Int × Acc) =>
       missMet e.1 f e.2.1 true e.2.2 0x10000 (fun _ sp => faultAt 63 sp 4))) = true := by decide +kernel

/-- Where the range registers and the tables place an address, for an access of a kind. -/
def vaGives (s : State) (kind : Acc) (va : Nat) (p : Except Miss (Nat × Nat × Option Nat) → Bool) : Bool := p (s.vaIa 0 kind va)
def iaGives (s : State) (kind : Acc) (ia : Nat) (p : Except Miss Loc → Bool) : Bool := p (s.iaLoc kind 0 0 ia)
def isFault (c x : Nat) {α : Type} : Except Miss α → Bool
  | .error (.fault a d) => a == c && d % 256 == x
  | _ => false
/-- A leaf of SZ 1 at the bottom level, with more bits set, through tables at 0x10000, 0x14000 and 0x18000. -/
def leafWith (bits : Nat) (s : State) : State := { s with mem :=
  (bytesAt 0x8000 8 (2 ^ 63 + 0x10000) ++ bytesAt 0x10000 8 (2 ^ 63 + 0x14000) ++ bytesAt 0x14000 8 (2 ^ 63 + 0x18000) ++
    bytesAt 0x18000 8 (2 ^ 61 + bits)) }
def ranged (w limit off : Nat) (s : State) : State := s.modCtx 0 (fun c => { c with ranges := [(1, limit), (2, off), (3, w)] })
theorem test_Translation_met :
    -- the lowest register that holds the line; its permissions; regions that are none; the host's and the device's; a remote one
    (let s := put 0x7C
     vaGives s .load 0x3FFFFFC0 (fun r => r matches .ok (0x3FFFFFC0, 0, none)) && vaGives s .load 0x40000000 (isFault 8 1) &&
     vaGives (ranged 0x39 0x1000 0 s) .load 0 (isFault 8 2) && vaGives (ranged 0x3D 0x1000 (2 ^ 52) s) .load 0 (isFault 8 1) &&
     vaGives (ranged 0x3D 0x1000 (0xE * 2 ^ 48) s) .atomic 0 (isFault 8 2) &&
     vaGives (ranged (0x7D + 5 * 2 ^ 32 + 2 ^ 48) 0x1000 0 s) .load 0 (isFault 9 5) &&
     vaGives (ranged (0x7D + 5 * 2 ^ 32) 0x1000 0 s) .load 0 (fun r => r matches .ok (0, 0, some 5))) = true ∧
    -- the walk: absent, malformed, due for a first touch, present
    ((leafWith 0 (put 0x7C)).walk 0 = .absent 3 ∧ (leafWith (2 ^ 63 + 1) (put 0x7C)).walk 0 = .format ∧
     (leafWith (2 ^ 58) (put 0x7C)).walk 0 = .touch 0x18000 ∧ (leafWith (2 ^ 58 + 2 ^ 60) (put 0x7C)).walk 0 = .touch 0x18000 ∧
     (leafWith (2 ^ 63) (put 0x7C)).walk 0 = .leaf (2 ^ 63 + 2 ^ 61) 1 ∧
     (leafWith (2 ^ 63 + 2 ^ 60 + 2 ^ 57) (put 0x7C)).walk 0 = .format) ∧
    -- the leaf: poisoned, not writable, at a peer, in DRAM, in flash without and with a stage
    (iaGives (leafWith (2 ^ 63 + 2 ^ 59) (put 0x7C)) .load 4 (isFault 8 6) && iaGives (leafWith (2 ^ 63) (put 0x7C)) .store 4 (isFault 8 3) &&
     iaGives (leafWith (2 ^ 63 + 2 ^ 56 + 3 * 2 ^ 44) (put 0x7C)) .load 4 (fun r => !(r matches .ok _)) &&
     iaGives (leafWith (2 ^ 63 + 2 ^ 57 + 2 ^ 14) (put 0x7C)) .store 4 (fun r => r matches .ok ⟨0x4004, 4, none⟩) &&
     iaGives (leafWith (2 ^ 63 + 2 ^ 60) (put 0x7C)) .load 4 (isFault 10 0) &&
     iaGives (leafWith (2 ^ 63 + 2 ^ 60) { put 0x7C with stk := { (put 0x7C).stk with stageSize := 1 } }) .load 4 (fun r => r matches .ok _) &&
     iaGives (put 0x7C) .load (15 * 2 ^ 48 + 2 ^ 47 + 8) (fun r => r matches .ok _) && iaGives (put 0x7C) .load (0xC * 2 ^ 48) (isFault 8 1) &&
     iaGives (put 0x7C) .load (0xE * 2 ^ 48) (fun r => r matches .error .regPage)) = true ∧
    -- scratchpad bytes: the last of the extent, one beyond, one of no team, one in the window, one on a poisoned line
    (let s := memSetup (put 0x7C)
     (s.spadByte 0 .load 0xFFFF matches .ok (⟨_, 0, none⟩, none)) && isFault 4 0 (s.spadByte 0 .load 0x10000) &&
     decide (s.spadTeam 0 0x5000000 = none) && decide (s.spadTeam 0 0x8C000000 = none) &&
     (s.spadByte 0 .load 0x83F matches .ok (⟨0x403F, 0x403F, some (0, 32)⟩, some 32)) &&
     isFault 10 0 ((s.modTeam 0 (fun t => { t with badLines := [3] })).spadByte 0 .load 0xC0)) = true := by decide +kernel

theorem test_Loads_met :
    [gm 0 0 0 0xFF 0x40, gm 1 1 4 0xFF 0x40, gm 3 1 5 0x83 0x7FF, { gm 2 0 0 0x83 0x10 with d := ⟨.v, 8⟩ }].all (fun f =>
      loadMet (.ld f) f (f.bits / 8) (f.bits / 8) 0 f.offS false .load memSetup) = true ∧
    (let f := gm 0 0 0 0 0xFC
     loadMet (.ld f) f 4 4 0 f.offS false .load (v2Zero ∘ memSetup) && loadMet (.ldq f) f 4 4 0 f.offS false .load (v2Zero ∘ memSetup)) = true ∧
    [gm 3 0 0 0xFF 0x3FF, gm 0 1 2 0x83 0].all (fun f => loadMet (.lds f) f (f.bits / 8) (f.bits / 8) 0 f.offS true .load memSetup) = true ∧
    (let f := gm 0 0 0 0xFF 0x800
     loadMet (.lds f) f 4 4 0 f.offS true .load memSetup) = true ∧
    [Instr.ld (gm 0 0 0 0xFF 0), .lds (gm 0 0 0 0xFF 0), .ldq (gm 0 0 0 0xFF 0)].all (fun i => issues i id (fun x => x.pass == 0)) = true ∧
    issues (.prf ⟨0, 0, 0, .zero, ⟨.v, 2⟩, 0x5, 0, .always, false⟩) id (fun _ => true) = true ∧
    [false, true].all (fun acq =>
      let o : Op := { gid := 0, pc := 8, flag := none, lanes := 1, entry := 1, pending := acq, dst := ⟨.v, 6⟩
                      kind := .load 32 acq 0 [(0, [⟨⟨memKey 0 0x1000, 0x1000, none⟩, none⟩, ⟨⟨memKey 0 0x1001, 0x1001, none⟩, some 7⟩])] }
      let s := opAt o (put 0x7C)
      decide (KMap.find? s.ops 5 = some o) && !s.bufferOwned 0 && !s.owned (memKey 0 0x1000) &&
        !s.pointHeld 0 && (KMap.find? s.groups 0).isSome && alone s [⟨memKey 0 0x1000, 0x1000, none⟩] &&
        !s.accessBefore 5 0 ⟨memKey 0 0x1000, 0x1000, none⟩ && !s.spoiled (memKey 0 0x1000) &&
        !s.badAt ⟨memKey 0 0x1000, 0x1000, none⟩ && !s.struck s.recallCores 0 && s.recallCores.commits.all (fun c => c.2.isEmpty) &&
        -- a line that an engine owns, a commit that recalling leaves, a point held by beats, and a poisoned line
        (commitLeft s).recallCores.commits.any (fun c => !c.2.isEmpty) && (owns 0x1000 s).owned (memKey 0 0x1000) && (grp (fun g => { g with beats := [⟨3, 1⟩] }) s).pointHeld 0 &&
        (poison 0x1000 s).spoiled (memKey 0 0x1000)) = true := by decide +kernel

/-- The first three checks of R191, on RB, on alignment, and on the record's permission and range. -/
def checksMet (mk : FM → Instr) (off : FM → Int) (perm : Nat) : Bool :=
  let rec1 := fun (f : FM) (p : Issue → BufRec → Bool) => issues (mk f) (v2Zero ∘ memSetup) (fun x => two x && decide (f.rb.toNat < x.phase.record.poolCount) &&
    (match (x.touched f).record f.rb.toNat with
     | .ok r => p x r
     | .error _ => false))
  let bare : Nat → State → State := fun flags s => let s1 := memSetup s
    { s1 with mem := s1.mem.map (fun e => if e.1 = 0x20010 then (e.1, BitVec.ofNat 8 flags) else e) }
  let at_ := fun (o : BitVec 12) => gm 0 0 0 0 o
  issues (mk (gm 0 0 0 1 0)) memSetup (fun x => two x && decide (x.phase.record.poolCount ≤ 1)) &&
  issues (mk (gm 0 0 0 0xFF 1)) memSetup (fun x => two x && x.formed (gm 0 0 0 0xFF 1) (off (gm 0 0 0 0xFF 1)) 0 0 % 4 != 0) &&
  rec1 (at_ 2) (fun x r => x.formed (at_ 2) (off (at_ 2)) r.base 0 % 4 != 0) &&
  rec1 (at_ 0x80) (fun x r => x.formed (at_ 0x80) (off (at_ 0x80)) r.base 0 % 4 == 0 && bitOf r.flags 3 &&
    (decide (x.formed (at_ 0x80) (off (at_ 0x80)) r.base 0 < r.base) || decide (x.formed (at_ 0x100) (off (at_ 0x100)) r.base 0 + 4 > r.base + r.size))) &&
  issues (mk (at_ 0)) (v2Zero ∘ bare 0) (fun x => match (x.touched (at_ 0)).record 0 with
    | .ok r => !bitOf r.flags perm
    | .error _ => false)
theorem test_Checks_met :
    checksMet .ld FM.offS 0 && checksMet .st FM.offS 1 = true := by decide +kernel

/-- The buffer holds n places, the last at 8 with no lane, which a re-entered lane refills where redo says so. -/
def places (n : Nat) (redo : Mask) (s : State) : State :=
  grp (fun g => { g with redo := redo, buffer := (List.range n).map (fun i => ⟨if i + 1 = n then 8 else 100 + i, 0, [], []⟩) }) s
theorem test_Stores_met :
    [Instr.st (gm 0 0 0 0xFF 0), .sts (gm 0 2 3 0xFF 0)].all (fun i =>
      issues i (places 8 0) (fun x => x.pass == 0 && decide (8 ≤ x.g.buffer.length) && !x.g.refill x.pc x.e.mask) &&
      issues i (places 7 0) (fun x => x.pass == 0 && decide (x.g.buffer.length < 8) && !x.g.refill x.pc x.e.mask) &&
      issues i (places 8 allLanes) (fun x => x.pass == 0 && x.g.refill x.pc x.e.mask)) = true ∧
    [(gm 0 0 0 0xFF 0, 8, (0 : Mask)), (gm 1 2 4 0xFF 8, 7, 0), (gm 3 0 0 0x83 1, 8, allLanes), (gm 4 2 0 0x83 0, 0, 0)].all (fun (e : FM × Nat × Mask) =>
      issues (.st e.1) (places e.2.1 e.2.2 ∘ memSetup) (fun x => two x && accessMet (x.touched e.1) e.1 e.1.offS (e.1.bits / 8) (e.1.bits / 8) 1 false .store &&
        (decide (x.g.buffer.length < 8) || x.g.refill x.pc x.e.mask || (decide (8 ≤ x.g.buffer.length) && !x.g.refill x.pc x.e.mask))) &&
      issues (.sts e.1) (places e.2.1 e.2.2 ∘ memSetup) (fun x => two x && accessMet (x.touched e.1) e.1 e.1.offS (e.1.bits / 8) (e.1.bits / 8) 1 true .store)) = true ∧
    (let f := gm 0 2 0 0 0xFC
     loadMet (.st f) f 4 4 1 f.offS false .store (v2Zero ∘ memSetup)) = true ∧
    -- a release at system scope, free to go on or held by a write to a peer; one whose line an engine owns
    (let f := gm 0 2 4 0xFF 0
     issues (.st f) memSetup (fun x => two x && accessMet x f f.offS 4 4 1 false .store && (x.s.makeVisible 0).released 0 4 && !x.s.owned (memKey 0 0x1000)) &&
     issues (.st f) ((fun s => { s with peerWrites := [(0, ⟨0, none, 1, 0, [1]⟩)] }) ∘ memSetup) (fun x =>
       two x && accessMet x f f.offS 4 4 1 false .store && !(x.s.makeVisible 0).released 0 4) &&
     issues (.st f) (owns 0x1000 ∘ memSetup) (fun x => two x && accessMet x f f.offS 4 4 1 false .store && x.s.owned (memKey 0 0x1000))) = true ∧
    (let p : Place := ⟨8, 1, [], []⟩
     let g := ((places 8 allLanes (put 0)).grp 0)
     g.refill p.pc 1 = true ∧ g.refill 9 1 = false) := by decide +kernel

/-- A place of the buffer with two bytes at the last of DRAM page 0 and in the team's scratchpad, and a Dirty stash line. -/
def dirty (s : State) : State :=
  let s1 := grp (fun g => { g with buffer := [⟨8, 1, [⟨0, ⟨memKey 0 0x3FFF, 0x3FFF, none⟩, 1⟩, ⟨0, ⟨memKey (spTeam 0) 4, 0, none⟩, 2⟩], []⟩] }) (memSetup s)
  s1.modTeam 0 (fun t => { t with stash := [(32, .dirty)], stashAt := [(32, ⟨memKey 0 0x4000, 0x4000, none⟩)] })
/-- The window's line was filled from another line. -/
def filled (a : Nat) (s : State) : State := s.modTeam 0 (fun t => { t with stashAt := [(32, ⟨memKey 0 a, a, none⟩)] })
theorem test_StoresBecomeVisible_met :
    (let s := dirty (put 0x7C)
     (KMap.find? s.groups 0).isSome = true ∧ bitOf (s.ctx (s.grp 0).ctx).flags 0 = false ∧
     (let t := s.makeVisible 0
      (match t.fifo 0 with
       | c :: _ => !t.commitHeld 0 c && decide (bitOf (t.ctx c.ctx).flags 0 = false) &&
           alone t (c.place.bytes.map (·.loc)) && c.place.bytes.all (fun b => !isPeer b.loc.key && !t.badAt b.loc) && (owns 0x3FFF t).commitHeld 0 c &&
           (poison 0x3FFF t).badAt ⟨memKey 0 0x3FFF, 0x3FFF, none⟩ &&
           ({ t with peerWrites := [(0, ⟨0, some 0, 1, 0, [1]⟩)] } : State).commitHeld 0 c && decide ((t.ctx c.ctx).st = .active)
       | [] => false) = true) ∧ (put 0).fifo 0 = [] ∧
     (KMap.find? s.teams 0).any (fun t => decide (KMap.find? t.stash 32 = some .dirty) && decide (KMap.find? t.stash 31 ≠ some .dirty)) = true ∧
     (s.phase 0).record.window (32 * 64) = some ⟨0x4000, 64, 0x800⟩ ∧
     (match s.vaLoc 0 .stashWrite 0x4000 with
      | .ok _ => true
      | .error _ => false) = true ∧
     -- the global line or its page is poisoned; the line that filled the window's is; the window's line is
     isFault 10 0 ((poison 0x4000 s).vaLoc 0 .stashWrite 0x4000) = true ∧
     isFault 8 6 ((leafWith (2 ^ 63 + 2 ^ 59) s).vaLoc 0 .stashWrite 0) = true ∧
     (KMap.find? (filled 0x6000 s).teams 0).any (fun t => (poison 0x6000 (filled 0x6000 s)).stashLoc t 32 == some ⟨memKey 0 0x6000, 0x6000, none⟩) = true ∧
     (poison 0x6000 s).spoiled (memKey 0 0x6000) = true ∧
     (KMap.find? ((filled 0x4000 s).modTeam 0 (fun t => { t with badLines := [32] })).teams 0).any (fun t => t.badLines.contains 32) = true ∧
     -- a protected context's line, and the last byte of a line
     (let u := s.modCtx 0 (fun c => { c with flags := 1 })
      bitOf (u.ctx 0).flags 0 = true ∧ spaceOf (memKey 0 0x403F) = 0 ∧ spaceOf (memKey 1 0x403F) = 1)) := by decide +kernel

/-- An atomic in flight on two lanes, both at 0x1000, whose first lane has stepped or not. -/
def atoms (aop : Nat) (spad ret : Bool) (o0 o1 : Option Nat) : Op :=
  let loc : Loc := if spad then ⟨memKey (spTeam 0) 0x100, 0, none⟩ else ⟨memKey 0 0x1000, 0x1000, none⟩
  { gid := 0, pc := 8, flag := none, lanes := 3, entry := 3, pending := true, dst := ⟨.s, 4⟩
    kind := .atom 32 aop 0 0 spad ret [⟨0, loc, 1, 0, [], o0⟩, ⟨1, loc, 2, 0, [], o1⟩] }
theorem test_Atomics_met :
    (let d := fun (f : FM) => { f with d := ⟨.s, 4⟩ }
     [d (gm 0 0 0 0xFF 0), d (gm 1 3 4 0xFF 0x908), d (gm 0 3 5 0x83 0x880), d (gm 0 0 0 0x83 0xA7C)].all (fun f =>
       loadMet (.atom f) f (f.bits / 8) (f.bits / 8) 2 f.off8 false .atomic memSetup) &&
     [d (gm 0 0 0 0xFF 0), d (gm 1 3 4 0x83 0x908)].all (fun f => loadMet (.atoms f) f (f.bits / 8) (f.bits / 8) 2 f.off8 true .atomic memSetup) &&
     [gm 0 0 0 0xFF 0, gm 1 2 3 0x83 0x708].all (fun f => loadMet (.red f) f (f.bits / 8) (f.bits / 8) 2 f.off8 false .atomic memSetup) &&
     (let f := d (gm 0 0 0 0 0x27C)
      loadMet (.atom f) f 4 4 2 f.off8 false .atomic (v2Zero ∘ memSetup)) &&
     [Instr.atom (d (gm 0 0 0 0xFF 0)), .atoms (d (gm 0 0 0 0xFF 0)), .red (gm 0 0 0 0xFF 0)].all (fun i => issues i id (fun x => x.pass == 0))) = true ∧
    ((List.range 11).all (fun aop => [false, true].all (fun spad =>
      let o := atoms aop spad true (some 5) none
      let s := opAt o (put 0x7C)
      match o.kind with
      | .atom _ _ _ _ _ _ steps => (match steps.find? (fun t => t.lane == 1 && t.old.isNone) with
        | some u => steps.all (fun t => !decide (t.lane < 1) || t.old.isSome || !overlaps t.loc u.loc 4) && !s.owned u.loc.key &&
            !s.pointHeld 0 && !s.spoiled u.loc.key && (KMap.find? s.groups 0).isSome && alone s [u.loc] &&
            (s.makeVisible 0).drained 0 ((List.range 4).map u.loc.add) && (s.makeVisible 0).released 0 2 &&
            ((List.range 4).map u.loc.add).all (fun p => s.pendingPeer p == none) && !s.badAt u.loc && !s.struck (s.makeVisible 0) 0 &&
            !s.struck (s.makeVisible 0).recallCores 0 && (s.makeVisible 0).recallCores.commits.all (fun c => c.2.isEmpty) &&
            ((commitLeft s).makeVisible 0).recallCores.commits.any (fun c => !c.2.isEmpty) && (spad || (poison 0x1000 s).badAt u.loc)
        | none => false)
      | _ => false))) = true ∧
    (let o := atoms 9 false true (some 5) (some 0xFFFFFFFF)
     KMap.find? (opAt o (put 0x7C)).ops 5 = some o ∧ o.dst.lvl = .s ∧ (0xFFFFFFFF : Nat) < 2 ^ 32) := by decide +kernel

/-- v6 holds 5 in every lane. -/
def data (s : State) : State := grp (fun g => { g with v := g.v ++ (List.range 64).map (fun l => (6 * 64 + l, 5)) }) s
/-- A barrier word at an address of a lane is in its place. -/
def barrierAt (x : Issue) (a : Nat) : Bool :=
  decide (a % 2 ^ 32 % 16 = 0) && (match x.s.tbPlace x.tid (a % 2 ^ 32) with
    | .ok _ => true
    | .error _ => false)
/-- An engine command owns the line of a scratchpad byte. -/
def ownSpad (a : Nat) (s : State) : State := { s with cmds := [(9, { kind := .cpy, team := 0, gid := 0, ctx := 0, core := 0, pc := 8, baddr := 0, blockAddr := 0, block := 0, seq := 0, owned := [lineKey (memKey (spTeam 0) a)] })] }
theorem test_TransactionBarriers_met :
    (let f := gm 0 0 2 0xFF 0x20
     [Instr.tbinit f, .tbexp f, .tbarv { f with ord := 2 }].all (fun i => issues i (data ∘ memSetup) (fun x =>
       x.pass.getLsbD 0 && barrierAt x (x.addr f f.offS 0 0) && decide (x.src f.d 32 0 = 5))) &&
     [Instr.tbinit f, .tbexp f, .tbarv f].all (fun i => issues i (v2Zero ∘ memSetup) (fun x =>
       x.pass.getLsbD 0 && barrierAt x (x.addr f f.offS 0 0) && decide (x.src f.d 32 0 % 256 = 0)))) = true ∧
    -- a misaligned barrier, and no passing lane
    (let f := { gm 0 0 2 0xFF 8 with g := .always }
     [Instr.tbinit f, .tbexp f, .tbarv f].all (fun i => issues i memSetup (fun x => x.pass.getLsbD 0 && x.addr f f.offS 0 0 % 2 ^ 32 % 16 != 0)) &&
     (let f := gm 0 0 2 0xFF 8
      [Instr.tbinit f, .tbexp f, .tbarv f, .tbtest { f with rb := 5 }].all (fun i => issues i id (fun x => x.pass == 0)))) = true ∧
    -- a release free to go on, one that a store of the group to other bytes holds, and a weak word that the barrier's own bytes hold
    (let f := gm 0 2 2 0xFF 0x20
     let ok := fun (x : Issue) => x.pass.getLsbD 0 && barrierAt x (x.addr f f.offS 0 0)
     let goes := fun (x : Issue) (rel : Bool) => (match x.s.tbPlace x.tid (x.addr f f.offS 0 0 % 2 ^ 32) with
       | .ok loc => (x.s.makeVisible 0).drained 0 ((List.range 16).map loc.add)
       | .error _ => false) && (!rel || (x.s.makeVisible 0).released 0 2)
     let stored := fun (a : Nat) (s : State) => grp (fun g => { g with buffer := [⟨8, 1, [⟨0, ⟨memKey (spTeam 0) a, 0, none⟩, 1⟩], []⟩] }) (memSetup s)
     issues (.tbarv f) memSetup (fun x => ok x && goes x true) &&
     issues (.tbarv f) (stored 0x10) (fun x => ok x && !goes x true && goes x false) &&
     [Instr.tbinit { f with ord := 0 }, .tbexp { f with ord := 0 }, .tbarv { f with ord := 0 }].all (fun i =>
       issues i (stored 0x1020) (fun x => ok x && !goes x false) && issues i (stored 0x10) (fun x => ok x && goes x false))) = true ∧
    [(0 : BitVec 2), 1].all (fun o =>
      let f := { gm 0 o 2 5 0x10 with g := .always }
      issues (.tbtest f) memSetup (fun x => x.pass.getLsbD 0 && barrierAt x (wrapNat 32 ((x.src f.a 32 0 : Int) + f.offS)))) = true ∧
    -- a barrier of no team, beyond the extent by a byte, in a window, on a poisoned line; and a barrier whose line an engine owns
    (let f := { gm 0 0 2 0xFF 0 with g := .always }
     let at_ := fun (a : Word) (s : State) => grp (fun g => { g with v := g.v.map (fun e => (e.1, a)) }) (memSetup s)
     let misses := fun (x : Issue) (a : Nat) (c : Nat) => decide (a % 2 ^ 32 % 16 = 0) && isFault c 0 (x.s.tbPlace x.tid (a % 2 ^ 32))
     let spoil := fun (s : State) => s.modTeam 0 (fun t => { t with badLines := [64] })
     [Instr.tbinit f, .tbexp f, .tbarv f].all (fun i =>
       [(0x5000000, id, 4), (0x10000, id, 4), (0x800, id, 4), (0x1000, spoil, 10)].all (fun (e : Word × (State → State) × Nat) =>
         issues i (e.2.1 ∘ at_ e.1) (fun x => misses x (x.addr f f.offS 0 0) e.2.2))) &&
     (let t := { gm 0 0 2 5 0 with g := .always }
      issues (.tbtest t) (at_ 0x10000) (fun x => misses x (wrapNat 32 ((x.src t.a 32 0 : Int) + t.offS)) 4) &&
      issues (.tbtest { t with off := 8 }) (at_ 0x1000) (fun x => wrapNat 32 ((x.src t.a 32 0 : Int) + { t with off := 8 }.offS) % 16 != 0) &&
      issues (.tbtest t) (ownSpad 0x1000 ∘ at_ 0x1000) (fun x => match x.s.tbPlace x.tid 0x1000 with
        | .ok loc => x.s.owned loc.key
        | .error _ => false))) = true ∧
    -- the bounds of an update
    TBar.update ⟨3, 2 ^ 31 - 1, 1, 15⟩ 1 0 = none ∧ TBar.update ⟨3, 0, 0, 15⟩ 0 (-1) = none ∧
    TBar.update ⟨3, -5, 1, 15⟩ 5 (-1) = some ⟨3, 0, 3, 0⟩ := by decide +kernel

/-- WAITA of 32 bits at global memory on two lanes: its condition, order and bound. -/
def wf (cond wlim : Nat) (ord : BitVec 2) (spm : Bool) : FM :=
  ⟨0, ord, 0, ⟨.v, 6⟩, ⟨.v, 2⟩, BitVec.ofNat 8 ((if spm then 128 else 0) + 16 * cond + wlim), 0, .pred 3 false, false⟩
/-- The addresses of a WAITA. -/
def waitaAddr (f : FM) (x : Issue) (l : Nat) : Nat :=
  if f.spm then wrapNat 32 ((x.src f.a 32 l : Int) + f.offS) else wrapNat 64 ((x.src f.a 64 l : Int) + f.offS)
/-- The accesses of a WAITA are served, on lines that no engine and no earlier atomic has. -/
def waitaMet (x : Issue) (f : FM) (addr : Nat → Nat) : Bool :=
  servedMet x f.spm .load (f.bits / 8) addr && !x.s.struck (touched x f.spm .load (f.bits / 8) addr) x.ctx && (lanesOf x.pass).all (fun l =>
    (spanGet (spanOf x f.spm .load (f.bits / 8) addr l)).locs.all (fun q =>
      !(touched x f.spm .load (f.bits / 8) addr).owned q.key &&
        !(touched x f.spm .load (f.bits / 8) addr).accessBefore (KMap.nextKey x.s.ops) x.gid q) &&
      alone (touched x f.spm .load (f.bits / 8) addr) (spanGet (spanOf x f.spm .load (f.bits / 8) addr l)).locs)
/-- Each passing lane's value is the comparison value. -/
def waitaEq (x : Issue) (f : FM) (addr d : Nat → Nat) : Bool :=
  (lanesOf x.pass).all (fun l =>
    (touched x f.spm .load (f.bits / 8) addr).readOwn x.gid (spanGet (spanOf x f.spm .load (f.bits / 8) addr l)).locs == d l)
/-- The entry waits at a WAITA since a cycle, for the value d at 0x1000 in lane 0. -/
def inWaita (f : FM) (since d : Nat) (s : State) : State :=
  grp (fun g => { g with entries := g.entries.map (fun e => { e with wait := .waita f since [(0, 0x1000, d)] }) }) s
theorem test_Waita_met :
    [wf 0 0 0 false, wf 6 1 1 false, wf 2 15 0 true].all (fun f =>
      issues (.waita f) memSetup (fun x => two x && (lanesOf x.pass).all (fun l => waitaAddr f x l % 4 == 0) &&
        waitaMet (x.visible (f.ord == 1)) f (waitaAddr f x) && waitaEq (x.visible (f.ord == 1)) f (waitaAddr f x) (fun l => x.src f.d 32 l)) &&
      issues (.waita f) (data ∘ memSetup) (fun x => two x && waitaMet (x.visible (f.ord == 1)) f (waitaAddr f x) &&
        !waitaEq (x.visible (f.ord == 1)) f (waitaAddr f x) (fun l => x.src f.d 32 l))) = true ∧
    (let f := wf 0 0 0 false
     issues (.waita f) id (fun x => x.pass == 0) &&
     issues (.waita { f with off := 1 }) memSetup (fun x => waitaAddr { f with off := 1 } x 0 % 4 != 0 && x.pass.getLsbD 0) &&
     issues (.waita f) (owns 0x1000 ∘ memSetup) (fun x => two x && servedMet x f.spm .load 4 (waitaAddr f x) &&
       (touched x f.spm .load 4 (waitaAddr f x)).owned (memKey 0 0x1000))) = true ∧
    -- an acquire at scope .remote, once recalling has left no store, and while one is left
    (let f := { wf 0 0 1 false with scope := 5 }
     let far := fun (x : Issue) => ({ x with s := (x.visible true).s.recallCores } : Issue)
     issues (.waita f) memSetup (fun x => two x && waitaMet (far x) f (waitaAddr f x) && (far x).s.commits.all (fun c => c.2.isEmpty)) &&
     issues (.waita f) (commitLeft ∘ memSetup) (fun x => two x && waitaMet (far x) f (waitaAddr f x) && (far x).s.commits.any (fun c => !c.2.isEmpty))) = true ∧
    -- an address that faults, and one whose page is not present
    (let f := wf 0 0 0 false
     let spans := fun (x : Issue) => spanOf x false .load 4 (waitaAddr f x)
     issues (.waita f) (lane63 0x80000000) (fun x => two x && spanOk (spans x 0) && faultAt 63 (spans x) 8) &&
     issues (.waita f) (lane63 0x40000000) (fun x => two x && onlyParks x (spans x) && !spanOk (spans x 63))) = true ∧
    (Wait.waita (wf 0 0 0 false) 7 [(0, 1, 2), (63, 3, 4)]).drop 1 = .waita (wf 0 0 0 false) 7 [(63, 3, 4)] ∧
    -- an acquire whose buffer an engine or a burst check holds
    ((let s := grp (fun g => { g with beats := [⟨3, 1⟩] }) (inWaita (wf 0 1 1 false) 0 9 (put 0x7C))
      s.pointHeld 0) = true ∧ (inWaita (wf 0 1 1 false) 0 9 (put 0x7C)).pointHeld 0 = false) ∧
    [(0 : BitVec 2), 1].all (fun o =>
      let f := wf 0 1 o false
      let s := inWaita f 0 9 (memSetup (put 0x7C))
      let x : Issue := ⟨s, 0, 0, ((s.grp 0).entryAt 0).getD { pc := 0, prio := 0, mask := 0 }, 1, []⟩
      decide (x.e.wait = .waita f 0 ((lanesOf 1).map (fun l => (l, (fun _ => 0x1000) l, (fun _ => 9) l)))) && !s.bufferOwned 0 &&
        waitaMet x f (fun _ => 0x1000)) = true ∧
    -- the bound of 2 ^ 7 cycles: one short of it, and at it
    (let s := fun (c : Nat) => ({ inWaita (wf 0 1 0 false) 0 9 (put 0x7C) with cycle := c } : State)
     (s 127).clock 0 < 0 + 2 ^ (1 + 6) ∧ 0 + 2 ^ (1 + 6) ≤ (s 128).clock 0 ∧ (wf 0 1 0 false).wlim = 1 ∧ (wf 0 0 0 false).wlim = 0) := by
  decide +kernel

/-- A fence in flight, and a write to a peer that may wait for its acknowledgement. -/
def fenced (sc : Nat) (peer : Bool) (fk : Nat := 0) : State :=
  { opAt { gid := 0, pc := 8, flag := none, lanes := 3, entry := 3, pending := true, kind := .fence fk 3 sc } (put 0x7C) with
    peerWrites := if peer then [(0, ⟨0, none, 1, 0x100, [1]⟩)] else [] }
/-- Group 1 of the same team as group 0, and one more team of the same phase and cluster with group 2. -/
def threeGroups (s : State) : State :=
  { s with groups := [(0, s.grp 0), (1, s.grp 0), (2, { s.grp 0 with team := 1 })], teams := [(0, s.team 0), (1, s.team 0)] }
/-- The groups that arrived at barrier 3, with the count that the first fixed. -/
def arrived (cluster : Bool) (cnt : Nat) (l : List Nat) (s : State) : State :=
  if cluster then s.modPhase 0 (fun p => { p with bars := [(3, ⟨cnt, l⟩)] }) else s.modTeam 0 (fun t => { t with bars := [(3, ⟨cnt, l⟩)] })
/-- The hypotheses of an arrival at barrier 3, whose full arrival is or is not. -/
def arrivalMet (cluster : Bool) (full : Bool) (x : Issue) : Bool :=
  let b := x.s.bar x.gid cluster 3
  let cnt := if b.arrived = [] then barCnt x.e.word else b.cnt
  let here := b.arrived ++ [x.gid]
  decide (x.g.entries = [x.e]) && decide (x.e.mask = minus allLanes x.g.exited) && x.g.calm && !b.arrived.contains x.gid && decide b.arrived.Nodup &&
    (KMap.find? x.s.teams x.g.team).isSome && (KMap.find? x.s.phases (x.s.team x.g.team).phase).isSome && !x.s.pointHeld x.gid &&
    decide ((x.s.makeVisible x.gid).fifo ((x.s.makeVisible x.gid).coreOf x.gid) = []) &&
    full == (if cnt = 0 then (x.s.barMembers x.gid cluster).all here.contains && !(cluster && x.s.savedMember x.gid)
      else decide (cnt ≤ here.length))
/-- The context holds the saved image of one group of the same cluster. -/
def savedImage (s : State) : State := s.modCtx 0 (fun c => { c with images := [⟨0, 0, [], 0, s.team 0, [(7, s.grp 0)], []⟩] })
theorem test_FencesAndGroupBarriers_met :
    (let f : FM := ⟨0, 3, 4, .zero, .zero, 1, 0, .pred 3 false, false⟩
     issues (.fence f) id (fun x => x.pass == 0) && issues (.fence f) memSetup two) = true ∧
    (let ordered := fun (s : State) => decide ((s.makeVisible 0).fifo 0 = []) && s.peerWrites.all (fun w => w.2.ctx != (s.grp 0).ctx)
     let s := fenced 4 true
     let t := fenced 4 false
     let stored := grp (fun g => { g with buffer := [⟨8, 1, [⟨0, ⟨memKey 0 0x1020, 0x1020, none⟩, 1⟩], []⟩] }) t
     [s, t, stored].all (fun u => (KMap.find? u.ops 5).any (fun o => decide (o.kind = .fence 0 3 4)) && (KMap.find? u.groups 0).isSome &&
       !u.pointHeld 0) = true ∧
     ordered s = false ∧ ordered t = true ∧ ordered stored = false ∧ (grp (fun g => { g with beats := [⟨3, 1⟩] }) t).pointHeld 0 = true ∧
     -- FENCE .layer with a line that a visible store of the group wrote
     (let u := grp (fun g => { g with stored := [7] }) (fenced 0 false 1)
      (KMap.find? u.ops 5).any (fun o => decide (o.kind = .fence 1 3 0)) && !u.pointHeld 0 && decide ((u.makeVisible 0).fifo 0 = []) &&
        decide (7 ∈ (u.grp 0).stored)) = true) ∧
    [(Instr.bar ⟨.i32, 0, .zero, .zero, 0x13, .always, false⟩, false), (.barc ⟨.i32, 0, .zero, .zero, 0x13, .always, false⟩, true)].all (fun e =>
      -- the only arrival of a count of 1, which is all
      issues e.1 id (fun x => barCnt x.e.word == 1 && arrivalMet e.2 true x)) = true ∧
    [(Instr.bar ⟨.i32, 0, .zero, .zero, 0x23, .always, false⟩, false), (.barc ⟨.i32, 0, .zero, .zero, 0x23, .always, false⟩, true)].all (fun e =>
      -- the first and the second arrival of a count of 2
      issues e.1 threeGroups (fun x => barCnt x.e.word == 2 && arrivalMet e.2 false x) &&
      issues e.1 (arrived e.2 2 [1] ∘ threeGroups) (fun x => arrivalMet e.2 true x && (KMap.find? x.s.groups 1).isSome)) = true ∧
    [(Instr.bar ⟨.i32, 0, .zero, .zero, 3, .always, false⟩, false), (.barc ⟨.i32, 0, .zero, .zero, 3, .always, false⟩, true)].all (fun e =>
      -- CNT 0: the group of the team, and of the cluster, that is still to come, the last of each, and a saved group of the cluster
      issues e.1 threeGroups (fun x => barCnt x.e.word == 0 && arrivalMet e.2 false x) &&
      issues e.1 (arrived e.2 0 (if e.2 then [1, 2] else [1]) ∘ threeGroups) (fun x => arrivalMet e.2 true x) &&
      issues e.1 savedImage (fun x => arrivalMet e.2 (!e.2) x)) = true ∧
    [Instr.bar ⟨.i32, 0, .zero, .zero, 0x20F, .always, false⟩, .barc ⟨.i32, 0, .zero, .zero, 0x1800, .always, false⟩].all plain = true ∧
    (grp (fun g => { g with entries := g.entries.map (fun e => { e with wait := .bar true 3 }) }) (put 0x7C)).groups.any
      (fun e => e.2.entries.any (fun y => y.wait == .bar true 3)) = true := by decide +kernel

/-- v2 holds a tile configuration of f32 elements, 4 rows of 4 columns, or of 256 rows of 32 columns, or a larger one; tile 3 holds the
first. -/
def cfg4 : Nat := 8 * 2 ^ 28 + 3 * 2 ^ 20 + 3 * 2 ^ 8
def cfgTop : Nat := 8 * 2 ^ 28 + 255 * 2 ^ 20 + 31 * 2 ^ 8
def cfgOver : Nat := 8 * 2 ^ 28 + 255 * 2 ^ 20 + 32 * 2 ^ 8
def tile3 (t : Tile) (s : State) : State := s.modTeam 0 (fun u => { u with tiles := [(3, t)] })
theorem test_TileWords_met :
    (let ok := fun (c : Nat) => decide (c / 2 ^ 28 ≤ 8) && decide (c % 256 = 0) &&
       decide ((c / 2 ^ 20 % 2 ^ 8 + 1) * pitchOf (c / 2 ^ 28) (c / 2 ^ 8 % 2 ^ 12 + 1) ≤ 32768)
     let i : Instr := .tcfg { ctl .always with d := ⟨.k, 15⟩, a := ⟨.v, 2⟩ }
     [cfg4, cfgTop].all (fun c => issues i (v2Is (BitVec.ofNat 32 c)) (fun x => x.pass.getLsbD 0 && ok (x.src ⟨.v, 2⟩ 32 0) && (KMap.find? x.s.teams x.tid).isSome)) &&
     [cfgOver, cfg4 + 1, 9 * 2 ^ 28].all (fun c => issues i (v2Is (BitVec.ofNat 32 c)) (fun x => x.pass.getLsbD 0 && !ok (x.src ⟨.v, 2⟩ 32 0))) &&
     issues (.tcfg { ctl (.pred 3 false) with d := ⟨.k, 3⟩, a := ⟨.v, 2⟩ }) id (fun x => x.pass == 0)) = true ∧
    [true, false].all (fun b =>
      issues (.tzero { ctl .always with d := ⟨.k, 3⟩ }) (tile3 { poisoned := b }) (fun x => x.pass != 0 && (x.team.tile 3).poisoned == b && (KMap.find? x.s.teams x.tid).isSome) &&
      issues (.acz { ctl .always with d := ⟨.k, 2⟩ }) (fun s => s.modTeam 0 (fun t => { t with badRows := if b then [2 * 128] else [383 + 1] }))
        (fun x => x.pass != 0 && x.team.regionBad 2 == b && (KMap.find? x.s.teams x.tid).isSome)) = true ∧
    cfgValid cfg4 = true ∧ cfgValid cfgTop = true ∧ 3 < cfgRows cfg4 ∧ 3 < cfgCols cfg4 := by decide +kernel

/-- A tile word on tile 3 at an address in v2. -/
def tw (bit48 : BitVec 3) : FM := ⟨0, 0, bit48, ⟨.k, 3⟩, ⟨.v, 2⟩, 0xFF, 0x10, .pred 3 false, false⟩
/-- The address of the image of tile 3. -/
def imageAddr (f : FM) (x : Issue) : Nat := x.formed f f.offS 0 0 % 2 ^ 32
/-- The image of tile 3 is served. -/
def imageMet (f : FM) (kind : Acc) (x : Issue) : Bool :=
  let a := imageAddr f x
  x.pass.getLsbD 0 && a % 4 == 0 && !(x.team.tile 3).poisoned && decide ((x.team.tile 3).cfg = some cfg4) &&
    spanOk ((x.s.spadTouch x.tid a (imageBytes f.bit48 cfg4)).spadSpan x.tid kind a (imageBytes f.bit48 cfg4)) &&
    (match (x.s.spadTouch x.tid a (imageBytes f.bit48 cfg4)).spadSpan x.tid kind a (imageBytes f.bit48 cfg4) with
     | .ok sp => (x.s.spadTouch x.tid a (imageBytes f.bit48 cfg4)).slotsFor x.team.core (.tld 3 f.bit48 (sp.locs.map (fun q => ⟨q, x.g.buffered q⟩)))
     | .error _ => false)
/-- A transfer of tile 3 in flight, over two bytes of scratchpad. -/
def tileOp (k : OpKind) : State :=
  opAt { gid := 0, pc := 8, flag := none, lanes := 3, entry := 3, once := true, regs := [.t 3], kind := k } (tile3 { cfg := some cfg4 } (put 0x7C))
theorem test_TileTransfers_met :
    [(0 : BitVec 3), 1].all (fun b =>
      issues (.tld (tw b)) (tile3 { cfg := some cfg4 } ∘ memSetup) (imageMet (tw b) .load) &&
      issues (.tst (tw b)) (tile3 { cfg := some cfg4 } ∘ memSetup) (imageMet (tw b) .store) &&
      [Instr.tld (tw b), .tst (tw b)].all (fun i =>
        issues i id (fun x => x.pass == 0) &&
        issues i (tile3 { poisoned := true } ∘ memSetup) (fun x => x.pass.getLsbD 0 && imageAddr (tw b) x % 4 == 0 && (x.team.tile 3).poisoned) &&
        issues i memSetup (fun x => x.pass.getLsbD 0 && imageAddr (tw b) x % 4 == 0 && !(x.team.tile 3).poisoned && (x.team.tile 3).cfg.isNone))) = true ∧
    (let f := { tw 0 with off := 2 }
     [Instr.tld f, .tst f].all (fun i => issues i memSetup (fun x => x.pass.getLsbD 0 && imageAddr f x % 4 != 0))) = true ∧
    (let p : Loc := ⟨memKey (spTeam 0) 0x100, 0, none⟩
     [OpKind.tld 3 true [⟨p, none⟩, ⟨p, some 9⟩], .tst 3 false [p, p.add 1] []].all (fun k =>
       let s := tileOp k
       (KMap.find? s.ops 5).any (fun o => decide (o.kind = k)) && (KMap.find? s.teams 0).isSome && !((s.team 0).tile 3).poisoned &&
         decide (((s.team 0).tile 3).cfg = some cfg4) && !s.owned p.key && !s.owned (p.key + 1) && !s.badAt p && !s.badAt (p.add 1) &&
         !s.accessBefore 5 0 p && !s.pointHeld 0 && (KMap.find? s.groups 0).isSome && alone s [p]) &&
     (let s := { tileOp (.tst 3 false [⟨memKey 0 0x40, 0x40, none⟩] []) with poison := [1] }
      s.badAt ⟨memKey 0 0x40, 0x40, none⟩ && !s.owned (memKey 0 0x40) && !s.pointHeld 0)) = true := by decide +kernel

/-- One passing lane. -/
def oneLane (s : State) : State := grp (fun g => { g with p := [(3, 2)] }) s
/-- Row r of region 2 is poisoned. -/
def badRow (r : Nat) (s : State) : State := s.modTeam 0 (fun t => { t with badRows := [2 * 128 + r] })
theorem test_RegionTransfers_met :
    (let f : FM := ⟨0, 0, 1, ⟨.k, 2⟩, ⟨.v, 2⟩, 0xFF, 8, .pred 3 false, false⟩
     let g := { f with scope := 2, rb := 0x83 }
     [(Instr.acld f, f, Acc.load, 0), (.acst f, f, .store, 1), (.acld g, g, .load, 0)].all (fun (e : Instr × FM × Acc × Nat) =>
       issues e.1 (oneLane ∘ memSetup) (fun x => !x.team.rowBad 2 (64 + 1) && x.pass == 2 &&
         accessMet (x.touched e.2.1) e.2.1 e.2.1.offS 2048 8 e.2.2.2 e.2.1.accSpm e.2.2.1) &&
       issues e.1 (badRow 65 ∘ oneLane ∘ memSetup) (fun x => x.team.rowBad 2 (64 + 1) && x.pass == 2 &&
         accessMet (x.touched e.2.1) e.2.1 e.2.1.offS 2048 8 e.2.2.2 e.2.1.accSpm e.2.2.1) &&
       issues e.1 id (fun x => x.pass == 0))) = true ∧
    (let p : Loc := ⟨memKey (spTeam 0) 0x100, 0, none⟩
     let l := ⟨p, none⟩ :: List.replicate 2047 (⟨p, some 9⟩ : LByte)
     let s := tileOp (.acld 2 true [(63, l)])
     (KMap.find? s.ops 5).any (fun o => decide (o.kind = .acld 2 true [(63, l)])) = true ∧ (KMap.find? s.teams 0).isSome = true ∧
     (s.team 0).rowBad 2 (64 + 63) = false ∧ l.length = 2048 ∧ s.owned p.key = false ∧ s.accessBefore 5 0 p = false ∧ s.badAt p = false ∧
     alone s [p] = true) ∧
    (let p : Loc := ⟨memKey (spTeam 0) 0x100, 0, none⟩
     let s := tileOp (.acst 2 false [(0, [p, p.add 1], [])])
     s.pointHeld 0 = false ∧ (s.team 0).rowBad 2 0 = false ∧ [p, p.add 1].all (fun q => !s.owned q.key && !s.badAt q) = true) := by decide +kernel

/-! #### The matrix engines and engine commands -/

theorem test_EncodeOfDecode_met :
    0x12004110240C057C < 2 ^ 64 ∧
    decodeWord 0x12004110240C057C = .instr (.iaddc ⟨.i32, 0, ⟨.v, 4⟩, ⟨.v, 2⟩, ⟨.v, 3⟩, ⟨.k, 5⟩, .always, false⟩) := by decide

/-- The parameter block b stands at 0x1000 in the scratchpad, and v2 names it; slots 5 and 6 hold formats; the launch names model context
0, with two layers, of which layer 0 is in state st with generation 3. Tile 1 holds one row of T2, tile 2 one of i8, tile 3 one of f32. -/
def eng (st : LayerSt) (b : Nat) (s : State) : State :=
  let s1 := v2Is 0x1000 (slots s)
  let s2 := s1.modPhase 0 (fun p => { p with record := { p.record with mctx := 0 } })
  let s3 := s2.modTeam 0 (fun t => { t with tiles := [(1, { cfg := some 0 }), (2, { cfg := some (3 * 2 ^ 28) }), (3, { cfg := some cfg4 })] })
  let s4 := s3.modCtx 0 (fun c => { c with models := 15 * 2 ^ 48 + 0x30000, nmodels := 1, installow := 2 ^ 40, layers := [(0, { st := st, gen := 3 })] })
  { s4 with mem := s4.mem ++ bytesAt (memKey (spHost 0) 0x30000) 16 (2 + (15 * 2 ^ 48 + 0x30100) * 2 ^ 64) ++
      bytesAt (memKey (spHost 0) 0x30100) 8 0x40000 ++ bytesAt (memKey (spHost 0) 0x30120) 8 0x40040 ++
      bytesAt (memKey (spTeam 0) 0x1000) 64 b }
/-- BADDR names no barrier. -/
def noB : Nat := 0xFFFFFFFF * 2 ^ 384
/-- The 64 bytes at a scratchpad address hold b, on a line that no engine owns. -/
def blockAt (x : Issue) (a b : Nat) : Bool :=
  match x.s.spadSpan x.tid .load a 64 with
  | .ok sp => sp.locs.all (fun p => !x.s.owned p.key) && x.s.readOwn x.gid sp.locs == b
  | .error _ => false
/-- The block of an engine command is read: its address and its number, and whether its shared part is good. -/
def blockMet (x : Issue) (p : Operand) (a b : Nat) (good : Bool) : Bool :=
  !x.g.skip.contains x.pc && x.pass.getLsbD 0 && decide (x.src p 32 0 = a) && a % 64 == 0 && decide (a < 2 ^ 24) &&
    decide (a + 64 ≤ x.team.extent) && decide (x.phase.record.window a = none) && decide (x.s.fifo x.team.core = []) && decide (x.g.buffer = []) &&
    blockAt x a b && ((x.s.makeVisible x.gid).blockOk x.tid b == good)
/-- What blockMet computes is what Issue.commands asks. -/
theorem commands_of_met {x : Issue} {p : Operand} {a b : Nat} {good : Bool} (h : blockMet x p a b good = true) : x.commands p a b := by
  simp only [blockMet, Bool.and_eq_true, decide_eq_true_eq, Bool.not_eq_true', beq_iff_eq] at h
  obtain ⟨⟨⟨⟨⟨⟨⟨⟨⟨⟨h1, h2⟩, h3⟩, h4⟩, h5⟩, h6⟩, h7⟩, h8⟩, h9⟩, h10⟩, -⟩ := h
  refine ⟨h1, ⟨0, h2, by simp, h3.symm⟩, h4, h5, h6, h7, h8, h9, ?_⟩
  unfold blockAt at h10
  cases hs : x.s.spadSpan x.tid .load a 64 with
  | error m => rw [hs] at h10; cases h10
  | ok sp =>
    rw [hs] at h10
    simp only [Bool.and_eq_true, List.all_eq_true, Bool.not_eq_true', beq_iff_eq] at h10
    exact ⟨sp, rfl, h10.1, h10.2.symm⟩
/-- An engine command owns a line of the team's scratchpad. -/
def ownsSpad (a : Nat) (s : State) : State := { s with cmds := [(9, { kind := .cpy, team := 0, gid := 0, ctx := 0, core := 0, pc := 8, baddr := 0, blockAddr := 0, block := 0, seq := 0, owned := [lineKey (memKey (spTeam 0) a)] })] }
/-- The core has committed a store that is not yet visible beyond it, by another group. -/
def committed (s : State) : State := { s with commits := [(0, [⟨1, 0, 0, ⟨8, 1, [⟨0, ⟨memKey (spTeam 0) 4, 0, none⟩, 2⟩], []⟩⟩])] }

/-- The ACV block: region 0 to tile 3, 2 by 3 entries, with a row vector at 0x2000. -/
def acvBlock : Nat := 3 * 2 ^ 4 + 2 ^ 8 + 2 * 2 ^ 16 + 2 ^ 40 + 0x2000 * 2 ^ 64
/-- An ACV in flight that is granted, or waits. -/
def acvOp (granted : Bool) : State :=
  let s := opAt { gid := 0, pc := 8, flag := none, lanes := 1, entry := 1, once := true, kind := .acv acvBlock 6 4 [1, 2] [] [] } (eng .resident 0 (put 0x7C))
  s.modDistrict 0 (fun d => if granted then { d with granted := [(.acv 5, 4)] } else d)
/-- The hypotheses of ACV at its issue: before the operand checks, and after them. -/
def acvMet (b : Nat) (x : Issue) : Bool :=
  let i : Instr := .acv { fe 0 6 0 with x := ⟨.k, 4⟩ }
  x.pass.getLsbD 0 && decide (x.src ⟨.v, 2⟩ 32 0 = 0x1000) && decide (x.phase.record.window 0x1000 = none) && decide (0x1000 + 64 ≤ x.team.extent) &&
    (match x.s.spadSpan x.tid .load 0x1000 64 with
     | .ok sp => x.s.readOwn x.gid sp.locs == b
     | .error _ => false) &&
    (Slot.decode (x.phase.slot 6)).isSome &&
    (match preIssue i (eng .resident b (put ((encode i).getD 0))) with
     | some y => y.pass.getLsbD 0 && decide (y.src ⟨.v, 2⟩ 32 0 = 0x1000) &&
         (match y.s.spadSpan y.tid .load 0x1000 64 with
          | .ok sp => y.s.readOwn y.gid sp.locs == b
          | .error _ => false)
     | none => false)
/-- acvOk answers good. -/
def acvIs (b : Nat) (good : Bool) (x : Issue) : Bool :=
  match Slot.decode (x.phase.slot 6) with
  | some sl => acvOk x.team x.phase.sched sl.otype b == good
  | none => false
/-- The three vectors are served, on lines that are owned or not. -/
def vectorsMet (b : Nat) (held : Bool) (x : Issue) : Bool :=
  match (acvVectors b).mapM (x.touchVectors b).vector with
  | .ok l => (l.flatMap (fun (sp : Span) => sp.locs)).any (fun p => (x.touchVectors b).s.owned p.key) == held && l.length == 3 &&
      alone (x.touchVectors b).s (l.flatMap (fun (sp : Span) => sp.locs))
  | .error _ => false
theorem test_Conversion_met :
    (let i : Instr := .acv { fe 0 6 0 with x := ⟨.k, 4⟩ }
     let own := fun (b : Nat) (x : Issue) => blockAt x 0x1000 b
     issues i (eng .resident acvBlock) (fun x => acvMet acvBlock x && own acvBlock x && acvIs acvBlock true x && !x.team.tileBad 3 &&
       !x.team.blockBad acvBlock && vectorsMet acvBlock false x) &&
     issues i (ownsSpad 0x2000 ∘ eng .resident acvBlock) (fun x => acvMet acvBlock x && own acvBlock x && acvIs acvBlock true x && vectorsMet acvBlock true x) &&
     issues i (ownsSpad 0x1000 ∘ eng .resident acvBlock) (fun x => acvMet acvBlock x && !own acvBlock x) &&
     issues i (eng .resident (acvBlock + 2 ^ 31)) (fun x => acvMet (acvBlock + 2 ^ 31) x && own (acvBlock + 2 ^ 31) x && acvIs (acvBlock + 2 ^ 31) false x) &&
     issues i ((fun s => s.modTeam 0 (fun t => { t with badRows := [1] })) ∘ eng .resident acvBlock) (fun x =>
       acvMet acvBlock x && own acvBlock x && acvIs acvBlock true x && x.team.blockBad acvBlock) &&
     -- the current has no holder of this operation before
     issues i (eng .resident acvBlock) (fun x => ((x.s.district 0).waiting ++ (x.s.district 0).granted).isEmpty)) = true ∧
    [true, false].all (fun b =>
      let s := acvOp b
      (KMap.find? s.ops 5).any (fun o => decide (o.kind = .acv acvBlock 6 4 [1, 2] [] [])) && (s.granted 0 (.acv 5) == b) &&
        (match Slot.decode ((s.phase (s.team 0).phase).slot 6) with
         | some sl => acvOk (s.team 0) (s.phase (s.team 0).phase).sched sl.otype acvBlock
         | none => false) && decide (((s.team 0).tile 3).cfg = some cfg4) && (KMap.find? s.teams 0).isSome && (KMap.find? s.groups 0).isSome) = true := by
  decide +kernel

theorem test_MatrixArithmetic_met :
    (0 < 4 ∧ (-128 : Int) = -2 ^ (2 * 4 - 1) ∧ (127 : Int) < 2 ^ (2 * 4 - 1)) ∧ (0 < 1 ∧ 127 * 4 ^ 1 * 128 < 2 ^ 23 ∧ (-2 ^ (2 * 1 - 1) : Int) ≤ 1) := by
  norm_num

/-- The MXA block of T2 by i8, one entry, and one that names layer 0 with a generation. -/
def mxaBlock : Nat := 1 * 2 ^ 8 + 2 * 2 ^ 12 + 0xFFFF * 2 ^ 320 + noB
def mxaLayer (gen : Nat) : Nat := 1 * 2 ^ 8 + 2 * 2 ^ 12 + gen * 2 ^ 336 + noB
/-- A command 7 of the team, with lines and fields. -/
def withCmd (c : Cmd) (s : State) : State :=
  { s with cmds := [(7, c)], ops := [(5, { gid := 0, pc := 8, flag := none, lanes := allLanes, entry := allLanes, once := true, kind := .cmd 7 })] }
def mxaCmd (started : Bool) : Cmd :=
  { kind := .mxa, team := 0, gid := 0, ctx := 0, core := 0, pc := 8, baddr := noBarrier, blockAddr := 0x1000, block := mxaBlock, slot := 5
    started := started, owned := [blockLine 0 0x1000], results := if started then [(accKey 0 0 0, 7)] else [] }
/-- Passes left in the window of the issue's core. -/
def passLeft (x : Issue) : Bool :=
  let s := x.s.govSync x.team.core
  let k := s.core x.team.core
  decide (k.passes < min k.limit s.pwr.gov)
/-- The checks of the block and of MXA answer good. -/
def mxaIs (b : Nat) (good : Bool) (x : Issue) : Bool :=
  match Slot.decode (x.phase.slot 5) with
  | some sl => (((x.s.govSync x.team.core).makeVisible x.gid).blockOk x.tid b && mxaOk x.team x.phase.sched sl b) == good
  | none => false
/-- The layer that the MXA names is bad, or layer 0 in a state with generation 3. -/
def mxaLayerIs (b : Nat) (st : Option LayerSt) (x : Issue) : Bool :=
  let x1 := Issue.touchLayer { x with s := (x.s.govSync x.team.core).makeVisible x.gid } (mxLayer b)
  match x1.s.layerRef x.ctx x.phase (mxLayer b), st with
  | .ok (.layer m l), some t => decide ((x1.s.layer x.ctx m l).st = t) && (x1.s.layer x.ctx m l).gen == 3
  | .ok .bad, none => true
  | _, _ => false
/-- Commands of the core that run. -/
def busy (l : List (Nat × Cmd)) (s : State) : State := { s with cmds := s.cmds ++ l }
/-- The hypotheses of a start, with the current granted or not. -/
def mxaStartMet (s : State) (c : Cmd) (granted : Bool) : Bool :=
  s.mxaReady 7 c && !s.mxaBad c && (s.granted 0 (.mxa 7) == granted) && (KMap.find? s.cmds 7).any (fun d => decide (d = c)) &&
    (Slot.decode ((s.phase (s.team c.team).phase).slot c.slot)).isSome
theorem test_MatrixMultiply_met :
    (let i : Instr := .mxa (fe 0 5 0)
     let ok := fun (b : Nat) (x : Issue) => blockMet x ⟨.v, 2⟩ 0x1000 b true
     issues (.mxa { fe 0 5 0 with g := .pred 3 false }) slots (fun x => x.pass == 0) &&
     -- held by the governor, and by the core's stores
     issues i ((fun s => s.modCore 0 (fun k => { k with passes := 32 })) ∘ eng .resident mxaBlock) (fun x => !passLeft x && x.pass.getLsbD 0 && ok mxaBlock x) &&
     -- one that has taken its pass goes on in a full window
     issues i (grp (fun g => { g with entries := g.entries.map (fun e => { e with governed := true }) }) ∘
       (fun s => s.modCore 0 (fun k => { k with passes := 32 })) ∘ eng .resident mxaBlock) (fun x => !passLeft x && x.e.governed && ok mxaBlock x) &&
     issues i (committed ∘ eng .resident mxaBlock) (fun x => passLeft x && x.pass.getLsbD 0 && !x.g.skip.contains x.pc &&
       decide (((x.s.govSync 0).makeVisible 0).fifo 0 ≠ [])) &&
     -- a bad block, one without a layer, and those that name one
     issues i (eng .absent (mxaBlock + 1)) (fun x => ok (mxaBlock + 1) x && passLeft x && mxaIs (mxaBlock + 1) false x) &&
     issues i (eng .absent mxaBlock) (fun x => ok mxaBlock x && passLeft x && mxaIs mxaBlock true x && mxLayer mxaBlock == 0xFFFF) &&
     issues i (eng .absent (mxaLayer 3 + 2 * 2 ^ 320)) (fun x => ok (mxaLayer 3 + 2 * 2 ^ 320) x && passLeft x && mxaIs (mxaLayer 3 + 2 * 2 ^ 320) true x &&
       mxaLayerIs (mxaLayer 3 + 2 * 2 ^ 320) none x) &&
     [(LayerSt.resident, mxaLayer 3), (.arriving, mxaLayer 3), (.absent, mxaLayer 3), (.resident, mxaLayer 2)].all (fun e =>
       issues i (eng e.1 e.2) (fun x => ok e.2 x && passLeft x && mxaIs e.2 true x && mxLayer e.2 == 0 && mxaLayerIs e.2 (some e.1) x))) = true ∧
    (let c := mxaCmd false
     let s := withCmd c (eng .resident mxaBlock (put 0x7C))
     let two : List (Nat × Cmd) := [(8, { mxaCmd true with block := mxaBlock + 16, started := true }), (9, { mxaCmd true with block := mxaBlock + 32, engine := 1 })]
     mxaStartMet s c false && (s.pickEngine 0).isSome && decide (s.mxaAsked 7 0 < 2) &&
     -- both engines busy; an engine free, but two ask
     mxaStartMet (busy two s) c false && (busy two s).pickEngine 0 == none &&
     (let u := { busy (two.map (fun e => (e.1, { e.2 with started := false }))) s with
         pwr := { s.pwr with districts := [(0, { s.district 0 with waiting := [(.mxa 8, 12), (.mxa 9, 12)] })] } }
      mxaStartMet u c false && (u.pickEngine 0).isSome && decide (2 ≤ u.mxaAsked 7 0)) &&
     (let u := s.modDistrict 0 (fun d => { d with granted := [(.mxa 7, 12)] })
      mxaStartMet u c true && (u.pickEngine 0).isSome &&
        (match Slot.decode ((u.phase (u.team c.team).phase).slot c.slot) with
         | some sl => alone (u.mxaTouch c sl) ((u.mxaTouch c sl).imageLocs c sl) &&
           (match (u.mxaTouch c sl).mxaImages c sl with
            | .ok _ => true
            | .error _ => false) && (replayed sl (mxK c.block) (mxK c.block) 0 0).isSome
         | none => false))) = true ∧
    -- a poisoned tile, with and without the current; and an image of two bytes, read at once, after another command, or poisoned
    (let c := mxaCmd false
     let s := (withCmd c (eng .resident mxaBlock (put 0x7C))).modTeam 0 (fun t => { t with tiles := t.tiles.map (fun e => (e.1, { e.2 with poisoned := true })) })
     s.mxaBad c && !s.granted 0 (.mxa 7) && (s.modDistrict 0 (fun d => { d with granted := [(.mxa 7, 12)] })).granted 0 (.mxa 7)) = true ∧
    (let b := mxaBlock + 2 + 0x4000 * 2 ^ 128 + 2 ^ 256 + 2 ^ 16
     let c := { mxaCmd false with block := b }
     let s := withCmd c (eng .resident b (put 0x7C))
     let staging := busy [(8, { mxaCmd true with block := mxaBlock + 16, staged := [⟨0, 0, ⟨memKey 0 0x4000, 0x4000, none⟩, 1, none⟩] })] s
     match Slot.decode ((s.phase (s.team c.team).phase).slot c.slot) with
     | some sl => bitOf b 1 && decide (0 < mxM b) && s.mxaReady 7 c && !s.mxaBad c && (s.pickEngine 0).isSome &&
         (match s.mxaImages c sl with
          | .ok l => l.1.length == mxM b
          | .error _ => false) &&
         (s.imageLocs c sl).all (fun p => !s.readWaits 7 c p && !s.badAt p) && !(s.imageLocs c sl).isEmpty && alone s (s.imageLocs c sl) &&
         (staging.imageLocs c sl).any (fun p => staging.readWaits 7 c p) && (s.imageLocs c sl).any (fun p => (poison 0x4000 s).badAt p)
     | none => false) = true ∧
    (let c := mxaCmd true
     let s := withCmd c (eng .resident mxaBlock (put 0x7C))
     (s.modTeam 0 (fun t => { t with badRows := [0] })).mxaBad c && !s.mxaBad c && c.started) = true ∧
    (let c := mxaCmd true
     let s := withCmd c (eng .resident mxaBlock (put 0x7C))
     !s.blockWaits 7 c && (KMap.find? s.teams c.team).isSome && decide (c.results.map (·.1)).Nodup && decide (c.baddr = noBarrier) && !s.endBad c &&
     (busy [(9, { mxaCmd true with seq := 0 })] (withCmd { c with seq := 1 } (put 0x7C))).blockWaits 7 { c with seq := 1 }) = true := by decide +kernel

/-- A group whose lanes accepted the word at its address before a context fault. -/
def skipped (s : State) : State := grp (fun g => { g with skip := [8] }) s
/-- A layout record: one-byte channels, 32 of them, one row and column in and out. -/
def lrec : Nat := 0x4000 + 2 ^ 64 + 2 ^ 80 + 32 * 2 ^ 96 + 2 ^ 224 + 2 ^ 240 + 2 ^ 256 + 2 ^ 260
/-- The layout record stands at 0x2000. -/
def withLrec (s : State) : State := { s with mem := s.mem ++ bytesAt (memKey (spTeam 0) 0x2000) 64 lrec }
/-- Blocks: HRED, HGAT, HFETCH of one word, INST of 16 KiB for layer 1, CPY of a row of 32 bytes, CPYL slice 0 of 2, INSTQ of layer 1. -/
def hredB : Nat := 0x2000 + 0x4000 * 2 ^ 64 + noB
def hgatB : Nat := 0x2000 + 0x4000 * 2 ^ 64 + 0x3000 * 2 ^ 128 + noB
def instB : Nat := 1 + 0x4000 * 2 ^ 64 + 16384 * 2 ^ 128 + noB
def cpyB : Nat := 0x4000 + 0x3000 * 2 ^ 64 + 32 * 2 ^ 192 + 2 ^ 216 + 2 ^ 247 + noB
def cpylB : Nat := 0x2000 + 2 ^ 36 + 0x3000 * 2 ^ 64 + 32 * 2 ^ 96 + noB
def instqB : Nat := 1 * 2 ^ 256 + noB
/-- The engine words with a block. -/
def blockWords : List Instr :=
  [.cpy (fe 0 0 0), .cpyl { fe 0 0 0 with x := ⟨.v, 3⟩ }, .hred (fe 0 0 0), .hgat (fe 0 0 0), .hfetch (fe 0 0 0), .inst (fe 0 0 0),
    .instqQuery (fe 0 0 0), .instqAbort (fe 1 0 0)]
/-- A scratchpad address of the block, v2 in every lane. -/
def blockV2 (a : Word) (p : Nat → Issue → Bool) : Bool :=
  blockWords.all (fun i => issues i (v2Is a) (fun x => !x.g.skip.contains x.pc && x.pass.getLsbD 0 && decide (x.src ⟨.v, 2⟩ 32 0 = a.toNat) && p a.toNat x))
/-- A command of a kind with a block b is accepted: good, or its own check fails. -/
def ownBad (i : Instr) (b : Nat) (p : Issue → Bool) : Bool := issues i (withLrec ∘ eng .resident b) (fun x => blockMet x ⟨.v, 2⟩ 0x1000 b true && p x)
/-- A layer that a word names is bad, or is layer l of model context 0. -/
def refIs (x : Issue) (l : Nat) (good : Bool) : Bool :=
  match (Issue.touchLayer { x with s := x.s.makeVisible x.gid } l).s.layerRef x.ctx x.phase l with
  | .ok (.layer _ _) => good
  | .ok .bad => !good
  | _ => false
theorem test_CommandsAccepted_met :
    (Instr.lyrq (fe 0 0 0) :: blockWords).all (fun i => issues i skipped (fun x => x.pass != 0 && x.g.skip.contains x.pc)) = true ∧
    [Instr.cpy { fe 0 0 0 with g := .pred 3 false }, .lyrq { fe 0 0 0 with g := .pred 3 false }].all (fun i => issues i id (fun x => x.pass == 0)) = true ∧
    -- a misaligned block, blocks outside the scratchpad, and a block that fails a shared check
    blockV2 0x1020 (fun a _ => a % 64 != 0) = true ∧
    blockV2 0x1000000 (fun a _ => a % 64 == 0 && decide (2 ^ 24 ≤ a)) = true ∧
    blockV2 0x10000 (fun a x => a % 64 == 0 && decide (x.team.extent < a + 64)) = true ∧
    blockWords.all (fun i => issues i (eng .resident (2 ^ 416)) (fun x => blockMet x ⟨.v, 2⟩ 0x1000 (2 ^ 416) false)) = true := by decide +kernel
theorem test_CommandsAccepted_holds_met :
    -- stores of the core that are not visible, and a block in a stash window
    blockWords.all (fun i => issues i (committed ∘ eng .resident cpyB) (fun x => decide (x.src ⟨.v, 2⟩ 32 0 = 0x1000) && decide ((x.s.makeVisible 0).fifo 0 ≠ []) &&
      !x.g.skip.contains x.pc && decide (0x1000 + 64 ≤ x.team.extent))) = true ∧
    blockWords.all (fun i => issues i (v2Is 0x800 ∘ memSetup) (fun x => decide (x.src ⟨.v, 2⟩ 32 0 = 0x800) && decide ((x.s.makeVisible 0).fifo 0 = []) &&
      decide (x.phase.record.window 0x800 ≠ none) && !x.g.skip.contains x.pc && x.pass.getLsbD 0)) = true := by decide +kernel
theorem test_CommandsAccepted_kinds_met :
    [(Instr.hred (fe 3 0 1), hredB), (.hred (fe 0 0 2), hredB), (.hgat (fe 0 0 0), hgatB), (.hfetch (fe 0 0 1), hredB), (.inst (fe 0 0 0), instB),
     (.cpy (fe 0 0 0), cpyB), (.cpyl { fe 0 0 0 with x := ⟨.v, 3⟩ }, cpylB), (.instqQuery (fe 0 0 0), instqB), (.instqAbort (fe 1 0 0), instqB)].all (fun e =>
      issues e.1 (withLrec ∘ eng .resident e.2) (fun x =>
        let s1 := x.s.makeVisible x.gid
        blockMet x ⟨.v, 2⟩ 0x1000 e.2 true && s1.cmds.isEmpty && x.g.calm && refIs x 1 true &&
        (match (Issue.touchLayer { x with s := s1 } 1).s.layerDesc x.ctx x.phase.record.mctx 1 with
         | .ok (some _) => !s1.spoiled (memKey (spTeam x.tid) (0x1000 + 56))
         | _ => false) && (KMap.find? s1.copies (copyKey x.tid 0)).isNone && decide (x.phase.record.window 0x2000 = none) &&
        (match s1.spadSpan x.tid .load 0x2000 64 with
         | .ok sp => lrecOk (s1.readOwn x.gid sp.locs) && sp.locs.all (fun p => !s1.owned p.key)
         | .error _ => false))) = true ∧
    (cpyOk cpyB = true ∧ cpSli .cpy cpyB = 0 ∧ cpNsl .cpy cpyB = 1 ∧ cpylOk cpylB = true ∧ cpSli .cpyl cpylB = 0 ∧ cpNsl .cpyl cpylB = 2 ∧
      insSize instB = 16384 ∧ insLayer instB = 1 ∧ iqLayer instqB = 1 ∧ bitsOf instqB 383 272 = 0) := by decide +kernel
theorem test_CommandsAccepted_refusals_met :
    -- the checks of each kind: addresses that are not aligned, a size of 0, layers that are not there, no model context
    ownBad (.hred (fe 0 0 2)) (hredB + 4 * 2 ^ 64) (fun _ => (hredB + 4 * 2 ^ 64) / 2 ^ 64 % 2 ^ 64 % 64 != 0) = true ∧
    ownBad (.hgat (fe 0 0 0)) (hgatB + 2 * 2 ^ 128) (fun _ => true) = true ∧ ownBad (.hfetch (fe 0 0 0)) (hredB + 2) (fun _ => true) = true ∧
    ownBad (.inst (fe 0 0 0)) (instB + 2 ^ 128) (fun _ => insSize (instB + 2 ^ 128) % 16384 != 0) = true ∧
    ownBad (.inst (fe 0 0 0)) (instB + 4) (fun x => insLayer (instB + 4) == 5 && refIs x 5 false) = true ∧
    ownBad (.cpy (fe 0 0 0)) (cpyB + 2 ^ 247) (fun _ => !cpyOk (cpyB + 2 ^ 247)) = true ∧
    ownBad (.cpyl { fe 0 0 0 with x := ⟨.v, 3⟩ }) (cpylB + 2 ^ 30) (fun x => !x.team.within ((cpylB + 2 ^ 30) % 2 ^ 32) 64) = true ∧
    ownBad (.cpyl { fe 0 0 0 with x := ⟨.v, 3⟩ }) (cpylB + 0x1000) (fun x => cpylOk (cpylB + 0x1000) && x.team.within 0x3000 64 &&
      (match x.s.spadSpan x.tid .load 0x3000 64 with
       | .ok sp => !lrecOk (x.s.readOwn x.gid sp.locs)
       | .error _ => false)) = true ∧
    issues (.cpyl { fe 0 0 0 with x := ⟨.v, 3⟩ }) (ownsSpad 0x2000 ∘ withLrec ∘ eng .resident cpylB) (fun x => blockMet x ⟨.v, 2⟩ 0x1000 cpylB true &&
      (match x.s.spadSpan x.tid .load 0x2000 64 with
       | .ok sp => sp.locs.any (fun p => x.s.owned p.key)
       | .error _ => false)) = true ∧
    [Instr.instqQuery (fe 0 0 0), .instqAbort (fe 1 0 0)].all (fun i =>
      ownBad i (instqB + 2 ^ 272) (fun _ => bitsOf (instqB + 2 ^ 272) 383 272 != 0) &&
      ownBad i (5 * 2 ^ 256 + noB) (fun x =>
        match (Issue.touchLayer { x with s := x.s.makeVisible x.gid } 5).s.layerDesc x.ctx x.phase.record.mctx 5 with
        | .ok none => true
        | _ => false)) = true := by decide +kernel
theorem test_CommandsAccepted_layers_met :
    -- LYRQ with and without the next layer: layers 0 and 1 are there, layer 2 is not
    [(0, (fe 0 0 0), true), (0, (fe 0 0 1), true), (1, (fe 0 0 1), true), (2, (fe 0 0 0), false)].all (fun (e : Word × FE × Bool) =>
      issues (.lyrq e.2.1) (v2Is e.1 ∘ eng .resident 0) (fun x => !x.g.skip.contains x.pc && x.pass.getLsbD 0 && decide (x.src ⟨.v, 2⟩ 32 0 = e.1.toNat) &&
        decide ((x.s.makeVisible x.gid).fifo x.team.core = []) && refIs x e.1.toNat e.2.2)) = true ∧
    (fe 0 0 1).ef.getLsbD 0 = true ∧ (fe 0 0 0).ef.getLsbD 0 = false ∧
    issues (.lyrq (fe 0 0 0)) (v2Is 0x10000 ∘ eng .resident 0) (fun x => decide (x.src ⟨.v, 2⟩ 32 0 = 2 ^ 16) && x.pass.getLsbD 0) = true ∧
    issues (.lyrq (fe 0 0 0)) (committed ∘ v2Is 0 ∘ eng .resident 0) (fun x => decide ((x.s.makeVisible x.gid).fifo x.team.core ≠ [])) = true ∧
    -- an install in progress that an abort turns over
    issues (.instqAbort (fe 1 0 0)) ((fun s => { s with cmds := [(3, { kind := .inst, team := 0, gid := 0, ctx := 0, core := 0, pc := 8, baddr := noBarrier, blockAddr := 0x3000, block := instB })] }) ∘
      eng .resident instqB) (fun x => blockMet x ⟨.v, 2⟩ 0x1000 instqB true && x.s.cmds.any (fun e => e.2.kind == .inst && e.2.ctx == x.ctx &&
        e.2.slot == x.phase.record.mctx && insLayer e.2.block == iqLayer instqB)) = true := by decide +kernel

/-- A started command of a kind, with two steps. -/
def running (k : CmdKind) (b : Nat) : Cmd :=
  { kind := k, team := 0, gid := 0, ctx := 0, core := 0, pc := 8, baddr := noBarrier, blockAddr := 0x1000, block := b, started := true
    owned := [blockLine 0 0x1000, 99] }
/-- A command in flight, on a page that is there. -/
def inFlight (k : CmdKind) (b : Nat) : State := withCmd (running k b) (eng .resident b (put 0x7C))
/-- A step of the command can be made. -/
def stepMet (s : State) (c : Cmd) (i : Nat) : Bool :=
  c.started && decide (i < c.steps) && !c.done.contains i && decide (c.done.length + 1 < c.steps) &&
    (match (s.pieceTouch c i).piece c i with
     | .ok p => !(s.pieceTouch c i).pieceWaits 7 c p && p.reads.all (fun q => !((s.pieceTouch c i).pieceRecall p).badAt q) &&
         alone (s.pieceTouch c i) p.reads && alone (s.pieceTouch c i) p.dst.locs && decide (p.dst.locs.map (·.key)).Nodup &&
         p.dst.locs.all (fun q => !isPeer q.key)
     | .error _ => false)
theorem test_EngineSteps_met :
    (let u : CopyUnit := ⟨7, 0, 2, 0⟩
     let s := { put 0x7C with units := [(1, [u])] }
     KMap.getD s.units [] 0 = [] ∧ KMap.getD s.units [] 1 = [u] ∧ s.unitTaken u = false) ∧
    [(CmdKind.hred, hredB + 2 ^ 32), (.hfetch, hredB + 2 ^ 32), (.hgat, hgatB + 2 ^ 32)].all (fun e =>
      let s := inFlight e.1 e.2
      stepMet s (running e.1 e.2) 1 && !s.blockWaits 7 (running e.1 e.2)) = true ∧
    (let b := cpyB + 32 * 2 ^ 192
     let s := { inFlight .cpy b with units := [(0, [⟨7, 0, 2, 0⟩])] }.modDistrict 0 (fun d => { d with granted := [(.unit 7 0, 2)] })
     stepMet s (running .cpy b) 1 && decide ((running .cpy b).rowSectors = 2) && decide (s.unitOf 7 1 = some (0, ⟨7, 0, 2, 0⟩)) && s.granted 0 (.unit 7 0)) = true ∧
    (match (inFlight .hred (hredB + 2 ^ 127)).cmdProbe 7 (running .hred (hredB + 2 ^ 127)) 0 with
     | .error (.fault _ _) => true
     | _ => false) = true ∧
    (let s := inFlight .hred hredB
     99 ≠ blockLine 0 0x1000 ∧ s.lineOpen (running .hred hredB) 99 = false ∧ 99 ∈ (running .hred hredB).owned) ∧
    -- the steps of each kind touch spans that are served; a row of CPYL inside its image and one outside of it
    [(CmdKind.cpy, cpyB), (.hred, hredB), (.hgat, hgatB), (.hfetch, hredB)].all (fun e =>
      (inFlight e.1 e.2).piece (running e.1 e.2) 0 matches .ok _) = true ∧
    [(0 : Nat), 1].all (fun x =>
      let c := { running .cpyl (cpylB - 2 ^ 36) with lrec := lrec, x := x }
      (withCmd c (eng .resident cpylB (put 0x7C))).piece c 0 matches .ok ⟨_, ⟨src, _⟩, ⟨_ :: _, _⟩, false⟩ &&
        decide (c.steps = 1)) = true ∧
    -- a staged byte on a line of DRAM that is poisoned, or not; and one on the block's own line
    (let c := { running .hred hredB with done := [0], owned := [0x100], staged := [⟨0, 0, ⟨memKey 0 0x4000, 0x4000, none⟩, 1, none⟩] }
     let s := withCmd c (eng .resident hredB (put 0x7C))
     s.ownsLine c 0x100 && decide (0x100 ≠ blockLine 0 0x1000) && !s.lineOpen c 0x100 && c.staged.all (fun b => !s.badAt b.loc) &&
       alone s (c.staged.map (·.loc)) && c.staged.any (fun b => (poison 0x4000 s).badAt b.loc) && (poison 0x4000 s).endBad c && !s.endBad c) = true ∧
    (let c := { running .inst instB with code := some 4 }
     (withCmd c (eng .resident instB (put 0x7C))).blockWaits 7 c = false) := by decide +kernel

/-! #### Special registers, system words, groups and the Forecourt -/

/-- An S word: SUB, D, A and IDX. -/
def fs (sub : BitVec 4) (d a : Operand) (idx : BitVec 12) : FS := ⟨sub, d, a, idx, .always, false⟩
/-- An answer that is .ok. -/
def isOk {α β : Type} : Except α β → Bool
  | .ok _ => true
  | .error _ => false
theorem test_SpecialRegisters_met :
    [(0, 0), (1, 4), (2, 5), (0, 16), (0, 18)].all (fun (e : Nat × Nat) => issues (.srd (fs (BitVec.ofNat 4 e.1) ⟨.v, 6⟩ .zero (BitVec.ofNat 12 e.2))) id (fun x => x.pass != 0)) = true ∧
    [10, 11].all (fun (i : Nat) => issues (.swr (fs 0 .zero ⟨.v, 6⟩ (BitVec.ofNat 12 i))) data (fun x => x.pass.getLsbD 0)) = true ∧
    issues (.swr { fs 0 .zero ⟨.v, 6⟩ 11 with g := .pred 3 false }) id (fun x => x.pass == 0) = true ∧
    issues (.prvr (fs 4 ⟨.v, 6⟩ .zero 0x104)) id (fun x => x.pass != 0) = true ∧ issues (.prvr (fs 2 ⟨.v, 6⟩ .zero 18)) id (fun x => x.pass != 0) = true ∧
    issues (.prvw (fs 6 .zero ⟨.v, 6⟩ 0x104)) data (fun x => x.pass.getLsbD 0 && !(x.done x.g).ident.limited) = true ∧
    [0, 1, 2].all (fun (b : Nat) => issues (.prvw (fs (BitVec.ofNat 4 b) .zero ⟨.v, 6⟩ 10)) data (fun x => x.pass.getLsbD 0)) = true ∧
    issues (.prvw { fs 6 .zero ⟨.v, 6⟩ 0x104 with g := .pred 3 false }) id (fun x => x.pass == 0) = true := by decide +kernel

/-- Where no listed group has a deferred trap, no group has. -/
theorem noneDeferred {s : State} (h : s.groups.all (fun e => e.2.deferred.isNone) = true) (gid : Nat) : (s.grp gid).deferred = none := by
  have key : ∀ m : KMap Group, m.all (fun e => e.2.deferred.isNone) = true → (KMap.getD m {} gid).deferred = none := by
    intro m hm
    induction m with
    | nil => rfl
    | cons e m ih =>
      simp only [List.all_cons, Bool.and_eq_true, Option.isNone_iff_eq_none] at hm
      by_cases he : e.1 = gid
      · simpa [KMap.getD, KMap.find?, he] using hm.1
      · simpa [KMap.getD, KMap.find?, he] using ih hm.2
  exact key _ h

/-- Context 1 is in a state; v6 is 1 in every lane. -/
def ctx1 (st : CtxState) (s : State) : State :=
  { grp (fun g => { g with v := (List.range 64).map (fun l => (6 * 64 + l, 1)) }) s with ctxs := s.ctxs ++ [(1, { st := st })] }
/-- The fault record of the STOPPED context 1 has an address: none, one that can be written, one on an absent page, one outside the tables. -/
def frec1 (a : Nat) (s : State) : State := (ctx1 .stopped s).modCtx 1 (fun c => { c with frec := a })
/-- n requests stand in the service queue. -/
def requests (n : Nat) (s : State) : State := { s with service := List.replicate n ⟨0, 0, 0, 0, 0, 0⟩ }
/-- The 320 places of a record at an address of DRAM. -/
def places320 : List Loc := (List.range 320).map (fun i => ⟨0x4000 + i, 0x4000 + i, none⟩)
/-- A record of 320 bytes on its way to its places, not yet committed or committed. -/
def signOp (sent : Bool) (s : State) : State :=
  opAt { gid := 0, pc := 8, flag := none, lanes := 1, entry := 1, kind := .sign places320 1 7 (List.replicate 16 0) 0 sent } s
theorem test_SystemWords_met :
    [CtxState.stopped, .active].all (fun st => issues (.eret (fs 0 .zero ⟨.v, 6⟩ 0)) (ctx1 st) (fun x => x.pass.getLsbD 0 && decide (x.src ⟨.v, 6⟩ 32 0 = 1) &&
      decide (((x.done x.g).ctx 1).st = st))) = true ∧
    [(0x1000, 0), (0x10000000000, 1), (0x10000000000000, 2)].all (fun (e : Nat × Nat) => issues (.eret (fs 0 .zero ⟨.v, 6⟩ 0)) (frec1 e.1) (fun x =>
      let s1 := x.done x.g
      (s1.ctx 1).frec != 0 && (KMap.find? s1.ctxs 1).isSome &&
        (match (s1.modCtx 1 (fun c => { c with st := .active })).iaWrite (s1.ctx 1).frec (leBytes 2 0) with
         | .ok _ => e.2 == 0
         | .error (.absent _ _ _) => e.2 == 1
         | .error (.fault _ _) => e.2 == 2
         | .error _ => false))) = true ∧
    (∀ h, (((ctx1 .stopped) (put 0x7C)).grp h).deferred = none) ∧
    [1023, 1024].all (fun n => issues (.sysc (fs 0 .zero ⟨.v, 6⟩ 7)) (requests n) (fun x => x.pass.getLsbD 0 && decide (x.s.service.length = n))) = true ∧
    [(CtxState.free, false), (.scrubbing, false), (.retired, true)].all (fun e => issues (.mtrr (fs 1 ⟨.v, 8⟩ ⟨.v, 6⟩ 13)) (ctx1 e.1) (fun x => x.pass.getLsbD 0 &&
      (decide ((x.s.ctx (x.src ⟨.v, 6⟩ 32 0)).st ≠ .free) && decide ((x.s.ctx (x.src ⟨.v, 6⟩ 32 0)).st ≠ .scrubbing)) == e.2)) = true ∧
    issues (.mtrr (fs 0 ⟨.v, 8⟩ .zero 16)) id (fun x => x.pass.getLsbD 0 && decide ((x.s.ctx x.ctx).st = .active)) = true ∧
    [0x4000, 0x4001].all (fun (a : Nat) => issues (.sign (fs 0 .zero ⟨.v, 2⟩ 0)) (v2Is (BitVec.ofNat 32 a)) (fun x => x.pass.getLsbD 0 && decide (x.src ⟨.v, 2⟩ 64 0 = a) &&
      decide ((x.s.ctx x.ctx).st = .active) &&
      isOk (((x.s.makeVisible x.gid).touchRange x.ctx (towerOf x.team.core) .store 0x4000 320).vaBytes x.ctx .store 0x4000 320))) = true ∧
    issues (.sign { fs 1 ⟨.v, 6⟩ ⟨.v, 2⟩ 0 with g := .always }) ((fun s => grp (fun g => { g with v := (List.range 64).map (fun l => (2 * 64 + l, 0x4000)) ++ g.v }) (ctx1 .free s))) (fun x => x.pass.getLsbD 0 && decide (x.src ⟨.v, 2⟩ 64 0 = 0x4000) &&
      decide ((x.s.ctx (x.src ⟨.v, 6⟩ 32 0)).st = .free)) = true ∧
    (∃ r rest, (requests 1 (put 0x7C)).service = r :: rest) ∧
    (let s := opAt { gid := 0, pc := 8, flag := none, lanes := 1, entry := 1, kind := .mtrr [(0, 5)] } (put 0x7C)
     (KMap.find? s.ops 5).any (fun o => decide (o.kind = .mtrr [(0, 5)]))) = true ∧
    [false, true].all (fun b =>
      let s := signOp b (put 0x7C)
      (KMap.find? s.ops 5).any (fun o => decide (o.kind = .sign places320 1 7 (List.replicate 16 0) 0 b)) &&
        places320.all (fun p => !s.owned p.key && !s.spoiled p.key && s.pendingPeer p == none) && decide (s.fifo 0 = []) &&
        places320.any (fun p => (owns 0x4000 s).owned p.key) && places320.any (fun p => (poison 0x4000 s).spoiled p.key) &&
        ({ s with commits := [(0, [⟨0, 0, 0, ⟨8, 1, [⟨0, ⟨0x4000, 0x4000, none⟩, 2⟩], []⟩⟩])] } : State).fifo 0 != []) = true := by
  refine ⟨by decide +kernel, by decide +kernel, fun h => ?_, by decide +kernel, by decide +kernel, by decide +kernel, by decide +kernel,
    by decide +kernel, ⟨_, _, rfl⟩, by decide +kernel, by decide +kernel⟩
  exact noneDeferred (by decide +kernel) h

/-- Two groups of a quarter at strand boundaries at the header at 0, one active, one pending; the active one's word is done. -/
def pair : State :=
  let s := someCode (put 0x7C)
  let e : Entry := { pc := 0, prio := 0, mask := allLanes }
  let s1 := grp (fun g => { g with entries := [e], outside := allLanes, yieldMark := true }) s
  s1.setGrp 4 { regs := 8, num := 4, outside := allLanes, entries := [e] }
/-- A phase that has teams to place, of two-team clusters, and a team image. -/
def launched (img : Bool) : State :=
  let s := { put 0x7C with groups := [], teams := [] }
  let s1 := s.modPhase 0 (fun p => { p with teams := 4, placedTeams := 0, sched := { p.sched with tiles := 1, accr := 0, clh := 2, regs := 8 } })
  if img then s1.modCtx 0 (fun c => { c with images := [⟨0, 0x100000, [], 0, {}, [], []⟩] }) else s1
/-- Team 0 without groups; its stash lines are clean. -/
def empty : State := ({ put 0x7C with groups := [] } : State).modTeam 0 (fun t => { t with stash := [(3, .clean)] })
/-- The pair with other register counts, and a third group of the set that is active where it has registers. -/
def pairOf (own other : Nat) (candidate : Bool) : State :=
  let s := pair.modGrp 0 (fun g => { g with regs := own, yieldMark := candidate, outside := if candidate then allLanes else 0 })
  if other = 0 then s else s.setGrp 8 { regs := other, num := 8, active := true, outside := 0, entries := [{ pc := 0, prio := 0, mask := allLanes }] }
theorem test_GroupSwap_met :
    ((put 0x7C).firstReady 0 = none) ∧
    [(8, 0, true, true, true), (1536, 0, false, false, false), (1536, 0, true, false, true), (8, 1536, true, false, false)].all (fun (e : Nat × Nat × Bool × Bool × Bool) =>
      let s := pairOf e.1 e.2.1 e.2.2.1
      let s1 := s.modGrp 0 (fun g => { g with active := false, range := [], order := s.nextOrder, yieldMark := false })
      s.firstReady 0 == some 4 && fitsActive (s.activeSet 0) (s.grp 4).regs == e.2.2.2.1 && s.swapCandidate 0 == e.2.2.1 &&
        (!e.2.2.1 || fitsActive (s1.activeSet 0) (s1.grp 4).regs == e.2.2.2.2)) = true ∧
    KMap.find? pair.groups 4 ≠ none ∧
    -- 6 blocks of one pool: two requests, of 6 and of 5 units, beside 4 units that are taken
    (packBlocks 16 0 [(4, 4)] [(1, 6), (2, 5)]).isSome = true ∧ packBlocks 16 0 [(4, 4)] [(1, 6), (2, 7)] = none ∧
    (∃ g, KMap.find? (grp (fun g => { g with ended := true }) (put 0x7C)).groups 0 = some g ∧ g.ended = true ∧ (put 0x7C).opsOf 0 = []) ∧
    ((committed (put 0x7C)).commits.any (fun e => e.2.any (fun c => c.gid == 1)) = true ∧ (put 0x7C).commits = []) := by
  refine ⟨by decide +kernel, by decide +kernel, by decide +kernel, by decide +kernel, by decide +kernel, ⟨_, rfl, by decide +kernel, by decide +kernel⟩, by decide +kernel⟩
/-- The group of the test machine is pending, and its schedule asks for units of 4,096 bytes. -/
def idle (units : Nat) : State :=
  (grp (fun g => { g with active := false }) (put 0x7C)).modPhase 0 (fun p => { p with sched := { p.sched with scratch := 4096 * units } })
/-- The clusters of a phase are placed on cores 1 and 2, all its teams. -/
def placedAll (s : State) (pid c : Nat) (cores slots : List Nat) (p : Phase) : Option State :=
  let s1 := s.modPhase pid (fun p => { p with placed := KMap.setD p.placed 0 (c % 8) (KMap.getD p.placed 0 (c % 8) + 1)
                                              placedTeams := p.placedTeams + p.sched.cluster })
  (List.range cores.length).foldl (fun (o : Option State) i => o.bind (fun s =>
    s.placeTeam pid c i (cores.getD i 0) (slotsOf slots p.sched.groups i))) (some s1)
/-- The image of the one saved team of the phase at an address, with one byte in memory as the image has it or not. -/
def saved (a : Nat) (b : Byte) : State :=
  (launched false).modCtx 0 (fun c => { c with images := [⟨0, a, [b], 0, { num := 3 }, [], [(4, 5)]⟩] })
theorem test_GroupsAndTeams_met :
    (let s := idle 5
     ∃ u, KMap.find? s.teams 0 = some u ∧ s.teamIdle 0 = true ∧ (s.giveStorage 0 8).isSome = true ∧ (s.schedOf 0).units = 5 ∧
       (idle 300).giveStorage 0 8 = none ∧ (put 0x7C).teamIdle 0 = false) ∧
    (let s := launched false
     ∃ p, KMap.find? s.phases 0 = some p ∧ s.placing (0, p) = true ∧ s.toServe p = true ∧ s.savedOf 0 = [] ∧
       [1, 2].length = p.sched.cluster ∧ (∀ k ∈ [1, 2], k / 48 = 0) ∧ [1, 2].eraseDups = [1, 2] ∧ s.allOn [1, 2] = true ∧
       p.nextCluster 0 = some 0 ∧
       ([1, 2].zipIdx.all (fun (e : Nat × Nat) => s.coreFits e.1 p.ctx p.sched (slotsOf [3, 4] p.sched.groups e.2))) = true ∧
       (placedAll s 0 0 [1, 2] [3, 4] p).isSome = true ∧
       (s.modDistrict 0 (fun d => { d with st := .off })).allOn [1, 2] = false ∧ (put 0x7C).placing (0, (put 0x7C).phase 0) = false) ∧
    [(0x1000, 0, 0), (0x1000, 1, 1), (0x10000000000000, 0, 2), (0x10000000000, 0, 3)].all (fun (e : Nat × Nat × Nat) =>
      let s := saved e.1 (BitVec.ofNat 8 e.2.1)
      (match KMap.find? s.phases 0, s.savedOf 0 with
       | some p, im :: _ => !(s.iaTouch im.addr im.bytes.length).iaHeld im.addr im.bytes.length && s.placing (0, p) && s.toServe p && s.allOn [1] && s.coreFits 1 p.ctx p.sched [3] &&
           (match (s.iaTouch im.addr im.bytes.length).imageChanged p.ctx im with
            | .ok c => c == (e.2.2 == 1) && ((s.iaTouch im.addr im.bytes.length).seatTeam p.ctx 1 (KMap.nextKey s.teams) im).isSome
            | .error (.fault _ _) => e.2.2 == 2
            | .error (.absent _ _ _) => e.2.2 == 3
            | .error _ => false)
       | _, _ => false)) = true ∧
    (let s := grp (fun g => { g with entries := [{ pc := 0, prio := 0, mask := allLanes }], outside := allLanes }) (put 0x7C)
     ∃ u, KMap.find? s.teams 0 = some u ∧ 1 ≠ u.core ∧ ((s.groupsOf 0).all (fun e => e.2.atBoundary && (s.opsOf e.1).isEmpty)) = true ∧
       s.cmdsOf 0 = [] ∧ s.allOn [1] = true ∧ s.coreFits 1 u.ctx (s.schedOf 0) [3] = true ∧ (s.recallCore 0).fifo u.core = [] ∧ (s.recallCore 0).commits.all (fun e => e.2.isEmpty) = true ∧
       ((commitLeft s).recallCore 0).commits.any (fun e => e.2.any (fun c => c.team == 0)) = true ∧
       ((((s.recallCore 0).emptyStash 0 (fun _ => true)).modTeam 0 (fun t => { t with core := 1, place := [], tileAt := [], accAt := [] })).giveStorage 0 0).isSome = true) ∧
    (let s := empty
     ∃ u, KMap.find? s.teams 0 = some u ∧ s.groupsOf 0 = [] ∧ s.cmdsOf 0 = [] ∧ (∀ l ∈ u.stash, l.2 ≠ .dirty) ∧ s.commits = [] ∧
       KMap.find? s.phases u.phase ≠ none ∧ (committed s).commits.any (fun e => e.2.any (fun c => c.team == 0)) = true ∧
       (let h := s.modCtx 0 (fun c => { c with halting := true })
        (h.ctx 0).halting = true ∧ (h.ctx 0).st = .active ∧ (∀ e ∈ h.teams, e.1 = 0)) ∧
       (s.modTeam 0 (fun t => { t with stash := [(3, .dirty)] })).teams.any (fun t => t.2.stash.any (fun l => l.2 == .dirty)) = true) := by
  refine ⟨⟨_, rfl, ?_⟩, ⟨_, rfl, ?_⟩, by decide +kernel, ⟨_, rfl, ?_⟩, ⟨_, rfl, ?_⟩⟩
  all_goals decide +kernel

/-- A queue 0 with its words, a record at 0x52000 with two SCHED entries, and loaded code: a size word that fits the second. -/
def record0 : Nat :=
  0x77 + 0x60000 * 256 ^ 0x40 + 16 * 256 ^ 0x48 + 0x53000 * 256 ^ 0x50 + 0x54000 * 256 ^ 0x58 + 2 * 256 ^ 0x69 + 256 ^ 0x70 + 0x56000 * 256 ^ 0x78 +
    0xFFFF * 256 ^ 0x80 + 0xFFFF * 256 ^ 0x82 + 0x55000 * 256 ^ 0x90 + 0x57000 * 256 ^ 0x100 + 5 * 256 ^ 0x108
def sched0 (bound : Nat) : Nat := bound + 2 ^ 196 + 2 ^ 192 + 2 ^ 176 + 8 * 2 ^ 160
/-- Loc, length and number: what the setup stores. -/
def queueWords (x : Nat) : List (Nat × Nat × Nat) :=
  [(0x50000, 32, 0x51000 + 0x51800 * 2 ^ 64 + 0x51900 * 2 ^ 128 + 4 * 2 ^ 192), (0x51000, 8, 0x52000), (0x51800, 8, 1), (0x52000, 320, x),
   (0x53000, 32, sched0 10), (0x53020, 32, sched0 100), (0x56000, 8, 50), (0x57000, 8, 5)]
def queue0 (x : Nat) : State :=
  let s := (put 0x7C).modCtx 0 (fun c => { c with ranges := [(1, 0x40000000), (2, 15 * 2 ^ 48), (3, 0x3D), (4, 2 ^ 30), (5, 2 ^ 31), (6, 2 ^ 40), (7, 0x3D)] })
  { s with
    mem := (queueWords x).flatMap (fun (e : Nat × Nat × Nat) => bytesAt (memKey (spHost 0) e.1) e.2.1 e.2.2) ++ tables
    fc := { s.fc with qtBase := 15 * 2 ^ 48 + 0x50000, qtCount := 1, slots := [(0, 0)], tails := [(0, 1)] }, ident := { s.ident with devState := 6 }
    codes := [{ ia := 15 * 2 ^ 48 + 0x60000, size := 16, hash := 0x77 }] }
/-- The bytes of the host's memory from an address on are a number. -/
def poke (a n x : Nat) (s : State) : State :=
  { s with mem := bytesAt (memKey (spHost 0) a) n x ++ s.mem.filter (fun e => decide (e.1 < memKey (spHost 0) a) || decide (memKey (spHost 0) (a + n) ≤ e.1)) }
/-- The descriptor of queue 0, after the first touch of the table. -/
def desc0 (s : State) (p : State → QDesc → Bool) : Bool :=
  !s.noQueue 0 && (match (s.iaTouch s.fc.qtBase 32).queueDesc 0 with
    | .ok (some d) => p (s.iaTouch s.fc.qtBase 32) d
    | _ => false)
/-- A read of the Forecourt that is served: the state and the number. -/
def fcGet (s : State) (ctx va n : Nat) : Option (State × Nat) :=
  let t := s.touchRange ctx 0 .load va n
  match t.vaBytes ctx .load va n with
  | .ok l => if !t.vaHeld ctx .load va n && l.all (fun p => !t.owned p.key) && alone t l then some (t, leNat (l.map (t.rd ctx))) else none
  | .error _ => none
/-- What fcGet computes is what State.fcServed asks. -/
theorem served_of_get {s t : State} {ctx va n x : Nat} (h : fcGet s ctx va n = some (t, x)) : s.fcServed ctx va n t x := by
  unfold fcGet at h
  cases hl : (s.touchRange ctx 0 .load va n).vaBytes ctx .load va n with
  | error m => simp [hl] at h
  | ok l =>
    simp only [hl, Bool.and_eq_true, Bool.not_eq_true', Option.ite_none_right_eq_some, Option.some.injEq, Prod.mk.injEq] at h
    obtain ⟨⟨⟨hh, ho⟩, ha⟩, rfl, rfl⟩ := h
    exact ⟨rfl, l, hl, hh, by simpa using ho, unshared_of_alone ha, rfl⟩
/-- The read is served, with a property of the state and the number. -/
def fcMet (s : State) (ctx va n : Nat) (p : State → Nat → Bool) : Bool := (fcGet s ctx va n).any (fun e => p e.1 e.2)
/-- How a read of the Forecourt misses: 1 for an absent page, 2 for a fault. -/
def fcMiss (s : State) (ctx va n : Nat) : Nat :=
  match (s.touchRange ctx 0 .load va n).vaBytes ctx .load va n with
  | .ok _ => 0
  | .error (.absent _ _ _) => 1
  | .error _ => 2
/-- The words at HEADADDR of queue 0: HEAD, QSTATUS and CUR. -/
def heads (head status cur : Nat) (s : State) : State := poke 0x51900 24 (head + status * 2 ^ 64 + cur * 2 ^ 128) s
def atHead (s : State) (p : State → QDesc → QHead → Bool) : Bool :=
  desc0 s (fun s1 d => fcMet s1 d.ctx d.headAddr 24 (fun s2 x => p s2 d (headOf x)))
/-- The record x of queue 0 is held, as far as its run, its dependences and its size were read. -/
def holds0 (x : Nat) (scheds : Option (List Sched)) (done : List Nat) (size : Option Nat) (s : State) : State :=
  s.hold 0 ⟨0x52000, x, scheds, done, size⟩
def runOf0 : List Sched := schedsOf 2 (sched0 10 + sched0 100 * 256 ^ 32)
/-- Every entry of the group waits at a WAITA. -/
def stalledGroup (since : Option Nat) (cycle : Nat) : State :=
  let s := inWaita (wf 0 1 0 false) 0 9 (put 0x7C)
  { s.modCore 0 (fun k => { k with stalled := match since with | some c => [(0, c)] | none => [] }) with cycle := cycle }
/-- Contexts 0 and 1 are resident on core 0 and want it; it runs what run says. -/
def twoCtx (run : Option Nat) (cycle : Nat) (sealed : Mask) : State :=
  let s := grp (fun g => { g with sealed := sealed }) (put 0x7C)
  let s1 := { s with ctxs := s.ctxs ++ [(1, ({ st := .active } : Ctx))], teams := s.teams ++ [(1, ({ ctx := 1 } : Team))], cycle := cycle }
  (s1.setGrp 9 { ctx := 1, team := 1, entries := [{ pc := 0, prio := 0, mask := allLanes }] }).modCore 0 (fun k => { k with resident := [0, 1], running := run })
/-- The phase of the test machine, with teams ended and a completion word. -/
def ended (n comp : Nat) : State := (put 0x7C).modPhase 0 (fun p => { p with endedTeams := n, record := { p.record with comp := comp } })
theorem test_ForecourtSteps_bells_met :
    -- the bell of a refused queue, whose QSTATUS is 0 or not
    [0, 5].all (fun st => let s := { heads 0 st 0 (queue0 record0) with fc := { (queue0 record0).fc with refused := [0], slots := [] } }
      !s.noQueue 0 && s.fc.refused.contains 0 && desc0 (s.bell 0) (fun s1 d => fcMet s1 d.ctx d.headAddr 24 (fun _ x => (headOf x).status == st))) = true ∧
    (queue0 record0).fc.refused = [] ∧
    -- TAIL is served, its page is absent, or its address faults
    desc0 ((queue0 record0).bell 0) (fun s1 d => fcMet s1 d.ctx d.tailAddr 8 (fun _ x => x == 1)) = true ∧
    [(2 ^ 30, 1), (2 ^ 31, 2)].all (fun (e : Nat × Nat) => desc0 ((poke 0x50008 8 e.1 (queue0 record0)).bell 0) (fun s1 d =>
      fcMiss s1 d.ctx d.tailAddr 8 == e.2 && decide ((s1.ctx d.ctx).st = .active))) = true ∧
    -- pages that the Forecourt waits on: the table's, and that of TAIL
    (let s := (queue0 record0).bell 0
     desc0 { s with fc := { s.fc with waits := [(15 * 2 ^ 48 + 0x50000) / 2 ^ 14] } } (fun s1 _ => s1.iaHeld s1.fc.qtBase 32) &&
       desc0 s (fun s1 d => !s1.iaHeld s1.fc.qtBase 32 &&
         ({ s1 with fc := { s1.fc with waits := [(15 * 2 ^ 48 + 0x51800) / 2 ^ 14] } } : State).vaHeld d.ctx .load d.tailAddr 8)) = true ∧
    -- a quantum that ends with one queue, whose TAIL is read
    (let s := { queue0 record0 with timers := [], cycle := 65536 }
     let r0 := { s with fc := { s.fc with quantum := s.fc.quantum + 65536 } }
     s.fc.quantum + 65536 ≤ s.now .forecourt ∧ s.fc.qtCount = 1 ∧ 6 ≤ s.ident.devState ∧
     (match r0.readTail 0 with
      | .next _ => true
      | _ => false) = true ∧ s.iaTouch s.fc.qtBase 32 = s ∧
     (match s.queueDesc 0 with
      | .ok (some d) => !s.iaHeld s.fc.qtBase 32 && (match fcGet s d.ctx d.tailAddr 8 with
        | some (t, x) => decide (t = s) && x == 1
        | none => false)
      | _ => false) = true) ∧
    ((put 0x7C).cycle < (put 0x7C).fc.quantum + 65536 ∧ (twoCtx none 65536 0).fc.quantum + 65536 ≤ (twoCtx none 65536 0).cycle ∧
      (twoCtx none 65536 0).fc.qtCount = 0) := by decide +kernel
theorem test_ForecourtSteps_start_met :
    (let ok := fun (st : CtxState) (s : State) (p : State → QDesc → QHead → Bool) =>
       desc0 s (fun s1 d => decide (s1.fc.slots = [(0, 0)]) && s1.fc.refused.isEmpty && decide ((s1.ctx d.ctx).st = st) &&
         fcMet s1 d.ctx d.headAddr 24 (fun s2 x => p s2 d (headOf x)))
     [CtxState.stopped, .halted].all (fun st => ok st ((queue0 record0).modCtx 0 (fun c => { c with st := st })) (fun _ _ _ => true)) &&
     -- no work; a record that is held; a phase before it that is not placed
     ok .active (heads 1 0 0 (queue0 record0)) (fun s2 _ h => !s2.shows 0 h) &&
     ok .active (holds0 record0 none [] none (queue0 record0)) (fun s2 _ h => s2.shows 0 h && (KMap.find? s2.fc.held 0).isSome) &&
     ok .active ({ (queue0 record0).modPhase 0 (fun p => { p with placedTeams := 0 }) with fc := { (queue0 record0).fc with lastPhase := [(0, 0)] } })
       (fun s2 _ h => s2.shows 0 h && (KMap.find? s2.fc.held 0).isNone && !s2.mayStart 0 h) &&
     -- the record of the ring and the one that CUR names; a record, and a ring, that faults
     ok .active (queue0 record0) (fun s2 d h => s2.shows 0 h && (KMap.find? s2.fc.held 0).isNone && s2.mayStart 0 h && h.cur == 0 &&
       fcMet s2 d.ctx (d.ring + 8 * (h.head % 2 ^ d.log2n)) 8 (fun s3 a => a == 0x52000 && fcMet s3 d.ctx a 320 (fun _ x => x == record0))) &&
     ok .active (heads 0 0 0x52000 (queue0 record0)) (fun s2 d h => s2.shows 0 h && s2.mayStart 0 h && h.cur == 0x52000 &&
       fcMet s2 d.ctx h.cur 320 (fun _ x => x == record0)) &&
     ok .active (poke 0x51000 8 (2 ^ 31) (queue0 record0)) (fun s2 d h => h.cur == 0 && fcMet s2 d.ctx d.ring 8 (fun s3 a => fcMiss s3 d.ctx a 320 == 2)) &&
     ok .active (poke 0x50000 8 (2 ^ 31) (queue0 record0)) (fun s2 d h => h.cur == 0 && fcMiss s2 d.ctx d.ring 8 == 2)) = true := by decide +kernel
/-- A record that is held goes on: its record, state and context. -/
def goesOn (x : Nat) (s : State) (p : State → QDesc → Record → Bool) : Bool :=
  desc0 s (fun s1 d => recordOk 0x52000 x && decide ((recordOf 0x52000 x).ctx = d.ctx) && decide ((s1.ctx d.ctx).st = .active) &&
    p (s1.hold 0 { addr := 0x52000, raw := x }) d (recordOf 0x52000 x))
/-- The run of the record is served. -/
def runMet (s : State) (r : Record) (p : State → List Sched → Bool) : Bool :=
  fcMet s r.ctx r.schedAddr (32 * min r.schedN 8) (fun s1 y => p s1 (schedsOf (min r.schedN 8) y))
theorem test_ForecourtSteps_checks_met :
    recordOk 0x52000 (record0 + 256 ^ 0x6B) = false ∧
    desc0 (queue0 record0) (fun _ d => recordOk 0x52000 (record0 + 256 ^ 0x6C) && decide ((recordOf 0x52000 (record0 + 256 ^ 0x6C)).ctx ≠ d.ctx)) = true ∧
    desc0 ((queue0 record0).modCtx 0 (fun c => { c with st := .retired })) (fun s1 d => recordOk 0x52000 record0 && decide ((s1.ctx d.ctx).st = .retired)) = true ∧
    goesOn (record0 + 1) (queue0 record0) (fun s _ r => !s.codeOk r) = true ∧
    -- the run: it faults; an entry beyond the code; not ascending; no model; a model table that faults; good
    goesOn (record0 + 2 ^ 31 * 256 ^ 0x50) (queue0 record0) (fun s _ r => s.codeOk r &&
      fcMiss s r.ctx r.schedAddr (32 * min r.schedN 8) == 2) = true ∧
    (let bad := fun (x : Nat) (s : State) (p : State → Record → List Sched → Bool) =>
       goesOn x s (fun s _ r => s.codeOk r && runMet s r (fun s1 scs => p s1 r scs))
     let entriesOk := fun (r : Record) (scs : List Sched) => scs.all (fun sc => decide (sc.entry < r.codeExt))
     let run := fun (r : Record) (scs : List Sched) => decide (1 ≤ r.schedN) && decide (r.schedN ≤ 8) && ascending scs
     let model := fun (s1 : State) (r : Record) => (if r.mctx = 0xFFFF ∨ r.layer = 0xFFFF then s1 else s1.touchLayer r.ctx r.mctx r.layer)
     bad record0 (poke 0x53008 8 16 (queue0 record0)) (fun _ r scs => !entriesOk r scs) &&
     bad record0 (poke 0x53020 32 (sched0 10) (queue0 record0)) (fun _ r scs => entriesOk r scs && !run r scs) &&
     bad (record0 - 0xFFFF * 256 ^ 0x80) (queue0 record0) (fun s1 r scs => entriesOk r scs && run r scs &&
       (match (model s1 r).modelOk r with
        | .ok b => !b
        | .error _ => false)) &&
     bad (record0 - 0xFFFF * 256 ^ 0x80 - 0xFFFF * 256 ^ 0x82) ((queue0 record0).modCtx 0 (fun c => { c with nmodels := 1, models := 2 ^ 52 })) (fun s1 r scs =>
       entriesOk r scs && run r scs &&
       (match (model s1 r).modelOk r with
        | .error (.fault _ _) => true
        | _ => false)) &&
     bad (record0 + 256 ^ 0x108) (queue0 record0) (fun s1 r scs => entriesOk r scs && run r scs &&
       (match (model s1 r).modelOk r with
        | .ok b => b
        | .error _ => false) &&
       (match ((model s1 r).hold 0 ⟨0x52000, record0 + 256 ^ 0x108, some scs, [], none⟩).dependences r.ctx [] (r.events.zip (List.range 4)) with
        | (_, done, none) => decide (done.length < 4)
        | _ => false))) = true := by decide +kernel
theorem test_ForecourtSteps_phases_met :
    -- the run, the dependences and the size of a held record have been read
    goesOn record0 (queue0 record0) (fun _ _ _ => true) = true ∧ (∀ i, i < 4 → i ∈ [0, 1, 2, 3]) ∧
    (let r := recordOf 0x52000 record0
     fcMet (queue0 record0) r.ctx 0x57000 8 (fun _ x => x == 5)) = true ∧
    [(none, CtxState.active), (some runOf0, .halted), (some runOf0, .active)].all (fun (e : Option (List Sched) × CtxState) =>
      let s := (holds0 (record0 + 256 ^ 0x108) e.1 [] none (queue0 record0)).modCtx 0 (fun c => { c with st := e.2 })
      (KMap.find? s.fc.held 0).any (fun h => decide (h.scheds = e.1) && decide ((s.ctx h.record.ctx).st = e.2) &&
        (match s.dependences h.record.ctx h.done (h.record.events.zip (List.range 4)) with
         | (_, _, none) => true
         | _ => false))) = true ∧
    -- SCHED: no bound holds the size; the second does, with bad stashes, a bank out of reach, a shape out of reach, and good
    (runOf0.all (fun sc => decide (sc.bound < 101)) && runOf0.length == 2 && decide (51 ≤ (runOf0.getD 1 {}).bound) && decide ((runOf0.getD 0 {}).bound < 51)) = true ∧
    (let s := queue0 record0
     let r := recordOf 0x52000 record0
     let sc := runOf0.getD 1 {}
     !s.stashesOk { r with stash := [⟨0x1234, 64, 0⟩, ⟨0, 0, 0⟩] } sc && s.stashesOk r sc && !s.banksOk { r with constBase := 2 ^ 40 } sc &&
       s.stashesOk { r with constBase := 2 ^ 40 } sc && s.banksOk r sc && sc.fits && !({ sc with clw := 5, clh := 3 } : Sched).fits &&
       s.banksOk r { sc with clw := 5, clh := 3 } && r.teams % sc.cluster == 0 && decide (teamCount r sc 51 ≠ 0) && r.layer == 0xFFFF) = true ∧
    [(0x51900, true), (2 ^ 31, false)].all (fun (e : Nat × Bool) =>
      match (queue0 record0).touchRange 0 0 .store e.1 8 |>.vaBytes 0 .store e.1 8 with
      | .ok l => e.2 && decide (l.map (·.key)).Nodup && l.all (fun p => !isPeer p.key)
      | .error (.fault _ _) => !e.2
      | .error _ => false) = true ∧
    -- a phase without teams
    (let s := queue0 record0
     let r := { recordOf 0x52000 record0 with teams := 0 }
     let sc := runOf0.getD 0 {}
     s.stashesOk r sc && s.banksOk r sc && sc.fits && teamCount r sc 0 == 0) = true ∧
    bitOf ((queue0 record0).ctx 0).flags 0 = false ∧ (∀ e ∈ (queue0 record0).teams, e.2.stash = []) := by decide +kernel
theorem test_ForecourtSteps_ends_met :
    [(0, 0), (1, 0), (1, 0x55000)].all (fun (e : Nat × Nat) =>
      let s := ended e.1 e.2
      (KMap.find? s.phases 0).any (fun (p : Phase) => decide (p.endedTeams = e.1) && decide (p.teams = 1) && decide ((s.ctx p.ctx).st = .active) &&
        !(s.ctx p.ctx).retiring && s.peerWrites.isEmpty && s.teams.all (fun t => t.2.stash.isEmpty) &&
        (e.2 == 0 || (match (s.touchVa 0 0 .atomic (e.2 / 64 * 64)).vaLoc 0 .atomic e.2 with
          | .ok loc => !(s.touchVa 0 0 .atomic (e.2 / 64 * 64)).vaHeld 0 .atomic e.2 8 && alone s ((List.range 8).map loc.add) && !s.owned loc.key && (s.pendingPeer loc).isNone && decide (spaceOf loc.key < 16) && decide (spaceOf (loc.key + 7) < 16) &&
              !bitOf (s.ctx 0).flags 0
          | .error _ => false)))) = true ∧
    (((ended 1 0).modCtx 0 (fun c => { c with retiring := true })).ctx 0).retiring = true ∧
    ((stalledGroup none 9).allStalled 0 0 = true ∧ KMap.find? ((stalledGroup none 9).core 0).stalled 0 = none) ∧
    (let s := stalledGroup (some 2) (2 ^ 20 + 2)
     s.allStalled 0 0 = true ∧ KMap.find? (s.core 0).stalled 0 = some 2 ∧ s.fc.stall ≠ 0 ∧ 2 + s.fc.stall ≤ s.clock 0 ∧ 0 ∉ (s.core 0).noticed) ∧
    [(none, 0, (0 : Mask)), (some 0, 65535, 0), (some 0, 65536, 0), (some 0, 65536, 1)].all (fun e =>
      let s := twoCtx e.1 e.2.1 e.2.2
      let want := if e.1 = none then 0 else 1
      s.switchTo 0 want && decide ((s.core 0).running = e.1) && s.ctxWants 0 0 && decide (s.clock 0 = e.2.1) &&
        (s.sealedOn 0 0 == (e.2.2 != 0))) = true ∧
    (twoCtx (some 0) 65536 0).switchTo 0 0 = false ∧
    -- a switch that is no longer to come: no other context wants the core
    (let s := ((twoCtx (some 0) 65536 1).setPreempt 0 0 true).modCtx 1 (fun c => { c with st := .halted })
     (s.core 0).running = some 0 ∧ (∀ c ∈ (s.core 0).resident, s.switchTo 0 c = false) ∧ (s.ctx 0).halting = false) ∧
    KMap.find? (put 0x7C).groups 0 ≠ none ∧ ((put 0x7C).grp 0).entryAt 0 ≠ none ∧ ((grp (fun g => { g with entries := [] }) (put 0x7C)).grp 0).entryAt 0 = none := by
  decide +kernel

/-! #### Contexts, registers, the host and peers -/

/-- Host memory (region 0xF) has every byte. -/
theorem hostBytes (t : State) (n ia : Nat) (h1 : 15 * 2 ^ 48 ≤ ia) (h2 : ia + n < 16 * 2 ^ 48) : ∃ l, t.iaBytes .store ia n = .ok l := by
  induction n generalizing ia with
  | zero => exact ⟨[], rfl⟩
  | succ n ih =>
    obtain ⟨l, hl⟩ := ih (ia + 1) (by omega) (by omega)
    have e : ia / 2 ^ 48 = 15 := by omega
    exact ⟨_, by simp only [State.iaBytes, hl, State.iaLoc, e, Nat.reduceEqDiff, or_self, if_false, if_true]; rfl⟩
/-- Host memory takes any bytes. -/
theorem hostWrite (s : State) (ia : Nat) (bytes : List Byte) (h1 : 15 * 2 ^ 48 ≤ ia) (h2 : ia + bytes.length < 16 * 2 ^ 48) :
    ∃ s1, s.iaWrite ia bytes = .ok s1 := by
  obtain ⟨l, hl⟩ := hostBytes (s.iaTouch ia bytes.length) bytes.length ia h1 h2
  exact ⟨_, by simp only [State.iaWrite, hl]; rfl⟩

/-- Context 1 is in a state with FLAGS; its range register 0 is valid, or not; command v of it is the first that context control has. -/
def cmdFor (st : CtxState) (flags v : Nat) (ranged : Bool) : State :=
  let s := put 0x7C
  { s with
    ctxs := s.ctxs ++ [(1, { st := st, flags := flags, ranges := if ranged then [(1, 0x40000000), (3, 0x3D)] else [] })]
    cc := { s.cc with queue := [(1, v), (0, 9)] } }
/-- Context 0, with a team and a save area for two images of 64 pages, is halted by command. -/
def halt0 (halting : Bool) : State :=
  let s := ({ put 0x7C with cc := { queue := [(0, 2)], running := halting } } : State).modCtx 0 (fun c => { c with
    save := 15 * 2 ^ 48, saven := 64 * 2 ^ 32 + 2, halting := halting })
  (s.modTeam 0 (fun t => { t with extent := 0 })).modPhase 0 (fun p => { p with sched := { p.sched with tiles := 0, accr := 0, regs := 8 } })
/-- How the tables of a context are read: 0 in whole, 1 with an absent page, 2 with a fault. -/
def tablesMiss (s : State) (c : Nat) : Nat :=
  match (s.touchTables c).allLayers c with
  | .ok _ => 0
  | .error (.absent _ _ _) => 1
  | .error _ => 2
/-- Context 1 has one model, with its table at an address. -/
def modelAt (a : Nat) (s : State) : State := s.modCtx 1 (fun c => { c with nmodels := 1, models := a })
/-- Layer 0 of context 1 has an image of one page at an intermediate address, which has a leaf or has none. -/
def windowed (ia : Nat) (s : State) : State :=
  let t := modelAt (15 * 2 ^ 48 + 0x30000) s
  { t with mem := s.mem ++ bytesAt (memKey (spHost 0) 0x30000) 16 (1 + (15 * 2 ^ 48 + 0x30100) * 2 ^ 64) ++
      bytesAt (memKey (spHost 0) 0x30108) 8 ia ++ bytesAt (memKey (spHost 0) 0x30118) 8 16384 }
theorem test_ContextCommands_met :
    [(CtxState.active, 0, 1, true), (.free, 0, 1, false), (.free, 0, 1, true), (.free, 1 + 2 ^ 8, 1, true), (.active, 0, 2, true), (.stopped, 0, 2, true),
     (.halted, 0, 3, true), (.active, 0, 3, true), (.free, 0, 4, true), (.stopped, 0, 4, true), (.active, 0, 5, true), (.retired, 0, 5, true),
     (.retired, 1, 5, true), (.active, 0, 0, true), (.active, 0, 6, true), (.active, 0, 15, true)].all (fun e =>
      let s := cmdFor e.1 e.2.1 e.2.2.1 e.2.2.2
      decide (s.cc.queue = [(1, e.2.2.1), (0, 9)]) && !s.cc.running && decide ((s.ctx 1).st = e.1) && ((List.range 16).any (fun n => (s.ctx 1).rangeV n) == e.2.2.2) &&
        (match (s.touchTables 1).allLayers 1 with
         | .ok l => l.isEmpty && (Machine.imaged l).all (s.touchTables 1).windowOk
         | .error _ => false) && (e.1 != .free || !(s.touchTables 1).slotHeld (s.ctx 1).keySlot) && s.teams.all (fun t => decide (t.2.ctx ≠ 1)) &&
        s.commits.isEmpty) = true ∧
    [(CtxState.free, 1), (.retired, 5)].all (fun (e : CtxState × Nat) =>
      tablesMiss (modelAt (2 ^ 40) (cmdFor e.1 0 e.2 true)) 1 == 1 && tablesMiss (modelAt (2 ^ 52) (cmdFor e.1 0 e.2 true)) 1 == 2) = true ∧
    [(0x4000, false)].all (fun (e : Nat × Bool) => let s := (windowed e.1 (cmdFor .free 0 1 true)).touchTables 1
      match s.allLayers 1 with
      | .ok l => (Machine.imaged l).length == 1 && (Machine.imaged l).all s.windowOk == e.2
      | .error _ => false) = true ∧
    (let s := cmdFor .free (1 + 3 * 2 ^ 8) 1 true
     ({ s with aon := { s.aon with quarantine := [(9, ⟨3, 0, 0, [], [], 0⟩)] } } : State).slotHeld (s.ctx 1).keySlot) = true ∧
    ((halt0 false).cc.queue = [(0, 2)] ∧ ((halt0 false).ctx 0).st = .active ∧
      (({ halt0 false with cc := { (halt0 false).cc with running := true } } : State).modCtx 0 (fun y => { y with halting := true })).haltDone 0 = false) ∧
    ({ cmdFor .retired 0 5 true with commits := [(0, [⟨0, 1, 0, ⟨8, 1, [], []⟩⟩])] } : State).commits.any (fun e => e.2.any (fun k => k.ctx == 1)) = true := by
  decide +kernel
/-- The team of context 0 is held and its groups pre-empted; the stores of its core have been forced beyond it. -/
def preempted (s : State) : State := (((s.holdTeam 0 true).groupsOf 0).foldl (fun s e => s.preemptGroup e.1) (s.holdTeam 0 true)).recallCore 0
/-- A committed store of the core stays, for a command of another team owns its line. -/
def storeLeft (s : State) : State :=
  { s with cmds := [(9, { mxaCmd true with team := 1, owned := [lineKey 0x2000] })]
           commits := [(0, [⟨0, 0, 0, ⟨8, 1, [⟨0, ⟨0x2004, 0x2004, none⟩, 2⟩], []⟩⟩])] }
theorem test_ContextCommands_saves_met :
    ((KMap.find? (halt0 true).teams 0).isSome = true ∧ ((halt0 false).ctx 0).halting = false ∧ ((halt0 true).ctx 0).halting = true ∧
      (busy [(9, mxaCmd true)] (halt0 true)).cmdsOf 0 ≠ [] ∧ (halt0 true).cmdsOf 0 = []) ∧
    ((grp (fun g => { g with sealed := 1 }) (halt0 true)).holdTeam 0 true).teamUnsealed 0 = false ∧
    ((halt0 true).holdTeam 0 true).teamUnsealed 0 = true ∧
    ((storeLeft (halt0 true)).cmdsOf 0 = [] ∧ ((preempted (storeLeft (halt0 true))).teamStill 0 && decide ((preempted (storeLeft (halt0 true))).fifo 0 = [])) = false ∧ (preempted (halt0 true)).fifo 0 = []) ∧
    (preempted (halt0 true)).teamStill 0 = true ∧ (preempted (halt0 true)).imagePlace 0 = some 0 ∧
    (preempted ((halt0 true).modCtx 0 (fun c => { c with saven := 0 }))).imagePlace 0 = none ∧
    (let s1 := preempted (halt0 true)
     (s1.ctx (s1.team 0).ctx).save = 15 * 2 ^ 48 ∧ imageSize (s1.schedOf 0) (s1.team 0).extent = 10240) ∧
    (let s1 := preempted ((halt0 true).modCtx 0 (fun c => { c with save := 2 ^ 40 }))
     match (s1.iaTouch (2 ^ 40) 10240).iaBytes .store (2 ^ 40) 10240 with
     | .error (.absent _ _ _) => true
     | _ => false) = true ∧
    (let s := (cmdFor .active 0 4 true).modCtx 1 (fun c => { c with retiring := true, recaddr := 15 * 2 ^ 48 })
     (s.ctx 1).retiring && s.cmds.isEmpty && decide ((s.ctx 1).recaddr = 15 * 2 ^ 48) &&
       (busy [(9, { mxaCmd true with ctx := 1 })] s).cmds.any (fun e => e.2.ctx == 1)) = true := by decide +kernel
/-- The scrub of context 1, done so far: one core, one frame of the list at 0x5000, or at an absent address, and one flash block. -/
def scrubbing (list done : Nat) : State :=
  let s := cmdFor .scrubbing 1 5 true
  { s with aon := { s.aon with quarantine := [(1, ⟨0, list, 1, [5], [7], done⟩)] }, mem := s.mem ++ bytesAt 0x5000 8 0x80000 }
theorem test_ContextCommands_scrub_met :
    ((scrubbing 0x5000 0).ctx 1).st = .scrubbing ∧
    [0, 1, 2].all (fun (n : Nat) => (KMap.find? (scrubbing 0x5000 n).aon.quarantine 1).any (fun q => decide (q = ⟨0, 0x5000, 1, [5], [7], n⟩))) = true ∧
    ([5][0]? = some 5 ∧ 1 = [5].length + 0 ∧ 0 < 1 ∧ 2 = [5].length + 1 + 0 ∧ [7][0]? = some 7) ∧
    isOk (((scrubbing 0x5000 1).iaTouch 0x5000 8).iaRead 0x5000 8) = true ∧
    7 ∉ (scrubbing 0x5000 2).blocksBut (fun x _ _ => x == 1) ∧ 7 ∉ (scrubbing 0x5000 2).stk.flashRetired ∧
    ((scrubbing 0x5000 0).scrubUnits 1 (1 + 1 + 1 - 0)).2 = none ∧
    (match ((scrubbing (2 ^ 40) 0).scrubUnits 1 (1 + 1 + 1 - 0)).2 with
     | some (.absent _ _ _) => true
     | _ => false) = true := by decide +kernel

/-- The places of a team image in host memory are there. -/
theorem test_ContextCommands_image_met (s : State) : ∃ l, (s.iaTouch (15 * 2 ^ 48 + 0) 10240).iaBytes .store (15 * 2 ^ 48 + 0) 10240 = .ok l :=
  hostBytes _ _ _ (by omega) (by omega)

/-- An access from outside finds its n bytes. -/
def bytesMet (s : State) (ia n : Nat) (kind : Acc) : Bool :=
  match (s.iaTouch ia n).iaBytes kind ia n with
  | .ok l => l.all (fun p => !(s.iaTouch ia n).owned p.key && decide (spaceOf p.key < 16)) && decide ((l.map (·.key)).Nodup)
  | .error _ => false
theorem test_DeviceRegisters_met :
    (put 0x7C).ident.limited = false ∧ (350 ≤ 350 ∧ 65535 ≤ 65535 ∧ 349 < 350 ∧ 65535 < 65536) ∧
    -- a range register: a write that would be valid, one that would not, and one that leaves it invalid
    (let s := put 0x7C
     let c := s.ctx s.xl.ctxSel
     let ok := fun (r w v : Nat) =>
       let new := fun i => if i = w then v else c.range r i
       ((new 3).testBit 0, decide (new 0 % 16384 = 0 ∧ new 0 < 2 ^ 57 ∧ new 1 % 16384 = 0 ∧ new 1 < 2 ^ 57 ∧ new 0 < new 1 ∧ (new 3 &&& rangeBits) = new 3))
     ok 0 1 0x8000 = (true, true) ∧ ok 0 1 0x8001 = (true, false) ∧ ok 0 0 0x40000000 = (true, false) ∧ (ok 0 3 0).1 = false ∧ (ok 15 3 0).1 = false) ∧
    (let s : State := { put 0x7C with xl := { (put 0x7C).xl with inv := some (0x8000 + 2 ^ 57), invWait := [7] } }
     (put 0x7C).xl.inv = none ∧ s.xl.inv ≠ none ∧ s.rangeInUse (0x8000 + 2 ^ 57) = false) ∧
    -- a group with entries that wait for a page, which is there or is not
    (KMap.find? (put 0x7C).groups 0).isSome = true ∧ (put 0x7C).pageHere 0 0x4000 = true ∧ (put 0x7C).pageHere 0 (2 ^ 40) = false ∧
    inRange (2 ^ 40 + 2 ^ 57) (2 ^ 40 / 16384 * 16384) = true ∧
    -- a key load begun, whose blob can be read, waits for its page, or faults
    ((put 0x7C).ident.keyLoad = none ∧ (64 : Nat) % 64 = 0 ∧ 65 % 64 ≠ 0) ∧
    [(0x4000, 0), (2 ^ 40, 1), (2 ^ 52, 2)].all (fun (e : Nat × Nat) =>
      match ((put 0x7C).iaTouch e.1 128).iaRead e.1 128 with
      | .ok _ => e.2 == 0
      | .error (.absent _ _ _) => e.2 == 1
      | .error _ => e.2 == 2) = true ∧
    (let s : State := { withCmd (running .hred hredB) (put 0x7C) with xl := { (put 0x7C).xl with inv := some 0 } }
     s.xl.inv = some 0) ∧
    (({ pc := 0, prio := 0, mask := 1, wait := .parked 3 } : Entry).wait = .parked 3 ∧ ({ pc := 0, prio := 0, mask := 1, wait := .fetch 4 } : Entry).wait = .fetch 4) ∧
    (let s := put 0x7C
     s.extensionHeld = false ∧ s.stk.changing = false ∧ 8 < 9 ∧ s.stageBusy = false ∧ 0x4000 < Config.dramBytes ∧ stageOk 0x4000 s.stk.stageSize = true ∧
       stageOk s.stk.stageBase 512 = true ∧ (eng .resident 0 s).stageBusy = true) ∧
    -- a nonce on an absent page; a flush of the range of the tables; the bounds of registers
    (match ((put 0x7C).iaTouch (2 ^ 40) 32).iaRead (2 ^ 40) 32 with
     | .error (.absent _ _ _) => true
     | _ => false) = true ∧
    (let s : State := { put 0x7C with xl := { (put 0x7C).xl with inv := some 4 } }
     s.rangeInUse 4 = false ∧ (4 : Nat).testBit 2 = true) ∧
    (15 < 16 ∧ 16 ≤ 16 ∧ 60 ≤ 60 ∧ 120 ≤ 120 ∧ 59 < 60 ∧ 120 < 121 ∧ (0x104 : Nat).testBit 8 = true ∧ 0x203 ≤ 0x203 ∧ 0x215 ≤ 0x215) ∧
    [CtxState.free, .active, .scrubbing].all (fun st => decide ((((cmdFor st 0 0 true)).ctx 1).st = st)) = true ∧
    isOk ((put 0x7C).iaRead 0x4000 128) = true ∧ isOk ((put 0x7C).iaRead 0x4000 32) = true ∧
    (let s : State := { put 0x7C with aon := { (put 0x7C).aon with dump := some (15 * 2 ^ 48, 3, 0) } }
     (put 0x7C).aon.dump = none ∧ s.aon.dump = some (15 * 2 ^ 48, 3, 0)) ∧ 1023 < 1024 := by decide +kernel
/-- The writes of the dump and of the roster entry succeed where they go to host memory. -/
theorem test_DeviceRegisters_writes_met :
    (let s : State := { put 0x7C with aon := { (put 0x7C).aon with dump := some (15 * 2 ^ 48, 3, 0) } }
     ∃ s1, s.iaWrite (15 * 2 ^ 48) (s.dumpBytes 3 0) = .ok s1) ∧
    (let s := put 0x7C
     ∃ s1, s.iaRead (15 * 2 ^ 48) 32 = .ok 0 ∧ s.iaWrite (15 * 2 ^ 48 + 64) (s.rosterEntry (leBytes 32 0)) = .ok s1) ∧
    (∃ s1, (put 0x7C).iaWrite (15 * 2 ^ 48) ((put 0x7C).signedRecord 1 1) = .ok s1) := by
  refine ⟨hostWrite _ _ _ (by omega) ?_, ?_, hostWrite _ _ _ (by omega) ?_⟩
  · rw [length_dumpBytes _ _ _ (by decide)]; omega
  · refine (hostWrite _ _ _ (by omega) ?_).imp (fun s1 h => ⟨by decide +kernel, h⟩)
    have : ∀ l : List Nat, (l.flatMap (fun i => if ((KMap.getD (put 0x7C).links {} i).st == LinkSt.up) = true
        then (KMap.getD (put 0x7C).links {} i).peerId ++ List.replicate (32 - (KMap.getD (put 0x7C).links {} i).peerId.length) 0
        else List.replicate 32 (0 : Byte))).length = l.length * 32 := fun l => length_flatMap_const l _ 32 (fun _ => rfl)
    simp only [State.rosterEntry, List.length_append, length_leBytes, length_devid, this, length_signature, List.length_range]
    omega
  · rw [length_signedRecord]; omega

/-- Peer 5 is reached by link 2, which is up; a write to it is in flight, and an earlier one to the byte beside, or to the same, by no core or
by core 3. -/
def peerState (earlier : Nat) (core : Option Nat := none) : State :=
  let s := put 0x7C
  { s with
    links := [(2, { st := .up, width := 8 })], routes := [(5, 4)], hw := { s.hw with up0 := true }
    peerWrites := [(3, ⟨0, core, 5, earlier, [1]⟩), (4, ⟨0, core, 5, 0x101, [2]⟩)] }
theorem test_HostAndPeers_met :
    ((peerState 0).hw.up0 = true ∧ 4095 < 4096 ∧ (peerState 0).ident.limited = false) ∧
    (let s := peerState 0
     bytesMet s (s.hw.bar2 + 0x4000) 8 .load && bytesMet s (s.hw.bar2 + 0x4000) 8 .store &&
     (match (s.iaTouch 0x4000 8).iaBytes .load 0x4000 8 with
      | .ok l => l.any (fun p => ((owns 0x4000 s).iaTouch 0x4000 8).owned p.key)
      | .error _ => false)) = true ∧
    [(0x4000, 8, Acc.load), (0x4001, 7, .store), (0x4040, 8, .atomic), (0x4040, 64, .atomic)].all (fun e =>
      let s := peerState 0
      s.peerUp 5 e.1 && (match s.peerPlaces 5 e.1 e.2.1 e.2.2 with
        | (s1, .ok l) => l.all (fun p => !s1.owned p.key && s1.pendingPeer p == none && decide (spaceOf p.key < 16)) && decide ((l.map (·.key)).Nodup) &&
            !bitOf (s1.ctx outsideCtx).flags 0
        | _ => false)) = true ∧
    (match (owns 0x4000 (peerState 0)).peerPlaces 5 0x4000 8 .load with
     | (s1, .ok l) => l.any (fun p => s1.owned p.key)
     | _ => false) = true ∧
    (({ peerState 0 with links := [] } : State).peerUp 5 0x4000 = false) ∧
    [(0x100, none, false), (0x101, none, true), (0x100, some 3, true)].all (fun (e : Nat × Option Nat × Bool) =>
      let s := peerState e.1 e.2.1
      s.peerUp 5 0x101 && decide (KMap.find? s.peerWrites 4 = some ⟨0, e.2.1, 5, 0x101, [2]⟩) &&
        (s.peerWrites.any (fun w => decide (w.1 < 4 ∧ ((w.2.peer = 5 ∧ w.2.ia < 0x101 + 1 ∧ 0x101 < w.2.ia + w.2.bytes.length) ∨
          (w.2.core ≠ none ∧ e.2.1 ≠ none ∧ (w.2.core = e.2.1 ∨ w.2.ctx = 0))))) == e.2.2)) = true ∧
    -- a `.remote` acquire that the stores of the cores hold, or do not
    ((commitLeft (peerState 0)).recallCores.commits.any (fun e => !e.2.isEmpty) = true ∧ (peerState 0).recallCores.commits = []) := by decide +kernel

/-- One free block of site 0 is found: of a count that programming does not bring to PELIMIT. -/
theorem lowestFree_one (s : State) (h : s.blockFree 0 = true) (hw : s.wearOf 0 ≤ 5) : ∃ b, s.lowestFree 0 1 = [b] := by
  obtain ⟨m, hm⟩ : ∃ m, Config.flashBlocks = m + 1 := ⟨3814696, rfl⟩
  unfold State.lowestFree
  rw [hm]
  generalize hf : (fun (acc : List Nat) (w : Nat) => if 1 ≤ acc.length then acc else
    acc ++ (((List.range (m + 1)).map (fun b => siteBase 0 + b)).filter (fun b => s.blockFree b && s.wearOf b == w)).take
      (1 - acc.length)) = f
  have keep : ∀ (b : Nat) (ws : List Nat), ws.foldl f [b] = [b] := by
    intro b ws
    induction ws with
    | nil => rfl
    | cons w ws ih => rw [List.foldl_cons, ← hf]; simp only [List.length_singleton, le_refl, if_true]; rw [hf]; exact ih
  have find : ∀ ws : List Nat, s.wearOf 0 ∈ ws → ∃ b, ws.foldl f [] = [b] := by
    intro ws
    induction ws with
    | nil => intro h; cases h
    | cons w ws ih =>
      intro hm
      rw [List.foldl_cons]
      rcases hL : ((List.range (m + 1)).map (fun b => siteBase 0 + b)).filter (fun b => s.blockFree b && s.wearOf b == w) with _ | ⟨b, r⟩
      · have hne : s.wearOf 0 ≠ w := by
          intro e
          have := List.filter_eq_nil_iff.1 hL 0 (List.mem_map.2 ⟨0, List.mem_range.2 (by omega), by simp [siteBase]⟩)
          simp [h, e] at this
        have h0 : f [] w = [] := by rw [← hf]; simp [hL]
        rw [h0]
        exact ih ((List.mem_cons.1 hm).resolve_left hne)
      · have h1 : f [] w = [b] := by rw [← hf]; simp [hL]
        rw [h1]
        exact ⟨b, keep b ws⟩
  exact find _ (List.mem_range.2 (by rw [show Config.peLimit + 1 = 3001 from rfl]; omega))

/-- The first logical block of site 0 is free where its physical block is. -/
theorem freeRun_zero (s : State) (h : s.blockFree (s.flashBlock 0) = true) : s.freeRun 0 1 = some 0 := by
  obtain ⟨m, hm⟩ : ∃ m, Config.flashBlocks = m + 1 := ⟨3814696, rfl⟩
  unfold State.freeRun
  rw [hm, Nat.add_sub_cancel, List.range_succ_eq_map]
  simp [siteBase, h]

/-- Site 0 can then hold an image of one block. -/
theorem imageSite_one (s : State) (h : s.blockFree 0 = true) (hf : s.blockFree (s.flashBlock 0) = true) (hw : KMap.getD s.stk.wear 0 0 = 0) :
    s.imageSite 1 = some 0 := by
  obtain ⟨b, hb⟩ := lowestFree_one s h (by simp only [State.wearOf, hw, Config.initialWear]; omega)
  have key : (decide (1 ≤ (s.lowestFree 0 1).length) && (s.freeRun 0 1).isSome) = true := by rw [hb, freeRun_zero s hf]; rfl
  have sites : List.range Config.flashSites = 0 :: [1, 2, 3, 4, 5, 6, 7] := by decide
  unfold State.imageSite
  rw [sites]
  exact List.find?_cons_of_pos key

/-- The block of an install into layer 1, of 64 bytes at 0x4000: the hypotheses ask no more of SIZE, and so few are soon evaluated. -/
def inst64 : Nat := 1 + 0x4000 * 2 ^ 64 + 64 * 2 ^ 128 + noB
/-- That install in flight, which no code has ended. -/
def installing : State := withCmd (running .inst inst64) (eng .resident inst64 (put 0x7C))
/-- Its state after the first touches, which place nothing. -/
def installTouched : State :=
  ((installing.touchRange 0 0 .engRead (insSrc inst64) (insSize inst64)).touchLayer 0 0 (insLayer inst64))
/-- The places of its source, and the description of its layer. -/
def installLocs : List Loc :=
  match installTouched.instSource (running .inst inst64) with
  | .ok l => l
  | .error _ => []
def installLayer : LayerDesc :=
  match installTouched.layerDesc 0 0 (insLayer inst64) with
  | .ok (some d) => d
  | _ => ⟨0, 0, 0, 0, 0, 0⟩

theorem test_EngineSteps_install_met :
    let c := running .inst inst64
    KMap.find? installing.cmds 7 = some c ∧ c.kind = .inst ∧ installing.blockWaits 7 c = false ∧ installing.endBad c = false ∧
    c.code = none ∧ (insSize c.block + 262143) / 262144 = 1 ∧
    installTouched.instSource c = .ok installLocs ∧ installTouched.layerDesc c.ctx c.slot (insLayer c.block) = .ok (some installLayer) ∧
    installLocs.all (fun q => !installTouched.readWaits 7 c q && !(installTouched.recallAll installLocs false).badAt q) = true := by
  decide +kernel
theorem test_EngineSteps_free_met : installing.blockFree 0 = true ∧ installing.blockFree (installing.flashBlock 0) = true ∧
    KMap.getD installing.stk.wear 0 0 = 0 ∧ installTouched.blockFree (installTouched.flashBlock 0) = true := by decide +kernel
theorem test_EngineSteps_site_met : installing.imageSite 1 = some 0 ∧ installTouched.freeRun 0 1 = some 0 :=
  ⟨imageSite_one _ test_EngineSteps_free_met.1 test_EngineSteps_free_met.2.1 test_EngineSteps_free_met.2.2.1,
    freeRun_zero _ test_EngineSteps_free_met.2.2.2⟩
theorem test_EngineSteps_takes_met (w : State) (bytes : List Byte) : ∃ u, w.takeImage (running .inst inst64) installLayer 0 bytes = .ok u := by
  have ha : installLayer.at_ = 15 * 2 ^ 48 + 0x30120 := by decide +kernel
  obtain ⟨w1, h1⟩ := hostWrite w (installLayer.at_ + 16) (leBytes 8 (0 * 2 ^ 18)) (by omega) (by rw [ha, length_leBytes]; omega)
  obtain ⟨w2, h2⟩ := hostWrite w1 (installLayer.at_ + 24) (leBytes 5 bytes.length) (by omega) (by rw [ha, length_leBytes]; omega)
  simp only [State.takeImage, h1, h2]
  exact ⟨_, rfl⟩
/-- No site has the blocks of an image of more than a site. -/
theorem test_EngineSteps_noSite_met : (put 0).imageSite (Config.flashBlocks + 2) = none := by
  have : ∀ t, (put 0).freeRun t (Config.flashBlocks + 2) = none := by
    intro t
    rw [State.freeRun, show Config.flashBlocks + 1 - (Config.flashBlocks + 2) = 0 from rfl]
    rfl
  simp [State.imageSite, this]
/-- The level-3 entry of an address whose tables are there, in DRAM. -/
theorem test_EngineSteps_leaf_met :
    let w := { put 0 with mem := bytesAt 0x8000 8 (2 ^ 63 + 0x10000) ++ bytesAt 0x10000 8 (2 ^ 63 + 0x18000) ++ bytesAt 0x18000 8 (2 ^ 63 + 0x20000) }
    w.leafPa (0x4000 + 16384 * 1) = some (0x20000 + 8 * ptIndex 3 0x8000) ∧
      dramKey (0x20000 + 8 * ptIndex 3 0x8000) = some (0x20000 + 8 * ptIndex 3 0x8000) := by decide +kernel

/-! #### The staging cache, current and power, errors, links and bring-up -/

/-- Context 0 has layer 0 in state a and layer 1 in state b, of three pages each, and the staging cache has room for n layers of this
size. EPRIO of layer 0 is p, of layer 1 is 1. -/
def staged (a b : LayerSt) (p stage : Nat) : State :=
  let s := eng .absent 0 (put 0x7C)
  let s1 := s.modCtx 0 (fun c => { c with layers := [(0, { st := a, gen := 5, since := 3 }), (1, { st := b, gen := 2 })] })
  { s1 with
    stk := { s1.stk with stageSize := stage }
    mem := s1.mem ++ bytesAt (memKey (spHost 0) 0x30118) 8 (0xC000 + p * 2 ^ 40) ++ bytesAt (memKey (spHost 0) 0x30138) 8 (2 ^ 38 + 2 ^ 40) }
theorem test_LayerStates_met :
    (let s := staged .arriving .absent 0 1
     (s.layer 0 0 0).st = .arriving ∧ s.layerFits 0 0 = true ∧ s.installing 0 0 0 = false ∧ (s.layer 0 0 0).flagWrites = [] ∧
       (let s1 := s.setLayer 0 0 0 { st := .resident, gen := 5, since := s.nextSince, flagWrites := [2 + 2 ^ 32 * 5] }
        match (s1.touchLayer 0 0 0).layerDesc 0 0 0 with
        | .ok (some d) => isOk (((s1.touchLayer 0 0 0).touchVa 0 0 .store (d.flagAddr / 64 * 64)).vaWrite 0 .store d.flagAddr 8 (2 + 2 ^ 32 * 5))
        | _ => false) = true) ∧
    (((staged .absent .absent 0 1).layer 0 0 0).st ≠ .arriving ∧ (staged .arriving .absent 0 0).layerFits 0 0 = false ∧
      ({ staged .arriving .absent 0 1 with cmds := [(3, { kind := .inst, team := 0, gid := 0, ctx := 0, core := 0, pc := 8, baddr := noBarrier, blockAddr := 0x3000, block := instB - 1 })] } : State).installing 0 0 0 = true) ∧
    [(0, true), (1, true), (2, false)].all (fun (e : Nat × Bool) =>
      let s := staged .resident .arriving e.1 1
      decide ((s.layer 0 0 1).st = .arriving) && !s.layerFits 0 1 && decide (s.stk.stageSize ≠ 0) &&
        s.layersAll.all (fun v => decide (v.2.2.st ≠ .evicting)) &&
        (s.layersAll.any (fun v => v.2.2.st == .resident && v.2.2.pins == 0 &&
          (decide (s.eprio 0 v.2.1 < s.eprio 0 1) || s.eprio 0 v.2.1 == s.eprio 0 1)) == e.2)) = true ∧
    [true, false].all (fun b =>
      let s := (staged .evicting .absent 0 1).modCtx 0 (fun c => { c with layers := [(0, { st := .evicting, waiting := b })] })
      decide ((s.layer 0 0 0).st = .evicting) && (s.layer 0 0 0).waiting == b) = true := by decide +kernel

/-- District 0 is as it stands. -/
def dist (f : District → District) (cycle : Nat) : State := { (put 0x7C).modDistrict 0 f with cycle := cycle }
/-- What terrace 0 last measured, of its two districts. -/
def terraced (t : Terrace) (a b : District → District) (cycle : Nat) : State :=
  let s := (dist a cycle).modDistrict 1 b
  { s with pwr := { s.pwr with terraces := [(0, t)] } }
/-- A request that fits. -/
def asks (d : District) : District := { d with waiting := [(.acv 1, 12)] }
def held4 (d : District) : District := { d with granted := [(.mxa 9, 4)] }
theorem test_CurrentAndPower_met :
    -- a delayed district without a reservation, and with one
    (((dist (fun d => { d with delayed := true }) 0).district 0).delayed = true ∧ ((dist (fun d => { d with delayed := true }) 0).district 0).granted = []) ∧
    ((dist (held4 ∘ fun d => { d with delayed := true }) 0).district 0).granted ≠ [] ∧
    -- a grant: at the budget, above it, delayed, a lighter district first
    [(terraced {} (fun d => { d with waiting := [(.acv 1, 12), (.acv 2, 4)], granted := [(.mxa 9, 228)] }) id 0, true, false),
      (terraced {} (fun d => { d with waiting := [(.pipe 0 0, 12)], granted := [(.mxa 9, 229)] }) id 0, false, false),
      (terraced {} (asks ∘ held4 ∘ fun d => { d with delayed := true }) id 0, false, false),
      (terraced ⟨0, 6, 0⟩ asks asks 0, true, true), (terraced ⟨1, 6, 0⟩ asks asks 0, true, false), (terraced ⟨0, 6, 0⟩ asks id 0, true, false)].all
      (fun (e : State × Bool × Bool) =>
        let s := e.1.endDelay 0
        !(s.district 0).waiting.isEmpty && (s.district 0).fits == e.2.1 &&
          (decide ((s.terrace 0).percent ≠ 0 ∧ (s.terrace 0).heavier = 0 ∧ (s.district 1).fits = true) == e.2.2)) = true ∧
    -- a request of an MXA that cannot start: there is none; and one that can
    (let c := mxaCmd false
     let s := withCmd c (eng .resident mxaBlock (put 0x7C))
     (put 0x7C).cmds = [] ∧ s.mxaCan 7 c = true) ∧
    (KMap.find? ((dist id 255).core 0).pipes 0 = some 0 ∧ (dist id 255).clock 0 < 0 + 256 ∧ 0 + 256 ≤ (dist id 256).clock 0) ∧
    -- the delay: after 4,096 cycles above 10%, and each thing that keeps it off; cleared below 5%
    [(terraced ⟨0, 11, 0⟩ held4 id 4096, true), (terraced ⟨1, 11, 0⟩ held4 id 4096, false), (terraced ⟨0, 10, 0⟩ held4 id 4096, false),
      (terraced ⟨0, 11, 0⟩ held4 id 4095, false), (terraced ⟨0, 11, 0⟩ id id 4096, false),
      (terraced ⟨0, 11, 0⟩ held4 (held4 ∘ fun d => { d with delayed := true }) 4096, false)].all (fun (e : State × Bool) =>
        let s := e.1.endDelay 0
        decide ((s.terrace 0).heavier = 0 ∧ 10 < (s.terrace 0).percent ∧ (s.terrace 0).since + 4096 ≤ s.now (.terrace 0) ∧ (s.district 0).granted ≠ [] ∧
          (s.district 1).delayed = false) == e.2) = true ∧
    (31 < 32 ∧ ((terraced ⟨0, 4, 0⟩ id id 0).endDelay 0 |>.terrace 0).percent < 5 ∧ 5 ≤ ((terraced ⟨0, 5, 0⟩ id id 0).endDelay 0 |>.terrace 0).percent) ∧
    (63 < 64 ∧ ((dist id 0).district 63).low = false) ∧
    (let s := fun (n : Nat) => dist (fun d => { d with low := true, lowSince := 100, injecting := true }) n
     ((s 108).district 0).allow 100 = 8 ∧ ((s 108).district 0).suspect = false ∧ (s 108).now (.district 0) ≤ 100 + 8 ∧ 100 + 8 ≤ (s 108).now (.district 0) ∧ (s 108).onDistrict 0 0 = true) ∧
    (let c := mxaCmd true
     let s := withCmd c (eng .resident mxaBlock (put 0x7C))
     (Slot.decode ((s.phase (s.team c.team).phase).slot c.slot)).any (fun sl => decide (0 < sl.interval)) && decide (0 < mxK c.block)) = true ∧
    (let s := dist (fun d => { d with suspect := true, low := true, lowSince := 100 }) 164
     (s.district 0).suspect = true ∧ (s.district 0).lowSince + 64 ≤ s.now (.district 0)) ∧
    ((dist id 1023).clock 0 / 1024 ≤ ((dist id 1023).core 0).window ∧ (dist id 1024).clock 0 / 1024 = ((dist id 1024).core 0).window + 1) ∧
    (383 < 384 ∧ 1 < 2) := by decide +kernel
theorem test_CurrentAndPower_states_met :
    (let s : State := { dist id 16384 with teams := [] }
     ((s.district 0).st = .on ∧ s.districtIdle 0 = true ∧ s.pwr.idle ≠ 0 ∧ (s.district 0).idle + s.pwr.idle ≤ s.now (.district 0)) ∧
     (let s := dist (fun d => { d with st := .hold }) 2800
      (s.district 0).st = .hold ∧ (s.district 0).since + s.pwr.hold ≤ s.now (.district 0)) ∧
     (let s := dist (fun d => { d with st := .drain, wake := true }) 0
      (s.district 0).st = .drain ∧ (s.district 0).wake = true)) ∧
    (let s : State := { dist id 350 with pwr := { (dist id 350).pwr with inrush := [(0, ⟨[], [3], [(7, 0)], some 0⟩)] } }
     (s.arbiter 0).queue = [3] ∧ (s.arbiter 0).last = some 0 ∧ 0 + 350 ≤ s.now (.arbiter 0) ∧
       (s.arbiter 0).ramping.find? (fun e => e.1 == 7) = some (7, 0) ∧ s.now (.arbiter 0) < 0 + 1400 ∧ 0 + 1400 ≤ (dist id 1400).now (.arbiter 0)) := by decide +kernel

/-- A line of the L2, a DRAM line and a scratchpad line that a retired bus loses. -/
def lostLines : List ErrTarget := [.l2Line 7 3, .dramLine 8, .scratchLine 0 16384]
theorem test_SoftErrors_met :
    (put 0x7C).aon.corrected = [] ∧ (put 0x7C).aon.dump = none ∧
    (let s : State := { put 0x7C with cycle := 65535, aon := { (put 0x7C).aon with corrected := [(.tiles 0, 0, 0)] } }
     s.aon.corrected = (.tiles 0, 0, 0) :: [] ∧ s.now .alwaysOn < 0 + 65536) ∧
    (let s := put 0x7C
     (KMap.find? s.groups 0).isSome = true ∧ 255 < (s.grp 0).regs ∧ (1 : Mask) ≠ 0 ∧ (s.ctx (s.grp 0).ctx).st = .active ∧ (s.grp 0).sealed = 0 ∧
       ((grp (fun g => { g with sealed := 1 }) s).grp 0).sealed ≠ 0 ∧ (KMap.find? s.teams 0).isSome = true) ∧
    dramKey (64 * 7) = some (64 * 7) ∧ 2303 < 2304 ∧ 2303 ∉ (put 0x7C).stk.retired ∧ KMap.getD (put 0x7C).stk.spares 0 2303 < 8 ∧
    (let s := grp (fun g => { g with beats := [⟨3, 1⟩] }) (put 0x7C)
     (∃ b ∈ (s.grp 0).beats, b.bus = 3) ∧ (∀ b ∈ (s.grp 0).beats, b.bus ≠ 4)) ∧
    (let s : State := { put 0x7C with stk := { (put 0x7C).stk with spares := [(9, 8), (1536, 8), (1537, 8)] } }
     KMap.getD s.stk.spares 0 9 = 8 ∧ 9 ∉ s.stk.retired ∧ KMap.getD s.stk.spares 0 1536 = 8 ∧ KMap.getD s.stk.spares 0 1537 = 8 ∧
       lostLines.contains (.l2Line 7 3) = true ∧ (KMap.find? s.teams 0).isSome = true ∧
       -- a dirty line of the slice of the bus, whose store no FENCE .layer has acknowledged, and one of the core's scratchpad extension
       (let u := { s with l2dirty := [(7, 3)] }
        48 * (64 * 7 / 2 ^ 37 / 2) + 3 % 48 = 12 / 4 ∧ (7, 3) ∈ u.l2dirty ∧ 7 ∉ u.accepted ∧ 12 < 1536 ∧ 12 ∉ u.stk.retired) ∧
       (let u := s.modTeam 0 (fun t => { t with extent := 1048576 + 64 })
        1048576 ≤ 64 * 16384 ∧ 64 * 16384 < (u.team 0).extent ∧ (u.team 0).core = 0 / 4 ∧ memKey (spTeam 0) (64 * 16384) / 64 ∉ u.accepted) ∧
       -- a register of a pending group lies in its core's hidden tier, and one of a context that the core does not run in a shadow bank
       (grp (fun g => { g with active := false }) (s.modCore 0 (fun k => { k with running := some 0 }))).regUnit 0 = .hidden 0 ∧
       (s.modCore 0 (fun k => { k with running := none })).regUnit 0 = .shadow 0 ∧ 1536 + 2 * 0 + 1 = 1537) := by decide +kernel

/-- Link 2 is in a state, with CRC failures in a row; peer 5 is reached by it, and bring-up has ended. -/
def linkIn (st : LinkSt) (fails : Nat) : State :=
  { peerState 0 with links := [(2, { st := st, width := 8, fails := fails })], ident := { (put 0x7C).ident with devState := 6 } }
theorem test_LinkStates_met :
    ((linkIn .up 15).link 2).st = .up ∧ 15 ≤ ((linkIn .up 15).link 2).fails ∧ ((linkIn .up 14).link 2).fails < 15 ∧
    (linkIn .up 0).routes.filter (fun e => e.1 == 5) = [(5, 4)] ∧ (4 : Nat).testBit 2 = true ∧ (∀ e ∈ (linkIn .up 0).routes, e.1 = 6 → e.2.testBit 2 = false) ∧
    ((linkIn .down 0).link 23).st = .down ∧ 23 < 24 ∧ 5 ≤ (linkIn .down 0).ident.devState ∧ (linkIn .down 0).ident.fail = false ∧
    -- two writes to one peer, the second behind the first: to one byte, or of one core
    [(0x101, none), (0x100, some 3)].all (fun (e : Nat × Option Nat) =>
      (match (peerState e.1 e.2).peerWrites with
       | [(k1, w1), (k2, w2)] => decide (k1 < k2) && w1.peer == 5 && w2.peer == 5 && w1.ordered w2
       | _ => false)) = true ∧
    -- a committed store to the peer that was not sent; an access of a group to it in flight, whose link is no longer up
    (let s : State := { linkIn .down 0 with commits := [(0, [⟨0, 0, 0, ⟨8, 1, [⟨0, ⟨memKey (spPeer 5) 9, 9, none⟩, 2⟩], []⟩⟩])] }
     spaceOf (memKey (spPeer 5) 9) = spPeer 5 ∧ KMap.find? s.ctxs 0 ≠ none ∧ s.peerUp 5 9 = false) ∧
    (let o : Op := { gid := 0, pc := 8, flag := none, lanes := 1, entry := 1, dst := ⟨.v, 6⟩
                     kind := .load 8 false 0 [(0, [⟨⟨memKey (spPeer 5) 9, 9, none⟩, none⟩])] }
     let s := opAt o (linkIn .down 0)
     (s.opsOf 0).any (fun e => e.2.kind.places.any (fun p => spaceOf p.key == spPeer 5 && s.cutOff 0 5 p)) = true ∧ (s.ctx 0).st = .active ∧
       ((linkIn .down 0).opsOf 0).isEmpty = true) ∧
    ((linkIn .train 0).link 2).st = .train ∧ ((linkIn .ident 0).link 2).st = .ident ∧ (List.replicate 32 (7 : Byte)).length = 32 := by decide +kernel

/-- Bring-up has reached a step, or has failed there, at a cycle. -/
def bring (n : Nat) (fail : Bool) (cycle : Nat) : State :=
  { State.reset with ident := { State.reset.ident with devState := n, fail := fail }, cycle := cycle, aon := { quarantine := [(3, ⟨1, 0, 0, [], [], 0⟩)] } }
theorem test_ResetAndBringUp_met :
    KMap.find? (bring 6 false 0).aon.quarantine 3 = some ⟨1, 0, 0, [], [], 0⟩ ∧ KMap.find? (bring 6 false 0).aon.quarantine 4 = none ∧
    (spaceOf (memKey spFlash 5) = spFlash ∧ spaceOf (memKey spDram 5) = spDram ∧ 65536 ≤ spaceOf (memKey (spTeam 0) 5)) ∧
    (∀ n < 6, (bring n false 0).ident.fail = false ∧ (bring n false 0).ident.devState < 6) ∧ (0 < (bring 1 false 0).ident.devState) ∧
    (let s := bring 4 true (2 ^ 24)
     s.ident.fail = true ∧ s.ident.devState = 4 ∧ s.hw.up0 = false ∧ s.hw.up1 = false ∧ s.hw.tried = [] ∧ s.hw.retrySince + 2 ^ 24 ≤ s.now .host ∧
       (bring 4 true 5).now .host < (bring 4 true 5).hw.retrySince + 2 ^ 24) ∧
    -- one dirty line, that a reset drops, and another line
    (let s : State := { put 0x7C with l2dirty := [(7, 7)] }
     s.loseAll.l2dirty.map (·.1) ++ s.loseAll.dirtyStash = [7] ∧ dramKey (64 * 7) = some (64 * 7) ∧ 0x4000 / 64 ≠ 64 * 7 / 64) := by decide +kernel

/-- A step that answers a next state. -/
def steps (s : State) : Bool :=
  match step s with
  | .next _ => true
  | _ => false
theorem test_MemoryKept_met :
    (State.reset.mem.wf ∧ steps State.reset = true) ∧
    (let i : Instr := .st (gm 0 0 0 0xFF 0x40)
     let s : State := { memSetup (put ((encode i).getD 0)) with agenda := [.issue 0] }
     s.mem.wf ∧ steps s = true) ∧
    (let s : State := { peerState 0x100 with agenda := [.event (.remoteWriteAck 4)] }
     s.mem.wf ∧ steps s = true) := by decide +kernel

/-! ### Steps against the spec's own examples

Each runs one step of the small machine; the expected value is the spec's, in the rule that the comment names. -/

/-- One step at a word, with a, b and c in v2, v3 and v4 of lane 5, the one lane that passes guard p3, from the small machine as f changes it. -/
def stepped (i : Instr) (a b c : Nat) (f : State → State) : State :=
  let s := f (put ((encode i).getD 0))
  let s1 := grp (fun g => { g with
    v := [(2 * 64 + 5, BitVec.ofNat 32 a), (3 * 64 + 5, BitVec.ofNat 32 b), (4 * 64 + 5, BitVec.ofNat 32 c)], p := [(3, 0x20)] }) s
  match step { s1 with agenda := [.issue 0] } with
  | .next t => t
  | _ => s
/-- v6 and v7 of lane 5 stepped the step. -/
def low (s : State) : Nat := ((s.grp 0).vGet 6 5).toNat
def high (s : State) : Nat := ((s.grp 0).vGet 7 5).toNat
/-- A V3 word on v6, v2, v3 and v4. -/
def w3 (ty : Ty) (mod : BitVec 4) : V3 := ⟨ty, mod, ⟨.v, 6⟩, ⟨.v, 2⟩, ⟨.v, 3⟩, .zero, .pred 3 false, false⟩
def w4 (ty : Ty) (mod : BitVec 4) : V3 := { w3 ty mod with c := ⟨.v, 4⟩ }

-- R137: the result wraps; the saturated absolute value
theorem test_iadd : low (stepped (.iadd (w3 .i32 0)) 0xFFFFFFFF 2 0 id) = 1 := by decide +kernel
theorem test_iabs_sat : low (stepped (.iabs { w3 .i32 1 with b := .zero }) 0x80000000 0 0 id) = 0x7FFFFFFF := by decide +kernel
-- R138: the carry goes back into p5
theorem test_iaddc : (let t := stepped (.iaddc { w3 .i32 0 with c := ⟨.k, 5⟩ }) 0xFFFFFFFF 1 0 id
    (low t, ((t.grp 0).pGet 5).getLsbD 5)) = (0, true) := by decide +kernel
-- R139: the high word by floor; the wide product of -2 and 3, with 10 added
theorem test_imulh : (low (stepped (.imulh (w3 .i32 0)) 0xFFFFFFFF 1 0 id), low (stepped (.imulh (w3 .n32 0)) 0xFFFFFFFF 1 0 id)) = (0xFFFFFFFF, 0) := by
  decide +kernel
theorem test_imadw : (let t := stepped (.imadw { w4 .i32 0 with c := ⟨.s, 1⟩ }) 0xFFFFFFFE 3 0 (grp (fun g => { g with s := [(1, 10)] }))
    (low t, high t)) = (4, 0) := by decide +kernel
-- R140: a count of the width, or more
theorem test_shl_width : low (stepped (.shl (w3 .i32 0)) 5 32 0 id) = 0 := by decide +kernel
theorem test_sha_width : low (stepped (.sha (w3 .i32 0)) 0x80000000 40 0 id) = 0xFFFFFFFF := by decide +kernel
-- R142: the bitwise select
theorem test_lop3 : low (stepped (.lop3 { w4 .i32 0 with ty := .i8, mod := 8 }) 0xFFFF0000 0xFF00FF00 0xF0F0F0F0 id) = 0xFF00F0F0 := by decide +kernel
-- R144: a T2 code of 0b10 comes out as -2
theorem test_bfx : low (stepped (.bfx (w3 .i32 0)) 2 0x200 0 id) = 0xFFFFFFFE := by decide +kernel
-- R146: the selector that reverses bytes; byte 0 of B, then zero, then ones
theorem test_prmt : (low (stepped (.prmt (w4 .i32 0)) 0x11223344 0 0x00010203 id), low (stepped (.prmt (w4 .i32 0)) 0 0x11223344 0x09090804 id)) =
    (0x44332211, 0xFFFF0044) := by decide +kernel
-- R150: (+0 × -1) + (-0), and + (+0) rounded down
theorem test_ffma_zero : (low (stepped (.ffma (w4 .f32 0)) 0 0xBF800000 0x80000000 id), low (stepped (.ffma (w4 .f32 2)) 0 0xBF800000 0 id)) =
    (0x80000000, 0x80000000) := by decide +kernel
-- R155: FFRC of -2^-149
theorem test_ffrc : low (stepped (.ffrc { w3 .f32 0 with b := .zero }) 0x80000001 0 0 id) = 0x3F7FFFFF := by decide +kernel
-- R161: the tie goes to even
theorem test_cvt : low (stepped (.cvt { w3 .bf16 2 with b := .zero }) 0x3F818000 0 0 id) = 0x3F82 := by decide +kernel
-- R163, R164: the worked example of chapter 6, with the q8 slot in slot 6: -0.9375 by a scale of 2^-3, and back
theorem test_cvq : low (stepped (.cvq { w3 .f32 6 with b := ⟨.v, 3⟩ }) 0xBF700000 124 0 slots) = 0xF8 := by decide +kernel
theorem test_cvd : low (stepped (.cvd { w3 .f32 6 with b := ⟨.v, 3⟩, c := ⟨.k, 1⟩ }) 0x7F 124 0 slots) = 0x417E0000 := by decide +kernel
-- R165, and chapter 6: byte 1 of the word, and the fifth trit of a byte
theorem test_pack : low (stepped (.pack (w4 .b32 0)) 0xF8 1 6 id) = 0xF806 := by decide +kernel
theorem test_packt : low (stepped (.packt (w4 .b32 1)) 3 1 1 id) = 7 := by decide +kernel
-- R178: the lowest passing lane alone
theorem test_elect : ((stepped (.elect { ctl (.pred 3 false) with d := ⟨.k, 4⟩ }) 0 0 0 id).grp 0).pGet 4 = 0x20 := by decide +kernel
-- R67, R68: 2^100, 1 and -2^100 add up to exactly 1
theorem test_exact_sum : longSumValue (exactsum (exactsum (exactsum 0 0x71800000) 0x3F800000) 0xF1800000) = 0x3F800000 := by decide +kernel
-- R59: 16 products of -128 by -128 do not clamp; the 512th clamps once
theorem test_narrow_clamp : mxaNarrow 4 (fun _ => (-128, false)) (fun _ => -128) 0 16 = (262144, 0, false) ∧
    addPlane (-128) (8372224, 0) (-2, 3) = (8388607, 1) := by decide +kernel
-- R61: the two promotions of the worked example
theorem test_promote : (mxaPromote 0 (5000000, 0, false) 107 127).1 = 0x4C4B40000000004C ∧
    (mxaPromote 0x4C4B40000000004C (-3, 0, false) 137 127).1 = 0xA02625A000000055 := by decide +kernel
-- R96, R97, R98, R174: TRAP enters handler mode at %utvec, with its code in %xdec2, POS 8 and cause 0x0A
theorem test_trap : (let t := stepped (.trap ⟨.i32, 0, .zero, .zero, 0x2A, .always, false⟩) 0 0 0 (grp (fun g => { g with utvec := 32 }) ∘ someCode)
    ((t.grp 0).entries.map (fun e => (e.pc, e.handler)), (t.grp 0).xcause.toNat, (t.grp 0).xdec2.toNat)) = ([(32, true)], 0x80A, 0x2A) := by
  decide +kernel
-- R94, R96: an unassigned opcode, 0x60, traps with POS 56 and cause 0x01
theorem test_opcode_trap : (match step { grp (fun g => { g with utvec := 32 }) (someCode (put 0x6020444058130C7C)) with agenda := [.issue 0] } with
    | .next t => (t.grp 0).xcause.toNat
    | _ => 0) = 0x3801 := by decide +kernel
-- R92, R98: a privileged word in an unprivileged context
theorem test_privilege : ((stepped (.eret (fs 0 .zero ⟨.v, 2⟩ 0)) 0 0 0 (fun s => s.modCtx 0 (fun c => { c with flags := 0 }))).ctx 0).st = .stopped := by
  decide +kernel
-- R189, R261: a store waits in the buffer, in one place; memory does not have it yet
theorem test_store : (let t := stepped (.st (gm 0 0 0 0xFF 0x40)) 0x1000 0 0 id
    ((t.grp 0).buffer.map (fun b => (b.pc, b.lanes.toNat, b.bytes.map (·.loc.key))), t.mem.getN 0x1040 4)) =
      ([(8, 0x20, [0x1040, 0x1041, 0x1042, 0x1043])], 0) := by decide +kernel
-- R200, R201: TBINIT writes EXP and PEND
theorem test_tbinit : (let t := stepped (.tbinit { gm 0 0 2 0xFF 0x20 with d := ⟨.v, 3⟩ }) 0x1000 3 0 id
    t.mem.getN (memKey (spTeam 0) 0x1020) 8) = 3 * 2 ^ 56 + 3 * 2 ^ 4 := by decide +kernel
-- R38: SRD reads %lane, the number of the lane
theorem test_srd_lane : low (stepped (.srd { fs 0 ⟨.v, 6⟩ .zero 0 with g := .pred 3 false }) 0 0 0 id) = 5 := by decide +kernel
/-- Two loads of the group in flight on one byte. -/
def twoLoads (s : State) : State :=
  let o : Op := { gid := 0, pc := 8, flag := none, lanes := 1, entry := 1, dst := ⟨.v, 9⟩, ty := .b32, regs := [.v 9]
                  kind := .load 8 false 0 [(0, [⟨⟨memKey spDram 0x40, 0x40, none⟩, none⟩])] }
  (s.addOp o).addOp { o with dst := ⟨.v, 10⟩, regs := [.v 10] }
-- R301: of two loads of one byte the later one does not return first
theorem test_load_order :
    (match exec (.loadComplete 1) (twoLoads (put 0x7C)) with
     | .next t => t.ops.length
     | _ => 0) = 2 ∧
    (match exec (.loadComplete 0) (twoLoads (put 0x7C)) with
     | .next t => t.ops.length
     | _ => 0) = 1 := by decide +kernel
-- R309: a load in flight reads before the stores of its group become visible, and before an engine command is accepted
theorem test_load_before_point :
    ((((twoLoads (put 0x7C)).makeVisible 0).opsOf 0).all (fun e => e.2.kind.unread.isEmpty)) = true := by decide +kernel
end Sys2Proof.Tests
end

section
/-! The machine right after reset: what each part of the register file reads, and the statement of the reset state. -/

namespace Sys2Proof.Machine

/-! ### The registers of space 1 at reset -/

/-- The reset value of a register of space 1, the fused identity left out: 0 where no rule gives one. -/
def resetReg : Nat → Nat
  | 0x103 => 65536
  | 0x104 => 1048576
  | 0x305 => 3000
  | 0x801 => 240
  | 0x804 => 32
  | 0x805 => 2800
  | 0x806 => 16384
  | 0x808 => 32 * 2 ^ 16
  | 0x809 => 95
  | _ => 0

/-- The registers whose reset value is not 0. -/
def resetIndices : List Nat := [0x103, 0x104, 0x305, 0x801, 0x804, 0x805, 0x806, 0x808, 0x809]

theorem resetReg_of_notMem (i : Nat) (h : i ∉ resetIndices) : resetReg i = 0 := by
  simp only [resetIndices, List.mem_cons, List.not_mem_nil, or_false, not_or] at h
  obtain ⟨h1, h2, h3, h4, h5, h6, h7, h8, h9⟩ := h
  exact resetReg.eq_10 i h1 h2 h3 h4 h5 h6 h7 h8 h9

theorem resetReg_between (i lo hi : Nat) (hlo : lo ≤ i) (hhi : i < hi)
    (h : ∀ x ∈ resetIndices, x < lo ∨ hi ≤ x) : resetReg i = 0 :=
  resetReg_of_notMem i fun hi' => by have := h i hi'; omega

theorem readFc_reset (i : Nat) (h : i < 0x180) : State.reset.readFc i = resetReg i := by
  unfold State.readFc
  split
  case h_5 =>
    exact (resetReg_of_notMem i (by simp only [imp_false] at *; simp [resetIndices]; omega)).symm
  all_goals rfl

theorem readXl_reset (i : Nat) (hlo : 0x180 ≤ i) (hhi : i < 0x200) : State.reset.readXl i = resetReg i := by
  rw [resetReg_between i 0x180 0x200 hlo hhi (by decide)]
  unfold State.readXl
  split
  case h_5 => split <;> rfl
  all_goals rfl

theorem readCc_reset (i : Nat) (hlo : 0x200 ≤ i) (hhi : i < 0x300) : State.reset.readCc i = resetReg i := by
  rw [resetReg_between i 0x200 0x300 hlo hhi (by decide)]
  unfold State.readCc
  dsimp only
  split
  case h_15 => split <;> rfl
  all_goals rfl

theorem readStk_reset (i : Nat) (hlo : 0x300 ≤ i) (hhi : i < 0x400) : State.reset.readStk i = resetReg i := by
  unfold State.readStk
  split
  case h_3 => decide +kernel
  case h_7 =>
    exact (resetReg_of_notMem i (by simp only [imp_false] at *; simp [resetIndices]; omega)).symm
  all_goals rfl

theorem readPwr_reset (i : Nat) (hlo : 0x800 ≤ i) (hhi : i < 0x900) : State.reset.readPwr i = resetReg i := by
  unfold State.readPwr
  dsimp only
  split
  case h_11 =>
    exact (resetReg_of_notMem i (by simp only [imp_false] at *; simp [resetIndices]; omega)).symm
  all_goals rfl

theorem link_reset (l : Nat) : State.reset.link l = {} := rfl

theorem readId_reset (i : Nat) (hlo : 0x900 ≤ i) (h : i < 0x900 ∨ 0x908 < i) : State.reset.readId i = resetReg i := by
  rw [resetReg_of_notMem i (by simp [resetIndices]; omega)]
  have hfixed : i ≠ 0x900 := by omega
  have hdev : ¬(0x901 ≤ i ∧ i ≤ 0x904) := by omega
  have hkey : ¬(0x905 ≤ i ∧ i ≤ 0x908) := by omega
  unfold State.readId
  split
  case h_1 => exact absurd rfl hfixed
  case h_14 =>
    rw [if_neg hdev, if_neg hkey]
    dsimp only
    rw [link_reset]
    exact ite_self 0
  all_goals rfl

theorem dcrRead_reset (i : Nat) (h : i < 0x900 ∨ 0x908 < i) : State.reset.dcrRead i = resetReg i := by
  unfold State.dcrRead
  split
  · next hlimited => cases hlimited
  split
  · next hi => exact readFc_reset i hi
  split
  · next hlo hi => exact readXl_reset i (by omega) hi
  split
  · next hlo hi => exact readCc_reset i (by omega) hi
  split
  · next hlo hi => exact readStk_reset i (by omega) hi
  split
  · next hlo hi => exact (resetReg_between i 0x400 0x800 (by omega) hi (by decide)).symm
  split
  · next hlo hi => exact readPwr_reset i (by omega) hi
  split
  · next hlo hi => exact readId_reset i (by omega) h
  · next hlo => exact (resetReg_of_notMem i (by simp [resetIndices]; omega)).symm

/-- Settles O1: the parts of the state are their defaults, and `dcrRead_reset` gives the registers. -/
theorem resetState : Obligations.ResetState := by
  refine ⟨?groups, ?memory, fun c => ?contexts, fun i h => dcrRead_reset i h, fun c => ?cores, fun d => ?districts,
    ?units, ?stack, ?blackBox, ?ring, ?window, ?links, rfl, rfl⟩
  case groups => exact ⟨rfl, rfl, rfl, rfl, rfl, rfl, rfl, rfl, rfl, rfl, rfl⟩
  case memory => exact ⟨rfl, rfl, rfl, rfl, fun k => rfl⟩
  case contexts =>
    exact ⟨rfl, rfl, rfl, rfl, rfl, rfl, rfl, rfl, rfl, rfl, rfl, rfl, rfl, rfl, rfl, rfl, rfl, rfl, rfl, rfl⟩
  case cores => exact ⟨rfl, rfl, rfl, rfl, rfl, rfl, rfl, rfl, rfl, rfl⟩
  case districts => exact ⟨rfl, rfl, rfl, rfl, rfl, rfl, rfl, rfl, rfl⟩
  case units => exact ⟨rfl, rfl, rfl, rfl, rfl, rfl, rfl⟩
  case stack => exact ⟨rfl, rfl, rfl, rfl, rfl⟩
  case blackBox => exact ⟨rfl, rfl, rfl, rfl, rfl⟩
  case ring => exact ⟨rfl, rfl, rfl, rfl, rfl⟩
  case window => exact ⟨rfl, rfl, rfl, rfl, rfl⟩
  case links => exact ⟨rfl, rfl, rfl, rfl, rfl, rfl, rfl⟩
end Sys2Proof.Machine
end

section
/-! Every step keeps memory in canonical form: a lemma for each function of the model, in the model's order. -/

namespace Sys2Proof.Machine

/-! ### How the form goes through the shapes of the model -/

theorem wf_of_mem {s t : State} (e : t.mem = s.mem) (h : s.mem.wf) : t.mem.wf := by
  rw [e]
  exact h

theorem wf_ite {c : Prop} [Decidable c] {s t : State} (hs : s.mem.wf) (ht : t.mem.wf) : (if c then s else t).mem.wf := by
  split
  · exact hs
  · exact ht

theorem KeepsForm.ite {c : Prop} [Decidable c] {o p : Out} (ho : KeepsForm o) (hp : KeepsForm p) :
    KeepsForm (if c then o else p) := by
  split
  · exact ho
  · exact hp

theorem State.makeVisible_wf (s : State) (gid : Nat) (h : s.mem.wf) : (s.makeVisible gid).mem.wf :=
  wf_of_mem (State.makeVisible_mem s gid) h

theorem State.fillLines_wf (s : State) (lines : List (Nat × Nat)) (write : Bool) (h : s.mem.wf) :
    (s.fillLines lines write).mem.wf := wf_of_mem (State.fillLines_mem s lines write) h

theorem Memory.wf_foldl {α : Type} (f : Memory → α → Memory) (l : List α) (m : Memory) (h : m.wf)
    (hf : ∀ m a, Memory.wf m → Memory.wf (f m a)) : Memory.wf (l.foldl f m) := by
  induction l generalizing m with
  | nil => exact h
  | cons a l ih => exact ih _ (hf m a h)

theorem wf_foldl_bind {α : Type} (f : State → α → Option State) (l : List α) (o : Option State) (t : State)
    (h : ∀ s, o = some s → s.mem.wf) (hf : ∀ s a u, s.mem.wf → f s a = some u → u.mem.wf)
    (ht : l.foldl (fun o a => o.bind (fun s => f s a)) o = some t) : t.mem.wf := by
  induction l generalizing o with
  | nil => exact h t ht
  | cons a l ih =>
    refine ih (o.bind (fun s => f s a)) (fun u hu => ?_) ht
    obtain ⟨s, hs, hu⟩ := Option.bind_eq_some_iff.mp hu
    exact hf s a u (h s hs) hu

/-! ### How a word issues and ends -/

theorem Issue.again_keeps (x : Issue) (s : State) (h : s.mem.wf) : KeepsForm (x.again s) := .next h

theorem Issue.release_keeps (x : Issue) (scope : Nat) (s : State) (k : State → Out) (h : s.mem.wf)
    (hk : ∀ t, t.mem.wf → KeepsForm (k t)) : KeepsForm (x.release scope s k) := by
  unfold Issue.release
  dsimp only
  exact .ite (hk _ (State.makeVisible_wf _ _ h)) (Issue.again_keeps _ _ (State.makeVisible_wf _ _ h))

theorem State.touchQ_wf (s : State) (ctx tower bank : Nat) (l : List (OpK × Operand × Nat)) (h : s.mem.wf) :
    (s.touchQ ctx tower bank l).mem.wf := by
  unfold State.touchQ
  refine wf_foldl _ _ _ h (fun _ _ hs => ?_)
  split
  · exact wf_ite (State.touchRange_wf _ _ _ _ _ _ hs) hs
  · exact hs

theorem lanewise_keeps {i : Instr} {s : State} {n : Need} {meter : Option (Nat × Nat)} {d : Operand} {ty : Ty} {w : Nat}
    {f : Issue → Nat → Nat} (h : s.mem.wf) : KeepsForm (lanewise i s n meter d ty w f) :=
  stage_keeps _ _ _ _ h (fun _ hs => Issue.finish_keeps _ _ hs)

theorem lanewiseP_keeps {i : Instr} {s : State} {n : Need} {p : Nat} {f : Issue → Nat → Bool} (h : s.mem.wf) :
    KeepsForm (lanewiseP i s n p f) := stage_keeps _ _ _ _ h (fun _ hs => Issue.finish_keeps _ _ hs)

theorem Issue.slots_keeps (x : Issue) (s : State) (k : OpKind) (go : Out) (h : s.mem.wf) (hgo : KeepsForm go) :
    KeepsForm (x.slots s k go) := .ite hgo (Issue.again_keeps _ _ h)

/-! ### Integer words -/

theorem arith3_keeps {i : Instr} {s : State} {f : V3} {ty : Ty} {wd wa wb wc : Nat} {op : Nat → Nat → Nat → Nat} (h : s.mem.wf) :
    KeepsForm (arith3 i s f ty wd wa wb wc op) := lanewise_keeps h

theorem arith2_keeps {i : Instr} {s : State} {f : V3} {op : Nat → Nat → Nat} (h : s.mem.wf) : KeepsForm (arith2 i s f op) :=
  arith3_keeps h

theorem arithSh_keeps {i : Instr} {s : State} {f : V3} {op : Nat → Nat → Nat} (h : s.mem.wf) : KeepsForm (arithSh i s f op) :=
  arith3_keeps h

theorem arith1_keeps {i : Instr} {s : State} {f : V3} {ty : Ty} {wd : Nat} {op : Nat → Nat} (h : s.mem.wf) :
    KeepsForm (arith1 i s f ty wd op) := arith3_keeps h

theorem arithI_keeps {i : Instr} {s : State} {f : VI} {op : Nat → Nat} (h : s.mem.wf) : KeepsForm (arithI i s f op) :=
  lanewise_keeps h

theorem arithC_keeps {i : Instr} {s : State} {f : V3} {res : Nat → Nat → Nat → Nat} {out : Nat → Nat → Nat → Bool}
    (h : s.mem.wf) : KeepsForm (arithC i s f res out) := by
  unfold arithC
  refine stage_keeps _ _ _ _ h (fun _ hs => ?_)
  dsimp only
  exact Issue.finish_keeps _ _ hs

theorem execIadd_keeps (f : V3) (s : State) (h : s.mem.wf) : KeepsForm (execIadd f s) := arith2_keeps h
theorem execIsub_keeps (f : V3) (s : State) (h : s.mem.wf) : KeepsForm (execIsub f s) := arith2_keeps h
theorem execIaddc_keeps (f : V3) (s : State) (h : s.mem.wf) : KeepsForm (execIaddc f s) := arithC_keeps h
theorem execIsubb_keeps (f : V3) (s : State) (h : s.mem.wf) : KeepsForm (execIsubb f s) := arithC_keeps h
theorem execImul_keeps (f : V3) (s : State) (h : s.mem.wf) : KeepsForm (execImul f s) := arith2_keeps h
theorem execImulh_keeps (f : V3) (s : State) (h : s.mem.wf) : KeepsForm (execImulh f s) := arith2_keeps h
theorem execImad_keeps (f : V3) (s : State) (h : s.mem.wf) : KeepsForm (execImad f s) := arith3_keeps h
theorem execImadw_keeps (f : V3) (s : State) (h : s.mem.wf) : KeepsForm (execImadw f s) := arith3_keeps h
theorem execIabs_keeps (f : V3) (s : State) (h : s.mem.wf) : KeepsForm (execIabs f s) := arith1_keeps h
theorem execIneg_keeps (f : V3) (s : State) (h : s.mem.wf) : KeepsForm (execIneg f s) := arith1_keeps h
theorem execImin_keeps (f : V3) (s : State) (h : s.mem.wf) : KeepsForm (execImin f s) := arith2_keeps h
theorem execImax_keeps (f : V3) (s : State) (h : s.mem.wf) : KeepsForm (execImax f s) := arith2_keeps h
theorem execIsad_keeps (f : V3) (s : State) (h : s.mem.wf) : KeepsForm (execIsad f s) := arith3_keeps h
theorem execShl_keeps (f : V3) (s : State) (h : s.mem.wf) : KeepsForm (execShl f s) := arithSh_keeps h
theorem execShr_keeps (f : V3) (s : State) (h : s.mem.wf) : KeepsForm (execShr f s) := arithSh_keeps h
theorem execSha_keeps (f : V3) (s : State) (h : s.mem.wf) : KeepsForm (execSha f s) := arithSh_keeps h
theorem execRot_keeps (f : V3) (s : State) (h : s.mem.wf) : KeepsForm (execRot f s) := arithSh_keeps h
theorem execAndw_keeps (f : V3) (s : State) (h : s.mem.wf) : KeepsForm (execAndw f s) := arith2_keeps h
theorem execOrw_keeps (f : V3) (s : State) (h : s.mem.wf) : KeepsForm (execOrw f s) := arith2_keeps h
theorem execXorw_keeps (f : V3) (s : State) (h : s.mem.wf) : KeepsForm (execXorw f s) := arith2_keeps h
theorem execNotw_keeps (f : V3) (s : State) (h : s.mem.wf) : KeepsForm (execNotw f s) := arith1_keeps h
theorem execAndn_keeps (f : V3) (s : State) (h : s.mem.wf) : KeepsForm (execAndn f s) := arith2_keeps h
theorem execLop3_keeps (f : V3) (s : State) (h : s.mem.wf) : KeepsForm (execLop3 f s) := arith3_keeps h
theorem execPopc_keeps (f : V3) (s : State) (h : s.mem.wf) : KeepsForm (execPopc f s) := arith1_keeps h
theorem execClz_keeps (f : V3) (s : State) (h : s.mem.wf) : KeepsForm (execClz f s) := arith1_keeps h
theorem execCtz_keeps (f : V3) (s : State) (h : s.mem.wf) : KeepsForm (execCtz f s) := arith1_keeps h
theorem execBrev_keeps (f : V3) (s : State) (h : s.mem.wf) : KeepsForm (execBrev f s) := arith1_keeps h
theorem execBfx_keeps (f : V3) (s : State) (h : s.mem.wf) : KeepsForm (execBfx f s) := arithSh_keeps h
theorem execBfi_keeps (f : V3) (s : State) (h : s.mem.wf) : KeepsForm (execBfi f s) := arith3_keeps h
theorem execPrmt_keeps (f : V3) (s : State) (h : s.mem.wf) : KeepsForm (execPrmt f s) := arith3_keeps h
theorem execLea_keeps (f : V3) (s : State) (h : s.mem.wf) : KeepsForm (execLea f s) := arith3_keeps h
theorem execLeaw_keeps (f : V3) (s : State) (h : s.mem.wf) : KeepsForm (execLeaw f s) := arith3_keeps h
theorem execDp4_keeps (f : V3) (s : State) (h : s.mem.wf) : KeepsForm (execDp4 f s) := arith3_keeps h
theorem execIaddImm_keeps (f : VI) (s : State) (h : s.mem.wf) : KeepsForm (execIaddImm f s) := arithI_keeps h
theorem execImulImm_keeps (f : VI) (s : State) (h : s.mem.wf) : KeepsForm (execImulImm f s) := arithI_keeps h
theorem execIminImm_keeps (f : VI) (s : State) (h : s.mem.wf) : KeepsForm (execIminImm f s) := arithI_keeps h
theorem execImaxImm_keeps (f : VI) (s : State) (h : s.mem.wf) : KeepsForm (execImaxImm f s) := arithI_keeps h
theorem execShlImm_keeps (f : VI) (s : State) (h : s.mem.wf) : KeepsForm (execShlImm f s) := arithI_keeps h
theorem execShrImm_keeps (f : VI) (s : State) (h : s.mem.wf) : KeepsForm (execShrImm f s) := arithI_keeps h
theorem execShaImm_keeps (f : VI) (s : State) (h : s.mem.wf) : KeepsForm (execShaImm f s) := arithI_keeps h
theorem execRotImm_keeps (f : VI) (s : State) (h : s.mem.wf) : KeepsForm (execRotImm f s) := arithI_keeps h
theorem execAndImm_keeps (f : VI) (s : State) (h : s.mem.wf) : KeepsForm (execAndImm f s) := arithI_keeps h
theorem execOrImm_keeps (f : VI) (s : State) (h : s.mem.wf) : KeepsForm (execOrImm f s) := arithI_keeps h
theorem execXorImm_keeps (f : VI) (s : State) (h : s.mem.wf) : KeepsForm (execXorImm f s) := arithI_keeps h
theorem execLeaImm_keeps (f : VI) (s : State) (h : s.mem.wf) : KeepsForm (execLeaImm f s) := arithI_keeps h
theorem execBfxImm_keeps (f : VI) (s : State) (h : s.mem.wf) : KeepsForm (execBfxImm f s) := arithI_keeps h
theorem execBfiImm_keeps (f : VI) (s : State) (h : s.mem.wf) : KeepsForm (execBfiImm f s) := arithI_keeps h
theorem execPrmtImm_keeps (f : VI) (s : State) (h : s.mem.wf) : KeepsForm (execPrmtImm f s) := arithI_keeps h

/-! ### Floating-point words -/

theorem float3_keeps {i : Instr} {s : State} {f : V3} {meter : Option (Nat × Nat)} {op : Nat → Nat → Nat → Nat} (h : s.mem.wf) :
    KeepsForm (float3 i s f meter op) := lanewise_keeps h

theorem floatI_keeps {i : Instr} {s : State} {f : VI} {meter : Option (Nat × Nat)} {op : Nat → Nat → Nat} (h : s.mem.wf) :
    KeepsForm (floatI i s f meter op) := lanewise_keeps h

theorem floatLong_keeps {i : Instr} {s : State} {f : V3} {op : Nat → Nat → Nat} (h : s.mem.wf) :
    KeepsForm (floatLong i s f op) := by
  unfold floatLong
  refine stage_keeps _ _ _ _ h (fun _ hs => .ite (Issue.finish_keeps _ _ hs) ?_)
  split
  · exact Issue.finish_keeps _ _ hs
  · dsimp only
    exact Issue.finishS_keeps _ _ hs

theorem execFadd_keeps (f : V3) (s : State) (h : s.mem.wf) : KeepsForm (execFadd f s) := float3_keeps h
theorem execFsub_keeps (f : V3) (s : State) (h : s.mem.wf) : KeepsForm (execFsub f s) := float3_keeps h
theorem execFmul_keeps (f : V3) (s : State) (h : s.mem.wf) : KeepsForm (execFmul f s) := float3_keeps h
theorem execFfma_keeps (f : V3) (s : State) (h : s.mem.wf) : KeepsForm (execFfma f s) := float3_keeps h
theorem execFmin_keeps (f : V3) (s : State) (h : s.mem.wf) : KeepsForm (execFmin f s) := float3_keeps h
theorem execFmax_keeps (f : V3) (s : State) (h : s.mem.wf) : KeepsForm (execFmax f s) := float3_keeps h
theorem execFabs_keeps (f : V3) (s : State) (h : s.mem.wf) : KeepsForm (execFabs f s) := float3_keeps h
theorem execFneg_keeps (f : V3) (s : State) (h : s.mem.wf) : KeepsForm (execFneg f s) := float3_keeps h
theorem execFdiv_keeps (f : V3) (s : State) (h : s.mem.wf) : KeepsForm (execFdiv f s) := floatLong_keeps h
theorem execFsqrt_keeps (f : V3) (s : State) (h : s.mem.wf) : KeepsForm (execFsqrt f s) := floatLong_keeps h
theorem execFrcp_keeps (f : V3) (s : State) (h : s.mem.wf) : KeepsForm (execFrcp f s) := floatLong_keeps h
theorem execFrsq_keeps (f : V3) (s : State) (h : s.mem.wf) : KeepsForm (execFrsq f s) := floatLong_keeps h
theorem execFex2_keeps (f : V3) (s : State) (h : s.mem.wf) : KeepsForm (execFex2 f s) := floatLong_keeps h
theorem execFlg2_keeps (f : V3) (s : State) (h : s.mem.wf) : KeepsForm (execFlg2 f s) := floatLong_keeps h
theorem execFsin_keeps (f : V3) (s : State) (h : s.mem.wf) : KeepsForm (execFsin f s) := floatLong_keeps h
theorem execFcos_keeps (f : V3) (s : State) (h : s.mem.wf) : KeepsForm (execFcos f s) := floatLong_keeps h

theorem execFuncResultWrite_keeps (op : Nat) (s : State) (h : s.mem.wf) : KeepsForm (execFuncResultWrite op s) := by
  unfold execFuncResultWrite
  split
  · split
    · dsimp only
      exact .next (State.settle_wf _ _ h)
    · exact .next h
  · exact .next h

theorem execFflr_keeps (f : V3) (s : State) (h : s.mem.wf) : KeepsForm (execFflr f s) := float3_keeps h
theorem execFceil_keeps (f : V3) (s : State) (h : s.mem.wf) : KeepsForm (execFceil f s) := float3_keeps h
theorem execFtrunc_keeps (f : V3) (s : State) (h : s.mem.wf) : KeepsForm (execFtrunc f s) := float3_keeps h
theorem execFrnd_keeps (f : V3) (s : State) (h : s.mem.wf) : KeepsForm (execFrnd f s) := float3_keeps h
theorem execFfrc_keeps (f : V3) (s : State) (h : s.mem.wf) : KeepsForm (execFfrc f s) := float3_keeps h
theorem execFclass_keeps (f : V3) (s : State) (h : s.mem.wf) : KeepsForm (execFclass f s) := arith1_keeps h
theorem execFscale_keeps (f : V3) (s : State) (h : s.mem.wf) : KeepsForm (execFscale f s) := arith3_keeps h
theorem execFgetexp_keeps (f : V3) (s : State) (h : s.mem.wf) : KeepsForm (execFgetexp f s) := arith1_keeps h
theorem execFdot2_keeps (f : V3) (s : State) (h : s.mem.wf) : KeepsForm (execFdot2 f s) := lanewise_keeps h
theorem execFaddImm_keeps (f : VI) (s : State) (h : s.mem.wf) : KeepsForm (execFaddImm f s) := floatI_keeps h
theorem execFmulImm_keeps (f : VI) (s : State) (h : s.mem.wf) : KeepsForm (execFmulImm f s) := floatI_keeps h
theorem execFminImm_keeps (f : VI) (s : State) (h : s.mem.wf) : KeepsForm (execFminImm f s) := floatI_keeps h
theorem execFmaxImm_keeps (f : VI) (s : State) (h : s.mem.wf) : KeepsForm (execFmaxImm f s) := floatI_keeps h

/-! ### Predicates, moves and cross-lane words -/

theorem execElect_keeps (f : V3) (s : State) (h : s.mem.wf) : KeepsForm (execElect f s) := by
  unfold execElect
  refine stage_keeps _ _ _ _ h (fun _ hs => ?_)
  dsimp only
  exact Issue.finish_keeps _ _ hs

theorem execIcmp_keeps (f : V3) (s : State) (h : s.mem.wf) : KeepsForm (execIcmp f s) := lanewiseP_keeps h
theorem execFcmp_keeps (f : V3) (s : State) (h : s.mem.wf) : KeepsForm (execFcmp f s) := lanewiseP_keeps h
theorem execPlop_keeps (f : V3) (s : State) (h : s.mem.wf) : KeepsForm (execPlop f s) := lanewiseP_keeps h

theorem execPmov_keeps (f : V3) (s : State) (h : s.mem.wf) : KeepsForm (execPmov f s) :=
  .ite (stage_keeps _ _ _ _ h (fun _ hs => Issue.finish_keeps _ _ hs)) (lanewise_keeps h)

theorem execSel_keeps (f : V3) (s : State) (h : s.mem.wf) : KeepsForm (execSel f s) := lanewise_keeps h
theorem execMov_keeps (f : V3) (s : State) (h : s.mem.wf) : KeepsForm (execMov f s) := arith1_keeps h
theorem execMovi_keeps (f : VI) (s : State) (h : s.mem.wf) : KeepsForm (execMovi f s) := lanewise_keeps h

theorem execMovx_keeps (f : V3) (s : State) (h : s.mem.wf) : KeepsForm (execMovx f s) := by
  unfold execMovx
  refine stage_keeps _ _ _ _ h (fun _ hs => ?_)
  split
  · exact Issue.trap_keeps _ _ _ hs
  · exact Issue.finish_keeps _ _ hs

theorem execMovxs_keeps (f : V3) (s : State) (h : s.mem.wf) : KeepsForm (execMovxs f s) := by
  unfold execMovxs
  refine stage_keeps _ _ _ _ h (fun _ hs => ?_)
  split
  · exact Issue.trap_keeps _ _ _ hs
  · exact Issue.finish_keeps _ _ hs

theorem execSrd_keeps (f : FS) (s : State) (h : s.mem.wf) : KeepsForm (execSrd f s) := lanewise_keeps h

theorem execSwr_keeps (f : FS) (s : State) (h : s.mem.wf) : KeepsForm (execSwr f s) := by
  unfold execSwr
  refine stage_keeps _ _ _ _ h (fun _ hs => ?_)
  split
  · exact Issue.finish_keeps _ _ hs
  · dsimp only
    exact Issue.finish_keeps _ _ hs

theorem execShfl_keeps (f : V3) (s : State) (h : s.mem.wf) : KeepsForm (execShfl f s) := by
  unfold execShfl
  refine stage_keeps _ _ _ _ h (fun _ hs => ?_)
  dsimp only
  exact Issue.finish_keeps _ _ hs

theorem execVote_keeps (f : V3) (s : State) (h : s.mem.wf) : KeepsForm (execVote f s) := by
  unfold execVote
  refine stage_keeps _ _ _ _ h (fun _ hs => ?_)
  dsimp only
  exact Issue.finish_keeps _ _ hs

theorem execBallot_keeps (f : V3) (s : State) (h : s.mem.wf) : KeepsForm (execBallot f s) := lanewise_keeps h

theorem execLred_keeps (f : V3) (s : State) (h : s.mem.wf) : KeepsForm (execLred f s) := by
  unfold execLred
  refine stage_keeps _ _ _ _ h (fun _ hs => ?_)
  dsimp only
  exact Issue.finish_keeps _ _ hs

theorem execBcast_keeps (f : V3) (s : State) (h : s.mem.wf) : KeepsForm (execBcast f s) := by
  unfold execBcast
  refine stage_keeps _ _ _ _ h (fun _ hs => ?_)
  split
  · exact Issue.finish_keeps _ _ hs
  · dsimp only
    exact Issue.finish_keeps _ _ hs

/-! ### Control -/

theorem execClauseStart_keeps (gid lane : Nat) (s : State) (h : s.mem.wf) : KeepsForm (execClauseStart gid lane s) := by
  unfold execClauseStart
  have ht : ∀ ctx tower kind va n, (s.touchRange ctx tower kind va n).mem.wf := fun _ _ _ _ _ => State.touchRange_wf _ _ _ _ _ _ h
  split
  · exact .next h
  · refine .ite (.next h) ?_
    dsimp only
    split
    · exact State.fetchMiss_keeps _ _ _ _ _ (ht _ _ _ _ _)
    · refine .ite (.next (ht _ _ _ _ _)) ?_
      split
      · exact .next (ht _ _ _ _ _)
      · split
        · exact .next (State.settle_wf _ _ (State.trap_wf _ _ _ _ _ _ _ (ht _ _ _ _ _)))
        · split
          · exact State.fetchMiss_keeps _ _ _ _ _ (State.touchRange_wf _ _ _ _ _ _ (ht _ _ _ _ _))
          · exact .next (State.settle_wf _ _ (State.touchRange_wf _ _ _ _ _ _ (ht _ _ _ _ _)))

theorem Issue.toHeader_keeps (x : Issue) (target pos : Nat) (k : Out) (h : x.s.mem.wf) (hk : KeepsForm k) :
    KeepsForm (x.toHeader target pos k) := .ite (Issue.trap_keeps _ _ _ h) hk

theorem branch_keeps (i : Instr) (s : State) (f : FBr) (n : Need) (link : Group → Mask → Nat → Group) (h : s.mem.wf) :
    KeepsForm (branch i s f n link) := by
  unfold branch
  refine stage_keeps _ _ _ _ h (fun _ hs => ?_)
  dsimp only
  exact .ite (Issue.finish_keeps _ _ hs) (Issue.toHeader_keeps _ _ _ _ hs (.next (State.settle_wf _ _ hs)))

theorem execBra_keeps (f : FBr) (s : State) (h : s.mem.wf) : KeepsForm (execBra f s) := branch_keeps _ _ _ _ _ h
theorem execCall_keeps (f : FBr) (s : State) (h : s.mem.wf) : KeepsForm (execCall f s) := branch_keeps _ _ _ _ _ h

theorem branchTo_keeps {i : Instr} {s : State} {a : Operand} {link : Issue → Group → Group} (h : s.mem.wf) :
    KeepsForm (branchTo i s a link) := by
  unfold branchTo
  refine stage_keeps _ _ _ _ h (fun _ hs => ?_)
  dsimp only
  exact .ite (Issue.trap_keeps _ _ _ hs) (.next (State.settle_wf _ _ hs))

theorem execBrx_keeps (f : V3) (s : State) (h : s.mem.wf) : KeepsForm (execBrx f s) := branchTo_keeps h
theorem execCallx_keeps (f : V3) (s : State) (h : s.mem.wf) : KeepsForm (execCallx f s) := branchTo_keeps h
theorem execRet_keeps (f : V3) (s : State) (h : s.mem.wf) : KeepsForm (execRet f s) := branchTo_keeps h

theorem execNop_keeps (f : V3) (s : State) (h : s.mem.wf) : KeepsForm (execNop f s) :=
  stage_keeps _ _ _ _ h (fun _ hs => Issue.finish_keeps _ _ hs)

theorem execYield_keeps (f : V3) (s : State) (h : s.mem.wf) : KeepsForm (execYield f s) :=
  stage_keeps _ _ _ _ h (fun _ hs => Issue.finish_keeps _ _ hs)

theorem execExit_keeps (f : V3) (s : State) (h : s.mem.wf) : KeepsForm (execExit f s) := by
  unfold execExit
  refine stage_keeps _ _ _ _ h (fun _ hs => ?_)
  dsimp only
  exact .next (State.settle_wf _ _ hs)

theorem execBnd_keeps (f : V3) (s : State) (h : s.mem.wf) : KeepsForm (execBnd f s) :=
  stage_keeps _ _ _ _ h (fun _ hs => .ite (Issue.await_keeps _ _ hs) (Issue.trap_keeps _ _ _ hs))

theorem execRcv_keeps (f : V3) (s : State) (h : s.mem.wf) : KeepsForm (execRcv f s) :=
  stage_keeps _ _ _ _ h (fun _ hs => Issue.await_keeps _ _ hs)

theorem execTrap_keeps (f : VI) (s : State) (h : s.mem.wf) : KeepsForm (execTrap f s) :=
  stage_keeps _ _ _ _ h (fun _ hs => Issue.trap_keeps _ _ _ hs)

theorem execBkpt_keeps (f : VI) (s : State) (h : s.mem.wf) : KeepsForm (execBkpt f s) :=
  stage_keeps _ _ _ _ h (fun _ hs => Issue.trap_keeps _ _ _ hs)

theorem execTret_keeps (f : V3) (s : State) (h : s.mem.wf) : KeepsForm (execTret f s) := by
  unfold execTret
  refine stage_keeps _ _ _ _ h (fun _ hs => .ite (Issue.trap_keeps _ _ _ hs) ?_)
  split
  · exact Issue.finish_keeps _ _ hs
  · exact .ite (Issue.finish_keeps _ _ hs) (.ite (.next (State.settle_wf _ _ hs)) (.next (State.groupFault_wf _ _ _ _ _ _ hs)))

theorem execStrandCommit_keeps (gid : Nat) (s : State) (h : s.mem.wf) : KeepsForm (execStrandCommit gid s) := by
  unfold execStrandCommit
  dsimp only
  exact .ite (.next h) (.next (State.settle_wf _ _ (wf_of_mem (State.commitStrand_mem _ _) h)))

/-! ### Loads, stores and atomics -/

theorem Issue.touchRecord_wf (x : Issue) (n : Nat) (h : x.s.mem.wf) : (x.touchRecord n).s.mem.wf :=
  State.touchRange_wf _ _ _ _ _ _ h

theorem loadWord_keeps {i : Instr} {s : State} {f : FM} {spad : Bool} (h : s.mem.wf) : KeepsForm (loadWord i s f spad) := by
  unfold loadWord
  extract_lets acq
  refine stage_keeps _ _ _ _ h (fun _ hs => Issue.access_keeps _ _ _ _ _ _ hs (fun _ _ hs1 => Issue.place_keeps _ _ _ _ _ _ _ hs1
      (fun _ _ ht => ?_)))
  extract_lets s2 s3
  have h3 : s3.mem.wf := State.fillLines_wf _ _ _ (wf_ite (State.makeVisible_wf _ _ ht) ht)
  split
  · exact .next h
  · exact Issue.slots_keeps _ _ _ _ ht (Issue.finishPark_keeps _ _ _ (wf_ite h3 h3))

theorem execLd_keeps (f : FM) (s : State) (h : s.mem.wf) : KeepsForm (execLd f s) := loadWord_keeps h
theorem execLds_keeps (f : FM) (s : State) (h : s.mem.wf) : KeepsForm (execLds f s) := loadWord_keeps h
theorem execLdq_keeps (f : FM) (s : State) (h : s.mem.wf) : KeepsForm (execLdq f s) := loadWord_keeps h

theorem execLoadComplete_keeps (op : Nat) (s00 : State) (h : s00.mem.wf) : KeepsForm (execLoadComplete op s00) := by
  unfold execLoadComplete
  split
  · split
    · next bits acq scope lanes _ =>
      extract_lets gid todo s g s0 s1 vals s2 s3
      have hs : s.mem.wf := wf_ite (State.acquiring_wf _ _ h) h
      have h0 : s0.mem.wf := State.recallAll_wf _ _ _ hs
      have h2 : s2.mem.wf := wf_of_mem (State.modGrp_mem _ _ _) (wf_ite (State.makeVisible_wf _ _ h0) h0)
      have h3 : s3.mem.wf := wf_ite h2 h2
      refine .ite (.next hs) (.ite (.next hs) ?_)
      exact .ite (.next (State.groupFault_wf _ _ _ _ _ _ hs)) (.ite (.next h0) (.next (State.settle_wf _ _ h3)))
    · exact .next h
  · exact .next h

theorem State.loadUnchecked_keeps (s : State) (op bus : Nat) (h : s.mem.wf) : KeepsForm (s.loadUnchecked op bus) := by
  obtain hs | ⟨o, t, _, ht, _, hn⟩ | hl := s.loadUnchecked_cases op bus
  · rw [hs]
    exact .next h
  · rw [hn]
    exact .next (execLoadComplete_keeps op s h t ht)
  · rw [hl]
    exact execLoadComplete_keeps op s h

theorem State.beatsPass_wf (s : State) (bus : Nat) (h : s.mem.wf) : (s.beatsPass bus).mem.wf := by
  unfold State.beatsPass
  dsimp only
  exact wf_foldl _ _ _ h (fun _ _ hs => State.settle_wf _ _ hs)

theorem State.drainTurn_wf (s : State) (core : Nat) (h : s.mem.wf) : (s.drainTurn core).mem.wf :=
  wf_foldl _ _ _ (State.drainOne_wf _ _ h) (fun _ _ hs => State.settle_wf _ _ hs)

theorem storeWord_keeps {i : Instr} {s : State} {f : FM} {spad : Bool} (h : s.mem.wf) : KeepsForm (storeWord i s f spad) := by
  unfold storeWord
  dsimp only
  refine stage_keeps _ _ _ _ h (fun _ hs => Issue.access_keeps _ _ _ _ _ _ hs (fun _ _ hs1 => Issue.place_keeps _ _ _ _ _ _ _ hs1
      (fun _ _ hs2 => ?_)))
  refine .ite (Issue.trap_keeps _ _ _ hs1) ?_
  refine .ite (.next h) ?_
  refine .ite ?_ ?_
  · exact Issue.release_keeps _ _ _ _ hs2 (fun _ hs3 => Issue.finishPark_keeps _ _ _ (State.fillLines_wf _ _ _
      (State.makeVisible_wf _ _ hs3)))
  · exact Issue.finishPark_keeps _ _ _ (State.fillLines_wf _ _ _ hs2)

theorem execSt_keeps (f : FM) (s : State) (h : s.mem.wf) : KeepsForm (execSt f s) := storeWord_keeps h
theorem execSts_keeps (f : FM) (s : State) (h : s.mem.wf) : KeepsForm (execSts f s) := storeWord_keeps h

theorem Issue.prefetched_wf (x : Issue) (f : FM) (h : x.s.mem.wf) : (x.prefetched f).1.s.mem.wf := by
  unfold Issue.prefetched
  dsimp only
  split
  · exact h
  · split
    · split
      · exact h
      · split <;> exact Issue.touchRecord_wf _ _ h
    · exact h

theorem execPrf_keeps (f : FM) (s : State) (h : s.mem.wf) : KeepsForm (execPrf f s) := by
  unfold execPrf
  refine stage_keeps _ _ _ _ h (fun _ hs => ?_)
  dsimp only
  exact Issue.finishS_keeps _ _ (wf_foldl _ _ _ (Issue.prefetched_wf _ _ hs) (fun _ _ hs1 => State.touchVa_wf _ _ _ _ _ hs1))

theorem atomWord_keeps {i : Instr} {s : State} {f : FM} {spad ret : Bool} (h : s.mem.wf) :
    KeepsForm (atomWord i s f spad ret) := by
  unfold atomWord
  refine stage_keeps _ _ _ _ h (fun _ hs => Issue.access_keeps _ _ _ _ _ _ hs (fun _ _ hs1 => Issue.place_keeps _ _ _ _ _ _ _ hs1
      (fun _ _ ht => ?_)))
  extract_lets s2 s3
  have h3 : s3.mem.wf := State.fillLines_wf _ _ _ (wf_ite ht (State.makeVisible_wf _ _ ht))
  split
  · exact .next h
  · exact Issue.slots_keeps _ _ _ _ ht (Issue.finishPark_keeps _ _ _ (wf_ite h3 (wf_ite h3 h3)))

theorem execAtom_keeps (f : FM) (s : State) (h : s.mem.wf) : KeepsForm (execAtom f s) := atomWord_keeps h
theorem execAtoms_keeps (f : FM) (s : State) (h : s.mem.wf) : KeepsForm (execAtoms f s) := atomWord_keeps h
theorem execRed_keeps (f : FM) (s : State) (h : s.mem.wf) : KeepsForm (execRed f s) := atomWord_keeps h

/-- An atomic step that comes about keeps the form, whether it faults, waits or writes. -/
theorem State.atomStep_keeps (s : State) (id lane : Nat) (h : s.mem.wf) (out : Out) (ho : s.atomStep id lane = some out) :
    KeepsForm out := by
  unfold State.atomStep at ho
  split at ho
  · next o _ =>
    split at ho
    · next bits aop ord sc spad ret steps _ =>
      split at ho
      · cases ho
      · next u _ =>
        have h1 : ((s.makeVisible o.gid).acquiring sc).mem.wf := State.acquiring_wf _ _ (wf_of_mem (State.makeVisible_mem _ _) h)
        have h2 := State.stashOther_wf _ u.loc true h1
        dsimp only at ho
        split at ho
        · cases ho
        split at ho
        · cases ho
          exact .next (State.groupFault_wf _ _ _ _ _ _ h)
        split at ho
        · cases ho
          exact .next h1
        split at ho
        · cases ho
          exact .next h1
        split at ho
        · cases ho
          exact .next h2
        · cases ho
          exact .next (State.settle_wf _ _ (wf_of_mem (State.fillLines_mem _ _ _) (State.wrN_wf _ _ _ _ _ h2)))
    · cases ho
  · cases ho

theorem State.atomSteps_wf {α : Type} (s : State) (op : Nat) (lane : α → Nat) (l : List α) (h : s.mem.wf) :
    (l.foldl (fun (a : State) t =>
      match a.atomStep op (lane t) with
      | some (.next b) => b
      | _ => a) s).mem.wf := by
  refine wf_foldl _ _ _ h (fun a t ha => ?_)
  split
  · next b hb => exact State.atomStep_keeps a op (lane t) ha _ hb b rfl
  · exact ha

theorem execAtomComplete_keeps (op : Nat) (s : State) (h : s.mem.wf) : KeepsForm (execAtomComplete op s) := by
  unfold execAtomComplete
  split
  · split
    · next spad steps0 _ =>
      have h1 := wf_ite (c := spad = true) (State.atomSteps_wf s op AtomStep.lane steps0 h) h
      dsimp only
      split
      · split
        · exact .ite (.next (State.settle_wf _ _ h1)) (.next h1)
        · exact .next h1
      · exact .next h1
    · exact .next h
  · exact .next h

theorem execStashWriteback_keeps (team line : Nat) (s : State) (h : s.mem.wf) : KeepsForm (execStashWriteback team line s) :=
  .ite (.next (State.writeBack_wf _ _ _ h)) (.next h)

/-! ### Barriers, waits and fences -/

theorem State.tbWrite_wf (s : State) (ctx : Nat) (p : Loc) (b : TBar) (h : s.mem.wf) : (s.tbWrite ctx p b).mem.wf :=
  State.wrN_wf _ _ _ _ _ h

theorem Issue.tbAccess_keeps (x : Issue) (point : Bool) (addr : Nat → Nat) (k : Nat → Loc → Out) (h : x.s.mem.wf)
    (hk : ∀ n p, KeepsForm (k n p)) : KeepsForm (x.tbAccess point addr k) := by
  unfold Issue.tbAccess
  split
  · exact Issue.finish_keeps _ _ h
  · dsimp only
    refine .ite (Issue.trap_keeps _ _ _ h) ?_
    split
    · exact State.missOut_keeps _ _ _ _ _ (Issue.visible_wf _ _ h)
    · exact hk _ _

theorem tbWord_keeps {i : Instr} {s : State} {f : FM} {upd : TBar → Nat → Option TBar} {init : Bool} (h : s.mem.wf) :
    KeepsForm (tbWord i s f upd init) := by
  unfold tbWord
  refine stage_keeps _ _ _ _ h (fun _ hs => Issue.tbAccess_keeps _ _ _ _ hs (fun _ _ => Issue.release_keeps _ _ _ _ hs (fun _ hs1
      => ?_)))
  refine .ite (Issue.again_keeps _ _ hs1) ?_
  split
  · exact State.faultOut_keeps _ _ _ _ _ hs1
  · dsimp only
    exact Issue.finishS_keeps _ _ (wf_ite (State.wrN_wf _ _ _ _ _ (State.tbWrite_wf _ _ _ _ hs1)) (State.tbWrite_wf _ _ _ _ hs1))

theorem execTbinit_keeps (f : FM) (s : State) (h : s.mem.wf) : KeepsForm (execTbinit f s) := tbWord_keeps h
theorem execTbexp_keeps (f : FM) (s : State) (h : s.mem.wf) : KeepsForm (execTbexp f s) := tbWord_keeps h
theorem execTbarv_keeps (f : FM) (s : State) (h : s.mem.wf) : KeepsForm (execTbarv f s) := tbWord_keeps h

theorem execTbtest_keeps (f : FM) (s : State) (h : s.mem.wf) : KeepsForm (execTbtest f s) := by
  unfold execTbtest
  dsimp only
  refine stage_keeps _ _ _ _ h (fun _ hs => Issue.tbAccess_keeps _ _ _ _ hs (fun _ _ => ?_))
  refine .ite (Issue.again_keeps _ _ hs) ?_
  exact Issue.finishS_keeps _ _ (wf_ite (wf_ite (State.makeVisible_wf _ _ hs) hs) (wf_ite (State.makeVisible_wf _ _ hs) hs))

theorem Issue.waita_keeps (x : Issue) (f : FM) (tests : List (Nat × Nat × Nat)) (since : Nat) (h : x.s.mem.wf) :
    KeepsForm (x.waita f tests since) := by
  unfold Issue.waita
  extract_lets acq n
  refine Issue.place_keeps _ _ _ _ _ _ _ (wf_ite (State.acquiring_wf _ _ h) h) (fun _ _ hs => ?_)
  split
  · exact .next (State.settle_wf _ _ (State.park_wf _ _ _ (wf_foldl _ _ _ hs (fun _ _ hs1 => State.pageNotice_wf _ _ _ _ _ _
      hs1))))
  · extract_lets held hold s2
    have h2 : s2.mem.wf := State.fillLines_wf _ _ _ (State.recallAll_wf _ _ _ hs)
    exact .ite (.next h2) (.ite (Issue.finishS_keeps _ _ (wf_ite (State.makeVisible_wf _ _ h2) h2)) (Issue.await_keeps _ _ h2))

theorem execWaita_keeps (f : FM) (s : State) (h : s.mem.wf) : KeepsForm (execWaita f s) := by
  unfold execWaita
  dsimp only
  refine stage_keeps _ _ _ _ h (fun _ hs => ?_)
  refine .ite (Issue.finish_keeps _ _ hs) ?_
  exact .ite (Issue.trap_keeps _ _ _ hs) (Issue.waita_keeps _ _ _ _ (Issue.visible_wf _ _ hs))

theorem State.waiting_s (s : State) (gid lane : Nat) (x : Issue) (f : FM) (since : Nat) (tests : List (Nat × Nat × Nat))
    (hx : s.waiting gid lane = some (x, f, since, tests)) : x.s = s := by
  unfold State.waiting at hx
  split at hx
  · split at hx
    · cases hx
      rfl
    · cases hx
  · cases hx

theorem execWaitaRecheck_keeps (gid lane : Nat) (s : State) (h : s.mem.wf) : KeepsForm (execWaitaRecheck gid lane s) := by
  unfold execWaitaRecheck
  split
  · next x f since tests hx =>
    exact .ite (.next h) (Issue.waita_keeps _ _ _ _ (by rw [State.waiting_s s gid lane x f since tests hx]; exact h))
  · exact .next h

theorem execWaitaTimeout_keeps (gid lane : Nat) (s : State) (h : s.mem.wf) : KeepsForm (execWaitaTimeout gid lane s) := by
  unfold execWaitaTimeout
  split
  · dsimp only
    exact .ite (Issue.finishS_keeps _ _ (wf_ite (State.makeVisible_wf _ _ h) h)) (.next h)
  · exact .next h

theorem execFence_keeps (f : FM) (s : State) (h : s.mem.wf) : KeepsForm (execFence f s) := by
  unfold execFence
  refine stage_keeps _ _ _ _ h (fun _ hs => .ite (Issue.finish_keeps _ _ hs) ?_)
  dsimp only
  exact Issue.finishS_keeps _ _ (State.makeVisible_wf _ _ hs)

theorem State.acknowledge_wf (s : State) (gid : Nat) (h : s.mem.wf) : (s.acknowledge gid).mem.wf := h

theorem execFenceComplete_keeps (op : Nat) (s : State) (h : s.mem.wf) : KeepsForm (execFenceComplete op s) := by
  unfold execFenceComplete
  split
  · split
    · refine .ite (.next h) ?_
      dsimp only
      refine .ite (.next (State.makeVisible_wf _ _ h)) ?_
      exact .next (State.settle_wf _ _ (wf_ite (State.acknowledge_wf _ _ (State.makeVisible_wf _ _ h)) (State.makeVisible_wf _ _
          h)))
    · exact .next h
  · exact .next h

theorem barWord_keeps {i : Instr} {s : State} {f : VI} {cluster : Bool} (h : s.mem.wf) : KeepsForm (barWord i s f cluster) :=
  stage_keeps _ _ _ _ h (fun _ hs => Issue.await_keeps _ _ hs)

theorem execBar_keeps (f : VI) (s : State) (h : s.mem.wf) : KeepsForm (execBar f s) := barWord_keeps h
theorem execBarc_keeps (f : VI) (s : State) (h : s.mem.wf) : KeepsForm (execBarc f s) := barWord_keeps h

/-! ### Conversions -/

theorem execCvt_keeps (f : V3) (s : State) (h : s.mem.wf) : KeepsForm (execCvt f s) := lanewise_keeps h
theorem execCvq_keeps (f : V3) (s : State) (h : s.mem.wf) : KeepsForm (execCvq f s) := lanewise_keeps h

theorem sticky_keeps {i : Instr} {s : State} {n : Need} {meter : Option (Nat × Nat)} {f : V3} {ty : Ty} {val : Issue → Nat → Nat}
    {bad : Issue → Nat → Bool} (h : s.mem.wf) : KeepsForm (sticky i s n meter f ty val bad) := by
  unfold sticky
  refine stage_keeps _ _ _ _ h (fun _ hs => ?_)
  dsimp only
  exact Issue.finish_keeps _ _ hs

theorem execCvd_keeps (f : V3) (s : State) (h : s.mem.wf) : KeepsForm (execCvd f s) := sticky_keeps h
theorem execPackt_keeps (f : V3) (s : State) (h : s.mem.wf) : KeepsForm (execPackt f s) := arith3_keeps h
theorem execUnpkt_keeps (f : V3) (s : State) (h : s.mem.wf) : KeepsForm (execUnpkt f s) := sticky_keeps h
theorem execPack_keeps (f : V3) (s : State) (h : s.mem.wf) : KeepsForm (execPack f s) := arith3_keeps h
theorem execUnpk_keeps (f : V3) (s : State) (h : s.mem.wf) : KeepsForm (execUnpk f s) := arith3_keeps h

/-! ### Tiles and regions -/

theorem execTcfg_keeps (f : V3) (s : State) (h : s.mem.wf) : KeepsForm (execTcfg f s) := by
  unfold execTcfg
  dsimp only
  refine stage_keeps _ _ _ _ h (fun _ hs => ?_)
  split
  · exact Issue.finish_keeps _ _ hs
  · exact .ite (Issue.finishS_keeps _ _ hs) (Issue.fault_keeps _ _ _ hs)

theorem execTzero_keeps (f : V3) (s : State) (h : s.mem.wf) : KeepsForm (execTzero f s) := by
  unfold execTzero
  dsimp only
  refine stage_keeps _ _ _ _ h (fun _ hs => ?_)
  exact .ite (Issue.finish_keeps _ _ hs) (.ite (Issue.fault_keeps _ _ _ hs) (Issue.finishS_keeps _ _ hs))

theorem execAcz_keeps (f : V3) (s : State) (h : s.mem.wf) : KeepsForm (execAcz f s) := by
  unfold execAcz
  dsimp only
  refine stage_keeps _ _ _ _ h (fun _ hs => ?_)
  exact .ite (Issue.finish_keeps _ _ hs) (.ite (Issue.fault_keeps _ _ _ hs) (Issue.finishS_keeps _ _ hs))

theorem Issue.image_keeps (x : Issue) (f : FM) (write : Bool) (k : State → Span → Out) (h : x.s.mem.wf)
    (hk : ∀ t a, t.mem.wf → KeepsForm (k t a)) : KeepsForm (x.image f write k) := by
  unfold Issue.image
  dsimp only
  split
  · exact Issue.finish_keeps _ _ h
  · refine .ite (Issue.trap_keeps _ _ _ h) (.ite (Issue.fault_keeps _ _ _ (Issue.visible_wf _ _ h)) ?_)
    split
    · exact Issue.fault_keeps _ _ _ (Issue.visible_wf _ _ h)
    · split
      · exact State.missOut_keeps _ _ _ _ _ (Issue.visible_wf _ _ (State.spadTouch_wf _ _ _ _ h))
      · exact hk _ _ (State.spadTouch_wf _ _ _ _ h)

theorem execTld_keeps (f : FM) (s : State) (h : s.mem.wf) : KeepsForm (execTld f s) := by
  unfold execTld
  dsimp only
  refine stage_keeps _ _ _ _ h (fun _ hs => Issue.image_keeps _ _ _ _ hs (fun _ _ hs1 => ?_))
  split
  · exact .next h
  · exact Issue.slots_keeps _ _ _ _ hs1 (Issue.finishS_keeps _ _ (State.fillLines_wf _ _ _ hs1))

theorem execTst_keeps (f : FM) (s : State) (h : s.mem.wf) : KeepsForm (execTst f s) := by
  unfold execTst
  dsimp only
  refine stage_keeps _ _ _ _ h (fun _ hs => Issue.image_keeps _ _ _ _ hs (fun _ _ hs1 => ?_))
  split
  · exact .next h
  · exact Issue.finishS_keeps _ _ (State.fillLines_wf _ _ _ (State.makeVisible_wf _ _ hs1))

theorem execTileTransferComplete_keeps (op : Nat) (s : State) (h : s.mem.wf) : KeepsForm (execTileTransferComplete op s) := by
  unfold execTileTransferComplete
  split
  · dsimp only
    split
    · refine .ite (.next h) (.ite (.next (State.groupFault_wf _ _ _ _ _ _ h)) ?_)
      split
      · exact .next h
      · exact .ite (.next (State.recallAll_wf _ _ _ h)) (.next (State.settle_wf _ _ (State.recallAll_wf _ _ _ h)))
    · refine .ite (.next h) (.ite (.next (State.groupFault_wf _ _ _ _ _ _ h)) ?_)
      split
      · exact .next h
      · exact .next (State.settle_wf _ _ (State.makeVisible_wf _ _ h))
    · exact .next h
  · exact .next h

theorem Issue.rows_keeps (x : Issue) (f : FM) (write : Bool) (k : State → Places → Out) (h : x.s.mem.wf)
    (hk : ∀ t a, t.mem.wf → KeepsForm (k t a)) : KeepsForm (x.rows f write k) := by
  unfold Issue.rows
  dsimp only
  refine .ite (hk _ _ h) ?_
  refine .ite (.ite (Issue.trap_keeps _ _ _ h) ?_) ?_
  · split
    · exact State.missOut_keeps _ _ _ _ _ (Issue.touchRecord_wf _ _ h)
    · refine .ite (Issue.trap_keeps _ _ _ (Issue.touchRecord_wf _ _ h)) ?_
      refine .ite (Issue.trap_keeps _ _ _ (Issue.touchRecord_wf _ _ h)) ?_
      refine .ite (Issue.fault_keeps _ _ _ (Issue.visible_wf _ _ (Issue.touchRecord_wf _ _ h))) ?_
      exact Issue.place_keeps _ _ _ _ _ _ _ (Issue.touchRecord_wf _ _ h) (fun _ _ hs => hk _ _ hs)
  · refine .ite (Issue.trap_keeps _ _ _ h) ?_
    refine .ite (Issue.trap_keeps _ _ _ h) ?_
    exact .ite (Issue.fault_keeps _ _ _ (Issue.visible_wf _ _ h)) (Issue.place_keeps _ _ _ _ _ _ _ h (fun _ _ hs => hk _ _ hs))

theorem execAcld_keeps (f : FM) (s : State) (h : s.mem.wf) : KeepsForm (execAcld f s) := by
  unfold execAcld
  dsimp only
  refine stage_keeps _ _ _ _ h (fun _ hs => Issue.rows_keeps _ _ _ _ hs (fun _ _ hs1 => ?_))
  split
  · exact .next h
  · exact Issue.slots_keeps _ _ _ _ hs1 (Issue.finishPark_keeps _ _ _ (wf_ite (State.fillLines_wf _ _ _ hs1) (State.fillLines_wf _
      _ _ hs1)))

theorem execAcst_keeps (f : FM) (s : State) (h : s.mem.wf) : KeepsForm (execAcst f s) := by
  unfold execAcst
  extract_lets r
  refine stage_keeps _ _ _ _ h (fun _ hs => Issue.rows_keeps _ _ _ _ hs (fun _ _ hs1 => ?_))
  split
  · exact .next h
  · extract_lets s2 s3
    have h3 : s3.mem.wf := State.fillLines_wf _ _ _ (wf_ite hs1 (State.makeVisible_wf _ _ hs1))
    exact Issue.finishPark_keeps _ _ _ (wf_ite h3 h3)

theorem execAccTransferComplete_keeps (op : Nat) (s : State) (h : s.mem.wf) : KeepsForm (execAccTransferComplete op s) := by
  unfold execAccTransferComplete
  split
  · dsimp only
    split
    · refine .ite (.next h) ?_
      refine .ite (.next (State.groupFault_wf _ _ _ _ _ _ h)) ?_
      exact .ite (.next (State.recallAll_wf _ _ _ h)) (.next (State.settle_wf _ _ (State.recallAll_wf _ _ _ h)))
    · refine .ite (.next h) ?_
      exact .ite (.next (State.groupFault_wf _ _ _ _ _ _ h)) (.next (State.settle_wf _ _ (State.makeVisible_wf _ _ h)))
    · exact .next h
  · exact .next h

/-! ### Engine vectors -/

theorem Issue.block_keeps (x : Issue) (p : Operand) (k : Nat → Nat → Out) (h : x.s.mem.wf) (hk : ∀ n n1, KeepsForm (k n n1)) :
    KeepsForm (x.block p k) := by
  unfold Issue.block
  split
  · exact Issue.finish_keeps _ _ h
  · dsimp only
    exact .ite (Issue.trap_keeps _ _ _ h) (.ite (Issue.fault_keeps _ _ _ h) (.ite (Issue.fault_keeps _ _ _ h) (hk _ _)))

theorem Issue.readBlock_keeps (x : Issue) (s : State) (a : Nat) (k : Nat → Out) (h : s.mem.wf) (hk : ∀ n, KeepsForm (k n)) :
    KeepsForm (x.readBlock s a k) := by
  unfold Issue.readBlock
  refine .ite (State.faultOut_keeps _ _ _ _ _ h) ?_
  split
  · exact State.missOut_keeps _ _ _ _ _ h
  · exact .ite (Issue.again_keeps _ _ h) (hk _)

theorem Issue.touchVectors_wf (x : Issue) (b : Nat) (h : x.s.mem.wf) : (x.touchVectors b).s.mem.wf :=
  wf_foldl _ _ _ h (fun _ _ hs => wf_ite hs (State.spadTouch_wf _ _ _ _ hs))

theorem State.request_wf (s : State) (core : Nat) (h : Holder) (units : Nat) (hw : s.mem.wf) :
    (s.request core h units).mem.wf := hw

theorem State.release_wf (s : State) (core : Nat) (h : Holder) (hw : s.mem.wf) : (s.release core h).mem.wf := hw

theorem execAcv_keeps (f : FE) (s : State) (h : s.mem.wf) : KeepsForm (execAcv f s) := by
  unfold execAcv
  dsimp only
  refine stage_keeps _ _ _ _ h (fun _ hs => Issue.block_keeps _ _ _ hs (fun _ _ => Issue.readBlock_keeps _ _ _ _ hs (fun _ =>
      ?_)))
  split
  · refine .ite (Issue.fault_keeps _ _ _ hs) (.ite (Issue.fault_keeps _ _ _ hs) ?_)
    split
    · exact State.missOut_keeps _ _ _ _ _ (Issue.touchVectors_wf _ _ hs)
    · refine .ite (Issue.again_keeps _ _ (Issue.touchVectors_wf _ _ hs)) ?_
      refine .ite (.next (State.fillLines_wf _ _ _ (State.recallAll_wf _ _ _ (Issue.touchVectors_wf _ _ hs)))) ?_
      exact Issue.finishS_keeps _ _ (State.request_wf _ _ _ _ (State.fillLines_wf _ _ _ (State.recallAll_wf _ _ _
          (Issue.touchVectors_wf _ _ hs))))
  · exact Issue.finish_keeps _ _ hs

theorem execAcvComplete_keeps (op : Nat) (s : State) (h : s.mem.wf) : KeepsForm (execAcvComplete op s) := by
  unfold execAcvComplete
  split
  · split
    · dsimp only
      refine .ite (.next h) (.ite (.next (State.groupFault_wf _ _ _ _ _ _ h)) ?_)
      split
      · exact .next (State.settle_wf _ _ (State.release_wf _ _ _ h))
      · exact .next h
    · exact .next h
  · exact .next h

/-! ### Layers and blocks -/

theorem State.touchLayer_wf (s : State) (ctx m l : Nat) (h : s.mem.wf) : (s.touchLayer ctx m l).mem.wf := by
  unfold State.touchLayer
  dsimp only
  refine wf_ite h ?_
  split
  · exact State.iaTouch_wf _ _ _ h
  · exact wf_ite (State.iaTouch_wf _ _ _ h) (State.iaTouch_wf _ _ _ (State.iaTouch_wf _ _ _ h))

theorem State.flushFlags_wf (s : State) (ctx m l addr : Nat) (ws : List Nat) (h : s.mem.wf) :
    (s.flushFlags ctx m l addr ws).mem.wf := by
  induction ws generalizing s with
  | nil => exact h
  | cons w rest ih =>
    have h1 := State.touchVa_wf s ctx 0 .store (addr / 64 * 64) h
    unfold State.flushFlags
    dsimp only
    split
    · exact ih _ (State.putBytes_wf _ _ _ _ h1)
    · exact State.pageNotice_wf _ _ _ _ _ _ h1
    · exact ih _ (State.contextFault_wf _ _ _ h1)
    · exact ih _ h1

theorem State.retryFlags_wf (s : State) (ctx m l : Nat) (h : s.mem.wf) : (s.retryFlags ctx m l).mem.wf := by
  unfold State.retryFlags
  dsimp only
  refine wf_ite h ?_
  split
  · exact State.flushFlags_wf _ _ _ _ _ _ (State.touchLayer_wf _ _ _ _ h)
  · exact State.pageNotice_wf _ _ _ _ _ _ (State.touchLayer_wf _ _ _ _ h)
  · exact State.contextFault_wf _ _ _ (State.touchLayer_wf _ _ _ _ h)
  · exact State.touchLayer_wf _ _ _ _ h

theorem State.putLayer_wf (s : State) (ctx m l : Nat) (x : Layer) (h : s.mem.wf) : (s.putLayer ctx m l x).mem.wf :=
  State.retryFlags_wf _ _ _ _ h

theorem State.layerRequest_wf (s : State) (ctx m l : Nat) (h : s.mem.wf) : (s.layerRequest ctx m l).mem.wf := by
  unfold State.layerRequest
  dsimp only
  split
  · exact State.putLayer_wf _ _ _ _ _ h
  · exact h
  · exact h

theorem State.pinLayer_wf (s : State) (ctx m l : Nat) (up : Bool) (h : s.mem.wf) : (s.pinLayer ctx m l up).mem.wf := by
  unfold State.pinLayer
  dsimp only
  exact h

theorem State.retireBlock_wf (s : State) (ctx b : Nat) (h : s.mem.wf) : (s.retireBlock ctx b).mem.wf :=
  wf_ite h (State.log_wf _ _ _ _ _ h)

theorem State.freeBlock_wf (s : State) (ctx b : Nat) (h : s.mem.wf) : (s.freeBlock ctx b).mem.wf := by
  unfold State.freeBlock
  dsimp only
  exact wf_ite h (wf_ite (State.retireBlock_wf _ _ _ h) h)

theorem State.program_wf (s : State) (ctx : Nat) (blocks : List Nat) (h : s.mem.wf) : (s.program ctx blocks).mem.wf := by
  unfold State.program
  refine wf_foldl _ _ _ h (fun _ _ hs => ?_)
  dsimp only
  exact wf_ite (State.retireBlock_wf _ _ _ hs) hs

theorem State.setLeaves_wf (s : State) (lia : Nat) (flash : Option Nat) (first n : Nat) (h : s.mem.wf) :
    (s.setLeaves lia flash first n).mem.wf := by
  unfold State.setLeaves
  refine wf_foldl _ _ _ h (fun _ _ hs => ?_)
  dsimp only
  split
  · exact hs
  · exact State.setPaWord_wf _ _ _ hs

/-! ### Accepting and ending a command -/

theorem engineWord_keeps (i : Instr) (s : State) (slot : Option Nat) (k : Issue → Out) (h : s.mem.wf)
    (hk : ∀ y, y.s.mem.wf → KeepsForm (k y)) : KeepsForm (engineWord i s slot k) := by
  unfold engineWord
  refine stage_keeps _ _ _ _ h (fun _ hs => ?_)
  exact .ite (Issue.finish_keeps _ _ hs) (.ite (Issue.finishS_keeps _ _ (State.makeVisible_wf _ _ hs)) (hk _ hs))

theorem Issue.forEngine_keeps (x : Issue) (k : Issue → Out) (h : x.s.mem.wf) (hk : ∀ y, y.s.mem.wf → KeepsForm (k y)) :
    KeepsForm (x.forEngine k) := Issue.release_keeps _ _ _ _ h (fun _ hs => hk _ hs)

theorem blockWord_keeps (i : Instr) (s : State) (p : Operand) (slot : Option Nat) (k : Issue → Nat → Nat → Nat → Out)
    (h : s.mem.wf) (hk : ∀ y n n2 n3, y.s.mem.wf → KeepsForm (k y n n2 n3)) : KeepsForm (blockWord i s p slot k) := by
  unfold blockWord
  refine engineWord_keeps _ _ _ _ h (fun _ hs => Issue.block_keeps _ _ _ hs (fun _ _ => Issue.forEngine_keeps _ _ hs (fun _ hs1 =>
      Issue.readBlock_keeps _ _ _ _ hs1 (fun _ => ?_))))
  exact .ite (hk _ _ _ _ hs1) (Issue.fault_keeps _ _ _ hs1)

theorem Issue.sealCmd_keeps (x : Issue) (s : State) (h : s.mem.wf) : KeepsForm (x.sealCmd s) := by
  unfold Issue.sealCmd
  dsimp only
  exact Issue.finishS_keeps _ _ h

theorem Issue.enter_wf (x : Issue) (f : Info) (c : Cmd) (h : x.s.mem.wf) : (x.enter f c).mem.wf := by
  unfold Issue.enter
  dsimp only
  exact h

theorem Issue.accept_keeps (x : Issue) (i : Instr) (c : Cmd) (h : x.s.mem.wf) : KeepsForm (x.accept i c) := by
  unfold Issue.accept
  split
  · exact Issue.sealCmd_keeps _ _ (Issue.enter_wf _ _ _ h)
  · exact .next h

theorem State.cmdTouch_wf (s : State) (c : Cmd) (spad : Bool) (kind : Acc) (a n : Nat) (h : s.mem.wf) :
    (s.cmdTouch c spad kind a n).mem.wf := wf_ite (State.spadTouch_wf _ _ _ _ h) (State.touchRange_wf _ _ _ _ _ _ h)

theorem State.cmdHold_keeps (s : State) (c : Cmd) (m : Miss) (h : s.mem.wf) : KeepsForm (s.cmdHold c m) := by
  cases m with
  | absent page code level => exact .next (State.pageNotice_wf _ _ _ _ _ _ h)
  | fault cause detail => exact .next h
  | noSuch => exact .fault _
  | regPage => exact .refused _

theorem State.cmdStage_wf (s : State) (id step : Nat) (sp : Span) (bytes : List Byte) (h : s.mem.wf) :
    (s.cmdStage id step sp bytes).mem.wf := by
  unfold State.cmdStage
  dsimp only
  exact h

theorem State.cmdFlush_wf (s : State) (id : Nat) (c : Cmd) (which : Staged → Bool) (h : s.mem.wf) :
    (s.cmdFlush id c which).mem.wf := by
  unfold State.cmdFlush
  dsimp only
  exact State.fillLines_wf _ _ _ (State.putBytes_wf _ _ _ _ h)

theorem State.cmdWrite_wf (s : State) (c : Cmd) (locs : List Loc) (bytes : List Byte) (h : s.mem.wf) :
    (s.cmdWrite c locs bytes).mem.wf := by
  unfold State.cmdWrite
  split
  · exact h
  · exact wf_ite (wf_of_mem (State.sendPeer_mem _ _) h) (State.putBytes_wf _ _ _ _ h)

theorem State.dropReservations_wf (s : State) (id : Nat) (h : s.mem.wf) : (s.dropReservations id).mem.wf := h

theorem State.cmdGone_wf (s : State) (id : Nat) (c : Cmd) (h : s.mem.wf) : (s.cmdGone id c).mem.wf := by
  unfold State.cmdGone
  dsimp only
  refine State.settle_wf _ _ (State.dropReservations_wf _ _ ?_)
  split
  · exact State.pinLayer_wf _ _ _ _ _ h
  · exact h

theorem State.cmdFail_wf (s : State) (id : Nat) (c : Cmd) (cause detail : Nat) (h : s.mem.wf) :
    (s.cmdFail id c cause detail).mem.wf := State.cmdFault_wf _ _ _ _ (State.cmdGone_wf _ _ _ (State.cmdFlush_wf _ _ _ _ h))

theorem State.putStatus_wf (s : State) (c : Cmd) (st : Nat) (h : s.mem.wf) : (s.putStatus c st).mem.wf := State.wrN_wf _ _ _ _ _ h

theorem State.cmdBarrier_wf (s : State) (c : Cmd) (sect pend : Int) (h : s.mem.wf) : (s.cmdBarrier c sect pend).mem.wf := by
  unfold State.cmdBarrier
  refine wf_ite h ?_
  split
  · exact State.tbWrite_wf _ _ _ _ h
  · exact State.cmdFault_wf _ _ _ _ h

theorem State.cmdComplete_wf (s : State) (id : Nat) (c : Cmd) (st : Nat) (h : s.mem.wf) : (s.cmdComplete id c st).mem.wf :=
  wf_ite (State.cmdFail_wf _ _ _ _ _ h) (State.cmdGone_wf _ _ _ (State.cmdBarrier_wf _ _ _ _ (State.putStatus_wf _ _ _
      (State.cmdFlush_wf _ _ _ _ h))))

/-! ### The matrix engine -/

theorem State.govSync_wf (s : State) (core : Nat) (h : s.mem.wf) : (s.govSync core).mem.wf := by
  unfold State.govSync
  dsimp only
  exact h

theorem Issue.touchLayer_wf (x : Issue) (l : Nat) (h : x.s.mem.wf) : (x.touchLayer l).s.mem.wf :=
  wf_ite h (State.touchLayer_wf _ _ _ _ h)

theorem Issue.tableMiss_keeps (x : Issue) (m : Miss) (h : x.s.mem.wf) : KeepsForm (x.tableMiss m) := by
  cases m with
  | fault cause detail => exact Issue.fault_keeps _ _ _ h
  | absent page code level => exact Issue.again_keeps _ _ (State.pageNotice_wf _ _ _ _ _ _ h)
  | noSuch => exact .fault _
  | regPage => exact .refused _

theorem Issue.evicted_keeps (x : Issue) (m l : Nat) (h : x.s.mem.wf) : KeepsForm (x.evicted m l) :=
  .next (State.settle_wf _ _ (State.layerRequest_wf _ _ _ _ (wf_of_mem (State.discardGroup_mem _ _ _) h)))

theorem Issue.acceptMxa_keeps (x : Issue) (f : FE) (sl : Slot) (a b : Nat) (pin : Option (Nat × Nat)) (h : x.s.mem.wf) :
    KeepsForm (x.acceptMxa f sl a b pin) := by
  unfold Issue.acceptMxa
  refine Issue.accept_keeps _ _ _ ?_
  dsimp only
  cases pin with
  | none => split <;> exact h
  | some p =>
    have h1 := State.pinLayer_wf x.s x.ctx p.1 p.2 true h
    split <;> exact h1

theorem Issue.gateMxa_keeps (x : Issue) (f : FE) (sl : Slot) (a b : Nat) (r : LayerRef) (h : x.s.mem.wf) :
    KeepsForm (x.gateMxa f sl a b r) := by
  unfold Issue.gateMxa
  refine .ite (Issue.acceptMxa_keeps _ _ _ _ _ _ h) ?_
  split
  · dsimp only
    exact .ite (Issue.acceptMxa_keeps _ _ _ _ _ _ h) (Issue.evicted_keeps _ _ _ h)
  · exact Issue.fault_keeps _ _ _ h

theorem Issue.mxaLayer_wf (x : Issue) (b : Nat) (h : x.s.mem.wf) : (x.mxaLayer b).1.s.mem.wf := by
  unfold Issue.mxaLayer
  split
  · exact h
  · exact Issue.touchLayer_wf _ _ h

theorem State.passGovernor_wf (s : State) (gid lane core : Nat) (h : s.mem.wf) : (s.passGovernor gid lane core).mem.wf := h

theorem execMxa_keeps (f : FE) (s : State) (h : s.mem.wf) : KeepsForm (execMxa f s) := by
  unfold execMxa
  refine engineWord_keeps _ _ _ _ h (fun x hs => Issue.block_keeps _ _ _ hs (fun _ a => ?_))
  have hsync := State.govSync_wf x.s x.team.core hs
  have hpass := State.passGovernor_wf _ x.gid x.lane x.team.core hsync
  dsimp only
  refine .ite (.next (State.govSync_wf _ x.team.core h)) (Issue.forEngine_keeps _ _ (wf_ite hsync hpass)
    (fun x1 hs1 => Issue.readBlock_keeps _ _ _ _ hs1 (fun b => ?_)))
  split
  · refine .ite ?_ (Issue.fault_keeps _ _ _ hs1)
    have hlayer := Issue.mxaLayer_wf x1 b hs1
    split
    · next x3 m hx =>
      rw [hx] at hlayer
      exact Issue.tableMiss_keeps _ _ hlayer
    · next x3 r hx =>
      rw [hx] at hlayer
      exact Issue.gateMxa_keeps _ _ _ _ _ _ hlayer
  · exact Issue.finish_keeps _ _ hs

theorem State.mxaTouch_wf (s : State) (c : Cmd) (sl : Slot) (h : s.mem.wf) : (s.mxaTouch c sl).mem.wf := by
  unfold State.mxaTouch
  dsimp only
  exact wf_ite h (wf_ite (wf_foldl _ _ _ (wf_foldl _ _ _ h (fun _ _ hs => State.cmdTouch_wf _ _ _ _ _ _ hs)) (fun _ _ hs =>
      State.cmdTouch_wf _ _ _ _ _ _ hs)) (wf_foldl _ _ _ h (fun _ _ hs => State.cmdTouch_wf _ _ _ _ _ _ hs)))

theorem State.strike_wf (s : State) (c : Cmd) (h : s.mem.wf) : (s.strike c).mem.wf := by
  unfold State.strike
  split
  · exact h
  · dsimp only
    split <;> exact h

theorem State.mxaRest_wf (s : State) (id : Nat) (c : Cmd) (h : s.mem.wf) : (s.mxaRest id c).mem.wf :=
  wf_ite (State.release_wf _ _ _ h) h

theorem State.mxaRun_wf (s : State) (cmd : Nat) (c : Cmd) (sl : Slot) (en : Nat) (img simg : List (List Byte)) (h : s.mem.wf) :
    (s.mxaRun cmd c sl en img simg).mem.wf := by
  unfold State.mxaRun
  dsimp only
  exact wf_ite (State.strike_wf _ _ (wf_ite h h)) (wf_ite h h)

theorem execMxaStart_keeps (cmd : Nat) (s : State) (h : s.mem.wf) : KeepsForm (execMxaStart cmd s) := by
  unfold execMxaStart
  have ht : ∀ c sl, (s.mxaTouch c sl).mem.wf := fun _ _ => State.mxaTouch_wf _ _ _ h
  split
  · exact .next h
  · refine .ite (.next (State.mxaRest_wf _ _ _ h)) ?_
    split
    · dsimp only
      split
      · exact State.cmdHold_keeps _ _ _ (State.mxaRest_wf _ _ _ (ht _ _))
      · refine .ite (.next (State.mxaRest_wf _ _ _ (ht _ _))) ?_
        refine .ite ?_ ?_
        · refine .ite (.next (State.mxaRest_wf _ _ _ (State.recallAll_wf _ _ _ (ht _ _)))) ?_
          exact .next (State.mxaRun_wf _ _ _ _ _ _ _ (State.recallAll_wf _ _ _ (ht _ _)))
        · exact .ite (.next (State.request_wf _ _ _ _ (ht _ _))) (.next (ht _ _))
    · exact .next h

theorem execMatrixResidueMismatch_keeps (cmd pass : Nat) (s : State) (h : s.mem.wf) :
    KeepsForm (execMatrixResidueMismatch cmd pass s) := by
  unfold execMatrixResidueMismatch
  split
  · exact .next h
  · refine .ite ?_ (.next h)
    split
    · exact .next h
    · split <;> exact .next h

theorem State.overlapped_wf (s : State) (c : Cmd) (h : s.mem.wf) : (s.overlapped c).mem.wf := h

theorem execMxaComplete_keeps (cmd : Nat) (s : State) (h : s.mem.wf) : KeepsForm (execMxaComplete cmd s) := by
  unfold execMxaComplete
  split
  · exact .next h
  · refine .ite (.ite (.next (State.cmdFail_wf _ _ _ _ _ h)) ?_) (.next h)
    dsimp only
    exact .next (State.cmdComplete_wf _ _ _ _ (wf_of_mem (State.modTeam_mem _ _ _) (State.overlapped_wf _ _ h)))

theorem execGovernorWindow_keeps (core : Nat) (s : State) (h : s.mem.wf) : KeepsForm (execGovernorWindow core s) :=
  .next (State.govSync_wf _ _ h)

/-! ### Copies, reductions and gathers -/

theorem State.sliceEnd_wf (s : State) (id : Nat) (c : Cmd) (sectors : Int) (h : s.mem.wf) : (s.sliceEnd id c sectors).mem.wf := by
  unfold State.sliceEnd
  have hput : ∀ f st, ((s.cmdFlush id c f).putStatus c st).mem.wf :=
    fun _ _ => State.putStatus_wf _ _ _ (State.cmdFlush_wf _ _ _ _ h)
  refine wf_ite (State.cmdFail_wf _ _ _ _ _ h) ?_
  dsimp only
  exact State.cmdGone_wf _ _ _ (wf_ite (hput _ _) (State.cmdBarrier_wf _ _ _ _ (hput _ _)))

theorem State.startSlice_wf (s : State) (id : Nat) (h : s.mem.wf) : (s.startSlice id).mem.wf := by
  unfold State.startSlice
  split
  · exact h
  · dsimp only
    exact wf_ite (State.sliceEnd_wf _ _ _ _ h) h

theorem State.joinCopy_wf (s : State) (id : Nat) (c : Cmd) (h : s.mem.wf) : (s.joinCopy id c).mem.wf := by
  unfold State.joinCopy
  dsimp only
  exact wf_ite (wf_foldl _ _ _ h (fun _ _ hs => State.startSlice_wf _ _ hs)) h

theorem Issue.acceptSlice_keeps (x : Issue) (i : Instr) (c : Cmd) (h : x.s.mem.wf) : KeepsForm (x.acceptSlice i c) := by
  unfold Issue.acceptSlice
  split
  · dsimp only
    exact Issue.sealCmd_keeps _ _ (State.joinCopy_wf _ _ _ (Issue.enter_wf _ _ _ h))
  · exact .next h

theorem execCpy_keeps (f : FE) (s : State) (h : s.mem.wf) : KeepsForm (execCpy f s) :=
  blockWord_keeps _ _ _ _ _ h (fun _ _ _ _ hs => .ite (Issue.acceptSlice_keeps _ _ _ hs) (Issue.fault_keeps _ _ _ hs))

theorem execCpyl_keeps (f : FE) (s : State) (h : s.mem.wf) : KeepsForm (execCpyl f s) := by
  unfold execCpyl
  refine blockWord_keeps _ _ _ _ _ h (fun _ _ _ _ hs => ?_)
  refine .ite (Issue.fault_keeps _ _ _ hs) ?_
  exact Issue.readBlock_keeps _ _ _ _ hs (fun _ => .ite (Issue.acceptSlice_keeps _ _ _ hs) (Issue.fault_keeps _ _ _ hs))

theorem execHred_keeps (f : FE) (s : State) (h : s.mem.wf) : KeepsForm (execHred f s) := by
  unfold execHred
  refine blockWord_keeps _ _ _ _ _ h (fun _ _ _ _ hs => ?_)
  dsimp only
  exact .ite (Issue.accept_keeps _ _ _ hs) (Issue.fault_keeps _ _ _ hs)

theorem execHgat_keeps (f : FE) (s : State) (h : s.mem.wf) : KeepsForm (execHgat f s) :=
  blockWord_keeps _ _ _ _ _ h (fun _ _ _ _ hs => .ite (Issue.accept_keeps _ _ _ hs) (Issue.fault_keeps _ _ _ hs))

theorem execHfetch_keeps (f : FE) (s : State) (h : s.mem.wf) : KeepsForm (execHfetch f s) :=
  blockWord_keeps _ _ _ _ _ h (fun _ _ _ _ hs => .ite (Issue.accept_keeps _ _ _ hs) (Issue.fault_keeps _ _ _ hs))

theorem State.pieceTouch_wf (s : State) (c : Cmd) (i : Nat) (h : s.mem.wf) : (s.pieceTouch c i).mem.wf := by
  unfold State.pieceTouch
  dsimp only
  split
  · refine State.cmdTouch_wf _ _ _ _ _ _ ?_
    split
    · exact State.cmdTouch_wf _ _ _ _ _ _ h
    · exact h
  · refine State.cmdTouch_wf _ _ _ _ _ _ ?_
    split
    · exact State.cmdTouch_wf _ _ _ _ _ _ h
    · exact h
  · exact State.cmdTouch_wf _ _ _ _ _ _ (State.cmdTouch_wf _ _ _ _ _ _ h)
  · split
    · exact State.cmdTouch_wf _ _ _ _ _ _ (State.cmdTouch_wf _ _ _ _ _ _ (State.cmdTouch_wf _ _ _ _ _ _ h))
    · exact State.cmdTouch_wf _ _ _ _ _ _ (State.cmdTouch_wf _ _ _ _ _ _ h)
  · exact State.cmdTouch_wf _ _ _ _ _ _ (State.cmdTouch_wf _ _ _ _ _ _ h)
  · exact h

theorem State.pieceRecall_wf (s : State) (p : Piece) (h : s.mem.wf) : (s.pieceRecall p).mem.wf :=
  State.fillLines_wf _ _ _ (State.recallAll_wf _ _ _ h)

theorem State.pieceDo_wf (s0 : State) (id : Nat) (c : Cmd) (i : Nat) (p : Piece) (h : s0.mem.wf) :
    (s0.pieceDo id c i p).mem.wf := by
  unfold State.pieceDo
  extract_lets bytes s1 s2
  have h1 : s1.mem.wf := wf_ite (State.cmdWrite_wf _ _ _ _ h) (State.cmdStage_wf _ _ _ _ _ h)
  exact wf_of_mem (State.modCmd_mem _ _ _) (wf_ite (State.cmdWrite_wf _ _ _ _ h1) h1)

theorem State.tryPiece_keeps (s : State) (id : Nat) (c : Cmd) (i : Nat) (k : State → Out) (h : s.mem.wf)
    (hk : ∀ t, t.mem.wf → KeepsForm (k t)) : KeepsForm (s.tryPiece id c i k) := by
  unfold State.tryPiece
  have ht := State.pieceTouch_wf s c i h
  refine .ite (.next h) ?_
  dsimp only
  split
  · exact State.cmdHold_keeps _ _ _ ht
  · refine .ite (.next ht) ?_
    exact .ite (.next (State.pieceRecall_wf _ _ ht)) (hk _ (State.pieceDo_wf _ _ _ _ _ (State.pieceRecall_wf _ _ ht)))

theorem execWorkSteal_keeps (engine : Nat) (s : State) (h : s.mem.wf) : KeepsForm (execWorkSteal engine s) := by
  unfold execWorkSteal
  refine .ite (.next h) ?_
  dsimp only
  split
  · exact .next h
  · exact .next (State.request_wf _ _ _ _ h)

theorem State.unitEnd_wf (s : State) (cmd e : Nat) (u : CopyUnit) (h : s.mem.wf) : (s.unitEnd cmd e u).mem.wf := by
  unfold State.unitEnd
  split
  · exact h
  · exact wf_ite (State.release_wf _ _ _ h) h

theorem execCopySectorLand_keeps (cmd row sector : Nat) (s : State) (h : s.mem.wf) :
    KeepsForm (execCopySectorLand cmd row sector s) := by
  unfold execCopySectorLand
  split
  · exact .next h
  · refine .ite (.next h) ?_
    dsimp only
    split
    · exact .next h
    · refine .ite (.ite (.next (State.request_wf _ _ _ _ h)) (.next h)) ?_
      refine .ite (.next h) (State.tryPiece_keeps _ _ _ _ _ h (fun _ hs => ?_))
      split
      · exact .next (State.unitEnd_wf _ _ _ _ hs)
      · refine .ite (.next (State.sliceEnd_wf _ _ _ _ (State.unitEnd_wf _ _ _ _ hs))) ?_
        refine .ite (.next (State.cmdFail_wf _ _ _ _ _ (State.unitEnd_wf _ _ _ _ hs))) ?_
        exact .next (State.cmdBarrier_wf _ _ _ _ (State.unitEnd_wf _ _ _ _ hs))

theorem State.homeEnd_wf (s : State) (id : Nat) (c : Cmd) (h : s.mem.wf) : (s.homeEnd id c).mem.wf :=
  State.cmdComplete_wf _ _ _ _ (wf_ite h h)

theorem State.homeCheck_wf (s : State) (id : Nat) (h : s.mem.wf) : (s.homeCheck id).mem.wf := by
  unfold State.homeCheck
  split
  · exact wf_ite (State.homeEnd_wf _ _ _ h) h
  · exact h

theorem State.atomStep_getD_keeps (s : State) (id lane : Nat) (h : s.mem.wf) :
    KeepsForm ((s.atomStep id lane).getD (.next s)) := by
  cases ho : s.atomStep id lane with
  | none => exact .next h
  | some o => exact State.atomStep_keeps s id lane h o ho

theorem execHomeSliceStep_keeps (isCmd : Bool) (id step : Nat) (s : State) (h : s.mem.wf) :
    KeepsForm (execHomeSliceStep isCmd id step s) := by
  unfold execHomeSliceStep
  refine .ite ?_ ?_
  · split
    · exact .next h
    · exact .ite (.next h) (State.tryPiece_keeps _ _ _ _ _ h (fun s1 hs => .next (State.homeCheck_wf _ _ hs)))
  · split
    · split
      · exact State.atomStep_getD_keeps _ _ _ h
      · exact .next h
    · exact .next h

theorem State.gather_keeps (s : State) (cmd : Nat) (l : List Nat) (h : s.mem.wf) : KeepsForm (s.gather cmd l) := by
  induction l generalizing s with
  | nil => exact .next (State.homeCheck_wf _ _ h)
  | cons i rest ih =>
    unfold State.gather
    split
    · exact .next h
    · exact State.tryPiece_keeps _ _ _ _ _ h (fun s1 hs => ih s1 hs)

theorem execHgatResponse_keeps (cmd first count : Nat) (s : State) (h : s.mem.wf) :
    KeepsForm (execHgatResponse cmd first count s) := by
  unfold execHgatResponse
  split
  · exact .next h
  · exact .ite (.next h) (State.gather_keeps _ _ _ h)

theorem execEngineLineFinish_keeps (cmd line : Nat) (s : State) (h : s.mem.wf) : KeepsForm (execEngineLineFinish cmd line s) := by
  unfold execEngineLineFinish
  split
  · exact .next h
  · dsimp only
    exact .ite (.next h) (.ite (.next (State.cmdFail_wf _ _ _ _ _ h)) (.next
        (wf_of_mem (State.modCmd_mem _ _ _) (State.cmdFlush_wf _ _ _ _ h))))

theorem execEngineAccessFault_keeps (cmd step : Nat) (s : State) (h : s.mem.wf) :
    KeepsForm (execEngineAccessFault cmd step s) := by
  unfold execEngineAccessFault
  split
  · exact .next h
  · split
    · exact .next (State.cmdFail_wf _ _ _ _ _ h)
    · exact .next h

/-! ### Layer queries and installs -/

theorem Issue.lyrqLayers_wf (x : Issue) (l : Nat) (next : Bool) (h : x.s.mem.wf) : (x.lyrqLayers l next).1.s.mem.wf := by
  unfold Issue.lyrqLayers
  dsimp only
  have h1 := Issue.touchLayer_wf x l h
  split
  · exact Issue.touchLayer_wf _ _ h1
  · exact h1

theorem execLyrq_keeps (f : FE) (s : State) (h : s.mem.wf) : KeepsForm (execLyrq f s) := by
  unfold execLyrq
  refine engineWord_keeps _ _ _ _ h (fun x hs => ?_)
  split
  · exact Issue.finish_keeps _ _ hs
  · next l _ =>
    refine Issue.forEngine_keeps _ _ hs (fun x1 hs1 => .ite (Issue.fault_keeps _ _ _ hs1) ?_)
    have h2 := Issue.lyrqLayers_wf x1 (x.src f.p 32 l) (bitOf f.ef.toNat 0) hs1
    split
    · next x2 m hx =>
      rw [hx] at h2
      exact Issue.tableMiss_keeps _ _ h2
    · next x2 hx =>
      rw [hx] at h2
      exact Issue.fault_keeps _ _ _ h2
    · next x2 ls hx =>
      rw [hx] at h2
      have hseal := Issue.sealCmd_keeps x2 x2.s h2
      split
      · next s1 hs1 => exact .next (wf_foldl _ _ _ (hseal s1 hs1) (fun s e hs => State.layerRequest_wf _ _ _ _ hs))
      · exact hseal

theorem execInst_keeps (f : FE) (s : State) (h : s.mem.wf) : KeepsForm (execInst f s) := by
  unfold execInst
  refine blockWord_keeps _ _ _ _ _ h (fun _ _ _ _ hs => .ite ?_ (Issue.fault_keeps _ _ _ hs))
  dsimp only
  split
  · exact Issue.tableMiss_keeps _ _ (Issue.touchLayer_wf _ _ hs)
  · exact Issue.accept_keeps _ _ _ (Issue.touchLayer_wf _ _ hs)
  · exact Issue.fault_keeps _ _ _ (Issue.touchLayer_wf _ _ hs)

theorem Issue.acceptAtOnce_keeps (x : Issue) (c : Cmd) (s : State) (h : s.mem.wf) : KeepsForm (x.acceptAtOnce c s) := by
  have hseal := Issue.sealCmd_keeps x s h
  unfold Issue.acceptAtOnce
  split
  · next s1 hs1 => exact .next (State.cmdComplete_wf _ _ _ _ (hseal s1 hs1))
  · exact hseal

theorem Issue.instqLayer_keeps (x : Issue) (b : Nat) (k : Issue → Nat → Nat → LayerDesc → Out) (h : x.s.mem.wf)
    (hk : ∀ y n n2 a, y.s.mem.wf → KeepsForm (k y n n2 a)) : KeepsForm (x.instqLayer b k) := by
  unfold Issue.instqLayer
  refine .ite (Issue.fault_keeps _ _ _ h) ?_
  dsimp only
  split
  · exact Issue.tableMiss_keeps _ _ (Issue.touchLayer_wf _ _ h)
  · exact Issue.fault_keeps _ _ _ (Issue.touchLayer_wf _ _ h)
  · exact hk _ _ _ _ (Issue.touchLayer_wf _ _ h)

theorem execInstqQuery_keeps (f : FE) (s : State) (h : s.mem.wf) : KeepsForm (execInstqQuery f s) := by
  unfold execInstqQuery
  refine blockWord_keeps _ _ _ _ _ h (fun _ _ _ _ hs => Issue.instqLayer_keeps _ _ _ hs (fun _ _ _ _ hs1 => ?_))
  dsimp only
  exact Issue.acceptAtOnce_keeps _ _ _ (State.wrN_wf _ _ _ _ _ hs1)

theorem execInstqAbort_keeps (f : FE) (s : State) (h : s.mem.wf) : KeepsForm (execInstqAbort f s) := by
  unfold execInstqAbort
  refine blockWord_keeps _ _ _ _ _ h (fun _ _ _ _ hs => Issue.instqLayer_keeps _ _ _ hs (fun _ _ _ _ hs1 =>
      Issue.acceptAtOnce_keeps _ _ _ ?_))
  dsimp only
  exact hs1

theorem State.putImage_wf (s : State) (ctx lia first : Nat) (bytes : List Byte) (h : s.mem.wf) :
    (s.putImage ctx lia first bytes).mem.wf := by
  unfold State.putImage
  exact wf_foldl _ _ _ (wf_foldl _ _ _ h (fun s _ hs => Memory.wf_filter _ _ hs)) (fun s _ hs => Memory.wf_setLine _ _ _ hs)

theorem State.quarantineBlocks_wf (s : State) (ctx : Nat) (taken freed : List Nat) (h : s.mem.wf) :
    (s.quarantineBlocks ctx taken freed).mem.wf := h

theorem State.takeImage_wf (s t : State) (c : Cmd) (d : LayerDesc) (first : Nat) (bytes : List Byte)
    (ht : s.takeImage c d first bytes = .ok t) (h : s.mem.wf) : t.mem.wf := by
  unfold State.takeImage at ht
  dsimp only at ht
  split at ht
  · cases ht
  · next s1 h1 =>
    split at ht
    · cases ht
    · next s2 h2 =>
      cases ht
      refine wf_of_mem (State.meter_mem _ _ _ _) (wf_of_mem (State.modCtx_mem _ _ _)
        (wf_foldl _ _ _ ?_ (fun s b hs => State.freeBlock_wf _ _ _ hs)))
      exact State.quarantineBlocks_wf _ _ _ _ (State.setLeaves_wf _ _ _ _ _ (State.setLeaves_wf _ _ _ _ _
        (State.putImage_wf _ _ _ _ _ (State.iaWrite_wf s1 s2 _ _ (State.iaWrite_wf s s1 _ _ h h1) h2))))

theorem State.programImage_keeps (s : State) (cmd : Nat) (c : Cmd) (verified : Bool) (blocks bad spare : List Nat) (d : LayerDesc)
    (first : Nat) (bytes : List Byte) (h : s.mem.wf) :
    KeepsForm (s.programImage cmd c verified blocks bad spare d first bytes) := by
  have h1 : (bad.foldl (fun s b => s.retireBlock c.ctx b) (s.program c.ctx (blocks ++ spare.take bad.length))).mem.wf :=
    wf_foldl _ _ _ (State.program_wf _ _ _ h) (fun s b hs => State.retireBlock_wf _ _ _ hs)
  unfold State.programImage
  dsimp only
  generalize List.foldl _ (s.program c.ctx (blocks ++ spare.take bad.length)) bad = s1 at h1 ⊢
  refine .ite (.next (State.cmdComplete_wf _ _ _ _ (wf_foldl _ _ _ h1 (fun s b hs => State.freeBlock_wf _ _ _ hs)))) ?_
  split
  · exact State.cmdHold_keeps _ _ _ h
  · next s3 h3 => exact .next (State.cmdComplete_wf _ _ _ _ (State.takeImage_wf _ s3 _ _ _ _ h3 h1))

/-- An outcome that ends with a code where one is known. What it does else is not looked into: left open, the kernel would compute it
in comparing the two cases. -/
theorem KeepsForm.orElse (code : Option Nat) (f : Nat → Out) (rest : Out) (hf : ∀ k, KeepsForm (f k)) (hrest : KeepsForm rest) :
    KeepsForm (match code with | some k => f k | none => rest) := by
  cases code with
  | some k => exact hf k
  | none => exact hrest

theorem execInstComplete_keeps (cmd : Nat) (verified : Bool) (failed : List Nat) (s : State) (h : s.mem.wf) :
    KeepsForm (execInstComplete cmd verified failed s) := by
  unfold execInstComplete
  split
  · exact .next h
  · next c _ =>
    have h0 := State.touchLayer_wf _ c.ctx c.slot (insLayer c.block)
      (State.touchRange_wf s c.ctx (towerOf c.core) .engRead (insSrc c.block) (insSize c.block) h)
    have hend : ∀ k, KeepsForm (.next (s.cmdComplete cmd c (codeStatus k))) := fun k => .next (State.cmdComplete_wf _ _ _ _ h)
    refine .ite (.next h) (.ite (.next (State.cmdFail_wf _ _ _ _ _ h)) (KeepsForm.orElse c.code _ _ hend ?_))
    extract_lets +onlyGivenNames n
    split
    · exact hend 2
    · extract_lets +onlyGivenNames blocks bad spare s1
      refine .ite (hend 2) ?_
      extract_lets +onlyGivenNames s2
      split
      · exact State.cmdHold_keeps _ _ _ h0
      · exact State.cmdHold_keeps _ _ _ h0
      · next locs _ _ _ _ _ =>
        have h1 := State.recallAll_wf _ locs false h0
        exact .ite (.next h0) (.ite (.next h1) (State.programImage_keeps _ _ _ _ _ _ _ _ _ _ h1))
      · exact hend 5

/-! ### Translation and peers -/

theorem State.rangeWrite_wf (s : State) (ctx reg word : Nat) (v : Word64) (h : s.mem.wf) :
    (s.rangeWrite ctx reg word v).mem.wf := by
  unfold State.rangeWrite
  dsimp only
  exact wf_ite (wf_ite h h) h

theorem execXlRangeWrite_keeps (reg word : Nat) (value : BitVec 64) (s : State) (h : s.mem.wf) :
    KeepsForm (execXlRangeWrite reg word value s) := .ite (.next (State.rangeWrite_wf _ _ _ _ _ h)) (.next h)

theorem State.emptyStash_wf (s : State) (team : Nat) (p : Nat → Bool) (h : s.mem.wf) : (s.emptyStash team p).mem.wf :=
  wf_foldl _ _ _ h (fun _ _ hs => wf_ite (State.writeBack_wf _ _ _ hs) hs)

theorem State.flushRange_wf (s : State) (value : Nat) (h : s.mem.wf) : (s.flushRange value).mem.wf := by
  unfold State.flushRange
  dsimp only
  exact wf_foldl _ _ _ h (fun _ _ hs => State.emptyStash_wf _ _ _ hs)

theorem execXlInv_keeps (value : BitVec 64) (s : State) (h : s.mem.wf) : KeepsForm (execXlInv value s) := by
  unfold execXlInv
  dsimp only
  exact .ite (.next h) (.next h)

theorem execXlInvComplete_keeps (s : State) (h : s.mem.wf) : KeepsForm (execXlInvComplete s) := by
  unfold execXlInvComplete
  split
  · exact .next h
  · refine .ite (.next h) ?_
    dsimp only
    exact .next (wf_ite (State.flushRange_wf _ _ h) h)

theorem State.resumeGroup_wf (s : State) (value gid : Nat) (h : s.mem.wf) : (s.resumeGroup value gid).mem.wf := by
  unfold State.resumeGroup
  dsimp only
  refine State.settle_wf _ _ (wf_foldl _ _ _ h (fun _ _ hs => ?_))
  split <;> exact State.pageNotice_wf _ _ _ _ _ _ hs

theorem State.retryAllFlags_wf (s : State) (h : s.mem.wf) : (s.retryAllFlags).mem.wf :=
  wf_foldl _ _ _ h (fun _ _ hs => wf_foldl _ _ _ hs (fun _ _ hs1 => wf_ite hs1 (State.retryFlags_wf _ _ _ _ hs1)))

theorem State.retryRecords_wf (s : State) (h : s.mem.wf) : (s.retryRecords).mem.wf :=
  wf_foldl _ _ _ h (fun _ _ hs => wf_ite (State.writeFault_wf _ _ hs) hs)

theorem State.landPeer_wf (s : State) (w : PeerWrite) (h : s.mem.wf) : (s.landPeer w).mem.wf :=
  Memory.wf_foldl _ _ _ h (fun m _ hm => Memory.wf_set m _ _ hm)

theorem execRemoteWriteAck_keeps (write : Nat) (s : State) (h : s.mem.wf) : KeepsForm (execRemoteWriteAck write s) := by
  unfold execRemoteWriteAck
  split
  · exact .next h
  · refine .ite (.next h) (.next ?_)
    dsimp only
    exact State.landPeer_wf _ _ h

theorem State.peerPlaces_wf (s : State) (peer ia n : Nat) (kind : Acc) (h : s.mem.wf) :
    (s.peerPlaces peer ia n kind).1.mem.wf :=
  wf_foldl _ _ _ h (fun _ _ hs => wf_ite (State.firstTouchPeer_wf _ _ _ _ hs) hs)

theorem State.outsideMiss_keeps (s : State) (m : Miss) (h : s.mem.wf) : KeepsForm (s.outsideMiss m) := by
  cases m with
  | absent page code level => exact .next (State.pageNotice_wf _ _ _ _ _ _ h)
  | fault cause detail => exact .next h
  | noSuch => exact .fault _
  | regPage => exact .refused _

theorem State.outsideWrite_wf (s : State) (l : List (Loc × Byte)) (h : s.mem.wf) : (s.outsideWrite l).mem.wf :=
  State.putBytes_wf _ _ _ _ h

theorem State.outsideStep_keeps (s : State) (peer ia n : Nat) (f : Nat → Nat) (h : s.mem.wf) :
    KeepsForm (s.outsideStep peer ia n f) := by
  have h1 := State.peerPlaces_wf s peer ia n .atomic h
  unfold State.outsideStep
  split
  · next s1 m hp =>
    rw [hp] at h1
    exact State.outsideMiss_keeps _ _ h1
  · next s1 l hp =>
    rw [hp] at h1
    exact .ite (.next h1) (.next (State.outsideWrite_wf _ _ h1))

theorem execPeerAccess_keeps (peer ia : Nat) (act : PeerAct) (s0 : State) (h : s0.mem.wf) :
    KeepsForm (execPeerAccess peer ia act s0) := by
  have ha := State.acquiring_wf s0 (peerAcquires act) h
  unfold execPeerAccess
  refine .ite (.next h) (.ite (.next ha) ?_)
  cases act with
  | read n scope acq =>
    have h1 := State.peerPlaces_wf _ peer ia n .load ha
    dsimp only
    split
    · next s1 m hp =>
      rw [hp] at h1
      exact State.outsideMiss_keeps _ _ h1
    · next s1 l hp =>
      rw [hp] at h1
      exact .ite (.next h1) (.next (State.recallAll_wf _ _ _ h1))
  | write bytes scope rel =>
    have h1 := State.peerPlaces_wf _ peer ia bytes.length .store ha
    dsimp only
    split
    · next s1 m hp =>
      rw [hp] at h1
      exact State.outsideMiss_keeps _ _ h1
    · next s1 l hp =>
      rw [hp] at h1
      exact .ite (.next h1) (.next (State.outsideWrite_wf _ _ h1))
  | atomic bits aop v cmp ord scope => exact State.outsideStep_keeps _ _ _ _ _ ha
  | addF32 x => exact State.outsideStep_keeps _ _ _ _ _ ha

/-! ### Groups on a core -/

theorem State.giveRange_wf (s : State) (gid : Nat) (h : s.mem.wf) : (s.giveRange gid).mem.wf := by
  unfold State.giveRange
  dsimp only
  split
  · exact h
  · split
    · exact wf_foldl _ _ _ h (fun _ _ hs => hs)
    · exact h

theorem State.activate_wf (s : State) (gid : Nat) (h : s.mem.wf) : (s.activate gid).mem.wf := by
  unfold State.activate
  dsimp only
  exact State.giveRange_wf _ _ h

theorem State.passivate_wf (s : State) (gid : Nat) (h : s.mem.wf) : (s.passivate gid).mem.wf := h

theorem State.joinActive_wf (s : State) (gid : Nat) (h : s.mem.wf) : (s.joinActive gid).mem.wf := by
  unfold State.joinActive
  dsimp only
  exact wf_ite (State.activate_wf _ _ (State.passivate_wf _ _ h)) (State.passivate_wf _ _ h)

theorem State.fillActive_wf (s : State) (gid n : Nat) (h : s.mem.wf) : (s.fillActive gid n).mem.wf := by
  induction n generalizing s with
  | zero => exact h
  | succ n ih =>
    unfold State.fillActive
    split
    · exact h
    · exact wf_ite (ih _ (State.activate_wf _ _ h)) h

theorem execGroupSwap_keeps (gid : Nat) (s : State) (h : s.mem.wf) : KeepsForm (execGroupSwap gid s) := by
  unfold execGroupSwap
  split
  · exact .next h
  · refine .ite (.next (State.activate_wf _ _ h)) (.ite (.next h) ?_)
    dsimp only
    exact .ite (.next (State.activate_wf _ _ (State.passivate_wf _ _ h))) (.next (State.passivate_wf s gid h))

theorem State.markIdle_wf (s : State) (core : Nat) (h : s.mem.wf) : (s.markIdle core).mem.wf := h

theorem execGroupResourcesFree_keeps (gid : Nat) (s : State) (h : s.mem.wf) : KeepsForm (execGroupResourcesFree gid s) := by
  unfold execGroupResourcesFree
  split
  · exact .next h
  · have hfill := State.fillActive_wf
      ((s.modGrp gid (fun g => { g with active := false, range := [] })).markIdle (s.coreOf gid)) gid 32 (State.markIdle_wf _ _ h)
    exact .ite (.next h) (.next hfill)

theorem State.noteResident_wf (s : State) (core ctx : Nat) (h : s.mem.wf) : (s.noteResident core ctx).mem.wf := by
  unfold State.noteResident
  split
  · exact h
  · exact wf_ite h h

theorem State.makeResident_wf (s : State) (core ctx : Nat) (h : s.mem.wf) : (s.makeResident core ctx).mem.wf :=
  State.noteResident_wf _ _ _ h

theorem State.leaveCore_wf (s0 : State) (core ctx : Nat) (h : s0.mem.wf) : (s0.leaveCore core ctx).mem.wf := by
  unfold State.leaveCore
  dsimp only
  exact wf_ite (State.markIdle_wf s0 core h) (State.markIdle_wf s0 core h)

theorem State.giveStorage_wf (s t : State) (tid from_ : Nat) (ht : s.giveStorage tid from_ = some t) (h : s.mem.wf) :
    t.mem.wf := by
  unfold State.giveStorage at ht
  dsimp only at ht
  split at ht
  · cases ht
    exact h
  · split at ht
    · cases ht
      exact wf_foldl _ _ _ h (fun s _ hs => hs)
    · cases ht

theorem execCompaction_keeps (team place : Nat) (s : State) (h : s.mem.wf) : KeepsForm (execCompaction team place s) := by
  unfold execCompaction
  split
  · exact .next h
  · refine .ite ?_ (.next h)
    split
    · next s1 h1 => exact .next (State.giveStorage_wf s s1 _ _ h1 h)
    · exact .next h

theorem State.clearScratch_wf (s : State) (tid : Nat) (h : s.mem.wf) : (s.clearScratch tid).mem.wf := Memory.wf_filter _ _ h

theorem State.keepLive_wf (s : State) (gid : Nat) (h : s.mem.wf) : (s.keepLive gid).mem.wf := by
  unfold State.keepLive
  dsimp only
  exact h

theorem State.setPreempt_wf (s : State) (core ctx : Nat) (on : Bool) (h : s.mem.wf) : (s.setPreempt core ctx on).mem.wf := h

theorem State.preemptGroup_wf (s : State) (gid : Nat) (h : s.mem.wf) : (s.preemptGroup gid).mem.wf :=
  State.settle_wf _ _ (wf_of_mem (State.discardGroup_mem _ _ _) h)

/-! ### The Forecourt: reads, writes and queues -/

theorem State.fcHold_wf (s : State) (page : Nat) (h : s.mem.wf) : (s.fcHold page).mem.wf := wf_ite h h

theorem State.fcWait_keeps (s : State) (ctx : Nat) (m : Miss) (h : s.mem.wf) : KeepsForm (s.fcWait ctx m) := by
  cases m with
  | absent page code level => exact .next (State.fcHold_wf _ _ (State.pageNotice_wf _ _ _ _ _ _ h))
  | fault cause detail => exact .next h
  | noSuch => exact .fault _
  | regPage => exact .refused _

theorem State.fcRead_keeps (s0 : State) (ctx va n : Nat) (bad : State → Nat → Nat → Out) (k : State → Nat → Out) (h : s0.mem.wf)
    (hbad : ∀ t n1 n2, t.mem.wf → KeepsForm (bad t n1 n2)) (hk : ∀ t n1, t.mem.wf → KeepsForm (k t n1)) :
    KeepsForm (s0.fcRead ctx va n bad k) := by
  unfold State.fcRead
  dsimp only
  split
  · refine .ite (.next (State.touchRange_wf _ _ _ _ _ _ h)) ?_
    exact hk _ _ (State.recallAll_wf _ _ _ (State.touchRange_wf _ _ _ _ _ _ h))
  · exact hbad _ _ _ (State.touchRange_wf _ _ _ _ _ _ h)
  · exact State.fcWait_keeps _ _ _ (State.touchRange_wf _ _ _ _ _ _ h)

theorem State.fcWrite_wf (s0 : State) (ctx va v : Nat) (h : s0.mem.wf) : (s0.fcWrite ctx va v).mem.wf := by
  unfold State.fcWrite
  dsimp only
  split
  · exact State.putBytes_wf _ _ _ _ (State.touchRange_wf _ _ _ _ _ _ h)
  · exact State.contextFault_wf _ _ _ (State.touchRange_wf _ _ _ _ _ _ h)
  · exact State.pageNotice_wf _ _ _ _ _ _ (State.touchRange_wf _ _ _ _ _ _ h)
  · exact State.touchRange_wf _ _ _ _ _ _ h

theorem State.fcFault_wf (s : State) (q ctx va cause detail : Nat) (h : s.mem.wf) : (s.fcFault q ctx va cause detail).mem.wf := by
  unfold State.fcFault
  dsimp only
  exact wf_ite (State.contextFault_wf _ _ _ h) (State.contextFault_wf _ _ _ h)

theorem andThen_keeps (o : Out) (k : State → Out) (ho : KeepsForm o) (hk : ∀ s, s.mem.wf → KeepsForm (k s)) :
    KeepsForm (andThen o k) := by
  cases o with
  | next s => exact hk s (ho s rfl)
  | fault f => exact .fault f
  | refused r => exact .refused r

theorem foldl_andThen_keeps {α : Type} (f : α → State → Out) (l : List α) (o : Out) (ho : KeepsForm o)
    (hf : ∀ a s, s.mem.wf → KeepsForm (f a s)) : KeepsForm (l.foldl (fun o a => andThen o (f a)) o) := by
  induction l generalizing o with
  | nil => exact ho
  | cons a l ih => exact ih _ (andThen_keeps o (f a) ho (hf a))

theorem State.withQueue_keeps (s0 : State) (q : Nat) (k : State → QDesc → Out) (h : s0.mem.wf)
    (hk : ∀ t a, t.mem.wf → KeepsForm (k t a)) : KeepsForm (s0.withQueue q k) := by
  unfold State.withQueue
  refine .ite (.next h) ?_
  dsimp only
  split
  · exact .ite (.next (State.iaTouch_wf _ _ _ h)) (hk _ _ (State.iaTouch_wf _ _ _ h))
  · exact .next (State.iaTouch_wf _ _ _ h)
  · exact State.fcWait_keeps _ _ _ (State.iaTouch_wf _ _ _ h)

theorem State.serveQueues_wf (s : State) (h : s.mem.wf) : (s.serveQueues).mem.wf := by
  unfold State.serveQueues
  dsimp only
  exact h

theorem State.unbell_wf (s : State) (q : Nat) (h : s.mem.wf) : (s.unbell q).mem.wf := h
theorem State.bell_wf (s : State) (q : Nat) (h : s.mem.wf) : (s.bell q).mem.wf := wf_ite h h

theorem State.readTail_keeps (s0 : State) (q : Nat) (h : s0.mem.wf) : KeepsForm (s0.readTail q) := by
  unfold State.readTail
  refine State.withQueue_keeps _ _ _ (wf_ite h (State.bell_wf _ _ h)) (fun _ _ hs => State.fcRead_keeps _ _ _ _ _ _ hs (fun _ _ _
      hs1 => .next (State.unbell_wf _ _ (State.fcFault_wf _ _ _ _ _ _ hs1))) (fun _ _ hs1 => ?_))
  dsimp only
  exact .ite (.next (State.unbell_wf _ q hs1)) (.next (State.unbell_wf _ q hs1))

theorem State.clearRefusal_keeps (s0 : State) (q : Nat) (k : State → Out) (h : s0.mem.wf) (hk : ∀ t, t.mem.wf → KeepsForm (k t)) :
    KeepsForm (s0.clearRefusal q k) := by
  unfold State.clearRefusal
  refine .ite (hk _ h) ?_
  refine State.withQueue_keeps _ _ _ (wf_ite h (State.bell_wf _ _ h)) (fun _ _ hs => State.fcRead_keeps _ _ _ _ _ _ hs (fun _ _ _
      hs1 => .next (State.unbell_wf _ _ (State.fcFault_wf _ _ _ _ _ _ hs1))) (fun _ _ hs1 => ?_))
  exact .ite (hk _ hs1) (hk _ (State.unbell_wf _ _ hs1))

theorem execFcBell_keeps (queue : Nat) (s : State) (h : s.mem.wf) : KeepsForm (execFcBell queue s) := by
  unfold execFcBell
  dsimp only
  exact State.clearRefusal_keeps _ _ _ h (fun _ hs => andThen_keeps _ _ (State.readTail_keeps _ _ hs) (fun _ hs1 => .next
      (State.serveQueues_wf _ hs1)))

theorem execQuantumBoundary_keeps (s : State) (h : s.mem.wf) : KeepsForm (execQuantumBoundary s) := by
  unfold execQuantumBoundary
  refine .ite (.next h) (andThen_keeps _ _ ?_ (fun s1 hs => .next (State.serveQueues_wf _ hs)))
  exact foldl_andThen_keeps (fun q s => s.readTail q) _ _ (.next h) (fun q s hs => State.readTail_keeps s q hs)

theorem execXlResume_keeps (value : BitVec 64) (s : State) (h : s.mem.wf) : KeepsForm (execXlResume value s) := by
  unfold execXlResume
  refine foldl_andThen_keeps execFcBell _ _ (.next ?_) (fun q s hs => execFcBell_keeps q s hs)
  exact State.retryRecords_wf _ (State.retryAllFlags_wf _ (wf_foldl _ _ _ h (fun s e hs => State.resumeGroup_wf _ _ _ hs)))

/-! ### Phases -/

theorem State.refuse_wf (s : State) (q : Nat) (d : QDesc) (code : Nat) (h : s.mem.wf) : (s.refuse q d code).mem.wf := by
  unfold State.refuse
  dsimp only
  exact State.serveQueues_wf _ (State.unbell_wf _ _ (State.fcWrite_wf _ _ _ _ h))

theorem State.hold_wf (s : State) (q : Nat) (h : Held) (hw : s.mem.wf) : (s.hold q h).mem.wf := hw

theorem State.dependences_wf (s : State) (ctx : Nat) (done : List Nat) (l : List ((Nat × Nat) × Nat)) (h : s.mem.wf) :
    (s.dependences ctx done l).1.mem.wf := by
  induction l generalizing s done with
  | nil => exact h
  | cons e l ih =>
    have h1 := State.touchRange_wf s ctx 0 .load e.1.1 8 h
    unfold State.dependences
    dsimp only
    split
    · exact ih _ _ h
    split
    · exact ih _ _ h
    split
    · split
      · exact ih _ _ h1
      · exact ih _ _ (State.recallAll_wf _ _ _ h1)
    · exact ih _ _ h1

theorem State.waitWords_keeps (s : State) (q : Nat) (h : Held) (k : State → Held → Out) (hw : s.mem.wf)
    (hk : ∀ t a, t.mem.wf → KeepsForm (k t a)) : KeepsForm (s.waitWords q h k) := by
  have hdep := State.dependences_wf s h.record.ctx h.done (h.record.events.zip (List.range 4)) hw
  unfold State.waitWords
  dsimp only
  split
  · exact .next (State.fcFault_wf _ _ _ _ _ _ (State.hold_wf _ _ _ hdep))
  · exact State.fcWait_keeps _ _ _ (State.hold_wf _ _ _ hdep)
  · exact .ite (.next (State.hold_wf _ _ _ hdep)) (hk _ _ (State.hold_wf _ _ _ hdep))

theorem execDependenceRecheck_keeps (queue : Nat) (s : State) (h : s.mem.wf) : KeepsForm (execDependenceRecheck queue s) := by
  unfold execDependenceRecheck
  split
  · exact .next h
  · exact .ite (.next h) (State.waitWords_keeps _ _ _ _ h (fun _ _ hs => .next hs))

theorem State.compWord_keeps (s0 : State) (r : Record) (k : State → Out) (h : s0.mem.wf) (hk : ∀ t, t.mem.wf → KeepsForm (k t)) :
    KeepsForm (s0.compWord r k) := by
  unfold State.compWord
  refine .ite (hk _ h) ?_
  dsimp only
  split
  · exact hk _ (State.contextFault_wf _ _ _ (State.touchVa_wf _ _ _ _ _ h))
  · exact State.fcWait_keeps _ _ _ (State.touchVa_wf _ _ _ _ _ h)
  · exact .ite (.next (State.touchVa_wf _ _ _ _ _ h)) (hk _ (State.putBytes_wf _ _ _ _ (State.touchVa_wf _ _ _ _ _ h)))

theorem State.completePhase_keeps (s : State) (id : Nat) (h : s.mem.wf) : KeepsForm (s.completePhase id) := by
  unfold State.completePhase
  split
  · exact .next h
  · dsimp only
    exact .ite (.next h) (State.compWord_keeps _ _ _ h (fun _ hs => .next hs))

theorem execPhaseComplete_keeps (phase : Nat) (s : State) (h : s.mem.wf) : KeepsForm (execPhaseComplete phase s) :=
  State.completePhase_keeps _ _ h

theorem State.startPhase_keeps (s : State) (q : Nat) (d : QDesc) (h : QHead) (r : Record) (scs : List Sched) (size : Nat)
    (hw : s.mem.wf) : KeepsForm (s.startPhase q d h r scs size) := by
  unfold State.startPhase
  split
  · exact .next (State.refuse_wf _ _ _ _ hw)
  · refine .ite (.next (State.refuse_wf _ _ _ _ hw)) ?_
    refine .ite (.next (State.refuse_wf _ _ _ _ hw)) (.ite (.next (State.refuse_wf _ _ _ _ hw)) ?_)
    extract_lets +onlyGivenNames fromRing num id p s1 s2 s3
    have h2 : s2.mem.wf := State.fcWrite_wf _ _ _ _ (wf_ite (State.fcWrite_wf _ _ _ _ hw) hw)
    have h3 : s3.mem.wf := wf_ite h2 (State.layerRequest_wf _ _ _ _ h2)
    dsimp only
    exact .ite (andThen_keeps _ _ (State.completePhase_keeps _ _ h3) (fun _ hs => .next (State.serveQueues_wf _ hs)))
      (.next (State.serveQueues_wf _ h3))

theorem State.readSize_keeps (s : State) (q : Nat) (h : Held) (k : State → Nat → Out) (hw : s.mem.wf)
    (hk : ∀ t n, t.mem.wf → KeepsForm (k t n)) : KeepsForm (s.readSize q h k) := by
  unfold State.readSize
  dsimp only
  split
  · exact hk _ _ hw
  · refine .ite (hk _ _ hw) ?_
    exact State.fcRead_keeps _ _ _ _ _ _ hw (fun _ _ _ hs => .next (State.fcFault_wf _ _ _ _ _ _ hs)) (fun _ _ hs => hk _ _
        (State.hold_wf _ _ _ hs))

theorem State.checkRun_keeps (s0 : State) (q : Nat) (d : QDesc) (h : Held) (k : State → Held → List Sched → Out) (hw : s0.mem.wf)
    (hk : ∀ t a a2, t.mem.wf → KeepsForm (k t a a2)) : KeepsForm (s0.checkRun q d h k) := by
  unfold State.checkRun
  dsimp only
  refine State.fcRead_keeps _ _ _ _ _ _ hw (fun _ _ _ hs => .next (State.refuse_wf _ _ _ _ hs)) (fun _ _ hs => ?_)
  refine .ite (.next (State.refuse_wf _ _ _ _ hs)) ?_
  refine .ite (.next (State.refuse_wf _ _ _ _ hs)) (.ite (.next (wf_ite hs (State.touchLayer_wf _ _ _ _ hs))) ?_)
  split
  · exact .next (State.fcFault_wf _ _ _ _ _ _ (wf_ite hs (State.touchLayer_wf _ _ _ _ hs)))
  · exact State.fcWait_keeps _ _ _ (wf_ite hs (State.touchLayer_wf _ _ _ _ hs))
  · exact .next (State.refuse_wf _ _ _ _ (wf_ite hs (State.touchLayer_wf _ _ _ _ hs)))
  · exact hk _ _ _ (State.hold_wf _ _ _ (wf_ite hs (State.touchLayer_wf _ _ _ _ hs)))

theorem State.goOn_keeps (s0 : State) (q : Nat) (d : QDesc) (hd : QHead) (h : Held) (hw : s0.mem.wf) :
    KeepsForm (s0.goOn q d hd h) := by
  unfold State.goOn
  have hhold : ∀ x, (s0.hold q x).mem.wf := fun _ => State.hold_wf _ _ _ hw
  dsimp only
  refine .ite (.next (State.refuse_wf _ _ _ _ (hhold _))) (.ite (.next (State.refuse_wf _ _ _ _ (hhold _))) ?_)
  split
  · exact State.waitWords_keeps _ _ _ _ (hhold _) (fun _ _ hs => State.readSize_keeps _ _ _ _ hs (fun _ _ hs1 =>
      State.startPhase_keeps _ _ _ _ _ _ _ hs1))
  · refine .ite (.next (State.refuse_wf _ _ _ _ (hhold _))) ?_
    exact State.checkRun_keeps _ _ _ _ _ (hhold _) (fun _ _ _ hs => State.waitWords_keeps _ _ _ _ hs (fun _ _ hs1 =>
        State.readSize_keeps _ _ _ _ hs1 (fun _ _ hs2 => State.startPhase_keeps _ _ _ _ _ _ _ hs2)))

theorem State.takeRecord_keeps (s : State) (q : Nat) (d : QDesc) (hd : QHead) (addr : Nat) (h : s.mem.wf) :
    KeepsForm (s.takeRecord q d hd addr) :=
  State.fcRead_keeps _ _ _ _ _ _ h (fun _ _ _ hs => .next (State.refuse_wf _ _ _ _ hs)) (fun _ _ hs => State.goOn_keeps _ _ _ _ _
      hs)

theorem execPhaseStart_keeps (queue : Nat) (s0 : State) (h : s0.mem.wf) : KeepsForm (execPhaseStart queue s0) := by
  unfold execPhaseStart
  refine State.withQueue_keeps _ _ _ h (fun _ _ hs => ?_)
  dsimp only
  refine .ite (.next hs) ?_
  refine State.fcRead_keeps _ _ _ _ _ _ hs (fun _ _ _ hs1 => .next (State.fcFault_wf _ _ _ _ _ _ hs1)) (fun _ _ hs1 => ?_)
  refine .ite (.next hs1) ?_
  split
  · exact State.goOn_keeps _ _ _ _ _ hs1
  · refine .ite (.next hs1) ?_
    refine .ite (State.takeRecord_keeps _ _ _ _ _ hs1) ?_
    exact State.fcRead_keeps _ _ _ _ _ _ hs1 (fun _ _ _ hs2 => .next (State.fcFault_wf _ _ _ _ _ _ hs2)) (fun _ _ hs2 =>
        State.takeRecord_keeps _ _ _ _ _ hs2)

/-! ### Placing teams -/

theorem State.startGroups_wf (s : State) (tid : Nat) (p : Phase) (slots : List Nat) (h : s.mem.wf) :
    (s.startGroups tid p slots).mem.wf := by
  unfold State.startGroups
  refine wf_foldl _ _ _ h (fun _ _ hs => ?_)
  dsimp only
  exact State.joinActive_wf _ _ hs

theorem State.placeTeam_wf (s t : State) (pid cluster i core : Nat) (slots : List Nat)
    (ht : s.placeTeam pid cluster i core slots = some t) (h : s.mem.wf) : t.mem.wf := by
  unfold State.placeTeam at ht
  obtain ⟨s1, h1, rfl⟩ := Option.map_eq_some_iff.mp ht
  exact State.startGroups_wf _ _ _ _ (State.makeResident_wf _ _ _ (State.giveStorage_wf _ s1 _ _ h1 h))

theorem State.stopClocks_wf (s : State) (d : Nat) (h : s.mem.wf) : (s.stopClocks d).mem.wf := wf_foldl _ _ _ h (fun _ _ hs => hs)

theorem State.startClocks_wf (s : State) (d : Nat) (h : s.mem.wf) : (s.startClocks d).mem.wf :=
  wf_foldl _ _ _ h (fun _ _ hs => hs)

theorem State.wakeDistrict_wf (s : State) (d : Nat) (h : s.mem.wf) : (s.wakeDistrict d).mem.wf := by
  unfold State.wakeDistrict
  split
  · exact h
  · exact wf_of_mem (State.modDistrict_mem _ _ _) (State.startClocks_wf _ _ h)
  · exact h
  · exact wf_ite h h

theorem State.wakeAll_wf (s : State) (cores : List Nat) (h : s.mem.wf) : (s.wakeAll cores).mem.wf :=
  wf_foldl _ _ _ h (fun _ _ hs => State.wakeDistrict_wf _ _ hs)

theorem State.seatTeam_wf (s t : State) (ctx core tid : Nat) (im : Image)
    (ht : s.seatTeam ctx core tid im = some t) (h : s.mem.wf) : t.mem.wf := by
  unfold State.seatTeam at ht
  obtain ⟨s1, h1, rfl⟩ := Option.map_eq_some_iff.mp ht
  exact State.makeResident_wf _ _ _ (State.giveStorage_wf _ s1 _ _ h1 h)

theorem State.restoreTeam_wf (s : State) (tid : Nat) (slots : List Nat) (im : Image) (h : s.mem.wf) :
    (s.restoreTeam tid slots im).mem.wf := by
  have hscratch : Memory.wf (im.scratch.foldl (fun (m : Memory) (e : Nat × Byte) => m.set (memKey (spTeam tid) e.1) e.2) s.mem) :=
    Memory.wf_foldl _ _ _ h (fun m e hm => Memory.wf_set m _ _ hm)
  unfold State.restoreTeam
  exact wf_foldl _ _ _ hscratch (fun s e hs => State.joinActive_wf _ _ hs)

theorem State.placeSaved_keeps (s0 : State) (p : Phase) (im : Image) (core : Nat) (slots : List Nat) (h : s0.mem.wf) :
    KeepsForm (s0.placeSaved p im core slots) := by
  have ht := State.iaTouch_wf s0 im.addr im.bytes.length h
  unfold State.placeSaved
  refine .ite (.next ht) ?_
  split
  · exact .next (State.contextFault_wf _ _ _ ht)
  · exact State.fcWait_keeps _ _ _ ht
  · exact .next (State.contextFault_wf _ _ _ ht)
  · split
    · next s1 h1 => exact .next (State.restoreTeam_wf _ _ _ _ (State.seatTeam_wf _ s1 _ _ _ _ h1 ht))
    · exact .next ht

theorem State.placeCluster_keeps (s : State) (pid tower : Nat) (p : Phase) (cores slots : List Nat) (h : s.mem.wf) :
    KeepsForm (s.placeCluster pid tower p cores slots) := by
  unfold State.placeCluster
  split
  · exact .next h
  · refine .ite ?_ (.next h)
    split
    · next s2 h2 =>
      exact .next (wf_foldl_bind _ _ _ s2 (fun t ht => by cases ht; exact h)
        (fun s i u hs hu => State.placeTeam_wf s u _ _ _ _ _ hu hs) h2)
    · exact .next h

theorem execTeamPlacement_keeps (phase tower : Nat) (cores slots : List Nat) (s : State) (h : s.mem.wf) :
    KeepsForm (execTeamPlacement phase tower cores slots s) := by
  unfold execTeamPlacement
  split
  · exact .next h
  · refine .ite (.next h) ?_
    split
    · exact .ite (.next (State.wakeAll_wf _ _ h)) (.ite (State.placeSaved_keeps _ _ _ _ _ h) (.next h))
    · exact .next h
    · exact .ite (.next h) (.ite (.next (State.wakeAll_wf _ _ h)) (State.placeCluster_keeps _ _ _ _ _ _ h))

theorem execTeamMigration_keeps (team core : Nat) (slots : List Nat) (s : State) (h : s.mem.wf) :
    KeepsForm (execTeamMigration team core slots s) := by
  unfold execTeamMigration
  split
  · exact .next h
  · next t _ =>
    have h0 := State.recallCore_wf s t.core h
    refine .ite (.next h) (.ite (.next (State.wakeAll_wf _ _ h)) (.ite (.next h) (.ite (.next h0) ?_)))
    dsimp only
    split
    · exact .next h0
    · next s2 h2 =>
      have hseat := State.giveStorage_wf _ s2 _ _ h2 (State.emptyStash_wf _ team (fun _ => true) h0)
      exact .next (wf_foldl _ _ _ (State.leaveCore_wf _ _ _ (State.makeResident_wf _ _ _ hseat))
        (fun s e hs => State.joinActive_wf _ _ hs))

theorem State.runCtx_wf (s : State) (core ctx : Nat) (h : s.mem.wf) : (s.runCtx core ctx).mem.wf := h

theorem State.switchOff_wf (s : State) (core : Nat) (h : s.mem.wf) : (s.switchOff core).mem.wf := by
  unfold State.switchOff
  dsimp only
  split
  · exact wf_ite h (State.setPreempt_wf _ _ _ _ h)
  · exact h

theorem execContextSwitch_keeps (core ctx : Nat) (s : State) (h : s.mem.wf) : KeepsForm (execContextSwitch core ctx s) := by
  unfold execContextSwitch
  dsimp only
  refine .ite (.next (State.switchOff_wf _ _ h)) ?_
  split
  · exact .next (State.runCtx_wf _ _ _ h)
  · refine .ite (.next h) ?_
    refine .ite (.next (State.setPreempt_wf _ _ _ _ h)) ?_
    exact .next (State.runCtx_wf _ _ _ (wf_foldl _ _ _ (State.setPreempt_wf _ _ _ _ h) (fun _ _ hs => State.preemptGroup_wf _ _
        hs)))

theorem execStallAll_keeps (core ctx : Nat) (s : State) (h : s.mem.wf) : KeepsForm (execStallAll core ctx s) := by
  unfold execStallAll
  dsimp only
  refine .ite (.next h) ?_
  split
  · exact .next h
  · exact .ite (.next (State.notice_wf _ _ _ _ _ h)) (.next h)

/-! ### Commands on a context -/

theorem State.takeSeq_wf (s : State) (h : s.mem.wf) : (s.takeSeq).mem.wf := h
theorem State.endCommand_wf (s : State) (result : Nat) (h : s.mem.wf) : (s.endCommand result).mem.wf := h

theorem execCtxCmdInvalid_keeps (s : State) (h : s.mem.wf) : KeepsForm (execCtxCmdInvalid s) := by
  unfold execCtxCmdInvalid
  split
  · exact .next h
  · exact .next (State.endCommand_wf _ _ h)

theorem State.touchTables_wf (s : State) (ctx : Nat) (h : s.mem.wf) : (s.touchTables ctx).mem.wf := by
  unfold State.touchTables
  dsimp only
  refine wf_foldl _ _ _ (State.iaTouch_wf _ _ _ h) (fun _ _ hs => ?_)
  split
  · exact State.iaTouch_wf _ _ _ hs
  · exact hs

theorem State.createCtx_wf (s : State) (ctx : Nat) (l : List (Nat × Nat × LayerDesc)) (h : s.mem.wf) :
    (s.createCtx ctx l).mem.wf := by
  unfold State.createCtx
  dsimp only
  exact wf_foldl _ _ _ (wf_foldl _ _ _ (wf_ite h h) (fun _ _ hs => State.setLeaves_wf _ _ _ _ _ hs)) (fun _ _ hs =>
      State.putLayer_wf _ _ _ _ _ hs)

theorem execCtxCreate_keeps (s0 : State) (h : s0.mem.wf) : KeepsForm (execCtxCreate s0) := by
  unfold execCtxCreate
  have ht : ∀ ctx, (s0.touchTables ctx).mem.wf := fun _ => State.touchTables_wf _ _ h
  split
  · exact .next h
  · dsimp only
    refine .ite (.next (State.endCommand_wf _ _ h)) (.ite (.next (State.endCommand_wf _ _ h)) ?_)
    split
    · exact .next (State.pageNotice_wf _ _ _ _ _ _ (ht _))
    · exact .next (State.endCommand_wf _ _ (ht _))
    · refine .ite (.next (State.endCommand_wf _ _ (ht _))) ?_
      exact .ite (.next (State.endCommand_wf _ _ (ht _))) (.next (State.endCommand_wf _ _ (State.createCtx_wf _ _ _ (ht _))))

theorem State.haltEnd_wf (s : State) (ctx : Nat) (h : s.mem.wf) : (s.haltEnd ctx).mem.wf := by
  unfold State.haltEnd
  refine wf_ite ?_ h
  dsimp only
  exact State.endCommand_wf _ _ h

theorem State.holdGroups_wf (s : State) (ctx : Nat) (on : Bool) (h : s.mem.wf) : (s.holdGroups ctx on).mem.wf := h
theorem State.holdTeam_wf (s : State) (tid : Nat) (on : Bool) (h : s.mem.wf) : (s.holdTeam tid on).mem.wf := h

theorem execCtxHalt_keeps (s : State) (h : s.mem.wf) : KeepsForm (execCtxHalt s) := by
  unfold execCtxHalt
  split
  · exact .next h
  · refine .ite (.next (State.endCommand_wf _ _ h)) ?_
    dsimp only
    exact .next (State.haltEnd_wf _ _ h)

theorem State.unplaceTeam_wf (s : State) (tid : Nat) (h : s.mem.wf) : (s.unplaceTeam tid).mem.wf := by
  unfold State.unplaceTeam
  dsimp only
  exact State.leaveCore_wf _ _ _ (State.clearScratch_wf _ _ h)

theorem State.saveTeam_keeps (s00 : State) (tid place : Nat) (h : s00.mem.wf) : KeepsForm (s00.saveTeam tid place) := by
  unfold State.saveTeam
  have ht : ∀ f ia n, ((s00.emptyStash tid f).iaTouch ia n).mem.wf :=
    fun _ _ _ => State.iaTouch_wf _ _ _ (State.emptyStash_wf _ _ _ h)
  dsimp only
  split
  · exact .next (State.pageNotice_wf _ _ _ _ _ _ (ht _ _ _))
  · exact .next (State.haltEnd_wf _ _ (State.contextFault_wf _ _ _ (ht _ _ _)))
  · exact .fault _
  · exact .refused _
  · exact .next (State.haltEnd_wf _ _ (State.unplaceTeam_wf _ _ (State.wrAll_wf _ _ _ (wf_foldl _ _ _ (ht _ _ _) (fun _ _ hs =>
      State.keepLive_wf _ _ hs)))))

theorem execHaltTeamSave_keeps (team : Nat) (s : State) (h : s.mem.wf) : KeepsForm (execHaltTeamSave team s) := by
  unfold execHaltTeamSave
  split
  · exact .next h
  · refine .ite (.next h) (.ite (.next (State.holdTeam_wf _ _ _ h)) ?_)
    extract_lets s0 s1
    have h0 : s0.mem.wf := State.holdTeam_wf _ _ _ h
    have h1 : s1.mem.wf := State.recallCore_wf _ _ (wf_foldl _ _ _ h0 (fun _ _ hs => State.preemptGroup_wf _ _ hs))
    refine .ite (.next h0) (.ite (.next h1) ?_)
    split
    · exact .next (State.haltEnd_wf _ _ h1)
    · exact State.saveTeam_keeps _ _ _ h1

theorem State.dropSlices_wf (s : State) (tid : Nat) (h : s.mem.wf) : (s.dropSlices tid).mem.wf :=
  wf_foldl _ _ _ h (fun _ _ hs => State.cmdGone_wf _ _ _ hs)

theorem execTeamEnd_keeps (team : Nat) (s : State) (h : s.mem.wf) : KeepsForm (execTeamEnd team s) := by
  unfold execTeamEnd
  split
  · exact .next h
  · refine .ite (.next (State.dropSlices_wf _ _ h)) (.ite (.next h) ?_)
    extract_lets +onlyGivenNames s1 s2 s3
    have h3 : s3.mem.wf := State.leaveCore_wf _ _ _ (wf_of_mem (State.modPhase_mem _ _ _) (State.clearScratch_wf s team h))
    exact .next (wf_ite (State.haltEnd_wf _ _ h3) h3)

theorem execCtxResume_keeps (s : State) (h : s.mem.wf) : KeepsForm (execCtxResume s) := by
  unfold execCtxResume
  split
  · exact .next h
  · exact .ite (.next (State.endCommand_wf _ _ h)) (.next (State.endCommand_wf _ _
      (wf_of_mem (State.modCtx_mem _ _ _) (State.holdGroups_wf _ _ _ h))))

theorem execCtxRetire_keeps (s : State) (h : s.mem.wf) : KeepsForm (execCtxRetire s) := by
  unfold execCtxRetire
  split
  · exact .next h
  · refine .ite (.next (State.endCommand_wf _ _ h)) ?_
    dsimp only
    exact .next (wf_of_mem (State.stopGroups_mem _ _) h)

theorem State.retired_wf (s : State) (ctx : Nat) (h : s.mem.wf) : (s.retired ctx).mem.wf := State.endCommand_wf _ _ h

theorem execRetirementRecord_keeps (ctx : Nat) (s : State) (h : s.mem.wf) : KeepsForm (execRetirementRecord ctx s) := by
  unfold execRetirementRecord
  refine .ite (.next h) ?_
  split
  · next s1 h1 => exact .next (State.retired_wf _ _ (State.takeSeq_wf _ (State.iaWrite_wf s s1 _ _ h h1)))
  · exact .next (State.pageNotice_wf _ _ _ _ _ _ h)
  · exact .next (State.retired_wf _ _ (State.contextFault_wf _ _ _ h))
  · exact .fault _
  · exact .refused _

/-! ### Teardown and the scrub -/

theorem State.dropTeams_wf (s : State) (p : Team → Bool) (h : s.mem.wf) : (s.dropTeams p).mem.wf := by
  unfold State.dropTeams
  dsimp only
  exact wf_foldl _ _ _ h (fun _ _ hs => State.clearScratch_wf _ _ hs)

theorem State.dropWork_wf (s : State) (ctx : Nat) (h : s.mem.wf) : (s.dropWork ctx).mem.wf := by
  unfold State.dropWork
  dsimp only
  exact State.dropTeams_wf _ _ h

theorem State.clearLeaves_wf (s : State) (l : List LayerDesc) (h : s.mem.wf) : (s.clearLeaves l).mem.wf :=
  wf_foldl _ _ _ h (fun _ _ hs => State.setLeaves_wf _ _ _ _ _ hs)

theorem State.freeCtx_wf (s : State) (ctx : Nat) (h : s.mem.wf) : (s.freeCtx ctx).mem.wf := h

theorem State.leaveBlocks_wf (s : State) (ctx : Nat) (blocks : List Nat) (h : s.mem.wf) : (s.leaveBlocks ctx blocks).mem.wf := by
  unfold State.leaveBlocks
  dsimp only
  exact h

theorem State.teardown_wf (s : State) (ctx : Nat) (h : s.mem.wf) : (s.teardown ctx).mem.wf := by
  unfold State.teardown
  dsimp only
  exact wf_ite (State.endCommand_wf _ _ (State.log_wf _ _ _ _ _ (State.clearLeaves_wf _ _ h))) (State.endCommand_wf _ _
      (State.freeCtx_wf _ _ (State.leaveBlocks_wf _ _ _ (State.dropWork_wf _ _ (State.clearLeaves_wf _ _ h)))))

theorem execCtxTeardown_keeps (s00 : State) (h : s00.mem.wf) : KeepsForm (execCtxTeardown s00) := by
  unfold execCtxTeardown
  split
  · exact .next h
  · refine .ite (.next (State.endCommand_wf _ _ h)) (.ite (.next h) ?_)
    dsimp only
    split
    · exact .next (State.pageNotice_wf _ _ _ _ _ _ (State.touchTables_wf _ _ h))
    · exact .next (State.teardown_wf _ _ (State.contextFault_wf _ _ _ (State.touchTables_wf _ _ h)))
    · exact .next (State.teardown_wf _ _ (State.touchTables_wf _ _ h))

theorem State.scrubUnit_wf (s t : State) (ctx : Nat) (q : Quarantine) (ht : s.scrubUnit ctx q = .ok t) (h : s.mem.wf) :
    t.mem.wf := by
  unfold State.scrubUnit at ht
  dsimp only at ht
  split at ht
  · next hcore =>
    cases ht
    exact State.dropTeams_wf s (fun t => t.ctx == ctx && t.core == q.cores[q.done]) h
  split at ht
  · split at ht
    · cases ht
      exact State.zeroBytes_wf _ _ (State.iaTouch_wf _ _ _ h)
    · cases ht
  split at ht
  · cases ht
    exact h
  split at ht
  · cases ht
    exact h
  · next b _ _ =>
    cases ht
    exact State.freeBlock_wf _ ctx b (Memory.wf_filter _ _ h)

theorem State.scrubUnits_wf (s : State) (ctx n : Nat) (h : s.mem.wf) : (s.scrubUnits ctx n).1.mem.wf := by
  induction n generalizing s with
  | zero => exact h
  | succ n ih =>
    unfold State.scrubUnits
    split
    · exact h
    · split
      · next s1 h1 => exact ih s1 (State.scrubUnit_wf s s1 _ _ h1 h)
      · exact h

theorem State.scrubThen_keeps (s : State) (ctx n : Nat) (k : State → Out) (h : s.mem.wf) (hk : ∀ t, t.mem.wf → KeepsForm (k t)) :
    KeepsForm (s.scrubThen ctx n k) := by
  have hunits := State.scrubUnits_wf s ctx n h
  unfold State.scrubThen
  generalize s.scrubUnits ctx n = r at hunits ⊢
  split
  · exact hk _ hunits
  · exact .next (State.pageNotice_wf _ _ _ _ _ _ hunits)
  · exact .next (State.contextFault_wf _ _ _ hunits)
  · exact .fault _
  · exact .refused _

theorem execScrubComplete_keeps (ctx : Nat) (s : State) (h : s.mem.wf) : KeepsForm (execScrubComplete ctx s) := by
  unfold execScrubComplete
  split
  · refine State.scrubThen_keeps _ _ _ _ h (fun _ hs => ?_)
    dsimp only
    exact .next (State.log_wf _ _ _ _ _ (State.freeCtx_wf _ ctx (State.dropWork_wf _ _ hs)))
  · exact .next h

/-! ### Current, heat and power states -/

theorem State.endDelay_wf (s : State) (terrace : Nat) (h : s.mem.wf) : (s.endDelay terrace).mem.wf := by
  unfold State.endDelay
  dsimp only
  exact wf_ite h h

theorem execReservationGrant_keeps (district : Nat) (s0 : State) (h : s0.mem.wf) :
    KeepsForm (execReservationGrant district s0) := by
  unfold execReservationGrant
  dsimp only
  split
  · exact .next (State.endDelay_wf _ _ h)
  · refine .ite (.next (State.endDelay_wf _ _ h)) (.ite (.next (State.endDelay_wf _ _ h)) ?_)
    split <;> exact .next (State.endDelay_wf _ _ h)

theorem execPipeIdleRelease_keeps (core quarter : Nat) (s : State) (h : s.mem.wf) :
    KeepsForm (execPipeIdleRelease core quarter s) := by
  unfold execPipeIdleRelease
  split
  · exact .next h
  · exact .ite (.next h) (.next (wf_of_mem (State.modCore_mem _ _ _) (State.release_wf _ _ _ h)))

theorem State.measure_wf (s : State) (terrace heavier percent : Nat) (h : s.mem.wf) :
    (s.measure terrace heavier percent).mem.wf := by
  unfold State.measure
  dsimp only
  exact h

theorem execTerraceDelaySet_keeps (terrace heavier : Nat) (s0 : State) (h : s0.mem.wf) :
    KeepsForm (execTerraceDelaySet terrace heavier s0) := by
  unfold execTerraceDelaySet
  dsimp only
  exact .ite (.next (State.endDelay_wf _ _ h)) (.next (State.endDelay_wf _ _ h))

theorem execTerraceDelayClear_keeps (terrace : Nat) (s0 : State) (h : s0.mem.wf) :
    KeepsForm (execTerraceDelayClear terrace s0) := by
  unfold execTerraceDelayClear
  dsimp only
  exact .ite (.next (State.endDelay_wf _ _ h)) (.next (State.endDelay_wf _ _ h))

theorem execDroopDetect_keeps (district : Nat) (s : State) (h : s.mem.wf) : KeepsForm (execDroopDetect district s) := by
  unfold execDroopDetect
  dsimp only
  exact .ite (.next h) (.next h)

theorem execSupplyRecovery_keeps (district : Nat) (s : State) (h : s.mem.wf) : KeepsForm (execSupplyRecovery district s) := by
  unfold execSupplyRecovery
  dsimp only
  exact .ite (.next h) (.next h)

theorem State.suspectDiscard_wf (s : State) (gid : Nat) (h : s.mem.wf) : (s.suspectDiscard gid).mem.wf :=
  State.settle_wf _ _ (wf_of_mem (State.discardGroup_mem _ _ _) h)

theorem execSuspectWindowOpen_keeps (district : Nat) (groups : List Nat) (s : State) (h : s.mem.wf) :
    KeepsForm (execSuspectWindowOpen district groups s) := by
  unfold execSuspectWindowOpen
  dsimp only
  refine .ite (.next h) ?_
  exact .next (wf_foldl _ _ _ (wf_foldl _ _ _ (State.log_wf _ _ _ _ _ h) (fun _ _ hs => State.strike_wf _ _ hs)) (fun _ _ hs =>
      State.suspectDiscard_wf _ _ hs))

theorem execSuspectWindowEnd_keeps (district : Nat) (s : State) (h : s.mem.wf) : KeepsForm (execSuspectWindowEnd district s) := by
  unfold execSuspectWindowEnd
  dsimp only
  exact .ite (.next h) (.next h)

theorem execThermalReading_keeps (core engine celsius : Nat) (s : State) (h : s.mem.wf) :
    KeepsForm (execThermalReading core engine celsius s) := by
  unfold execThermalReading
  refine .ite (.next h) ?_
  dsimp only
  exact .ite (.next (State.govSync_wf _ core h)) (.next (State.log_wf _ _ _ _ _ (State.govSync_wf _ core h)))

theorem execDistrictHold_keeps (district : Nat) (s : State) (h : s.mem.wf) : KeepsForm (execDistrictHold district s) := by
  unfold execDistrictHold
  exact .ite (.next (wf_of_mem (State.modDistrict_mem _ _ _) (State.stopClocks_wf _ _ h))) (.next h)

theorem execDistrictDrain_keeps (district : Nat) (s : State) (h : s.mem.wf) : KeepsForm (execDistrictDrain district s) := by
  unfold execDistrictDrain
  dsimp only
  exact .ite (.next h) (.next h)

theorem execDistrictOff_keeps (district : Nat) (s : State) (h : s.mem.wf) : KeepsForm (execDistrictOff district s) := by
  unfold execDistrictOff
  dsimp only
  exact .ite (.next h) (.ite (.next (State.wakeDistrict_wf _ _ h)) (.next h))

theorem State.setArbiter_wf (s : State) (tower : Nat) (r : Inrush) (h : s.mem.wf) : (s.setArbiter tower r).mem.wf := h

theorem execInrushRampStart_keeps (tower : Nat) (s : State) (h : s.mem.wf) : KeepsForm (execInrushRampStart tower s) := by
  unfold execInrushRampStart
  dsimp only
  split
  · exact .next h
  · exact .ite (.next (State.setArbiter_wf _ _ _ h)) (.next h)

theorem State.freshClocks_wf (s : State) (d : Nat) (h : s.mem.wf) : (s.freshClocks d).mem.wf := by
  unfold State.freshClocks
  refine wf_foldl _ _ _ h (fun _ _ hs => ?_)
  dsimp only
  exact hs

theorem State.unitOff_wf (s : State) (tower unit : Nat) (h : s.mem.wf) : (s.unitOff tower unit).mem.wf := by
  unfold State.unitOff
  dsimp only
  exact wf_ite h (State.setArbiter_wf _ _ _ h)

theorem State.unitWake_wf (s : State) (tower unit : Nat) (h : s.mem.wf) : (s.unitWake tower unit).mem.wf := by
  unfold State.unitWake
  dsimp only
  exact wf_ite h (State.setArbiter_wf _ _ _ h)

theorem execInrushRampComplete_keeps (tower unit : Nat) (s : State) (h : s.mem.wf) :
    KeepsForm (execInrushRampComplete tower unit s) := by
  unfold execInrushRampComplete
  dsimp only
  split
  · exact .next h
  · have ha : ∀ r, (s.setArbiter tower r).mem.wf := fun r => State.setArbiter_wf s tower r h
    exact .ite (.next h) (.ite (.next (wf_of_mem (State.modDistrict_mem _ _ _) (State.freshClocks_wf _ _ (ha _)))) (.next (ha _)))

/-! ### Errors -/

theorem execCorrectedError_keeps (unit : ErrUnit) (addr : Nat) (s : State) (h : s.mem.wf) :
    KeepsForm (execCorrectedError unit addr s) := by
  unfold execCorrectedError
  split
  · exact .next h
  · dsimp only
    exact .next (State.log_wf _ _ _ _ _ h)

theorem State.logUnit_wf (s : State) (unit : ErrUnit) (core ctx addr : Nat) (h : s.mem.wf) :
    (s.logUnit unit core ctx addr).mem.wf := State.log_wf _ _ _ _ _ h

theorem State.poisonReg_wf (s : State) (gid reg : Nat) (lanes : BitVec 64) (pc : Nat) (h : s.mem.wf) :
    (s.poisonReg gid reg lanes pc).mem.wf := State.groupFault_wf _ _ _ _ _ _ h

theorem execRegisterEccError_keeps (gid reg : Nat) (lanes : BitVec 64) (s : State) (h : s.mem.wf) :
    KeepsForm (execRegisterEccError gid reg lanes s) := by
  unfold execRegisterEccError
  split
  · exact .next h
  · exact .ite (.next h) (.next (State.poisonReg_wf _ _ _ _ _ (State.logUnit_wf _ _ _ _ _ h)))

theorem State.errorDiscard_wf (s : State) (gid : Nat) (h : s.mem.wf) : (s.errorDiscard gid).mem.wf :=
  State.settle_wf _ _ (wf_of_mem (State.discardGroup_mem _ _ _) h)

theorem execGroupStateParityError_keeps (gid : Nat) (s : State) (h : s.mem.wf) : KeepsForm (execGroupStateParityError gid s) := by
  unfold execGroupStateParityError
  split
  · exact .next h
  · dsimp only
    refine .ite (.next (State.groupFault_wf _ _ _ _ _ _ (State.logUnit_wf _ _ _ _ _ h))) ?_
    exact .next (State.errorDiscard_wf _ _ (State.logUnit_wf _ _ _ _ _ h))

theorem execPipelineError_keeps (gid : Nat) (s : State) (h : s.mem.wf) : KeepsForm (execPipelineError gid s) := by
  unfold execPipelineError
  split
  · exact .next h
  · exact .next (State.errorDiscard_wf _ _ (State.logUnit_wf _ _ _ _ _ h))

theorem State.poisonTarget_wf (s : State) (t : ErrTarget) (h : s.mem.wf) : (s.poisonTarget t).mem.wf := by
  cases t with
  | tile t i => exact h
  | regionRow t r row => exact h
  | scratchLine t line => exact h
  | dramLine line =>
    unfold State.poisonTarget
    dsimp only
    split <;> exact h
  | l2Line line ia =>
    unfold State.poisonTarget
    dsimp only
    split <;> exact h

theorem execMemoryEccError_keeps (target : ErrTarget) (s : State) (h : s.mem.wf) : KeepsForm (execMemoryEccError target s) := by
  have hp := State.poisonTarget_wf s target h
  unfold execMemoryEccError
  extract_lets team line
  have hteam : ∀ t unit addr, KeepsForm (team t unit addr) := fun t unit addr => by
    unfold team
    split
    · exact .next h
    · exact .next (State.logUnit_wf _ _ _ _ _ hp)
  have hline : ∀ l unit addr, KeepsForm (line l unit addr) := fun l unit addr => by
    unfold line
    split
    · exact .next h
    · exact .next (State.logUnit_wf _ _ _ _ _ hp)
  split
  · exact hteam _ _ _
  · exact hteam _ _ _
  · exact hteam _ _ _
  · exact hline _ _ _
  · exact hline _ _ _

theorem State.poisonRegs_wf (s : State) (gid : Nat) (h : s.mem.wf) : (s.poisonRegs gid).mem.wf :=
  State.groupFault_wf _ _ _ _ _ _ h

theorem State.loseBus_wf (s : State) (bus : Nat) (lost : List ErrTarget) (h : s.mem.wf) : (s.loseBus bus lost).mem.wf := by
  unfold State.loseBus
  refine wf_ite (wf_foldl _ _ _ h (fun s1 t hs => ?_)) (wf_foldl _ _ _ h (fun s1 _ hs => State.poisonRegs_wf _ _ hs))
  cases t with
  | l2Line line ia => exact State.poisonTarget_wf s1 (.dramLine line) hs
  | _ => exact State.poisonTarget_wf _ _ hs

theorem execBurstCheckFail_keeps (bus : Nat) (groups : List Nat) (result : BurstResult) (s : State) (h : s.mem.wf) :
    KeepsForm (execBurstCheckFail bus groups result s) := by
  unfold execBurstCheckFail
  have hdiscard : ∀ l : List Nat, (l.foldl (fun s g => s.errorDiscard g) s).mem.wf :=
    fun _ => wf_foldl _ _ _ h (fun _ _ hs => State.errorDiscard_wf _ _ hs)
  dsimp only
  refine .ite (.next h) ?_
  split
  · exact .next (State.log_wf _ _ _ _ _ (hdiscard _))
  · exact .next (State.log_wf _ _ _ _ _ (hdiscard _))
  · exact .next (State.log_wf _ _ _ _ _ (State.loseBus_wf _ _ _ (hdiscard _)))

/-! ### Keys and the black box -/

theorem execKeyLoad_keeps (value : BitVec 64) (s : State) (h : s.mem.wf) : KeepsForm (execKeyLoad value s) :=
  .ite (.next h) (.next h)

theorem State.keyLoaded_wf (s0 : State) (h : s0.mem.wf) : (s0.keyLoaded).mem.wf := by
  unfold State.keyLoaded
  split
  · exact h
  · dsimp only
    split
    · exact State.pageNotice_wf _ _ _ _ _ _ (State.iaTouch_wf _ _ _ h)
    · exact State.iaTouch_wf _ _ _ h
    · split <;> exact State.iaTouch_wf _ _ _ h

theorem State.startDump_wf (s : State) (addr : Nat) (h : s.mem.wf) : (s.startDump addr).mem.wf := State.takeSeq_wf _ h

theorem execBbDump_keeps (value : BitVec 64) (s : State) (h : s.mem.wf) : KeepsForm (execBbDump value s) := by
  unfold execBbDump
  dsimp only
  exact .ite (.next h) (.ite (.next h) (.next (State.startDump_wf _ _ h)))

theorem State.endDump_wf (s : State) (h : s.mem.wf) : (s.endDump).mem.wf := by
  unfold State.endDump
  dsimp only
  split
  · exact h
  · exact State.startDump_wf _ _ h

theorem execBbDumpComplete_keeps (s : State) (h : s.mem.wf) : KeepsForm (execBbDumpComplete s) := by
  unfold execBbDumpComplete
  split
  · exact .next h
  · split
    · next s1 h1 => exact .next (State.endDump_wf _ (State.iaWrite_wf s s1 _ _ h h1))
    · exact .next (State.pageNotice_wf _ _ _ _ _ _ h)
    · exact .next (State.endDump_wf _ h)
    · exact .fault _
    · exact .refused _

theorem execRstReq_keeps (value : BitVec 64) (s0 : State) (h : s0.mem.wf) : KeepsForm (execRstReq value s0) := by
  have ht := State.iaTouch_wf s0 value.toNat 32 h
  unfold execRstReq
  refine .ite (.next h) ?_
  split
  · exact State.outsideMiss_keeps _ _ ht
  · split
    · next s1 h1 => exact .next (State.iaWrite_wf _ s1 _ _ ht h1)
    · exact State.outsideMiss_keeps _ _ ht

/-! ### The staging cache -/

theorem execLayerArrival_keeps (ctx model layer : Nat) (s : State) (h : s.mem.wf) :
    KeepsForm (execLayerArrival ctx model layer s) := by
  unfold execLayerArrival
  dsimp only
  exact .ite (.next (State.putLayer_wf _ _ _ _ _ h)) (.next h)

theorem execLayerVictimChoice_keeps (ctx model layer : Nat) (s : State) (h : s.mem.wf) :
    KeepsForm (execLayerVictimChoice ctx model layer s) := by
  unfold execLayerVictimChoice
  dsimp only
  refine .ite (.next h) ?_
  split
  · exact .next h
  · exact .next (State.putLayer_wf _ _ _ _ _ h)

theorem execLayerEvictionComplete_keeps (ctx model layer : Nat) (s : State) (h : s.mem.wf) :
    KeepsForm (execLayerEvictionComplete ctx model layer s) := by
  unfold execLayerEvictionComplete
  dsimp only
  refine .ite (.next h) ?_
  exact .ite (.next (State.layerRequest_wf _ _ _ _ (State.putLayer_wf _ _ _ _ _ h))) (.next (State.putLayer_wf _ _ _ _ _ h))

theorem execFlashReadEccFail_keeps (page : Nat) (s : State) (h : s.mem.wf) : KeepsForm (execFlashReadEccFail page s) := by
  unfold execFlashReadEccFail
  dsimp only
  exact .next (State.retireBlock_wf _ _ _ (State.logUnit_wf _ _ _ _ _ h))

theorem execStkScrways_keeps (value : BitVec 64) (s : State) (h : s.mem.wf) : KeepsForm (execStkScrways value s) := by
  unfold execStkScrways
  dsimp only
  exact .ite (.next h) (.next h)

theorem execWayChangeComplete_keeps (s : State) (h : s.mem.wf) : KeepsForm (execWayChangeComplete s) := .next h

theorem execFlsStagebase_keeps (value : BitVec 64) (s : State) (h : s.mem.wf) : KeepsForm (execFlsStagebase value s) := by
  unfold execFlsStagebase
  dsimp only
  exact .ite (.next h) (.next h)

theorem execFlsStagesz_keeps (value : BitVec 64) (s : State) (h : s.mem.wf) : KeepsForm (execFlsStagesz value s) := by
  unfold execFlsStagesz
  dsimp only
  exact .ite (.next h) (.next h)

/-! ### Links, reset and bring-up -/

theorem State.setLink_wf (s : State) (l : Nat) (x : Link) (h : s.mem.wf) : (s.setLink l x).mem.wf := h

theorem State.linkTo_wf (s : State) (l : Nat) (x : Link) (h : s.mem.wf) : (s.linkTo l x).mem.wf :=
  State.linkEvent_wf _ _ _ (State.setLink_wf _ _ _ h)

theorem State.loseWrites_wf (s : State) (peer : Nat) (h : s.mem.wf) : (s.loseWrites peer).mem.wf := by
  unfold State.loseWrites
  dsimp only
  exact wf_foldl _ _ _ h (fun _ _ hs => wf_ite (State.landPeer_wf _ _ hs) hs)

theorem State.loseCommits_wf (s : State) (peer : Nat) (h : s.mem.wf) : (s.loseCommits peer).mem.wf := by
  unfold State.loseCommits
  dsimp only
  exact h

theorem State.cutGroup_wf (s : State) (peer gid : Nat) (h : s.mem.wf) : (s.cutGroup peer gid).mem.wf := by
  unfold State.cutGroup
  dsimp only
  split
  · exact h
  · exact State.groupFault_wf _ _ _ _ _ _ h

theorem State.cutCmd_wf (s : State) (peer id : Nat) (h : s.mem.wf) : (s.cutCmd peer id).mem.wf := by
  unfold State.cutCmd
  split
  · exact h
  · split
    · exact h
    · dsimp only
      exact State.cmdFail_wf _ _ _ _ _ h

theorem State.cutPeer_wf (s : State) (peer : Nat) (h : s.mem.wf) : (s.cutPeer peer).mem.wf := by
  unfold State.cutPeer
  dsimp only
  exact wf_foldl _ _ _ (wf_foldl _ _ _ h (fun _ _ hs => State.cutCmd_wf _ _ _ hs)) (fun _ _ hs => State.cutGroup_wf _ _ _ hs)

theorem State.advanceGen_wf (s : State) (peer : Nat) (h : s.mem.wf) : (s.advanceGen peer).mem.wf := by
  unfold State.advanceGen
  dsimp only
  exact State.cutPeer_wf _ _ (State.log_wf _ _ _ _ _ (State.loseCommits_wf _ _ (State.loseWrites_wf _ _ h)))

theorem State.dropLink_wf (s : State) (l : Nat) (h : s.mem.wf) : (s.dropLink l).mem.wf :=
  wf_foldl _ _ _ (State.linkTo_wf _ _ _ h) (fun _ _ hs => State.advanceGen_wf _ _ hs)

theorem execLinkDown_keeps (link : Nat) (s : State) (h : s.mem.wf) : KeepsForm (execLinkDown link s) :=
  .ite (.next (State.dropLink_wf _ _ h)) (.next h)

theorem State.flitPasses_wf (s : State) (l : Nat) (h : s.mem.wf) : (s.flitPasses l).mem.wf := State.setLink_wf _ _ _ h

theorem execLinkCrcFail_keeps (link : Nat) (s : State) (h : s.mem.wf) : KeepsForm (execLinkCrcFail link s) := by
  unfold execLinkCrcFail
  dsimp only
  exact .ite (.next h) (.ite (.next (State.dropLink_wf _ _ h)) (.next (State.setLink_wf _ _ _ h)))

theorem execLinkTrainStart_keeps (link : Nat) (s : State) (h : s.mem.wf) : KeepsForm (execLinkTrainStart link s) :=
  .ite (.next (State.linkTo_wf _ _ _ h)) (.next h)

theorem execLinkTrainResult_keeps (link : Nat) (lanes : Option Nat) (s : State) (h : s.mem.wf) :
    KeepsForm (execLinkTrainResult link lanes s) := by
  unfold execLinkTrainResult
  refine .ite (.next h) ?_
  split
  · exact .next (State.linkTo_wf _ _ _ h)
  · exact .ite (.next (State.linkTo_wf _ _ _ h)) (.next h)

theorem execLinkIdentComplete_keeps (link peerLink : Nat) (devid : List (BitVec 8)) (s : State) (h : s.mem.wf) :
    KeepsForm (execLinkIdentComplete link peerLink devid s) := by
  unfold execLinkIdentComplete
  dsimp only
  exact .ite (.next h) (.next (State.linkTo_wf _ _ _ h))

theorem execRlRouteWrite_keeps (peer : Nat) (value : BitVec 64) (s : State) (h : s.mem.wf) :
    KeepsForm (execRlRouteWrite peer value s) := .ite (.next h) (.next h)

theorem execHostLinkRetry_keeps (link : Nat) (trained : Bool) (s : State) (h : s.mem.wf) :
    KeepsForm (execHostLinkRetry link trained s) := by
  unfold execHostLinkRetry
  dsimp only
  exact .ite (.next h) (.next h)

theorem State.loseAll_wf (s : State) (h : s.mem.wf) : (s.loseAll).mem.wf :=
  wf_foldl _ _ _ h (fun _ _ hs => State.loseWrites_wf _ _ hs)

theorem State.dropLine_wf (s : State) (line : Nat) (h : s.mem.wf) : (s.dropLine line).mem.wf := by
  unfold State.dropLine
  split
  · exact h
  · exact Memory.wf_foldl _ _ _ h (fun m _ hm => Memory.wf_set m _ _ hm)

/-- A device reset keeps a part of what memory held: the bytes outside the scratchpads, and after a power-on those outside DRAM. -/
theorem execDeviceReset_keeps (powerOn : Bool) (s : State) (h : s.mem.wf) : KeepsForm (execDeviceReset powerOn s) := by
  unfold execDeviceReset
  refine .next (Memory.wf_filter _ _ (wf_foldl _ _ _ (wf_foldl _ _ _ (State.loseAll_wf s h) (fun s c hs => ?_))
    (fun s l hs => State.dropLine_wf _ _ hs)))
  exact wf_ite hs (wf_of_mem (State.logRaw_mem _ _ _ _ _) hs)

theorem State.stepDone_wf (s : State) (step : Nat) (h : s.mem.wf) : (s.stepDone step).mem.wf := by
  unfold State.stepDone
  split
  · exact wf_of_mem (State.logRaw_mem _ _ _ _ _) h
  · dsimp only
    exact wf_foldl _ _ _ h (fun _ _ hs => wf_of_mem (State.logRaw_mem _ _ _ _ _) hs)
  · exact h
  · exact h

theorem State.stepFail_wf (s : State) (step cls unit : Nat) (h : s.mem.wf) : (s.stepFail step cls unit).mem.wf := by
  unfold State.stepFail
  dsimp only
  exact wf_ite h (wf_of_mem (State.logRaw_mem _ _ _ _ _) h)

theorem execBringupStep_keeps (failed : Option (Nat × Nat)) (s : State) (h : s.mem.wf) :
    KeepsForm (execBringupStep failed s) := by
  unfold execBringupStep
  dsimp only
  split
  · exact .ite (.next h) (.next (State.stepDone_wf _ _ h))
  · exact .ite (.next h) (.ite (.next (State.stepFail_wf _ _ _ _ h)) (.ite (.next h) (.next h)))

/-! ### Registers and the host -/

theorem State.writeFc_keeps (s : State) (i v : Nat) (h : s.mem.wf) : KeepsForm (s.writeFc i v) := by
  unfold State.writeFc
  split
  · exact .next h
  · exact .next h
  · exact execFcBell_keeps _ _ h
  · exact .next h
  · exact .next h

theorem State.writeXl_keeps (s : State) (i v : Nat) (h : s.mem.wf) : KeepsForm (s.writeXl i v) := by
  unfold State.writeXl
  split
  · exact .next h
  · exact .next h
  · exact execXlInv_keeps _ _ h
  · exact execXlResume_keeps _ _ h
  · exact .next h
  · exact .ite (execXlRangeWrite_keeps _ _ _ _ h) (.next h)

theorem State.syncQuarantine_wf (s : State) (ctx : Nat) (h : s.mem.wf) : (s.syncQuarantine ctx).mem.wf := by
  unfold State.syncQuarantine
  split
  · exact h
  · dsimp only
    exact h

theorem State.writeCc_keeps (s : State) (i v : Nat) (h : s.mem.wf) : KeepsForm (s.writeCc i v) := by
  unfold State.writeCc
  dsimp only
  split
  · exact .next h
  · exact .next h
  · exact execRstReq_keeps _ _ h
  · exact .ite (.next h) (.ite (.next (State.syncQuarantine_wf _ _ h)) (.next h))

theorem State.writeStk_keeps (s : State) (i v : Nat) (h : s.mem.wf) : KeepsForm (s.writeStk i v) := by
  unfold State.writeStk
  split
  · exact execStkScrways_keeps _ _ h
  · exact execFlsStagebase_keeps _ _ h
  · exact execFlsStagesz_keeps _ _ h
  · exact .next h

theorem State.syncAll_wf (s : State) (cores : List Nat) (h : s.mem.wf) :
    (cores.foldl (fun s c => s.govSync c) s).mem.wf := wf_foldl _ _ _ h (fun s c hs => State.govSync_wf s c hs)

theorem State.writePwr_keeps (s : State) (i v : Nat) (h : s.mem.wf) : KeepsForm (s.writePwr i v) := by
  have hall := State.syncAll_wf s (List.range Config.cores) h
  unfold State.writePwr
  dsimp only
  generalize List.foldl _ s (List.range Config.cores) = s1 at hall ⊢
  split
  · exact .next h
  · exact .ite (.next h) (.next h)
  · exact .ite (.next h) (.next hall)
  · exact .ite (.next h) (.next h)
  · exact .next h
  · exact .next h
  · exact .ite (.next h) (.next h)
  · exact .next h

theorem State.writeId_keeps (s : State) (i v : Nat) (h : s.mem.wf) : KeepsForm (s.writeId i v) := by
  unfold State.writeId
  split
  · exact execKeyLoad_keeps _ _ h
  · exact execBbDump_keeps _ _ h
  · exact .ite (.next h) (.next h)
  · exact .ite (.next h) (.next h)
  · exact .next h
  · exact .next h
  · exact .next h
  · exact .next h
  · exact .next h

theorem State.dcrWrite_keeps (s : State) (i : Nat) (value : BitVec 64) (h : s.mem.wf) : KeepsForm (s.dcrWrite i value) := by
  unfold State.dcrWrite
  dsimp only
  refine .ite (.next h) ?_
  refine .ite (State.writeFc_keeps _ _ _ h) ?_
  refine .ite (State.writeXl_keeps _ _ _ h) ?_
  refine .ite (State.writeCc_keeps _ _ _ h) ?_
  refine .ite (State.writeStk_keeps _ _ _ h) ?_
  refine .ite (.next h) ?_
  exact .ite (State.writePwr_keeps _ _ _ h) (.ite (State.writeId_keeps _ _ _ h) (execRlRouteWrite_keeps _ _ _ h))

theorem execRegisterWrite_keeps (index : Nat) (value : BitVec 64) (s : State) (h : s.mem.wf) :
    KeepsForm (execRegisterWrite index value s) := State.dcrWrite_keeps _ _ _ h

theorem execHostBar0Access_keeps (link index : Nat) (value : Option (BitVec 64)) (s : State) (h : s.mem.wf) :
    KeepsForm (execHostBar0Access link index value s) := by
  unfold execHostBar0Access
  refine .ite (.next h) ?_
  split
  · exact State.dcrWrite_keeps _ _ _ h
  · exact .next h

theorem execHostBar2Access_keeps (offset : Nat) (count : Nat) (data : Option (List (BitVec 8))) (s : State) (h : s.mem.wf) :
    KeepsForm (execHostBar2Access offset count data s) := by
  unfold execHostBar2Access
  dsimp only
  refine .ite (.next h) ?_
  split
  · split
    · exact State.outsideMiss_keeps _ _ (State.iaTouch_wf _ _ _ h)
    · exact .ite (.next (State.iaTouch_wf _ _ _ h)) (.next (State.recallAll_wf _ _ _ (State.iaTouch_wf _ _ _ h)))
  · split
    · exact State.outsideMiss_keeps _ _ (State.iaTouch_wf _ _ _ h)
    · exact .ite (.next (State.iaTouch_wf _ _ _ h)) (.next (State.outsideWrite_wf _ _ (State.iaTouch_wf _ _ _ h)))

/-! ### System words -/

theorem execPrvr_keeps (f : FS) (s : State) (h : s.mem.wf) : KeepsForm (execPrvr f s) := lanewise_keeps h

theorem execPrvw_keeps (f : FS) (s : State) (h : s.mem.wf) : KeepsForm (execPrvw f s) := by
  unfold execPrvw
  refine stage_keeps _ _ _ _ h (fun x hs => ?_)
  have hfin := Issue.finish_keeps x x.g hs
  split
  · exact hfin
  · refine .ite ?_ (Issue.finish_keeps _ _ hs)
    split
    · next s1 h1 => exact State.dcrWrite_keeps _ _ _ (hfin s1 h1)
    · exact hfin

theorem State.clearRecord_wf (s0 : State) (ctx : Nat) (h : s0.mem.wf) : (s0.clearRecord ctx).mem.wf := by
  unfold State.clearRecord
  have h1 : (if (s0.ctx ctx).frecWait then s0.writeFault ctx else s0).mem.wf := wf_ite (State.writeFault_wf _ _ h) h
  dsimp only
  generalize (if (s0.ctx ctx).frecWait then s0.writeFault ctx else s0) = s at h1 ⊢
  refine wf_ite h1 ?_
  split
  · next t ht => exact State.iaWrite_wf s t _ _ h1 ht
  · exact State.pageNotice_wf _ _ _ _ _ _ (State.iaTouch_wf _ _ _ h1)
  · exact State.contextFault_wf _ _ _ h1
  · exact h1

theorem State.eret_wf (s : State) (ctx : Nat) (h : s.mem.wf) : (s.eret ctx).mem.wf := by
  unfold State.eret
  refine wf_ite h ?_
  dsimp only
  exact wf_foldl _ _ _ (State.clearRecord_wf _ _ h) (fun _ _ hs => State.settle_wf _ _ hs)

theorem execEret_keeps (f : FS) (s : State) (h : s.mem.wf) : KeepsForm (execEret f s) := by
  unfold execEret
  refine stage_keeps _ _ _ _ h (fun x hs => ?_)
  have hfin := Issue.finish_keeps x x.g hs
  split
  · exact hfin
  · split
    · next s1 h1 => exact .next (State.eret_wf _ _ (hfin s1 h1))
    · exact hfin

theorem execSysc_keeps (f : FS) (s : State) (h : s.mem.wf) : KeepsForm (execSysc f s) := by
  unfold execSysc
  refine stage_keeps _ _ _ _ h (fun _ hs => ?_)
  split
  · exact Issue.finish_keeps _ _ hs
  · refine .ite (Issue.await_keeps _ _ hs) ?_
    dsimp only
    exact Issue.finishS_keeps _ _ (State.makeVisible_wf _ _ hs)

theorem execServiceRequestConsumed_keeps (s : State) (h : s.mem.wf) : KeepsForm (execServiceRequestConsumed s) := by
  unfold execServiceRequestConsumed
  split <;> exact .next h

theorem execMtrr_keeps (f : FS) (s : State) (h : s.mem.wf) : KeepsForm (execMtrr f s) := by
  unfold execMtrr
  dsimp only
  refine stage_keeps _ _ _ _ h (fun _ hs => .ite (Issue.fault_keeps _ _ _ hs) (.ite (Issue.finish_keeps _ _ hs) ?_))
  split
  · exact .next h
  · exact Issue.finishS_keeps _ _ hs

theorem execMtrrComplete_keeps (op : Nat) (s : State) (h : s.mem.wf) : KeepsForm (execMtrrComplete op s) := by
  unfold execMtrrComplete
  split
  · exact .next h
  · split
    · dsimp only
      exact .next (State.settle_wf _ _ h)
    · exact .next h

theorem execSign_keeps (f : FS) (s : State) (h : s.mem.wf) : KeepsForm (execSign f s) := by
  unfold execSign
  dsimp only
  refine stage_keeps _ _ _ _ h (fun _ hs => ?_)
  split
  · exact Issue.finish_keeps _ _ hs
  · refine .ite (Issue.trap_keeps _ _ _ hs) (.ite (Issue.fault_keeps _ _ _ (Issue.visible_wf _ _ hs)) ?_)
    split
    · exact State.missOut_keeps _ _ _ _ _ (State.touchRange_wf _ _ _ _ _ _ (Issue.visible_wf _ _ hs))
    · exact .next h
    · exact Issue.finishS_keeps _ _ (State.takeSeq_wf _ (State.touchRange_wf _ _ _ _ _ _ (Issue.visible_wf _ _ hs)))

theorem execSignComplete_keeps (op : Nat) (s : State) (h : s.mem.wf) : KeepsForm (execSignComplete op s) := by
  unfold execSignComplete
  split
  · exact .next h
  · split
    · dsimp only
      refine .ite (.ite (.next h) (.next (State.settle_wf _ _ h))) ?_
      exact .ite (.next h) (.ite (.next (State.groupFault_wf _ _ _ _ _ _ h)) (.next h))
    · exact .next h

/-! ### What any instruction and any turn does -/

/-- Every instruction and every device step keeps the form: an arm for each row of the opcode table. -/
theorem exec_keeps (i : Instr) (s : State) (h : s.mem.wf) : KeepsForm (exec i s) := by
  cases i with
  | nop f => exact execNop_keeps f s h
  | bra f => exact execBra_keeps f s h
  | brx f => exact execBrx_keeps f s h
  | call f => exact execCall_keeps f s h
  | callx f => exact execCallx_keeps f s h
  | ret f => exact execRet_keeps f s h
  | exit f => exact execExit_keeps f s h
  | bnd f => exact execBnd_keeps f s h
  | rcv f => exact execRcv_keeps f s h
  | elect f => exact execElect_keeps f s h
  | yield f => exact execYield_keeps f s h
  | trap f => exact execTrap_keeps f s h
  | bkpt f => exact execBkpt_keeps f s h
  | tret f => exact execTret_keeps f s h
  | iadd f => exact execIadd_keeps f s h
  | isub f => exact execIsub_keeps f s h
  | iaddc f => exact execIaddc_keeps f s h
  | isubb f => exact execIsubb_keeps f s h
  | imul f => exact execImul_keeps f s h
  | imulh f => exact execImulh_keeps f s h
  | imad f => exact execImad_keeps f s h
  | imadw f => exact execImadw_keeps f s h
  | iabs f => exact execIabs_keeps f s h
  | ineg f => exact execIneg_keeps f s h
  | imin f => exact execImin_keeps f s h
  | imax f => exact execImax_keeps f s h
  | isad f => exact execIsad_keeps f s h
  | shl f => exact execShl_keeps f s h
  | shr f => exact execShr_keeps f s h
  | sha f => exact execSha_keeps f s h
  | rot f => exact execRot_keeps f s h
  | andw f => exact execAndw_keeps f s h
  | orw f => exact execOrw_keeps f s h
  | xorw f => exact execXorw_keeps f s h
  | notw f => exact execNotw_keeps f s h
  | andn f => exact execAndn_keeps f s h
  | lop3 f => exact execLop3_keeps f s h
  | popc f => exact execPopc_keeps f s h
  | clz f => exact execClz_keeps f s h
  | ctz f => exact execCtz_keeps f s h
  | brev f => exact execBrev_keeps f s h
  | bfx f => exact execBfx_keeps f s h
  | bfi f => exact execBfi_keeps f s h
  | prmt f => exact execPrmt_keeps f s h
  | lea f => exact execLea_keeps f s h
  | leaw f => exact execLeaw_keeps f s h
  | dp4 f => exact execDp4_keeps f s h
  | iaddImm f => exact execIaddImm_keeps f s h
  | imulImm f => exact execImulImm_keeps f s h
  | iminImm f => exact execIminImm_keeps f s h
  | imaxImm f => exact execImaxImm_keeps f s h
  | shlImm f => exact execShlImm_keeps f s h
  | shrImm f => exact execShrImm_keeps f s h
  | shaImm f => exact execShaImm_keeps f s h
  | rotImm f => exact execRotImm_keeps f s h
  | andImm f => exact execAndImm_keeps f s h
  | orImm f => exact execOrImm_keeps f s h
  | xorImm f => exact execXorImm_keeps f s h
  | leaImm f => exact execLeaImm_keeps f s h
  | bfxImm f => exact execBfxImm_keeps f s h
  | bfiImm f => exact execBfiImm_keeps f s h
  | prmtImm f => exact execPrmtImm_keeps f s h
  | fadd f => exact execFadd_keeps f s h
  | fsub f => exact execFsub_keeps f s h
  | fmul f => exact execFmul_keeps f s h
  | ffma f => exact execFfma_keeps f s h
  | fmin f => exact execFmin_keeps f s h
  | fmax f => exact execFmax_keeps f s h
  | fabs f => exact execFabs_keeps f s h
  | fneg f => exact execFneg_keeps f s h
  | fdiv f => exact execFdiv_keeps f s h
  | fsqrt f => exact execFsqrt_keeps f s h
  | frcp f => exact execFrcp_keeps f s h
  | frsq f => exact execFrsq_keeps f s h
  | fex2 f => exact execFex2_keeps f s h
  | flg2 f => exact execFlg2_keeps f s h
  | fsin f => exact execFsin_keeps f s h
  | fcos f => exact execFcos_keeps f s h
  | fflr f => exact execFflr_keeps f s h
  | fceil f => exact execFceil_keeps f s h
  | ftrunc f => exact execFtrunc_keeps f s h
  | frnd f => exact execFrnd_keeps f s h
  | ffrc f => exact execFfrc_keeps f s h
  | fclass f => exact execFclass_keeps f s h
  | fscale f => exact execFscale_keeps f s h
  | fgetexp f => exact execFgetexp_keeps f s h
  | fdot2 f => exact execFdot2_keeps f s h
  | faddImm f => exact execFaddImm_keeps f s h
  | fmulImm f => exact execFmulImm_keeps f s h
  | fminImm f => exact execFminImm_keeps f s h
  | fmaxImm f => exact execFmaxImm_keeps f s h
  | cvt f => exact execCvt_keeps f s h
  | cvq f => exact execCvq_keeps f s h
  | cvd f => exact execCvd_keeps f s h
  | packt f => exact execPackt_keeps f s h
  | unpkt f => exact execUnpkt_keeps f s h
  | pack f => exact execPack_keeps f s h
  | unpk f => exact execUnpk_keeps f s h
  | icmp f => exact execIcmp_keeps f s h
  | fcmp f => exact execFcmp_keeps f s h
  | plop f => exact execPlop_keeps f s h
  | pmov f => exact execPmov_keeps f s h
  | sel f => exact execSel_keeps f s h
  | mov f => exact execMov_keeps f s h
  | movi f => exact execMovi_keeps f s h
  | movx f => exact execMovx_keeps f s h
  | movxs f => exact execMovxs_keeps f s h
  | shfl f => exact execShfl_keeps f s h
  | vote f => exact execVote_keeps f s h
  | ballot f => exact execBallot_keeps f s h
  | lred f => exact execLred_keeps f s h
  | bcast f => exact execBcast_keeps f s h
  | srd f => exact execSrd_keeps f s h
  | swr f => exact execSwr_keeps f s h
  | ld f => exact execLd_keeps f s h
  | st f => exact execSt_keeps f s h
  | lds f => exact execLds_keeps f s h
  | sts f => exact execSts_keeps f s h
  | ldq f => exact execLdq_keeps f s h
  | atom f => exact execAtom_keeps f s h
  | atoms f => exact execAtoms_keeps f s h
  | red f => exact execRed_keeps f s h
  | prf f => exact execPrf_keeps f s h
  | tbinit f => exact execTbinit_keeps f s h
  | tbexp f => exact execTbexp_keeps f s h
  | tbarv f => exact execTbarv_keeps f s h
  | tbtest f => exact execTbtest_keeps f s h
  | waita f => exact execWaita_keeps f s h
  | fence f => exact execFence_keeps f s h
  | bar f => exact execBar_keeps f s h
  | barc f => exact execBarc_keeps f s h
  | tcfg f => exact execTcfg_keeps f s h
  | tld f => exact execTld_keeps f s h
  | tst f => exact execTst_keeps f s h
  | tzero f => exact execTzero_keeps f s h
  | mxa f => exact execMxa_keeps f s h
  | acz f => exact execAcz_keeps f s h
  | acv f => exact execAcv_keeps f s h
  | acld f => exact execAcld_keeps f s h
  | acst f => exact execAcst_keeps f s h
  | cpy f => exact execCpy_keeps f s h
  | cpyl f => exact execCpyl_keeps f s h
  | hred f => exact execHred_keeps f s h
  | hgat f => exact execHgat_keeps f s h
  | hfetch f => exact execHfetch_keeps f s h
  | lyrq f => exact execLyrq_keeps f s h
  | inst f => exact execInst_keeps f s h
  | instqQuery f => exact execInstqQuery_keeps f s h
  | instqAbort f => exact execInstqAbort_keeps f s h
  | prvr f => exact execPrvr_keeps f s h
  | prvw f => exact execPrvw_keeps f s h
  | eret f => exact execEret_keeps f s h
  | sysc f => exact execSysc_keeps f s h
  | mtrr f => exact execMtrr_keeps f s h
  | sign f => exact execSign_keeps f s h
  | clauseStart gid lane => exact execClauseStart_keeps gid lane s h
  | strandCommit gid => exact execStrandCommit_keeps gid s h
  | stashWriteback team line => exact execStashWriteback_keeps team line s h
  | waitaRecheck gid lane => exact execWaitaRecheck_keeps gid lane s h
  | waitaTimeout gid lane => exact execWaitaTimeout_keeps gid lane s h
  | loadComplete op => exact execLoadComplete_keeps op s h
  | atomComplete op => exact execAtomComplete_keeps op s h
  | funcResultWrite op => exact execFuncResultWrite_keeps op s h
  | tileTransferComplete op => exact execTileTransferComplete_keeps op s h
  | accTransferComplete op => exact execAccTransferComplete_keeps op s h
  | acvComplete op => exact execAcvComplete_keeps op s h
  | mxaStart cmd => exact execMxaStart_keeps cmd s h
  | matrixResidueMismatch cmd pass => exact execMatrixResidueMismatch_keeps cmd pass s h
  | mxaComplete cmd => exact execMxaComplete_keeps cmd s h
  | workSteal engine => exact execWorkSteal_keeps engine s h
  | copySectorLand cmd row sector => exact execCopySectorLand_keeps cmd row sector s h
  | homeSliceStep isCmd id step => exact execHomeSliceStep_keeps isCmd id step s h
  | hgatResponse cmd first count => exact execHgatResponse_keeps cmd first count s h
  | engineAccessFault cmd step => exact execEngineAccessFault_keeps cmd step s h
  | engineLineFinish cmd line => exact execEngineLineFinish_keeps cmd line s h
  | instComplete cmd verified failed => exact execInstComplete_keeps cmd verified failed s h
  | signComplete op => exact execSignComplete_keeps op s h
  | mtrrComplete op => exact execMtrrComplete_keeps op s h
  | serviceRequestConsumed => exact execServiceRequestConsumed_keeps s h
  | groupSwap gid => exact execGroupSwap_keeps gid s h
  | groupResourcesFree gid => exact execGroupResourcesFree_keeps gid s h
  | compaction team place => exact execCompaction_keeps team place s h
  | teamPlacement phase tower cores slots => exact execTeamPlacement_keeps phase tower cores slots s h
  | teamMigration team core slots => exact execTeamMigration_keeps team core slots s h
  | teamEnd team => exact execTeamEnd_keeps team s h
  | fcBell queue => exact execFcBell_keeps queue s h
  | quantumBoundary => exact execQuantumBoundary_keeps s h
  | phaseStart queue => exact execPhaseStart_keeps queue s h
  | dependenceRecheck queue => exact execDependenceRecheck_keeps queue s h
  | phaseComplete phase => exact execPhaseComplete_keeps phase s h
  | stallAll core ctx => exact execStallAll_keeps core ctx s h
  | contextSwitch core ctx => exact execContextSwitch_keeps core ctx s h
  | ctxCreate => exact execCtxCreate_keeps s h
  | ctxHalt => exact execCtxHalt_keeps s h
  | haltTeamSave team => exact execHaltTeamSave_keeps team s h
  | ctxResume => exact execCtxResume_keeps s h
  | ctxRetire => exact execCtxRetire_keeps s h
  | retirementRecord ctx => exact execRetirementRecord_keeps ctx s h
  | ctxTeardown => exact execCtxTeardown_keeps s h
  | ctxCmdInvalid => exact execCtxCmdInvalid_keeps s h
  | scrubComplete ctx => exact execScrubComplete_keeps ctx s h
  | xlRangeWrite reg word value => exact execXlRangeWrite_keeps reg word value s h
  | xlInv value => exact execXlInv_keeps value s h
  | xlInvComplete => exact execXlInvComplete_keeps s h
  | xlResume value => exact execXlResume_keeps value s h
  | stkScrways value => exact execStkScrways_keeps value s h
  | wayChangeComplete => exact execWayChangeComplete_keeps s h
  | flsStagebase value => exact execFlsStagebase_keeps value s h
  | flsStagesz value => exact execFlsStagesz_keeps value s h
  | keyLoad value => exact execKeyLoad_keeps value s h
  | bbDump value => exact execBbDump_keeps value s h
  | bbDumpComplete => exact execBbDumpComplete_keeps s h
  | rstReq value => exact execRstReq_keeps value s h
  | rlRouteWrite peer value => exact execRlRouteWrite_keeps peer value s h
  | registerWrite index value => exact execRegisterWrite_keeps index value s h
  | hostBar0Access link index value => exact execHostBar0Access_keeps link index value s h
  | hostBar2Access offset count data => exact execHostBar2Access_keeps offset count data s h
  | peerAccess peer ia act => exact execPeerAccess_keeps peer ia act s h
  | remoteWriteAck write => exact execRemoteWriteAck_keeps write s h
  | layerArrival ctx model layer => exact execLayerArrival_keeps ctx model layer s h
  | layerVictimChoice ctx model layer => exact execLayerVictimChoice_keeps ctx model layer s h
  | layerEvictionComplete ctx model layer => exact execLayerEvictionComplete_keeps ctx model layer s h
  | flashReadEccFail page => exact execFlashReadEccFail_keeps page s h
  | reservationGrant district => exact execReservationGrant_keeps district s h
  | pipeIdleRelease core quarter => exact execPipeIdleRelease_keeps core quarter s h
  | terraceDelaySet terrace heavier => exact execTerraceDelaySet_keeps terrace heavier s h
  | terraceDelayClear terrace => exact execTerraceDelayClear_keeps terrace s h
  | droopDetect district => exact execDroopDetect_keeps district s h
  | suspectWindowOpen district groups => exact execSuspectWindowOpen_keeps district groups s h
  | suspectWindowEnd district => exact execSuspectWindowEnd_keeps district s h
  | governorWindow core => exact execGovernorWindow_keeps core s h
  | thermalReading core engine celsius => exact execThermalReading_keeps core engine celsius s h
  | districtHold district => exact execDistrictHold_keeps district s h
  | districtDrain district => exact execDistrictDrain_keeps district s h
  | districtOff district => exact execDistrictOff_keeps district s h
  | inrushRampStart tower => exact execInrushRampStart_keeps tower s h
  | inrushRampComplete tower unit => exact execInrushRampComplete_keeps tower unit s h
  | correctedError unit addr => exact execCorrectedError_keeps unit addr s h
  | registerEccError gid reg lanes => exact execRegisterEccError_keeps gid reg lanes s h
  | groupStateParityError gid => exact execGroupStateParityError_keeps gid s h
  | pipelineError gid => exact execPipelineError_keeps gid s h
  | memoryEccError target => exact execMemoryEccError_keeps target s h
  | burstCheckFail bus groups result => exact execBurstCheckFail_keeps bus groups result s h
  | linkCrcFail link => exact execLinkCrcFail_keeps link s h
  | linkTrainStart link => exact execLinkTrainStart_keeps link s h
  | linkTrainResult link lanes => exact execLinkTrainResult_keeps link lanes s h
  | linkIdentComplete link peerLink devid => exact execLinkIdentComplete_keeps link peerLink devid s h
  | linkDown link => exact execLinkDown_keeps link s h
  | deviceReset powerOn => exact execDeviceReset_keeps powerOn s h
  | bringupStep failed => exact execBringupStep_keeps failed s h
  | hostLinkRetry link trained => exact execHostLinkRetry_keeps link trained s h
  | fenceComplete op => exact execFenceComplete_keeps op s h
  | supplyRecovery district => exact execSupplyRecovery_keeps district s h

theorem State.issueEntry_keeps (s : State) (gid : Nat) (e : Entry) (h : s.mem.wf) : KeepsForm (s.issueEntry gid e) := by
  unfold State.issueEntry
  split
  · exact .next h
  · refine .ite (exec_keeps _ _ h) ?_
    split
    · next i _ => exact exec_keeps i _ h
    · exact State.trapOut_keeps _ _ _ _ _ _ h
    · exact .next h

theorem State.markIssue_wf (s : State) (core q ctx gid : Nat) (h : s.mem.wf) : (s.markIssue core q ctx gid).mem.wf := h

theorem State.noted_keeps (s : State) (gid : Nat) (e : Entry) (o : Out) (ho : KeepsForm o) : KeepsForm (s.noted gid e o) := by
  cases o with
  | next t =>
    have hmark := State.markIssue_wf t (s.coreOf gid) (s.grp gid).quarter (s.grp gid).ctx gid (ho t rfl)
    exact .ite (.next (wf_ite (State.suspectDiscard_wf _ _ hmark) hmark)) ho
  | fault f => exact .fault f
  | refused r => exact .refused r

theorem State.issueNow_keeps (s : State) (gid : Nat) (e : Entry) (h : s.mem.wf) : KeepsForm (s.issueNow gid e) :=
  State.noted_keeps s gid e _ (State.issueEntry_keeps s gid e h)

theorem State.turn_keeps (s : State) (gid : Nat) (h : s.mem.wf) : KeepsForm (s.turn gid) := by
  unfold State.turn
  refine .ite (.next h) ?_
  dsimp only
  split
  · exact .next h
  · exact .ite (.ite (.next (State.request_wf _ _ _ _ h)) (.next h)) (.ite (State.issueNow_keeps _ _ _ h) (.next h))

theorem State.dualTurn_keeps (s : State) (gid : Nat) (h : s.mem.wf) : KeepsForm (s.dualTurn gid) := by
  have hturn := State.turn_keeps s gid h
  unfold State.dualTurn
  split
  · next s1 h1 =>
    have hs := hturn s1 h1
    refine .ite (.next hs) ?_
    split
    · exact .next hs
    · split
      · exact .next hs
      · exact .ite (State.issueNow_keeps _ _ _ hs) (.next hs)
  · exact hturn

theorem State.runTurn_keeps (s : State) (t : Turn) (h : s.mem.wf) : KeepsForm (s.runTurn t) := by
  cases t with
  | issue gid => exact State.turn_keeps _ _ h
  | dual gid => exact State.dualTurn_keeps _ _ h
  | event i => exact exec_keeps i s h
  | drain core => exact .next (State.drainTurn_wf _ _ h)
  | unchecked op bus => exact State.loadUnchecked_keeps _ _ _ h
  | checked bus => exact .next (State.beatsPass_wf _ _ h)
  | scrubUnit ctx => exact .ite (State.scrubThen_keeps _ _ _ _ h (fun _ ht => .next ht)) (.next h)
  | imbalance terrace heavier percent => exact .next (State.measure_wf _ _ _ _ h)
  | unitOff tower unit => exact .next (State.unitOff_wf _ _ _ h)
  | unitWake tower unit => exact .next (State.unitWake_wf _ _ _ h)
  | keyLoaded => exact .next (State.keyLoaded_wf _ h)
  | flitPasses link => exact .next (State.flitPasses_wf _ _ h)
  | idle _ | drift _ _ | unitDrift _ _ | evict _ | dirtied _ _ | eraseFails _ => exact .next h

/-! ### The default course -/

/-- Each of some moves keeps the form. -/
def AllKeep (l : List (State → Out)) : Prop := ∀ f ∈ l, ∀ s, s.mem.wf → KeepsForm (f s)

theorem AllKeep.nil : AllKeep [] := fun _ hf => by cases hf

theorem AllKeep.cons {f : State → Out} {l : List (State → Out)} (hf : ∀ s, s.mem.wf → KeepsForm (f s)) (hl : AllKeep l) :
    AllKeep (f :: l) := List.forall_mem_cons.mpr ⟨hf, hl⟩

theorem AllKeep.one {f : State → Out} (hf : ∀ s, s.mem.wf → KeepsForm (f s)) : AllKeep [f] := .cons hf .nil

theorem AllKeep.append {l m : List (State → Out)} (hl : AllKeep l) (hm : AllKeep m) : AllKeep (l ++ m) :=
  List.forall_mem_append.mpr ⟨hl, hm⟩

theorem AllKeep.ite {c : Prop} [Decidable c] {l m : List (State → Out)} (hl : AllKeep l) (hm : AllKeep m) :
    AllKeep (if c then l else m) := by
  split
  · exact hl
  · exact hm

theorem AllKeep.map {α : Type} {g : α → State → Out} {l : List α} (hg : ∀ a s, s.mem.wf → KeepsForm (g a s)) :
    AllKeep (l.map g) := List.forall_mem_map.mpr (fun a _ => hg a)

theorem AllKeep.flatMap {α : Type} {g : α → List (State → Out)} {l : List α} (hg : ∀ a, AllKeep (g a)) :
    AllKeep (l.flatMap g) := fun f hf => by
  obtain ⟨a, _, ha⟩ := List.mem_flatMap.mp hf
  exact hg a f ha

theorem AllKeep.filterMap {α : Type} {g : α → Option (State → Out)} {l : List α}
    (hg : ∀ a f, g a = some f → ∀ s, s.mem.wf → KeepsForm (f s)) : AllKeep (l.filterMap g) := fun f hf => by
  obtain ⟨a, _, ha⟩ := List.mem_filterMap.mp hf
  exact hg a f ha

theorem firstMove_keeps (l : List (State → Out)) (s : State) (hl : AllKeep l) (h : s.mem.wf) : KeepsForm (firstMove l s) := by
  induction l with
  | nil => exact .next h
  | cons f l ih =>
    have hf := hl f List.mem_cons_self s h
    unfold firstMove
    split
    · next t ht => exact .ite (ih (fun g hg => hl g (List.mem_cons_of_mem _ hg))) (.next (hf t ht))
    · exact hf

theorem opMoves_allKeep (id : Nat) (o : Op) : AllKeep (opMoves id o) := by
  unfold opMoves
  split
  · exact .one (execLoadComplete_keeps id)
  · exact .one (execAtomComplete_keeps id)
  · exact .append (.map (fun t => execHomeSliceStep_keeps false id t.lane)) (.one (execAtomComplete_keeps id))
  · exact .one (execFuncResultWrite_keeps id)
  · exact .one (execTileTransferComplete_keeps id)
  · exact .one (execTileTransferComplete_keeps id)
  · exact .one (execAccTransferComplete_keeps id)
  · exact .one (execAccTransferComplete_keeps id)
  · exact .one (execAcvComplete_keeps id)
  · exact .one (execMtrrComplete_keeps id)
  · exact .one (execSignComplete_keeps id)
  · exact .one (execFenceComplete_keeps id)
  · exact .nil

theorem cmdMoves_allKeep (id : Nat) (c : Cmd) : AllKeep (cmdMoves id c) := by
  unfold cmdMoves
  dsimp only
  split
  · exact .cons (execMxaStart_keeps id) (.one (execMxaComplete_keeps id))
  · exact .one (execCopySectorLand_keeps _ _ _)
  · exact .one (execCopySectorLand_keeps _ _ _)
  · exact .one (execHomeSliceStep_keeps _ _ _)
  · exact .one (execHomeSliceStep_keeps _ _ _)
  · exact .one (execHgatResponse_keeps _ _ _)
  · exact .one (execInstComplete_keeps _ _ _)
  · exact .nil

theorem failMoves_allKeep (id : Nat) (c : Cmd) : AllKeep (failMoves id c) := .one (execEngineAccessFault_keeps _ _)

theorem State.placeMoves_allKeep (s : State) (pid : Nat) (p : Phase) : AllKeep (s.placeMoves pid p) :=
  .map (fun _ => execTeamPlacement_keeps _ _ _ _)

theorem State.groupMoves_allKeep (s : State) (gid : Nat) (g : Group) : AllKeep (s.groupMoves gid g) := by
  refine .append (.append (.cons (execStrandCommit_keeps gid) (.one (execGroupResourcesFree_keeps gid)))
    (.ite (.one (execGroupSwap_keeps gid)) .nil)) (.flatMap (fun e => ?_))
  split
  · exact .cons (execWaitaRecheck_keeps _ _) (.one (execWaitaTimeout_keeps _ _))
  · exact .nil

theorem teamMoves_allKeep (e : Nat × Team) : AllKeep (teamMoves e) :=
  .append (.map (fun _ => execStashWriteback_keeps _ _)) (.cons (execHaltTeamSave_keeps _) (.one (execTeamEnd_keeps _)))

theorem queueMoves_allKeep (q : Nat) : AllKeep (queueMoves q) :=
  .cons (execDependenceRecheck_keeps q) (.one (execPhaseStart_keeps q))

theorem layerMoves_allKeep (e : Nat × Nat × Layer) : AllKeep (layerMoves e) := by
  unfold layerMoves
  dsimp only
  split
  · exact .cons (execLayerArrival_keeps _ _ _) (.one (execLayerVictimChoice_keeps _ _ _))
  · exact .one (execLayerEvictionComplete_keeps _ _ _)
  · exact .nil

theorem coreMoves_allKeep (core : Nat) (k : CoreSt) : AllKeep (coreMoves core k) := .map (fun _ => execContextSwitch_keeps _ _)

theorem powerMoves_allKeep (d : Nat) (x : District) : AllKeep (powerMoves d x) := by
  refine .append (.append (.filterMap (fun e f hf => ?_)) (.ite .nil (.one (execReservationGrant_keeps d)))) ?_
  · split at hf
    · cases hf
      exact execPipeIdleRelease_keeps _ _
    · cases hf
  · split
    · exact .one (execDistrictOff_keeps d)
    · exact .nil

theorem State.moves_allKeep (s : State) : AllKeep s.moves := by
  unfold State.moves
  refine .append (.append (.append (.append (.append (.append (.append (.append (.append (.append (.append (.append (.append (.append
    (.append (.append (.append (.append (.append (.append (.append (.append ?bringUp ?commits) ?beats) ?ops) ?cmds) ?power) ?acks)
    ?groups) ?fails) ?inv) ?ways) ?dump) ?contexts) ?teams) ?records) ?phases) ?layers) ?key) ?links) ?bells) ?queues) ?places) ?cores
  case bringUp => exact .ite (.one (execBringupStep_keeps none)) .nil
  case commits => exact .map (fun e s hs => .next (State.drainTurn_wf s e.1 hs))
  case beats => exact .flatMap (fun e => .map (fun b s hs => .next (State.beatsPass_wf s b.bus hs)))
  case ops => exact .flatMap (fun e => opMoves_allKeep e.1 e.2)
  case cmds => exact .flatMap (fun e => cmdMoves_allKeep e.1 e.2)
  case power => exact .flatMap (fun e => powerMoves_allKeep e.1 e.2)
  case acks => exact .map (fun e => execRemoteWriteAck_keeps e.1)
  case groups => exact .flatMap (fun e => s.groupMoves_allKeep e.1 e.2)
  case fails => exact .flatMap (fun e => failMoves_allKeep e.1 e.2)
  case inv => exact .ite (.one execXlInvComplete_keeps) .nil
  case ways => exact .ite (.one execWayChangeComplete_keeps) .nil
  case dump => exact .ite (.one execBbDumpComplete_keeps) .nil
  case contexts =>
    exact .ite .nil (.cons execCtxCmdInvalid_keeps (.cons execCtxCreate_keeps (.cons execCtxHalt_keeps (.cons execCtxResume_keeps
      (.cons execCtxRetire_keeps (.one execCtxTeardown_keeps))))))
  case teams => exact .flatMap teamMoves_allKeep
  case records => exact .map (fun e => execRetirementRecord_keeps e.1)
  case phases => exact .map (fun e => execPhaseComplete_keeps e.1)
  case layers => exact .flatMap layerMoves_allKeep
  case key => exact .ite (.one (fun s hs => .next (State.keyLoaded_wf s hs))) .nil
  case links => exact .map (fun e s hs => .next (State.flitPasses_wf s e.1 hs))
  case bells => exact .map execFcBell_keeps
  case queues => exact .flatMap (fun e => queueMoves_allKeep e.1)
  case places => exact .flatMap (fun e => s.placeMoves_allKeep e.1 e.2)
  case cores => exact .flatMap (fun e => coreMoves_allKeep e.1 e.2)

theorem State.idleMoves_allKeep (s : State) : AllKeep s.idleMoves :=
  .append (.append (.flatMap (fun t => .cons (execInrushRampStart_keeps t) (.map (fun u => execInrushRampComplete_keeps t u))))
    (.one execQuantumBoundary_keeps)) (.map (fun e => execScrubComplete_keeps e.1))

theorem State.schedule_keeps (s : State) (h : s.mem.wf) : KeepsForm s.schedule := by
  have hmoves := firstMove_keeps s.moves s s.moves_allKeep h
  unfold State.schedule
  split
  · next t ht =>
    refine .ite ?_ (.next (hmoves t ht))
    split
    · exact firstMove_keeps _ _ s.idleMoves_allKeep h
    · exact State.turn_keeps _ _ h
  · exact hmoves

/-! ### The step -/

theorem tickOut_keeps (o : Out) (ho : KeepsForm o) : KeepsForm (tickOut o) := by
  cases o with
  | next s => exact .next (ho s rfl)
  | fault f => exact .fault f
  | refused r => exact .refused r

theorem step_keeps (s : State) (h : s.mem.wf) : KeepsForm (step s) := by
  unfold step
  split
  · exact tickOut_keeps _ (State.runTurn_keeps _ _ h)
  · exact tickOut_keeps _ (State.schedule_keeps s h)

/-- Settles O60: memory at reset lists nothing, and `step_keeps` is the invariant's step. -/
theorem memoryKept : Obligations.MemoryKept := ⟨Memory.wf_nil, fun s t h ht => step_keeps s h t ht⟩

end Sys2Proof.Machine
end

section
/-! Where the lanes of a memory word go (R86, R191, R272): the addresses that they form, their places, and the lanes that park. -/

namespace Sys2Proof.Machine

/-! ### Lanes in order -/

theorem maskOf_lanesOf (m : Mask) : maskOf (lanesOf m) = m := by
  refine BitVec.eq_of_getLsbD_eq fun l hl => ?_
  rw [maskOf_bit _ _ hl]
  simp [mem_lanesOf]

theorem lanesOf_ne_nil {m : Mask} (h : m ≠ 0) : lanesOf m ≠ [] := by
  intro hn
  apply h
  rw [← maskOf_lanesOf m, hn]
  rfl

/-- The lanes of a set stand in rising order. -/
theorem lanesOf_split {m : Mask} {l : Nat} (h : m.getLsbD l = true) :
    ∃ pre post, lanesOf m = pre ++ l :: post ∧ ∀ k ∈ pre, k < l := by
  obtain ⟨pre, post, hm⟩ := List.append_of_mem ((mem_lanesOf m l).mpr h)
  refine ⟨pre, post, hm, fun k hk => ?_⟩
  have hs : (lanesOf m).Pairwise (· < ·) := List.pairwise_lt_range.filter _
  rw [hm, List.pairwise_append] at hs
  exact hs.2.2 k hk l List.mem_cons_self

theorem Issue.vals_congr (x : Issue) {a b : Nat → Nat} (h : ∀ l, x.pass.getLsbD l = true → a l = b l) : x.vals a = x.vals b :=
  List.map_congr_left fun l hl => by rw [h l ((mem_lanesOf _ _).mp hl)]

theorem Issue.any_vals (x : Issue) (a : Nat → Nat) (p : Nat → Bool) :
    (x.vals a).any (fun e => p e.2) = true ↔ ∃ l, x.pass.getLsbD l = true ∧ p (a l) = true := by
  simp [Issue.vals, mem_lanesOf]

/-! ### The record that RB names -/

theorem State.touchRange_same (s : State) (ctx tower : Nat) (kind : Acc) (va n : Nat) :
    SameButMemory s (s.touchRange ctx tower kind va n) := .foldl _ _ _ fun s _ => State.touchVa_same s _ _ _ _

/-- The first touch of a record changes memory only. -/
theorem Issue.touched_eq (x : Issue) (f : FM) :
    ∃ m p b, x.touched f = { x with s := { x.s with mem := m, poison := p, l2bad := b } } := by
  unfold Issue.touched
  split
  · have h : SameButMemory x.s (x.touchRecord f.rb.toNat).s := State.touchRange_same _ _ _ _ _ _
    exact ⟨_, _, _, congrArg (fun t => ({ x with s := t } : Issue)) h⟩
  · exact ⟨_, _, _, rfl⟩

theorem Issue.touched_pass (x : Issue) (f : FM) : (x.touched f).pass = x.pass := by
  obtain ⟨m, p, b, h⟩ := x.touched_eq f
  rw [h]

theorem Issue.touched_phase (x : Issue) (f : FM) : (x.touched f).phase = x.phase := by
  obtain ⟨m, p, b, h⟩ := x.touched_eq f
  rw [h]
  rfl

theorem Issue.touched_formed (x : Issue) (f : FM) (off : Int) (base l : Nat) :
    (x.touched f).formed f off base l = x.formed f off base l := by
  obtain ⟨m, p, b, h⟩ := x.touched_eq f
  rw [h]
  rfl

theorem Issue.touched_of_record (x : Issue) (f : FM) (hp : x.pass ≠ 0) (hr : f.rb.toNat < 0x80) :
    x.touched f = x.touchRecord f.rb.toNat := if_pos ⟨hp, hr⟩

theorem Issue.touched_of_base (x : Issue) (f : FM) (hr : 0x80 ≤ f.rb.toNat) : x.touched f = x :=
  if_neg fun h => by omega

/-! ### Addresses -/

/-- Where RB names no record, no base enters an address. -/
theorem Issue.formed_base (x : Issue) (f : FM) (off : Int) (a b l : Nat) (hr : 0x80 ≤ f.rb.toNat) :
    x.formed f off a l = x.formed f off b l := by
  simp [Issue.formed, hr]

theorem Issue.access_of_idle (x : Issue) (f : FM) (off : Int) (n : Nat) (perm : Option Nat) (k : Issue → List (Nat × Nat) → Out)
    (hp : x.pass = 0) : x.access f off n perm k = k x [] := if_pos hp

theorem Issue.access_of_missing (x : Issue) (f : FM) (off : Int) (n : Nat) (perm : Option Nat) (k : Issue → List (Nat × Nat) → Out)
    (hp : x.pass ≠ 0) (hr : f.rb.toNat < 0x80) (hm : x.phase.record.poolCount ≤ f.rb.toNat) :
    x.access f off n perm k = x.trap .recordRange 20 := by
  simp only [Issue.access, if_neg hp, if_pos hr, if_pos hm]

/-- The access with RB a record of the pool that can be read. -/
theorem Issue.access_of_record (x : Issue) (f : FM) (off : Int) (n : Nat) (perm : Option Nat) (k : Issue → List (Nat × Nat) → Out)
    (hp : x.pass ≠ 0) (hr : f.rb.toNat < 0x80) (hm : f.rb.toNat < x.phase.record.poolCount) (r : BufRec)
    (hrec : (x.touched f).record f.rb.toNat = .ok r) :
    x.access f off n perm k = match checkAccess (some r) n perm (x.vals (x.formed f off r.base)) with
      | some (c, p) => (x.touched f).trap c p
      | none => k (x.touched f) (x.vals (x.formed f off r.base)) := by
  rw [x.touched_of_record f hp hr] at hrec ⊢
  simp only [Issue.access, hp, hr, Nat.not_le.mpr hm, hrec, if_false, if_true]
  rfl

/-- The access with RB no record. -/
theorem Issue.access_of_base (x : Issue) (f : FM) (off : Int) (n : Nat) (perm : Option Nat) (k : Issue → List (Nat × Nat) → Out)
    (hp : x.pass ≠ 0) (hr : 0x80 ≤ f.rb.toNat) :
    x.access f off n perm k = match checkAccess none n perm (x.vals (x.formed f off 0)) with
      | some (c, p) => x.trap c p
      | none => k x (x.vals (x.formed f off 0)) := by
  simp only [Issue.access, hp, Nat.not_lt.mpr hr, if_false]
  rfl

/-! ### The checks of R191 -/

theorem Issue.checkAccess_align (x : Issue) (r : Option BufRec) (n : Nat) (perm : Option Nat) (a : Nat → Nat)
    (h : ∃ l, x.pass.getLsbD l = true ∧ a l % n ≠ 0) : checkAccess r n perm (x.vals a) = some (.align, 28) := by
  refine if_pos ((x.any_vals a (fun v => v % n != 0)).mpr ?_)
  simpa using h

theorem Issue.aligned_vals (x : Issue) (n : Nat) (a : Nat → Nat) (h : ∀ l, x.pass.getLsbD l = true → a l % n = 0) :
    (x.vals a).any (fun e => e.2 % n != 0) = false := by
  rw [Bool.eq_false_iff, ne_eq, x.any_vals a (fun v => v % n != 0)]
  simpa using h

theorem Issue.checkAccess_base (x : Issue) (n : Nat) (perm : Option Nat) (a : Nat → Nat)
    (h : ∀ l, x.pass.getLsbD l = true → a l % n = 0) : checkAccess none n perm (x.vals a) = none := by
  simp only [checkAccess, x.aligned_vals n a h, Bool.false_eq_true, if_false]

/-- An address leaves the range of the record. -/
theorem Issue.outside_vals (x : Issue) (r : BufRec) (n : Nat) (a : Nat → Nat) :
    (x.vals a).any (fun e => decide (e.2 < r.base) || decide (r.base + r.size < e.2 + n)) = true ↔
      ∃ l, x.pass.getLsbD l = true ∧ (a l < r.base ∨ r.base + r.size < a l + n) := by
  rw [x.any_vals a (fun v => decide (v < r.base) || decide (r.base + r.size < v + n))]
  simp

theorem Issue.checkAccess_refused (x : Issue) (r : BufRec) (n perm : Nat) (a : Nat → Nat)
    (ha : ∀ l, x.pass.getLsbD l = true → a l % n = 0)
    (h : bitOf r.flags perm = false ∨ (bitOf r.flags 3 = true ∧
      ∃ l, x.pass.getLsbD l = true ∧ (a l < r.base ∨ r.base + r.size < a l + n))) :
    checkAccess (some r) n (some perm) (x.vals a) = some (.recordRange, 20) := by
  simp only [checkAccess, x.aligned_vals n a ha, Bool.false_eq_true, if_false]
  rcases h with h | ⟨hchk, hout⟩
  · simp [h]
  · simp [hchk, (x.outside_vals r n a).mpr hout]

theorem Issue.checkAccess_granted (x : Issue) (r : BufRec) (n perm : Nat) (a : Nat → Nat)
    (ha : ∀ l, x.pass.getLsbD l = true → a l % n = 0) (hperm : bitOf r.flags perm = true)
    (hin : bitOf r.flags 3 = true → ∀ l, x.pass.getLsbD l = true → r.base ≤ a l ∧ a l + n ≤ r.base + r.size) :
    checkAccess (some r) n (some perm) (x.vals a) = none := by
  have hout : ¬ (bitOf r.flags 3 && (x.vals a).any (fun e => decide (e.2 < r.base) || decide (r.base + r.size < e.2 + n))) = true := by
    rw [Bool.and_eq_true, x.outside_vals]
    rintro ⟨hchk, l, hl, ho⟩
    have := hin hchk l hl
    omega
  simp only [checkAccess, x.aligned_vals n a ha, hperm, Bool.not_true, Bool.false_eq_true, if_false, if_neg hout]

/-- A word whose effect is an access makes the checks of R191. -/
theorem Issue.checks_of_access {x : Issue} {i : Instr} {s : State} {f : FM} {off : Int} {n perm : Nat}
    {k : Issue → List (Nat × Nat) → Out} (he : exec i s = x.access f off n (some perm) k) (hp : x.pass ≠ 0) :
    x.Checks i s f off n n perm where
  missing hr hm := he.trans (x.access_of_missing f off n _ k hp hr hm)
  aligned hr ha := by rw [he, x.access_of_base f off n _ k hp hr, x.checkAccess_align none n _ _ ha]
  record hm hr r hrec := by
    rw [he, x.access_of_record f off n _ k hp hr hm r hrec]
    refine ⟨fun ha => ?_, fun ha hd => ?_⟩
    · rw [x.checkAccess_align _ n _ _ ha]
    · rw [x.checkAccess_refused r n perm _ ha hd]

/-- A word whose lanes reach their addresses goes on with them. -/
theorem Issue.access_of_reaches {x : Issue} {f : FM} {off : Int} {n perm : Nat} {addr : Nat → Nat}
    (hp : x.pass ≠ 0) (h : (x.touched f).reaches f off n n perm addr) (k : Issue → List (Nat × Nat) → Out) :
    x.access f off n (some perm) k = k (x.touched f) (x.vals addr) := by
  obtain ⟨base, hrec, haddr⟩ := h
  simp only [x.touched_pass, x.touched_formed, x.touched_phase] at hrec haddr
  by_cases hr : f.rb.toNat < 0x80
  · obtain ⟨hm, r, hread, rfl, hperm, hin⟩ := hrec hr
    have hv : x.vals (x.formed f off r.base) = x.vals addr := x.vals_congr fun l hl => (haddr l hl).2.symm
    rw [x.access_of_record f off n _ k hp hr hm r hread, hv,
      x.checkAccess_granted r n perm addr (fun l hl => (haddr l hl).1) hperm hin]
  · have hb : 0x80 ≤ f.rb.toNat := Nat.not_lt.mp hr
    have hv : x.vals (x.formed f off 0) = x.vals addr :=
      x.vals_congr fun l hl => (x.formed_base f off 0 base l hb).trans (haddr l hl).2.symm
    rw [x.access_of_base f off n _ k hp hb, hv, x.checkAccess_base n _ addr (fun l hl => (haddr l hl).1), x.touched_of_base f hb]

/-! ### The places of the lanes -/

/-- A served lane brings its span to the places. -/
def okLane (r : Except Miss Span) (l : Nat) : Option (Nat × Span) := r.toOption.map (fun sp => (l, sp))

/-- A lane whose page is not present brings the page, the code of its notice and the level. -/
def awayLane (r : Except Miss Span) (l : Nat) : Option (Nat × Nat × Nat × Nat) :=
  match r with
  | .error (.absent page code level) => some (l, page, code, level)
  | _ => none

/-- The access is served, or its page is not present: it neither faults nor stops the machine. -/
def Stays (r : Except Miss Span) : Prop := (∃ sp, r = .ok sp) ∨ ∃ p c z, r = .error (.absent p c z)

theorem collect_concat_error {span : Nat → Except Miss Span} {a : List (Nat × Nat)} {m : Miss} (h : collect span a = .error m)
    (b : List (Nat × Nat)) : collect span (a ++ b) = .error m := by
  induction b using List.reverseRecOn with
  | nil => rw [List.append_nil, h]
  | append_singleton b e ih =>
    unfold collect at ih ⊢
    rw [← List.append_assoc, List.foldl_append, ih]
    rfl

theorem collect_concat_ok {span : Nat → Except Miss Span} {a : List (Nat × Nat)} {p : Places} (h : collect span a = .ok p)
    {l v : Nat} (hs : Stays (span v)) :
    collect span (a ++ [(l, v)]) = .ok ⟨p.ok ++ (okLane (span v) l).toList, p.parked ++ (awayLane (span v) l).toList⟩ := by
  unfold collect at h ⊢
  rw [List.foldl_append, h]
  rcases hs with ⟨sp, hs⟩ | ⟨page, c, z, hs⟩ <;> simp [hs, okLane, awayLane, Except.toOption]

theorem collect_concat_fault {span : Nat → Except Miss Span} {a : List (Nat × Nat)} {p : Places} (h : collect span a = .ok p)
    {l v c d : Nat} (hs : span v = .error (.fault c d)) : collect span (a ++ [(l, v)]) = .error (.fault c d) := by
  unfold collect at h ⊢
  rw [List.foldl_append, h]
  simp [hs]

/-- Where no access faults, the served lanes are placed and the others park. -/
theorem collect_stays (span : Nat → Except Miss Span) (addr : Nat → Nat) (ls : List Nat) (h : ∀ l ∈ ls, Stays (span (addr l))) :
    collect span (ls.map (fun l => (l, addr l))) =
      .ok ⟨ls.filterMap (fun l => okLane (span (addr l)) l), ls.filterMap (fun l => awayLane (span (addr l)) l)⟩ := by
  induction ls using List.reverseRecOn with
  | nil => rfl
  | append_singleton ls l ih =>
    rw [List.map_append, List.map_singleton, collect_concat_ok (ih fun k hk => h k (by simp [hk])) (h l (by simp))]
    simp [List.filterMap_eq_flatMap_toList]

/-- The lowest lane whose access faults decides. -/
theorem collect_fault (span : Nat → Except Miss Span) (addr : Nat → Nat) (pre post : List Nat) (l c d : Nat)
    (hpre : ∀ k ∈ pre, Stays (span (addr k))) (hl : span (addr l) = .error (.fault c d)) :
    collect span ((pre ++ l :: post).map (fun l => (l, addr l))) = .error (.fault c d) := by
  rw [List.append_cons, List.map_append, List.map_append, List.map_singleton]
  exact collect_concat_error (collect_concat_fault (collect_stays span addr pre hpre) hl) _

/-- The span that place looks up at an address. -/
def Issue.spanAt (x : Issue) (spad : Bool) (kind : Acc) (n : Nat) (s : State) (a : Nat) : Except Miss Span :=
  if spad then s.spadSpan x.tid kind (a % 2 ^ 32) n else s.globalSpan x.ctx kind n a

theorem Issue.placed_of_served {x : Issue} {spad : Bool} {kind : Acc} {n : Nat} {addr : Nat → Nat} {s1 : State}
    {locs : Nat → List Loc} {lines : Nat → List (Nat × Nat)} (h : x.served spad kind n addr s1 locs lines) :
    x.placed spad kind n addr s1 (fun l => .ok ⟨locs l, lines l⟩) := ⟨h.1, fun l hl => (h.2 l hl).symm⟩

theorem Issue.splits_of_ok (x : Issue) (sp : Nat → Span) :
    x.Splits (fun l => .ok (sp l)) ((lanesOf x.pass).map (fun l => (l, sp l))) [] :=
  ⟨by simp [Except.toOption], (List.filterMap_eq_nil_iff.mpr fun _ _ => rfl).symm, fun _ _ => .inl ⟨_, rfl⟩⟩

/-- The state after the first touches of the accesses. -/
def Issue.placeTouch (x : Issue) (spad : Bool) (kind : Acc) (n : Nat) (addrs : List (Nat × Nat)) : State :=
  addrs.foldl (fun s e =>
    if spad then s.spadTouch x.tid (e.2 % 2 ^ 32) n else s.touchRange x.ctx (towerOf x.team.core) kind e.2 n) x.s

theorem Issue.place_of_ok {x : Issue} {spad : Bool} {kind : Acc} {n : Nat} {addrs : List (Nat × Nat)} {p : Places}
    (h : collect (x.spanAt spad kind n (x.placeTouch spad kind n addrs)) addrs = .ok p) (point : Bool) (k : State → Places → Out) :
    x.place point spad kind n addrs k = k (x.placeTouch spad kind n addrs) p := by
  change (match collect (x.spanAt spad kind n (x.placeTouch spad kind n addrs)) addrs with
    | .error m => (({ x with s := x.placeTouch spad kind n addrs } : Issue).visible point).s.missOut x.gid x.e x.pass m
    | .ok p => k (x.placeTouch spad kind n addrs) p) = _
  rw [h]

theorem Issue.place_of_error {x : Issue} {spad : Bool} {kind : Acc} {n : Nat} {addrs : List (Nat × Nat)} {m : Miss}
    (h : collect (x.spanAt spad kind n (x.placeTouch spad kind n addrs)) addrs = .error m) (point : Bool)
    (k : State → Places → Out) : x.place point spad kind n addrs k =
      (({ x with s := x.placeTouch spad kind n addrs } : Issue).visible point).s.missOut x.gid x.e x.pass m := by
  change (match collect (x.spanAt spad kind n (x.placeTouch spad kind n addrs)) addrs with
    | .error m => (({ x with s := x.placeTouch spad kind n addrs } : Issue).visible point).s.missOut x.gid x.e x.pass m
    | .ok p => k (x.placeTouch spad kind n addrs) p) = _
  rw [h]

/-- A word of no lane places nothing. -/
theorem Issue.place_nil (x : Issue) (point spad : Bool) (kind : Acc) (n : Nat) (k : State → Places → Out) :
    x.place point spad kind n [] k = k x.s {} := Issue.place_of_ok rfl point k

/-- Where no access faults, the word goes on with the served lanes and those that park. -/
theorem Issue.place_of_splits {x : Issue} {spad : Bool} {kind : Acc} {n : Nat} {addr : Nat → Nat} {s1 : State}
    {span : Nat → Except Miss Span} {ok : List (Nat × Span)} {away : List (Nat × Nat × Nat × Nat)}
    (hpl : x.placed spad kind n addr s1 span) (hs : x.Splits span ok away) (point : Bool) (k : State → Places → Out) :
    x.place point spad kind n (x.vals addr) k = k s1 ⟨ok, away⟩ := by
  obtain ⟨rfl, hspan⟩ := hpl
  have hlane : ∀ l ∈ lanesOf x.pass, span l = x.spanAt spad kind n (x.placeTouch spad kind n (x.vals addr)) (addr l) :=
    fun l hl => hspan l ((mem_lanesOf _ _).mp hl)
  refine Issue.place_of_ok ?_ point k
  refine (collect_stays _ addr (lanesOf x.pass) fun l hl => ?_).trans ?_
  · rw [← hlane l hl]
    exact hs.only l ((mem_lanesOf _ _).mp hl)
  · rw [hs.served, hs.parked]
    refine congrArg _ (congrArg₂ Places.mk (List.filterMap_congr fun l hl => ?_) (List.filterMap_congr fun l hl => ?_))
    · rw [← hlane l hl]
      rfl
    · rw [← hlane l hl]
      rcases hs.only l ((mem_lanesOf _ _).mp hl) with ⟨sp, h⟩ | ⟨p, c, z, h⟩ <;> rw [h] <;> rfl

/-- Where an access faults, the word is the context fault of the lowest such lane, the buffer of a commit point being visible. -/
theorem Issue.place_of_faultsBy {x : Issue} {spad : Bool} {kind : Acc} {n : Nat} {addr : Nat → Nat} {s1 : State}
    {span : Nat → Except Miss Span} {c d : Nat} (hpl : x.placed spad kind n addr s1 span) (hf : x.faultsBy span c d)
    (point : Bool) (k : State → Places → Out) : x.place point spad kind n (x.vals addr) k =
      .next ((if point then s1.makeVisible x.gid else s1).groupFault x.gid c x.pc d 0) := by
  obtain ⟨hs1, hspan⟩ := hpl
  replace hs1 : x.placeTouch spad kind n (x.vals addr) = s1 := hs1.symm
  obtain ⟨l, hl, hfault, hlow⟩ := hf
  obtain ⟨pre, post, hsplit, hpre⟩ := lanesOf_split hl
  have hstay : ∀ k ∈ pre, Stays (x.spanAt spad kind n s1 (addr k)) := fun k hk => by
    have hp : x.pass.getLsbD k = true := (mem_lanesOf _ _).mp (by rw [hsplit]; simp [hk])
    have := hlow k (hpre k hk) hp
    rwa [hspan k hp] at this
  have hc : collect (x.spanAt spad kind n s1) (x.vals addr) = .error (.fault c d) := by
    rw [Issue.vals, hsplit]
    exact collect_fault _ addr pre post l c d hstay ((hspan l hl).symm.trans hfault)
  rw [← hs1] at hc ⊢
  rw [Issue.place_of_error hc]
  cases point <;> rfl

/-! ### The end of the word -/

theorem Issue.finishPark_eq (x : Issue) (s : State) (p : Places) : x.finishPark s p = .next (x.parkS s p.parked) := rfl

theorem State.park_nil (s : State) (gid : Nat) : s.park gid [] = s := by
  have h : minus (maskOf [] &&& (~~~(s.grp gid).outside ||| (s.grp gid).parked)) (s.grp gid).sealed = 0 := by simp [maskOf, minus]
  exact if_pos (.inl h)

theorem Issue.parkS_nil (x : Issue) (s : State) : x.parkS s [] = x.doneS s := by
  unfold Issue.parkS Issue.parkAll Issue.doneS
  simp only [List.foldl_nil, List.map_nil, State.park_nil]

end Sys2Proof.Machine
end

section
/-! ATOM, ATOMS and RED (R197 to R199): the issue, one step, and completion. -/

namespace Sys2Proof.Machine

/-! ### Issue -/

/-- The step that a served lane is to make (R197, R198). -/
def Issue.laneStep (x : Issue) (f : FM) (e : Nat × Span) : AtomStep where
  lane := e.1
  loc := e.2.locs.headD ⟨0, 0, none⟩
  v := let d := x.src f.d (if f.isCas then 2 * f.bits else f.bits) e.1
    if f.isCas then d / 2 ^ f.bits else d
  cmp := let d := x.src f.d (if f.isCas then 2 * f.bits else f.bits) e.1
    if f.isCas then d % 2 ^ f.bits else 0
  stash := e.2.lines

/-- The in-flight instruction of an atomic word with the lanes that are served. -/
def Issue.atomOp (x : Issue) (f : FM) (spad ret : Bool) (ok : List (Nat × Span)) : Op where
  gid := x.gid
  pc := x.pc
  flag := if ret then x.flagOf f.fsel else none
  lanes := maskOf (ok.map (·.1))
  entry := x.e.mask
  pending := true
  dst := f.d
  ty := rawTy f.bits
  regs := if ret then opRegs f.d f.bits else []
  kind := .atom f.bits f.aop f.ord.toNat f.scope.toNat spad ret (ok.map (x.laneStep f))

/-- What an atomic word does with its places: the buffer is committed and the steps go into flight, or it waits for a line slot. -/
def Issue.atomGo (x : Issue) (f : FM) (spad ret : Bool) (s1 : State) (p : Places) : Out :=
  let s2 := (if x.pass = 0 then s1 else s1.makeVisible x.gid).fillLines (p.ok.flatMap (fun e => e.2.lines)) false
  x.slots s1 (x.atomOp f spad ret p.ok).kind
    (.next (x.parkS (if p.ok = [] then s2 else s2.addOp (x.atomOp f spad ret p.ok)) p.parked))

theorem Issue.laneStep_eq (x : Issue) (f : FM) (e : Nat × Span) : x.laneStep f e =
    { lane := e.1, loc := e.2.locs.headD ⟨0, 0, none⟩, v := (x.atomArgs f e.1).2, cmp := (x.atomArgs f e.1).1, stash := e.2.lines } := by
  unfold Issue.laneStep Issue.atomArgs
  cases f.isCas <;> rfl

theorem Issue.touched_atomGo (x : Issue) (f : FM) (spad ret : Bool) : (x.touched f).atomGo f spad ret = x.atomGo f spad ret := by
  obtain ⟨m, p, b, h⟩ := x.touched_eq f
  rw [h]
  rfl

/-- The atomic words, each with whether it is a scratchpad word and whether it returns the old values. -/
def atomForms (f : FM) : List (Instr × Bool × Bool) := [(.atom f, false, true), (.atoms f, true, true), (.red f, false, false)]

/-- A word of the atomics that issues forms its addresses, places its lanes and puts their steps into flight. -/
theorem atomWord_of_issueOf {i : Instr} {s : State} {f : FM} {spad ret : Bool} {x : Issue} {inf : Info} (hi : i.info = some inf)
    (hfsel : inf.fsel = f.fsel)
    (hx : issueOf i s { memaff := true, point := true, miss := !spad, reads := rbRegs f.rb } = some x) :
    atomWord i s f spad ret = x.access f f.off8 (f.bits / 8) (some 2) (fun y addrs =>
      y.place true spad .atomic (f.bits / 8) addrs (y.atomGo f spad ret)) := by
  unfold atomWord
  rw [stage_of_issueOf hx]
  refine congrArg _ (funext fun y => funext fun addrs => congrArg _ (funext fun s1 => funext fun p => ?_))
  obtain ⟨ok, away⟩ := p
  have hstep : y.laneStep f = _ := funext (y.laneStep_eq f)
  simp only [hi, Issue.atomGo, Issue.atomOp, hstep, Issue.finishPark_eq, maskFst]
  cases ok <;> cases ret <;> simp [Issue.launch, State.addOp, Issue.flagOf, hfsel]

theorem exec_atomForm {f : FM} {s : State} {x : Issue} {p : Instr × Bool × Bool} (hp : p ∈ atomForms f)
    (hx : issueOf p.1 s { memaff := true, point := true, miss := !p.2.1, reads := rbRegs f.rb } = some x) :
    exec p.1 s = x.access f f.off8 (f.bits / 8) (some 2) (fun y addrs =>
      y.place true p.2.1 .atomic (f.bits / 8) addrs (y.atomGo f p.2.1 p.2.2)) := by
  simp only [atomForms, List.mem_cons, List.not_mem_nil, or_false] at hp
  rcases hp with rfl | rfl | rfl
  · exact atomWord_of_issueOf rfl rfl hx
  · exact atomWord_of_issueOf rfl rfl hx
  · exact atomWord_of_issueOf rfl rfl hx

theorem Issue.atomGo_of_slots {x : Issue} {f : FM} {spad ret : Bool} {s1 : State} {p : Places} (hp : x.pass ≠ 0)
    (hs : s1.slotsFor x.team.core (x.atomOp f spad ret p.ok).kind = true) :
    let s2 := (s1.makeVisible x.gid).fillLines (p.ok.flatMap (fun e => e.2.lines)) false
    x.atomGo f spad ret s1 p = .next (x.parkS (if p.ok = [] then s2 else s2.addOp (x.atomOp f spad ret p.ok)) p.parked) := by
  simp only [Issue.atomGo, Issue.slots, hs, if_neg hp, if_true]

theorem Issue.atomGo_of_full {x : Issue} {f : FM} {spad ret : Bool} {s1 : State} {p : Places}
    (hs : s1.slotsFor x.team.core (x.atomOp f spad ret p.ok).kind = false) : x.atomGo f spad ret s1 p = x.again s1 := by
  simp only [Issue.atomGo, Issue.slots, hs, Bool.false_eq_true, if_false]

/-- A word of no lane needs no slots and changes nothing. -/
theorem Issue.atomGo_idle {x : Issue} {f : FM} {spad ret : Bool} (hp : x.pass = 0) :
    x.atomGo f spad ret x.s {} = .next (x.doneS x.s) := by
  have hs : x.s.slotsFor x.team.core (x.atomOp f spad ret []).kind = true := rfl
  simp only [Issue.atomGo, Issue.slots, hs, if_pos hp, if_true, Issue.parkS_nil]
  rfl

/-- Where every lane is served, the instruction holds them all. -/
theorem Issue.atomOp_served (x : Issue) (f : FM) (spad ret : Bool) (sp : Nat → Span) :
    x.atomOp f spad ret ((lanesOf x.pass).map (fun l => (l, sp l))) = { x.atomOp f spad ret [] with
      lanes := x.pass
      kind := .atom f.bits f.aop f.ord.toNat f.scope.toNat spad ret ((lanesOf x.pass).map (fun l => x.laneStep f (l, sp l))) } := by
  have hl : maskOf (lanesOf x.pass) = x.pass := maskOf_lanesOf x.pass
  simp [Issue.atomOp, Function.comp_def, hl]

section
variable {f : FM} {s : State} {x : Issue} {p : Instr × Bool × Bool} (hp : p ∈ atomForms f)
  (hx : issueOf p.1 s { memaff := true, point := true, miss := !p.2.1, reads := rbRegs f.rb } = some x)
include hp hx

theorem exec_atomForm_idle (h0 : x.pass = 0) : exec p.1 s = .next (x.doneS x.s) := by
  rw [exec_atomForm hp hx, x.access_of_idle _ _ _ _ _ h0, x.place_nil, Issue.atomGo_idle h0]

theorem exec_atomForm_checks (hpass : x.pass ≠ 0) : x.Checks p.1 s f f.off8 (f.bits / 8) (f.bits / 8) 2 :=
  Issue.checks_of_access (exec_atomForm hp hx) hpass

variable {addr : Nat → Nat} {s1 : State} {span : Nat → Except Miss Span} (hpass : x.pass ≠ 0)
  (hr : (x.touched f).reaches f f.off8 (f.bits / 8) (f.bits / 8) 2 addr)
  (hpl : (x.touched f).placed p.2.1 .atomic (f.bits / 8) addr s1 span)
include hpass hr hpl

theorem exec_atomForm_splits {ok : List (Nat × Span)} {away : List (Nat × Nat × Nat × Nat)} (hs : x.Splits span ok away) :
    exec p.1 s = x.atomGo f p.2.1 p.2.2 s1 ⟨ok, away⟩ := by
  have hs' : (x.touched f).Splits span ok away := by
    obtain ⟨m, q, b, h⟩ := x.touched_eq f
    rw [h]
    exact ⟨hs.served, hs.parked, hs.only⟩
  have hv : x.vals addr = (x.touched f).vals addr := by rw [Issue.vals, Issue.vals, x.touched_pass]
  rw [exec_atomForm hp hx, Issue.access_of_reaches hpass hr, hv, Issue.place_of_splits hpl hs', x.touched_atomGo]

theorem exec_atomForm_fault {c d : Nat} (hf : x.faultsBy span c d) :
    exec p.1 s = .next ((s1.makeVisible x.gid).groupFault x.gid c x.pc d 0) := by
  have hf' : (x.touched f).faultsBy span c d := by rwa [Issue.faultsBy, x.touched_pass]
  have hv : x.vals addr = (x.touched f).vals addr := by rw [Issue.vals, Issue.vals, x.touched_pass]
  rw [exec_atomForm hp hx, Issue.access_of_reaches hpass hr, hv, Issue.place_of_faultsBy hpl hf']
  obtain ⟨m, q, b, h⟩ := x.touched_eq f
  rw [h]
  rfl

omit hpl in
/-- Where every lane is served, the word is done once its steps are in flight. -/
theorem exec_atomForm_served {locs : Nat → List Loc} {lines : Nat → List (Nat × Nat)}
    (hsv : (x.touched f).served p.2.1 .atomic (f.bits / 8) addr s1 locs lines) :
    let o : Op := { x.atomOp f p.2.1 p.2.2 [] with
      lanes := x.pass
      kind := .atom f.bits f.aop f.ord.toNat f.scope.toNat p.2.1 p.2.2
        ((lanesOf x.pass).map (fun l => x.laneStep f (l, ⟨locs l, lines l⟩))) }
    (s1.slotsFor x.team.core o.kind = true →
      exec p.1 s = .next (x.doneS (((s1.makeVisible x.gid).fillLines ((lanesOf x.pass).flatMap lines) false).addOp o))) ∧
    (s1.slotsFor x.team.core o.kind = false → exec p.1 s = x.again s1) := by
  intro o
  have he := exec_atomForm_splits hp hx hpass hr (Issue.placed_of_served hsv) (x.splits_of_ok fun l => ⟨locs l, lines l⟩)
  have ho := x.atomOp_served f p.2.1 p.2.2 fun l => ⟨locs l, lines l⟩
  have hne : (lanesOf x.pass).map (fun l => (l, (⟨locs l, lines l⟩ : Span))) ≠ [] := by simpa using lanesOf_ne_nil hpass
  rw [he]
  refine ⟨fun hs => ?_, fun hs => ?_⟩
  · rw [Issue.atomGo_of_slots hpass (by rwa [ho])]
    dsimp only
    rw [if_neg hne, Issue.parkS_nil, ho, List.flatMap_map]
  · rw [Issue.atomGo_of_full (by rwa [ho])]

end

/-! ### One step -/

theorem State.wr_same (s : State) (ctx : Nat) (p : Loc) (x : Byte) : SameButMemory s (s.wr ctx p x) := by
  unfold State.wr
  split
  · rfl
  · dsimp only
    generalize Aes.xtsLine true _ _ _ = line
    rfl

theorem State.wrN_same (s : State) (ctx : Nat) (p : Loc) (n x : Nat) : SameButMemory s (s.wrN ctx p n x) := by
  induction n generalizing s p x with
  | zero => exact .refl s
  | succ n ih => exact (s.wr_same ctx p _).trans (ih _ _ _)

/-- A fold leaves a part of the state as it is if each of its steps does. -/
theorem State.foldl_part {α β : Type} (part : State → β) (f : State → α → State) (l : List α) (s : State)
    (hf : ∀ s a, part (f s a) = part s) : part (l.foldl f s) = part s := by
  induction l generalizing s with
  | nil => rfl
  | cons a l ih => exact (ih _).trans (hf s a)

@[simp] theorem State.fillLines_groups (s : State) (lines : List (Nat × Nat)) (write : Bool) :
    (s.fillLines lines write).groups = s.groups :=
  State.foldl_part State.groups _ _ _ fun s e => by
    split
    · rfl
    · split <;> rfl

/-- An access to a place that no other stash line holds recalls nothing (R329). -/
theorem State.stashOther_of_unshared {s : State} {locs : List Loc} {p : Loc} (h : s.unshared locs) (hp : p ∈ locs) (write : Bool) :
    s.stashOther p write = s := by
  have hits : (s.teams.flatMap (fun e => (e.2.stash.filter (fun l =>
      p.win != some (e.1, l.1) && s.stashHolds e.2 l.1 p.key)).map (fun l => (e.1, l.1, l.2)))) = [] := by
    refine List.flatMap_eq_nil_iff.mpr fun e he => List.map_eq_nil_iff.mpr (List.filter_eq_nil_iff.mpr fun l hl => ?_)
    rcases h e he l hl p hp with hw | ⟨q, hq, hne⟩
    · simp [hw]
    · simp [State.stashHolds, State.stashLoc, hq, hne]
  unfold State.stashOther
  rw [hits]
  rfl

theorem State.struck_self (s : State) (ctx : Nat) : s.struck s ctx = false := by simp [State.struck]

theorem State.stepReady_iff (s : State) (gid ord scope : Nat) (locs : List Loc) : s.stepReady gid ord scope locs = true ↔
    (if 2 ≤ ord ∧ 2 ≤ scope then s.released gid scope = true else s.drained (s.coreOf gid) locs = true) ∧
      (scope = 5 → ∀ c ∈ s.commits, c.2 = []) ∧ ∀ p ∈ locs, s.pendingPeer p = none := by
  have hrec : s.recalled scope = true ↔ (scope = 5 → ∀ c ∈ s.commits, c.2 = []) := by
    simp [State.recalled, ← imp_iff_not_or]
  have hpeer : (!locs.any (fun p => (s.pendingPeer p).isSome)) = true ↔ ∀ p ∈ locs, s.pendingPeer p = none := by simp
  simp only [State.stepReady, Bool.and_eq_true, hrec, hpeer, and_assoc, apply_ite (· = true)]

/-- The location takes its new value, and the stash lines through which it is reached become Dirty (R198, R329). -/
def State.atomWrite (s : State) (ctx bits aop : Nat) (u : AtomStep) : State :=
  (s.wrN ctx u.loc (bits / 8) (atomNew aop bits (s.rdN ctx u.loc (bits / 8)) u.v u.cmp)).fillLines u.stash true

/-- The steps once a lane has read its old value. -/
def stepsAfter (steps : List AtomStep) (lane old : Nat) : List AtomStep :=
  steps.map (fun z => if z.lane = lane then { z with old := some old } else z)

/-- The instruction keeps its steps; one that returns nothing ends with the last (R199). -/
def State.atomNote (s : State) (n : Nat) (o : Op) (ret : Bool) (kind : List AtomStep → OpKind) (after : List AtomStep) : State :=
  let all := after.all (fun z => z.old.isSome)
  { s with ops := if all && !ret then KMap.erase s.ops n else KMap.insert s.ops n { o with kind := kind after, pending := !all } }

theorem State.atomWrite_mem (s : State) (ctx bits aop : Nat) (u : AtomStep) : (s.atomWrite ctx bits aop u).mem =
    (s.wrN ctx u.loc (bits / 8) (atomNew aop bits (s.rdN ctx u.loc (bits / 8)) u.v u.cmp)).mem := State.fillLines_mem _ _ _

theorem State.atomWrite_groups (s : State) (ctx bits aop : Nat) (u : AtomStep) : (s.atomWrite ctx bits aop u).groups = s.groups := by
  unfold State.atomWrite
  rw [State.fillLines_groups, State.wrN_same]

theorem State.atomNote_op (s : State) (n : Nat) (o : Op) (ret : Bool) (kind : List AtomStep → OpKind) (after : List AtomStep) :
    KMap.find? (s.atomNote n o ret kind after).ops n = if after.all (fun z => z.old.isSome) && !ret then none
      else some { o with kind := kind after, pending := !after.all (fun z => z.old.isSome) } := by
  unfold State.atomNote
  dsimp only
  split
  · simp [KMap.find?_erase]
  · rw [KMap.find?_insert_self]

theorem State.seal_sealed (s : State) (gid : Nat) (m : Mask) (h : KMap.find? s.groups gid ≠ none) :
    ((s.seal gid m).grp gid).sealed = (s.grp gid).sealed ||| m := by
  rw [State.seal, State.grp_modGrp, if_pos ⟨rfl, Option.isSome_iff_ne_none.mpr h⟩]

theorem State.atomStep_sealed {s : State} {ctx bits aop n gid : Nat} {u : AtomStep} {o : Op} {ret : Bool}
    {kind : List AtomStep → OpKind} {after : List AtomStep} {m : Mask} (h : KMap.find? s.groups gid ≠ none) :
    ((((s.atomWrite ctx bits aop u).atomNote n o ret kind after).seal gid m).grp gid).sealed = (s.grp gid).sealed ||| m := by
  have hg : ((s.atomWrite ctx bits aop u).atomNote n o ret kind after).groups = s.groups := State.atomWrite_groups s ctx bits aop u
  rw [State.seal_sealed _ _ _ (by rwa [hg]), State.grp, hg]
  rfl

section
variable {s : State} {n bits aop ord sc lane : Nat} {o : Op} {spad ret : Bool} {steps : List AtomStep} {u : AtomStep}
  (ho : KMap.find? s.ops n = some o) (hk : o.kind = .atom bits aop ord sc spad ret steps)
  (hu : steps.find? (fun t => t.lane == lane && t.old.isNone) = some u)
  (hlow : ∀ t ∈ steps, t.lane < lane → t.old = none → overlaps t.loc u.loc (bits / 8) = false)
  (hown : s.owned u.loc.key = false) (hheld : s.pointHeld o.gid = false)
include ho hk hu hlow hown hheld

/-- What is left of a step that neither a lower lane, nor an engine, nor the group's own buffer holds. -/
theorem State.atomStep_of_ready : s.atomStep n lane =
    if s.badAt u.loc then some (.next (s.groupFault o.gid 10 o.pc 0 0))
    else
      let s1 := (s.makeVisible o.gid).acquiring sc
      let ctx := (s.grp o.gid).ctx
      let s2 := s1.stashOther u.loc true
      if s.struck s1 ctx then some (.next s1)
      else if !s1.stepReady o.gid ord sc ((List.range (bits / 8)).map u.loc.add) then some (.next s1)
      else if s1.struck s2 ctx then some (.next s2)
      else some (.next ((((s2.atomWrite ctx bits aop u).atomNote n o ret (.atom bits aop ord sc spad ret)
        (stepsAfter steps lane (s2.rdN ctx u.loc (bits / 8)))).seal o.gid (laneBit lane)).settle o.gid)) := by
  have hfirst : steps.any (fun t => decide (t.lane < lane) && t.old.isNone && overlaps t.loc u.loc (bits / 8)) = false := by
    simpa [and_imp] using hlow
  unfold State.atomStep
  simp only [ho, hk, hu, hfirst, hown, hheld, Bool.or_self, Bool.false_eq_true, if_false]
  rfl

theorem State.atomStep_of_bad (hbad : s.badAt u.loc = true) :
    s.atomStep n lane = some (.next (s.groupFault o.gid 10 o.pc 0 0)) := by
  rw [State.atomStep_of_ready ho hk hu hlow hown hheld, if_pos hbad]

theorem State.atomStep_of_waits (hbad : s.badAt u.loc = false)
    (hstr : s.struck ((s.makeVisible o.gid).acquiring sc) (s.grp o.gid).ctx = false)
    (hw : ((s.makeVisible o.gid).acquiring sc).stepReady o.gid ord sc ((List.range (bits / 8)).map u.loc.add) = false) :
    s.atomStep n lane = some (.next ((s.makeVisible o.gid).acquiring sc)) := by
  simp only [State.atomStep_of_ready ho hk hu hlow hown hheld, hbad, hstr, hw, Bool.false_eq_true, if_false, Bool.not_false, if_true]

theorem State.atomStep_of_goes (hbad : s.badAt u.loc = false)
    (hstr : s.struck ((s.makeVisible o.gid).acquiring sc) (s.grp o.gid).ctx = false)
    (hw : ((s.makeVisible o.gid).acquiring sc).stepReady o.gid ord sc ((List.range (bits / 8)).map u.loc.add) = true)
    (hun : ((s.makeVisible o.gid).acquiring sc).unshared [u.loc]) :
    let s1 := (s.makeVisible o.gid).acquiring sc
    let ctx := (s.grp o.gid).ctx
    s.atomStep n lane = some (.next ((((s1.atomWrite ctx bits aop u).atomNote n o ret (.atom bits aop ord sc spad ret)
      (stepsAfter steps lane (s1.rdN ctx u.loc (bits / 8)))).seal o.gid (laneBit lane)).settle o.gid)) := by
  simp only [State.atomStep_of_ready ho hk hu hlow hown hheld, hbad, hstr, hw, Bool.false_eq_true, if_false, Bool.not_true,
    State.stashOther_of_unshared hun List.mem_cons_self, State.struck_self]

end

theorem exec_homeSliceStep_atom {s : State} {n bits aop ord sc : Nat} {o : Op} {ret : Bool} {steps : List AtomStep}
    (ho : KMap.find? s.ops n = some o) (hk : o.kind = .atom bits aop ord sc false ret steps) (lane : Nat) :
    exec (.homeSliceStep false n lane) s = (s.atomStep n lane).getD (.next s) := by
  simp only [exec_homeSliceStep, execHomeSliceStep, ho, hk, Bool.false_eq_true, if_false]

/-! ### Completion -/

/-- A lane whose step is made makes none again. -/
theorem State.atomStep_of_done {s : State} {n bits aop ord sc : Nat} {o : Op} {spad ret : Bool} {steps : List AtomStep}
    (ho : KMap.find? s.ops n = some o) (hk : o.kind = .atom bits aop ord sc spad ret steps) (hall : ∀ u ∈ steps, u.old ≠ none)
    (lane : Nat) : s.atomStep n lane = none := by
  have hnone : steps.find? (fun t => t.lane == lane && t.old.isNone) = none :=
    List.find?_eq_none.mpr fun u hu => by simp [hall u hu]
  unfold State.atomStep
  simp only [ho, hk, hnone]

theorem execAtomComplete_of_done {s : State} {n bits aop ord sc : Nat} {o : Op} {spad : Bool} {steps : List AtomStep}
    (ho : KMap.find? s.ops n = some o) (hk : o.kind = .atom bits aop ord sc spad true steps) (hall : ∀ u ∈ steps, u.old ≠ none) :
    execAtomComplete n s = .next (({ s with ops := KMap.erase s.ops n }.modGrp o.gid (fun g =>
      (g.writeOld o bits aop (steps.map (fun (u : AtomStep) => (u.lane, u.old.getD 0)))).keepResult o)).settle o.gid) := by
  have hdone : steps.all (fun t => t.old.isSome) = true := List.all_eq_true.mpr fun u hu => Option.isSome_iff_ne_none.mpr (hall u hu)
  unfold execAtomComplete
  simp only [ho, hk]
  rw [List.foldl_fixed' (fun t => by simp only [State.atomStep_of_done ho hk hall]), ite_self]
  simp only [ho, hk, hdone, if_true]
  rfl

theorem execAtomComplete_of_open {s : State} {n bits aop ord sc : Nat} {o : Op} {steps : List AtomStep}
    (ho : KMap.find? s.ops n = some o) (hk : o.kind = .atom bits aop ord sc false true steps) (hopen : ∃ u ∈ steps, u.old = none) :
    execAtomComplete n s = .next s := by
  have hdone : steps.all (fun t => t.old.isSome) = false := by
    obtain ⟨u, hu, hn⟩ := hopen
    exact List.all_eq_false.mpr ⟨u, hu, by simp [hn]⟩
  unfold execAtomComplete
  simp only [ho, hk, Bool.false_eq_true, if_false, hdone]

/-- A change of a group whose new value is known. -/
theorem State.modGrp_eq (s : State) (gid : Nat) (f : Group → Group) : s.modGrp gid f = s.modGrp gid (fun _ => f (s.grp gid)) := by
  unfold State.modGrp KMap.modify State.grp
  cases KMap.find? s.groups gid <;> rfl

theorem Group.writeOld_of_write (g : Group) (o : Op) (bits aop : Nat) (vals : List (Nat × Nat))
    (h : o.dst.lvl ≠ .s ∨ aop ≠ 9 ∨ bits ≠ 32) : g.writeOld o bits aop vals = g.write o.dst o.ty bits vals := by
  unfold Group.writeOld
  split
  · next hs =>
    refine if_neg ?_
    rintro ⟨ha, hb⟩
    simp [hs, ha, hb] at h
  · rfl

/-- R198: a 32-bit .cas at S keeps the high half. -/
theorem Group.writeOld_cas (g : Group) (o : Op) (l v : Nat) (rest : List (Nat × Nat)) (hs : o.dst.lvl = .s) (hv : v < 2 ^ 32) :
    ((g.writeOld o 32 9 ((l, v) :: rest)).sGet o.dst.idx.toNat).toNat =
      (g.sGet o.dst.idx.toNat).toNat / 2 ^ 32 * 2 ^ 32 + v := by
  have hlt := (g.sGet o.dst.idx.toNat).isLt
  have hw : g.writeOld o 32 9 ((l, v) :: rest) = g.sSet o.dst.idx.toNat
      (BitVec.ofNat 64 ((g.sGet o.dst.idx.toNat).toNat / 2 ^ 32 * 2 ^ 32 + v)) := by
    simp only [Group.writeOld, hs, and_self, if_true]
  rw [hw, Group.sGet, Group.sSet, KMap.getD_setD_self, BitVec.toNat_ofNat]
  exact Nat.mod_eq_of_lt (by omega)

/-! ### What the queue of a core holds back -/

theorem State.released_iff (s : State) (gid scope : Nat) : s.released gid scope = true ↔ scope < 2 ∨ (s.fifo (s.coreOf gid) = [] ∧
    (scope = 4 → ∀ w ∈ s.peerWrites, w.2.ctx ≠ (s.grp gid).ctx)) := by
  simp [State.released, ← imp_iff_not_or]

theorem State.drained_iff (s : State) (core : Nat) (locs : List Loc) : s.drained core locs = true ↔
    ∀ c ∈ s.fifo core, ∀ b ∈ c.place.bytes, ∀ p ∈ locs, p.key ≠ b.loc.key := by
  simp [State.drained]

/-- Settles O36: `exec_atomForm_splits` and `exec_atomForm_fault` say what an issue does, `State.atomStep_of_ready` what a step does,
and `execAtomComplete_of_done` what completion does. -/
theorem atomics : Obligations.Atomics := by
  unfold Obligations.Atomics
  refine ⟨?issue, ?step, ?complete, ?unfinished, State.released_iff, State.drained_iff⟩
  case issue =>
    intro f s x p hp hx
    refine ⟨exec_atomForm_idle hp hx, exec_atomForm_checks hp hx, ?served, ?missing⟩
    case served =>
      exact fun hpass addr s1 locs lines hr hsv => exec_atomForm_served hp hx hpass hr hsv
    case missing =>
      intro hpass addr s1 span hr hpl
      refine ⟨fun c d => exec_atomForm_fault hp hx hpass hr hpl, fun ok away hs hslots => ?_⟩
      exact (exec_atomForm_splits hp hx hpass hr hpl hs).trans (Issue.atomGo_of_slots (p := ⟨ok, away⟩) hpass hslots)
  case step =>
    intro s n bits aop ord sc lane o spad ret steps u ho hk hg hu hlow hown hheld locs ctx s1 ready
    have hready : ready ↔ s1.stepReady o.gid ord sc locs = true := (s1.stepReady_iff o.gid ord sc locs).symm
    refine ⟨State.atomStep_of_bad ho hk hu hlow hown hheld, fun hbad hstr hn => ?_, fun hbad hstr hr hg1 hun => ?_⟩
    · exact State.atomStep_of_waits ho hk hu hlow hown hheld hbad hstr (Bool.eq_false_iff.mpr fun h => hn (hready.mpr h))
    · have hgo := State.atomStep_of_goes ho hk hu hlow hown hheld hbad hstr (hready.mp hr) hun
      refine ⟨_, hgo, fun hsp => ?_, ?_, ?_, ?_⟩
      · subst hsp
        rw [exec_homeSliceStep_atom ho hk, hgo]
        rfl
      · refine (State.atomWrite_mem _ _ _ _ _).trans (congrArg (fun v => (s1.wrN ctx u.loc (bits / 8) v).mem) ?_)
        -- the operation's code selects the same value on both sides
        rcases aop with _ | _ | _ | _ | _ | _ | _ | _ | _ | _ | aop <;> rfl
      · exact State.atomStep_sealed hg1
      · exact State.atomNote_op _ _ _ _ _ _
  case complete =>
    intro s n bits aop ord sc o steps spad ho hk hall
    refine ⟨(s.grp o.gid).writeOld o bits aop (steps.map (fun u => (u.lane, u.old.getD 0))), ?_, ?_, ?_⟩
    · rw [exec_atomComplete, execAtomComplete_of_done ho hk hall, State.modGrp_eq]
      rfl
    · exact Group.writeOld_of_write _ _ _ _ _
    · rintro hs rfl rfl u rest rfl hv
      exact Group.writeOld_cas _ _ _ _ _ hs hv
  case unfinished =>
    intro s n bits aop ord sc o steps ho hk hopen
    exact execAtomComplete_of_open ho hk hopen

end Sys2Proof.Machine
end

section
/-! Where a result goes (R31, R33, R128): to every lane of the set at K and V, and to one S register from the lowest lane. -/

namespace Sys2Proof.Machine

/-! ### The lanes of a set, in order -/

theorem lanesOf_nodup (m : Mask) : (lanesOf m).Nodup := List.nodup_range.filter _

theorem lanesOf_pairwise (m : Mask) : (lanesOf m).Pairwise (· < ·) := List.pairwise_lt_range.filter _

theorem lanesOf_lt {m : Mask} {l : Nat} (h : l ∈ lanesOf m) : l < 64 := BitVec.lt_of_getLsbD ((mem_lanesOf m l).mp h)

/-- The list of a set's lanes begins with its lowest one. -/
theorem lanesOf_lowest {m : Mask} {k : Nat} (hk : m.getLsbD k = true) (hlow : ∀ l, l < k → m.getLsbD l = false) :
    ∃ rest, lanesOf m = k :: rest := by
  have hmem := (mem_lanesOf m k).mpr hk
  have hsort := lanesOf_pairwise m
  cases hl : lanesOf m with
  | nil => simp [hl] at hmem
  | cons a rest =>
    rw [hl] at hmem hsort
    have ha : m.getLsbD a = true := (mem_lanesOf m a).mp (by simp [hl])
    rcases List.mem_cons.mp hmem with rfl | hr
    · exact ⟨rest, rfl⟩
    · have hlt := (List.pairwise_cons.mp hsort).1 k hr
      simp [hlow a hlt] at ha

/-! ### K and V -/

theorem wordOf_toNat (v j : Nat) : (wordOf v j).toNat = v / 2 ^ (32 * j) % 2 ^ 32 := BitVec.toNat_ofNat ..

/-- Every lane of a list written at V holds its own words. -/
theorem Group.writeLanes_vGet {o : Operand} (ho : o.lvl = .v) (w : Nat) (val : Nat → Nat) {l j : Nat} (hj : j < regCount w)
    (ls : List Nat) (hn : ls.Nodup) (hls : ∀ k ∈ ls, k < 64) (hl : l < 64) (g : Group) :
    ((ls.map (fun l => (l, val l))).foldl (fun g e => g.writeLane o w e.1 e.2) g).vGet (o.idx.toNat + j) l =
      if l ∈ ls then wordOf (val l) j else g.vGet (o.idx.toNat + j) l := by
  induction ls generalizing g with
  | nil => simp
  | cons k ks ih =>
    obtain ⟨hk, hks⟩ := List.nodup_cons.mp hn
    rw [List.map_cons, List.foldl_cons, ih hks (fun x hx => hls x (List.mem_cons_of_mem _ hx)),
      Group.writeLane_vLvl _ _ _ _ _ ho, Group.vPuts_vGet _ _ _ _ _ _ _ List.nodup_range (hls k List.mem_cons_self) hl]
    by_cases hlk : l = k
    · subst hlk
      simp [hk, hj]
    · simp [hlk]

/-- Every lane of a list written at K holds its own words, and its slots are valid. -/
theorem Group.writeLanes_kerb {o : Operand} (ho : o.lvl = .k) (w : Nat) (val : Nat → Nat) {l j : Nat} (hj : j < regCount w)
    (ls : List Nat) (hn : ls.Nodup) (hls : ∀ k ∈ ls, k < 64) (hl : l < 64) (g : Group) :
    KMap.find? ((ls.map (fun l => (l, val l))).foldl (fun g e => g.writeLane o w e.1 e.2) g).kerb ((o.idx.toNat + j) * 64 + l) =
      if l ∈ ls then some (wordOf (val l) j) else KMap.find? g.kerb ((o.idx.toNat + j) * 64 + l) := by
  induction ls generalizing g with
  | nil => simp
  | cons k ks ih =>
    obtain ⟨hk, hks⟩ := List.nodup_cons.mp hn
    rw [List.map_cons, List.foldl_cons, ih hks (fun x hx => hls x (List.mem_cons_of_mem _ hx)),
      Group.writeLane_kLvl _ _ _ _ _ ho, Group.kPuts_kerb _ _ _ _ _ _ _ List.nodup_range (hls k List.mem_cons_self) hl]
    by_cases hlk : l = k
    · subst hlk
      simp [hk, hj]
    · simp [hlk]

theorem Group.write_of_noLane (g : Group) (o : Operand) (ty : Ty) (w : Nat) : g.write o ty w [] = g := by
  cases h : o.lvl <;> simp [Group.write, h]

theorem Group.write_of_vLvl (g : Group) {o : Operand} (ty : Ty) (w : Nat) (vals : List (Nat × Nat)) (h : o.lvl = .v) :
    g.write o ty w vals = vals.foldl (fun g e => g.writeLane o w e.1 e.2) g := by simp [Group.write, h]

theorem Group.write_of_kLvl (g : Group) {o : Operand} (ty : Ty) (w : Nat) (vals : List (Nat × Nat)) (h : o.lvl = .k) :
    g.write o ty w vals = vals.foldl (fun g e => g.writeLane o w e.1 e.2) g := by simp [Group.write, h]

/-! ### S -/

/-- A value of at most 64 bits at S fills one register. -/
theorem Group.write_of_sLvl (g : Group) {o : Operand} (ty : Ty) {w : Nat} (l v : Nat) (rest : List (Nat × Nat)) (h : o.lvl = .s)
    (hw : w ≤ 64) : g.write o ty w ((l, v) :: rest) = g.sSet o.idx.toNat (BitVec.ofNat 64 (fillS ty w v)) := by
  simp [Group.write, h, hw]

/-- A wider one fills a pair. -/
theorem Group.write_of_sPair (g : Group) {o : Operand} (ty : Ty) {w : Nat} (l v : Nat) (rest : List (Nat × Nat)) (h : o.lvl = .s)
    (hw : 64 < w) : g.write o ty w ((l, v) :: rest) =
      (g.sSet o.idx.toNat (BitVec.ofNat 64 v)).sSet (o.idx.toNat + 1) (BitVec.ofNat 64 (v / 2 ^ 64)) := by
  simp [Group.write, h, Nat.not_le.mpr hw]

theorem Group.sGet_sSet_self (g : Group) (r : Nat) (x : Word64) : (g.sSet r x).sGet r = x := by simp [Group.sGet_sSet]

/-- The two's-complement reading of the low w bits is that of the bit vector. -/
theorem signedOf_eq_toInt (w v : Nat) : signedOf w v = (BitVec.ofNat w v).toInt := by
  simp only [signedOf, BitVec.toInt_eq_toNat_cond, BitVec.toNat_ofNat]
  split <;> split <;> omega

theorem ofNat_wrapNat (w : Nat) (x : Int) : BitVec.ofNat w (wrapNat w x) = BitVec.ofInt w x := by
  apply BitVec.eq_of_toNat_eq
  rw [BitVec.toNat_ofNat, BitVec.toNat_ofInt]
  exact Nat.mod_eq_of_lt (wrapNat_lt w x)

/-- The fill of a value of at most 32 bits: its sign where its type is signed, else zeros (R33). -/
theorem ofNat_fillS {ty : Ty} (v : Nat) (hb : ty.valueBits ≤ 32) : BitVec.ofNat 64 (fillS ty 32 v) =
    if ty.signed then (BitVec.ofNat ty.valueBits v).signExtend 64 else (BitVec.ofNat ty.valueBits v).setWidth 64 := by
  simp only [fillS, show ¬ (64 ≤ 32) by omega, if_false, Nat.min_eq_left hb]
  split
  · rw [ofNat_wrapNat, signedOf_eq_toInt]
    rfl
  · apply BitVec.eq_of_toNat_eq
    simp

/-- Settles O20: what `Group.write` does at each level, with the set's lowest lane first in its list of lanes. -/
theorem destinationRules : Obligations.DestinationRules := by
  unfold Obligations.DestinationRules
  intro g o ty w m val t
  refine ⟨fun hm => ?none, fun ho l j hl hj => ?v, fun ho l j hl hj => ?k, fun ho k hk hlow => ?s⟩
  case none =>
    subst hm
    exact g.write_of_noLane o ty w
  case v =>
    have hmem := (mem_lanesOf m l).mpr hl
    have h := Group.writeLanes_vGet ho w val hj _ (lanesOf_nodup m) (fun _ => lanesOf_lt) (lanesOf_lt hmem) g
    rw [if_pos hmem, ← Group.write_of_vLvl g ty w _ ho] at h
    exact (congrArg BitVec.toNat h).trans (wordOf_toNat _ _)
  case k =>
    have hmem := (mem_lanesOf m l).mpr hl
    have h := Group.writeLanes_kerb ho w val hj _ (lanesOf_nodup m) (fun _ => lanesOf_lt) (lanesOf_lt hmem) g
    rw [if_pos hmem, ← Group.write_of_kLvl g ty w _ ho] at h
    constructor
    · simp [t, Group.kValid, h]
    · simp only [t, Group.kGet, KMap.getD, h, Option.getD_some, wordOf_toNat]
  case s =>
    obtain ⟨rest, hr⟩ := lanesOf_lowest hk hlow
    have ht : t = g.write o ty w ((k, val k) :: rest.map (fun l => (l, val l))) := by simp only [t, hr, List.map_cons]
    refine ⟨?_, ?_, ?_⟩
    · rintro rfl
      rw [ht, Group.write_of_sLvl g ty _ _ _ ho (Nat.le_refl 64), Group.sGet_sSet_self]
      simp [fillS]
    · rintro rfl hb
      rw [ht, Group.write_of_sLvl g ty _ _ _ ho (by decide), Group.sGet_sSet_self, ofNat_fillS _ hb]
    · rintro rfl
      rw [ht, Group.write_of_sPair g ty _ _ _ ho (by decide), Group.sGet_sSet_self, Group.sGet_sSet,
        if_neg (Nat.succ_ne_self _), Group.sGet_sSet_self, BitVec.toNat_ofNat, BitVec.toNat_ofNat]
      exact ⟨rfl, rfl⟩

end Sys2Proof.Machine
end

section
/-! Special registers (R38 to R41, R185, R208): the values that SRD and PRVR read, and what SWR and PRVW put. -/

namespace Sys2Proof.Machine

/-! ### Lowest passing lane -/

theorem lowLane_zero : lowLane 0 = none := by decide

/-- The lowest lane of a set is the one below which the set has none. -/
theorem lowLane_of_lowest {m : Mask} {k : Nat} (hk : m.getLsbD k = true) (hlow : ∀ l, l < k → m.getLsbD l = false) :
    lowLane m = some k := by
  obtain ⟨rest, h⟩ := lanesOf_lowest hk hlow
  rw [lowLane, h, List.head?_cons]

/-! ### Values -/

/-- The cycles for which the governor holds the entries add up in any way of counting them (R424). -/
theorem foldl_heldCycles (es : List Entry) (now : Nat) :
    es.foldl (fun n e => n + e.heldCycles now) 0 = (es.map (fun e => e.heldCycles now)).sum := by
  rw [List.sum_eq_foldl, List.foldl_map]

/-- What a write of a special register leaves (R39), as one equation. -/
theorem Group.setSpecial_eq (g : Group) (n v : Nat) : g.setSpecial n v = { g with
    limit := if n = 10 ∧ v % 256 ≠ 0 then v % 256 else g.limit
    utvec := if n = 11 then v / 8 * 8 else g.utvec } := by
  unfold Group.setSpecial
  split
  · by_cases h : v % 256 = 0 <;> simp [h]
  · simp
  · next h10 h11 =>
    have h10' : n ≠ 10 := h10
    have h11' : n ≠ 11 := h11
    simp [h10', h11']

/-! ### PRVW -/

section
variable {f : FS} {s : State} {x : Issue} (hx : issueOf (.prvw f) s { priv := true } = some x)
include hx

theorem execPrvw_idle (h0 : x.pass = 0) : exec (.prvw f) s = .next (x.done x.g) := by
  rw [exec_prvw, execPrvw, stage_of_issueOf hx, h0, lowLane_zero]
  rfl

variable {l : Nat} (hl : lowLane x.pass = some l)
include hl

/-- A device register takes its value after the word is done. -/
theorem execPrvw_device (h1 : f.sub.toNat / 4 = 1) : exec (.prvw f) s =
    (x.done x.g).dcrWrite f.idx.toNat (BitVec.ofNat 64 (partSet f.sub (x.s.dcrRead f.idx.toNat) (x.src f.a f.partBits l))) := by
  have hsp : FS.space1 f = true := by simp [FS.space1, h1]
  rw [exec_prvw, execPrvw, stage_of_issueOf hx, hl]
  simp only [hsp, if_true, Issue.privReg, Issue.finish_eq]

theorem execPrvw_special (h1 : f.sub.toNat / 4 ≠ 1) : exec (.prvw f) s =
    .next (x.done (x.g.setSpecial f.idx.toNat (partSet f.sub (x.special f.idx.toNat l) (x.src f.a f.partBits l)))) := by
  have hsp : FS.space1 f = false := by simp [FS.space1, h1]
  rw [exec_prvw, execPrvw, stage_of_issueOf hx, hl]
  simp only [hsp, Bool.false_eq_true, if_false, Issue.privReg, Issue.finish_eq]

end

/-- FC_STALL takes what is written (R351), unless the host alone is served (R440). -/
theorem State.dcrWrite_stall (s : State) (v : Nat) (h : s.ident.limited = false) :
    s.dcrWrite 0x104 (BitVec.ofNat 64 v) = .next { s with fc := { s.fc with stall := v % 2 ^ 64 } } := by
  simp [State.dcrWrite, h, State.writeFc]

/-- Settles O48: `Issue.special` is the table of R39, and a write goes to the register through `Group.setSpecial_eq`. -/
theorem specialRegisters : Obligations.SpecialRegisters := by
  unfold Obligations.SpecialRegisters
  intro f s x value part put
  have hval : ∀ l, x.special f.idx.toNat l = value l := by
    intro l
    simp only [value, Issue.special, foldl_heldCycles]
    generalize f.idx.toNat = n
    split
    case h_20 => simp [*]
    all_goals rfl
  have hpart : ∀ v, partOf f.sub v = part v := fun _ => rfl
  have hput : ∀ old v, partSet f.sub old v = put old v := fun _ _ => rfl
  refine ⟨fun hx => ?srd, fun hx => ⟨?swrIdle, ?swr⟩, fun hx => ?prvr, fun hx => ⟨execPrvw_idle hx, ?prvw⟩⟩
  case srd => 
    exact gives_congr (lanewise_gives (f := fun x l => partOf f.sub (x.special f.idx.toNat l)) hx (exec_srd f s)) fun l => by
      rw [hpart, hval]
  case swrIdle =>
    intro h0
    rw [exec_swr, execSwr, stage_of_issueOf hx, h0, lowLane_zero]
    rfl
  case swr =>
    intro l hl hlow v
    have hv8 : v - v % 8 = v / 8 * 8 := by omega
    rw [exec_swr, execSwr, stage_of_issueOf hx, lowLane_of_lowest hl hlow]
    simp only [Issue.finish_eq, Group.setSpecial_eq, hval, hput, hv8]
    rfl
  case prvr =>
    refine gives_congr (lanewise_gives (f := fun x l => partOf f.sub (x.privReg f l)) hx (exec_prvr f s)) fun l => ?_
    rw [hpart, Issue.privReg, FS.space1, hval]
    by_cases h : f.sub.toNat / 4 = 1 <;> simp [h]
  case prvw =>
    intro l hl hlow s1 v
    have hlane := lowLane_of_lowest hl hlow
    refine ⟨fun h1 => execPrvw_device hx hlane h1, fun h1 hlim hi => ?_, fun h1 => ?_⟩
    · rw [execPrvw_device hx hlane h1, hi, State.dcrWrite_stall _ _ hlim, hput]
      simp only [v, hi]
    · rw [execPrvw_special hx hlane h1, Group.setSpecial_eq, hval, hput]

end Sys2Proof.Machine
end

section
/-! Traps at issue (R94 to R98): the checks of a word in their order, and the start of the handler clause. -/

namespace Sys2Proof.Machine

/-! ### The lowest position of a check -/

theorem leastPos_eq_min? (l : List Nat) : leastPos l = l.min? := by
  cases l with
  | nil => rfl
  | cons a l => rw [leastPos, List.min?_cons']

section
variable {ops : List (OpK × Operand × Nat)} {ok : OpK → Operand → Bool} {bad : OpK × Operand × Nat → Prop}
  (hb : ∀ x, ok x.1 x.2.1 = true ↔ bad x)
include hb

/-- The lowest position among the operands that offend. -/
theorem leastPos_of_least {p : Nat} (h : (∃ x ∈ ops, bad x ∧ x.2.2 = p) ∧ ∀ x ∈ ops, bad x → p ≤ x.2.2) :
    leastPos (ops.filterMap (fun x => if ok x.1 x.2.1 then some x.2.2 else none)) = some p := by
  obtain ⟨⟨x, hx, hbad, rfl⟩, hle⟩ := h
  rw [leastPos_eq_min?, List.min?_eq_some_iff]
  refine ⟨List.mem_filterMap.mpr ⟨x, hx, by simp [(hb x).mpr hbad]⟩, fun q hq => ?_⟩
  obtain ⟨y, hy, hyq⟩ := List.mem_filterMap.mp hq
  by_cases hk : ok y.1 y.2.1 = true
  · simp only [hk, if_true, Option.some.injEq] at hyq
    exact hyq ▸ hle y hy ((hb y).mp hk)
  · simp [hk] at hyq

theorem leastPos_of_free (h : ∀ x ∈ ops, ¬ bad x) :
    leastPos (ops.filterMap (fun x => if ok x.1 x.2.1 then some x.2.2 else none)) = none := by
  have hnil : ops.filterMap (fun x => if ok x.1 x.2.1 then some x.2.2 else none) = [] :=
    List.filterMap_eq_nil_iff.mpr fun x hx => if_neg fun hk => h x hx ((hb x).mp hk)
  rw [hnil]
  rfl

end

/-! ### What offends -/

/-- A tile or region beyond what the team holds (R80, R220). -/
def lacksNumber (tiles accr : Nat) (x : OpK × Operand × Nat) : Prop :=
  (x.1 = .tile ∧ tiles ≤ x.2.1.idx.toNat) ∨ (x.1 = .region ∧ accr ≤ x.2.1.idx.toNat)

theorem numBadDyn_iff (tiles accr : Nat) (x : OpK × Operand × Nat) :
    numBadDyn tiles accr x.1 x.2.1 = true ↔ lacksNumber tiles accr x := by
  obtain ⟨k, o, p⟩ := x
  cases k <;> simp [numBadDyn, lacksNumber]

/-- An operand that its field cannot take at its level (R25, R33, R85, R192, R198). -/
def illegalOperand (regs : Nat) (x : OpK × Operand × Nat) : Prop :=
  (x.1 = .base ∧ regs ≤ x.2.1.idx.toNat) ∨ ∃ w, (x.1 = .src w ∨ x.1 = .dst w ∨ x.1 = .upd w) ∧ match x.2.1.lvl with
    | .k => 8 ≤ x.2.1.idx.toNat ∨ x.2.1.idx.toNat % regCount w ≠ 0
    | .v => regs < x.2.1.idx.toNat + regCount w ∨ x.2.1.idx.toNat % regCount w ≠ 0
    | .s => 64 ≤ x.2.1.idx.toNat ∨ (64 < w ∧ x.2.1.idx.toNat % 2 ≠ 0)
    | .q => x.1 ≠ .src w ∨ x.2.1.idx.toNat % regCount w ≠ 0

theorem levelBad_iff (regs : Nat) (x : OpK × Operand × Nat) : levelBad regs x.1 x.2.1 = true ↔ illegalOperand regs x := by
  obtain ⟨k, ⟨lvl, idx⟩, p⟩ := x
  cases k <;> cases lvl <;> simp [levelBad, levelBad.bad, illegalOperand]

/-- A kerb source with a slot that is cleared in a lane of the entry (R27, log entry 14). -/
def clearedSource (g : Group) (m : Mask) (x : OpK × Operand × Nat) : Prop :=
  ∃ w, (x.1 = .src w ∨ x.1 = .upd w) ∧ x.2.1.lvl = .k ∧ ∃ j, j < regCount w ∧ ∃ l, m.getLsbD l = true ∧
    g.kValid (x.2.1.idx.toNat + j) l = false

theorem kerbBad_iff (g : Group) (m : Mask) (x : OpK × Operand × Nat) : kerbBad g m x.1 x.2.1 = true ↔ clearedSource g m x := by
  obtain ⟨k, ⟨lvl, idx⟩, p⟩ := x
  cases k <;> cases lvl <;> simp [kerbBad, clearedSource, opkReads, opRegs, mem_lanesOf]

theorem mem_vRegs (l : List RegRef) (r : Nat) : r ∈ vRegs l ↔ .v r ∈ l := by
  simp only [vRegs, List.mem_filterMap]
  constructor
  · rintro ⟨x, hx, h⟩
    cases x <;> simp at h
    exact h ▸ hx
  · exact fun h => ⟨_, h, rfl⟩

theorem addReads_bit (b : BitVec 256) (l : List Nat) (r : Nat) (hr : r < 256) :
    (addReads b l).getLsbD r = (b.getLsbD r || decide (r ∈ l)) := by
  induction l generalizing b with
  | nil => simp [addReads]
  | cons n l ih =>
    have hn : (BitVec.ofNat 256 (2 ^ n)).getLsbD r = decide (n = r) := by
      rw [BitVec.getLsbD_ofNat, Nat.testBit_two_pow]
      simp [hr]
    have := ih (b ||| BitVec.ofNat 256 (2 ^ n))
    rw [addReads, List.foldl_cons, ← addReads, this, BitVec.getLsbD_or, hn]
    rcases eq_or_ne n r with h | h
    · simp [h]
    · simp [h, h.symm]

/-- A set of lanes is not empty where one of its lanes is. -/
theorem mask_ne_zero_iff (m : Mask) : m ≠ 0 ↔ ∃ l, m.getLsbD l = true := by
  constructor
  · intro h
    obtain ⟨l, hl⟩ := List.exists_mem_of_ne_nil _ (lanesOf_ne_nil h)
    exact ⟨l, (mem_lanesOf m l).mp hl⟩
  · rintro ⟨l, hl⟩ rfl
    simp at hl

/-- A poisoned V register among those that a word reads: in a passing lane, or in the lane that names it. -/
theorem poison_read_iff (g : Group) (pass : Mask) (reads : List RegRef) (lr : List (Nat × Nat)) :
    ((vRegs reads).any (fun r => (KMap.getD g.vpoison 0 r &&& pass) != 0) ||
        lr.any (fun x => (KMap.getD g.vpoison 0 x.2).getLsbD x.1)) = true ↔
      ∃ r l, (.v r ∈ reads ∧ pass.getLsbD l = true ∨ (l, r) ∈ lr) ∧ (KMap.getD g.vpoison 0 r).getLsbD l = true := by
  simp only [Bool.or_eq_true, List.any_eq_true, mem_vRegs, bne_iff_ne, mask_ne_zero_iff, BitVec.getLsbD_and, Bool.and_eq_true]
  constructor
  · rintro (⟨r, hr, l, hp, hl⟩ | ⟨⟨l, r⟩, hx, hp⟩)
    · exact ⟨r, l, .inl ⟨hr, hl⟩, hp⟩
    · exact ⟨r, l, .inr hx, hp⟩
  · rintro ⟨r, l, ⟨hr, hl⟩ | hx, hp⟩
    · exact .inl ⟨r, hr, l, hp, hl⟩
    · exact .inr ⟨(l, r), hx, hp⟩

/-! ### The checks in their order -/

section
variable {s : State} {gid : Nat} {e : Entry} {f : Info} {n : Need} {p : Nat}

theorem State.decodeTrap_number (h : (∃ x ∈ f.ops, lacksNumber (s.phaseOf gid).sched.tiles (s.phaseOf gid).sched.accr x ∧ x.2.2 = p) ∧
    ∀ x ∈ f.ops, lacksNumber (s.phaseOf gid).sched.tiles (s.phaseOf gid).sched.accr x → p ≤ x.2.2) :
    s.decodeTrap gid e f n = some (.field, p) := by
  simp only [State.decodeTrap, leastPos_of_least (numBadDyn_iff _ _) h]

variable (h1 : ∀ x ∈ f.ops, ¬ lacksNumber (s.phaseOf gid).sched.tiles (s.phaseOf gid).sched.accr x)
include h1

theorem State.decodeTrap_level (h : (∃ x ∈ f.ops, illegalOperand (s.grp gid).regs x ∧ x.2.2 = p) ∧
    ∀ x ∈ f.ops, illegalOperand (s.grp gid).regs x → p ≤ x.2.2) : s.decodeTrap gid e f n = some (.level, p) := by
  simp only [State.decodeTrap, leastPos_of_free (numBadDyn_iff _ _) h1, leastPos_of_least (levelBad_iff _) h]

variable (h2 : ∀ x ∈ f.ops, ¬ illegalOperand (s.grp gid).regs x)
include h2

theorem State.decodeTrap_kerb (h : (∃ x ∈ f.ops, clearedSource (s.grp gid) e.mask x ∧ x.2.2 = p) ∧
    ∀ x ∈ f.ops, clearedSource (s.grp gid) e.mask x → p ≤ x.2.2) : s.decodeTrap gid e f n = some (.kerbInvalid, p) := by
  simp only [State.decodeTrap, leastPos_of_free (numBadDyn_iff _ _) h1, leastPos_of_free (levelBad_iff _) h2,
    leastPos_of_least (kerbBad_iff _ _) h]

variable (h3 : ∀ x ∈ f.ops, ¬ clearedSource (s.grp gid) e.mask x)
include h3

theorem State.decodeTrap_slot {k : Nat} (hk : n.slot = some k) (h : Slot.decode ((s.phaseOf gid).slot k) = none) :
    s.decodeTrap gid e f n = some (.formatSlot, if 0xD0 ≤ f.op then 49 else 48) := by
  simp only [State.decodeTrap, leastPos_of_free (numBadDyn_iff _ _) h1, leastPos_of_free (levelBad_iff _) h2,
    leastPos_of_free (kerbBad_iff _ _) h3, hk, h, Option.isNone_none, if_true, ge_iff_le]

theorem State.decodeTrap_none (h : ∀ k, n.slot = some k → Slot.decode ((s.phaseOf gid).slot k) ≠ none) :
    s.decodeTrap gid e f n = none := by
  simp only [State.decodeTrap, leastPos_of_free (numBadDyn_iff _ _) h1, leastPos_of_free (levelBad_iff _) h2,
    leastPos_of_free (kerbBad_iff _ _) h3]
  cases hk : n.slot with
  | none => rfl
  | some k => simp [Option.isNone_eq_false_iff.mpr (Option.isSome_iff_ne_none.mpr (h k hk))]

end

section
variable {i : Instr} {s : State} {n : Need} {k : Issue → Out} {gid lane : Nat} {e : Entry} {f : Info}
  (hf : s.focus = some ⟨gid, lane⟩) (he : (s.grp gid).entryAt lane = some e) (hi : i.info = some f) (hh : s.holds gid e f n = false)
include hf he hi hh

theorem stage_of_decodeTrap {c : Cause} {p : Nat} (h : s.decodeTrap gid e f n = some (c, p)) :
    stage i s n k = .next ((s.trap gid lane c p e.word e.pc).settle gid) := by
  simp only [stage, hf, hi, he, hh, h, Bool.false_eq_true, if_false, State.trapOut]

variable (hd : s.decodeTrap gid e f n = none) (hp : n.priv = false) (hn : n.nested = true → e.handler = false)
  (hc : n.cross = true → (s.grp gid).crossOk e.mask = true)
include hd hp hn hc

theorem stage_of_sealed (hm : n.memaff = true) (hs : (s.grp gid).sealed &&& e.mask ≠ 0) :
    stage i s n k = .next ((s.trap gid lane .orderInStrand 0xFF e.word e.pc).settle gid) := by
  simp only [stage, hf, hi, he, hh, hd, hp, Bool.false_eq_true, if_false, State.trapOut, Bool.false_and]
  rw [if_neg (by simpa using hn), if_neg (by simpa using hc), if_pos (by simpa [hm] using hs)]

variable (hm : n.memaff = true → (s.grp gid).sealed &&& e.mask = 0)
include hm

theorem stage_of_poison (h : ∃ r l, (.v r ∈ f.ops.flatMap (fun x => opkReads x.1 x.2.1) ++ n.reads ∧
      ((s.grp gid).guard e.mask f.g).getLsbD l = true ∨ (l, r) ∈ n.laneReads) ∧ (KMap.getD (s.grp gid).vpoison 0 r).getLsbD l = true) :
    stage i s n k = .next (s.groupFault gid 11 e.pc 0 0) := by
  simp only [stage, hf, hi, he, hh, hd, hp, Bool.false_eq_true, if_false, State.faultOut, Bool.false_and]
  rw [if_neg (by simpa using hn), if_neg (by simpa using hc), if_neg (by simpa using hm), if_pos ((poison_read_iff ..).mpr h)]

theorem stage_of_clobber
    (hr : ∀ r l, (.v r ∈ f.ops.flatMap (fun x => opkReads x.1 x.2.1) ++ n.reads ∧ ((s.grp gid).guard e.mask f.g).getLsbD l = true ∨
      (l, r) ∈ n.laneReads) → (KMap.getD (s.grp gid).vpoison 0 r).getLsbD l = false)
    (hs : n.survivors = false)
    (h : ∃ r, r < 256 ∧ .v r ∈ f.ops.flatMap (fun x => opkWrites x.1 x.2.1) ++ n.writes ∧ ((s.grp gid).readSet.getLsbD r = true ∨
      .v r ∈ f.ops.flatMap (fun x => opkReads x.1 x.2.1) ++ n.reads ∨ ∃ l, (l, r) ∈ n.laneReads)) :
    stage i s n k = .next ((s.trap gid lane .strandClobber 38 e.word e.pc).settle gid) := by
  obtain ⟨r, hlt, hw, hread⟩ := h
  have hclean := mt (poison_read_iff (s.grp gid) _ _ _).mp fun ⟨r, l, hx, hl⟩ => Bool.false_ne_true ((hr r l hx).symm.trans hl)
  simp only [stage, hf, hi, he, hh, hd, hp, Bool.false_eq_true, if_false, State.trapOut, Bool.false_and]
  rw [if_neg (by simpa using hn), if_neg (by simpa using hc), if_neg (by simpa using hm), if_neg hclean, if_pos]
  simp only [hs, Bool.not_false, Bool.true_and, List.any_eq_true]
  refine ⟨r, (mem_vRegs _ _).mpr hw, ?_⟩
  rw [addReads_bit _ _ _ hlt]
  simpa [mem_vRegs, or_assoc] using hread

end

/-! ### The start of the handler clause -/

theorem causeCode_lt (c : Cause) : c.code < 256 := by cases c <;> decide

theorem Group.livelocked_reentry (g : Group) (c : Cause) (m : Mask) :
    (g.livelocked c m).reentry = if c = .strandLivelock then g.livelock m else g.reentry := by
  unfold Group.livelocked
  split <;> rfl

/-- What a trap leaves of the re-entry of its lanes touches nothing else. -/
theorem Group.livelocked_eq (g : Group) (c : Cause) (m : Mask) :
    g.livelocked c m = { g with reentry := (g.livelocked c m).reentry, recheck := (g.livelocked c m).recheck } := by
  unfold Group.livelocked
  split <;> rfl

/-- The group once its entry has trapped into its handler clause. -/
def Group.trapped (g : Group) (lane : Nat) (e : Entry) (c : Cause) (pos word pc : Nat) : Group :=
  { (((g.livelocked c e.mask).enter e.mask e.pc e.prio).setTrapRegs c pos word pc).modEntry lane (fun e =>
      { e with pc := g.utvec, clause := none, wait := .none, handler := true, retry := 0, governed := false }) with
    handler := some ⟨c, e.advance.pc, e.advance.clause, e.prio⟩ }

theorem Group.trapped_reentry (g : Group) (lane : Nat) (e : Entry) (c : Cause) (pos word pc : Nat) :
    (g.trapped lane e c pos word pc).reentry = if c = .strandLivelock then g.livelock e.mask else g.reentry := by
  simp only [Group.trapped, Group.modEntry, Group.setTrapRegs, Group.enter, Group.livelocked_reentry]

theorem Group.trapped_entered (g : Group) (lane : Nat) (e : Entry) (c : Cause) (pos word pc : Nat) (hp : pos < 256) :
    TrapEntered g (g.trapped lane e c pos word pc) lane e c pos word pc where
  cause := by
    have := causeCode_lt c
    exact (BitVec.toNat_ofNat ..).trans (Nat.mod_eq_of_lt (by omega))
  dec0 := (BitVec.toNat_ofNat ..).trans (Nat.mod_eq_of_lt (by unfold bitsOf; omega))
  dec1 := (BitVec.toNat_ofNat ..).trans (Nat.mod_eq_of_lt (by unfold bitsOf; omega))
  dec2 := (BitVec.toNat_ofNat ..).trans (Nat.mod_eq_of_lt (by unfold bitsOf; omega))
  dec3 := by
    have h : (bitsOf pc 56 3 * 256 + bitsOf word 7 0) % 2 ^ 64 = pc / 8 % 2 ^ 54 * 256 + word % 256 := by
      simp only [bitsOf]
      omega
    exact (BitVec.toNat_ofNat ..).trans h
  entries := by
    rw [Group.trapped, Group.livelocked_eq]
    rfl
  handler := rfl
  regs := by
    rw [Group.trapped, Group.livelocked_eq]
    exact ⟨rfl, rfl, rfl, rfl, rfl, rfl, rfl⟩

section
variable {s : State} {gid lane : Nat} {e : Entry} {c : Cause} {pos word pc : Nat}
  (he : (s.grp gid).entryAt lane = some e) (hh : e.handler = false)
include he hh

theorem State.trap_of_handler (hg : (s.grp gid).handler = none) (hok : (s.touchHandler gid).handlerOk gid = .ok true) :
    s.trap gid lane c pos word pc = (s.touchHandler gid).setGrp gid ((s.grp gid).trapped lane e c pos word pc) := by
  simp only [State.trap, he, hh, hg, Option.isSome_none, Bool.false_eq_true, if_false, hok]
  rfl

theorem State.trap_of_absent {page code level : Nat} (hg : (s.grp gid).handler = none)
    (hok : (s.touchHandler gid).handlerOk gid = .error (.absent page code level)) :
    s.trap gid lane c pos word pc = ((s.touchHandler gid).pageNotice ((s.touchHandler gid).coreOf gid) (s.grp gid).ctx page code
      level).modGrp gid (fun g => g.modEntry lane (fun e => { e with wait := .fetch page })) := by
  simp only [State.trap, he, hh, hg, Option.isSome_none, Bool.false_eq_true, if_false, hok]

theorem State.trap_deferred {h : Handler} (hg : (s.grp gid).handler = some h) :
    s.trap gid lane c pos word pc = s.setGrp gid { s.grp gid with deferred := some ⟨e.mask, c, pos, word, pc⟩ } := by
  simp only [State.trap, he, hh, hg, Option.isSome_some, Bool.false_eq_true, if_false, if_true]

end

theorem State.touchHandler_same (s : State) (gid : Nat) : SameButMemory s (s.touchHandler gid) := by
  unfold State.touchHandler
  dsimp only
  split
  · exact .refl s
  · exact State.touchRange_same ..

theorem SameButMemory.coreOf {s t : State} (h : SameButMemory s t) (gid : Nat) : t.coreOf gid = s.coreOf gid := by
  rw [h]
  rfl

theorem Issue.Of.issued_entry {i : Instr} {s : State} {x : Issue} (h : Issue.Of i s x) : x.g.entryAt x.lane = some x.e := by
  obtain ⟨b, l, hs⟩ := h.state
  rw [Issue.g, hs, State.grp_setGrp_self]
  exact h.entry

/-! ### Format slots -/

theorem ofCode_isSome (n : Nat) : (NTy.ofCode n).isSome = true ↔ n < 6 := by
  unfold NTy.ofCode
  split <;> simp_all
  omega

theorem intervalOf_isSome (n : Nat) : (intervalOf n).isSome = true ↔ n ≤ 4 := by
  unfold intervalOf
  split <;> simp_all
  omega

theorem otyCode_isSome (n : Nat) : (OTy.ofCode n).isSome = true ↔ n ≤ 4 := by
  unfold OTy.ofCode
  split <;> simp_all
  omega

/-- The pairs of R56 by their codes. -/
def goodPairs : List (Nat × Nat) := [(0, 3), (1, 3), (2, 3), (3, 3), (4, 5), (5, 5)]

theorem pairMeter_codes {m n : Nat} {a b : NTy} (ha : NTy.ofCode m = some a) (hb : NTy.ofCode n = some b) :
    (pairMeter a b).isSome = true ↔ (m, n) ∈ goodPairs := by
  have table : ∀ m < 6, ∀ n < 6, ((NTy.ofCode m).bind fun a => (NTy.ofCode n).bind (pairMeter a)).isSome =
      decide ((m, n) ∈ goodPairs) := by decide
  have h := table m ((ofCode_isSome m).mp (by simp [ha])) n ((ofCode_isSome n).mp (by simp [hb]))
  simp only [ha, hb, Option.bind_some] at h
  simp [h]

theorem scaled_codes {m n : Nat} {a b : NTy} (ha : NTy.ofCode m = some a) (hb : NTy.ofCode n = some b)
    (hp : (m, n) ∈ goodPairs) : (a.scaled && b.scaled) = true ↔ (m, n) ∈ [(4, 5), (5, 5)] := by
  have table : ∀ p ∈ goodPairs, ((NTy.ofCode p.1).any NTy.scaled && (NTy.ofCode p.2).any NTy.scaled) =
      decide (p ∈ [(4, 5), (5, 5)]) := by decide
  have h := table (m, n) hp
  simp only [ha, hb, Option.any_some] at h
  rw [h, decide_eq_true_iff]

theorem goodPairs_lt {m n : Nat} (h : (m, n) ∈ goodPairs) : m < 6 ∧ n < 6 := by
  have table : ∀ p ∈ goodPairs, p.1 < 6 ∧ p.2 < 6 := by decide
  exact table (m, n) h

/-- Which words are valid format slots (R63, R64). -/
theorem slotDecode_isSome (x : Word64) : (Slot.decode x).isSome = true ↔
    (bitsOf x.toNat 31 28, bitsOf x.toNat 27 24) ∈ goodPairs ∧ bitsOf x.toNat 23 21 ≤ 4 ∧ bitsOf x.toNat 15 13 ≤ 4 ∧
      bitsOf x.toNat 10 9 ≤ 1 ∧ bitsOf x.toNat 63 32 = 0 ∧ bitsOf x.toNat 8 0 = 0 ∧
      ((bitsOf x.toNat 31 28, bitsOf x.toNat 27 24) ∈ [(4, 5), (5, 5)] → bitsOf x.toNat 20 19 = 1 ∧
        bitsOf x.toNat 18 16 = bitsOf x.toNat 23 21) ∧
      ((bitsOf x.toNat 31 28, bitsOf x.toNat 27 24) ∉ [(4, 5), (5, 5)] → bitsOf x.toNat 20 19 = 0 ∧ bitsOf x.toNat 18 16 = 0) := by
  unfold Slot.decode
  dsimp only
  generalize bitsOf x.toNat 31 28 = m, bitsOf x.toNat 27 24 = n, bitsOf x.toNat 23 21 = i, bitsOf x.toNat 15 13 = o
  cases ha : NTy.ofCode m with
  | none =>
    have hm := mt (ofCode_isSome m).mpr (by simp [ha])
    simp only [Option.isSome_none, Bool.false_eq_true, false_iff]
    exact fun h => hm (goodPairs_lt h.1).1
  | some a =>
    cases hb : NTy.ofCode n with
    | none =>
      have hn := mt (ofCode_isSome n).mpr (by simp [hb])
      simp only [Option.isSome_none, Bool.false_eq_true, false_iff]
      exact fun h => hn (goodPairs_lt h.1).2
    | some b =>
      cases hi : intervalOf i with
      | none =>
        have hi4 := mt (intervalOf_isSome i).mpr (by simp [hi])
        simp [hi4]
      | some v =>
        cases ho : OTy.ofCode o with
        | none =>
          have ho4 := mt (otyCode_isSome o).mpr (by simp [ho])
          simp [ho4]
        | some t =>
          have hi4 := (intervalOf_isSome i).mp (by simp [hi])
          have ho4 := (otyCode_isSome o).mp (by simp [ho])
          have hsc := scaled_codes ha hb
          have hpair := pairMeter_codes ha hb
          by_cases hp : (m, n) ∈ goodPairs
          · have hp' := hpair.mpr hp
            by_cases hs : (m, n) ∈ [(4, 5), (5, 5)]
            · simp [hi4, ho4, hp, hp', hs, (hsc hp).mpr hs]
              tauto
            · simp [hi4, ho4, hp, hp', hs, Bool.eq_false_iff.mpr (mt (hsc hp).mp hs)]
              tauto
          · simp [hp, mt hpair.mp hp]

/-- Settles O27: `State.trap_of_handler` with `Group.trapped_entered` for the handler's start, the lemmas `stage_of_…` for the checks in
their order, and `slotDecode_isSome` for the format slots. -/
theorem trapTaken : Obligations.TrapTaken := by
  unfold Obligations.TrapTaken
  refine ⟨?taken, ?word, ?checks, slotDecode_isSome⟩
  case taken =>
    intro s gid lane e c pos word pc he hh hp
    refine ⟨fun hg hok => ?_, fun page code level hg hok => ?_, fun h hg => State.trap_deferred he hh hg⟩
    · refine ⟨_, State.trap_of_handler he hh hg hok, Group.trapped_entered _ _ _ _ _ _ _ hp, fun hc => ?_, fun hc => ?_⟩
      · rw [Group.trapped_reentry, if_pos hc]
      · rw [Group.trapped_reentry, if_neg hc]
    · rw [State.trap_of_absent he hh hg hok, (s.touchHandler_same gid).coreOf]
  case word =>
    intro f s x p hp hx hh hg hok
    have hent := (issueOf_spec hx).issued_entry
    refine ⟨_, ?_, Group.trapped_entered _ _ _ _ _ _ _ (by decide)⟩
    have hexec : exec p.1 s = stage p.1 s {} (fun x => x.trap p.2 8) := by
      fin_cases hp <;> rfl
    rw [hexec, stage_of_issueOf hx, Issue.trap, State.trapOut, State.trap_of_handler hent hh hg hok]
    rfl
  case checks =>
    intro i s n k gid lane e f g sch trap lacking illegal invalid least free reads writes mark hf he hi hh
    refine ⟨fun p h => ?field, fun h1 p h => ?level, fun h1 h2 p h => ?kerb, fun h1 h2 h3 => ⟨fun sl hsl h => ?slot, ?rest⟩⟩
    case field => exact stage_of_decodeTrap hf he hi hh (State.decodeTrap_number h)
    case level => exact stage_of_decodeTrap hf he hi hh (State.decodeTrap_level h1 h)
    case kerb => exact stage_of_decodeTrap hf he hi hh (State.decodeTrap_kerb h1 h2 h)
    case slot => exact stage_of_decodeTrap hf he hi hh (State.decodeTrap_slot h1 h2 h3 hsl h)
    case rest =>
      intro hslot hp hn hc
      have hd : s.decodeTrap gid e f n = none := State.decodeTrap_none h1 h2 h3 hslot
      exact ⟨stage_of_sealed hf he hi hh hd hp hn hc, fun hm => ⟨stage_of_poison hf he hi hh hd hp hn hc hm,
        stage_of_clobber hf he hi hh hd hp hn hc hm⟩⟩

end Sys2Proof.Machine
end

section
/-! The survivors of a commit at BND (R176, R268): what refutes the statement of StrandCommit as it is quantified. -/

namespace Sys2Proof.Machine

/-- A group whose one entry waits at a BND with the pairs k2 to v17 and k5 to v18; kerb slot 2 holds 7 in lane 0, and every V register 0. -/
def bndGroup : Group where
  regs := 32
  active := true
  outside := 0
  kerb := [(2 * 64, 7)]
  entries := [{ pc := 8, prio := 0, mask := allLanes, wait := .bnd, clause := some ⟨0, plainHeader 1, [0x070044402448057C]⟩ }]

/-- The machine right after reset, with that group alone. -/
def bndState : State := { State.reset with groups := [(0, bndGroup)] }

theorem bndState_canCommit : bndState.canCommit 0 = true := by decide +kernel

theorem bndGroup_survivors : ∀ e ∈ bndGroup.entries, survivors e.word = [(2, 17), (5, 18)] := by decide +kernel

/-- The model's commit of that group gives v17 the survivor. -/
theorem bndState_commits : ∃ t, exec (.strandCommit 0) bndState = .next t ∧ (t.grp 0).vGet 17 0 = 7 := by
  have h : (match exec (.strandCommit 0) bndState with
    | .next t => (t.grp 0).vGet 17 0 == 7
    | _ => false) = true := by decide +kernel
  cases hx : exec (.strandCommit 0) bndState with
  | next t => exact ⟨t, rfl, by simpa [hx] using h⟩
  | fault f => simp [hx] at h
  | refused r => simp [hx] at h

/-- Refutes O31: its clause on the registers that keep their value is quantified over single pairs, `∀ k, ((k, r) ∉ survivors …) → …`, so
that any slot k that is not paired with r makes r keep its value, even where another slot is. In `bndState` slot 2 is paired with v17 and
slot 0 is not: v17 would have to hold both 7 and 0. -/
theorem not_strandCommit : ¬ Obligations.StrandCommit := by
  unfold Obligations.StrandCommit
  rintro ⟨hcommit, -⟩
  obtain ⟨-, hgo⟩ := hcommit bndState 0 bndGroup rfl rfl
  obtain ⟨s1, -, -, -, -, -, -, -, -, -, -, -, -, -, -, -, -, -, -, -, hregs⟩ := hgo (by decide) (by decide) bndState_canCommit
  have hpair : bndGroup.entries.Pairwise (fun a b => a.mask &&& b.mask = 0) := List.pairwise_singleton ..
  obtain ⟨e, he⟩ : ∃ e, e ∈ bndGroup.entries := ⟨_, List.mem_cons_self⟩
  have hlane : e.mask.getLsbD 0 = true := by
    obtain rfl := List.mem_singleton.mp he
    decide
  obtain ⟨hkeep, hput⟩ := hregs hpair e he 0 hlane 17
  rw [bndGroup_survivors e he] at hput
  have hkept := hkeep 0 (by rw [bndGroup_survivors e he]; decide)
  have hsurvivor := hput 2 (by decide) (by simp)
  exact absurd (hkept.symm.trans hsurvivor) (by decide)

end Sys2Proof.Machine
end

section
/-! Soft errors (R44, R267, R269, R270, R412 to R414, R428, R429): what reports, discards and context faults leave alone, and what each
error strikes. -/

namespace Sys2Proof.Machine

/-! ### Events in the black box -/

/-- An event stands in a list with at most k events behind it. -/
def standsIn (l : List BbEvent) (e : BbEvent) (k : Nat) : Prop := ∃ pre post, l = pre ++ e :: post ∧ post.length ≤ k

theorem standsIn_push (l : List BbEvent) (e : BbEvent) : standsIn (ringPush l e) e 0 := by
  refine ⟨l.drop (l.length + 1 - 4096), [], ?_, Nat.le_refl 0⟩
  rw [ringPush, List.drop_append_of_le_length (by omega)]

theorem standsIn.push {l : List BbEvent} {e : BbEvent} {k : Nat} (h : standsIn l e k) (hk : k + 2 ≤ 4096) (x : BbEvent) :
    standsIn (ringPush l x) e (k + 1) := by
  obtain ⟨pre, post, rfl, hp⟩ := h
  refine ⟨pre.drop ((pre ++ e :: post).length + 1 - 4096), post ++ [x], ?_, by simpa using hp⟩
  rw [ringPush, List.append_assoc, List.cons_append, List.drop_append_of_le_length]
  simp only [List.length_append, List.length_cons]
  omega

/-- An event stands in one of the rings of the black box. -/
def AlwaysOn.tells (a : AlwaysOn) (e : BbEvent) (k : Nat) : Prop := standsIn a.ring e k ∨ standsIn a.second e k

theorem AlwaysOn.tells.mem {a : AlwaysOn} {e : BbEvent} {k : Nat} (h : a.tells e k) : e ∈ a.ring ++ a.second := by
  rcases h with ⟨pre, post, h, -⟩ | ⟨pre, post, h, -⟩ <;> simp [h]

/-- A new event, whatever keeps a ring to its length: the ring it enters is pushed as a whole, and never looked into. -/
def State.logWith (push : List BbEvent → BbEvent → List BbEvent) (s : State) (e : BbEvent) : State :=
  if s.aon.dump.isSome then { s with aon := { s.aon with eseq := s.aon.eseq + 1, second := push s.aon.second e } }
  else { s with aon := { s.aon with eseq := s.aon.eseq + 1, ring := push s.aon.ring e } }

theorem State.logRaw_eq (s : State) (code core ctx detail : Nat) :
    s.logRaw code core ctx detail = s.logWith ringPush ⟨s.aon.eseq, code, core, ctx, detail⟩ := rfl

section
variable (push : List BbEvent → BbEvent → List BbEvent) (s : State) (e : BbEvent)

theorem State.logWith_ring : (s.logWith push e).aon.ring = if s.aon.dump.isSome then s.aon.ring else push s.aon.ring e := by
  unfold State.logWith
  split <;> rfl

theorem State.logWith_second : (s.logWith push e).aon.second = if s.aon.dump.isSome then push s.aon.second e else s.aon.second := by
  unfold State.logWith
  split <;> rfl

theorem State.logWith_counts : (s.logWith push e).aon.eseq = s.aon.eseq + 1 ∧ (s.logWith push e).aon.corrected = s.aon.corrected ∧
    (s.logWith push e).aon.dump = s.aon.dump := by
  unfold State.logWith
  split <;> exact ⟨rfl, rfl, rfl⟩

end

theorem AlwaysOn.tells_iff (a : AlwaysOn) (e : BbEvent) (k : Nat) : a.tells e k ↔ standsIn a.ring e k ∨ standsIn a.second e k := Iff.rfl

theorem State.logRaw_tells (s : State) (code core ctx detail : Nat) :
    (s.logRaw code core ctx detail).aon.tells ⟨s.aon.eseq, code, core, ctx, detail⟩ 0 := by
  rw [AlwaysOn.tells_iff, State.logRaw_eq, State.logWith_ring, State.logWith_second]
  cases s.aon.dump.isSome
  · rw [if_neg Bool.false_ne_true]
    exact .inl (standsIn_push _ _)
  · rw [if_pos rfl, if_pos rfl]
    exact .inr (standsIn_push _ _)

theorem standsIn.mono {l : List BbEvent} {e : BbEvent} {k j : Nat} (h : standsIn l e k) (hkj : k ≤ j) : standsIn l e j := by
  obtain ⟨pre, post, hl, hp⟩ := h
  exact ⟨pre, post, hl, hp.trans hkj⟩

theorem AlwaysOn.tells.logRaw {s : State} {e : BbEvent} {k : Nat} (h : s.aon.tells e k) (hk : k + 2 ≤ 4096)
    (code core ctx detail : Nat) : (s.logRaw code core ctx detail).aon.tells e (k + 1) := by
  rw [AlwaysOn.tells_iff] at h
  rw [AlwaysOn.tells_iff, State.logRaw_eq, State.logWith_ring, State.logWith_second]
  cases s.aon.dump.isSome
  · rw [if_neg Bool.false_ne_true, if_neg Bool.false_ne_true]
    exact h.imp (·.push hk _) (·.mono (Nat.le_succ k))
  · rw [if_pos rfl, if_pos rfl]
    exact h.imp (·.mono (Nat.le_succ k)) (·.push hk _)

theorem AlwaysOn.tells.mono {a : AlwaysOn} {e : BbEvent} {k j : Nat} (h : a.tells e k) (hkj : k ≤ j) : a.tells e j :=
  Or.imp (standsIn.mono · hkj) (standsIn.mono · hkj) h

/-! ### First touches clear poison, and set none (R367, R414) -/

theorem State.setPaWord_poison (s : State) (pa x : Nat) : (s.setPaWord pa x).poison = s.poison := by
  unfold State.setPaWord
  split <;> rfl

theorem State.firstTouch_poison (s : State) (tower ia : Nat) : (s.firstTouch tower ia).poison ⊆ s.poison := by
  unfold State.firstTouch
  split
  · dsimp only
    split
    · exact List.Subset.refl _
    · rw [State.setPaWord_poison, State.setPaWord_poison]
      exact List.filter_subset_self ..
  · exact List.Subset.refl _

/-- Two states that differ in memory, where the second has no poison that the first has not. -/
structure Clears (s t : State) : Prop where
  same : SameButMemory s t
  poison : t.poison ⊆ s.poison

theorem Clears.refl (s : State) : Clears s s := ⟨.refl s, List.Subset.refl _⟩

theorem Clears.trans {s t u : State} (h1 : Clears s t) (h2 : Clears t u) : Clears s u :=
  ⟨h1.same.trans h2.same, List.Subset.trans h2.poison h1.poison⟩

theorem Clears.foldl {α : Type} (f : State → α → State) (l : List α) (s : State) (hf : ∀ s a, Clears s (f s a)) :
    Clears s (l.foldl f s) := by
  induction l generalizing s with
  | nil => exact .refl s
  | cons a l ih => exact (hf s a).trans (ih _)

theorem State.firstTouch_clears (s : State) (tower ia : Nat) : Clears s (s.firstTouch tower ia) :=
  ⟨s.firstTouch_same tower ia, s.firstTouch_poison tower ia⟩

theorem State.touchVa_clears (s : State) (ctx tower : Nat) (kind : Acc) (line : Nat) : Clears s (s.touchVa ctx tower kind line) := by
  unfold State.touchVa
  split
  · split
    · exact s.firstTouch_clears _ _
    · exact .refl s
  · exact .refl s

theorem State.touchRange_clears (s : State) (ctx tower : Nat) (kind : Acc) (va n : Nat) :
    Clears s (s.touchRange ctx tower kind va n) := .foldl _ _ _ fun s _ => s.touchVa_clears _ _ _ _

theorem State.touchHandler_clears (s : State) (gid : Nat) : Clears s (s.touchHandler gid) := by
  unfold State.touchHandler
  dsimp only
  split
  · exact .refl s
  · exact s.touchRange_clears _ _ _ _ _

theorem State.iaTouch_clears (s : State) (ia n : Nat) : Clears s (s.iaTouch ia n) := .foldl _ _ _ fun s _ => by
  dsimp only
  split
  · exact s.firstTouch_clears _ _
  · exact .refl s

theorem State.iaWrite_clears {s t : State} {ia : Nat} {bytes : List Byte} (h : s.iaWrite ia bytes = .ok t) : Clears s t := by
  unfold State.iaWrite at h
  dsimp only at h
  split at h
  · cases h
  · cases h
    exact (s.iaTouch_clears _ _).trans (.foldl _ _ _ fun s e => ⟨rfl, List.Subset.refl _⟩)

/-! ### Reports -/

/-- Two states that differ in memory, in the notice ring, in the black box and in the pages that have a notice, where the second has no
poison that the first has not. -/
structure Reports (s t : State) : Prop where
  same : t = { s with mem := t.mem, poison := t.poison, l2bad := t.l2bad, nr := t.nr, aon := t.aon, xl := t.xl }
  poison : t.poison ⊆ s.poison

theorem Reports.refl (s : State) : Reports s s := ⟨rfl, List.Subset.refl _⟩

theorem Reports.trans {s t u : State} (h1 : Reports s t) (h2 : Reports t u) : Reports s u := by
  refine ⟨?_, List.Subset.trans h2.poison h1.poison⟩
  rw [h2.same, h1.same]

theorem Clears.reports {s t : State} (h : Clears s t) : Reports s t := by
  refine ⟨?_, h.poison⟩
  rw [h.same]

theorem State.logRaw_reports (s : State) (code core ctx detail : Nat) : Reports s (s.logRaw code core ctx detail) := by
  unfold State.logRaw
  dsimp only
  split <;> exact ⟨rfl, List.Subset.refl _⟩

theorem State.notice_reports (s : State) (code core ctx hi : Nat) : Reports s (s.notice code core ctx hi) := by
  unfold State.notice
  dsimp only
  split
  · exact ⟨rfl, List.Subset.refl _⟩
  · split
    · exact ⟨rfl, List.Subset.refl _⟩
    · split
      · next s1 hs => exact (State.iaWrite_clears hs).reports.trans ⟨rfl, List.Subset.refl _⟩
      · exact ⟨rfl, List.Subset.refl _⟩

theorem State.notice_aon (s : State) (code core ctx hi : Nat) : (s.notice code core ctx hi).aon = s.aon := by
  unfold State.notice
  dsimp only
  split
  · rfl
  · split
    · rfl
    · split
      · next s1 hs =>
        rw [(State.iaWrite_clears hs).same]
      · rfl

theorem State.log_reports (s : State) (code core ctx detail : Nat) : Reports s (s.log code core ctx detail) := by
  unfold State.log
  dsimp only
  split
  · exact (s.logRaw_reports _ _ _ _).trans (State.notice_reports _ _ _ _ _)
  · exact s.logRaw_reports _ _ _ _

theorem State.log_aon (s : State) (code core ctx detail : Nat) :
    (s.log code core ctx detail).aon = (s.logRaw code core ctx detail).aon := by
  unfold State.log
  dsimp only
  split
  · exact State.notice_aon _ _ _ _ _
  · rfl

theorem State.log_tells (s : State) (code core ctx detail : Nat) :
    (s.log code core ctx detail).aon.tells ⟨s.aon.eseq, code, core, ctx, detail⟩ 0 := by
  rw [s.log_aon]
  exact s.logRaw_tells _ _ _ _

theorem State.pageNotice_reports (s : State) (core ctx page code level : Nat) : Reports s (s.pageNotice core ctx page code level) := by
  unfold State.pageNotice
  split
  · exact .refl s
  · exact (s.notice_reports _ _ _ _).trans ⟨rfl, List.Subset.refl _⟩

theorem State.pageNotice_aon (s : State) (core ctx page code level : Nat) : (s.pageNotice core ctx page code level).aon = s.aon := by
  unfold State.pageNotice
  split
  · rfl
  · exact s.notice_aon _ _ _ _

theorem Reports.ctx {s t : State} (h : Reports s t) (c : Nat) : t.ctx c = s.ctx c := by
  rw [h.same]
  rfl

theorem Reports.grp {s t : State} (h : Reports s t) (gid : Nat) : t.grp gid = s.grp gid := by
  rw [h.same]
  rfl

/-! ### What a discard, a trap and a fault keep -/

/-- Where a team stands, and its extent. -/
def State.ground (s : State) (id : Nat) : Option (Nat × Nat) := (KMap.find? s.teams id).map (fun x => (x.core, x.extent))

/-- The repair map, the dirty and the acknowledged lines and the places of teams are equal, and the second state has no poison that the
first has not. -/
structure Steady (s t : State) : Prop where
  stack : t.stk = s.stk
  dirty : t.l2dirty = s.l2dirty
  accepted : t.accepted = s.accepted
  poison : t.poison ⊆ s.poison
  ground : ∀ id, t.ground id = s.ground id

theorem Steady.refl (s : State) : Steady s s := ⟨rfl, rfl, rfl, List.Subset.refl _, fun _ => rfl⟩

theorem Steady.trans {s t u : State} (h1 : Steady s t) (h2 : Steady t u) : Steady s u :=
  ⟨h2.stack.trans h1.stack, h2.dirty.trans h1.dirty, h2.accepted.trans h1.accepted, List.Subset.trans h2.poison h1.poison,
    fun id => (h2.ground id).trans (h1.ground id)⟩

theorem Steady.foldl {α : Type} (f : State → α → State) (l : List α) (s : State) (hf : ∀ s a, Steady s (f s a)) :
    Steady s (l.foldl f s) := by
  induction l generalizing s with
  | nil => exact .refl s
  | cons a l ih => exact (hf s a).trans (ih _)

theorem Reports.steady {s t : State} (h : Reports s t) : Steady s t := by
  refine ⟨?_, ?_, ?_, h.poison, fun id => ?_⟩ <;> rw [h.same]
  rfl

/-- Nothing of these parts changes. -/
theorem Steady.of_eq {s t : State} (hs : t.stk = s.stk) (hd : t.l2dirty = s.l2dirty) (ha : t.accepted = s.accepted)
    (hp : t.poison = s.poison) (ht : t.teams = s.teams) : Steady s t :=
  ⟨hs, hd, ha, hp ▸ List.Subset.refl _, fun id => by rw [State.ground, ht]; rfl⟩

section
variable {s t : State} (h : Steady s t)
include h

theorem Steady.modGrp (gid : Nat) (f : Group → Group) : Steady s (t.modGrp gid f) := h.trans (.of_eq rfl rfl rfl rfl rfl)

theorem Steady.setGrp (gid : Nat) (g : Group) : Steady s (t.setGrp gid g) := h.trans (.of_eq rfl rfl rfl rfl rfl)

theorem Steady.modCtx (c : Nat) (f : Ctx → Ctx) : Steady s (t.modCtx c f) := h.trans (.of_eq rfl rfl rfl rfl rfl)

theorem Steady.modPhase (p : Nat) (f : Phase → Phase) : Steady s (t.modPhase p f) := h.trans (.of_eq rfl rfl rfl rfl rfl)

theorem Steady.meter (c i n : Nat) : Steady s (t.meter c i n) := h.modCtx c _

theorem Steady.dropHolders (core : Nat) : Steady s (t.dropHolders core) := h.trans (.of_eq rfl rfl rfl rfl rfl)

theorem Steady.ops (o : KMap Op) : Steady s { t with ops := o } := h.trans (.of_eq rfl rfl rfl rfl rfl)

theorem Steady.commits (c : KMap (List Commit)) : Steady s { t with commits := c } := h.trans (.of_eq rfl rfl rfl rfl rfl)

/-- A change of a team that leaves it where it stands. -/
theorem Steady.modTeam (team : Nat) (f : Team → Team) (hf : ∀ x, (f x).core = x.core ∧ (f x).extent = x.extent) :
    Steady s (t.modTeam team f) := by
  refine h.trans ⟨rfl, rfl, rfl, List.Subset.refl _, fun id => ?_⟩
  unfold State.ground State.modTeam
  rw [KMap.find?_modify]
  split
  · cases KMap.find? t.teams id with
    | none => rfl
    | some x => simp [hf x]
  · rfl

end

theorem State.withdraw_steady (s : State) (gid : Nat) : Steady s (s.withdraw gid) := by
  refine ((Steady.refl s).modTeam _ _ ?_).modPhase _ _
  exact fun _ => ⟨rfl, rfl⟩

theorem State.discard_steady (s : State) (gid : Nat) (m : Mask) (counts : Bool) (parks : List (Nat × Nat)) :
    Steady s (s.discard gid m counts parks) := by
  unfold State.discard
  dsimp only
  split
  · exact .refl s
  · refine (((Steady.ops (Steady.modGrp ?_ _ _) _).modGrp _ _).meter _ _ _).dropHolders _
    split
    · exact s.withdraw_steady gid
    · exact .refl s

theorem State.stopGroups_steady (s : State) (ctx : Nat) : Steady s (s.stopGroups ctx) := .foldl _ _ _ fun s _ =>
  (((Steady.refl s).modGrp _ _).trans (State.discard_steady _ _ _ _ _)).modGrp _ _

theorem State.faultNotice_steady (s : State) (ctx : Nat) : Steady s (s.faultNotice ctx) := by
  unfold State.faultNotice
  split
  · split
    · exact ((Steady.refl s).modCtx _ _).trans (State.notice_reports ..).steady
    · exact .refl s
  · exact .refl s

theorem State.writeFault_steady (s : State) (ctx : Nat) : Steady s (s.writeFault ctx) := by
  unfold State.writeFault
  dsimp only
  split
  · exact .refl s
  · split
    · exact s.faultNotice_steady ctx
    · split
      · next s1 hs => exact ((State.iaWrite_clears hs).reports.steady.modCtx _ _).trans (State.faultNotice_steady _ _)
      · exact ((State.iaTouch_clears ..).reports.trans (State.pageNotice_reports ..)).steady.modCtx _ _
      · exact ((State.logRaw_reports ..).steady.modCtx _ _).trans (State.faultNotice_steady _ _)
      · exact s.faultNotice_steady ctx

theorem State.contextFault_steady (s : State) (ctx : Nat) (r : FaultRec) : Steady s (s.contextFault ctx r) := by
  have logged : ∀ core, Steady s (s.logRaw 1 core ctx r.cause) := fun core => (s.logRaw_reports ..).steady
  unfold State.contextFault
  dsimp only
  split
  · exact (((logged _).trans (State.stopGroups_steady _ _)).modCtx _ _).trans (State.writeFault_steady _ _)
  · exact ((logged _).modCtx _ _).trans (State.writeFault_steady _ _)
  · exact logged _

theorem State.groupFault_steady (s : State) (gid cause pc detail xcause : Nat) : Steady s (s.groupFault gid cause pc detail xcause) :=
  s.contextFault_steady _ _

theorem State.livelocked_steady (s : State) (gid : Nat) (cause : Cause) (m : Mask) : Steady s (s.livelocked gid cause m) := by
  unfold State.livelocked
  split
  · exact (Steady.refl s).modGrp _ _
  · exact .refl s

theorem State.trap_steady (s : State) (gid lane : Nat) (cause : Cause) (pos word pc : Nat) :
    Steady s (s.trap gid lane cause pos word pc) := by
  have touched := (s.touchHandler_clears gid).reports.steady
  unfold State.trap
  dsimp only
  split
  · exact .refl s
  · split
    · exact s.groupFault_steady _ _ _ _ _
    · split
      · exact (Steady.refl s).setGrp _ _
      · split
        · exact (touched.trans (State.pageNotice_reports ..).steady).modGrp _ _
        · exact (touched.trans (State.livelocked_steady ..)).trans (State.groupFault_steady ..)
        · exact touched.setGrp _ _
        · exact (touched.trans (State.livelocked_steady ..)).trans (State.groupFault_steady ..)

theorem State.takeDeferred_steady (s : State) (gid : Nat) : Steady s (s.takeDeferred gid) := by
  unfold State.takeDeferred
  dsimp only
  split
  · split
    · exact ((Steady.refl s).setGrp _ _).trans (State.trap_steady ..)
    · exact (Steady.refl s).setGrp _ _
  · exact .refl s

theorem State.commitBuffer_steady (s : State) (gid : Nat) : Steady s (s.commitBuffer gid) := by
  unfold State.commitBuffer
  dsimp only
  split
  · exact .refl s
  · exact ((Steady.refl s).commits _).modGrp _ _

theorem State.makeVisible_steady (s : State) (gid : Nat) : Steady s (s.makeVisible gid) :=
  ((Steady.refl s).ops _).trans (State.commitBuffer_steady ..)

theorem State.setBar_steady (s : State) (gid : Nat) (cluster : Bool) (id : Nat) (b : Bar) : Steady s (s.setBar gid cluster id b) := by
  unfold State.setBar
  dsimp only
  split
  · exact (Steady.refl s).modPhase _ _
  · exact (Steady.refl s).modTeam _ _ fun _ => ⟨rfl, rfl⟩

theorem State.barRelease_steady (s : State) (gid : Nat) (cluster : Bool) (id : Nat) : Steady s (s.barRelease gid cluster id) := by
  unfold State.barRelease
  dsimp only
  generalize (if (s.bar gid cluster id).arrived.isEmpty = true then false else _ : Bool) = full
  cases full
  · exact .refl s
  · exact (s.setBar_steady gid cluster id {}).trans (.foldl _ _ _ fun t _ => (Steady.refl t).modGrp _ _)

theorem State.barArrive_steady (s : State) (gid : Nat) : Steady s (s.barArrive gid) := by
  have arrive : ∀ cluster id b, Steady s (((s.makeVisible gid).setBar gid cluster id b).barRelease gid cluster id) := fun _ _ _ =>
    ((s.makeVisible_steady gid).trans (State.setBar_steady ..)).trans (State.barRelease_steady ..)
  unfold State.barArrive
  dsimp only
  split
  · split
    · split
      · split
        · split
          · exact arrive _ _ _
          · exact s.makeVisible_steady gid
        · split
          · exact arrive _ _ _
          · exact s.makeVisible_steady gid
      · exact .refl s
    · exact .refl s
  · exact .refl s

theorem State.addCounts_steady (s : State) (gid : Nat) : Steady s (s.addCounts gid) := by
  have counts : ∀ (n : Nat → Nat) (l : List Nat), Steady s (l.foldl (fun t i => if n i = 0 then t else t.meter (s.grp gid).ctx (5 + i) (n i)) s) := by
    intro n l
    refine .foldl _ _ _ fun t i => ?_
    split
    · exact .refl t
    · exact (Steady.refl t).meter _ _ _
  unfold State.addCounts
  dsimp only
  split
  · exact counts _ _
  · exact (counts _ _).meter _ _ _

theorem State.commitStrand_steady (s : State) (gid : Nat) : Steady s (s.commitStrand gid) :=
  ((((s.addCounts_steady gid).ops _).trans (State.commitBuffer_steady ..)).ops _).modGrp _ _

theorem State.groupEnd_steady (s : State) (gid : Nat) : Steady s (s.groupEnd gid) :=
  ((s.commitStrand_steady gid).modGrp _ _).trans (.foldl _ _ _ fun t id =>
    (State.barRelease_steady t gid false id).trans (State.barRelease_steady _ gid true id))

theorem State.settle_steady (s : State) (gid : Nat) : Steady s (s.settle gid) := by
  have waits : ∀ f, Steady s (((s.modGrp gid f).takeDeferred gid).barArrive gid) := fun f =>
    (((Steady.refl s).modGrp gid f).trans (State.takeDeferred_steady ..)).trans (State.barArrive_steady ..)
  unfold State.settle
  dsimp only
  split
  · exact (waits _).trans (State.groupEnd_steady ..)
  · exact waits _

theorem State.errorDiscard_steady (s : State) (gid : Nat) : Steady s (s.errorDiscard gid) :=
  ((s.discard_steady gid _ true []).modGrp _ _).trans (State.settle_steady _ gid)

/-! ### What reports and discards keep of groups and contexts -/

/-- The number of a group's V registers, and which of them are poisoned. -/
def State.file (s : State) (gid : Nat) : Option (Nat × KMap (BitVec 64)) :=
  (KMap.find? s.groups gid).map (fun g => (g.regs, g.vpoison))

/-- Whether a context runs, and the cause and address of its fault. -/
def Ctx.plight (c : Ctx) : CtxState × Option (Nat × Nat) := (c.st, c.fault.map (fun f => (f.cause, f.addr)))

/-- The registers of groups and the plight of contexts are equal, and the black box has at most n events more. -/
structure Keeps (n : Nat) (s t : State) : Prop where
  file : ∀ gid, t.file gid = s.file gid
  plight : ∀ c, (t.ctx c).plight = (s.ctx c).plight
  events : ∀ e k, k + n + 1 ≤ 4096 → s.aon.tells e k → t.aon.tells e (k + n)

theorem Keeps.refl (s : State) : Keeps 0 s s := ⟨fun _ => rfl, fun _ => rfl, fun _ _ _ h => h⟩

theorem Keeps.trans {n m : Nat} {s t u : State} (h1 : Keeps n s t) (h2 : Keeps m t u) : Keeps (n + m) s u where
  file gid := (h2.file gid).trans (h1.file gid)
  plight c := (h2.plight c).trans (h1.plight c)
  events e k hk h := Nat.add_assoc k n m ▸ h2.events e (k + n) (by omega) (h1.events e k (by omega) h)

theorem Keeps.le {n m : Nat} {s t : State} (h : Keeps n s t) (hnm : n ≤ m) : Keeps m s t where
  file := h.file
  plight := h.plight
  events e k hk he := (h.events e k (by omega) he).mono (by omega)

theorem Keeps.foldl {α : Type} (f : State → α → State) (l : List α) (s : State) (hf : ∀ s a, Keeps 0 s (f s a)) :
    Keeps 0 s (l.foldl f s) := by
  induction l generalizing s with
  | nil => exact .refl s
  | cons a l ih => exact (hf s a).trans (ih _)

theorem Keeps.of_eq {s t : State} (hg : t.groups = s.groups) (hc : t.ctxs = s.ctxs) (ha : t.aon = s.aon) : Keeps 0 s t :=
  ⟨fun gid => by rw [State.file, hg]; rfl, fun c => by rw [State.ctx, hc]; rfl, fun _ _ _ h => ha ▸ h⟩

theorem Reports.keeps {s t : State} (h : Reports s t) (ha : t.aon = s.aon) : Keeps 0 s t :=
  .of_eq (by rw [h.same]) (by rw [h.same]) ha

theorem State.logRaw_keeps (s : State) (code core ctx detail : Nat) : Keeps 1 s (s.logRaw code core ctx detail) where
  file gid := by rw [State.file, (s.logRaw_reports code core ctx detail).same]; rfl
  plight c := by rw [(s.logRaw_reports code core ctx detail).ctx]
  events _ _ hk h := h.logRaw (by omega) code core ctx detail

theorem State.notice_keeps (s : State) (code core ctx hi : Nat) : Keeps 0 s (s.notice code core ctx hi) :=
  (s.notice_reports ..).keeps (s.notice_aon ..)

theorem State.log_keeps (s : State) (code core ctx detail : Nat) : Keeps 1 s (s.log code core ctx detail) := by
  unfold State.log
  dsimp only
  split
  · exact (s.logRaw_keeps ..).trans (State.notice_keeps ..)
  · exact s.logRaw_keeps ..

theorem Clears.keeps {s t : State} (h : Clears s t) : Keeps 0 s t := h.reports.keeps (by rw [h.same])

theorem Ctx.addMeter_plight (c : Ctx) (i n : Nat) : (c.addMeter i n).plight = c.plight := by
  unfold Ctx.addMeter
  dsimp only
  split <;> rfl

section
variable {n : Nat} {s t : State} (h : Keeps n s t)
include h

/-- A change of a group that keeps its registers. -/
theorem Keeps.modGrp (gid : Nat) (f : Group → Group)
    (hf : ∀ g, (f g).regs = g.regs ∧ (f g).vpoison = g.vpoison := by exact fun _ => ⟨rfl, rfl⟩) :
    Keeps n s (t.modGrp gid f) := by
  refine h.trans (m := 0) ⟨fun i => ?_, fun _ => rfl, fun _ _ _ h => h⟩
  unfold State.file State.modGrp
  rw [KMap.find?_modify]
  split
  · cases KMap.find? t.groups i with
    | none => rfl
    | some g => simp [hf g]
  · rfl

/-- A change of a context that keeps the plight it has now. -/
theorem Keeps.modCtx_of (c : Nat) (f : Ctx → Ctx) (hf : (f (t.ctx c)).plight = (t.ctx c).plight) : Keeps n s (t.modCtx c f) := by
  refine h.trans (m := 0) ⟨fun _ => rfl, fun i => ?_, fun _ _ _ h => h⟩
  rw [State.ctx_modCtx]
  split
  · next hi => rw [hf, hi]
  · rfl

/-- A change of a context that keeps its plight. -/
theorem Keeps.modCtx (c : Nat) (f : Ctx → Ctx) (hf : ∀ x, (f x).plight = x.plight := by exact fun _ => rfl) :
    Keeps n s (t.modCtx c f) := h.modCtx_of c f (hf _)

theorem Keeps.meter (c i k : Nat) : Keeps n s (t.meter c i k) := h.modCtx c _ fun x => x.addMeter_plight i k

theorem Keeps.ops (o : KMap Op) : Keeps n s { t with ops := o } := h.trans (m := 0) (.of_eq rfl rfl rfl)

theorem Keeps.dropHolders (core : Nat) : Keeps n s (t.dropHolders core) := h.trans (m := 0) (.of_eq rfl rfl rfl)

end

theorem Group.discard_file (g : Group) (m : Mask) (counts : Bool) (parks : List (Nat × Nat)) :
    (g.discard m counts parks).regs = g.regs ∧ (g.discard m counts parks).vpoison = g.vpoison := by
  unfold Group.discard
  dsimp only
  split <;> exact ⟨rfl, rfl⟩

theorem State.discard_keeps (s : State) (gid : Nat) (m : Mask) (counts : Bool) (parks : List (Nat × Nat)) :
    Keeps 0 s (s.discard gid m counts parks) := by
  unfold State.discard
  dsimp only
  split
  · exact .refl s
  · refine ((((Keeps.modGrp ?_ _ _).ops _).modGrp _ _ fun g => g.discard_file _ _ _).meter _ _ _).dropHolders _
    split
    · exact .of_eq rfl rfl rfl
    · exact .refl s

theorem State.stopGroups_keeps (s : State) (ctx : Nat) : Keeps 0 s (s.stopGroups ctx) := .foldl _ _ _ fun s _ =>
  (((Keeps.refl s).modGrp _ _).trans (State.discard_keeps _ _ _ _ _)).modGrp _ _

theorem State.faultNotice_keeps (s : State) (ctx : Nat) : Keeps 0 s (s.faultNotice ctx) := by
  unfold State.faultNotice
  split
  · split
    · exact ((Keeps.refl s).modCtx _ _).trans (State.notice_keeps ..)
    · exact .refl s
  · exact .refl s

theorem Ctx.plight_more (c : Ctx) (r : FaultRec) (hr : c.fault = some r) :
    ({ c with fault := some r.more, frecWait := false } : Ctx).plight = c.plight := by
  simp [Ctx.plight, hr, FaultRec.more]

theorem State.writeFault_keeps (s : State) (ctx : Nat) : Keeps 1 s (s.writeFault ctx) := by
  unfold State.writeFault
  dsimp only
  split
  · exact (Keeps.refl s).le (by omega)
  · next r hr =>
    split
    · exact (s.faultNotice_keeps ctx).le (by omega)
    · split
      · next s1 hs => exact (((State.iaWrite_clears hs).keeps.modCtx _ _).trans (State.faultNotice_keeps _ _)).le (by omega)
      · exact (((State.iaTouch_clears ..).keeps.trans ((State.pageNotice_reports ..).keeps (State.pageNotice_aon ..))).modCtx _ _).le (by omega)
      · next cause _ _ =>
        refine Keeps.trans (n := 1) (m := 0) ?_ (State.faultNotice_keeps _ _)
        have logged := s.logRaw_keeps 1 noCore16 ctx cause
        exact logged.modCtx_of ctx _ (Ctx.plight_more _ r (by rw [(s.logRaw_reports ..).ctx, hr]))
      · exact (s.faultNotice_keeps ctx).le (by omega)

/-! ### Context faults -/

/-- A context fault leaves the registers of groups, and what is poisoned of them. -/
theorem State.contextFault_file (s : State) (ctx : Nat) (r : FaultRec) (gid : Nat) : (s.contextFault ctx r).file gid = s.file gid := by
  have logged : ∀ core, (s.logRaw 1 core ctx r.cause).file gid = s.file gid := fun core => (s.logRaw_keeps ..).file gid
  unfold State.contextFault
  dsimp only
  split
  · rw [(State.writeFault_keeps _ _).file, State.file, State.modCtx_groups, ← State.file, (State.stopGroups_keeps _ _).file, logged]
  · rw [(State.writeFault_keeps _ _).file, State.file, State.modCtx_groups, ← State.file, logged]
  · exact logged _

/-- A fault of an active context stops it with the cause and address of the fault, and what the black box told before stays in it. -/
theorem State.contextFault_of_active (s : State) (ctx : Nat) (r : FaultRec) (h : (s.ctx ctx).st = .active) :
    ((s.contextFault ctx r).ctx ctx).plight = (.stopped, some (r.cause, r.addr)) := by
  unfold State.contextFault
  dsimp only
  rw [(s.logRaw_reports ..).ctx, h, (State.writeFault_keeps _ _).plight, State.ctx_modCtx_self]
  rfl

theorem State.contextFault_tells (s : State) (ctx : Nat) (r : FaultRec) (h : (s.ctx ctx).st = .active) (e : BbEvent)
    (he : s.aon.tells e 0) : (s.contextFault ctx r).aon.tells e 2 := by
  unfold State.contextFault
  dsimp only
  rw [(s.logRaw_reports ..).ctx, h]
  refine (State.writeFault_keeps _ _).events e 1 (by omega) ?_
  rw [State.modCtx_aon]
  exact ((s.logRaw_keeps ..).trans (State.stopGroups_keeps ..)).events e 0 (by omega) he

/-! ### Corrected errors -/

theorem execCorrectedError_new (unit : ErrUnit) (addr : Nat) (s : State)
    (h : ∀ e ∈ s.aon.corrected, e.1 = unit → e.2.1 + 65536 ≤ s.now .alwaysOn) : ∃ t : State,
    execCorrectedError unit addr s = .next t ∧ t.aon.eseq = s.aon.eseq + 1 ∧ (unit, s.now .alwaysOn, s.aon.eseq) ∈ t.aon.corrected ∧
    (s.aon.dump = none → t.aon.ring = ringPush s.aon.ring ⟨s.aon.eseq, 2, (unitCode unit).2.2, noCtx, errDetail unit addr⟩) := by
  have none_open : s.aon.corrected.find? (fun e => decide (e.1 = unit) && decide (s.now .alwaysOn < e.2.1 + 65536)) = none := by
    rw [List.find?_eq_none]
    intro e he hopen
    rw [Bool.and_eq_true, decide_eq_true_eq, decide_eq_true_eq] at hopen
    have := h e he hopen.1
    omega
  have log_eq : s.log 2 (unitCode unit).2.2 noCtx (errDetail unit addr) = s.logRaw 2 (unitCode unit).2.2 noCtx (errDetail unit addr) := rfl
  unfold execCorrectedError
  rw [none_open]
  refine ⟨_, rfl, ?_⟩
  dsimp only
  rw [log_eq, State.logRaw_eq, (State.logWith_counts ..).1, State.logWith_ring]
  refine ⟨rfl, List.mem_cons_self, fun hd => ?_⟩
  rw [hd, Option.isSome_none, if_neg Bool.false_ne_true]

theorem execCorrectedError_again (unit : ErrUnit) (addr : Nat) (s : State) (c q : Nat) (rest : List (ErrUnit × Nat × Nat))
    (h : s.aon.corrected = (unit, c, q) :: rest) (hc : s.now .alwaysOn < c + 65536) : ∃ t : State,
    execCorrectedError unit addr s = .next t ∧ t.aon.eseq = s.aon.eseq ∧
    t.aon.ring = s.aon.ring.map (fun e => if e.eseq = q then { e with detail := e.detail + 2 ^ 64 } else e) := by
  have opened : s.aon.corrected.find? (fun e => decide (e.1 = unit) && decide (s.now .alwaysOn < e.2.1 + 65536)) = some (unit, c, q) := by
    rw [h, List.find?_cons_of_pos (by simpa using hc)]
  unfold execCorrectedError
  rw [opened]
  exact ⟨_, rfl, rfl, rfl⟩

/-! ### What a fault by an error tells -/

/-- An uncorrectable error has its event, with the detail that names the unit and the address in it. -/
theorem AlwaysOn.tells.told {a : AlwaysOn} {eseq core ctx d k : Nat} (h : a.tells ⟨eseq, 3, core, ctx, d⟩ k) :
    ∃ e ∈ a.ring ++ a.second, e.eseq = eseq ∧ e.code = 3 ∧ e.detail = d := ⟨_, h.mem, rfl, rfl, rfl⟩

/-- An error that faults the active context of a group: the context stops with cause 11, and the black box tells the error. -/
theorem State.groupFault_strikes (s s1 : State) (gid c pc core d : Nat) (hc : (s1.grp gid).ctx = c)
    (hst : (s1.ctx c).st = .active) (he : s1.aon.tells ⟨s.aon.eseq, 3, core, c, d⟩ 0) :
    ((s1.groupFault gid 11 pc 0 0).ctx c).st = .stopped ∧
    (∃ e ∈ (s1.groupFault gid 11 pc 0 0).aon.ring ++ (s1.groupFault gid 11 pc 0 0).aon.second,
      e.eseq = s.aon.eseq ∧ e.code = 3 ∧ e.detail = d) ∧
    ∃ f, ((s1.groupFault gid 11 pc 0 0).ctx c).fault = some f ∧ f.cause = 11 ∧ f.addr = pc := by
  subst hc
  have plight := s1.contextFault_of_active (s1.grp gid).ctx
    { cause := 11, xcause := 0, core := (s1.team (s1.grp gid).team).core, team := (s1.team (s1.grp gid).team).num,
      group := (s1.grp gid).num, addr := pc, detail := 0 } hst
  rw [Ctx.plight, Prod.mk.injEq, Option.map_eq_some_iff] at plight
  obtain ⟨stopped, f, hf, hfault⟩ := plight
  rw [Prod.mk.injEq] at hfault
  exact ⟨stopped, (s1.contextFault_tells _ _ hst _ he).told, f, hf, hfault⟩

theorem State.grp_of_find (s : State) {gid : Nat} {g : Group} (h : KMap.find? s.groups gid = some g) : s.grp gid = g := by
  rw [State.grp, h]
  rfl

theorem State.team_of_find (s : State) {id : Nat} {u : Team} (h : KMap.find? s.teams id = some u) : s.team id = u := by
  rw [State.team, h]
  rfl

/-- DETAIL of a store of registers: the class says where the group's registers are held. -/
theorem State.errDetail_regUnit (s : State) (gid addr : Nat) : errDetail (s.regUnit gid) addr = addr % 2 ^ 40 +
    2 ^ 40 * (s.coreOf gid % 2 ^ 16) + 2 ^ 56 * (if (s.core (s.coreOf gid)).running ≠ some (s.grp gid).ctx then 3
      else if (s.grp gid).active then 1 else 2) := by
  unfold State.regUnit errDetail
  dsimp only
  by_cases hr : (s.core (s.coreOf gid)).running = some (s.grp gid).ctx
  · simp only [hr, bne_self_eq_false, Bool.false_eq_true, if_false, ne_eq, not_true_eq_false]
    split <;> rfl
  · simp only [hr, bne_iff_ne, ne_eq, not_false_eq_true, if_true]
    rfl

theorem execRegisterEccError_eq (s : State) (gid reg : Nat) (lanes : BitVec 64) {g : Group} (hg : KMap.find? s.groups gid = some g)
    (hreg : reg < g.regs) (hl : lanes ≠ 0) : execRegisterEccError gid reg lanes s =
      .next ((s.logUnit (s.regUnit gid) (s.coreOf gid) g.ctx reg).poisonReg gid reg lanes (g.pcOf lanes)) := by
  unfold execRegisterEccError
  rw [hg]
  dsimp only
  rw [if_neg]
  exact not_or.mpr ⟨not_le.mpr hreg, hl⟩

theorem State.find_logUnit (s : State) (unit : ErrUnit) (core ctx addr gid : Nat) :
    KMap.find? (s.logUnit unit core ctx addr).groups gid = KMap.find? s.groups gid := by
  rw [State.logUnit, (s.log_reports 3 core ctx (errDetail unit addr)).same]

theorem State.file_of_find (s : State) {gid : Nat} {g : Group} (h : KMap.find? s.groups gid = some g) :
    s.file gid = some (g.regs, g.vpoison) := by
  rw [State.file, h]
  rfl

theorem State.vpoison_of_file (s : State) {gid n : Nat} {vp : KMap (BitVec 64)} (h : s.file gid = some (n, vp)) :
    (s.grp gid).vpoison = vp := by
  rw [State.file, Option.map_eq_some_iff] at h
  obtain ⟨g, hg, he⟩ := h
  rw [s.grp_of_find hg]
  exact (Prod.mk.inj he).2

theorem State.file_modGrp (s : State) (gid : Nat) (f : Group → Group) {g : Group} (h : KMap.find? s.groups gid = some g) :
    (s.modGrp gid f).file gid = some ((f g).regs, (f g).vpoison) := by
  rw [State.file, State.modGrp, KMap.find?_modify, if_pos rfl, h]
  rfl

theorem State.file_modGrp_ne (s : State) {gid i : Nat} (f : Group → Group) (h : gid ≠ i) : (s.modGrp gid f).file i = s.file i := by
  rw [State.file, State.modGrp, KMap.find?_modify, if_neg h]
  rfl

theorem State.groupFault_file (s : State) (gid cause pc detail xcause i : Nat) :
    (s.groupFault gid cause pc detail xcause).file i = s.file i := s.contextFault_file ..

/-! ### Errors of registers and of groups -/

section
variable {s : State} {gid : Nat} {g : Group} (hg : KMap.find? s.groups gid = some g)
include hg

theorem execRegisterEccError_poisons (reg : Nat) (lanes : BitVec 64) (hreg : reg < g.regs) (hl : lanes ≠ 0) (t : State)
    (ht : execRegisterEccError gid reg lanes s = .next t) (l : Nat) (h : lanes.getLsbD l = true) :
    (KMap.getD (t.grp gid).vpoison 0 reg).getLsbD l = true := by
  rw [execRegisterEccError_eq s gid reg lanes hg hreg hl] at ht
  injection ht with ht
  have found := (s.find_logUnit (s.regUnit gid) (s.coreOf gid) g.ctx reg gid).trans hg
  rw [← ht, State.poisonReg, State.vpoison_of_file _ ((State.groupFault_file ..).trans (State.file_modGrp _ _ _ found)),
    KMap.getD_setD_self, BitVec.getLsbD_or, h, Bool.or_true]

theorem execRegisterEccError_strikes (reg : Nat) (lanes : BitVec 64) (hreg : reg < g.regs) (hl : lanes ≠ 0)
    (hst : (s.ctx g.ctx).st = .active) : ∃ t : State, execRegisterEccError gid reg lanes s = .next t ∧ (t.ctx g.ctx).st = .stopped ∧
    (∃ e ∈ t.aon.ring ++ t.aon.second, e.eseq = s.aon.eseq ∧ e.code = 3 ∧ e.detail = errDetail (s.regUnit gid) reg) ∧
    ∃ f, (t.ctx g.ctx).fault = some f ∧ f.cause = 11 ∧ f.addr = g.pcOf lanes := by
  have found := (s.find_logUnit (s.regUnit gid) (s.coreOf gid) g.ctx reg gid).trans hg
  refine ⟨_, execRegisterEccError_eq s gid reg lanes hg hreg hl, State.groupFault_strikes s _ gid g.ctx _ (s.coreOf gid) _ ?_ ?_ ?_⟩
  · rw [State.grp_modGrp, if_pos ⟨rfl, by rw [found]; rfl⟩, State.grp_of_find _ found]
  · exact (congrArg Ctx.st ((s.log_reports ..).ctx g.ctx)).trans hst
  · exact s.log_tells ..

theorem execGroupStateParityError_strikes (hs : g.sealed ≠ 0) (hst : (s.ctx g.ctx).st = .active) : ∃ t : State,
    execGroupStateParityError gid s = .next t ∧ (t.ctx g.ctx).st = .stopped ∧
    (∃ e ∈ t.aon.ring ++ t.aon.second, e.eseq = s.aon.eseq ∧ e.code = 3 ∧ e.detail = errDetail (.scalar (s.coreOf gid)) g.num) ∧
    ∃ f, (t.ctx g.ctx).fault = some f ∧ f.cause = 11 ∧ f.addr = g.pcOf g.sealed := by
  have found := (s.find_logUnit (.scalar (s.coreOf gid)) (s.coreOf gid) g.ctx g.num gid).trans hg
  refine ⟨(s.logUnit (.scalar (s.coreOf gid)) (s.coreOf gid) g.ctx g.num).groupFault gid 11 (g.pcOf g.sealed) 0 0, ?_,
    State.groupFault_strikes s _ gid g.ctx _ (s.coreOf gid) _ ?_ ?_ ?_⟩
  · unfold execGroupStateParityError
    rw [hg]
    exact if_pos hs
  · rw [State.grp_of_find _ found]
  · exact (congrArg Ctx.st ((s.log_reports ..).ctx g.ctx)).trans hst
  · exact s.log_tells ..

theorem execGroupStateParityError_discards (hs : g.sealed = 0) : execGroupStateParityError gid s =
    .next (((s.log 3 (s.coreOf gid) g.ctx (errDetail (.scalar (s.coreOf gid)) g.num)).discardGroup gid true).settle gid) := by
  unfold execGroupStateParityError
  rw [hg]
  exact if_neg (not_not_intro hs)

theorem execPipelineError_discards : execPipelineError gid s =
    .next (((s.log 3 (s.coreOf gid) g.ctx (errDetail (.pipes (s.coreOf gid)) g.num)).discardGroup gid true).settle gid) := by
  unfold execPipelineError
  rw [hg]
  rfl

end

/-! ### Errors of memories -/

theorem mem_addNew (l : List Nat) (x : Nat) : x ∈ addNew l x := by
  unfold addNew
  split
  · next h => exact List.contains_iff_mem.mp h
  · simp

theorem subset_addNew (l : List Nat) (x : Nat) : l ⊆ addNew l x := by
  unfold addNew
  split
  · exact List.Subset.refl l
  · exact List.subset_append_left ..

theorem mem_of_mem_addNew {l : List Nat} {x y : Nat} (h : y ∈ addNew l x) : y ∈ l ∨ y = x := by
  unfold addNew at h
  split at h
  · exact .inl h
  · simpa using h

theorem State.team_log (s : State) (code core ctx d id : Nat) : (s.log code core ctx d).team id = s.team id := by
  rw [(s.log_reports code core ctx d).same]
  rfl

/-- An error that changes a team and is logged: the team is changed so, and the black box tells the error. -/
theorem State.teamError (s : State) (id : Nat) (f : Team → Team) (core ctx d : Nat) {u : Team} (hu : KMap.find? s.teams id = some u) :
    (((s.modTeam id f).log 3 core ctx d).team id = f u) ∧
    ∃ e ∈ ((s.modTeam id f).log 3 core ctx d).aon.ring ++ ((s.modTeam id f).log 3 core ctx d).aon.second,
      e.eseq = s.aon.eseq ∧ e.code = 3 ∧ e.detail = d := by
  refine ⟨?_, ((s.modTeam id f).log_tells 3 core ctx d).told⟩
  rw [State.team_log, State.team_modTeam, if_pos ⟨rfl, by rw [hu]; rfl⟩, s.team_of_find hu]

theorem execMemoryEccError_tile (s : State) (team i : Nat) {u : Team} (hu : KMap.find? s.teams team = some u) : ∃ t : State,
    execMemoryEccError (.tile team i) s = .next t ∧ (KMap.getD (t.team team).tiles {} i).poisoned = true ∧
    (KMap.getD (t.team team).tiles {} i).bytes = (KMap.getD u.tiles {} i).bytes ∧
    ∃ e ∈ t.aon.ring ++ t.aon.second, e.eseq = s.aon.eseq ∧ e.code = 3 ∧ e.detail = errDetail (.tiles u.core) i := by
  unfold execMemoryEccError
  dsimp only
  rw [hu]
  refine ⟨_, rfl, ?_⟩
  obtain ⟨team_eq, told⟩ := s.teamError team
    (fun x => { x with tiles := KMap.insert x.tiles i { KMap.getD x.tiles {} i with poisoned := true } }) u.core u.ctx
    (errDetail (.tiles u.core) i) hu
  refine ⟨?_, ?_, told⟩ <;> (unfold State.logUnit State.poisonTarget; dsimp only; rw [team_eq, KMap.getD, KMap.find?_insert_self]; rfl)

theorem execMemoryEccError_regionRow (s : State) (team r row : Nat) {u : Team} (hu : KMap.find? s.teams team = some u) : ∃ t : State,
    execMemoryEccError (.regionRow team r row) s = .next t ∧ 128 * r + row ∈ (t.team team).badRows ∧
    ∃ e ∈ t.aon.ring ++ t.aon.second, e.eseq = s.aon.eseq ∧ e.code = 3 ∧ e.detail = errDetail (.accumulators u.core) (128 * r + row) := by
  unfold execMemoryEccError
  dsimp only
  rw [hu]
  obtain ⟨team_eq, told⟩ := s.teamError team (fun x => { x with badRows := addNew x.badRows (128 * r + row) }) u.core u.ctx
    (errDetail (.accumulators u.core) (128 * r + row)) hu
  refine ⟨_, rfl, ?_, told⟩
  unfold State.logUnit State.poisonTarget
  dsimp only
  rw [team_eq]
  exact mem_addNew ..

theorem execMemoryEccError_scratchLine (s : State) (team line : Nat) {u : Team} (hu : KMap.find? s.teams team = some u) : ∃ t : State,
    execMemoryEccError (.scratchLine team line) s = .next t ∧ line ∈ (t.team team).badLines ∧
    ∃ e ∈ t.aon.ring ++ t.aon.second, e.eseq = s.aon.eseq ∧ e.code = 3 ∧ e.detail = errDetail (.scratchpad u.core) (64 * line) := by
  unfold execMemoryEccError
  dsimp only
  rw [hu]
  obtain ⟨team_eq, told⟩ := s.teamError team (fun x => { x with badLines := addNew x.badLines line }) u.core u.ctx
    (errDetail (.scratchpad u.core) (64 * line)) hu
  refine ⟨_, rfl, ?_, told⟩
  unfold State.logUnit State.poisonTarget
  dsimp only
  rw [team_eq]
  exact mem_addNew ..

/-- The line of a DRAM key is poisoned in DRAM. -/
def State.poisonLine (s : State) (k : Nat) : State := { s with poison := addNew s.poison (lineKey k) }

/-- The copy of the line of a DRAM key in the L2 is poisoned. -/
def State.poisonCopy (s : State) (k ia : Nat) : State :=
  { s with l2bad := if s.l2bad.contains (lineKey k, ia) then s.l2bad else s.l2bad ++ [(lineKey k, ia)] }

theorem State.poisonTarget_dramLine (s : State) {line k : Nat} (hk : dramKey (64 * line) = some k) :
    s.poisonTarget (.dramLine line) = s.poisonLine k := by
  unfold State.poisonTarget
  dsimp only
  rw [hk]
  rfl

theorem State.poisonTarget_l2Line (s : State) {line k : Nat} (ia : Nat) (hk : dramKey (64 * line) = some k) :
    s.poisonTarget (.l2Line line ia) = s.poisonCopy k ia := by
  unfold State.poisonTarget
  dsimp only
  rw [hk]
  rfl

theorem State.spoiled_of_poison (s : State) {k : Nat} (h : lineKey k ∈ s.poison) : s.spoiled k = true := by
  simp [State.spoiled, State.poisoned, h]

theorem State.mem_poisonCopy (s : State) (k ia : Nat) : (lineKey k, ia) ∈ (s.poisonCopy k ia).l2bad ∧ s.l2bad ⊆ (s.poisonCopy k ia).l2bad := by
  unfold State.poisonCopy
  dsimp only
  split
  · next h => exact ⟨List.contains_iff_mem.mp h, List.Subset.refl _⟩
  · exact ⟨by simp, List.subset_append_left ..⟩

theorem State.spoiled_poisonCopy (s : State) (k ia : Nat) : (s.poisonCopy k ia).spoiled k = true := by
  have : (s.poisonCopy k ia).l2bad.any (fun l => l.1 == lineKey k) = true :=
    List.any_eq_true.mpr ⟨_, (s.mem_poisonCopy k ia).1, beq_self_eq_true _⟩
  simp [State.spoiled, this]

theorem homeSlice_eq (line ia : Nat) : homeSlice line ia = 48 * (64 * line / 2 ^ 38) + ia % 48 := by
  rw [homeSlice, Nat.div_div_eq_div_mul, ← Nat.pow_succ]

theorem execMemoryEccError_dramLine (s : State) {line k : Nat} (hk : dramKey (64 * line) = some k) :
    execMemoryEccError (.dramLine line) s =
      .next ((s.poisonLine k).log 3 noCore16 noCtx (errDetail (.dram (64 * line / 2 ^ 37)) (64 * line % 2 ^ 37))) := by
  unfold execMemoryEccError
  dsimp only
  rw [hk, s.poisonTarget_dramLine hk]
  rfl

theorem execMemoryEccError_l2Line (s : State) {line k : Nat} (ia : Nat) (hk : dramKey (64 * line) = some k) :
    execMemoryEccError (.l2Line line ia) s =
      .next ((s.poisonCopy k ia).log 3 noCore16 noCtx (errDetail (.slice (homeSlice line ia)) (64 * ia))) := by
  unfold execMemoryEccError
  dsimp only
  rw [hk, s.poisonTarget_l2Line ia hk]
  rfl

/-! ### Failed bursts -/

/-- The groups that consumed beats of a failed burst are discarded. -/
def State.discardConsumers (s : State) (bus : Nat) (groups : List Nat) : State :=
  (groups.eraseDups.filter (s.consumed bus)).foldl (fun s g => s.errorDiscard g) s

theorem State.discardConsumers_steady (s : State) (bus : Nat) (groups : List Nat) : Steady s (s.discardConsumers bus groups) :=
  .foldl _ _ _ fun s g => s.errorDiscard_steady g

theorem State.discardConsumers_single (s : State) (bus gid : Nat) :
    s.discardConsumers bus [gid] = if s.consumed bus gid then (s.discardGroup gid true).settle gid else s := by
  have single : ([gid] : List Nat).eraseDups = [gid] := rfl
  rw [State.discardConsumers, single]
  cases h : s.consumed bus gid
  · rw [List.filter_cons_of_neg (by rw [h]; decide)]
    rfl
  · rw [List.filter_cons_of_pos h]
    rfl

theorem State.consumed_iff (s : State) (bus : Nat) {gid : Nat} {g : Group} (hg : KMap.find? s.groups gid = some g) :
    s.consumed bus gid = true ↔ ∃ b ∈ g.beats, b.bus = bus := by
  rw [State.consumed, s.grp_of_find hg, List.any_eq_true]
  simp only [beq_iff_eq]

/-- The bus takes one more spare wire. -/
def State.takeSpare (s : State) (bus : Nat) (used : Nat) : State :=
  { s with stk := { s.stk with spares := KMap.setD s.stk.spares 0 bus (used + 1) } }

/-- The bus is retired. -/
def State.retireBus (s : State) (bus : Nat) : State := { s with stk := { s.stk with retired := s.stk.retired ++ [bus] } }

section
variable (s : State) {bus : Nat} (groups : List Nat) (hb : bus < 2304) (hr : bus ∉ s.stk.retired)
include hb hr

theorem execBurstCheckFail_transient : execBurstCheckFail bus groups .transient s =
    .next ((s.discardConsumers bus groups).log 13 noCore16 noCtx bus) := by
  have live : decide (buses ≤ bus) = false := decide_eq_false (not_le.mpr hb)
  have unretired : s.stk.retired.contains bus = false := by simpa using hr
  unfold execBurstCheckFail
  dsimp only
  rw [live, unretired]
  rfl

theorem execBurstCheckFail_spare (hu : KMap.getD s.stk.spares 0 bus < 8) : execBurstCheckFail bus groups .spare s =
    .next (((s.discardConsumers bus groups).takeSpare bus (KMap.getD s.stk.spares 0 bus)).log 6 noCore16 noCtx bus) := by
  have live : decide (buses ≤ bus) = false := decide_eq_false (not_le.mpr hb)
  have unretired : s.stk.retired.contains bus = false := by simpa using hr
  unfold execBurstCheckFail
  dsimp only
  rw [live, unretired, decide_eq_true hu]
  rfl

theorem execBurstCheckFail_retire (lost : List ErrTarget) (hu : KMap.getD s.stk.spares 0 bus = 8) :
    execBurstCheckFail bus groups (.retire lost) s =
      .next ((((s.discardConsumers bus groups).retireBus bus).loseBus bus lost).log 7 noCore16 noCtx bus) := by
  have live : decide (buses ≤ bus) = false := decide_eq_false (not_le.mpr hb)
  have unretired : s.stk.retired.contains bus = false := by simpa using hr
  unfold execBurstCheckFail
  dsimp only
  rw [live, unretired, hu]
  rfl

end

/-! ### What a retired bus loses -/

/-- What a fold establishes at one of its elements, where its other steps keep it. -/
theorem foldl_establishes {σ α : Type} {f : σ → α → σ} (I P : σ → Prop) {l : List α} {x : α} (hx : x ∈ l)
    (hI : ∀ s a, I s → I (f s a)) (hP : ∀ s a, P s → P (f s a)) (hset : ∀ s, I s → P (f s x)) (s : σ) (hs : I s) : P (l.foldl f s) := by
  have keep : ∀ (l : List α) (s : σ), P s → P (l.foldl f s) := fun l s h => List.foldlRecOn l f h fun s hs a _ => hP s a hs
  induction l generalizing s with
  | nil => cases hx
  | cons a l ih =>
    rcases List.mem_cons.mp hx with rfl | hx
    · exact keep l _ (hset s hs)
    · exact ih hx _ (hI s a hs)

/-- A line that stood in the ways of a retired bus: it is poisoned, and no longer dirty. -/
def State.loseLine (s : State) (x : ErrTarget) : State :=
  match x with
  | .l2Line line ia => { s.poisonTarget (.dramLine line) with
      l2dirty := (s.poisonTarget (.dramLine line)).l2dirty.filter (fun l => l != (line, ia)) }
  | x => s.poisonTarget x

theorem State.loseBus_slice (s : State) {bus : Nat} (lost : List ErrTarget) (hb : bus < 1536) :
    s.loseBus bus lost = (lost.filter (s.losesLine bus)).foldl State.loseLine s := by
  unfold State.loseBus
  rw [if_pos (show bus < sliceBuses from hb)]
  rfl

theorem State.loseBus_registers (s : State) {bus : Nat} (lost : List ErrTarget) (hb : 1536 ≤ bus) : s.loseBus bus lost =
    (s.groups.filter (fun e => !e.2.ended && s.busHolds bus e.1)).foldl (fun s e => s.poisonRegs e.1) s := by
  unfold State.loseBus
  exact if_neg (not_lt.mpr hb)

theorem State.poisonTarget_dramLine_fields (s : State) (line : Nat) :
    (s.poisonTarget (.dramLine line)).stk = s.stk ∧ (s.poisonTarget (.dramLine line)).l2dirty = s.l2dirty ∧
    (s.poisonTarget (.dramLine line)).teams = s.teams ∧ s.poison ⊆ (s.poisonTarget (.dramLine line)).poison := by
  cases hk : dramKey (64 * line) with
  | none =>
    unfold State.poisonTarget
    dsimp only
    rw [hk]
    exact ⟨rfl, rfl, rfl, List.Subset.refl _⟩
  | some k =>
    rw [s.poisonTarget_dramLine hk]
    exact ⟨rfl, rfl, rfl, subset_addNew ..⟩

theorem State.poisonCopy_poison (s : State) (line ia : Nat) : (s.poisonTarget (.l2Line line ia)).poison = s.poison := by
  unfold State.poisonTarget
  dsimp only
  split <;> rfl

theorem State.loseLine_stk (s : State) (x : ErrTarget) : (s.loseLine x).stk = s.stk := by
  cases x with
  | dramLine line => exact (s.poisonTarget_dramLine_fields line).1
  | l2Line line ia => exact (s.poisonTarget_dramLine_fields line).1
  | tile | regionRow | scratchLine => rfl

theorem State.loseLine_poison_mono (s : State) (x : ErrTarget) : s.poison ⊆ (s.loseLine x).poison := by
  cases x with
  | dramLine line => exact (s.poisonTarget_dramLine_fields line).2.2.2
  | l2Line line ia => exact (s.poisonTarget_dramLine_fields line).2.2.2
  | tile | regionRow | scratchLine => exact List.Subset.refl _

theorem State.loseLine_l2dirty (s : State) (x : ErrTarget) : (s.loseLine x).l2dirty ⊆ s.l2dirty := by
  cases x with
  | dramLine line => exact (s.poisonTarget_dramLine_fields line).2.1 ▸ List.Subset.refl _
  | l2Line line ia =>
    refine List.Subset.trans (List.filter_subset_self ..) ?_
    rw [(s.poisonTarget_dramLine_fields line).2.1]
    exact List.Subset.refl _
  | tile | regionRow | scratchLine => exact List.Subset.refl _

theorem State.loseLine_l2Line (s : State) {line k : Nat} (ia : Nat) (hk : dramKey (64 * line) = some k) :
    lineKey k ∈ (s.loseLine (.l2Line line ia)).poison ∧ (line, ia) ∉ (s.loseLine (.l2Line line ia)).l2dirty := by
  unfold State.loseLine
  dsimp only
  rw [s.poisonTarget_dramLine hk]
  refine ⟨mem_addNew .., ?_⟩
  simp

/-- A line is among the bad lines of a team that is there. -/
def State.lineBad (s : State) (team line : Nat) : Prop := ∃ u, KMap.find? s.teams team = some u ∧ line ∈ u.badLines

/-- What an error strikes of a team: no bad line of it becomes good, and no team comes or goes. -/
theorem State.lineBad_modTeam (s : State) (id : Nat) (f : Team → Team) (hf : ∀ u, u.badLines ⊆ (f u).badLines) (team line : Nat) :
    s.lineBad team line → (s.modTeam id f).lineBad team line := by
  rintro ⟨u, hu, hl⟩
  unfold State.lineBad State.modTeam
  rw [KMap.find?_modify, hu]
  split
  · exact ⟨f u, rfl, hf u hl⟩
  · exact ⟨u, rfl, hl⟩

theorem State.hasTeam_modTeam (s : State) (id : Nat) (f : Team → Team) (team : Nat) :
    (KMap.find? (s.modTeam id f).teams team).isSome = (KMap.find? s.teams team).isSome := by
  unfold State.modTeam
  rw [KMap.find?_modify]
  split <;> simp

theorem State.loseLine_hasTeam (s : State) (x : ErrTarget) (team : Nat) :
    (KMap.find? (s.loseLine x).teams team).isSome = (KMap.find? s.teams team).isSome := by
  cases x with
  | dramLine line => exact (congrArg (fun m => (KMap.find? m team).isSome) (s.poisonTarget_dramLine_fields line).2.2.1)
  | l2Line line ia => exact (congrArg (fun m => (KMap.find? m team).isSome) (s.poisonTarget_dramLine_fields line).2.2.1)
  | tile t i => exact s.hasTeam_modTeam t _ team
  | regionRow t r row => exact s.hasTeam_modTeam t _ team
  | scratchLine t line => exact s.hasTeam_modTeam t _ team

theorem State.loseLine_lineBad (s : State) (x : ErrTarget) (team line : Nat) (h : s.lineBad team line) :
    (s.loseLine x).lineBad team line := by
  cases x with
  | dramLine l =>
    obtain ⟨u, hu, hl⟩ := h
    exact ⟨u, (congrArg (fun m => KMap.find? m team) (s.poisonTarget_dramLine_fields l).2.2.1).trans hu, hl⟩
  | l2Line l ia =>
    obtain ⟨u, hu, hl⟩ := h
    exact ⟨u, (congrArg (fun m => KMap.find? m team) (s.poisonTarget_dramLine_fields l).2.2.1).trans hu, hl⟩
  | tile t i =>
    refine s.lineBad_modTeam t _ ?_ team line h
    exact fun _ => List.Subset.refl _
  | regionRow t r row =>
    refine s.lineBad_modTeam t _ ?_ team line h
    exact fun _ => List.Subset.refl _
  | scratchLine t l => exact s.lineBad_modTeam t _ (fun u => subset_addNew ..) team line h

theorem State.loseLine_scratchLine (s : State) {team : Nat} (line : Nat) (h : (KMap.find? s.teams team).isSome = true) :
    (s.loseLine (.scratchLine team line)).lineBad team line := by
  obtain ⟨u, hu⟩ := Option.isSome_iff_exists.mp h
  refine ⟨{ u with badLines := addNew u.badLines line }, ?_, mem_addNew ..⟩
  unfold State.loseLine State.poisonTarget State.modTeam
  dsimp only
  rw [KMap.find?_modify, if_pos rfl, hu]
  rfl

/-- New poison is that of a dirty line that stood in the ways. -/
theorem State.loseLine_poison (s : State) {s0 : State} {bus : Nat} {x : ErrTarget} (hx : s0.losesLine bus x = true) {n : Nat}
    (h : n ∈ (s.loseLine x).poison) :
    n ∈ s.poison ∨ ∃ line ia k, x = .l2Line line ia ∧ dramKey (64 * line) = some k ∧ n = k / 64 := by
  cases x with
  | l2Line line ia =>
    cases hk : dramKey (64 * line) with
    | none =>
      left
      unfold State.loseLine State.poisonTarget at h
      dsimp only at h
      rwa [hk] at h
    | some k =>
      unfold State.loseLine at h
      dsimp only at h
      rw [s.poisonTarget_dramLine hk] at h
      exact (mem_of_mem_addNew h).imp_right fun hn => ⟨line, ia, k, rfl, hk, hn⟩
  | scratchLine t line => exact .inl h
  | tile | regionRow | dramLine => cases hx

theorem State.loseLines_poison (s s0 : State) (bus : Nat) (l : List ErrTarget) (hl : ∀ x ∈ l, s0.losesLine bus x = true) (n : Nat)
    (h : n ∈ (l.foldl State.loseLine s).poison) :
    n ∈ s.poison ∨ ∃ line ia k, .l2Line line ia ∈ l ∧ dramKey (64 * line) = some k ∧ n = k / 64 := by
  induction l generalizing s with
  | nil => exact .inl h
  | cons x l ih =>
    rcases ih _ (fun y hy => hl y (List.mem_cons_of_mem x hy)) h with h | ⟨line, ia, k, hm, hk, hn⟩
    · refine (State.loseLine_poison s (hl x List.mem_cons_self) h).imp_right ?_
      rintro ⟨line, ia, k, rfl, hk, hn⟩
      exact ⟨line, ia, k, List.mem_cons_self, hk, hn⟩
    · exact .inr ⟨line, ia, k, List.mem_cons_of_mem x hm, hk, hn⟩

theorem State.losesLine_l2Line (s : State) (bus line ia : Nat) : s.losesLine bus (.l2Line line ia) = true ↔
    48 * (64 * line / 2 ^ 37 / 2) + ia % 48 = bus / 4 ∧ (line, ia) ∈ s.l2dirty ∧ line ∉ s.accepted := by
  simp [State.losesLine, homeSlice, and_assoc]

theorem State.losesLine_scratchLine (s : State) (bus line : Nat) {team : Nat} {u : Team} (hu : s.ground team = some (u.core, u.extent))
    (hc : u.core = bus / 4) (hlo : 1048576 ≤ 64 * line) (hhi : 64 * line < u.extent)
    (ha : memKey (spTeam team) (64 * line) / 64 ∉ s.accepted) : s.losesLine bus (.scratchLine team line) = true := by
  rw [State.ground, Option.map_eq_some_iff] at hu
  obtain ⟨v, hv, he⟩ := hu
  rw [Prod.mk.injEq] at he
  simp [State.losesLine, s.team_of_find hv, hv, he, hc, hlo, hhi, ha, lineKey]

/-! ### Registers behind a retired bus -/

theorem KMap.find?_map_const {α : Type} (l : List Nat) (v : α) {k : Nat} (hk : k ∈ l) :
    KMap.find? (l.map (fun r => (r, v))) k = some v := by
  induction l with
  | nil => cases hk
  | cons a l ih =>
    rw [List.map_cons, KMap.find?]
    split
    · rfl
    · next ha => exact ih ((List.mem_cons.mp hk).resolve_left (Ne.symm ha))

theorem KMap.mem_of_find? {α : Type} {m : KMap α} {k : Nat} {v : α} (h : KMap.find? m k = some v) : (k, v) ∈ (m : List (Nat × α)) := by
  induction m with
  | nil => cases h
  | cons e m ih =>
    obtain ⟨j, w⟩ := e
    rw [KMap.find?] at h
    split at h
    · next hj =>
      injection h with h
      exact hj ▸ h ▸ List.mem_cons_self
    · exact List.mem_cons_of_mem _ (ih h)

theorem State.poisonRegs_steady (s : State) (gid : Nat) : Steady s (s.poisonRegs gid) :=
  ((Steady.refl s).modGrp gid _).trans (State.groupFault_steady ..)

theorem State.poisonRegs_file_ne (s : State) {gid i : Nat} (h : gid ≠ i) : (s.poisonRegs gid).file i = s.file i :=
  (State.groupFault_file ..).trans (s.file_modGrp_ne _ h)

theorem State.poisonRegs_file (s : State) {gid n : Nat} {vp : KMap (BitVec 64)} (h : s.file gid = some (n, vp)) :
    (s.poisonRegs gid).file gid = some (n, (List.range n).map (fun r => (r, allLanes))) := by
  rw [State.file, Option.map_eq_some_iff] at h
  obtain ⟨g, hg, he⟩ := h
  obtain ⟨rfl, -⟩ := Prod.mk.inj he
  exact (State.groupFault_file ..).trans (s.file_modGrp gid _ hg)

/-- Every register of a group is poisoned once its bus is retired. -/
theorem State.loseBus_poisons (s : State) {bus gid : Nat} {g : Group} (lost : List ErrTarget) (hb : 1536 ≤ bus)
    (hg : KMap.find? s.groups gid = some g) (he : g.ended = false) (holds : s.busHolds bus gid = true) :
    (s.loseBus bus lost).file gid = some (g.regs, (List.range g.regs).map (fun r => (r, allLanes))) := by
  rw [s.loseBus_registers lost hb]
  refine foldl_establishes (fun t => ∃ vp, t.file gid = some (g.regs, vp))
    (fun t => t.file gid = some (g.regs, (List.range g.regs).map (fun r => (r, allLanes)))) (x := (gid, g)) ?_ ?_ ?_ ?_ s ?_
  · rw [List.mem_filter]
    exact ⟨KMap.mem_of_find? hg, by simp [he, holds]⟩
  · rintro t ⟨i, x⟩ ⟨vp, h⟩
    by_cases hi : i = gid
    · subst hi
      exact ⟨_, t.poisonRegs_file h⟩
    · exact ⟨vp, (t.poisonRegs_file_ne hi).trans h⟩
  · rintro t ⟨i, x⟩ h
    by_cases hi : i = gid
    · subst hi
      exact t.poisonRegs_file h
    · exact (t.poisonRegs_file_ne hi).trans h
  · rintro t ⟨vp, h⟩
    exact t.poisonRegs_file h
  · exact ⟨g.vpoison, s.file_of_find hg⟩

theorem State.busHolds_of (s : State) {bus gid : Nat} (h : s.regUnit gid = .hidden (s.coreOf gid) ∧ bus = 1536 + 2 * s.coreOf gid ∨
    s.regUnit gid = .shadow (s.coreOf gid) ∧ bus = 1536 + 2 * s.coreOf gid + 1) : s.busHolds bus gid = true := by
  unfold State.busHolds
  rcases h with ⟨hu, hbus⟩ | ⟨hu, hbus⟩ <;> (rw [hu]; exact beq_iff_eq.mpr hbus)

theorem State.loseBus_stk (s : State) (bus : Nat) (lost : List ErrTarget) : (s.loseBus bus lost).stk = s.stk := by
  by_cases hb : bus < 1536
  · rw [s.loseBus_slice lost hb]
    exact List.foldlRecOn (motive := fun t : State => t.stk = s.stk) _ _ rfl fun t ht x _ => (State.loseLine_stk t x).trans ht
  · rw [s.loseBus_registers lost (not_lt.mp hb)]
    exact (Steady.foldl _ _ s fun (t : State) (e : Nat × Group) => t.poisonRegs_steady e.1).stack

theorem softErrors_burst (s : State) (bus gid : Nat) (g : Group) (hb : bus < 2304) (hr : bus ∉ s.stk.retired)
    (hg : KMap.find? s.groups gid = some g) :
    ((∃ b ∈ g.beats, b.bus = bus) →
      exec (.burstCheckFail bus [gid] .transient) s = .next (((s.discardGroup gid true).settle gid).log 13 noCore16 noCtx bus)) ∧
    ((∀ b ∈ g.beats, b.bus ≠ bus) → exec (.burstCheckFail bus [gid] .transient) s = .next (s.log 13 noCore16 noCtx bus)) := by
  rw [exec_burstCheckFail, execBurstCheckFail_transient s [gid] hb hr, s.discardConsumers_single]
  constructor
  · intro h
    rw [if_pos ((s.consumed_iff bus hg).mpr h)]
  · intro h
    rw [if_neg]
    rw [s.consumed_iff bus hg]
    rintro ⟨b, hm, he⟩
    exact h b hm he

theorem softErrors_spare (s : State) (bus : Nat) (groups : List Nat) (hb : bus < 2304) (hr : bus ∉ s.stk.retired)
    (hu : KMap.getD s.stk.spares 0 bus < 8) : ∃ t : State, exec (.burstCheckFail bus groups .spare) s = .next t ∧
      KMap.getD t.stk.spares 0 bus = KMap.getD s.stk.spares 0 bus + 1 ∧ t.stk.retired = s.stk.retired := by
  refine ⟨_, execBurstCheckFail_spare s groups hb hr hu, ?_⟩
  rw [(State.log_reports ..).steady.stack, State.takeSpare, (s.discardConsumers_steady bus groups).stack]
  dsimp only
  exact ⟨KMap.getD_setD_self .., rfl⟩

/-- A state that differs in no dirty or acknowledged line and in no place of a team tells which lines a slice's bus loses. -/
theorem softErrors_retireSlice (s s1 : State) (dirty : s1.l2dirty = s.l2dirty) (accepted : s1.accepted = s.accepted)
    (poison : s1.poison ⊆ s.poison) (grounds : ∀ id, s1.ground id = s.ground id) (bus : Nat) (lost : List ErrTarget) (hb : bus < 1536) :
    let t := s1.loseBus bus lost
    let lineLost := fun (line ia : Nat) => ErrTarget.l2Line line ia ∈ lost ∧ 48 * (64 * line / 2 ^ 37 / 2) + ia % 48 = bus / 4 ∧
      (line, ia) ∈ s.l2dirty ∧ line ∉ s.accepted
    (∀ line ia k, lineLost line ia → dramKey (64 * line) = some k → t.spoiled k = true ∧ (line, ia) ∉ t.l2dirty) ∧
    (∀ n ∈ t.poison, n ∈ s.poison ∨ ∃ line ia k, lineLost line ia ∧ dramKey (64 * line) = some k ∧ n = k / 64) ∧
    (∀ team line u, ErrTarget.scratchLine team line ∈ lost → KMap.find? s.teams team = some u → u.core = bus / 4 →
      1048576 ≤ 64 * line → 64 * line < u.extent → memKey (spTeam team) (64 * line) / 64 ∉ s.accepted →
      line ∈ (t.team team).badLines) := by
  intro t lineLost
  have t_eq : t = (lost.filter (s1.losesLine bus)).foldl State.loseLine s1 := s1.loseBus_slice lost hb
  have lost_iff : ∀ line ia, .l2Line line ia ∈ lost.filter (s1.losesLine bus) ↔ lineLost line ia := fun line ia => by
    rw [List.mem_filter, State.losesLine_l2Line, dirty, accepted]
  rw [t_eq]
  refine ⟨fun line ia k hl hk => ?_, fun n hn => ?_, fun team line u hm hu hc hlo hhi ha => ?_⟩
  · have gone := foldl_establishes (f := State.loseLine) (fun _ => True)
      (fun t => lineKey k ∈ t.poison ∧ (line, ia) ∉ t.l2dirty) ((lost_iff line ia).mpr hl) (fun _ _ _ => trivial)
      (fun t a ⟨hp, hd⟩ => ⟨t.loseLine_poison_mono a hp, fun hm => hd (t.loseLine_l2dirty a hm)⟩)
      (fun t _ => t.loseLine_l2Line ia hk) s1 trivial
    exact ⟨State.spoiled_of_poison _ gone.1, gone.2⟩
  · rcases State.loseLines_poison _ _ bus _ (fun x hx => (List.mem_filter.mp hx).2) n hn with hn | ⟨line, ia, k, hm, hk, hn⟩
    · exact .inl (poison hn)
    · exact .inr ⟨line, ia, k, (lost_iff line ia).mp hm, hk, hn⟩
  · have ground : s1.ground team = some (u.core, u.extent) := by
      rw [grounds, State.ground, hu]
      rfl
    have there : (KMap.find? s1.teams team).isSome = true := by
      rw [State.ground, Option.map_eq_some_iff] at ground
      obtain ⟨v, hv, -⟩ := ground
      rw [hv]
      rfl
    have loses := s1.losesLine_scratchLine bus line ground hc hlo hhi (accepted ▸ ha)
    obtain ⟨v, hv, hl⟩ := foldl_establishes (f := State.loseLine) (fun t => (KMap.find? t.teams team).isSome = true)
      (fun t => t.lineBad team line) (List.mem_filter.mpr ⟨hm, loses⟩) (fun t a ht => (t.loseLine_hasTeam a team).trans ht)
      (fun t a => t.loseLine_lineBad a team line) (fun t ht => t.loseLine_scratchLine line ht) s1 there
    rw [State.team_of_find _ hv]
    exact hl

theorem softErrors_retireRegisters (s : State) (bus : Nat) (lost : List ErrTarget) (hb : 1536 ≤ bus) :
    let t := (s.retireBus bus).loseBus bus lost
    (∀ n ∈ t.poison, n ∈ s.poison) ∧ ∀ gid g, KMap.find? s.groups gid = some g → g.ended = false →
      (s.regUnit gid = .hidden (s.coreOf gid) ∧ bus = 1536 + 2 * s.coreOf gid ∨
        s.regUnit gid = .shadow (s.coreOf gid) ∧ bus = 1536 + 2 * s.coreOf gid + 1) →
      ∀ reg l, reg < g.regs → l < 64 → (KMap.getD (t.grp gid).vpoison 0 reg).getLsbD l = true := by
  refine ⟨fun n hn => ?_, fun gid g hg he hu reg l hreg hl => ?_⟩
  · rw [State.loseBus_registers _ lost hb] at hn
    exact (Steady.foldl _ _ (s.retireBus bus) fun (t : State) (e : Nat × Group) => t.poisonRegs_steady e.1).poison hn
  · rw [State.vpoison_of_file _ ((s.retireBus bus).loseBus_poisons lost hb hg he ((s.retireBus bus).busHolds_of hu)), KMap.getD,
      KMap.find?_map_const _ _ (List.mem_range.mpr hreg)]
    interval_cases l <;> rfl

/-- Settles O57, error by error: what each strikes is read from the state after it, where the reports, discards and faults that follow
leave it; and a retired bus loses what it lost in the state before its groups were discarded. -/
theorem softErrors : Obligations.SoftErrors := by
  unfold Obligations.SoftErrors
  refine ⟨fun s unit addr => ⟨execCorrectedError_new unit addr s, execCorrectedError_again unit addr s⟩, fun _ _ => rfl,
    fun s gid g hg => ⟨fun reg lanes hreg hl hst => ⟨?_, execRegisterEccError_poisons hg reg lanes hreg hl⟩,
      execGroupStateParityError_strikes hg, execGroupStateParityError_discards hg, execPipelineError_discards hg⟩,
    fun s team u hu => ⟨fun i => execMemoryEccError_tile s team i hu, fun r row => execMemoryEccError_regionRow s team r row hu,
      fun line => execMemoryEccError_scratchLine s team line hu⟩,
    fun s line ia k hk => ⟨⟨s.poisonLine k, execMemoryEccError_dramLine s hk, State.spoiled_of_poison _ (mem_addNew ..),
        subset_addNew s.poison (lineKey k), rfl⟩,
      s.poisonCopy k ia, ?_, s.spoiled_poisonCopy k ia, (s.mem_poisonCopy k ia).1, (s.mem_poisonCopy k ia).2, rfl, rfl⟩,
    softErrors_burst, fun s bus groups lost hb hr => ⟨softErrors_spare s bus groups hb hr, fun hu => ?_⟩⟩
  · have strikes := execRegisterEccError_strikes hg reg lanes hreg hl hst
    rwa [s.errDetail_regUnit, s.grp_of_find hg] at strikes
  · rw [← homeSlice_eq]
    exact execMemoryEccError_l2Line s ia hk
  · refine ⟨_, execBurstCheckFail_retire s groups hb hr lost hu, ?_, fun hb => ?_, ?_⟩
    · rw [State.loseBus_stk, State.retireBus, (s.discardConsumers_steady bus groups).stack]
    · have steady := s.discardConsumers_steady bus groups
      exact softErrors_retireSlice s ((s.discardConsumers bus groups).retireBus bus) steady.dirty steady.accepted steady.poison
        steady.ground bus lost hb
    · rintro hb rfl
      exact softErrors_retireRegisters s bus lost hb

end Sys2Proof.Machine
end

section
/-! ACV (R241 to R243): the checks on its block, what it gives for an entry, its issue and its completion. -/

namespace Sys2Proof

theorem bitOf_eq_testBit (n i : Nat) : bitOf n i = n.testBit i := by
  rw [Nat.testBit_eq_decide_div_mod_eq]
  rfl

/-- A field of a block is zero when none of its bits is set. -/
theorem bitsOf_eq_zero_iff (n hi lo : Nat) : bitsOf n hi lo = 0 ↔ ∀ i, lo ≤ i → i ≤ hi → n.testBit i = false := by
  have bit : ∀ i, (bitsOf n hi lo).testBit i = (decide (i < hi + 1 - lo) && n.testBit (lo + i)) := fun i => by
    rw [bitsOf, Nat.testBit_mod_two_pow, Nat.testBit_div_two_pow, Nat.add_comm i]
  constructor
  · intro h i hlo hhi
    have := bit (i - lo)
    rwa [h, Nat.zero_testBit, decide_eq_true (by omega), Bool.true_and, Nat.add_sub_cancel' hlo, eq_comm] at this
  · intro h
    refine Nat.zero_of_testBit_eq_false fun i => ?_
    rw [bit]
    by_cases hi : i < hi + 1 - lo
    · rw [h (lo + i) (by omega) (by omega), Bool.and_false]
    · rw [decide_eq_false hi, Bool.false_and]

end Sys2Proof

namespace Sys2Proof.Machine

/-! ### The block -/

theorem bitOf_false_iff (n i : Nat) : (!bitOf n i) = true ↔ n.testBit i = false := by
  rw [bitOf_eq_testBit, Bool.not_eq_true']

theorem vectorOk_iff (t : Team) (on : Bool) (a n : Nat) : vectorOk t on a n = true ↔
    (on = true → a % 4 = 0 ∧ a < 2 ^ 24 ∧ a + 4 * n ≤ t.extent) := by
  unfold vectorOk Team.within
  cases on
  · simp
  · simp only [Bool.not_true, Bool.false_or, Bool.and_eq_true, beq_iff_eq, decide_eq_true_eq, true_implies]
    refine and_congr_right fun _ => ?_
    constructor
    · rintro ⟨h1, h2⟩
      omega
    · rintro ⟨h1, h2⟩
      omega

/-- An enabled vector of an ACV block has a word. -/
theorem acvVectors_ok_iff (t : Team) (b : Nat) :
    (vectorOk t (bitOf b 40) (bitsOf b 95 64) (acvM b) = true ∧ vectorOk t (bitOf b 41) (bitsOf b 127 96) (acvN b) = true ∧
      vectorOk t (bitOf b 42) (bitsOf b 159 128) (acvN b) = true) ↔
    ∀ v ∈ acvVectors b, v.2 ≠ 0 → v.1 % 4 = 0 ∧ v.1 < 2 ^ 24 ∧ v.1 + 4 * v.2 ≤ t.extent := by
  have enabled : ∀ (on : Bool) (a n : Nat), 0 < n → (vectorOk t on a n = true ↔
      ((if on then n else 0) ≠ 0 → a % 4 = 0 ∧ a < 2 ^ 24 ∧ a + 4 * (if on then n else 0) ≤ t.extent)) := by
    intro on a n hn
    rw [vectorOk_iff]
    cases on
    · simp
    · simp [hn.ne']
  have m_pos : 0 < acvM b := Nat.succ_pos _
  have n_pos : 0 < acvN b := Nat.succ_pos _
  rw [enabled _ _ _ m_pos, enabled _ _ _ n_pos, enabled _ _ _ n_pos]
  simp only [acvVectors, List.forall_mem_cons, List.not_mem_nil, false_implies, implies_true, and_true]

theorem acvReserved_iff (b : Nat) :
    (bitsOf b 511 160 = 0 ∧ bitsOf b 63 43 = 0 ∧ b.testBit 31 = false ∧ b.testBit 15 = false ∧ bitsOf b 3 2 = 0) ↔
    ∀ i, i < 512 → (i = 2 ∨ i = 3 ∨ i = 15 ∨ i = 31 ∨ (43 ≤ i ∧ i < 64) ∨ 160 ≤ i) → b.testBit i = false := by
  rw [bitsOf_eq_zero_iff, bitsOf_eq_zero_iff, bitsOf_eq_zero_iff]
  constructor
  · rintro ⟨h1, h2, h31, h15, h3⟩ i hi hc
    rcases hc with rfl | rfl | rfl | rfl | ⟨hlo, hhi⟩ | hlo
    · exact h3 2 (by omega) (by omega)
    · exact h3 3 (by omega) (by omega)
    · exact h15
    · exact h31
    · exact h2 i hlo (by omega)
    · exact h1 i hlo (by omega)
  · intro h
    exact ⟨fun i hlo hhi => h i (by omega) (by omega), fun i hlo hhi => h i (by omega) (by omega), h 31 (by omega) (by omega),
      h 15 (by omega) (by omega), fun i hlo hhi => h i (by omega) (by omega)⟩

theorem acvTile_iff (cfg : Option Nat) (o : OTy) (m n : Nat) :
    (match cfg with
      | some c => cfgType c == otyEtype o && decide (m ≤ cfgRows c) && decide (n ≤ cfgCols c)
      | none => false) = true ↔
    ∃ c, cfg = some c ∧ m ≤ cfgRows c ∧ n ≤ cfgCols c ∧ cfgType c = otyEtype o := by
  cases cfg with
  | none => simp
  | some c =>
    simp only [Bool.and_eq_true, beq_iff_eq, decide_eq_true_eq, Option.some.injEq, exists_eq_left']
    tauto

theorem acvOk_iff (t : Team) (sc : Sched) (o : OTy) (b : Nat) : acvOk t sc o b = true ↔
    (∀ i, i < 512 → (i = 2 ∨ i = 3 ∨ i = 15 ∨ i = 31 ∨ (43 ≤ i ∧ i < 64) ∨ 160 ≤ i) → b.testBit i = false) ∧
    acvReg b < sc.accr ∧ acvRow b + acvM b ≤ 128 ∧ acvCol b + acvN b ≤ 256 ∧ acvDt b < sc.tiles ∧
    (∃ c, (t.tile (acvDt b)).cfg = some c ∧ acvM b ≤ cfgRows c ∧ acvN b ≤ cfgCols c ∧ cfgType c = otyEtype o) ∧
    ∀ v ∈ acvVectors b, v.2 ≠ 0 → v.1 % 4 = 0 ∧ v.1 < 2 ^ 24 ∧ v.1 + 4 * v.2 ≤ t.extent := by
  rw [← acvReserved_iff, ← acvVectors_ok_iff, ← acvTile_iff]
  unfold acvOk
  dsimp only
  simp only [Bool.and_eq_true, beq_iff_eq, decide_eq_true_eq, bitOf_false_iff, and_assoc] <;> rfl


/-! ### What an entry gives -/

theorem acvValue_eq (e : Word64) (rs cs bi : Option Nat) : acvValue e rs cs bi =
    (let scaled := fun (y : FVal) (v : Option Nat) => v.elim y (fun v => y.mul (FFmt.f32.value v))
     let y1 := scaled (scaled (.fin (decide (accSig e < 0)) (accSig e).natAbs ((accExp e : Int) - 128)) rs) cs
     let y := bi.elim y1 (fun v => FVal.sum .rn [y1, FFmt.f32.value v])
     if y.isZero then FVal.fin false 0 0 else y) := by
  cases rs <;> cases cs <;> cases bi <;> rfl

theorem acvOut_float {sl : Slot} {F : FFmt} (hF : otyFmt sl.otype = some F) (e : Word64) (rs cs bi : Option Nat) :
    acvOut sl e rs cs bi = if accPoisoned e = true then (F.canonNan, true)
      else if acvValue e rs cs bi = .nan then (F.canonNan, false)
      else if sl.osat = true ∧ F.rnd sl.ornd (acvValue e rs cs bi) % F.signBit = F.infBits then
        ((if (acvValue e rs cs bi).isNeg then F.signBit else 0) + F.largestBits, false)
      else (F.rnd sl.ornd (acvValue e rs cs bi), false) := by
  unfold acvOut
  rw [hF]
  dsimp only
  split
  · rfl
  · cases acvValue e rs cs bi with
    | nan => rfl
    | inf neg =>
      rw [if_neg (by simp)]
      simp only [Bool.and_eq_true, beq_iff_eq, apply_ite (fun n : Nat => (n, false))]
    | fin neg m ex =>
      rw [if_neg (by simp)]
      simp only [Bool.and_eq_true, beq_iff_eq, apply_ite (fun n : Nat => (n, false))]

theorem otyIntW_cases (o : OTy) : otyIntW o = 8 ∨ otyIntW o = 32 := by
  cases o <;> simp [otyIntW]

theorem acvOut_int {sl : Slot} (hF : otyFmt sl.otype = none) (e : Word64) (rs cs bi : Option Nat) :
    acvOut sl e rs cs bi = if accPoisoned e = true then (2 ^ (otyIntW sl.otype - 1), true)
      else match acvValue e rs cs bi with
      | .nan => (0, false)
      | .inf neg => (if neg then 2 ^ (otyIntW sl.otype - 1) else 2 ^ (otyIntW sl.otype - 1) - 1, true)
      | .fin neg m ex =>
        (wrapNat (otyIntW sl.otype) (satn true (otyIntW sl.otype) (rndIntFin sl.ornd neg m ex)),
          decide (satn true (otyIntW sl.otype) (rndIntFin sl.ornd neg m ex) ≠ rndIntFin sl.ornd neg m ex)) := by
  unfold acvOut
  rw [hF]
  dsimp only
  split
  · rfl
  · cases acvValue e rs cs bi with
    | nan => rfl
    | inf neg => rcases otyIntW_cases sl.otype with h | h <;> cases neg <;> simp only [h] <;> rfl
    | fin neg m ex => rfl

/-! ### Elements of a tile -/

/-- Stores that agree on the value of a position leave it there, where one of them names the position. -/
theorem KMap.getD_stores (l : List (Nat × Nat)) (m : KMap Byte) (k v : Nat) (agree : ∀ e ∈ l, e.1 = k → e.2 = v)
    (named : (∃ e ∈ l, e.1 = k) ∨ KMap.getD m 0 k = BitVec.ofNat 8 v) :
    KMap.getD (l.foldl (fun m e => KMap.setD m 0 e.1 (BitVec.ofNat 8 e.2)) m) 0 k = BitVec.ofNat 8 v := by
  induction l generalizing m with
  | nil => exact named.resolve_left (by simp)
  | cons a l ih =>
    refine ih _ (fun e he => agree e (List.mem_cons_of_mem a he)) ?_
    by_cases ha : a.1 = k
    · right
      dsimp only
      rw [ha, KMap.getD_setD_self, agree a List.mem_cons_self ha]
    · rcases named with ⟨e, he, hk⟩ | hm
      · refine .inl ⟨e, (List.mem_cons.mp he).resolve_left ?_, hk⟩
        rintro rfl
        exact ha hk
      · right
        dsimp only
        rw [KMap.getD_setD_ne _ _ _ ha, hm]

/-- The bytes of a block of elements: position in the tile and value. -/
def blockBytes (pitch width m n : Nat) (out : Nat → Nat → Nat) : List (Nat × Nat) :=
  ((List.range m).flatMap (fun i => (List.range n).map (fun j => (i, j)))).flatMap (fun e => (List.range width).map (fun k =>
    (e.1 * pitch + e.2 * width + k, out e.1 e.2 / 256 ^ k % 256)))

theorem mem_blockBytes {pitch width m n : Nat} {out : Nat → Nat → Nat} {e : Nat × Nat} : e ∈ blockBytes pitch width m n out ↔
    ∃ i j k, i < m ∧ j < n ∧ k < width ∧ e = (i * pitch + j * width + k, out i j / 256 ^ k % 256) := by
  simp only [blockBytes, List.mem_flatMap, List.mem_map, List.mem_range]
  constructor
  · rintro ⟨_, ⟨i, hi, j, hj, rfl⟩, k, hk, rfl⟩
    exact ⟨i, j, k, hi, hj, hk, rfl⟩
  · rintro ⟨i, j, k, hi, hj, hk, rfl⟩
    exact ⟨_, ⟨i, hi, j, hj, rfl⟩, k, hk, rfl⟩

theorem mul_add_inj {p i r i' r' : Nat} (hr : r < p) (hr' : r' < p) (h : i * p + r = i' * p + r') : i = i' ∧ r = r' := by
  have hp : 0 < p := by omega
  have hm := congrArg (· % p) h
  simp only [Nat.mul_add_mod', Nat.mod_eq_of_lt hr, Nat.mod_eq_of_lt hr'] at hm
  rw [← hm] at h
  exact ⟨Nat.eq_of_mul_eq_mul_right hp (by omega), hm⟩

theorem Tile.byte_put_block (t : Tile) {pitch width m n : Nat} (out : Nat → Nat → Nat) (hp : n * width ≤ pitch) {i j k : Nat} (hi : i < m)
    (hj : j < n) (hk : k < width) :
    (t.put (blockBytes pitch width m n out)).byte (i * pitch + j * width + k) = out i j / 256 ^ k % 256 := by
  have inRow : ∀ j k, j < n → k < width → j * width + k < pitch := fun j k hj hk => by
    have := Nat.mul_le_mul_right width (Nat.succ_le_of_lt hj)
    rw [Nat.succ_mul] at this
    omega
  have stored : KMap.getD (t.put (blockBytes pitch width m n out)).bytes 0 (i * pitch + j * width + k) =
      BitVec.ofNat 8 (out i j / 256 ^ k % 256) := by
    refine KMap.getD_stores _ _ _ _ (fun e he hpos => ?_) (.inl ⟨_, mem_blockBytes.mpr ⟨i, j, k, hi, hj, hk, rfl⟩, rfl⟩)
    obtain ⟨i', j', k', hi', hj', hk', rfl⟩ := mem_blockBytes.mp he
    simp only [Nat.add_assoc] at hpos
    obtain ⟨rfl, hcol⟩ := mul_add_inj (inRow j' k' hj' hk') (inRow j k hj hk) hpos
    obtain ⟨rfl, rfl⟩ := mul_add_inj hk' hk hcol
    rfl
  rw [Tile.byte, stored, BitVec.toNat_ofNat]
  exact Nat.mod_mod _ _

theorem rowBytes_le_pitchOf (et n : Nat) : rowBytes et n ≤ pitchOf et n := by
  unfold pitchOf
  omega

/-- The element types that ACV writes (R242). -/
theorem otyEtype_cases (o : OTy) : otyEtype o = 3 ∨ otyEtype o = 7 ∨ otyEtype o = 8 := by
  cases o <;> simp [otyEtype]

theorem rowBytes_otyEtype (o : OTy) (n : Nat) : rowBytes (otyEtype o) n = n * rowBytes (otyEtype o) 1 := by
  rcases otyEtype_cases o with h | h | h <;> simp [h, rowBytes, Nat.mul_comm]

/-- An element that takes whole bytes is their little-endian value. -/
theorem elemAt_otyEtype (o : OTy) (b : Nat → Nat) (c v : Nat)
    (h : ∀ k, k < rowBytes (otyEtype o) 1 → b (c * rowBytes (otyEtype o) 1 + k) = v / 256 ^ k % 256) :
    elemAt (otyEtype o) b c = v % 2 ^ (8 * rowBytes (otyEtype o) 1) := by
  rcases otyEtype_cases o with ho | ho | ho
  · rw [ho] at h ⊢
    have h0 := h 0 (by decide)
    simp only [rowBytes, elemAt, Nat.mul_one, Nat.add_zero] at h0 ⊢
    omega
  · rw [ho] at h ⊢
    have h0 := h 0 (by decide)
    have h1 := h 1 (by decide)
    simp only [rowBytes, elemAt, Nat.mul_one, Nat.add_zero, Nat.mul_comm c 2] at h0 h1 ⊢
    omega
  · rw [ho] at h ⊢
    have h0 := h 0 (by decide)
    have h1 := h 1 (by decide)
    have h2 := h 2 (by decide)
    have h3 := h 3 (by decide)
    simp only [rowBytes, elemAt, Nat.mul_one, Nat.add_zero, Nat.mul_comm c 4] at h0 h1 h2 h3 ⊢
    omega

theorem Tile.elem_put_block (t : Tile) (o : OTy) {cfg m n : Nat} (out : Nat → Nat → Nat) (ht : cfgType cfg = otyEtype o)
    (hn : n ≤ cfgCols cfg) {i j : Nat} (hi : i < m) (hj : j < n) :
    (t.put (blockBytes (pitchOf (cfgType cfg) (cfgCols cfg)) (rowBytes (otyEtype o) 1) m n out)).elem cfg i j =
      out i j % 2 ^ (8 * rowBytes (cfgType cfg) 1) := by
  have fits : n * rowBytes (otyEtype o) 1 ≤ pitchOf (cfgType cfg) (cfgCols cfg) := by
    refine le_trans ?_ (rowBytes_le_pitchOf _ _)
    rw [ht, rowBytes_otyEtype o (cfgCols cfg)]
    exact Nat.mul_le_mul_right _ hn
  rw [Tile.elem, ht]
  refine elemAt_otyEtype o _ j (out i j) fun k hk => ?_
  rw [← Nat.add_assoc]
  exact Tile.byte_put_block t out (ht ▸ fits) hi hj hk

/-! ### The status predicate -/

theorem Group.keepResult_fields (g : Group) (o : Op) : (g.keepResult o).p = g.p := by
  unfold Group.keepResult
  split
  · refine List.foldlRecOn (motive := fun h : Group => h.p = g.p) _ _ rfl fun h hh r _ => ?_
    cases r <;> exact hh
  · rfl

theorem Group.pGet_keepResult (g : Group) (o : Op) (n : Nat) : (g.keepResult o).pGet n = g.pGet n := by
  rw [Group.pGet, Group.keepResult_fields]
  rfl

/-- A predicate set in the lanes of a set, or left. -/
theorem Group.pGet_setIn (g : Group) (n : Nat) (m : Mask) (flag : Bool) (l : Nat) (hl : l < 64) :
    ((if flag then g.pWrite n m m else g).pGet n).getLsbD l = ((g.pGet n).getLsbD l || (m.getLsbD l && flag)) := by
  cases flag
  · simp
  · simp only [if_true, Bool.and_true, Group.pWrite, Group.pSet, Group.pGet, KMap.getD_setD_self, minus]
    simp [hl]
    cases m[l] <;> simp

/-! ### Completion -/

/-- What an entry of the block gives at completion. -/
def Team.acvEntry (t : Team) (sl : Slot) (b : Nat) (rs cs bi : List Nat) (i j : Nat) : Nat × Bool :=
  acvOut sl (t.accGet (acvReg b) (acvRow b + i) (acvCol b + j)) (if bitOf b 40 then rs[i]? else none)
    (if bitOf b 41 then cs[j]? else none) (if bitOf b 42 then bi[j]? else none)

/-- An entry of the block was clamped or poisoned. -/
def Team.acvFlag (t : Team) (sl : Slot) (b : Nat) (rs cs bi : List Nat) : Bool :=
  (List.range (acvM b)).any (fun i => (List.range (acvN b)).any (fun j => (t.acvEntry sl b rs cs bi i j).2))

/-- The state in which a completed ACV leaves its group to settle. -/
def State.acvDone (s : State) (id : Nat) (o : Op) (b pr cfg : Nat) (sl : Slot) (rs cs bi : List Nat) : State :=
  let tid := (s.grp o.gid).team
  let t := s.team tid
  let s1 := s.modTeam tid (fun u => u.setTile (acvDt b) ((u.tile (acvDt b)).put
    (blockBytes (pitchOf (cfgType cfg) (cfgCols cfg)) (rowBytes (otyEtype sl.otype) 1) (acvM b) (acvN b)
      (fun i j => (t.acvEntry sl b rs cs bi i j).1))))
  let s2 := s1.modGrp o.gid (fun g => (if t.acvFlag sl b rs cs bi then g.pWrite pr o.lanes o.lanes else g).keepResult o)
  { s2 with ops := KMap.erase s2.ops id }.release t.core (.acv id)

theorem any_flatMap_range (m n : Nat) (p : Nat → Nat → Bool) :
    ((List.range m).flatMap (fun i => (List.range n).map (fun j => (i, j)))).any (fun e => p e.1 e.2) =
      (List.range m).any (fun i => (List.range n).any (fun j => p i j)) := by
  simp only [List.any_flatMap, List.any_map]
  rfl

section
variable {s : State} {id b sn pr : Nat} {o : Op} {rs cs bi : List Nat} (ho : KMap.find? s.ops id = some o)
  (hk : o.kind = .acv b sn pr rs cs bi)
include ho hk

theorem execAcvComplete_waits (hg : s.granted (s.team (s.grp o.gid).team).core (.acv id) = false) :
    execAcvComplete id s = .next s := by
  unfold execAcvComplete
  rw [ho]
  dsimp only
  rw [hk]
  dsimp only
  rw [hg]
  rfl

theorem execAcvComplete_poisoned (hg : s.granted (s.team (s.grp o.gid).team).core (.acv id) = true)
    (hb : (s.team (s.grp o.gid).team).tileBad (acvDt b) = true ∨ (s.team (s.grp o.gid).team).blockBad b = true) :
    execAcvComplete id s = .next (s.groupFault o.gid 10 o.pc 0 0) := by
  unfold execAcvComplete
  rw [ho]
  dsimp only
  rw [hk]
  dsimp only
  rw [hg, if_neg (by decide), if_pos ((Bool.or_eq_true ..).mpr hb)]

theorem execAcvComplete_done {sl : Slot} {cfg : Nat} (hg : s.granted (s.team (s.grp o.gid).team).core (.acv id) = true)
    (htile : (s.team (s.grp o.gid).team).tileBad (acvDt b) = false) (hblock : (s.team (s.grp o.gid).team).blockBad b = false)
    (hsl : Slot.decode ((s.phase (s.team (s.grp o.gid).team).phase).slot sn) = some sl)
    (hcfg : ((s.team (s.grp o.gid).team).tile (acvDt b)).cfg = some cfg) :
    execAcvComplete id s = .next ((s.acvDone id o b pr cfg sl rs cs bi).settle o.gid) := by
  unfold execAcvComplete
  rw [ho]
  dsimp only
  rw [hk]
  dsimp only
  rw [hg, if_neg (by decide), htile, hblock, if_neg (by decide), hsl, hcfg]
  dsimp only
  rw [any_flatMap_range (acvM b) (acvN b) (fun i j => (acvOut sl ((s.team (s.grp o.gid).team).accGet (acvReg b) (acvRow b + i) (acvCol b + j))
    (if bitOf b 40 then rs[i]? else none) (if bitOf b 41 then cs[j]? else none) (if bitOf b 42 then bi[j]? else none)).2)]
  rfl

end

theorem State.granted_release (s : State) (core : Nat) (h : Holder) : (s.release core h).granted core h = false := by
  rw [State.granted, State.release, State.district_modDistrict, if_pos rfl, List.any_eq_false]
  intro e he
  rw [List.mem_filter, bne_iff_ne] at he
  exact fun heq => he.2 (beq_iff_eq.mp heq)

section
variable (s : State) (id : Nat) (o : Op) (b pr cfg : Nat) (sl : Slot) (rs cs bi : List Nat)

theorem State.find_acvDone : KMap.find? (s.acvDone id o b pr cfg sl rs cs bi).ops id = none := by
  rw [show (s.acvDone id o b pr cfg sl rs cs bi).ops = KMap.erase s.ops id from rfl, KMap.find?_erase, if_pos rfl]

theorem State.grp_acvDone (h : KMap.find? s.groups o.gid ≠ none) : (s.acvDone id o b pr cfg sl rs cs bi).grp o.gid =
    (if (s.team (s.grp o.gid).team).acvFlag sl b rs cs bi then (s.grp o.gid).pWrite pr o.lanes o.lanes else s.grp o.gid).keepResult o := by
  obtain ⟨g, hg⟩ := Option.ne_none_iff_exists'.mp h
  have found : (KMap.find? s.groups o.gid).isSome = true := by rw [hg]; rfl
  exact (State.grp_modGrp _ _ _ _).trans (if_pos ⟨rfl, found⟩)

theorem State.team_acvDone (h : KMap.find? s.teams (s.grp o.gid).team ≠ none) :
    (s.acvDone id o b pr cfg sl rs cs bi).team (s.grp o.gid).team =
      (s.team (s.grp o.gid).team).setTile (acvDt b) (((s.team (s.grp o.gid).team).tile (acvDt b)).put
        (blockBytes (pitchOf (cfgType cfg) (cfgCols cfg)) (rowBytes (otyEtype sl.otype) 1) (acvM b) (acvN b)
          (fun i j => ((s.team (s.grp o.gid).team).acvEntry sl b rs cs bi i j).1))) := by
  obtain ⟨u, hu⟩ := Option.ne_none_iff_exists'.mp h
  have found : (KMap.find? s.teams (s.grp o.gid).team).isSome = true := by rw [hu]; rfl
  exact (State.team_modTeam _ _ _ _).trans (if_pos ⟨rfl, found⟩)

end

theorem Team.tile_setTile (t : Team) (n : Nat) (x : Tile) : (t.setTile n x).tile n = x := KMap.getD_setD_self ..

/-! ### Reads of the block and its vectors, and the request for current -/

theorem State.stashOther_unshared {s : State} {locs : List Loc} (h : s.unshared locs) {p : Loc} (hp : p ∈ locs) (write : Bool) :
    s.stashOther p write = s := by
  have no_hit : s.teams.flatMap (fun e => (e.2.stash.filter (fun l => p.win != some (e.1, l.1) && s.stashHolds e.2 l.1 p.key)).map
      (fun l => (e.1, l.1, l.2))) = [] := by
    rw [List.flatMap_eq_nil_iff]
    intro e he
    rw [List.map_eq_nil_iff, List.filter_eq_nil_iff]
    intro l hl hit
    rw [Bool.and_eq_true, bne_iff_ne] at hit
    rcases h e he l hl p hp with hw | ⟨q, hq, hne⟩
    · exact hit.1 hw
    · have holds := hit.2
      simp only [State.stashHolds, State.stashLoc, hq, beq_iff_eq] at holds
      exact hne holds
  unfold State.stashOther
  dsimp only
  rw [no_hit]
  rfl

theorem State.recallAll_unshared {s : State} {locs : List Loc} (h : s.unshared locs) (write : Bool) : s.recallAll locs write = s :=
  List.foldlRecOn (motive := fun t : State => t = s) locs _ rfl fun _ ht _ hp => ht ▸ State.stashOther_unshared h hp write

theorem State.setStash_ctxs (s : State) (team line : Nat) (st : StashState) : (s.setStash team line st).ctxs = s.ctxs := rfl

theorem State.fillLines_ctxs (s : State) (lines : List (Nat × Nat)) (write : Bool) : (s.fillLines lines write).ctxs = s.ctxs := by
  refine List.foldlRecOn (motive := fun t : State => t.ctxs = s.ctxs) lines _ rfl fun t ht e _ => ?_
  split
  · exact ht
  · split <;> exact ht

/-- Filling stash lines strikes no context. -/
theorem State.struck_fillLines (s : State) (gid ctx : Nat) (lines : List (Nat × Nat)) (write : Bool) :
    s.struck ((s.captureLoads gid).fillLines lines write) ctx = false := by
  rw [State.struck, State.ctx, State.fillLines_ctxs]
  exact bne_self_eq_false _

theorem State.request_waits (s : State) (core : Nat) (h : Holder) (units : Nat) :
    ∃ e ∈ ((s.request core h units).district (districtOf core)).waiting ++ ((s.request core h units).district (districtOf core)).granted,
      e.1 = h ∧ ((∀ k ∈ (s.district (districtOf core)).waiting ++ (s.district (districtOf core)).granted, k.1 ≠ h) → e.2 = units) := by
  rw [State.request, State.district_modDistrict, if_pos rfl]
  split
  · next asked =>
    rw [← List.any_append, List.any_eq_true] at asked
    obtain ⟨e, he, heq⟩ := asked
    exact ⟨e, he, beq_iff_eq.mp heq, fun hno => absurd (beq_iff_eq.mp heq) (hno e he)⟩
  · exact ⟨(h, units), by simp, rfl, fun _ => rfl⟩

/-- The need of an ACV whose block is b. -/
def acvNeed (f : FE) (b : Nat) : Need := { memaff := true, slot := some f.slot.toNat, tiles := [.acc (acvReg b), .t (acvDt b)] }

/-- The operation that a good ACV puts into flight, with the words of its vectors. -/
def Issue.acvOp (x : Issue) (f : FE) (b : Nat) (rs cs bi : List Nat) : Op :=
  { gid := x.gid, pc := x.pc, flag := x.flagOf f.fsel, lanes := x.pass, entry := x.e.mask, once := true
    regs := [.t (acvDt b), .acc (acvReg b), .p f.x.idx.toNat]
    kind := .acv b f.slot.toNat f.x.idx.toNat rs cs bi }

/-- The state in which a good ACV leaves its entry to go on: in flight, with its request for current queued. -/
def Issue.acvLaunched (x : Issue) (f : FE) (b : Nat) (s1 : State) (rs cs bi : List Nat) : State :=
  (({ s1 with ops := KMap.insert s1.ops (KMap.nextKey s1.ops) (x.acvOp f b rs cs bi) }).modGrp x.gid (fun g =>
    { g with acv := g.acv ++ [(x.pc, x.pass, acvM b * acvN b)] })).request x.team.core (.acv (KMap.nextKey s1.ops)) 4

theorem Issue.find_acvLaunched (x : Issue) (f : FE) (b : Nat) (s1 : State) (rs cs bi : List Nat) :
    KMap.find? (x.acvLaunched f b s1 rs cs bi).ops (KMap.nextKey s1.ops) = some (x.acvOp f b rs cs bi) :=
  KMap.find?_insert_self ..

/-- What ACV does once its block is read, and its slot decoded: the checks of R242, the reads of its vectors, and its launch. -/
def Issue.acvGo (x : Issue) (f : FE) (sl : Slot) (inf : Info) (b : Nat) : Out :=
  if !acvOk x.team x.phase.sched sl.otype b then x.fault 6 0
  else if x.team.tileBad (acvDt b) || x.team.blockBad b then x.fault 10 0
  else
    let x1 := x.touchVectors b
    match (acvVectors b).mapM x1.vector with
    | .error m => x1.s.missOut x.gid x.e x.pass m
    | .ok sps =>
      let locs := sps.flatMap (fun sp => sp.locs)
      if locs.any (fun p => x1.s.owned p.key) then x1.again x1.s
      else
        let s1 := ((x1.s.captureLoads x.gid).recallAll locs false).fillLines (sps.flatMap (fun sp => sp.lines)) false
        if x1.s.struck s1 x.ctx then .next s1
        else
          let x2 : Issue := { x with s := s1 }
          let words := sps.map x2.vectorWords
          let o : Op := {
            gid := x.gid, pc := x.pc, flag := none, lanes := x.pass, entry := x.e.mask, once := true
            regs := [.t (acvDt b), .acc (acvReg b), .p f.x.idx.toNat]
            kind := .acv b f.slot.toNat f.x.idx.toNat (words.getD 0 []) (words.getD 1 []) (words.getD 2 []) }
          let s2 := (x2.launch inf o).modGrp x.gid (fun g => { g with acv := g.acv ++ [(x.pc, x.pass, acvM b * acvN b)] })
          x.finishS (s2.request x.team.core (.acv (KMap.nextKey s1.ops)) 4)

/-- The block that an ACV reads before it issues (log entry 29). -/
def acvPlan (f : FE) (s : State) : Nat :=
  match preIssue (.acv f) s with
  | some x =>
    match lowLane x.pass with
    | some l => x.planBlock (x.src f.p 32 l)
    | none => 0
  | none => 0

theorem execAcv_eq (f : FE) (s : State) : execAcv f s = stage (.acv f) s (acvNeed f (acvPlan f s)) (fun x =>
    x.block f.p (fun _ a => x.readBlock x.s a (fun b =>
      match Slot.decode (x.phase.slot f.slot.toNat), (Instr.acv f).info with
      | some sl, some inf => x.acvGo f sl inf b
      | _, _ => x.finish x.g))) := rfl

theorem acvPlan_of {f : FE} {s : State} {a b : Nat} (h : ∃ y l, preIssue (.acv f) s = some y ∧ lowLane y.pass = some l ∧
    y.src f.p 32 l = a ∧ ∃ q, y.s.spadSpan y.tid .load a 64 = .ok q ∧ y.s.readOwn y.gid q.locs = b) : acvPlan f s = b := by
  obtain ⟨y, l, hy, hl, ha, q, hq, hb⟩ := h
  unfold acvPlan
  rw [hy]
  dsimp only
  rw [hl]
  dsimp only
  rw [ha, Issue.planBlock, hq]
  exact hb

/-- An issue of ACV that reads its block: the address in its lowest passing lane passes the checks of R226. -/
structure AcvRead (f : FE) (s : State) (x : Issue) (a b : Nat) (sl : Slot) (sp : Span) : Prop where
  issues : issueOf (.acv f) s (acvNeed f b) = some x
  planned : acvPlan f s = b
  lowest : ∃ l, x.pass.getLsbD l = true ∧ (∀ k, k < l → x.pass.getLsbD k = false) ∧ a = x.src f.p 32 l
  aligned : a % 64 = 0
  own : a < 2 ^ 24
  within : a + 64 ≤ x.team.extent
  plain : x.phase.record.window a = none
  span : x.s.spadSpan x.tid .load a 64 = .ok sp
  bytes : b = x.s.readOwn x.gid sp.locs
  slot : Slot.decode (x.phase.slot f.slot.toNat) = some sl

theorem Issue.block_of_lowest {x : Issue} {p : Operand} {a : Nat}
    (hl : ∃ l, x.pass.getLsbD l = true ∧ (∀ k, k < l → x.pass.getLsbD k = false) ∧ a = x.src p 32 l) (h64 : a % 64 = 0)
    (hown : a < 2 ^ 24) (hin : a + 64 ≤ x.team.extent) (k : Nat → Out) : x.block p (fun _ a => k a) = k a := by
  obtain ⟨l, hl, hlow, rfl⟩ := hl
  unfold Issue.block
  rw [lowLane_of_lowest hl hlow]
  dsimp only
  rw [if_neg (not_not_intro h64), if_neg (not_not_intro (Nat.div_eq_of_lt hown)), if_neg (not_lt.mpr hin)]

theorem Issue.readBlock_eq {x : Issue} {s : State} {a : Nat} {sp : Span} (hw : x.phase.record.window a = none)
    (hs : s.spadSpan x.tid .load a 64 = .ok sp) (k : Nat → Out) :
    x.readBlock s a k = if sp.locs.any (fun p => s.owned p.key) then x.again s else k (s.readOwn x.gid sp.locs) := by
  unfold Issue.readBlock
  rw [hw, if_neg (by decide), hs]

section
variable {f : FE} {s : State} {x : Issue} {a b : Nat} {sl : Slot} {sp : Span} (h : AcvRead f s x a b sl sp)
include h

theorem AcvRead.reaches : execAcv f s = if sp.locs.any (fun p => x.s.owned p.key) then x.again x.s
    else x.acvGo f sl (feInfo 0xD6 true f (.src 32) .pred (subErr f.sub 0) (efRsv f.ef 0)) b := by
  rw [execAcv_eq, h.planned, stage_of_issueOf h.issues,
    Issue.block_of_lowest h.lowest h.aligned h.own h.within (fun a => x.readBlock x.s a _), Issue.readBlock_eq h.plain h.span, ← h.bytes, h.slot]
  rfl

theorem AcvRead.owned (ho : ∃ p ∈ sp.locs, x.s.owned p.key = true) : execAcv f s = x.again x.s := by
  rw [h.reaches, if_pos (List.any_eq_true.mpr ho)]

theorem AcvRead.free (ho : ∀ p ∈ sp.locs, x.s.owned p.key = false) :
    execAcv f s = x.acvGo f sl (feInfo 0xD6 true f (.src 32) .pred (subErr f.sub 0) (efRsv f.ef 0)) b := by
  rw [h.reaches, if_neg]
  rw [List.any_eq_true]
  rintro ⟨p, hp, hown⟩
  exact Bool.false_ne_true ((ho p hp).symm.trans hown)

end

section
variable {x : Issue} {f : FE} {sl : Slot} {inf : Info} {b : Nat}

theorem Issue.acvGo_bad (hb : acvOk x.team x.phase.sched sl.otype b = false) :
    x.acvGo f sl inf b = .next (x.s.groupFault x.gid 6 x.pc 0 0) := by
  unfold Issue.acvGo
  rw [hb]
  rfl

theorem Issue.acvGo_poisoned (hb : acvOk x.team x.phase.sched sl.otype b = true)
    (hp : x.team.tileBad (acvDt b) = true ∨ x.team.blockBad b = true) :
    x.acvGo f sl inf b = .next (x.s.groupFault x.gid 10 x.pc 0 0) := by
  unfold Issue.acvGo
  rw [hb, if_neg (by decide), if_pos ((Bool.or_eq_true ..).mpr hp)]
  rfl

variable (hb : acvOk x.team x.phase.sched sl.otype b = true) (ht : x.team.tileBad (acvDt b) = false)
  (hr : x.team.blockBad b = false) {sr sc sb : Span}
  (hv : (acvVectors b).mapM (x.touchVectors b).vector = .ok [sr, sc, sb])
include hb ht hr hv

theorem Issue.acvGo_waits (ho : ∃ p ∈ sr.locs ++ sc.locs ++ sb.locs, (x.touchVectors b).s.owned p.key = true) :
    x.acvGo f sl inf b = (x.touchVectors b).again (x.touchVectors b).s := by
  have locs_eq : [sr, sc, sb].flatMap (fun sp => sp.locs) = sr.locs ++ sc.locs ++ sb.locs := by simp
  unfold Issue.acvGo
  rw [hb, if_neg (by decide), ht, hr, if_neg (by decide)]
  dsimp only
  rw [hv]
  dsimp only
  rw [locs_eq, if_pos (List.any_eq_true.mpr ho)]

theorem Issue.acvGo_launches (hf : inf.fsel = f.fsel)
    (ho : ∀ p ∈ sr.locs ++ sc.locs ++ sb.locs, (x.touchVectors b).s.owned p.key = false)
    (hu : (x.touchVectors b).s.unshared (sr.locs ++ sc.locs ++ sb.locs)) :
    let s1 := ((x.touchVectors b).s.captureLoads x.gid).fillLines (sr.lines ++ sc.lines ++ sb.lines) false
    let words := fun sp => Issue.vectorWords { x with s := s1 } sp
    x.acvGo f sl inf b = .next (x.doneS (x.acvLaunched f b s1 (words sr) (words sc) (words sb))) := by
  have locs_eq : [sr, sc, sb].flatMap (fun sp => sp.locs) = sr.locs ++ sc.locs ++ sb.locs := by simp
  have lines_eq : [sr, sc, sb].flatMap (fun sp => sp.lines) = sr.lines ++ sc.lines ++ sb.lines := by simp
  have none_owned : (sr.locs ++ sc.locs ++ sb.locs).any (fun p => (x.touchVectors b).s.owned p.key) = false :=
    List.any_eq_false.mpr fun p hp => Bool.eq_false_iff.mp (ho p hp)
  have recalled : ((x.touchVectors b).s.captureLoads x.gid).recallAll (sr.locs ++ sc.locs ++ sb.locs) false =
      (x.touchVectors b).s.captureLoads x.gid :=
    State.recallAll_unshared (show ((x.touchVectors b).s.captureLoads x.gid).unshared _ from hu) false
  unfold Issue.acvGo
  rw [hb, if_neg (by decide), ht, hr, if_neg (by decide)]
  dsimp only
  rw [hv]
  dsimp only
  rw [locs_eq, lines_eq, none_owned, if_neg (by decide), recalled, State.struck_fillLines, if_neg (by decide), Issue.finishS_eq,
    Issue.launch, hf]
  rfl

end

/-- Settles O43: the block's checks are the bits and bounds that R242 lists, an entry's value is that of R243, the issue reaches one
outcome of `Issue.acvGo`, and the completion writes one element after another. -/
theorem conversion : Obligations.Conversion := by
  unfold Obligations.Conversion
  refine ⟨fun t sc o b => ?_, fun sl e rs cs bi F w hF => ⟨fun hp => ?_, fun hp => ?_⟩, ?_, ?_⟩
  · rw [acvOk_iff]
    cases o <;> rfl
  · rcases hF with hF | ⟨hF, rfl⟩
    · rw [acvOut_float hF, if_pos hp, hF]
    · rw [acvOut_int hF, if_pos hp, hF]
  · have unpoisoned : ¬ accPoisoned e = true := Bool.eq_false_iff.mp hp
    rcases hF with hF | ⟨hF, rfl⟩
    · rw [acvOut_float hF, if_neg unpoisoned, acvValue_eq, hF]
    · rw [acvOut_int hF, if_neg unpoisoned, acvValue_eq, hF] <;> rfl
  · intro f s x a b sl sp hx hplan hlow h64 hown hin hw hsp hb hsl
    have read : AcvRead f s x a b sl sp := ⟨hx, acvPlan_of hplan, hlow, h64, hown, hin, hw, hsp, hb, hsl⟩
    rw [exec_acv]
    refine ⟨read.owned, fun free => ?_⟩
    rw [read.free free]
    refine ⟨Issue.acvGo_bad, Issue.acvGo_poisoned, fun hok ht hr => ?_⟩
    intro x1 sr sc sb hv
    refine ⟨Issue.acvGo_waits hok ht hr hv, fun ho hu => ?_⟩
    refine ⟨_, Issue.acvGo_launches hok ht hr hv rfl ho hu, rfl, Issue.find_acvLaunched .., ?_⟩
    exact State.request_waits ..
  · intro s id b sn pr o rs cs bi sl cfg ho hk
    rw [exec_acvComplete]
    refine ⟨execAcvComplete_waits ho hk, execAcvComplete_poisoned ho hk, fun hg ht hr hsl hcfg hok hteam hgrp => ?_⟩
    obtain ⟨-, -, -, -, -, ⟨c, hc, -, hcols, htype⟩, -⟩ := (acvOk_iff ..).mp hok
    obtain rfl : cfg = c := Option.some.inj (hcfg.symm.trans hc)
    have team_eq := s.team_acvDone id o b pr cfg sl rs cs bi hteam
    have grp_eq := s.grp_acvDone id o b pr cfg sl rs cs bi hgrp
    refine ⟨s.acvDone id o b pr cfg sl rs cs bi, execAcvComplete_done ho hk hg ht hr hsl hcfg, s.find_acvDone .., rfl,
      State.granted_release .., fun i j hi hj => ?_, fun l hl => ?_, grp_eq, ?_⟩
    · rw [team_eq, Team.tile_setTile]
      exact Tile.elem_put_block _ sl.otype _ htype hcols hi hj
    · rw [grp_eq, Group.pGet_keepResult]
      exact Group.pGet_setIn _ _ _ _ l hl
    · rw [team_eq]
      rfl

end Sys2Proof.Machine
end

section
/-! Long-latency functions: their flight (R78, R135), and their results for special operands (R153). -/

namespace Sys2Proof

/-! ### Values that the bits of a format hold -/

section
variable (F : FFmt) (m : RMode)

theorem FFmt.value_rnd_inf (s : Bool) : F.value (F.rnd m (.inf s)) = .inf s := by
  have bits : ∀ s : Bool, F.value ((if s then F.signBit else 0) + F.infBits) = .inf s := by cases F <;> decide
  exact bits s

theorem FFmt.value_infBits : F.value F.infBits = .inf false := by
  cases F <;> decide

theorem FFmt.value_negInf : F.value (F.signBit + F.infBits) = .inf true := by
  cases F <;> decide

theorem FFmt.rnd_zero (s : Bool) (e : Int) : F.rnd m (.fin s 0 e) = if s then 2 ^ (F.width - 1) else 0 := rfl

/-- A rounding of 1 holds 1. -/
theorem FFmt.value_rnd_one : ∃ k e, F.value (F.rnd m (.fin false 1 0)) = .fin false k e ∧ (FVal.fin false k e).toRat = 1 := by
  refine ⟨2 ^ F.fbits, -F.fbits, ?_, ?_⟩
  · cases F <;> cases m <;> decide
  · simp [FVal.toRat, zpow_neg]

end

/-! ### Special operands -/

section
variable {F : FFmt} {a : Nat} (m : RMode) (b : Nat)

theorem FFmt.long_nan (h : F.value a = .nan) : F.div m a b = F.canonNan ∧ F.sqrt m a = F.canonNan ∧ F.rcp m a = F.canonNan ∧
    F.rsq m a = F.canonNan ∧ F.ex2 m a = F.canonNan ∧ F.lg2 m a = F.canonNan ∧ F.sin m a = F.canonNan ∧ F.cos m a = F.canonNan := by
  simp only [FFmt.div, FFmt.sqrt, FFmt.rcp, FFmt.rsq, FFmt.ex2, FFmt.lg2, FFmt.sin, FFmt.cos, h, and_self]

theorem FFmt.div_nan (h : F.value b = .nan) : F.div m a b = F.canonNan := by
  cases ha : F.value a <;> simp only [FFmt.div, ha, h]

theorem FFmt.div_inf_inf {s t : Bool} (ha : F.value a = .inf s) (hb : F.value b = .inf t) : F.div m a b = F.canonNan := by
  simp only [FFmt.div, ha, hb]

theorem FFmt.div_inf_fin {s t : Bool} {k : Nat} {g : Int} (ha : F.value a = .inf s) (hb : F.value b = .fin t k g) :
    F.value (F.div m a b) = .inf (s != t) := by
  simp only [FFmt.div, ha, hb, FFmt.value_rnd_inf]

theorem FFmt.div_fin_inf {s t : Bool} {k : Nat} {e : Int} (ha : F.value a = .fin s k e) (hb : F.value b = .inf t) :
    F.div m a b = if s != t then 2 ^ (F.width - 1) else 0 := by
  simp only [FFmt.div, ha, hb]
  rfl

theorem FFmt.div_by_zero {s t : Bool} {k : Nat} {e g : Int} (ha : F.value a = .fin s k e) (hk : k ≠ 0) (hb : F.value b = .fin t 0 g) :
    F.value (F.div m a b) = .inf (s != t) := by
  simp only [FFmt.div, ha, hb, if_true, if_neg hk, FFmt.value_rnd_inf]

theorem FFmt.div_zero_by_zero {s t : Bool} {e g : Int} (ha : F.value a = .fin s 0 e) (hb : F.value b = .fin t 0 g) :
    F.div m a b = F.canonNan := by
  simp only [FFmt.div, ha, hb, if_true]

theorem FFmt.div_zero {s t : Bool} {k : Nat} {e g : Int} (ha : F.value a = .fin s 0 e) (hb : F.value b = .fin t k g) (hk : k ≠ 0) :
    F.div m a b = if s != t then 2 ^ (F.width - 1) else 0 := by
  simp only [FFmt.div, ha, hb, if_true, if_neg hk]
  rfl

theorem FFmt.long_inf {s : Bool} (h : F.value a = .inf s) :
    F.rcp m a = (if s then 2 ^ (F.width - 1) else 0) ∧ F.sin m a = F.canonNan ∧ F.cos m a = F.canonNan := by
  simp only [FFmt.rcp, FFmt.sin, FFmt.cos, h, and_self, and_true]
  rfl

theorem FFmt.long_posInf (h : F.value a = .inf false) : F.value (F.sqrt m a) = .inf false ∧ F.rsq m a = 0 ∧
    F.value (F.ex2 m a) = .inf false ∧ F.value (F.lg2 m a) = .inf false := by
  simp only [FFmt.sqrt, FFmt.rsq, FFmt.ex2, FFmt.lg2, h, Bool.false_eq_true, if_false, FFmt.value_infBits, and_self]

theorem FFmt.long_negInf (h : F.value a = .inf true) : F.sqrt m a = F.canonNan ∧ F.rsq m a = F.canonNan ∧ F.ex2 m a = 0 ∧
    F.lg2 m a = F.canonNan := by
  simp only [FFmt.sqrt, FFmt.rsq, FFmt.ex2, FFmt.lg2, h, if_true, and_self]

theorem FFmt.long_zero {s : Bool} {e : Int} (h : F.value a = .fin s 0 e) : F.sqrt m a = a ∧ F.value (F.rcp m a) = .inf s ∧
    F.value (F.rsq m a) = .inf s ∧ F.ex2 m a = F.rnd m (.fin false 1 0) ∧ F.value (F.lg2 m a) = .inf true ∧ F.sin m a = a ∧
    F.cos m a = F.rnd m (.fin false 1 0) := by
  simp only [FFmt.sqrt, FFmt.rcp, FFmt.rsq, FFmt.ex2, FFmt.lg2, FFmt.sin, FFmt.cos, h, if_true, FFmt.value_rnd_inf, FFmt.value_negInf,
    and_self]

theorem FFmt.long_negative {k : Nat} {e : Int} (h : F.value a = .fin true k e) (hk : k ≠ 0) : F.sqrt m a = F.canonNan ∧
    F.rsq m a = F.canonNan ∧ F.lg2 m a = F.canonNan := by
  simp only [FFmt.sqrt, FFmt.rsq, FFmt.lg2, h, if_neg hk, if_true, and_self]

end

/-- 2^(1/2) is not exact, and 2^3, the root of 4 and that of 1/4 are. -/
theorem longLatency_examples : (∀ m, FFmt.f32.ex2 m 0x3F000000 = if m = .ru then 0x3FB504F4 else 0x3FB504F3) ∧
    ∀ m, FFmt.f32.ex2 m 0x40400000 = 0x41000000 ∧ FFmt.f32.sqrt m 0x40800000 = 0x40000000 ∧ FFmt.f32.rsq m 0x40800000 = 0x3F000000 := by
  refine ⟨fun m => ?_, fun m => ?_⟩ <;> cases m <;> decide +kernel

end Sys2Proof

namespace Sys2Proof.Machine

/-! ### Flight -/

/-- A long-latency word that issues goes into flight with its results, or is done where no lane passes. -/
theorem floatLong_of_issueOf {i : Instr} {s : State} {f : V3} {x : Issue} {inf : Info} (op : Nat → Nat → Nat) (hx : issueOf i s {} = some x)
    (hi : i.info = some inf) (hf : inf.fsel = f.fsel) :
    (x.pass = 0 → floatLong i s f op = .next (x.done x.g)) ∧
    (x.pass ≠ 0 → floatLong i s f op = .next (x.doneS { x.s with
      ops := KMap.insert x.s.ops (KMap.nextKey x.s.ops)
        { gid := x.gid, pc := x.pc, flag := x.e.clause.bind (fun c => c.flag f.fsel), lanes := x.pass, entry := x.e.mask,
          dst := f.d, ty := f.ty, regs := opRegs f.d 32,
          kind := .func (x.vals (fun l => op (tyBits f.ty (x.src f.a 32 l)) (tyBits f.ty (x.src f.b 32 l)))) } })) := by
  unfold floatLong
  rw [stage_of_issueOf hx]
  refine ⟨fun hp => ?_, fun hp => ?_⟩
  · rw [if_pos hp, Issue.finish_eq]
  · rw [if_neg hp, hi]
    dsimp only
    rw [Issue.finishS_eq, Issue.launch, hf]

theorem execFuncResultWrite_eq {s : State} {n : Nat} {o : Op} {vals : List (Nat × Nat)} (ho : KMap.find? s.ops n = some o)
    (hk : o.kind = .func vals) : execFuncResultWrite n s = .next (State.settle { s with
      groups := KMap.modify s.groups o.gid (fun g =>
        (g.write o.dst o.ty 32 (vals.filter (fun e => o.lanes.getLsbD e.1))).keepResult o)
      ops := KMap.erase s.ops n } o.gid) := by
  unfold execFuncResultWrite
  rw [ho]
  dsimp only
  rw [hk]
  rfl

/-! ### Results of a committed strand (R35, R81) -/

/-- A register of the list takes its present value into what a discard restores. -/
def Group.keepReg (g : Group) (r : RegRef) : Group :=
  match r with
  | .s n => { g with snap := { g.snap with s := KMap.setD g.snap.s 0 n (g.sGet n) } }
  | .p n => { g with snap := { g.snap with p := KMap.setD g.snap.p 0 n (g.pGet n) } }
  | _ => g

theorem Group.keepResult_committed (g : Group) {o : Op} (h : o.committed = true) : g.keepResult o = o.regs.foldl Group.keepReg g := by
  unfold Group.keepResult
  rw [if_pos h]
  congr 1

theorem Group.keepRegs_but_snap (g : Group) (l : List RegRef) : { l.foldl Group.keepReg g with snap := g.snap } = g := by
  refine List.foldlRecOn (motive := fun t : Group => { t with snap := g.snap } = g) l _ rfl fun t ht r _ => ?_
  have same : ({ t.keepReg r with snap := g.snap } : Group) = { t with snap := g.snap } := by cases r <;> rfl
  exact same.trans ht

theorem Group.keepRegs_snap_s (g : Group) (l : List RegRef) (n : Nat) : KMap.getD (l.foldl Group.keepReg g).snap.s 0 n =
    if RegRef.s n ∈ l then g.sGet n else KMap.getD g.snap.s 0 n := by
  induction l generalizing g with
  | nil => rfl
  | cons r l ih =>
    have read : (g.keepReg r).sGet n = g.sGet n := by cases r <;> rfl
    rw [List.foldl_cons, ih, read]
    by_cases hl : RegRef.s n ∈ l
    · rw [if_pos hl, if_pos (List.mem_cons_of_mem r hl)]
    · rw [if_neg hl]
      cases r with
      | s k =>
        rw [Group.keepReg, KMap.getD_setD]
        by_cases hk : k = n
        · rw [if_pos hk, if_pos (hk ▸ List.mem_cons_self), hk]
        · rw [if_neg hk, if_neg (by simp [hl, Ne.symm hk])]
      | v | k | p | t | acc => rw [if_neg (by simp [hl])]; rfl

theorem Group.keepRegs_snap_p (g : Group) (l : List RegRef) (n : Nat) : KMap.getD (l.foldl Group.keepReg g).snap.p 0 n =
    if RegRef.p n ∈ l then g.pGet n else KMap.getD g.snap.p 0 n := by
  induction l generalizing g with
  | nil => rfl
  | cons r l ih =>
    have read : (g.keepReg r).pGet n = g.pGet n := by cases r <;> rfl
    rw [List.foldl_cons, ih, read]
    by_cases hl : RegRef.p n ∈ l
    · rw [if_pos hl, if_pos (List.mem_cons_of_mem r hl)]
    · rw [if_neg hl]
      cases r with
      | p k =>
        rw [Group.keepReg, KMap.getD_setD]
        by_cases hk : k = n
        · rw [if_pos hk, if_pos (hk ▸ List.mem_cons_self), hk]
        · rw [if_neg hk, if_neg (by simp [hl, Ne.symm hk])]
      | v | k | s | t | acc => rw [if_neg (by simp [hl])]; rfl

theorem Group.keepResult_spec (g : Group) (o : Op) : (o.committed = false → g.keepResult o = g) ∧
    { g.keepResult o with snap := g.snap } = g ∧
    (o.committed = true → ∀ n,
      KMap.getD (g.keepResult o).snap.s 0 n = (if RegRef.s n ∈ o.regs then g.sGet n else KMap.getD g.snap.s 0 n) ∧
      KMap.getD (g.keepResult o).snap.p 0 n = (if RegRef.p n ∈ o.regs then g.pGet n else KMap.getD g.snap.p 0 n)) := by
  cases h : o.committed
  · have unkept : g.keepResult o = g := by
      unfold Group.keepResult
      rw [h, if_neg Bool.false_ne_true]
    exact ⟨fun _ => unkept, by rw [unkept], fun hc => absurd hc Bool.false_ne_true⟩
  · rw [g.keepResult_committed h]
    exact ⟨fun hc => absurd hc.symm Bool.false_ne_true, g.keepRegs_but_snap _,
      fun _ n => ⟨g.keepRegs_snap_s _ n, g.keepRegs_snap_p _ n⟩⟩

end Sys2Proof.Machine
end

section
/-! The rounding helper (R50): what a rational between two neighbours of a fine grid rounds to, and what rounds a real. -/

namespace Sys2Proof

/-! ### Powers of two as quotients -/

theorem two_zpow_eq_div (e : Int) : (2 : ℝ) ^ e = ((2 ^ e.toNat : Nat) : ℝ) / ((2 ^ (-e).toNat : Nat) : ℝ) := by
  push_cast
  rcases le_total 0 e with h | h
  · rw [Int.toNat_eq_zero.mpr (by omega : -e ≤ 0), pow_zero, div_one, ← zpow_natCast, Int.toNat_of_nonneg h]
  · rw [Int.toNat_eq_zero.mpr h, pow_zero, one_div, ← zpow_natCast, Int.toNat_of_nonneg (by omega), zpow_neg, inv_inv]

theorem FFmt.rnd_fin_eq (F : FFmt) (m : RMode) (neg : Bool) {k : Nat} (hk : k ≠ 0) (e : Int) :
    F.rnd m (.fin neg k e) = rndQ F m neg (k * 2 ^ e.toNat) (2 ^ (-e).toNat) := by
  rw [FFmt.rnd, if_neg hk]
  split
  · next h => rw [Int.toNat_eq_zero.mpr (by omega : -e ≤ 0), pow_zero]
  · next h => rw [Int.toNat_eq_zero.mpr (by omega : e ≤ 0), pow_zero, Nat.mul_one]

/-! ### What rounds a real -/

theorem FFmt.rounds_of_eq {F : FFmt} {m : RMode} {x : ℝ} {neg : Bool} {a d : Nat} (ha : 0 < a) (hd : 0 < d) (hneg : neg = true ↔ x < 0)
    (hx : |x| = a / d) : F.rounds m x (rndQ F m neg a d) :=
  ⟨neg, a, a, d, ha, hd, hneg, hx.ge, hx.le, rfl, rfl⟩

theorem FVal.toRat_cast (s : Bool) (k : Nat) (e : Int) :
    (((FVal.fin s k e).toRat : ℚ) : ℝ) = (if s then -1 else 1) * (k * (2 : ℝ) ^ e) := by
  rw [FVal.toRat]
  push_cast
  cases s <;> simp

theorem FVal.abs_toRat (s : Bool) (k : Nat) (e : Int) : |(((FVal.fin s k e).toRat : ℚ) : ℝ)| = k * (2 : ℝ) ^ e := by
  rw [FVal.toRat_cast, abs_mul, abs_of_nonneg (show (0 : ℝ) ≤ k * (2 : ℝ) ^ e by positivity)]
  cases s <;> simp

theorem FVal.toRat_neg_iff (s : Bool) {k : Nat} (hk : k ≠ 0) (e : Int) : s = true ↔ (((FVal.fin s k e).toRat : ℚ) : ℝ) < 0 := by
  have pos : (0 : ℝ) < k * (2 : ℝ) ^ e := mul_pos (Nat.cast_pos.mpr (Nat.pos_of_ne_zero hk)) (zpow_pos two_pos e)
  rw [FVal.toRat_cast]
  cases s
  · simpa using pos.le
  · simpa using pos

theorem FFmt.rounds_rnd_fin (F : FFmt) (m : RMode) (s : Bool) {k : Nat} (hk : k ≠ 0) (e : Int) :
    F.rounds m (((FVal.fin s k e).toRat : ℚ) : ℝ) (F.rnd m (.fin s k e)) := by
  rw [F.rnd_fin_eq m s hk]
  refine FFmt.rounds_of_eq (Nat.mul_pos (Nat.pos_of_ne_zero hk) (by positivity)) (by positivity) (FVal.toRat_neg_iff s hk e) ?_
  rw [FVal.abs_toRat, two_zpow_eq_div, Nat.cast_mul, mul_div_assoc]

/-! ### Quotient and reciprocal -/

section
variable {F : FFmt} (m : RMode) {a b : Nat} {s t : Bool} {j k : Nat} {e g : Int} (ha : F.value a = .fin s j e) (hj : j ≠ 0)
include ha hj

theorem FFmt.div_fin_eq (hb : F.value b = .fin t k g) (hk : k ≠ 0) :
    F.div m a b = rndQ F m (s != t) (j * 2 ^ (e - g).toNat) (k * 2 ^ (g - e).toNat) := by
  simp only [FFmt.div, ha, hb, if_neg hj, if_neg hk]
  split
  · next h => rw [Int.toNat_eq_zero.mpr (by omega : g - e ≤ 0), pow_zero, Nat.mul_one]
  · next h => rw [Int.toNat_eq_zero.mpr (by omega : e - g ≤ 0), pow_zero, Nat.mul_one]

theorem FFmt.div_rounds (hb : F.value b = .fin t k g) (hk : k ≠ 0) :
    F.rounds m ((((FVal.fin s j e).toRat : ℚ) : ℝ) / (((FVal.fin t k g).toRat : ℚ) : ℝ)) (F.div m a b) := by
  rw [FFmt.div_fin_eq m ha hj hb hk]
  refine FFmt.rounds_of_eq (Nat.mul_pos (Nat.pos_of_ne_zero hj) (by positivity)) (Nat.mul_pos (Nat.pos_of_ne_zero hk) (by positivity)) ?_ ?_
  · have hs := FVal.toRat_neg_iff s hj e
    have ht := FVal.toRat_neg_iff t hk g
    have hs0 : (((FVal.fin s j e).toRat : ℚ) : ℝ) ≠ 0 := by rw [← abs_pos, FVal.abs_toRat]; positivity
    have ht0 : (((FVal.fin t k g).toRat : ℚ) : ℝ) ≠ 0 := by rw [← abs_pos, FVal.abs_toRat]; positivity
    rw [div_neg_iff, ← hs, ← ht, bne_iff_ne]
    have pos : ∀ {x : ℝ} {c : Bool}, x ≠ 0 → (c = true ↔ x < 0) → (0 < x ↔ c = false) := fun {x c} h0 h => by
      rw [← Bool.not_eq_true, h, not_lt, le_iff_lt_or_eq, or_iff_left (Ne.symm h0)]
    rw [pos hs0 hs, pos ht0 ht]
    cases s <;> cases t <;> simp
  · rw [abs_div, FVal.abs_toRat, FVal.abs_toRat, mul_div_mul_comm, ← zpow_sub₀ two_ne_zero, two_zpow_eq_div, neg_sub, Nat.cast_mul,
      Nat.cast_mul, mul_div_mul_comm]

theorem FFmt.rcp_rounds : F.rounds m (1 / (((FVal.fin s j e).toRat : ℚ) : ℝ)) (F.rcp m a) := by
  have rcp_eq : F.rcp m a = rndQ F m s (2 ^ (-e).toNat) (j * 2 ^ e.toNat) := by
    simp only [FFmt.rcp, ha, if_neg hj]
    split
    · next h => rw [Int.toNat_eq_zero.mpr (by omega : -e ≤ 0), pow_zero]
    · next h => rw [Int.toNat_eq_zero.mpr (by omega : e ≤ 0), pow_zero, Nat.mul_one]
  rw [rcp_eq]
  refine FFmt.rounds_of_eq (by positivity) (Nat.mul_pos (Nat.pos_of_ne_zero hj) (by positivity)) ?_ ?_
  · rw [one_div, inv_lt_zero]
    exact FVal.toRat_neg_iff s hj e
  · rw [abs_div, abs_one, FVal.abs_toRat, two_zpow_eq_div, ← mul_div_assoc, one_div_div, Nat.cast_mul]

end

/-! ### Between two neighbours of a grid -/

/-- What a quotient strictly between the half-integers t / 2 and (t + 1) / 2 rounds to. -/
def betweenQuot (m : RMode) (neg : Bool) (t : Nat) : Nat :=
  match m with
  | .rn => if t % 2 = 1 then t / 2 + 1 else t / 2
  | .rz => t / 2
  | .rd => if neg then t / 2 + 1 else t / 2
  | .ru => if neg then t / 2 else t / 2 + 1

theorem roundQuot_between (m : RMode) (neg : Bool) {A B t : Nat} (hlo : t * B < 2 * A) (hhi : 2 * A < (t + 1) * B) :
    roundQuot m neg A B = betweenQuot m neg t := by
  obtain ⟨u, c, ht, hc⟩ : ∃ u c, t = 2 * u + c ∧ c < 2 := ⟨t / 2, t % 2, by omega, by omega⟩
  have half : t / 2 = u := by omega
  have odd : t % 2 = c := by omega
  have lo_eq : t * B = 2 * (u * B) + c * B := by rw [ht]; ring
  have hi_eq : (t + 1) * B = 2 * (u * B) + (c + 1) * B := by rw [ht]; ring
  rw [lo_eq] at hlo
  rw [hi_eq] at hhi
  have bound : (c + 1) * B ≤ 2 * B := Nat.mul_le_mul_right B hc
  have quot : A / B = u := Nat.div_eq_of_lt_le (by omega) (by rw [Nat.succ_mul]; omega)
  have rem : A % B = A - u * B := by rw [Nat.mod_eq_sub_mul_div, quot, Nat.mul_comm]
  have rem_ne : A % B ≠ 0 := by omega
  unfold roundQuot betweenQuot
  dsimp only
  rw [if_neg rem_ne, quot, half, odd]
  cases m with
  | rn =>
    dsimp only
    have tie : (2 * (A % B) == B) = false := by
      rw [beq_eq_false_iff_ne, rem]
      rcases (by omega : c = 0 ∨ c = 1) with rfl | rfl <;> omega
    have above : 2 * (A % B) > B ↔ c = 1 := by
      rw [rem]
      rcases (by omega : c = 0 ∨ c = 1) with rfl | rfl <;> omega
    rw [tie, Bool.false_and, Bool.or_false]
    simp only [decide_eq_true_eq, above]
  | rz | rd | ru => rfl

/-! ### The binade of a quotient -/

theorem log2_bounds {n : Nat} (hn : 0 < n) : (2 : ℝ) ^ (Nat.log2 n : Int) ≤ n ∧ (n : ℝ) < 2 ^ ((Nat.log2 n : Int) + 1) := by
  have lo : 2 ^ Nat.log2 n ≤ n := Nat.log2_self_le hn.ne'
  have hi : n < 2 ^ (Nat.log2 n + 1) := Nat.lt_log2_self
  rw [← Nat.cast_succ, zpow_natCast, zpow_natCast]
  exact ⟨by exact_mod_cast lo, by exact_mod_cast hi⟩

/-- The comparison of a quotient with a power of two, in natural numbers. -/
theorem two_zpow_le_div_iff {a d : Nat} (hd : 0 < d) (e : Int) : (2 : ℝ) ^ e ≤ a / d ↔
    (if e ≥ 0 then decide (a ≥ d * 2 ^ e.toNat) else decide (a * 2 ^ (-e).toNat ≥ d)) = true := by
  have hdr : (0 : ℝ) < d := Nat.cast_pos.mpr hd
  rw [two_zpow_eq_div]
  split
  · next h =>
    rw [Int.toNat_eq_zero.mpr (by omega : -e ≤ 0), pow_zero, Nat.cast_one, div_one, le_div_iff₀ hdr, decide_eq_true_eq, Nat.mul_comm]
    exact_mod_cast Iff.rfl
  · next h =>
    rw [Int.toNat_eq_zero.mpr (by omega : e ≤ 0), pow_zero, Nat.cast_one, div_le_div_iff₀ (by positivity) hdr, one_mul, decide_eq_true_eq]
    exact_mod_cast Iff.rfl

theorem ilog2Q_spec {a d : Nat} (ha : 0 < a) (hd : 0 < d) :
    (2 : ℝ) ^ ilog2Q a d ≤ a / d ∧ (a : ℝ) / d < (2 : ℝ) ^ (ilog2Q a d + 1) := by
  have hdr : (0 : ℝ) < d := Nat.cast_pos.mpr hd
  obtain ⟨alo, ahi⟩ := log2_bounds ha
  obtain ⟨dlo, dhi⟩ := log2_bounds hd
  have hi : (a : ℝ) / d < 2 ^ ((Nat.log2 a : Int) - Nat.log2 d + 1) := by
    rw [div_lt_iff₀ hdr]
    calc (a : ℝ) < 2 ^ ((Nat.log2 a : Int) + 1) := ahi
      _ = 2 ^ ((Nat.log2 a : Int) - Nat.log2 d + 1) * 2 ^ (Nat.log2 d : Int) := by rw [← zpow_add₀ two_ne_zero]; congr 1; ring
      _ ≤ _ := by gcongr
  have lo : (2 : ℝ) ^ ((Nat.log2 a : Int) - Nat.log2 d - 1) ≤ a / d := by
    rw [le_div_iff₀ hdr]
    calc (2 : ℝ) ^ ((Nat.log2 a : Int) - Nat.log2 d - 1) * d
        ≤ 2 ^ ((Nat.log2 a : Int) - Nat.log2 d - 1) * 2 ^ ((Nat.log2 d : Int) + 1) := by gcongr
      _ = 2 ^ (Nat.log2 a : Int) := by rw [← zpow_add₀ two_ne_zero]; congr 1; ring
      _ ≤ a := alo
  have ge := two_zpow_le_div_iff (a := a) hd ((Nat.log2 a : Int) - Nat.log2 d)
  unfold ilog2Q
  dsimp only
  by_cases h : (2 : ℝ) ^ ((Nat.log2 a : Int) - Nat.log2 d) ≤ a / d
  · rw [if_pos (ge.mp h)]
    exact ⟨h, hi⟩
  · rw [if_neg fun hge => h (ge.mpr hge), sub_add_cancel]
    exact ⟨lo, not_le.mp h⟩

/-- A binade is determined by its bounds. -/
theorem zpow_binade_unique {x : ℝ} {i j : Int} (hi : (2 : ℝ) ^ i ≤ x) (hi' : x < (2 : ℝ) ^ (i + 1)) (hj : (2 : ℝ) ^ j ≤ x)
    (hj' : x < (2 : ℝ) ^ (j + 1)) : i = j := by
  have h1 := (zpow_lt_zpow_iff_right₀ (one_lt_two (α := ℝ))).mp (hi.trans_lt hj')
  have h2 := (zpow_lt_zpow_iff_right₀ (one_lt_two (α := ℝ))).mp (hj.trans_lt hi')
  omega

theorem ilog2Q_eq {a d : Nat} (ha : 0 < a) (hd : 0 < d) {i : Int} (hi : (2 : ℝ) ^ i ≤ a / d) (hi' : (a : ℝ) / d < (2 : ℝ) ^ (i + 1)) :
    ilog2Q a d = i := zpow_binade_unique (ilog2Q_spec ha hd).1 (ilog2Q_spec ha hd).2 hi hi'

/-- The bits that the helper gives for a quotient of the binade e that lies between t / 2 and (t + 1) / 2 quanta. -/
def betweenBits (F : FFmt) (m : RMode) (neg : Bool) (e : Int) (t : Nat) : Nat :=
  let bits := betweenQuot m neg t + (e + F.bias - 1).toNat * 2 ^ F.fbits
  if bits ≥ F.infBits then (if neg then F.signBit else 0) + (if overflowsToInf m neg then F.infBits else F.largestBits)
  else (if neg then F.signBit else 0) + bits

theorem rndQ_between (F : FFmt) (m : RMode) (neg : Bool) {a d t : Nat} {e : Int} (ha : 0 < a) (hd : 0 < d)
    (he : max (ilog2Q a d) F.emin = e) (hlo : (t : ℝ) * 2 ^ (e - F.fbits - 1) < a / d)
    (hhi : (a : ℝ) / d < (t + 1) * 2 ^ (e - F.fbits - 1)) : rndQ F m neg a d = betweenBits F m neg e t := by
  have scaled : ∀ A B : Nat, 0 < B → (A : ℝ) / B = a / d / 2 ^ (e - F.fbits) → roundQuot m neg A B = betweenQuot m neg t := by
    intro A B hB hAB
    have hBr : (0 : ℝ) < B := Nat.cast_pos.mpr hB
    have half : (2 : ℝ) ^ (e - F.fbits - 1) = 2 ^ (e - F.fbits) / 2 := by rw [zpow_sub_one₀ two_ne_zero, div_eq_mul_inv]
    have pos : (0 : ℝ) < 2 ^ (e - F.fbits) := zpow_pos two_pos _
    rw [half] at hlo hhi
    have lo' : (t : ℝ) < 2 * (A / B) := by
      rw [hAB, ← mul_div_assoc, lt_div_iff₀ pos]
      linarith
    have hi' : 2 * ((A : ℝ) / B) < t + 1 := by
      rw [hAB, ← mul_div_assoc, div_lt_iff₀ pos]
      linarith
    rw [← mul_div_assoc, lt_div_iff₀ hBr] at lo'
    rw [← mul_div_assoc, div_lt_iff₀ hBr] at hi'
    exact roundQuot_between m neg (by exact_mod_cast lo') (by exact_mod_cast hi')
  unfold rndQ betweenBits
  dsimp only
  rw [if_neg ha.ne', he]
  have quot : (if e - F.fbits ≥ 0 then roundQuot m neg a (d * 2 ^ (e - F.fbits).toNat)
      else roundQuot m neg (a * 2 ^ (-(e - (F.fbits : Int))).toNat) d) = betweenQuot m neg t := by
    have pow := two_zpow_eq_div (e - F.fbits)
    split
    · next h =>
      refine scaled _ _ (Nat.mul_pos hd (by positivity)) ?_
      rw [pow, Int.toNat_eq_zero.mpr (by omega : -(e - (F.fbits : Int)) ≤ 0), pow_zero, Nat.cast_one, div_one, Nat.cast_mul, div_div]
    · next h =>
      refine scaled _ _ hd ?_
      rw [pow, Int.toNat_eq_zero.mpr (by omega : e - (F.fbits : Int) ≤ 0), pow_zero, Nat.cast_one, one_div, div_inv_eq_mul,
        Nat.cast_mul, div_mul_eq_mul_div]
  rw [quot]

/-! ### Powers of two far outside the range of a format -/

theorem FFmt.rndQ_overflow (F : FFmt) (m : RMode) {a d : Nat} (ha : 0 < a) (hd : 0 < d) (h : (2 : ℝ) ^ (1024 : Int) ≤ a / d) :
    rndQ F m false a d = if overflowsToInf m false then F.infBits else F.largestBits := by
  have top : 1024 ≤ ilog2Q a d := by
    have := (zpow_lt_zpow_iff_right₀ (one_lt_two (α := ℝ))).mp (h.trans_lt (ilog2Q_spec ha hd).2)
    omega
  have top' : 1024 ≤ max (ilog2Q a d) F.emin := le_max_of_le_left top
  unfold rndQ
  dsimp only
  rw [if_neg ha.ne', if_pos, if_neg Bool.false_ne_true, Nat.zero_add]
  generalize (if max (ilog2Q a d) F.emin - (F.fbits : Int) ≥ 0 then _ else _ : Nat) = k
  have field : 2 ^ F.ebits - 1 ≤ (max (ilog2Q a d) F.emin + F.bias - 1).toNat := by
    cases F <;> simp only [FFmt.ebits, FFmt.bias] at top' ⊢ <;> omega
  exact le_trans (Nat.mul_le_mul_right _ field) (Nat.le_add_left _ _)

theorem FFmt.rndQ_underflow (F : FFmt) (m : RMode) {a d : Nat} (ha : 0 < a) (hd : 0 < d) (h : (a : ℝ) / d < 2 ^ (-1022 : Int)) :
    rndQ F m false a d = betweenBits F m false F.emin 0 := by
  have pos : (0 : ℝ) < a / d := div_pos (Nat.cast_pos.mpr ha) (Nat.cast_pos.mpr hd)
  have low : ilog2Q a d < -1022 :=
    (zpow_lt_zpow_iff_right₀ (one_lt_two (α := ℝ))).mp ((ilog2Q_spec ha hd).1.trans_lt h)
  have e_eq : max (ilog2Q a d) F.emin = F.emin := max_eq_right (by cases F <;> simp only [FFmt.emin, FFmt.bias] <;> omega)
  refine rndQ_between F m false ha hd e_eq (by simpa using pos) ?_
  rw [Nat.cast_zero, zero_add, one_mul]
  refine h.trans_le (zpow_le_zpow_right₀ one_le_two ?_)
  cases F <;> simp only [FFmt.emin, FFmt.bias, FFmt.fbits] <;> omega

theorem FFmt.rnd_pow_eq (F : FFmt) (m : RMode) (n : Int) : F.rnd m (.fin false 1 n) = rndQ F m false (2 ^ n.toNat) (2 ^ (-n).toNat) := by
  rw [F.rnd_fin_eq m false one_ne_zero, Nat.one_mul]

/-- A power of two with an exponent of at least 1024 rounds as 2^1024 does, and one with an exponent below -1022 as 2^-1024. -/
theorem FFmt.rndQ_far (F : FFmt) (m : RMode) {a d : Nat} {i n : Int} (ha : 0 < a) (hd : 0 < d) (hi : (a : ℝ) / d = 2 ^ i)
    (hfar : 1024 ≤ i ∧ 1024 ≤ n ∨ i < -1022 ∧ n ≤ -1024) :
    rndQ F m false a d = F.rnd m (.fin false 1 (max (-1024) (min 1024 n))) := by
  rw [F.rnd_pow_eq]
  rcases hfar with ⟨hi', hn⟩ | ⟨hi', hn⟩
  · rw [show max (-1024) (min 1024 n) = 1024 by omega, F.rndQ_overflow m ha hd (hi ▸ zpow_le_zpow_right₀ one_le_two hi'),
      F.rndQ_overflow m (by positivity) (by positivity) (two_zpow_eq_div 1024).le]
  · rw [show max (-1024) (min 1024 n) = -1024 by omega, F.rndQ_underflow m ha hd (hi ▸ zpow_lt_zpow_right₀ one_lt_two hi'),
      F.rndQ_underflow m (by positivity) (by positivity)
        ((two_zpow_eq_div (-1024)).symm.trans_lt (zpow_lt_zpow_right₀ one_lt_two (by omega)))]

theorem FFmt.rounds_pow_far (F : FFmt) (m : RMode) {x : ℝ} {n : Int} (hn : n = ⌊x⌋) (hfar : 1024 ≤ n ∨ n ≤ -1024) :
    F.rounds m ((2 : ℝ) ^ x) (F.rnd m (.fin false 1 (max (-1024) (min 1024 n)))) := by
  have pow_pos : (0 : ℝ) < 2 ^ x := Real.rpow_pos_of_pos two_pos x
  have lo_eq : ((2 ^ n.toNat : Nat) : ℝ) / ((2 ^ (-n).toNat : Nat) : ℝ) = 2 ^ n := (two_zpow_eq_div n).symm
  have hi_eq : ((2 * 2 ^ n.toNat : Nat) : ℝ) / ((2 ^ (-n).toNat : Nat) : ℝ) = 2 ^ (1 + n) := by
    rw [Nat.cast_mul, mul_div_assoc, lo_eq, Nat.cast_two, zpow_one_add₀ two_ne_zero]
  refine ⟨false, 2 ^ n.toNat, 2 * 2 ^ n.toNat, 2 ^ (-n).toNat, by positivity, by positivity, by simp [pow_pos.le], ?_, ?_,
    F.rndQ_far m (by positivity) (by positivity) lo_eq (by omega), F.rndQ_far m (by positivity) (by positivity) hi_eq (by omega)⟩
  · rw [abs_of_pos pow_pos, lo_eq, ← Real.rpow_intCast]
    exact Real.rpow_le_rpow_of_exponent_le one_le_two (hn ▸ Int.floor_le x)
  · rw [abs_of_pos pow_pos, hi_eq, ← Real.rpow_intCast]
    refine Real.rpow_le_rpow_of_exponent_le one_le_two ?_
    push_cast
    linarith [hn ▸ Int.lt_floor_add_one x]

/-! ### Square roots -/

theorem isqrtFrom_spec (x : Nat) : ∀ n r : Nat, r * r ≤ x → x < (r + 2 ^ (n + 1)) * (r + 2 ^ (n + 1)) →
    isqrtFrom x n r * isqrtFrom x n r ≤ x ∧ x < (isqrtFrom x n r + 1) * (isqrtFrom x n r + 1) := by
  intro n
  induction n with
  | zero =>
    intro r hlo hhi
    rw [isqrtFrom]
    split
    · next h => exact ⟨h, hhi⟩
    · next h => exact ⟨hlo, not_le.mp h⟩
  | succ n ih =>
    intro r hlo hhi
    rw [isqrtFrom]
    split
    · next h =>
      refine ih _ h (hhi.trans_eq ?_)
      rw [Nat.add_assoc r, ← Nat.mul_two (2 ^ (n + 1)), ← Nat.pow_succ]
    · next h => exact ih _ hlo (not_le.mp h)

theorem isqrt_spec (x : Nat) : isqrt x * isqrt x ≤ x ∧ x < (isqrt x + 1) * (isqrt x + 1) := by
  refine isqrtFrom_spec x (Nat.log2 x / 2) 0 (Nat.zero_le x) ?_
  rw [Nat.zero_add, ← Nat.pow_add]
  exact Nat.lt_log2_self.trans_le (Nat.pow_le_pow_right two_pos (by omega))

/-- A quotient strictly between two neighbours of a grid that is finer than half a quantum rounds as its neighbours in the gap do. -/
theorem rndQ_of_gap (F : FFmt) (m : RMode) (neg : Bool) {a d s : Nat} {K : Nat} (ha : 0 < a) (hd : 0 < d) (hs : 0 < s)
    (hlo : (s : ℝ) / 2 ^ K < a / d) (hhi : (a : ℝ) / d < (s + 1) / 2 ^ K)
    (hK : 0 ≤ K + (max ((Nat.log2 s : Int) - K) F.emin - F.fbits - 1)) :
    rndQ F m neg a d = betweenBits F m neg (max ((Nat.log2 s : Int) - K) F.emin)
      (s / 2 ^ (K + (max ((Nat.log2 s : Int) - K) F.emin - F.fbits - 1)).toNat) := by
  obtain ⟨slo, shi⟩ := log2_bounds hs
  have grid : (0 : ℝ) < 2 ^ K := by positivity
  have scale : ∀ i : Int, (2 : ℝ) ^ (i - K) = 2 ^ i / 2 ^ K := fun i => by rw [zpow_sub₀ two_ne_zero, zpow_natCast]
  have succ_le : (s : ℝ) + 1 ≤ 2 ^ ((Nat.log2 s : Int) + 1) := by
    have h : s + 1 ≤ 2 ^ (Nat.log2 s + 1) := Nat.lt_log2_self
    rw [show ((Nat.log2 s : Int) + 1) = ((Nat.log2 s + 1 : Nat) : Int) from rfl, zpow_natCast]
    exact_mod_cast h
  have binade : ilog2Q a d = (Nat.log2 s : Int) - K := by
    refine ilog2Q_eq ha hd ?_ ?_
    · rw [scale]
      exact (div_le_div_of_nonneg_right slo grid.le).trans hlo.le
    · rw [sub_add_eq_add_sub, scale]
      exact hhi.trans_le (div_le_div_of_nonneg_right succ_le grid.le)
  have e_eq : max (ilog2Q a d) F.emin = max ((Nat.log2 s : Int) - K) F.emin := by rw [binade]
  generalize max ((Nat.log2 s : Int) - K) F.emin = e at hK e_eq ⊢
  have unit : (2 : ℝ) ^ (e - F.fbits - 1) = 2 ^ (K + (e - F.fbits - 1)).toNat / 2 ^ K := by
    rw [← zpow_natCast, Int.toNat_of_nonneg hK, zpow_add₀ two_ne_zero, zpow_natCast, mul_div_cancel_left₀ _ grid.ne']
  generalize (K + (e - F.fbits - 1)).toNat = h at unit ⊢
  have floor_le : s / 2 ^ h * 2 ^ h ≤ s := Nat.div_mul_le_self s (2 ^ h)
  have lt_ceil : s + 1 ≤ (s / 2 ^ h + 1) * 2 ^ h := by
    rw [Nat.succ_mul]
    exact Nat.lt_div_mul_add (by positivity)
  refine rndQ_between F m neg ha hd e_eq ?_ ?_
  · rw [unit, ← mul_div_assoc]
    exact (div_le_div_of_nonneg_right (by exact_mod_cast floor_le) grid.le).trans_lt hlo
  · rw [unit, ← mul_div_assoc]
    exact hhi.trans_le (div_le_div_of_nonneg_right (by exact_mod_cast lt_ceil) grid.le)

/-- A real in such a gap has rationals on both sides of it in the gap. -/
theorem FFmt.rounds_of_gap (F : FFmt) (m : RMode) {x : ℝ} {s K : Nat} (hs : 0 < s) (hlo : (s : ℝ) / 2 ^ K < x) (hhi : x < (s + 1) / 2 ^ K)
    (hK : 0 ≤ K + (max ((Nat.log2 s : Int) - K) F.emin - F.fbits - 1)) : F.rounds m x (rndQ F m false (2 * s + 1) (2 * 2 ^ K)) := by
  have grid : (0 : ℝ) < 2 ^ K := by positivity
  have hx : 0 < x := lt_trans (by positivity) hlo
  obtain ⟨M, hM1, hM2, hM3⟩ : ∃ M : Nat, 2 ≤ M ∧ 1 / (M : ℝ) ≤ x * 2 ^ K - s ∧ 1 / (M : ℝ) ≤ s + 1 - x * 2 ^ K := by
    rw [div_lt_iff₀ grid] at hlo
    rw [lt_div_iff₀ grid] at hhi
    obtain ⟨n, hn⟩ := exists_nat_one_div_lt (lt_min (sub_pos.mpr hlo) (sub_pos.mpr hhi))
    have wider : 1 / ((n + 2 : Nat) : ℝ) ≤ 1 / (n + 1) := by
      rw [Nat.cast_add, Nat.cast_two]
      exact one_div_le_one_div_of_le (by positivity) (by linarith)
    exact ⟨n + 2, by omega, wider.trans (hn.le.trans (min_le_left _ _)), wider.trans (hn.le.trans (min_le_right _ _))⟩
  have hM : (0 : ℝ) < M := by exact_mod_cast (by omega : 0 < M)
  have big : 2 ≤ (s + 1) * M := hM1.trans (Nat.le_mul_of_pos_left M (Nat.succ_pos s))
  have top_cast : (((s + 1) * M - 1 : Nat) : ℝ) = (s + 1) * M - 1 := by
    rw [Nat.cast_sub (by omega)]
    push_cast
    ring
  have point : ∀ c : ℝ, c / ((2 ^ K * M : Nat) : ℝ) = c / M / 2 ^ K := fun c => by push_cast; rw [div_div, mul_comm]
  have lo_eq : ((s * M + 1 : Nat) : ℝ) / ((2 ^ K * M : Nat) : ℝ) = (s + 1 / M) / 2 ^ K := by
    rw [point]
    push_cast
    rw [add_div, mul_div_assoc, div_self hM.ne', mul_one]
  have hi_eq : (((s + 1) * M - 1 : Nat) : ℝ) / ((2 ^ K * M : Nat) : ℝ) = (s + 1 - 1 / M) / 2 ^ K := by
    rw [point, top_cast, sub_div, mul_div_assoc, div_self hM.ne', mul_one]
  have mid_eq : ((2 * s + 1 : Nat) : ℝ) / ((2 * 2 ^ K : Nat) : ℝ) = (s + 1 / 2) / 2 ^ K := by
    push_cast
    rw [← div_div]
    congr 1
    ring
  have small : 1 / (M : ℝ) ≤ 1 / 2 := one_div_le_one_div_of_le two_pos (by exact_mod_cast hM1)
  have inGap : ∀ {a d : Nat} {c : ℝ}, 0 < a → 0 < d → (a : ℝ) / d = (s + c) / 2 ^ K → 0 < c → c < 1 →
      rndQ F m false a d = rndQ F m false (2 * s + 1) (2 * 2 ^ K) := by
    intro a d c ha hd hc hc0 hc1
    rw [rndQ_of_gap F m false ha hd hs (hc ▸ (div_lt_div_iff_of_pos_right grid).mpr (by linarith))
        (hc ▸ (div_lt_div_iff_of_pos_right grid).mpr (by linarith)) hK,
      rndQ_of_gap F m false (by positivity) (by positivity) hs (mid_eq ▸ (div_lt_div_iff_of_pos_right grid).mpr (by linarith))
        (mid_eq ▸ (div_lt_div_iff_of_pos_right grid).mpr (by linarith)) hK]
  have hMpos : 0 < 1 / (M : ℝ) := by positivity
  refine ⟨false, s * M + 1, (s + 1) * M - 1, 2 ^ K * M, by positivity, Nat.mul_pos (by positivity) (by omega), by simp [hx.le], ?_, ?_,
    inGap (by positivity) (Nat.mul_pos (by positivity) (by omega)) lo_eq hMpos (by linarith),
    inGap (by omega) (Nat.mul_pos (by positivity) (by omega)) (c := 1 - 1 / M) (by rw [hi_eq]; ring) (by linarith) (by linarith)⟩
  · rw [abs_of_pos hx, lo_eq, div_le_iff₀ grid]
    linarith
  · rw [abs_of_pos hx, hi_eq, le_div_iff₀ grid]
    linarith

theorem sqrtQ_rounds (F : FFmt) (m : RMode) {num den : Nat} (hn : 0 < num) (hd : 0 < den) :
    F.rounds m (Real.sqrt (num / den)) (sqrtQ F m num den) := by
  have hdr : (0 : ℝ) < den := Nat.cast_pos.mpr hd
  have pos : 0 < Real.sqrt (num / den) := Real.sqrt_pos.mpr (div_pos (Nat.cast_pos.mpr hn) hdr)
  unfold sqrtQ
  dsimp only
  obtain ⟨K, hK⟩ : ∃ K, K = Nat.log2 den + 2 * F.prec + 8 := ⟨_, rfl⟩
  rw [← hK]
  obtain ⟨slo, shi⟩ := isqrt_spec (num * 2 ^ (2 * K) / den)
  generalize isqrt (num * 2 ^ (2 * K) / den) = s at slo shi ⊢
  rw [Nat.le_div_iff_mul_le hd] at slo
  rw [Nat.div_lt_iff_lt_mul hd] at shi
  have grid : (0 : ℝ) < 2 ^ K := by positivity
  have square : ∀ c : ℝ, (c / 2 ^ K) ^ 2 = c ^ 2 / 2 ^ (2 * K) := fun c => by rw [div_pow, ← pow_mul, Nat.mul_comm]
  have large : 2 ^ (F.fbits + 1) ≤ s := by
    by_contra hsmall
    refine absurd shi (not_lt.mpr ?_)
    have top : (s + 1) * (s + 1) ≤ 2 ^ (F.fbits + 1) * 2 ^ (F.fbits + 1) := Nat.mul_le_mul (by omega) (by omega)
    calc (s + 1) * (s + 1) * den ≤ 2 ^ (F.fbits + 1) * 2 ^ (F.fbits + 1) * 2 ^ (Nat.log2 den + 1) :=
          Nat.mul_le_mul top Nat.lt_log2_self.le
      _ = 2 ^ (F.fbits + 1 + (F.fbits + 1) + (Nat.log2 den + 1)) := by
          rw [Nat.pow_add 2 (F.fbits + 1 + (F.fbits + 1)), Nat.pow_add 2 (F.fbits + 1) (F.fbits + 1)]
      _ ≤ 2 ^ (2 * K) := Nat.pow_le_pow_right two_pos (by rw [hK, FFmt.prec]; omega)
      _ ≤ num * 2 ^ (2 * K) := Nat.le_mul_of_pos_left _ hn
  have hs : 0 < s := lt_of_lt_of_le (by positivity) large
  split
  · next exact =>
    have root : Real.sqrt (num / den) = s / 2 ^ K := by
      have : (num : ℝ) / den = (s / 2 ^ K) ^ 2 := by
        rw [square, div_eq_div_iff hdr.ne' (by positivity), pow_two]
        exact_mod_cast exact.symm
      rw [this, Real.sqrt_sq (by positivity)]
    rw [root]
    refine FFmt.rounds_of_eq (by omega) (by positivity) (by simp; positivity) ?_
    rw [abs_of_nonneg (by positivity)]
    push_cast
    rw [add_zero, mul_div_mul_left _ _ two_ne_zero]
  · next inexact =>
    refine F.rounds_of_gap m hs ?_ ?_ ?_
    · rw [Real.lt_sqrt (by positivity), square, div_lt_div_iff₀ (by positivity) hdr, pow_two]
      exact_mod_cast lt_of_le_of_ne slo inexact
    · rw [Real.sqrt_lt' (by positivity), square, div_lt_div_iff₀ hdr (by positivity), pow_two]
      exact_mod_cast shi
    · have bits : F.fbits + 1 ≤ Nat.log2 s := (Nat.le_log2 hs.ne').mpr large
      have := le_max_left ((Nat.log2 s : Int) - K) F.emin
      omega

section
variable {F : FFmt} (m : RMode) {a j : Nat} {e : Int} (ha : F.value a = .fin false j e) (hj : j ≠ 0)
include ha hj

theorem FFmt.sqrt_rounds : F.rounds m (Real.sqrt (((FVal.fin false j e).toRat : ℚ) : ℝ)) (F.sqrt m a) := by
  have sqrt_eq : F.sqrt m a = sqrtQ F m (j * 2 ^ e.toNat) (2 ^ (-e).toNat) := by
    simp only [FFmt.sqrt, ha, if_neg hj, Bool.false_eq_true, if_false]
    split
    · next h => rw [Int.toNat_eq_zero.mpr (by omega : -e ≤ 0), pow_zero]
    · next h => rw [Int.toNat_eq_zero.mpr (by omega : e ≤ 0), pow_zero, Nat.mul_one]
  have value : (((FVal.fin false j e).toRat : ℚ) : ℝ) = ((j * 2 ^ e.toNat : Nat) : ℝ) / ((2 ^ (-e).toNat : Nat) : ℝ) := by
    rw [FVal.toRat_cast, if_neg Bool.false_ne_true, one_mul, two_zpow_eq_div, Nat.cast_mul, mul_div_assoc]
  rw [sqrt_eq, value]
  exact sqrtQ_rounds F m (Nat.mul_pos (Nat.pos_of_ne_zero hj) (by positivity)) (by positivity)

theorem FFmt.rsq_rounds : F.rounds m (1 / Real.sqrt (((FVal.fin false j e).toRat : ℚ) : ℝ)) (F.rsq m a) := by
  have rsq_eq : F.rsq m a = sqrtQ F m (2 ^ (-e).toNat) (j * 2 ^ e.toNat) := by
    simp only [FFmt.rsq, ha, if_neg hj, Bool.false_eq_true, if_false]
    split
    · next h => rw [Int.toNat_eq_zero.mpr (by omega : -e ≤ 0), pow_zero]
    · next h => rw [Int.toNat_eq_zero.mpr (by omega : e ≤ 0), pow_zero, Nat.mul_one]
  have value : 1 / Real.sqrt (((FVal.fin false j e).toRat : ℚ) : ℝ) =
      Real.sqrt (((2 ^ (-e).toNat : Nat) : ℝ) / ((j * 2 ^ e.toNat : Nat) : ℝ)) := by
    rw [FVal.toRat_cast, if_neg Bool.false_ne_true, one_mul, two_zpow_eq_div, one_div, ← Real.sqrt_inv, ← mul_div_assoc, inv_div,
      Nat.cast_mul]
  rw [rsq_eq, value]
  exact sqrtQ_rounds F m (by positivity) (Nat.mul_pos (Nat.pos_of_ne_zero hj) (by positivity))

end

/-! ### Enclosures -/

/-- A real in a decided enclosure rounds as its ends do. -/
theorem rounds_of_enclosure {F : FFmt} {m : RMode} {p : Nat} {sc lo hi : Int} {x : ℝ} (hsame : rndFix F m p sc lo = rndFix F m p sc hi)
    (hsign : 0 < lo ∨ hi < 0) (hlo : lo * (2 : ℝ) ^ (sc - p) ≤ x) (hhi : x ≤ hi * (2 : ℝ) ^ (sc - p)) :
    F.rounds m x (rndFix F m p sc lo) := by
  have unit : (0 : ℝ) < 2 ^ (sc - p) := zpow_pos two_pos _
  have quot : ∀ k : Nat, ((k * 2 ^ (sc - p).toNat : Nat) : ℝ) / ((2 ^ (-(sc - (p : Int))).toNat : Nat) : ℝ) = k * 2 ^ (sc - p) := fun k => by
    rw [two_zpow_eq_div, Nat.cast_mul, mul_div_assoc]
  have hle : lo ≤ hi := by
    have := hlo.trans hhi
    exact_mod_cast le_of_mul_le_mul_right this unit
  rcases hsign with h | h
  · have lo_eq : rndFix F m p sc lo = rndQ F m false (lo.natAbs * 2 ^ (sc - p).toNat) (2 ^ (-(sc - (p : Int))).toNat) := by
      rw [rndFix, F.rnd_fin_eq m _ (by omega), decide_eq_false (by omega)]
    have hi_eq : rndFix F m p sc hi = rndQ F m false (hi.natAbs * 2 ^ (sc - p).toNat) (2 ^ (-(sc - (p : Int))).toNat) := by
      rw [rndFix, F.rnd_fin_eq m _ (by omega), decide_eq_false (by omega)]
    have lo_abs : ((lo.natAbs : Nat) : ℝ) = lo := by rw [Nat.cast_natAbs, abs_of_pos h]
    have hi_abs : ((hi.natAbs : Nat) : ℝ) = hi := by rw [Nat.cast_natAbs, abs_of_pos (by omega)]
    have hx : 0 < x := lt_of_lt_of_le (mul_pos (by exact_mod_cast h) unit) hlo
    refine ⟨false, _, _, _, Nat.mul_pos (by omega) (by positivity), by positivity, by simp [hx.le], ?_, ?_, lo_eq.symm,
      hi_eq.symm.trans hsame.symm⟩
    · rwa [abs_of_pos hx, quot, lo_abs]
    · rwa [abs_of_pos hx, quot, hi_abs]
  · have lo_eq : rndFix F m p sc lo = rndQ F m true (lo.natAbs * 2 ^ (sc - p).toNat) (2 ^ (-(sc - (p : Int))).toNat) := by
      rw [rndFix, F.rnd_fin_eq m _ (by omega), decide_eq_true (by omega)]
    have hi_eq : rndFix F m p sc hi = rndQ F m true (hi.natAbs * 2 ^ (sc - p).toNat) (2 ^ (-(sc - (p : Int))).toNat) := by
      rw [rndFix, F.rnd_fin_eq m _ (by omega), decide_eq_true (by omega)]
    have lo_abs : ((lo.natAbs : Nat) : ℝ) = -lo := by rw [Nat.cast_natAbs, abs_of_neg (by omega), Int.cast_neg]
    have hi_abs : ((hi.natAbs : Nat) : ℝ) = -hi := by rw [Nat.cast_natAbs, abs_of_neg h, Int.cast_neg]
    have hx : x < 0 := lt_of_le_of_lt hhi (mul_neg_of_neg_of_pos (by exact_mod_cast h) unit)
    refine ⟨true, _, _, _, Nat.mul_pos (by omega) (by positivity), by positivity, by simp [hx], ?_, ?_, hi_eq.symm.trans hsame.symm,
      lo_eq.symm⟩
    · rw [abs_of_neg hx, quot, hi_abs]
      linarith
    · rw [abs_of_neg hx, quot, lo_abs]
      linarith

/-- The result of the tries is that of a decided precision, where one of them is decided. -/
theorem zivTry_of_decided {F : FFmt} {m : RMode} {sc : Int} {enc : Nat → Encl} {l : List Nat}
    (h : ∃ p ∈ l, rndFix F m p sc ((enc p).s - (enc p).err) = rndFix F m p sc ((enc p).s + (enc p).err) ∧
      (0 < (enc p).s - (enc p).err ∨ (enc p).s + (enc p).err < 0)) :
    ∃ p ∈ l, rndFix F m p sc ((enc p).s - (enc p).err) = rndFix F m p sc ((enc p).s + (enc p).err) ∧
      (0 < (enc p).s - (enc p).err ∨ (enc p).s + (enc p).err < 0) ∧
      zivTry F m sc enc l = rndFix F m p sc ((enc p).s - (enc p).err) := by
  induction l with
  | nil => simp at h
  | cons p ps ih =>
    by_cases decided : rndFix F m p sc ((enc p).s - (enc p).err) = rndFix F m p sc ((enc p).s + (enc p).err) ∧
        (0 < (enc p).s - (enc p).err ∨ (enc p).s + (enc p).err < 0)
    · refine ⟨p, List.mem_cons_self, decided.1, decided.2, ?_⟩
      unfold zivTry
      dsimp only
      rw [if_pos (by simpa using decided)]
    · obtain ⟨q, hq, hdec⟩ := h
      have hq' : q ∈ ps := (List.mem_cons.mp hq).resolve_left (by rintro rfl; exact decided hdec)
      obtain ⟨r, hr, hsame, hsign, heq⟩ := ih ⟨q, hq', hdec⟩
      refine ⟨r, List.mem_cons_of_mem p hr, hsame, hsign, ?_⟩
      unfold zivTry
      dsimp only
      rw [if_neg (by simpa using decided)]
      cases ps with
      | nil => simp at hq'
      | cons => exact heq

/-- A real that every enclosure holds is rounded by the tries, where one precision decides. -/
theorem FFmt.decides.rounds {F : FFmt} {m : RMode} {sc : Int} {enc : Nat → Encl} {x : ℝ} (h : F.decides m sc enc)
    (holds : ∀ p ∈ zivPrecisions, |((enc p).s : ℝ) - x * 2 ^ (-sc) * 2 ^ p| ≤ (enc p).err) :
    F.rounds m x (zivTry F m sc enc zivPrecisions) := by
  obtain ⟨p, hp, hsame, hsign, heq⟩ := zivTry_of_decided h
  have held := abs_le.mp (holds p hp)
  have scale : x = x * 2 ^ (-sc) * 2 ^ p * 2 ^ (sc - p) := by
    rw [mul_assoc, mul_assoc, ← zpow_natCast, ← zpow_add₀ two_ne_zero, ← zpow_add₀ two_ne_zero,
      show -sc + ((p : Int) + (sc - p)) = 0 by ring, zpow_zero, mul_one]
  rw [heq]
  refine rounds_of_enclosure hsame hsign ?_ ?_
  · rw [scale]
    gcongr
    push_cast
    linarith
  · rw [scale]
    gcongr
    push_cast
    linarith

end Sys2Proof
end

section
/-! The sums by which FEX2 and FLG2 enclose their results (R152, R153, log entry 11): how far each lies from its function. -/

namespace Sys2Proof

/-! ### Sums of a term that each step derives from the one before -/

/-- The quotient of naturals lies less than 1 below the exact one. -/
theorem div_floor_bounds (a : Nat) {b : Nat} (hb : 0 < b) : (a : ℝ) / b - 1 ≤ ((a / b : Nat) : ℝ) ∧ ((a / b : Nat) : ℝ) ≤ a / b := by
  have hbr : (0 : ℝ) < b := Nat.cast_pos.mpr hb
  refine ⟨?_, Nat.cast_div_le⟩
  have := Nat.lt_div_mul_add (a := a) hb
  rw [sub_le_iff_le_add, div_le_iff₀ hbr, add_mul, one_mul]
  exact_mod_cast this.le

theorem abs_div_floor_sub_le {a b : Nat} (hb : 0 < b) {y e : ℝ} (h : |(a : ℝ) / b - y| ≤ e) : |((a / b : Nat) : ℝ) - y| ≤ e + 1 := by
  obtain ⟨lo, hi⟩ := div_floor_bounds a hb
  obtain ⟨h1, h2⟩ := abs_le.mp h
  exact abs_le.mpr ⟨by linarith, by linarith⟩

/-- The shape of the model's series: at each step the sum takes a term of x, and x goes on to the next. -/
def fixSum (next : Nat → Nat → Nat) (term : Nat → Nat → Int) : Nat → Nat → Nat → Int → Int
  | 0, _, _, acc => acc
  | n + 1, i, x, acc => fixSum next term n (i + 1) (next i x) (acc + term i x)

section
variable {next : Nat → Nat → Nat} {term : Nat → Nat → Int}

/-- A series that has reached 0 stays as it is: the model stops there. -/
theorem fixSum_zero (hn : ∀ i, next i 0 = 0) (ht : ∀ i, term i 0 = 0) (n i : Nat) (acc : Int) : fixSum next term n i 0 acc = acc := by
  induction n generalizing i acc with
  | zero => rfl
  | succ n ih => rw [fixSum, hn, ht, add_zero, ih]

/-- A series whose x stays within E of exact values τ, and whose terms are then within D of σ, is within D of the sum of σ per term. -/
theorem fixSum_error {τ σ E : Nat → ℝ} {D : ℝ}
    (hn : ∀ i x : Nat, |(x : ℝ) - τ i| ≤ E i → |((next i x : Nat) : ℝ) - τ (i + 1)| ≤ E (i + 1))
    (ht : ∀ i x : Nat, |(x : ℝ) - τ i| ≤ E i → |(term i x : ℝ) - σ i| ≤ D) (n i x : Nat) (acc : Int) (hx : |(x : ℝ) - τ i| ≤ E i) :
    |(fixSum next term n i x acc : ℝ) - (acc + ∑ k ∈ Finset.range n, σ (i + k))| ≤ D * n := by
  induction n generalizing i x acc with
  | zero => simp [fixSum]
  | succ n ih =>
    have rest := ih (i + 1) (next i x) (acc + term i x) (hn i x hx)
    have here := ht i x hx
    rw [fixSum, Finset.sum_range_succ']
    have shift : ∑ k ∈ Finset.range n, σ (i + (k + 1)) = ∑ k ∈ Finset.range n, σ (i + 1 + k) :=
      Finset.sum_congr rfl fun k _ => by rw [Nat.add_assoc, Nat.add_comm 1 k]
    rw [shift, add_zero i]
    push_cast at rest ⊢
    rw [abs_le] at rest here ⊢
    constructor <;> linarith [rest.1, rest.2, here.1, here.2]

end

/-- What p + 8 terms of a series leave out, where the terms fall by half: C / 128 units of 2^-p. -/
theorem scaled_tail (p : Nat) {f : Nat → ℝ} {a C : ℝ} (hf : ∀ k, |f k| ≤ C * (1 / 2) ^ k) (ha : HasSum f a) :
    |2 ^ p * ∑ k ∈ Finset.range (p + 8), f k - 2 ^ p * a| ≤ C / 128 := by
  have tail := norm_sub_le_of_geometric_bound_of_hasSum (r := (1 / 2 : ℝ)) (by norm_num) hf ha (p + 8)
  rw [← mul_sub, abs_mul, abs_of_pos (by positivity : (0 : ℝ) < 2 ^ p)]
  refine (mul_le_mul_of_nonneg_left tail (by positivity)).trans_eq ?_
  rw [pow_add, one_div, inv_pow]
  field_simp
  norm_num

/-! ### ln 2 -/

theorem foldl_add_eq_sum (f : Nat → Nat) (n : Nat) : (List.range n).foldl (fun a i => a + f i) 0 = ∑ i ∈ Finset.range n, f i := by
  induction n with
  | zero => rfl
  | succ n ih => rw [List.range_succ, List.foldl_append, ih, Finset.sum_range_succ]; rfl

theorem hasSum_log_two : HasSum (fun n : Nat => (1 / 2 : ℝ) ^ (n + 1) / (n + 1)) (Real.log 2) := by
  have h := Real.hasSum_pow_div_log_of_abs_lt_one (x := 1 / 2) (by norm_num [abs_of_pos])
  rwa [show (1 : ℝ) - 1 / 2 = 2⁻¹ by norm_num, Real.log_inv, neg_neg] at h

theorem ln2Fix_eq (p : Nat) : ln2Fix p = ∑ i ∈ Finset.range (p + 8), 2 ^ p / ((i + 1) * 2 ^ (i + 1)) := foldl_add_eq_sum _ _

theorem ln2Fix_bounds (p : Nat) : (ln2Fix p : ℝ) ≤ 2 ^ p * Real.log 2 ∧ 2 ^ p * Real.log 2 ≤ ln2Fix p + (p + 9) := by
  have unit : (0 : ℝ) < 2 ^ p := by positivity
  have exact : ∀ i : Nat, ((2 ^ p : Nat) : ℝ) / (((i + 1) * 2 ^ (i + 1) : Nat) : ℝ) = 2 ^ p * ((1 / 2 : ℝ) ^ (i + 1) / (i + 1)) := by
    intro i
    push_cast
    rw [one_div, inv_pow]
    field_simp
  have floor := fun i : Nat => div_floor_bounds (2 ^ p) (b := (i + 1) * 2 ^ (i + 1)) (by positivity)
  simp only [exact] at floor
  rw [ln2Fix_eq, Nat.cast_sum]
  constructor
  · calc ∑ i ∈ Finset.range (p + 8), ((2 ^ p / ((i + 1) * 2 ^ (i + 1)) : Nat) : ℝ)
        ≤ ∑ i ∈ Finset.range (p + 8), 2 ^ p * ((1 / 2 : ℝ) ^ (i + 1) / (i + 1)) := Finset.sum_le_sum fun i _ => (floor i).2
      _ = 2 ^ p * ∑ i ∈ Finset.range (p + 8), (1 / 2 : ℝ) ^ (i + 1) / (i + 1) := (Finset.mul_sum ..).symm
      _ ≤ 2 ^ p * Real.log 2 := by
          gcongr
          exact sum_le_hasSum _ (fun _ _ => by positivity) hasSum_log_two
  · have tail := scaled_tail p (C := 1) (fun n => ?_) hasSum_log_two
    · have sum : 2 ^ p * ∑ i ∈ Finset.range (p + 8), (1 / 2 : ℝ) ^ (i + 1) / (i + 1) - ((p + 8 : Nat) : ℝ) ≤
          ∑ i ∈ Finset.range (p + 8), ((2 ^ p / ((i + 1) * 2 ^ (i + 1)) : Nat) : ℝ) := by
        calc _ = ∑ i ∈ Finset.range (p + 8), (2 ^ p * ((1 / 2 : ℝ) ^ (i + 1) / (i + 1)) - 1) := by
              rw [Finset.sum_sub_distrib, Finset.mul_sum, Finset.sum_const, Finset.card_range, nsmul_eq_mul, mul_one]
          _ ≤ _ := Finset.sum_le_sum fun i _ => (floor i).1
      rw [Nat.cast_add, Nat.cast_ofNat] at sum
      have tail_lo := (abs_le.mp tail).1
      generalize ∑ i ∈ Finset.range (p + 8), (1 / 2 : ℝ) ^ (i + 1) / (i + 1) = S at sum tail_lo
      linarith
    · rw [abs_of_nonneg (by positivity), pow_succ, one_mul, mul_div_assoc]
      refine mul_le_of_le_one_right (by positivity) ?_
      rw [div_le_one (by positivity)]
      linarith [(Nat.cast_nonneg n : (0 : ℝ) ≤ n)]

theorem half_le_ln2Fix (p : Nat) : 2 ^ p / 2 ≤ ln2Fix p := by
  rw [ln2Fix_eq]
  exact Finset.single_le_sum (f := fun i => 2 ^ p / ((i + 1) * 2 ^ (i + 1))) (fun _ _ => Nat.zero_le _) (Finset.mem_range.mpr (by omega : 0 < p + 8))

end Sys2Proof
end

section
namespace Sys2Proof

/-! ### 2^f -/

theorem two_pow_le_two_mul_factorial (n : Nat) : 2 ^ n ≤ 2 * n.factorial := by
  induction n with
  | zero => decide
  | succ n ih =>
    rw [Nat.factorial_succ, Nat.pow_succ]
    cases n with
    | zero => decide
    | succ n => nlinarith [Nat.factorial_pos (n + 1)]

theorem hasSum_exp (T : ℝ) : HasSum (fun k : Nat => T ^ k / k.factorial) (Real.exp T) := by
  rw [Real.exp_eq_exp_ℝ]
  exact NormedSpace.expSeries_div_hasSum_exp T

/-- The terms of exp fall by half. -/
theorem exp_term_le {T : ℝ} (h0 : 0 ≤ T) (h1 : T ≤ 1) (k : Nat) : |T ^ k / k.factorial| ≤ 2 * (1 / 2) ^ k := by
  have fact : (2 : ℝ) ^ k ≤ 2 * k.factorial := by exact_mod_cast two_pow_le_two_mul_factorial k
  have fpos : (0 : ℝ) < k.factorial := by exact_mod_cast k.factorial_pos
  rw [abs_of_nonneg (by positivity), one_div, inv_pow, ← div_eq_mul_inv, div_le_div_iff₀ fpos (by positivity)]
  exact (mul_le_of_le_one_left (by positivity) (pow_le_one₀ h0 h1)).trans fact

theorem expSeries_eq (p t n i x acc : Nat) :
    ((expSeries p t n i x acc : Nat) : Int) = fixSum (fun i x => x * t / 2 ^ p / (i + 1)) (fun _ x => (x : Int)) n i x acc := by
  induction n generalizing i x acc with
  | zero => rfl
  | succ n ih =>
    rw [expSeries]
    split
    · next h =>
      subst h
      exact (fixSum_zero (by simp) (by simp) (n + 1) i acc).symm
    · rw [ih, fixSum, Nat.cast_add]

theorem expSeries_error (p t n : Nat) (ht : (t : ℝ) / 2 ^ p ≤ 7 / 10) :
    |((expSeries p t n 0 (2 ^ p) 0 : Nat) : ℝ) - 2 ^ p * ∑ k ∈ Finset.range n, ((t : ℝ) / 2 ^ p) ^ k / k.factorial| ≤ 4 * n := by
  have unit : (0 : ℝ) < 2 ^ p := by positivity
  have h0 : 0 ≤ (t : ℝ) / 2 ^ p := by positivity
  have ratio : ∀ i : Nat, 2 ^ p * (((t : ℝ) / 2 ^ p) ^ (i + 1) / (i + 1).factorial) =
      2 ^ p * (((t : ℝ) / 2 ^ p) ^ i / i.factorial) * ((t : ℝ) / 2 ^ p / (i + 1)) := fun i => by
    rw [pow_succ, Nat.factorial_succ, Nat.cast_mul, Nat.cast_succ]
    field_simp
  have bound := fixSum_error (next := fun i x => x * t / 2 ^ p / (i + 1)) (term := fun _ x => (x : Int))
    (τ := fun i => 2 ^ p * (((t : ℝ) / 2 ^ p) ^ i / i.factorial)) (σ := fun i => 2 ^ p * (((t : ℝ) / 2 ^ p) ^ i / i.factorial))
    (E := fun _ => 4) (D := 4) (fun i x hx => ?_) (fun i x hx => by simpa using hx) n 0 (2 ^ p) 0 (by simp)
  · have cast : (((expSeries p t n 0 (2 ^ p) 0 : Nat) : Int) : ℝ) = ((expSeries p t n 0 (2 ^ p) 0 : Nat) : ℝ) := Int.cast_natCast _
    rw [← cast, expSeries_eq, Finset.mul_sum]
    simpa using bound
  · rw [Nat.div_div_eq_div_mul]
    have step : |((x * t : Nat) : ℝ) / ((2 ^ p * (i + 1) : Nat) : ℝ) - 2 ^ p * (((t : ℝ) / 2 ^ p) ^ (i + 1) / (i + 1).factorial)| ≤ 3 := by
      have exact : ((x * t : Nat) : ℝ) / ((2 ^ p * (i + 1) : Nat) : ℝ) = x * ((t : ℝ) / 2 ^ p / (i + 1)) := by
        push_cast
        field_simp
      have small : (t : ℝ) / 2 ^ p / (i + 1) ≤ 7 / 10 :=
        (div_le_self h0 (by linarith [(Nat.cast_nonneg i : (0 : ℝ) ≤ i)])).trans ht
      rw [exact, ratio, ← sub_mul, abs_mul, abs_of_nonneg (by positivity : 0 ≤ (t : ℝ) / 2 ^ p / (i + 1))]
      calc _ ≤ 4 * (7 / 10 : ℝ) := mul_le_mul hx small (by positivity) (by norm_num)
        _ ≤ 3 := by norm_num
    exact (abs_div_floor_sub_le (by positivity) step).trans (by norm_num)

/-- e^T in units of 2^-p, for T = t / 2^p. -/
theorem expFix_error {p t : Nat} (ht : (t : ℝ) / 2 ^ p ≤ 7 / 10) :
    |((expSeries p t (p + 8) 0 (2 ^ p) 0 : Nat) : ℝ) - 2 ^ p * Real.exp ((t : ℝ) / 2 ^ p)| ≤ 4 * (p + 8) + 1 := by
  have series := expSeries_error p t (p + 8) ht
  have tail := scaled_tail p (exp_term_le (by positivity) (by linarith)) (hasSum_exp ((t : ℝ) / 2 ^ p))
  push_cast at series
  rw [abs_le] at series tail ⊢
  constructor <;> linarith [series.1, series.2, tail.1, tail.2]

/-- The fraction f = k / 2^g of ln 2 in units of 2^-p, short by at most p + 10. -/
theorem exp2Arg_bounds {k g : Nat} (p : Nat) (hk : k < 2 ^ g) :
    ((k * ln2Fix p / 2 ^ g : Nat) : ℝ) ≤ 2 ^ p * ((k : ℝ) / 2 ^ g * Real.log 2) ∧
    2 ^ p * ((k : ℝ) / 2 ^ g * Real.log 2) ≤ ((k * ln2Fix p / 2 ^ g : Nat) : ℝ) + (p + 10) := by
  obtain ⟨f, hf⟩ : ∃ f : ℝ, f = (k : ℝ) / 2 ^ g := ⟨_, rfl⟩
  have f0 : 0 ≤ f := by rw [hf]; positivity
  have f1 : f ≤ 1 := by
    rw [hf, div_le_one (by positivity)]
    exact_mod_cast hk.le
  have exact : ((k * ln2Fix p : Nat) : ℝ) / ((2 ^ g : Nat) : ℝ) = f * ln2Fix p := by
    rw [hf]
    push_cast
    ring
  obtain ⟨tlo, thi⟩ := div_floor_bounds (k * ln2Fix p) (b := 2 ^ g) (by positivity)
  obtain ⟨llo, lhi⟩ := ln2Fix_bounds p
  rw [exact] at tlo thi
  rw [← hf]
  constructor
  · nlinarith
  · nlinarith [(Nat.cast_nonneg p : (0 : ℝ) ≤ p)]

theorem exp_sub_le (a b : ℝ) : Real.exp b - Real.exp a ≤ Real.exp b * (b - a) := by
  have h := Real.add_one_le_exp (a - b)
  have split : Real.exp a = Real.exp b * Real.exp (a - b) := by rw [← Real.exp_add]; congr 1; ring
  rw [split]
  nlinarith [Real.exp_pos b]

theorem exp2Encl_holds {k g p : Nat} (hk : k < 2 ^ g) : |((exp2Encl k g p).s : ℝ) - 2 ^ ((k : ℝ) / 2 ^ g) * 2 ^ p| ≤ (exp2Encl k g p).err := by
  have unit : (0 : ℝ) < 2 ^ p := by positivity
  have frac1 : (k : ℝ) / 2 ^ g ≤ 1 := (div_le_one (by positivity)).mpr (by exact_mod_cast hk.le)
  have two_lt : Real.log 2 < 7 / 10 := by linarith [Real.log_two_lt_d9]
  have log0 : 0 < Real.log 2 := Real.log_pos one_lt_two
  obtain ⟨tlo, thi⟩ := exp2Arg_bounds p hk
  have encl_s : (exp2Encl k g p).s = ((expSeries p (k * ln2Fix p / 2 ^ g) (p + 8) 0 (2 ^ p) 0 : Nat) : Int) := rfl
  have encl_err : (exp2Encl k g p).err = 8 * (p + 8) := rfl
  rw [encl_s, encl_err, Real.rpow_def_of_pos two_pos, mul_comm (Real.log 2), Int.cast_natCast]
  generalize k * ln2Fix p / 2 ^ g = t at tlo thi ⊢
  obtain ⟨x, hx⟩ : ∃ x : ℝ, x = (k : ℝ) / 2 ^ g * Real.log 2 := ⟨_, rfl⟩
  obtain ⟨T, hT⟩ : ∃ T : ℝ, T = (t : ℝ) / 2 ^ p := ⟨_, rfl⟩
  have T_mul : 2 ^ p * T = t := by rw [hT, mul_div_cancel₀ _ unit.ne']
  rw [← hx, ← T_mul] at tlo thi
  have x_le : x ≤ Real.log 2 := by rw [hx]; exact mul_le_of_le_one_left log0.le frac1
  have T_le : T ≤ x := le_of_mul_le_mul_left tlo unit
  have series := expFix_error (p := p) (t := t) (by rw [← hT]; linarith)
  have exp_le : Real.exp x ≤ 2 := (Real.exp_le_exp.mpr x_le).trans_eq (Real.exp_log two_pos)
  have growth : 2 ^ p * (Real.exp x - Real.exp T) ≤ 2 * (p + 10) := by
    calc 2 ^ p * (Real.exp x - Real.exp T) ≤ 2 ^ p * (2 * (x - T)) := by
          gcongr
          exact (exp_sub_le T x).trans (mul_le_mul_of_nonneg_right exp_le (by linarith))
      _ = 2 * (2 ^ p * x - 2 ^ p * T) := by ring
      _ ≤ _ := by linarith
  have mono : 0 ≤ 2 ^ p * (Real.exp x - Real.exp T) := mul_nonneg unit.le (sub_nonneg.mpr (Real.exp_le_exp.mpr T_le))
  have pn : (0 : ℝ) ≤ p := Nat.cast_nonneg p
  rw [← hx]
  rw [← hT] at series
  push_cast at series ⊢
  rw [mul_sub] at growth mono
  rw [abs_le] at series ⊢
  constructor <;> linarith [series.1, series.2]

end Sys2Proof
end

section
namespace Sys2Proof

/-! ### log2 y -/

theorem atanhSeries_eq (p z2 n i x acc : Nat) :
    ((atanhSeries p z2 n i x acc : Nat) : Int) =
      fixSum (fun _ x => x * z2 / 2 ^ p) (fun i x => ((x / (2 * i + 1) : Nat) : Int)) n i x acc := by
  induction n generalizing i x acc with
  | zero => rfl
  | succ n ih =>
    rw [atanhSeries]
    split
    · next h =>
      subst h
      exact (fixSum_zero (by simp) (by simp) (n + 1) i acc).symm
    · rw [ih, fixSum, Nat.cast_add]

/-- The quotient of an x within 2 of y by an odd number is within 3 of that of y. -/
theorem div_odd_error {x i : Nat} {y : ℝ} (h : |(x : ℝ) - y| ≤ 2) : |((x / (2 * i + 1) : Nat) : ℝ) - y / (2 * i + 1)| ≤ 3 := by
  have odd : (1 : ℝ) ≤ 2 * i + 1 := by linarith [(Nat.cast_nonneg i : (0 : ℝ) ≤ i)]
  have exact : |(x : ℝ) / ((2 * i + 1 : Nat) : ℝ) - y / (2 * i + 1)| ≤ 2 := by
    push_cast
    rw [← sub_div, abs_div, abs_of_pos (by linarith : (0 : ℝ) < 2 * i + 1)]
    exact (div_le_self (abs_nonneg _) odd).trans h
  exact (abs_div_floor_sub_le (by omega) exact).trans (by norm_num)

/-- Where z is within 1 of 2^q Z, and z2 is its square, the series of atanh Z. -/
theorem atanhSeries_error {q z n : Nat} {Z : ℝ} (h0 : 0 ≤ Z) (h3 : Z ≤ 1 / 3) (hlo : 2 ^ q * Z - 1 ≤ z) (hhi : (z : ℝ) ≤ 2 ^ q * Z) :
    |((atanhSeries q (z * z / 2 ^ q) n 0 z 0 : Nat) : ℝ) - 2 ^ q * ∑ k ∈ Finset.range n, Z ^ (2 * k + 1) / (2 * k + 1)| ≤ 3 * n := by
  have unit : (0 : ℝ) < 2 ^ q := by positivity
  obtain ⟨w, hw⟩ : ∃ w, w = z * z / 2 ^ q := ⟨_, rfl⟩
  obtain ⟨wlo, whi⟩ := div_floor_bounds (z * z) (b := 2 ^ q) (by positivity)
  rw [← hw] at wlo whi ⊢
  push_cast at wlo whi
  have zn : (0 : ℝ) ≤ z := Nat.cast_nonneg z
  have w_hi : (w : ℝ) ≤ 2 ^ q * Z ^ 2 := by
    refine whi.trans ?_
    rw [div_le_iff₀ unit]
    nlinarith
  have w_lo : 2 ^ q * Z ^ 2 - 2 ≤ w := by
    refine le_trans ?_ wlo
    rw [le_sub_iff_add_le, le_div_iff₀ unit]
    nlinarith
  have Z2 : Z ^ 2 ≤ 1 / 9 := by nlinarith
  have bound := fixSum_error (next := fun _ x => x * w / 2 ^ q) (term := fun i x => ((x / (2 * i + 1) : Nat) : Int))
    (τ := fun i => 2 ^ q * Z ^ (2 * i + 1)) (σ := fun i => 2 ^ q * Z ^ (2 * i + 1) / (2 * i + 1)) (E := fun _ => 2) (D := 3)
    (fun i x hx => ?_) (fun i x hx => by rw [Int.cast_natCast]; exact div_odd_error hx) n 0 z 0 (by
      rw [Nat.mul_zero, zero_add, pow_one, abs_le]
      constructor <;> linarith)
  · have cast : (((atanhSeries q w n 0 z 0 : Nat) : Int) : ℝ) = ((atanhSeries q w n 0 z 0 : Nat) : ℝ) := Int.cast_natCast _
    rw [← cast, atanhSeries_eq, Finset.mul_sum]
    simpa [mul_div_assoc] using bound
  · have small : Z ^ (2 * i + 1) ≤ 1 / 3 := by
      rw [pow_succ]
      exact (mul_le_of_le_one_left h0 (pow_le_one₀ h0 (by linarith))).trans h3
    have pos : 0 ≤ Z ^ (2 * i + 1) := by positivity
    have step : |((x * w : Nat) : ℝ) / ((2 ^ q : Nat) : ℝ) - 2 ^ q * Z ^ (2 * (i + 1) + 1)| ≤ 1 := by
      have split : ((x * w : Nat) : ℝ) / ((2 ^ q : Nat) : ℝ) - 2 ^ q * Z ^ (2 * (i + 1) + 1) =
          (x - 2 ^ q * Z ^ (2 * i + 1)) * (w / 2 ^ q) - Z ^ (2 * i + 1) * (2 ^ q * Z ^ 2 - w) := by
        push_cast
        rw [show 2 * (i + 1) + 1 = 2 * i + 1 + 2 by ring, pow_add Z (2 * i + 1)]
        field_simp
        ring
      have ratio : (w : ℝ) / 2 ^ q ≤ 1 / 9 := by
        rw [div_le_iff₀ unit]
        nlinarith
      have first : |((x : ℝ) - 2 ^ q * Z ^ (2 * i + 1)) * (w / 2 ^ q)| ≤ 2 * (1 / 9) := by
        rw [abs_mul, abs_of_nonneg (by positivity : (0 : ℝ) ≤ w / 2 ^ q)]
        exact mul_le_mul hx ratio (by positivity) (by norm_num)
      have second : |Z ^ (2 * i + 1) * (2 ^ q * Z ^ 2 - w)| ≤ 1 / 3 * 2 := by
        rw [abs_mul, abs_of_nonneg pos, abs_of_nonneg (by linarith : 0 ≤ 2 ^ q * Z ^ 2 - (w : ℝ))]
        exact mul_le_mul small (by linarith) (by linarith) (by norm_num)
      rw [split]
      exact (abs_sub _ _).trans (by linarith)
    exact (abs_div_floor_sub_le (by positivity) step).trans (by norm_num)

theorem hasSum_atanh {Z : ℝ} (h0 : 0 ≤ Z) (h1 : Z < 1) :
    HasSum (fun k : Nat => Z ^ (2 * k + 1) / (2 * k + 1)) ((Real.log (1 + Z) - Real.log (1 - Z)) / 2) := by
  have h := (Real.hasSum_log_sub_log_of_abs_lt_one (x := Z) (by rwa [abs_of_nonneg h0])).div_const 2
  rwa [show (fun k : Nat => 2 * (1 / (2 * (k : ℝ) + 1)) * Z ^ (2 * k + 1) / 2) = fun k : Nat => Z ^ (2 * k + 1) / (2 * k + 1) from
    funext fun k => by ring] at h

/-- The terms of atanh and of atan fall by half, up to their signs. -/
theorem odd_power_le {Z : ℝ} (h0 : 0 ≤ Z) (h2 : Z ≤ 1 / 2) (k : Nat) : Z ^ (2 * k + 1) / (2 * k + 1) ≤ 1 * (1 / 2) ^ k := by
  have h1 : (1 : ℝ) ≤ 2 * k + 1 := by linarith [(Nat.cast_nonneg k : (0 : ℝ) ≤ k)]
  rw [one_mul]
  calc Z ^ (2 * k + 1) / (2 * k + 1) ≤ Z ^ (2 * k + 1) := div_le_self (by positivity) h1
    _ ≤ Z ^ k := pow_le_pow_of_le_one h0 (by linarith) (by omega)
    _ ≤ (1 / 2) ^ k := pow_le_pow_left₀ h0 h2 k

/-- log y in units of 2^-q, for y = k / 2^g in [1, 2): twice the series of atanh ((y - 1) / (y + 1)). -/
theorem logFix_error {k g q : Nat} (hlo : 2 ^ g ≤ k) (hhi : k < 2 ^ (g + 1)) :
    |((2 * atanhSeries q (((k - 2 ^ g) * 2 ^ q / (k + 2 ^ g)) * ((k - 2 ^ g) * 2 ^ q / (k + 2 ^ g)) / 2 ^ q) (q + 8) 0
      ((k - 2 ^ g) * 2 ^ q / (k + 2 ^ g)) 0 : Nat) : ℝ) - 2 ^ q * Real.log ((k : ℝ) / 2 ^ g)| ≤ 6 * (q + 8) + 1 := by
  have one : (0 : ℝ) < 2 ^ g := by positivity
  have unit : (0 : ℝ) < 2 ^ q := by positivity
  have klo : (2 : ℝ) ^ g ≤ k := by exact_mod_cast hlo
  have khi : (k : ℝ) ≤ 2 * 2 ^ g := by
    rw [Nat.pow_succ'] at hhi
    exact_mod_cast hhi.le
  have sum_pos : (0 : ℝ) < k + 2 ^ g := by linarith
  obtain ⟨Z, hZ⟩ : ∃ Z : ℝ, Z = (k - 2 ^ g) / (k + 2 ^ g) := ⟨_, rfl⟩
  have Z0 : 0 ≤ Z := by rw [hZ]; exact div_nonneg (by linarith) sum_pos.le
  have Z3 : Z ≤ 1 / 3 := by
    rw [hZ, div_le_iff₀ sum_pos]
    linarith
  obtain ⟨zlo, zhi⟩ := div_floor_bounds ((k - 2 ^ g) * 2 ^ q) (b := k + 2 ^ g) (by positivity)
  have z_exact : (((k - 2 ^ g) * 2 ^ q : Nat) : ℝ) / ((k + 2 ^ g : Nat) : ℝ) = 2 ^ q * Z := by
    rw [hZ]
    push_cast [Nat.cast_sub hlo]
    ring
  rw [z_exact] at zlo zhi
  have series := atanhSeries_error (n := q + 8) Z0 Z3 zlo zhi
  have tail := scaled_tail q (C := 1)
    (fun n => (abs_of_nonneg (by positivity : 0 ≤ Z ^ (2 * n + 1) / (2 * (n : ℝ) + 1))).trans_le (odd_power_le Z0 (by linarith) n))
    (hasSum_atanh Z0 (by linarith))
  have quotient : Real.log (1 + Z) - Real.log (1 - Z) = Real.log ((k : ℝ) / 2 ^ g) := by
    rw [← Real.log_div (by linarith) (by linarith)]
    congr 1
    rw [hZ]
    field_simp
    ring
  rw [quotient] at tail
  generalize (k - 2 ^ g) * 2 ^ q / (k + 2 ^ g) = z at series ⊢
  push_cast at series ⊢
  rw [abs_le] at series tail ⊢
  constructor <;> linarith [series.1, series.2, tail.1, tail.2]

/-- The quotient by ln 2: both ends of it are approximate. -/
theorem logQuotient_error {q l : Nat} {L : ℝ} (hq : 0 < q) (hl : |(l : ℝ) - 2 ^ q * L| ≤ 6 * (q + 8) + 1) (h0 : 0 ≤ L)
    (h1 : L ≤ Real.log 2) : |((l * 2 ^ q / ln2Fix q : Nat) : ℝ) - 2 ^ q * (L / Real.log 2)| ≤ 14 * (q + 8) + 6 := by
  have unit : (0 : ℝ) < 2 ^ q := by positivity
  have log0 : 0 < Real.log 2 := Real.log_pos one_lt_two
  have half : 2 ^ q ≤ 2 * ln2Fix q := by
    have h := half_le_ln2Fix q
    obtain ⟨r, rfl⟩ : ∃ r, q = r + 1 := ⟨q - 1, by omega⟩
    rw [Nat.pow_succ] at h ⊢
    omega
  have pos : 0 < ln2Fix q := by
    have : 0 < 2 ^ q := by positivity
    omega
  have posr : (0 : ℝ) < ln2Fix q := Nat.cast_pos.mpr pos
  have halfr : (2 : ℝ) ^ q ≤ 2 * ln2Fix q := by exact_mod_cast half
  obtain ⟨lo, hi⟩ := ln2Fix_bounds q
  have ratio0 : 0 ≤ L / Real.log 2 := div_nonneg h0 log0.le
  have ratio1 : L / Real.log 2 ≤ 1 := (div_le_one log0).mpr h1
  have scale : (2 : ℝ) ^ q / ln2Fix q ≤ 2 := by rwa [div_le_iff₀ posr]
  have split : ((l * 2 ^ q : Nat) : ℝ) / (ln2Fix q : Nat) - 2 ^ q * (L / Real.log 2) =
      2 ^ q / ln2Fix q * ((l - 2 ^ q * L) + L / Real.log 2 * (2 ^ q * Real.log 2 - ln2Fix q)) := by
    push_cast
    field_simp
    ring
  have second : |L / Real.log 2 * (2 ^ q * Real.log 2 - ln2Fix q)| ≤ q + 9 := by
    rw [abs_of_nonneg (mul_nonneg ratio0 (by linarith))]
    exact (mul_le_of_le_one_left (by linarith) ratio1).trans (by linarith)
  have exact : |((l * 2 ^ q : Nat) : ℝ) / (ln2Fix q : Nat) - 2 ^ q * (L / Real.log 2)| ≤ 14 * (q + 8) + 5 := by
    rw [split, abs_mul, abs_of_pos (div_pos unit posr)]
    calc _ ≤ 2 * (6 * (q + 8) + 1 + (q + 9) : ℝ) :=
          mul_le_mul scale ((abs_add_le _ _).trans (add_le_add hl second)) (abs_nonneg _) two_pos.le
      _ ≤ _ := by linarith [(Nat.cast_nonneg q : (0 : ℝ) ≤ q)]
  exact (abs_div_floor_sub_le pos exact).trans (by linarith)

theorem log2Encl_holds {n : Int} {k g p : Nat} (hlo : 2 ^ g ≤ k) (hhi : k < 2 ^ (g + 1)) :
    |((log2Encl n k g p).s : ℝ) - (n + Real.logb 2 ((k : ℝ) / 2 ^ g)) * 2 ^ p| ≤ (log2Encl n k g p).err := by
  have one : (0 : ℝ) < 2 ^ g := by positivity
  have y1 : 1 ≤ (k : ℝ) / 2 ^ g := by
    rw [le_div_iff₀ one, one_mul]
    exact_mod_cast hlo
  have y2 : (k : ℝ) / 2 ^ g ≤ 2 := by
    rw [div_le_iff₀ one]
    rw [Nat.pow_succ'] at hhi
    exact_mod_cast hhi.le
  have quotient := logQuotient_error (by omega : 0 < p + 16) (logFix_error (q := p + 16) hlo hhi) (Real.log_nonneg y1)
    (Real.log_le_log (by linarith) y2)
  obtain ⟨frac, hfrac⟩ : ∃ frac, frac = (2 * atanhSeries (p + 16) (((k - 2 ^ g) * 2 ^ (p + 16) / (k + 2 ^ g)) *
      ((k - 2 ^ g) * 2 ^ (p + 16) / (k + 2 ^ g)) / 2 ^ (p + 16)) (p + 16 + 8) 0 ((k - 2 ^ g) * 2 ^ (p + 16) / (k + 2 ^ g)) 0) *
      2 ^ (p + 16) / ln2Fix (p + 16) := ⟨_, rfl⟩
  have encl_s : (log2Encl n k g p).s = n * ((2 ^ p : Nat) : Int) + ((frac / 2 ^ 16 : Nat) : Int) := by rw [hfrac]; rfl
  have encl_err : (log2Encl n k g p).err = 64 * (p + 16 + 8) := rfl
  rw [← hfrac] at quotient
  rw [encl_s, encl_err, Real.logb]
  have scaled : |(frac : ℝ) / ((2 ^ 16 : Nat) : ℝ) - 2 ^ p * (Real.log ((k : ℝ) / 2 ^ g) / Real.log 2)| ≤ 14 * (p + 24) + 6 := by
    have split : (frac : ℝ) / ((2 ^ 16 : Nat) : ℝ) - 2 ^ p * (Real.log ((k : ℝ) / 2 ^ g) / Real.log 2) =
        (frac - 2 ^ (p + 16) * (Real.log ((k : ℝ) / 2 ^ g) / Real.log 2)) / 2 ^ 16 := by
      push_cast
      ring
    rw [split, abs_div, abs_of_pos (by positivity : (0 : ℝ) < 2 ^ 16)]
    refine (div_le_self (abs_nonneg _) (by norm_num)).trans (quotient.trans ?_)
    push_cast
    linarith
  have floored := abs_le.mp (abs_div_floor_sub_le (by positivity) scaled)
  have pn : (0 : ℝ) ≤ p := Nat.cast_nonneg p
  generalize frac / 2 ^ 16 = h at floored ⊢
  push_cast at floored ⊢
  rw [abs_le]
  constructor <;> linarith [floored.1, floored.2]

end Sys2Proof
end

section
/-! The sums by which FSIN and FCOS enclose their results (R152, R153, log entry 11): how far each lies from its function. -/

namespace Sys2Proof

/-! ### pi -/

theorem atanInv_eq (p d n i x : Nat) (acc : Int) : atanInv p d n i x acc =
    fixSum (fun _ x => x / (d * d)) (fun i x => if i % 2 = 0 then ((x / (2 * i + 1) : Nat) : Int) else -((x / (2 * i + 1) : Nat) : Int))
      n i x acc := by
  induction n generalizing i x acc with
  | zero => rfl
  | succ n ih =>
    rw [atanInv]
    split
    · next h =>
      subst h
      exact (fixSum_zero (by simp) (by simp) (n + 1) i acc).symm
    · dsimp only
      rw [ih, fixSum]
      split
      · rfl
      · rw [← sub_eq_add_neg]

/-- A term that alternates in sign is as far from its exact value as it is without its sign. -/
theorem alternate_error {i : Nat} {t : Int} {y D : ℝ} (h : |(t : ℝ) - y| ≤ D) :
    |(((if i % 2 = 0 then t else -t : Int)) : ℝ) - (-1) ^ i * y| ≤ D := by
  split
  · next hi => rwa [Even.neg_one_pow (Nat.even_iff.mpr hi), one_mul]
  · next hi =>
    rw [Odd.neg_one_pow (Nat.odd_iff.mpr (by omega)), Int.cast_neg, neg_one_mul, ← neg_sub', abs_neg]
    exact h

theorem atanInv_error (p : Nat) {d : Nat} (hd : 2 ≤ d) :
    |(atanInv p d (p + 8) 0 (2 ^ p / d) 0 : ℝ) - 2 ^ p * Real.arctan (d : ℝ)⁻¹| ≤ 3 * (p + 8) + 1 / 20 := by
  have unit : (0 : ℝ) < 2 ^ p := by positivity
  have d2 : (2 : ℝ) ≤ d := by exact_mod_cast hd
  have inv0 : (0 : ℝ) ≤ (d : ℝ)⁻¹ := by positivity
  have inv2 : (d : ℝ)⁻¹ ≤ 1 / 2 := by
    rw [one_div]
    exact inv_anti₀ two_pos d2
  have start : |((2 ^ p / d : Nat) : ℝ) - 2 ^ p * (d : ℝ)⁻¹ ^ (2 * 0 + 1)| ≤ 2 := by
    refine (abs_div_floor_sub_le (by omega) (e := 0) ?_).trans (by norm_num)
    push_cast
    simp [div_eq_mul_inv]
  have bound := fixSum_error (next := fun _ x => x / (d * d))
    (term := fun i x => if i % 2 = 0 then ((x / (2 * i + 1) : Nat) : Int) else -((x / (2 * i + 1) : Nat) : Int))
    (τ := fun i => 2 ^ p * (d : ℝ)⁻¹ ^ (2 * i + 1)) (σ := fun i => (-1) ^ i * (2 ^ p * (d : ℝ)⁻¹ ^ (2 * i + 1) / (2 * i + 1)))
    (E := fun _ => 2) (D := 3) (fun i x hx => ?_)
    (fun i x hx => alternate_error (by rw [Int.cast_natCast]; exact div_odd_error hx)) (p + 8) 0 (2 ^ p / d) 0 start
  · have tail := scaled_tail p (C := 1) (fun k => ?_) (Real.hasSum_arctan (x := (d : ℝ)⁻¹) (by rw [Real.norm_of_nonneg inv0]; linarith))
    · rw [Finset.mul_sum] at tail
      have same : ∑ k ∈ Finset.range (p + 8), (-1) ^ (0 + k) * (2 ^ p * (d : ℝ)⁻¹ ^ (2 * (0 + k) + 1) / (2 * ((0 + k : Nat) : ℝ) + 1)) =
          ∑ k ∈ Finset.range (p + 8), 2 ^ p * ((-1) ^ k * (d : ℝ)⁻¹ ^ (2 * k + 1) / ((2 * k + 1 : Nat) : ℝ)) :=
        Finset.sum_congr rfl fun k _ => by
          rw [Nat.zero_add]
          push_cast
          ring
      rw [same, ← atanInv_eq] at bound
      rw [Int.cast_zero, zero_add] at bound
      refine (abs_sub_le _ _ _).trans ((add_le_add bound tail).trans ?_)
      push_cast
      rw [add_le_add_iff_left]
      norm_num
    · rw [abs_div, abs_mul, abs_pow, abs_neg, abs_one, one_pow, one_mul, abs_of_nonneg (by positivity), Nat.abs_cast]
      push_cast
      exact odd_power_le inv0 inv2 k
  · have exact : |(x : ℝ) / ((d * d : Nat) : ℝ) - 2 ^ p * (d : ℝ)⁻¹ ^ (2 * (i + 1) + 1)| ≤ 1 := by
      have split : (x : ℝ) / ((d * d : Nat) : ℝ) - 2 ^ p * (d : ℝ)⁻¹ ^ (2 * (i + 1) + 1) =
          (x - 2 ^ p * (d : ℝ)⁻¹ ^ (2 * i + 1)) * ((d : ℝ)⁻¹ * (d : ℝ)⁻¹) := by
        rw [show 2 * (i + 1) + 1 = 2 * i + 1 + 2 by ring, pow_add _ (2 * i + 1)]
        push_cast
        ring
      rw [split, abs_mul, abs_of_nonneg (mul_nonneg inv0 inv0)]
      calc _ ≤ 2 * (1 / 2 * (1 / 2) : ℝ) := mul_le_mul hx (mul_le_mul inv2 inv2 inv0 (by norm_num)) (by positivity) (by norm_num)
        _ ≤ 1 := by norm_num
    exact (abs_div_floor_sub_le (by positivity) exact).trans (by norm_num)

theorem abs_toNat_sub_le {z : Int} {y e : ℝ} (hy : 0 ≤ y) (h : |(z : ℝ) - y| ≤ e) : |((z.toNat : Nat) : ℝ) - y| ≤ e := by
  rcases le_total 0 z with hz | hz
  · have : ((z.toNat : Nat) : ℝ) = z := by exact_mod_cast Int.toNat_of_nonneg hz
    rwa [this]
  · have zr : (z : ℝ) ≤ 0 := by exact_mod_cast hz
    rw [Int.toNat_eq_zero.mpr hz, Nat.cast_zero, zero_sub, abs_neg, abs_of_nonneg hy]
    linarith [(abs_le.mp h).1]

theorem piFix_error (p : Nat) : |(piFix p : ℝ) - 2 ^ p * Real.pi| ≤ 60 * (p + 8) + 1 := by
  have unit : (0 : ℝ) < 2 ^ p := by positivity
  have a := abs_le.mp (atanInv_error p (d := 5) (by norm_num))
  have b := abs_le.mp (atanInv_error p (d := 239) (by norm_num))
  have machin : Real.pi = 16 * Real.arctan ((5 : Nat) : ℝ)⁻¹ - 4 * Real.arctan ((239 : Nat) : ℝ)⁻¹ := by
    have := Real.four_mul_arctan_inv_5_sub_arctan_inv_239
    push_cast
    linear_combination -4 * this
  refine abs_toNat_sub_le (mul_nonneg unit.le Real.pi_pos.le) ?_
  rw [machin, seriesTerms]
  generalize Real.arctan ((5 : Nat) : ℝ)⁻¹ = x at a ⊢
  generalize Real.arctan ((239 : Nat) : ℝ)⁻¹ = y at b ⊢
  push_cast at a b ⊢
  rw [abs_le]
  constructor <;> linarith [a.1, a.2, b.1, b.2]

end Sys2Proof
end

section
namespace Sys2Proof

/-! ### The series of sin and cos -/

theorem trigSeries_eq (p x2 i0 n m t : Nat) (acc : Int) : trigSeries p x2 n (i0 + 2 * m) t (decide (m % 2 = 1)) acc =
    fixSum (fun m t => t * x2 / 2 ^ p / ((i0 + 2 * m) * (i0 + 2 * m + 1))) (fun m t => if m % 2 = 0 then (t : Int) else -(t : Int))
      n m t acc := by
  induction n generalizing m t acc with
  | zero => rfl
  | succ n ih =>
    rw [trigSeries]
    split
    · next h =>
      subst h
      exact (fixSum_zero (by simp) (by simp) (n + 1) m acc).symm
    · have flip : (!decide (m % 2 = 1)) = decide ((m + 1) % 2 = 1) := by
        rw [← decide_not, decide_eq_decide]
        omega
      rw [show i0 + 2 * m + 2 = i0 + 2 * (m + 1) by ring, flip, ih, fixSum]
      congr 1
      by_cases hm : m % 2 = 1
      · rw [decide_eq_true hm, if_pos rfl, if_neg (by omega), sub_eq_add_neg]
      · rw [decide_eq_false hm, if_neg Bool.false_ne_true, if_pos (by omega)]

/-- A term of the series of cos (c = 0) or sin (c = 1), without its sign. -/
noncomputable def trigTerm (R : ℝ) (c m : Nat) : ℝ := R ^ (2 * m + c) / (2 * m + c).factorial

section
variable {R : ℝ} (h0 : 0 ≤ R) (h8 : R ≤ 8 / 5) {c : Nat} (hc : c ≤ 1)
include h0

theorem trigTerm_nonneg (m : Nat) : 0 ≤ trigTerm R c m := by
  unfold trigTerm
  positivity

omit h0 in
theorem trigTerm_succ (m : Nat) :
    trigTerm R c (m + 1) = trigTerm R c m * (R ^ 2 / (((c + 1 + 2 * m) * (c + 1 + 2 * m + 1) : Nat) : ℝ)) := by
  unfold trigTerm
  rw [show 2 * (m + 1) + c = 2 * m + c + 1 + 1 by ring, Nat.factorial_succ, Nat.factorial_succ, pow_succ, pow_succ]
  push_cast
  field_simp
  ring

include h8 hc

theorem trigTerm_le (m : Nat) : trigTerm R c m ≤ 8 * (1 / 2) ^ m := by
  have R2 : R ^ 2 ≤ 64 / 25 := by nlinarith
  have first : trigTerm R c 0 ≤ 8 / 5 := by
    rcases (by omega : c = 0 ∨ c = 1) with rfl | rfl
    · norm_num [trigTerm]
    · simpa [trigTerm] using h8
  induction m with
  | zero => linarith [first]
  | succ m ih =>
    rw [trigTerm_succ]
    have nonneg := trigTerm_nonneg h0 (c := c) m
    cases m with
    | zero =>
      have denom : (2 : ℝ) ≤ (((c + 1 + 2 * 0) * (c + 1 + 2 * 0 + 1) : Nat) : ℝ) := by
        exact_mod_cast (by nlinarith : 2 ≤ (c + 1 + 2 * 0) * (c + 1 + 2 * 0 + 1))
      have ratio : R ^ 2 / (((c + 1 + 2 * 0) * (c + 1 + 2 * 0 + 1) : Nat) : ℝ) ≤ 32 / 25 := by
        rw [div_le_iff₀ (by linarith)]
        linarith
      calc _ ≤ 8 / 5 * (32 / 25 : ℝ) := mul_le_mul first ratio (by positivity) (by norm_num)
        _ ≤ _ := by norm_num
    | succ m =>
      have denom : (12 : ℝ) ≤ (((c + 1 + 2 * (m + 1)) * (c + 1 + 2 * (m + 1) + 1) : Nat) : ℝ) := by
        exact_mod_cast (by nlinarith : 12 ≤ (c + 1 + 2 * (m + 1)) * (c + 1 + 2 * (m + 1) + 1))
      have ratio : R ^ 2 / (((c + 1 + 2 * (m + 1)) * (c + 1 + 2 * (m + 1) + 1) : Nat) : ℝ) ≤ 1 / 2 := by
        rw [div_le_iff₀ (by linarith)]
        linarith
      calc _ ≤ 8 * (1 / 2) ^ (m + 1) * (1 / 2 : ℝ) := mul_le_mul ih ratio (by positivity) (by positivity)
        _ = _ := by rw [pow_succ _ (m + 1)]; ring

end

/-- A term that starts exact, and is then within 5 of its exact value, gives the next one within 5, where w is R^2 in units of 2^-p. -/
theorem trigStep_error {p w m x : Nat} {R : ℝ} {c : Nat} (h0 : 0 ≤ R) (h8 : R ≤ 8 / 5) (hc : c ≤ 1)
    (hw : 2 ^ p * R ^ 2 - 1 ≤ w ∧ (w : ℝ) ≤ 2 ^ p * R ^ 2) (hx : |(x : ℝ) - 2 ^ p * trigTerm R c m| ≤ if m = 0 then 0 else 5) :
    |((x * w / 2 ^ p / ((c + 1 + 2 * m) * (c + 1 + 2 * m + 1)) : Nat) : ℝ) - 2 ^ p * trigTerm R c (m + 1)| ≤ 5 := by
  have unit : (0 : ℝ) < 2 ^ p := by positivity
  obtain ⟨wlo, whi⟩ := hw
  have R2 : R ^ 2 ≤ 64 / 25 := by nlinarith
  have ratio0 : 0 ≤ (w : ℝ) / 2 ^ p := by positivity
  have ratio : (w : ℝ) / 2 ^ p ≤ 64 / 25 := by
    rw [div_le_iff₀ unit]
    nlinarith
  have term0 := trigTerm_nonneg h0 (c := c) m
  have term8 : trigTerm R c m ≤ 8 := (trigTerm_le h0 h8 hc m).trans (by
    have : (1 / 2 : ℝ) ^ m ≤ 1 := pow_le_one₀ (by norm_num) (by norm_num)
    linarith)
  obtain ⟨I, hI⟩ : ∃ I, I = (c + 1 + 2 * m) * (c + 1 + 2 * m + 1) := ⟨_, rfl⟩
  have Ipos : 0 < I := by rw [hI]; positivity
  have Ir : (0 : ℝ) < I := Nat.cast_pos.mpr Ipos
  rw [← hI, Nat.div_div_eq_div_mul, trigTerm_succ, ← hI]
  have split : ((x * w : Nat) : ℝ) / ((2 ^ p * I : Nat) : ℝ) - 2 ^ p * (trigTerm R c m * (R ^ 2 / I)) =
      ((x - 2 ^ p * trigTerm R c m) * (w / 2 ^ p) - trigTerm R c m * (2 ^ p * R ^ 2 - w)) / I := by
    push_cast
    field_simp
    ring
  have second : |trigTerm R c m * (2 ^ p * R ^ 2 - w)| ≤ 8 * 1 := by
    rw [abs_mul, abs_of_nonneg term0, abs_of_nonneg (by linarith : 0 ≤ 2 ^ p * R ^ 2 - (w : ℝ))]
    exact mul_le_mul term8 (by linarith) (by linarith) (by norm_num)
  have step : |((x * w : Nat) : ℝ) / ((2 ^ p * I : Nat) : ℝ) - 2 ^ p * (trigTerm R c m * (R ^ 2 / I))| ≤ 4 := by
    rw [split, abs_div, abs_of_pos Ir, div_le_iff₀ Ir]
    refine (abs_sub _ _).trans ?_
    rw [abs_mul, abs_of_nonneg ratio0]
    have first := mul_le_mul hx ratio ratio0 ((abs_nonneg _).trans hx)
    cases m with
    | zero =>
      have I2 : (2 : ℝ) ≤ I := by exact_mod_cast (by rw [hI]; nlinarith : 2 ≤ I)
      rw [if_pos rfl] at first
      linarith
    | succ m =>
      have I12 : (12 : ℝ) ≤ I := by exact_mod_cast (by rw [hI]; nlinarith : 12 ≤ I)
      rw [if_neg (Nat.succ_ne_zero m)] at first
      linarith
  exact (abs_div_floor_sub_le (by positivity) step).trans (by norm_num)

/-- Where r is 2^p R and t is the first term, the series gives its exact partial sum within 5 units a term. -/
theorem trigSeries_error (p r n c t : Nat) {R : ℝ} (hR : (r : ℝ) = 2 ^ p * R) (h0 : 0 ≤ R) (h8 : R ≤ 8 / 5) (hc : c ≤ 1)
    (ht : (t : ℝ) = 2 ^ p * trigTerm R c 0) :
    |(trigSeries p (r * r / 2 ^ p) n (c + 1) t false 0 : ℝ) - ∑ k ∈ Finset.range n, (-1) ^ k * (2 ^ p * trigTerm R c k)| ≤ 5 * n := by
  obtain ⟨w, hw⟩ : ∃ w, w = r * r / 2 ^ p := ⟨_, rfl⟩
  have square : ((r * r : Nat) : ℝ) / ((2 ^ p : Nat) : ℝ) = 2 ^ p * R ^ 2 := by
    push_cast
    rw [hR]
    field_simp
  have wbounds := div_floor_bounds (r * r) (b := 2 ^ p) (by positivity)
  rw [square, ← hw] at wbounds
  have bound := fixSum_error (next := fun m t => t * w / 2 ^ p / ((c + 1 + 2 * m) * (c + 1 + 2 * m + 1)))
    (term := fun m t => if m % 2 = 0 then (t : Int) else -(t : Int)) (τ := fun m => 2 ^ p * trigTerm R c m)
    (σ := fun m => (-1) ^ m * (2 ^ p * trigTerm R c m)) (E := fun m => if m = 0 then 0 else 5) (D := 5)
    (fun m x hx => by
      rw [if_neg (Nat.succ_ne_zero m)]
      exact trigStep_error h0 h8 hc wbounds hx)
    (fun m x hx => alternate_error (by
      rw [Int.cast_natCast]
      refine hx.trans ?_
      split <;> norm_num)) n 0 t 0 (by simp [ht])
  have start := trigSeries_eq p w (c + 1) n 0 t 0
  rw [show decide (0 % 2 = 1) = false from rfl, Nat.mul_zero, Nat.add_zero] at start
  rw [← hw, start]
  simpa using bound

/-- The series of cos and of sin, with their signs, in units of 2^-p. -/
theorem trigSeries_near (p r c t : Nat) {R S : ℝ} (hR : (r : ℝ) = 2 ^ p * R) (h0 : 0 ≤ R) (h8 : R ≤ 8 / 5) (hc : c ≤ 1)
    (ht : (t : ℝ) = 2 ^ p * trigTerm R c 0) (hS : HasSum (fun k => (-1) ^ k * trigTerm R c k) S) :
    |(trigSeries p (r * r / 2 ^ p) (p + 8) (c + 1) t false 0 : ℝ) - 2 ^ p * S| ≤ 5 * (p + 8) + 1 := by
  have series := trigSeries_error p r (p + 8) c t hR h0 h8 hc ht
  have tail := scaled_tail p (C := 8) (fun k => ?_) hS
  · rw [Finset.mul_sum, Finset.sum_congr rfl fun k _ => mul_left_comm (2 ^ p : ℝ) ((-1) ^ k) (trigTerm R c k)] at tail
    push_cast at series
    rw [abs_le] at series tail ⊢
    constructor <;> linarith [series.1, series.2, tail.1, tail.2]
  · rw [abs_mul, abs_pow, abs_neg, abs_one, one_pow, one_mul, abs_of_nonneg (trigTerm_nonneg h0 k)]
    exact trigTerm_le h0 h8 hc k

theorem hasSum_trigTerm_cos (R : ℝ) : HasSum (fun k => (-1) ^ k * trigTerm R 0 k) (Real.cos R) := by
  simpa [trigTerm, mul_div_assoc] using Real.hasSum_cos R

theorem hasSum_trigTerm_sin (R : ℝ) : HasSum (fun k => (-1) ^ k * trigTerm R 1 k) (Real.sin R) := by
  simpa [trigTerm, mul_div_assoc] using Real.hasSum_sin R

end Sys2Proof
end

section
namespace Sys2Proof

/-! ### The reduction of the argument by multiples of pi / 2 -/

theorem two_pow_ge_linear {w : Nat} (hw : 20 ≤ w) : 4000 * (w + 8) ≤ 2 ^ w := by
  induction w, hw using Nat.le_induction with
  | base => decide
  | succ w _ ih =>
    rw [Nat.pow_succ]
    omega

theorem halfPi_error (w : Nat) : |((piFix w / 2 : Nat) : ℝ) - 2 ^ w * (Real.pi / 2)| ≤ 30 * (w + 8) + 2 := by
  have exact : |(piFix w : ℝ) / ((2 : Nat) : ℝ) - 2 ^ w * (Real.pi / 2)| ≤ 30 * (w + 8) + 1 := by
    have h := abs_le.mp (piFix_error w)
    push_cast
    rw [abs_le]
    constructor <;> linarith [h.1, h.2]
  exact (abs_div_floor_sub_le two_pos exact).trans (by linarith)

/-- The argument in units of 2^-w. -/
theorem argFix_bounds (j : Nat) (e : Int) (w : Nat) :
    2 ^ w * (j * (2 : ℝ) ^ e) - 1 ≤ ((if e ≥ 0 then j * 2 ^ e.toNat * 2 ^ w else j * 2 ^ w / 2 ^ (-e).toNat : Nat) : ℝ) ∧
    ((if e ≥ 0 then j * 2 ^ e.toNat * 2 ^ w else j * 2 ^ w / 2 ^ (-e).toNat : Nat) : ℝ) ≤ 2 ^ w * (j * (2 : ℝ) ^ e) := by
  rw [two_zpow_eq_div]
  split
  · next h =>
    have exact : ((j * 2 ^ e.toNat * 2 ^ w : Nat) : ℝ) = 2 ^ w * (j * (((2 ^ e.toNat : Nat) : ℝ) / ((2 ^ (-e).toNat : Nat) : ℝ))) := by
      rw [Int.toNat_eq_zero.mpr (by omega : -e ≤ 0), pow_zero]
      push_cast
      ring
    rw [exact]
    exact ⟨by linarith, le_refl _⟩
  · next h =>
    have exact : ((j * 2 ^ w : Nat) : ℝ) / ((2 ^ (-e).toNat : Nat) : ℝ) =
        2 ^ w * (j * (((2 ^ e.toNat : Nat) : ℝ) / ((2 ^ (-e).toNat : Nat) : ℝ))) := by
      rw [Int.toNat_eq_zero.mpr (by omega : e ≤ 0), pow_zero]
      push_cast
      ring
    rw [← exact]
    exact div_floor_bounds _ (by positivity)

theorem arg_le_two_pow (j : Nat) (e : Int) : (j : ℝ) * 2 ^ e ≤ 2 ^ (max 0 (e + Nat.log2 j + 1)).toNat := by
  have lt : (j : ℝ) ≤ 2 ^ (Nat.log2 j + 1) := by exact_mod_cast Nat.lt_log2_self.le
  calc (j : ℝ) * 2 ^ e ≤ 2 ^ (Nat.log2 j + 1) * 2 ^ e := by gcongr
    _ = 2 ^ (e + Nat.log2 j + 1) := by
        rw [← zpow_natCast, ← zpow_add₀ two_ne_zero]
        congr 1
        push_cast
        ring
    _ ≤ 2 ^ (max 0 (e + Nat.log2 j + 1)) := zpow_le_zpow_right₀ one_le_two (le_max_right _ _)
    _ = 2 ^ (max 0 (e + Nat.log2 j + 1)).toNat := by rw [← zpow_natCast, Int.toNat_of_nonneg (le_max_left _ _)]

/-- The rest r of the argument, in units of 2^-p, after k quarters are taken away. -/
structure Reduced (p w : Nat) (A : ℝ) (k r : Nat) : Prop where
  near : |(r : ℝ) - 2 ^ p * (A - k * (Real.pi / 2))| ≤ w + 8
  small : (r : ℝ) ≤ 2 ^ p * (8 / 5)

/-- A fixed-point number near pi / 2 is between 1 and 8 / 5. -/
theorem halfPi_bounds {w half : Nat} (hw : 20 ≤ w) (hhalf : |(half : ℝ) - 2 ^ w * (Real.pi / 2)| ≤ 30 * (w + 8) + 2) :
    (2 : ℝ) ^ w ≤ half ∧ (half : ℝ) ≤ 2 ^ w * (8 / 5) := by
  have unit : (0 : ℝ) < 2 ^ w := by positivity
  have room : (4000 : ℝ) * (w + 8) ≤ 2 ^ w := by exact_mod_cast two_pow_ge_linear hw
  have w8 : (8 : ℝ) ≤ w + 8 := by linarith [(Nat.cast_nonneg w : (0 : ℝ) ≤ w)]
  have pi_lo := Real.pi_gt_d2
  have pi_hi := Real.pi_lt_d2
  obtain ⟨lo, hi⟩ := abs_le.mp hhalf
  constructor <;> nlinarith

theorem reduced_of {p big w x half : Nat} {A : ℝ} (hw : w = p + big + 8) (hp : 20 ≤ p) (hA0 : 0 ≤ A) (hA : A ≤ 2 ^ big)
    (hx : 2 ^ w * A - 1 ≤ x ∧ (x : ℝ) ≤ 2 ^ w * A) (hhalf : |(half : ℝ) - 2 ^ w * (Real.pi / 2)| ≤ 30 * (w + 8) + 2) :
    Reduced p w A (x / half) ((x - x / half * half) / 2 ^ (big + 8)) := by
  have unit : (0 : ℝ) < 2 ^ w := by positivity
  have w8 : (8 : ℝ) ≤ w + 8 := by linarith [(Nat.cast_nonneg w : (0 : ℝ) ≤ w)]
  obtain ⟨half_ge, half_le⟩ := halfPi_bounds (by omega) hhalf
  have half_pos : 0 < half := by
    have : (0 : ℝ) < half := unit.trans_le half_ge
    exact_mod_cast this
  have rest_eq : x - x / half * half = x % half := by rw [Nat.mod_eq_sub_mul_div, Nat.mul_comm]
  have rest_lt : x % half < half := Nat.mod_lt x half_pos
  have quot : (x : ℝ) = (x / half : Nat) * half + (x % half : Nat) := by exact_mod_cast (Nat.div_add_mod' x half).symm
  have k_le : ((x / half : Nat) : ℝ) ≤ 2 ^ big := by
    have h := (div_floor_bounds x half_pos).2
    refine h.trans ((div_le_iff₀ (unit.trans_le half_ge)).mpr ?_)
    calc (x : ℝ) ≤ 2 ^ w * A := hx.2
      _ ≤ 2 ^ w * 2 ^ big := by gcongr
      _ = 2 ^ big * 2 ^ w := mul_comm _ _
      _ ≤ 2 ^ big * half := by gcongr
  have big_pos : (1 : ℝ) ≤ 2 ^ big := one_le_pow₀ one_le_two
  have scale : (2 : ℝ) ^ w = 2 ^ p * 2 ^ (big + 8) := by rw [← pow_add, hw, Nat.add_assoc]
  have scale_pos : (0 : ℝ) < 2 ^ (big + 8) := by positivity
  rw [rest_eq]
  generalize x / half = k at k_le quot ⊢
  have k0 : (0 : ℝ) ≤ k := Nat.cast_nonneg k
  have exact : |((x % half : Nat) : ℝ) / ((2 ^ (big + 8) : Nat) : ℝ) - 2 ^ p * (A - k * (Real.pi / 2))| ≤ w + 7 := by
    have split : ((x % half : Nat) : ℝ) / ((2 ^ (big + 8) : Nat) : ℝ) - 2 ^ p * (A - k * (Real.pi / 2)) =
        ((x - 2 ^ w * A) - k * (half - 2 ^ w * (Real.pi / 2))) / 2 ^ (big + 8) := by
      rw [quot, scale]
      push_cast
      field_simp
      ring
    have second : |(k : ℝ) * (half - 2 ^ w * (Real.pi / 2))| ≤ 2 ^ big * (30 * (w + 8) + 2) := by
      rw [abs_mul, abs_of_nonneg k0]
      exact mul_le_mul k_le hhalf (abs_nonneg _) (by positivity)
    have first : |(x : ℝ) - 2 ^ w * A| ≤ 1 := abs_le.mpr ⟨by linarith [hx.1], by linarith [hx.2]⟩
    rw [split, abs_div, abs_of_pos scale_pos, div_le_iff₀ scale_pos, pow_add]
    refine (abs_sub _ _).trans ?_
    nlinarith
  refine ⟨(abs_div_floor_sub_le (by positivity) exact).trans (by linarith), ?_⟩
  refine (div_floor_bounds _ (by positivity)).2.trans ?_
  push_cast
  rw [div_le_iff₀ scale_pos, mul_assoc, mul_comm (8 / 5 : ℝ), ← mul_assoc, ← scale]
  have : ((x % half : Nat) : ℝ) ≤ half := by exact_mod_cast rest_lt.le
  linarith

/-! ### sin and cos -/

/-- The value that a quarter turn q takes from the sine and cosine of the rest. -/
theorem sin_add_quarters (θ : ℝ) (K : Nat) : Real.sin (θ + K * (Real.pi / 2)) =
    if K % 4 = 0 then Real.sin θ else if K % 4 = 1 then Real.cos θ else if K % 4 = 2 then -Real.sin θ else -Real.cos θ := by
  have turns : Real.sin (θ + K * (Real.pi / 2)) = Real.sin (θ + (K % 4 : Nat) * (Real.pi / 2)) := by
    have hK : (K : ℝ) = (K / 4 : Nat) * 4 + (K % 4 : Nat) := by exact_mod_cast (Nat.div_add_mod' K 4).symm
    rw [show θ + K * (Real.pi / 2) = θ + (K % 4 : Nat) * (Real.pi / 2) + (K / 4 : Nat) * (2 * Real.pi) by rw [hK]; ring,
      Real.sin_add_nat_mul_two_pi]
  rw [turns]
  have hlt := Nat.mod_lt K (by norm_num : 0 < 4)
  generalize K % 4 = q at hlt ⊢
  interval_cases q
  · simp
  · rw [Nat.cast_one, one_mul, Real.sin_add_pi_div_two]
    rfl
  · rw [Nat.cast_ofNat, mul_div_cancel₀ _ two_ne_zero, Real.sin_add_pi]
    rfl
  · rw [show θ + ((3 : Nat) : ℝ) * (Real.pi / 2) = θ + Real.pi / 2 + Real.pi by push_cast; ring, Real.sin_add_pi,
      Real.sin_add_pi_div_two]
    rfl

end Sys2Proof
end

section
namespace Sys2Proof

/-- The series of the rest, in the quarter that holds the argument. -/
def trigQuarter (p r q : Nat) : Int :=
  let sn := trigSeries p (r * r / 2 ^ p) (p + 8) 2 r false 0
  let cs := trigSeries p (r * r / 2 ^ p) (p + 8) 1 (2 ^ p) false 0
  if q = 0 then sn else if q = 1 then cs else if q = 2 then -sn else -cs

theorem trigQuarter_near {p r K : Nat} {θ δ : ℝ} (hsmall : (r : ℝ) ≤ 2 ^ p * (8 / 5)) (hnear : |(r : ℝ) - 2 ^ p * θ| ≤ δ) :
    |(trigQuarter p r (K % 4) : ℝ) - Real.sin (θ + K * (Real.pi / 2)) * 2 ^ p| ≤ 5 * (p + 8) + 1 + δ := by
  have unit : (0 : ℝ) < 2 ^ p := by positivity
  obtain ⟨R, hR⟩ : ∃ R : ℝ, (r : ℝ) = 2 ^ p * R := ⟨r / 2 ^ p, by field_simp⟩
  have h0 : 0 ≤ R := by
    by_contra h
    nlinarith [(Nat.cast_nonneg r : (0 : ℝ) ≤ r)]
  have h8 : R ≤ 8 / 5 := by
    rw [hR] at hsmall
    exact le_of_mul_le_mul_left hsmall unit
  have moved : 2 ^ p * |R - θ| ≤ δ := by rwa [hR, ← mul_sub, abs_mul, abs_of_pos unit] at hnear
  have close : ∀ {z : Int} {f g : ℝ}, |(z : ℝ) - 2 ^ p * f| ≤ 5 * (p + 8) + 1 → |f - g| ≤ |R - θ| →
      |(z : ℝ) - g * 2 ^ p| ≤ 5 * (p + 8) + 1 + δ := by
    intro z f g hz hfg
    have : |2 ^ p * (f - g)| ≤ δ := by
      rw [abs_mul, abs_of_pos unit]
      exact (mul_le_mul_of_nonneg_left hfg unit.le).trans moved
    calc |(z : ℝ) - g * 2 ^ p| = |((z : ℝ) - 2 ^ p * f) + 2 ^ p * (f - g)| := by congr 1; ring
      _ ≤ _ := (abs_add_le _ _).trans (add_le_add hz this)
  have sine := close (trigSeries_near p r 1 r hR h0 h8 (le_refl 1) (by simpa [trigTerm] using hR) (hasSum_trigTerm_sin R))
    (Real.abs_sin_sub_sin_le R θ)
  have cosine := close (trigSeries_near p r 0 (2 ^ p) hR h0 h8 (Nat.zero_le 1) (by simp [trigTerm]) (hasSum_trigTerm_cos R))
    (Real.abs_cos_sub_cos_le R θ)
  have negated : ∀ {z : Int} {g : ℝ}, |(z : ℝ) - g * 2 ^ p| ≤ 5 * (p + 8) + 1 + δ →
      |((-z : Int) : ℝ) - -g * 2 ^ p| ≤ 5 * (p + 8) + 1 + δ := by
    intro z g h
    rwa [Int.cast_neg, neg_mul, sub_neg_eq_add, neg_add_eq_sub, abs_sub_comm]
  rw [sin_add_quarters, trigQuarter]
  split
  · exact sine
  · split
    · exact cosine
    · split
      · exact negated sine
      · exact negated cosine

theorem trigEncl_eq (cosine : Bool) (j : Nat) (e : Int) (p : Nat) :
    let big := (max 0 (e + Nat.log2 j + 1)).toNat
    let w := p + big + 8
    let x := if e ≥ 0 then j * 2 ^ e.toNat * 2 ^ w else j * 2 ^ w / 2 ^ (-e).toNat
    let k := x / (piFix w / 2)
    trigEncl cosine j e p = ⟨trigQuarter p ((x - k * (piFix w / 2)) / 2 ^ (big + 8)) ((k + (if cosine then 1 else 0)) % 4),
      64 * (w + 8)⟩ := rfl

theorem trigEncl_holds (cosine : Bool) (j : Nat) (e : Int) {p : Nat} (hp : 20 ≤ p) :
    |((trigEncl cosine j e p).s : ℝ) - Real.sin (j * 2 ^ e + (if cosine then 1 else 0 : Nat) * (Real.pi / 2)) * 2 ^ p| ≤
      (trigEncl cosine j e p).err := by
  rw [trigEncl_eq]
  generalize hbig : (max 0 (e + (Nat.log2 j : Int) + 1)).toNat = big
  have hA := arg_le_two_pow j e
  rw [hbig] at hA
  dsimp only
  obtain ⟨w, hw⟩ : ∃ w, w = p + big + 8 := ⟨_, rfl⟩
  rw [← hw]
  have hx := argFix_bounds j e w
  generalize (if e ≥ 0 then j * 2 ^ e.toNat * 2 ^ w else j * 2 ^ w / 2 ^ (-e).toNat : Nat) = x at hx ⊢
  have red := reduced_of hw hp (by positivity) hA hx (halfPi_error w)
  generalize piFix w / 2 = half at red ⊢
  generalize x / half = k at red ⊢
  have near := trigQuarter_near (K := k + (if cosine then 1 else 0)) red.small red.near
  have angle : (j : ℝ) * 2 ^ e - k * (Real.pi / 2) + ((k + (if cosine then 1 else 0) : Nat) : ℝ) * (Real.pi / 2) =
      j * 2 ^ e + (if cosine then 1 else 0 : Nat) * (Real.pi / 2) := by
    push_cast
    ring
  rw [angle] at near
  refine near.trans ?_
  rw [hw]
  push_cast
  linarith [(Nat.cast_nonneg p : (0 : ℝ) ≤ p), (Nat.cast_nonneg big : (0 : ℝ) ≤ big)]

theorem zivPrecisions_ge {p : Nat} (h : p ∈ zivPrecisions) : 20 ≤ p := by
  simp only [zivPrecisions, List.mem_cons, List.not_mem_nil, or_false] at h
  omega

/-! ### The four functions -/

section
variable {F : FFmt} (m : RMode) {a k : Nat} {s : Bool} {e : Int} (ha : F.value a = .fin s k e) (hk : k ≠ 0)
include ha hk

theorem FFmt.sin_rounds (h : F.decides m 0 (fun p => ⟨(if s then -1 else 1) * (trigEncl false k e p).s, (trigEncl false k e p).err⟩)) :
    F.rounds m (Real.sin (((FVal.fin s k e).toRat : ℚ) : ℝ)) (F.sin m a) := by
  have enc_eq : (fun p => let t := trigEncl false k e p; (⟨if s then -t.s else t.s, t.err⟩ : Encl)) =
      fun p => ⟨(if s then -1 else 1) * (trigEncl false k e p).s, (trigEncl false k e p).err⟩ := by
    funext p
    cases s <;> simp
  have sin_eq : F.sin m a = zivTry F m 0 (fun p => ⟨(if s then -1 else 1) * (trigEncl false k e p).s, (trigEncl false k e p).err⟩)
      zivPrecisions := by
    rw [← enc_eq]
    simp only [FFmt.sin, ha, if_neg hk]
  rw [sin_eq]
  refine h.rounds fun p hp => ?_
  have near := trigEncl_holds false k e (zivPrecisions_ge hp)
  rw [if_neg Bool.false_ne_true, Nat.cast_zero, zero_mul, add_zero] at near
  rw [FVal.toRat_cast, neg_zero, zpow_zero, mul_one]
  cases s
  · rwa [if_neg Bool.false_ne_true, if_neg Bool.false_ne_true, one_mul, one_mul]
  · rw [if_pos rfl, if_pos rfl, neg_one_mul, neg_one_mul, Real.sin_neg, Int.cast_neg, neg_mul, ← neg_sub', abs_neg]
    exact near

theorem FFmt.cos_rounds (h : F.decides m 0 (trigEncl true k e)) :
    F.rounds m (Real.cos (((FVal.fin s k e).toRat : ℚ) : ℝ)) (F.cos m a) := by
  have cos_eq : F.cos m a = zivTry F m 0 (trigEncl true k e) zivPrecisions := by simp only [FFmt.cos, ha, if_neg hk]
  rw [cos_eq]
  refine h.rounds fun p hp => ?_
  have near := trigEncl_holds true k e (zivPrecisions_ge hp)
  rw [if_pos rfl, Nat.cast_one, one_mul, Real.sin_add_pi_div_two] at near
  rw [FVal.toRat_cast, neg_zero, zpow_zero, mul_one]
  cases s
  · simpa using near
  · simpa [Real.cos_neg] using near

end

end Sys2Proof
end

section
namespace Sys2Proof

/-! ### 2^A -/

/-- Rounding down, as the bounds of a floor. -/
theorem rndIntQ_rd_bounds (s : Bool) (k : Nat) {d : Nat} (hd : 0 < d) :
    (rndIntQ .rd s k d : ℝ) ≤ (if s then -1 else 1) * ((k : ℝ) / d) ∧ (if s then -1 else 1) * ((k : ℝ) / d) < rndIntQ .rd s k d + 1 := by
  have dr : (0 : ℝ) < d := Nat.cast_pos.mpr hd
  have quot : (k : ℝ) / d = (k / d : Nat) + (k % d : Nat) / d := by
    rw [eq_comm, ← sub_eq_zero]
    have h : (k : ℝ) = (k / d : Nat) * d + (k % d : Nat) := by exact_mod_cast (Nat.div_add_mod' k d).symm
    field_simp
    linarith
  have rem_lt : ((k % d : Nat) : ℝ) / d < 1 := (div_lt_one dr).mpr (by exact_mod_cast Nat.mod_lt k hd)
  have rem_ge : (0 : ℝ) ≤ ((k % d : Nat) : ℝ) / d := by positivity
  rw [quot]
  unfold rndIntQ roundQuot
  dsimp only
  generalize k / d = q
  generalize k % d = r at rem_lt rem_ge ⊢
  by_cases hr : r = 0
  · rw [if_pos hr, hr, Nat.cast_zero, zero_div, add_zero]
    cases s <;> push_cast <;> constructor <;> simp
  · have rem_pos : (0 : ℝ) < (r : ℝ) / d := div_pos (Nat.cast_pos.mpr (Nat.pos_of_ne_zero hr)) dr
    rw [if_neg hr]
    cases s
    · simp only [Bool.false_eq_true, if_false, Int.cast_natCast, one_mul]
      constructor <;> linarith
    · simp only [if_true]
      push_cast
      constructor <;> linarith

theorem rndIntFin_floor (s : Bool) (k : Nat) (e : Int) : rndIntFin .rd s k e = ⌊(((FVal.fin s k e).toRat : ℚ) : ℝ)⌋ := by
  symm
  rw [Int.floor_eq_iff, FVal.toRat_cast, two_zpow_eq_div]
  unfold rndIntFin
  split
  · next h =>
    rw [Int.toNat_eq_zero.mpr (by omega : -e ≤ 0), pow_zero]
    cases s <;> push_cast <;> constructor <;> simp
  · next h =>
    rw [Int.toNat_eq_zero.mpr (by omega : e ≤ 0), pow_zero, Nat.cast_one, mul_one_div]
    exact rndIntQ_rd_bounds s k (by positivity)

section
variable {F : FFmt} (m : RMode) {a k : Nat} {s : Bool} {e : Int} (ha : F.value a = .fin s k e) (hk : k ≠ 0)
include ha hk

/-- FEX2 of an exponent that is far, or of an integral one. -/
theorem FFmt.ex2_rounds_plain (h : (((FVal.fin s k e).toRat : ℚ) : ℝ) = ⌊(((FVal.fin s k e).toRat : ℚ) : ℝ)⌋ ∨
    1024 ≤ ⌊(((FVal.fin s k e).toRat : ℚ) : ℝ)⌋ ∨ ⌊(((FVal.fin s k e).toRat : ℚ) : ℝ)⌋ ≤ -1024) :
    F.rounds m ((2 : ℝ) ^ (((FVal.fin s k e).toRat : ℚ) : ℝ)) (F.ex2 m a) := by
  have fl := rndIntFin_floor s k e
  by_cases far : 1024 ≤ rndIntFin .rd s k e ∨ rndIntFin .rd s k e ≤ -1024
  · have ex2_eq : F.ex2 m a = F.rnd m (.fin false 1 (max (-1024) (min 1024 (rndIntFin .rd s k e)))) := by
      simp only [FFmt.ex2, ha, if_neg hk]
      rw [if_pos]
      simp only [ge_iff_le, Bool.or_eq_true, decide_eq_true_eq]
      tauto
    rw [ex2_eq]
    exact F.rounds_pow_far m fl far
  · rw [← fl] at h
    have integral := h.resolve_right far
    have ex2_eq : F.ex2 m a = F.rnd m (.fin false 1 (rndIntFin .rd s k e)) := by
      simp only [FFmt.ex2, ha, if_neg hk]
      split
      · rw [show max (-1024) (min 1024 (rndIntFin .rd s k e)) = rndIntFin .rd s k e by omega]
      · next near =>
        have e_neg : e < 0 := by
          simp only [ge_iff_le, Bool.or_eq_true, decide_eq_true_eq, not_or] at near
          omega
        obtain ⟨g, rfl⟩ : ∃ g : Nat, e = -(g : Int) := ⟨(-e).toNat, by omega⟩
        generalize rndIntFin .rd s k (-(g : Int)) = n at integral
        rw [FVal.toRat_cast, zpow_neg, zpow_natCast, ← div_eq_mul_inv, ← mul_div_assoc, div_eq_iff (by positivity)] at integral
        have exact : (if s then -(k : Int) else (k : Int)) = n * ((2 ^ g : Nat) : Int) := by
          have sign : ((if s then -(k : Int) else (k : Int) : Int) : ℝ) = (if s then -1 else 1) * k := by cases s <;> simp
          have : ((if s then -(k : Int) else (k : Int) : Int) : ℝ) = n * 2 ^ g := sign.trans integral
          exact_mod_cast this
        rw [neg_neg, Int.toNat_natCast, exact, sub_self, Int.toNat_zero, if_pos rfl]
    have pow_eq : (2 : ℝ) ^ (((FVal.fin s k e).toRat : ℚ) : ℝ) = (((FVal.fin false 1 (rndIntFin .rd s k e)).toRat : ℚ) : ℝ) := by
      rw [integral, Real.rpow_intCast, FVal.toRat_cast, if_neg Bool.false_ne_true, one_mul, Nat.cast_one, one_mul]
    rw [ex2_eq, pow_eq]
    exact F.rounds_rnd_fin m false one_ne_zero _

theorem FFmt.ex2_rounds {g j : Nat} {n : Int} (he : e = -(g : Int)) (hj : (j : Int) = (if s then -1 else 1) * k - n * 2 ^ g) (hj0 : j ≠ 0)
    (hjg : j < 2 ^ g) (h : F.decides m n (exp2Encl j g)) :
    F.rounds m ((2 : ℝ) ^ (((FVal.fin s k e).toRat : ℚ) : ℝ)) (F.ex2 m a) := by
  have value : (((FVal.fin s k e).toRat : ℚ) : ℝ) = n + (j : ℝ) / 2 ^ g := by
    have hjr : (j : ℝ) = (if s then -1 else 1) * k - n * 2 ^ g := by
      have := congrArg (fun z : Int => (z : ℝ)) hj
      push_cast at this
      exact this
    rw [FVal.toRat_cast, he, zpow_neg, zpow_natCast, hjr]
    field_simp
    ring
  have frac0 : (0 : ℝ) ≤ (j : ℝ) / 2 ^ g := by positivity
  have frac1 : (j : ℝ) / 2 ^ g < 1 := (div_lt_one (by positivity)).mpr (by exact_mod_cast hjg)
  have floor : ⌊(((FVal.fin s k e).toRat : ℚ) : ℝ)⌋ = n := by
    rw [Int.floor_eq_iff, value]
    constructor <;> linarith
  by_cases far : 1024 ≤ n ∨ n ≤ -1024
  · exact FFmt.ex2_rounds_plain m ha hk (.inr (floor ▸ far))
  · have g0 : 0 < g := Nat.pos_of_ne_zero (by rintro rfl; omega)
    have ex2_eq : F.ex2 m a = zivTry F m n (exp2Encl j g) zivPrecisions := by
      have fl : rndIntFin .rd s k e = n := (rndIntFin_floor s k e).trans floor
      have rest : ((if s then -(k : Int) else (k : Int)) - n * ((2 ^ g : Nat) : Int)).toNat = j := by
        rw [← Int.toNat_natCast j, hj]
        congr 1
        push_cast
        cases s <;> simp
      simp only [FFmt.ex2, ha, if_neg hk, fl]
      rw [if_neg (by simp; omega), he, neg_neg, Int.toNat_natCast, rest, if_neg hj0]
    rw [ex2_eq]
    refine h.rounds fun p _ => ?_
    have near := exp2Encl_holds (p := p) hjg
    rw [value, Real.rpow_add two_pos, Real.rpow_intCast, mul_comm ((2 : ℝ) ^ n), mul_assoc ((2 : ℝ) ^ ((j : ℝ) / 2 ^ g)),
      ← zpow_add₀ two_ne_zero, add_neg_cancel, zpow_zero, mul_one]
    exact near

end

/-! ### log2 A -/

section
variable {F : FFmt} (m : RMode) {a k : Nat} {e : Int} (ha : F.value a = .fin false k e) (hk : k ≠ 0)
include ha hk

theorem FFmt.lg2_eq : F.lg2 m a = if k = 2 ^ Nat.log2 k then F.rnd m (FVal.ofInt (e + Nat.log2 k))
    else zivTry F m 0 (log2Encl (e + Nat.log2 k) k (Nat.log2 k)) zivPrecisions := by
  simp only [FFmt.lg2, ha, if_neg hk, Bool.false_eq_true, if_false]

theorem FFmt.lg2_rounds {g : Nat} (hlo : 2 ^ g < k) (hhi : k < 2 ^ (g + 1)) (h : F.decides m 0 (log2Encl (e + g) k g)) :
    F.rounds m (Real.logb 2 (((FVal.fin false k e).toRat : ℚ) : ℝ)) (F.lg2 m a) := by
  have log_eq : Nat.log2 k = g := by
    rw [Nat.log2_eq_iff hk]
    exact ⟨hlo.le, hhi⟩
  rw [FFmt.lg2_eq m ha hk, log_eq, if_neg hlo.ne']
  refine h.rounds fun p _ => ?_
  have near := log2Encl_holds (n := e + g) (p := p) hlo.le hhi
  have kr : (k : ℝ) ≠ 0 := Nat.cast_ne_zero.mpr hk
  have logb_zpow : Real.logb 2 ((2 : ℝ) ^ e) = e := by
    rw [← Real.rpow_intCast, Real.logb_rpow two_pos (by norm_num)]
  have logb_eq : Real.logb 2 (((FVal.fin false k e).toRat : ℚ) : ℝ) = ((e + g : Int) : ℝ) + Real.logb 2 ((k : ℝ) / 2 ^ g) := by
    rw [FVal.toRat_cast, if_neg Bool.false_ne_true, one_mul, Real.logb_mul kr (by positivity), Real.logb_div kr (by positivity),
      logb_zpow, Real.logb_pow, Real.logb_self_eq_one one_lt_two]
    push_cast
    ring
  rw [logb_eq, neg_zero, zpow_zero, mul_one]
  exact near

/-- FLG2 of a power of two. -/
theorem FFmt.lg2_pow {n : Int} (hn : (((FVal.fin false k e).toRat : ℚ) : ℝ) = (2 : ℝ) ^ n) : F.lg2 m a = F.rnd m (FVal.ofInt n) := by
  have kr : (k : ℝ) = 2 ^ (n - e) := by
    rw [FVal.toRat_cast, if_neg Bool.false_ne_true, one_mul] at hn
    rw [zpow_sub₀ two_ne_zero, ← hn, mul_div_cancel_right₀ _ (by positivity)]
  have nonneg : 0 ≤ n - e := by
    by_contra hneg
    have lt : (2 : ℝ) ^ (n - e) < 1 := zpow_lt_one_of_neg₀ one_lt_two (by omega)
    rw [← kr] at lt
    exact hk (by exact_mod_cast Nat.lt_one_iff.mp (by exact_mod_cast lt))
  have kn : k = 2 ^ (n - e).toNat := by
    rw [← Int.toNat_of_nonneg nonneg, zpow_natCast] at kr
    exact_mod_cast kr
  have log_eq : Nat.log2 k = (n - e).toNat := by rw [kn, Nat.log2_two_pow]
  rw [FFmt.lg2_eq m ha hk, log_eq, if_pos kn, show e + ((n - e).toNat : Int) = n by omega]

end

theorem FFmt.rounds_ofInt (F : FFmt) (m : RMode) {n : Int} (hn : n ≠ 0) : F.rounds m n (F.rnd m (FVal.ofInt n)) := by
  have value : (n : ℝ) = (((FVal.fin (decide (n < 0)) n.natAbs 0).toRat : ℚ) : ℝ) := by
    rw [FVal.toRat_cast, zpow_zero, mul_one, Nat.cast_natAbs]
    by_cases h : n < 0
    · rw [decide_eq_true h, if_pos rfl, abs_of_neg h, Int.cast_neg, neg_one_mul, neg_neg]
    · rw [decide_eq_false h, if_neg Bool.false_ne_true, abs_of_nonneg (not_lt.mp h), one_mul]
  rw [value]
  exact F.rounds_rnd_fin m _ (Int.natAbs_ne_zero.mpr hn) 0

end Sys2Proof
end

section
namespace Sys2Proof

/-- A finite nonzero operand: the quotients and roots are rounded once, and the other functions where an enclosure decides. -/
theorem FFmt.long_finite (F : FFmt) (m : RMode) (a b : Nat) {s : Bool} {k : Nat} {e : Int} (ha : F.value a = .fin s k e) (hk : k ≠ 0) :
    let x : ℝ := ((F.value a).toRat : ℚ)
    let y : ℝ := ((F.value b).toRat : ℚ)
    (∀ t j g, F.value b = .fin t j g → j ≠ 0 → F.rounds m (x / y) (F.div m a b)) ∧ F.rounds m (1 / x) (F.rcp m a) ∧
    (s = true → F.sqrt m a = F.canonNan ∧ F.rsq m a = F.canonNan ∧ F.lg2 m a = F.canonNan) ∧
    (s = false → F.rounds m (Real.sqrt x) (F.sqrt m a) ∧ F.rounds m (1 / Real.sqrt x) (F.rsq m a)) ∧
    ((x = ⌊x⌋ ∨ 1024 ≤ ⌊x⌋ ∨ ⌊x⌋ ≤ -1024) → F.rounds m ((2 : ℝ) ^ x) (F.ex2 m a)) ∧
    (∀ (g j : Nat) (n : Int), e = -(g : Int) → (j : Int) = (if s then -1 else 1) * k - n * 2 ^ g → j ≠ 0 → j < 2 ^ g →
      F.decides m n (exp2Encl j g) → F.rounds m ((2 : ℝ) ^ x) (F.ex2 m a)) ∧
    (x = 1 → F.lg2 m a = 0) ∧
    (∀ n : Int, x = (2 : ℝ) ^ n → n ≠ 0 → F.rounds m n (F.lg2 m a)) ∧
    (s = false → ∀ g : Nat, 2 ^ g < k → k < 2 ^ (g + 1) → F.decides m 0 (log2Encl (e + g) k g) → F.rounds m (Real.logb 2 x) (F.lg2 m a)) ∧
    (F.decides m 0 (fun p => ⟨(if s then -1 else 1) * (trigEncl false k e p).s, (trigEncl false k e p).err⟩) →
      F.rounds m (Real.sin x) (F.sin m a)) ∧
    (F.decides m 0 (trigEncl true k e) → F.rounds m (Real.cos x) (F.cos m a)) := by
  intro x y
  have x_eq : x = (((FVal.fin s k e).toRat : ℚ) : ℝ) := by rw [← ha]
  have positive : ∀ {n : Int}, x = (2 : ℝ) ^ n → s = false := fun {n} hx => by
    rw [← Bool.not_eq_true, FVal.toRat_neg_iff s hk e, ← x_eq, hx]
    exact not_lt.mpr (zpow_pos two_pos n).le
  have power : ∀ {n : Int}, x = (2 : ℝ) ^ n → F.lg2 m a = F.rnd m (FVal.ofInt n) := fun {n} hx => by
    have hs := positive hx
    subst hs
    exact FFmt.lg2_pow m ha hk (x_eq.symm.trans hx)
  rw [x_eq]
  refine ⟨fun t j g hb hj => ?_, FFmt.rcp_rounds m ha hk, ?_, ?_, FFmt.ex2_rounds_plain m ha hk,
    fun g j n he hj hj0 hjg => FFmt.ex2_rounds m ha hk he hj hj0 hjg, fun hx => ?_, fun n hx hn => ?_, ?_, FFmt.sin_rounds m ha hk,
    FFmt.cos_rounds m ha hk⟩
  · have y_eq : y = (((FVal.fin t j g).toRat : ℚ) : ℝ) := by rw [← hb]
    rw [y_eq]
    exact FFmt.div_rounds m ha hk hb hj
  · rintro rfl
    exact FFmt.long_negative m ha hk
  · rintro rfl
    exact ⟨FFmt.sqrt_rounds m ha hk, FFmt.rsq_rounds m ha hk⟩
  · rw [power (n := 0) (by rw [x_eq, hx, zpow_zero])]
    rfl
  · rw [power (x_eq.trans hx)]
    exact F.rounds_ofInt m hn
  · rintro rfl g hlo hhi
    exact FFmt.lg2_rounds m ha hk hlo hhi

end Sys2Proof

namespace Sys2Proof.Machine

/-- Settles O18: the special operands are read off the definitions; a quotient or a root is a rational, or lies in a gap of a grid finer
than half a quantum; and the sums of the other four stay within the error that their enclosures allow, so that an enclosure that decides
the rounding decides it rightly. -/
theorem longLatency : Obligations.LongLatency := by
  unfold Obligations.LongLatency
  refine ⟨fun F m a b => ?_, longLatency_examples, fun f s x => ?_, fun s n o vals ho hk => execFuncResultWrite_eq ho hk,
    Group.keepResult_spec⟩
  · intro x y zero one
    refine ⟨FFmt.long_nan m b, FFmt.div_nan m b, fun s ha => ?_, fun s e ha => ?_, fun s k e ha hk => ?_⟩
    · obtain ⟨hrcp, hsin, hcos⟩ := FFmt.long_inf m ha
      refine ⟨hrcp, hsin, hcos, fun t hb => FFmt.div_inf_inf m b ha hb, fun t k g hb => FFmt.div_inf_fin m b ha hb, ?_, ?_⟩
      · rintro rfl
        obtain ⟨h1, h2, h3, h4⟩ := FFmt.long_posInf m ha
        exact ⟨h1, h2, h3, h4⟩
      · rintro rfl
        obtain ⟨h1, h2, h3, h4⟩ := FFmt.long_negInf m ha
        exact ⟨h1, h2, h3, h4⟩
    · obtain ⟨hsqrt, hrcp, hrsq, hex2, hlg2, hsin, hcos⟩ := FFmt.long_zero m ha
      have isOne := F.value_rnd_one m
      exact ⟨hsqrt, hrcp, hrsq, hex2 ▸ isOne, hlg2, hsin, hcos ▸ isOne, fun t g hb => FFmt.div_zero_by_zero m b ha hb,
        fun t k g hb hk => FFmt.div_zero m b ha hb hk, fun t hb => FFmt.div_fin_inf m b ha hb⟩
    · exact ⟨fun t g hb => FFmt.div_by_zero m b ha hk hb, fun t hb => FFmt.div_fin_inf m b ha hb, F.long_finite m a b ha hk⟩
  · intro F m a b p hp hx
    simp only [List.mem_cons, List.not_mem_nil, or_false] at hp
    rcases hp with rfl | rfl | rfl | rfl | rfl | rfl | rfl | rfl
    · exact floatLong_of_issueOf (fun a b => F.div m a b) hx rfl rfl
    · exact floatLong_of_issueOf (fun a _ => F.sqrt m a) hx rfl rfl
    · exact floatLong_of_issueOf (fun a _ => F.rcp m a) hx rfl rfl
    · exact floatLong_of_issueOf (fun a _ => F.rsq m a) hx rfl rfl
    · exact floatLong_of_issueOf (fun a _ => F.ex2 m a) hx rfl rfl
    · exact floatLong_of_issueOf (fun a _ => F.lg2 m a) hx rfl rfl
    · exact floatLong_of_issueOf (fun a _ => F.sin m a) hx rfl rfl
    · exact floatLong_of_issueOf (fun a _ => F.cos m a) hx rfl rfl

end Sys2Proof.Machine
end

section
/-! Exact products and sums (R51, R131, R150): the terms of a sum in one unit, and the sign of an exact zero. -/

namespace Sys2Proof.FVal

/-! ### Specials among the terms -/

theorem isNan_iff (t : FVal) : t.isNan = true ↔ t = .nan := by
  cases t <;> simp [isNan]

theorem isInf_iff (s : Bool) (t : FVal) : t.isInf s = true ↔ t = .inf s := by
  cases t with
  | inf u => rw [isInf, beq_iff_eq, inf.injEq, eq_comm]
  | nan => simp [isInf]
  | fin => simp [isInf]

theorem any_isNan_iff (ts : List FVal) : ts.any isNan = true ↔ .nan ∈ ts := by
  simp only [List.any_eq_true, isNan_iff, exists_eq_right]

theorem any_isInf_iff (s : Bool) (ts : List FVal) : ts.any (isInf s) = true ↔ .inf s ∈ ts := by
  simp only [List.any_eq_true, isInf_iff, exists_eq_right]

theorem sum_of_nan (m : RMode) {ts : List FVal} (h : .nan ∈ ts ∨ (.inf true ∈ ts ∧ .inf false ∈ ts)) : sum m ts = .nan := by
  rw [← any_isNan_iff, ← any_isInf_iff, ← any_isInf_iff, ← Bool.and_eq_true, ← Bool.or_eq_true] at h
  rw [sum, if_pos h]

theorem sum_of_inf (m : RMode) {s : Bool} {ts : List FVal} (hs : .inf s ∈ ts) (hn : .nan ∉ ts) (ho : .inf (!s) ∉ ts) :
    sum m ts = .inf s := by
  rw [← any_isInf_iff] at hs ho
  rw [← any_isNan_iff] at hn
  rw [Bool.not_eq_true] at hn ho
  cases s
  · simp [sum, hs, hn, show ts.any (isInf true) = false from ho]
  · simp [sum, hs, hn, show ts.any (isInf false) = false from ho]

/-! ### Finite terms in one unit -/

theorem toRat_signed (k u : Int) : (FVal.fin (decide (k < 0)) k.natAbs u).toRat = k * 2 ^ u := by
  have size : ((k.natAbs : Nat) : ℚ) = |(k : ℚ)| := by rw [Nat.cast_natAbs, Int.cast_abs]
  rw [toRat, size]
  by_cases h : k < 0
  · rw [decide_eq_true h, if_pos rfl, abs_of_neg (Int.cast_lt_zero.mpr h), neg_mul_neg, one_mul]
  · rw [decide_eq_false h, if_neg Bool.false_ne_true, abs_of_nonneg (Int.cast_nonneg (not_lt.mp h)), one_mul]

theorem toRat_eq_scaledTo {t : FVal} {u : Int} (ht : t.isFin = true) (hu : u ≤ t.expo) : t.toRat = t.scaledTo u * 2 ^ u := by
  match t, ht with
  | .fin s m e, _ =>
    rw [expo] at hu
    have unit : (2 : ℚ) ^ e = 2 ^ (e - u).toNat * 2 ^ u := by
      rw [← zpow_natCast, Int.toNat_of_nonneg (by omega), ← zpow_add₀ two_ne_zero, sub_add_cancel]
    rw [toRat, scaledTo, unit]
    cases s
    · push_cast [if_neg Bool.false_ne_true]
      ring
    · push_cast [if_pos rfl]
      ring

theorem foldl_min_expo_le (ts : List FVal) : ∀ u : Int, ts.foldl (fun (u : Int) t => min u t.expo) u ≤ u ∧
    ∀ t ∈ ts, ts.foldl (fun (u : Int) t => min u t.expo) u ≤ t.expo := by
  induction ts with
  | nil => exact fun u => ⟨le_refl u, fun _ h => absurd h List.not_mem_nil⟩
  | cons x xs ih =>
    intro u
    obtain ⟨start, rest⟩ := ih (min u x.expo)
    refine ⟨start.trans (min_le_left _ _), fun t ht => ?_⟩
    rcases List.mem_cons.mp ht with rfl | ht
    · exact start.trans (min_le_right _ _)
    · exact rest t ht

theorem foldl_scaledTo (u : Int) (ts : List FVal) (fin : ∀ t ∈ ts, t.isFin = true) (unit : ∀ t ∈ ts, u ≤ t.expo) :
    ∀ k : Int, ((ts.foldl (fun (k : Int) t => k + t.scaledTo u) k : Int) : ℚ) * 2 ^ u = k * 2 ^ u + (ts.map toRat).sum := by
  induction ts with
  | nil => simp
  | cons x xs ih =>
    intro k
    rw [List.foldl_cons, ih (fun t ht => fin t (List.mem_cons_of_mem x ht)) (fun t ht => unit t (List.mem_cons_of_mem x ht)),
      List.map_cons, List.sum_cons, toRat_eq_scaledTo (fin x List.mem_cons_self) (unit x List.mem_cons_self)]
    push_cast
    ring

/-- The sum of finite terms is k units for some unit, with the sign of zero where k is 0. -/
theorem sum_finite (m : RMode) {ts : List FVal} (fin : ∀ t ∈ ts, t.isFin = true) : ∃ k u : Int, (k : ℚ) * 2 ^ u = (ts.map toRat).sum ∧
    sum m ts = if k = 0 then
        .fin (if ts.all (fun t => t.isZero && t.isNeg) then true else if ts.all (fun t => t.isZero && !t.isNeg) then false
          else decide (m = .rd)) 0 0
      else .fin (decide (k < 0)) k.natAbs u := by
  have noNan : ts.any isNan = false := by
    rw [← Bool.not_eq_true, any_isNan_iff]
    exact fun h => Bool.false_ne_true (fin _ h)
  have noInf : ∀ s, ts.any (isInf s) = false := fun s => by
    rw [← Bool.not_eq_true, any_isInf_iff]
    exact fun h => Bool.false_ne_true (fin _ h)
  refine ⟨_, ts.foldl (fun (u : Int) t => min u t.expo) 0,
    (foldl_scaledTo _ ts fin (foldl_min_expo_le ts 0).2 0).trans (by rw [Int.cast_zero, zero_mul, zero_add]), ?_⟩
  simp only [sum, noNan, noInf, Bool.and_self, Bool.or_self, Bool.false_eq_true, if_false]
  split
  · split
    · rfl
    · split <;> rfl
  · rfl

theorem sum_exact (m : RMode) {ts : List FVal} (fin : ∀ t ∈ ts, t.isFin = true) :
    (sum m ts).isFin = true ∧ (sum m ts).toRat = (ts.map toRat).sum := by
  obtain ⟨k, u, total, eq⟩ := sum_finite m fin
  rw [eq, ← total]
  split
  · next hk => exact ⟨rfl, by simp [toRat, hk]⟩
  · exact ⟨rfl, toRat_signed k u⟩

theorem sum_of_zero (m : RMode) {ts : List FVal} (fin : ∀ t ∈ ts, t.isFin = true) (zero : (ts.map toRat).sum = 0) :
    sum m ts = .fin (if ts.all (fun t => t.isZero && t.isNeg) then true else if ts.all (fun t => t.isZero && !t.isNeg) then false
      else decide (m = .rd)) 0 0 := by
  obtain ⟨k, u, total, eq⟩ := sum_finite m fin
  have hk : k = 0 := by
    rw [zero, mul_eq_zero, or_iff_left (zpow_ne_zero u two_ne_zero)] at total
    exact_mod_cast total
  rw [eq, if_pos hk]

/-- All terms are zeros of one sign. -/
theorem all_zero_iff (ts : List FVal) : (ts.all (fun t => t.isZero && t.isNeg) = true ↔ ∀ t ∈ ts, t.isZero = true ∧ t.isNeg = true) ∧
    (ts.all (fun t => t.isZero && !t.isNeg) = true ↔ ∀ t ∈ ts, t.isZero = true ∧ t.isNeg = false) := by
  simp only [List.all_eq_true, Bool.and_eq_true, Bool.not_eq_true', and_self]

theorem isNeg_sum_of_zeros (m : RMode) {ts : List FVal} (ne : ts ≠ []) (fin : ∀ t ∈ ts, t.isFin = true)
    (zero : (ts.map toRat).sum = 0) {neg : Bool} (h : ∀ t ∈ ts, t.isZero = true ∧ t.isNeg = neg) : (sum m ts).isNeg = neg := by
  obtain ⟨allNeg, allPos⟩ := all_zero_iff ts
  rw [sum_of_zero m fin zero, isNeg]
  cases neg
  · obtain ⟨t, ht⟩ := List.exists_mem_of_ne_nil ts ne
    have mixed : ¬ ts.all (fun t => t.isZero && t.isNeg) = true := fun all =>
      absurd ((h t ht).2.symm.trans (allNeg.mp all t ht).2) (by decide)
    rw [if_neg mixed, if_pos (allPos.mpr h)]
  · rw [if_pos (allNeg.mpr h)]

theorem isNeg_sum_of_cancel (m : RMode) {ts : List FVal} (fin : ∀ t ∈ ts, t.isFin = true) (zero : (ts.map toRat).sum = 0)
    (h : ¬ ∃ neg, ∀ t ∈ ts, t.isZero = true ∧ t.isNeg = neg) : (sum m ts).isNeg = decide (m = .rd) := by
  obtain ⟨allNeg, allPos⟩ := all_zero_iff ts
  rw [sum_of_zero m fin zero, isNeg, if_neg fun all => h ⟨true, allNeg.mp all⟩, if_neg fun all => h ⟨false, allPos.mp all⟩]

/-! ### Products -/

theorem mul_exact {a b : FVal} (ha : a.isFin = true) (hb : b.isFin = true) :
    (a.mul b).isFin = true ∧ (a.mul b).toRat = a.toRat * b.toRat ∧ (a.mul b).isNeg = (a.isNeg != b.isNeg) := by
  match a, b, ha, hb with
  | .fin s m e, .fin t k g, _, _ =>
    refine ⟨rfl, ?_, rfl⟩
    simp only [mul, toRat, zpow_add₀ (two_ne_zero (α := ℚ))]
    cases s <;> cases t <;> push_cast <;> simp <;> ring

theorem mul_nan (v : FVal) : FVal.nan.mul v = .nan ∧ v.mul .nan = .nan :=
  ⟨by cases v <;> rfl, by cases v <;> rfl⟩

end Sys2Proof.FVal

namespace Sys2Proof.Machine

/-- Settles O15: the terms of a sum are integers of one unit, so that their sum is exact; the specials and the zeros are read off the
definitions. -/
theorem exactResults : Obligations.ExactResults := by
  unfold Obligations.ExactResults
  refine ⟨fun a b => FVal.mul_exact, fun m ts => FVal.sum_exact m, fun m ts ne fin zero => ⟨?_, fun neg =>
    FVal.isNeg_sum_of_zeros m ne fin zero, FVal.isNeg_sum_of_cancel m fin zero⟩, fun m ts => FVal.sum_of_nan m,
    fun m s ts => FVal.sum_of_inf m, fun s t e => ⟨rfl, rfl⟩, fun s t k e hk => ⟨?_, ?_⟩, fun s t => rfl, FVal.mul_nan⟩
  · rw [FVal.sum_of_zero m fin zero]
    rfl
  · rw [FVal.mul, if_neg hk]
  · rw [FVal.mul, if_neg hk, bne_comm]

end Sys2Proof.Machine
end

section
/-! The basic floating-point words (R131, R149 to R151, R159): rounding by class of value, minimum and maximum, and results element by
element. -/

namespace Sys2Proof

/-! ### Rounding by class of value -/

theorem FFmt.canonNan_bits (F : FFmt) : F.canonNan = match F with
    | .f32 => 0x7FC00000
    | .f16 => 0x7E00
    | .bf16 => 0x7FC0 := by
  cases F <;> rfl

theorem rndQ_zero (F : FFmt) (m : RMode) (neg : Bool) (den : Nat) : rndQ F m neg 0 den = if neg then F.signBit else 0 := by
  rw [rndQ, if_pos rfl]

theorem FFmt.rnd_fin (F : FFmt) (m : RMode) (neg : Bool) (k : Nat) (e : Int) : F.rnd m (.fin neg k e) =
    if 0 ≤ e then rndQ F m neg (k * 2 ^ e.toNat) 1 else rndQ F m neg k (2 ^ (-e).toNat) := by
  rw [FFmt.rnd]
  split
  · next hk =>
    rw [hk, Nat.zero_mul, rndQ_zero, rndQ_zero, ite_self]
  · rfl

/-! ### Comparison -/

namespace FVal

theorem cmp_fin (s t : Bool) (m k : Nat) (e g : Int) : (FVal.fin s m e).cmp (.fin t k g) =
    compare (FVal.fin s m e).toRat (FVal.fin t k g).toRat := by
  have unit : (0 : ℚ) < 2 ^ min e g := zpow_pos two_pos _
  rw [toRat_eq_scaledTo (t := .fin s m e) rfl (min_le_left e g), toRat_eq_scaledTo (t := .fin t k g) rfl (min_le_right e g)]
  simp only [cmp, expo, compare, compareOfLessAndEq, mul_lt_mul_iff_left₀ unit, mul_left_inj' unit.ne', Int.cast_lt, Int.cast_inj]
  rfl

theorem toRat_zero (s : Bool) (e : Int) : (FVal.fin s 0 e).toRat = 0 := by
  rw [toRat, Nat.cast_zero, mul_zero, zero_mul]

/-- Of two numbers in order, the first compares lower, or both are zeros of which the first alone is negative. -/
theorem cmp_of_below {x y : FVal} (h : x.below y) : x.isNan = false ∧ y.isNan = false ∧
    ((x.cmp y = .lt ∧ y.cmp x = .gt) ∨ (x.cmp y = .eq ∧ y.cmp x = .eq ∧ x.isNeg = true ∧ y.isNeg = false)) := by
  match x, y, h with
  | .inf s, .inf t, ⟨hs, ht⟩ =>
    subst hs ht
    exact ⟨rfl, rfl, .inl ⟨rfl, rfl⟩⟩
  | .inf s, .fin _ _ _, hs =>
    obtain rfl : s = true := hs
    exact ⟨rfl, rfl, .inl ⟨rfl, rfl⟩⟩
  | .fin _ _ _, .inf t, ht =>
    obtain rfl : t = false := ht
    exact ⟨rfl, rfl, .inl ⟨rfl, rfl⟩⟩
  | .fin s m e, .fin t k g, h =>
    refine ⟨rfl, rfl, ?_⟩
    rw [cmp_fin, cmp_fin]
    rcases h with lt | ⟨rfl, rfl, rfl, rfl⟩
    · exact .inl ⟨compare_lt_iff_lt.mpr lt, compare_gt_iff_gt.mpr lt⟩
    · rw [toRat_zero, toRat_zero]
      exact .inr ⟨compare_eq_iff_eq.mpr rfl, compare_eq_iff_eq.mpr rfl, rfl, rfl⟩

@[simp] theorem isNan_nan : FVal.nan.isNan = true := rfl

theorem isNan_eq_false {x : FVal} (h : x ≠ .nan) : x.isNan = false := by
  rwa [← Bool.not_eq_true, isNan_iff]

end FVal

/-! ### Minimum and maximum -/

section
variable (F : FFmt) {a b : Nat}

theorem FFmt.minMax_nan_nan (ha : F.value a = .nan) (hb : F.value b = .nan) : F.minNum a b = F.canonNan ∧ F.maxNum a b = F.canonNan := by
  simp [FFmt.minNum, FFmt.maxNum, ha, hb]

theorem FFmt.minMax_nan_left (ha : F.value a = .nan) (hb : F.value b ≠ .nan) : F.minNum a b = b ∧ F.maxNum a b = b := by
  simp [FFmt.minNum, FFmt.maxNum, ha, FVal.isNan_eq_false hb]

theorem FFmt.minMax_nan_right (ha : F.value a ≠ .nan) (hb : F.value b = .nan) : F.minNum a b = a ∧ F.maxNum a b = a := by
  simp [FFmt.minNum, FFmt.maxNum, hb, FVal.isNan_eq_false ha]

theorem FFmt.minMax_below (h : (F.value a).below (F.value b)) : F.minNum a b = a ∧ F.maxNum a b = b := by
  obtain ⟨ha, hb, ⟨lt, -⟩ | ⟨eq, -, neg, -⟩⟩ := FVal.cmp_of_below h
  · simp [FFmt.minNum, FFmt.maxNum, ha, hb, lt]
  · simp [FFmt.minNum, FFmt.maxNum, ha, hb, eq, neg]

theorem FFmt.minMax_above (h : (F.value b).below (F.value a)) : F.minNum a b = b ∧ F.maxNum a b = a := by
  obtain ⟨hb, ha, ⟨-, gt⟩ | ⟨-, eq, -, pos⟩⟩ := FVal.cmp_of_below h
  · simp [FFmt.minNum, FFmt.maxNum, ha, hb, gt]
  · simp [FFmt.minNum, FFmt.maxNum, ha, hb, eq, pos]

theorem FFmt.minMax_self (h : F.value a ≠ .nan) : F.minNum a a = a ∧ F.maxNum a a = a := by
  rw [FFmt.minNum, FFmt.maxNum, FVal.isNan_eq_false h]
  cases (F.value a).cmp (F.value a) <;> simp

end

/-! ### Absolute value and negation -/

theorem FFmt.isNan_iff (F : FFmt) (a : Nat) : F.isNan a = true ↔ F.value a = .nan := by
  unfold FFmt.isNan
  cases F.value a <;> simp

theorem FFmt.absv_eq (F : FFmt) (a : Nat) : F.absv a = if F.value a = .nan then F.canonNan else a % 2 ^ (F.width - 1) := by
  simp only [FFmt.absv, FFmt.isNan_iff, FFmt.signBit]

/-- Inverting the top bit adds its weight, modulo the range. -/
theorem xor_two_pow_eq_add_mod {a n : Nat} (ha : a < 2 ^ (n + 1)) : a ^^^ 2 ^ n = (a + 2 ^ n) % 2 ^ (n + 1) := by
  refine Nat.eq_of_testBit_eq fun i => ?_
  rw [Nat.testBit_xor, Nat.testBit_mod_two_pow, Nat.add_comm a, Nat.testBit_two_pow]
  rcases Nat.lt_trichotomy i n with lt | rfl | gt
  · rw [Nat.testBit_two_pow_add_gt lt, decide_eq_false (by omega : ¬ n = i), decide_eq_true (by omega : i < n + 1), Bool.xor_false,
      Bool.true_and]
  · rw [Nat.testBit_two_pow_add_eq, decide_eq_true rfl, decide_eq_true (Nat.lt_succ_self i), Bool.xor_true, Bool.true_and]
  · rw [Nat.testBit_lt_two_pow (ha.trans_le (Nat.pow_le_pow_right two_pos gt)), decide_eq_false (by omega : ¬ n = i),
      decide_eq_false (by omega : ¬ i < n + 1), Bool.xor_false, Bool.false_and]

theorem FFmt.negv_eq (F : FFmt) {a : Nat} (ha : a < 2 ^ F.width) :
    F.negv a = if F.value a = .nan then F.canonNan else (a + 2 ^ (F.width - 1)) % 2 ^ F.width := by
  have top : a ^^^ F.signBit = (a + 2 ^ (F.width - 1)) % 2 ^ F.width := by
    cases F <;> exact xor_two_pow_eq_add_mod ha
  simp only [FFmt.negv, FFmt.isNan_iff, top]

end Sys2Proof

namespace Sys2Proof.Machine

/-! ### Results element by element -/

theorem errs_of_wf {i : Instr} {f : Info} (h : WellFormed i) (hi : i.info = some f) : f.errs = [] := by
  have fields : f.rsv = [] ∧ f.fieldErrs = [] := by simpa [WellFormed, Instr.wf, hi] using h
  obtain ⟨-, fields⟩ := fields
  rw [Info.fieldErrs, List.append_eq_nil_iff, List.append_eq_nil_iff] at fields
  exact fields.1.2

theorem mem_of_tyErr {t : Ty} {l : List Ty} (h : tyErr t l = []) : t ∈ l := by
  rwa [tyErr, need_nil, decide_eq_true_eq] at h

/-- The scalar and packed floating-point types. -/
theorem tyFX_cases {t : Ty} (h : t ∈ tyFX) : t = .f32 ∨ (t = .f16 ∨ t = .bf16) ∨ (t = .f16x2 ∨ t = .bf16x2) := by
  simpa [tyFX, or_assoc] using h

/-- A function on the elements of a type: the whole of an f32, the low half, or both halves of a packed pair (R129, R159). -/
def onElements (t : Ty) (op : Nat → Nat → Nat → Nat) (a b c : Nat) : Nat :=
  if t = .f32 then op a b c
  else if t = .f16 ∨ t = .bf16 then op (a % 2 ^ 16) (b % 2 ^ 16) (c % 2 ^ 16)
  else op (a % 2 ^ 16) (b % 2 ^ 16) (c % 2 ^ 16) + 2 ^ 16 * op (a / 2 ^ 16) (b / 2 ^ 16) (c / 2 ^ 16)

theorem perElem_eq {t : Ty} (ht : t ∈ tyFX) (op : Nat → Nat → Nat → Nat) {a b c : Nat} (ha : a < 2 ^ 32) (hb : b < 2 ^ 32)
    (hc : c < 2 ^ 32) : perElem t op a b c = onElements t op a b c := by
  have upper : ∀ {n : Nat}, n < 2 ^ 32 → bitsOf n 31 16 = n / 2 ^ 16 := fun {n} h => by
    rw [bitsOf, Nat.mod_eq_of_lt (by omega)]
  rcases tyFX_cases ht with rfl | (rfl | rfl) | (rfl | rfl)
  · change op (a % 2 ^ 32) (b % 2 ^ 32) (c % 2 ^ 32) = op a b c
    rw [Nat.mod_eq_of_lt ha, Nat.mod_eq_of_lt hb, Nat.mod_eq_of_lt hc]
  · rfl
  · rfl
  · simp [perElem, onElements, Ty.packed, upper ha, upper hb, upper hc]
  · simp [perElem, onElements, Ty.packed, upper ha, upper hb, upper hc]

/-- Functions that agree on a first operand of the element's width agree on the elements. -/
theorem onElements_congr {t : Ty} (ht : t ∈ tyFX) {op op' : Nat → Nat → Nat → Nat}
    (h : ∀ a b c, a < 2 ^ (tyFmt t).width → op a b c = op' a b c) {a : Nat} (ha : a < 2 ^ 32) (b c : Nat) :
    onElements t op a b c = onElements t op' a b c := by
  have low : a % 2 ^ 16 < 2 ^ 16 := Nat.mod_lt _ (by norm_num)
  have high : a / 2 ^ 16 < 2 ^ 16 := by omega
  rcases tyFX_cases ht with rfl | (rfl | rfl) | (rfl | rfl)
  · exact h a b c ha
  · exact h _ _ _ low
  · exact h _ _ _ low
  · exact congrArg₂ (fun p q => p + 2 ^ 16 * q) (h _ _ _ low) (h _ _ _ high)
  · exact congrArg₂ (fun p q => p + 2 ^ 16 * q) (h _ _ _ low) (h _ _ _ high)

/-- A well-formed word of the basic forms gives its function on the elements. -/
theorem floatWord_gives {i : Instr} {s : State} {f : V3} {x : Issue} {m m' : Option (Nat × Nat)} {op op' : Nat → Nat → Nat → Nat}
    {n : Nat} {d a b c : OpK} {errs : List Nat} (hi : i.info = some (v3Info n false f d a b c (tyErr f.ty tyFX ++ errs)))
    (he : exec i s = float3 i s f m op) (hm : f.ty ∈ tyFX → m = m')
    (hop : ∀ a b c, a < 2 ^ (tyFmt f.ty).width → op a b c = op' a b c) (hw : WellFormed i) (hx : issueOf i s {} = some x) :
    Gives i s x m' f.d f.ty 32 (fun l => onElements f.ty op' (x.src f.a 32 l) (x.src f.b 32 l) (x.src f.c 32 l)) := by
  have ht : f.ty ∈ tyFX := mem_of_tyErr (List.append_eq_nil_iff.mp (errs_of_wf hw hi)).1
  have bound : ∀ o l, x.src o 32 l < 2 ^ 32 := fun o l => x.src_lt o 32 l (.inl rfl)
  rw [← hm ht]
  exact gives_congr (float3_gives hx he) fun l =>
    (perElem_eq ht op (bound ..) (bound ..) (bound ..)).trans (onElements_congr ht hop (bound ..) _ _)

/-- Settles O16: each word runs its function on the elements of its type; the functions round once, or choose by comparison, or change
the sign bit. -/
theorem floatArithmetic : Obligations.FloatArithmetic := by
  unfold Obligations.FloatArithmetic
  refine ⟨fun F m => ⟨F.canonNan_bits, rfl, F.value_rnd_inf m, F.rnd_fin m⟩, fun F a b => ⟨F.minMax_nan_nan, F.minMax_nan_left,
    F.minMax_nan_right, F.minMax_below, F.minMax_above, F.minMax_self⟩, fun f s x => ?_⟩
  intro F m meter el
  have hm : f.ty ∈ tyFX → fmaMeter f.ty = meter := fun ht => by
    dsimp only [meter]
    rcases tyFX_cases ht with h | (h | h) | (h | h) <;> rw [h] <;> rfl
  have el_eq : el = fun op l => onElements f.ty op (x.src f.a 32 l) (x.src f.b 32 l) (x.src f.c 32 l) := rfl
  clear_value el meter
  subst el_eq
  refine ⟨?_, ?_, ?_, ?_, ?_, ?_, ?_, ?_⟩
  · exact floatWord_gives rfl (exec_fadd f s) hm fun _ _ _ _ => rfl
  · exact floatWord_gives rfl (exec_fsub f s) hm fun _ _ _ _ => rfl
  · exact floatWord_gives rfl (exec_fmul f s) hm fun _ _ _ _ => rfl
  · exact floatWord_gives rfl (exec_ffma f s) hm fun _ _ _ _ => rfl
  · exact floatWord_gives rfl (exec_fmin f s) (fun _ => rfl) fun _ _ _ _ => rfl
  · exact floatWord_gives rfl (exec_fmax f s) (fun _ => rfl) fun _ _ _ _ => rfl
  · exact floatWord_gives rfl (exec_fabs f s) (fun _ => rfl) fun a _ _ _ => F.absv_eq a
  · exact floatWord_gives rfl (exec_fneg f s) (fun _ => rfl) fun _ _ _ ha => F.negv_eq ha

end Sys2Proof.Machine
end

section
/-! The rounding helper (R50) as rationals: rounding to an integer, the grid of a binade, and the magnitudes that bits hold in order. -/

namespace Sys2Proof

/-! ### Rounding to an integer -/

/-- The integer y is nearest to x, and even in a tie. -/
def NearestEven (x : ℚ) (y : Int) : Prop := |x - y| ≤ 1 / 2 ∧ (|x - y| = 1 / 2 → 2 ∣ y)

theorem NearestEven.neg {x : ℚ} {y : Int} (h : NearestEven x y) : NearestEven (-x) (-y) := by
  rwa [NearestEven, Int.cast_neg, neg_sub_neg, abs_sub_comm, Int.dvd_neg]

theorem NearestEven.unique {x : ℚ} {y z : Int} (hy : NearestEven x y) (hz : NearestEven x z) : y = z := by
  wlog hle : y ≤ z generalizing y z
  · exact (this hz hy (by omega)).symm
  obtain ⟨hy, ey⟩ := hy
  obtain ⟨hz, ez⟩ := hz
  obtain ⟨ylo, yhi⟩ := abs_le.mp hy
  obtain ⟨zlo, zhi⟩ := abs_le.mp hz
  have close : z < y + 2 := (Int.cast_lt (R := ℚ)).mp (by push_cast; linarith)
  obtain h | h : z = y ∨ z = y + 1 := by omega
  · exact h.symm
  · have up : x - y = 1 / 2 := by
      rw [h] at zlo zhi
      push_cast at zlo zhi
      linarith
    have down : x - z = -(1 / 2) := by
      rw [h]
      push_cast
      linarith
    have even_y := ey (by rw [up]; norm_num)
    have even_z := ez (by rw [down]; norm_num)
    omega

theorem roundsTo_int (m : RMode) (z : Int) : roundsTo m z 1 z := by
  simp [roundsTo]

theorem roundsTo_nearest {x : ℚ} {y : Int} (h : NearestEven x y) : roundsTo .rn x 1 y := by
  by_cases hx : x = ⌊x⌋
  · have same : y = ⌊x⌋ := h.unique (by rw [NearestEven, ← hx, sub_self, abs_zero]; norm_num)
    rw [hx, same]
    simpa using roundsTo_int .rn ⌊x⌋
  · obtain ⟨near, even⟩ := h
    obtain ⟨lo, hi⟩ := abs_le.mp near
    have floor_lt : (⌊x⌋ : ℚ) < x := lt_of_le_of_ne (Int.floor_le x) (Ne.symm hx)
    have lt_floor := Int.lt_floor_add_one x
    have neighbour : (y : ℚ) = ⌊x⌋ ∨ (y : ℚ) = ⌊x⌋ + 1 := by
      have above : ⌊x⌋ < y + 1 := (Int.cast_lt (R := ℚ)).mp (by push_cast; linarith)
      have below : y < ⌊x⌋ + 2 := (Int.cast_lt (R := ℚ)).mp (by push_cast; linarith)
      exact_mod_cast (by omega : y = ⌊x⌋ ∨ y = ⌊x⌋ + 1)
    simp only [roundsTo, div_one, mul_one, if_neg hx]
    split
    · next low =>
      refine neighbour.resolve_right fun hy => ?_
      rw [hy] at hi lo
      linarith
    · next low =>
      split
      · next high =>
        refine neighbour.resolve_left fun hy => ?_
        rw [hy] at hi lo
        linarith
      · next high =>
        refine ⟨neighbour, ?_⟩
        have tie : |x - y| = 1 / 2 := by
          rcases neighbour with hy | hy
          · rw [hy, abs_of_pos (by linarith)]
            linarith
          · rw [hy, abs_of_neg (by linarith)]
            linarith
        obtain ⟨k, rfl⟩ := even tie
        exact ⟨k, by push_cast; rfl⟩

theorem ceil_of_ne_floor {x : ℚ} (h : x ≠ ⌊x⌋) : ⌈x⌉ = ⌊x⌋ + 1 := by
  rw [Int.ceil_eq_iff]
  push_cast
  exact ⟨by linarith [lt_of_le_of_ne (Int.floor_le x) (Ne.symm h)], (Int.lt_floor_add_one x).le⟩

theorem roundsTo_floor (x : ℚ) : roundsTo .rd x 1 ⌊x⌋ := by
  simp [roundsTo]

theorem roundsTo_ceil (x : ℚ) : roundsTo .ru x 1 ⌈x⌉ := by
  by_cases hx : x = ⌊x⌋
  · rw [hx]
    simpa using roundsTo_int .ru ⌊x⌋
  · simp only [roundsTo, div_one, mul_one, if_neg hx, ceil_of_ne_floor hx, Int.cast_add, Int.cast_one]

theorem roundsTo_trunc_nonneg {x : ℚ} (h : 0 ≤ x) : roundsTo .rz x 1 ⌊x⌋ := by
  by_cases hx : x = ⌊x⌋
  · rw [hx]
    simpa using roundsTo_int .rz ⌊x⌋
  · have pos : 0 < x := h.lt_of_ne fun zero => hx (by rw [← zero, Int.floor_zero, Int.cast_zero])
    simp only [roundsTo, div_one, mul_one, if_neg hx, if_pos pos]

theorem roundsTo_trunc_nonpos {x : ℚ} (h : x ≤ 0) : roundsTo .rz x 1 ⌈x⌉ := by
  by_cases hx : x = ⌊x⌋
  · rw [hx]
    simpa using roundsTo_int .rz ⌊x⌋
  · simp only [roundsTo, div_one, mul_one, if_neg hx, if_neg h.not_gt, ceil_of_ne_floor hx, Int.cast_add, Int.cast_one]

/-! ### The helper for integers -/

section
variable {a b : Nat} (hb : 0 < b)
include hb

theorem ceil_div_of_mod (h : a % b ≠ 0) : ⌈(a : ℚ) / b⌉ = ⌊(a : ℚ) / b⌋ + 1 := by
  refine ceil_of_ne_floor fun eq => h (Nat.mod_eq_zero_of_dvd (Dvd.intro_left (a / b) ?_))
  rw [Rat.floor_natCast_div_natCast, div_eq_iff (Nat.cast_pos.mpr hb).ne'] at eq
  exact_mod_cast eq.symm

theorem div_eq_of_mod (h : a % b = 0) : (a : ℚ) / b = (a / b : Nat) := by
  rw [Nat.cast_div (Nat.dvd_of_mod_eq_zero h) (Nat.cast_pos.mpr hb).ne']

theorem roundQuot_directed (neg : Bool) : (roundQuot .rz neg a b : Int) = ⌊(a : ℚ) / b⌋ ∧
    (roundQuot .rd neg a b : Int) = (if neg then ⌈(a : ℚ) / b⌉ else ⌊(a : ℚ) / b⌋) ∧
    (roundQuot .ru neg a b : Int) = (if neg then ⌊(a : ℚ) / b⌋ else ⌈(a : ℚ) / b⌉) := by
  by_cases h : a % b = 0
  · simp only [roundQuot, if_pos h, div_eq_of_mod hb h, Int.floor_natCast, Int.ceil_natCast, ite_self, and_self]
  · simp only [roundQuot, if_neg h, ceil_div_of_mod hb h, Rat.floor_natCast_div_natCast]
    cases neg <;> simp

theorem roundQuot_nearest (neg : Bool) : NearestEven ((a : ℚ) / b) (roundQuot .rn neg a b) := by
  have hbq : (0 : ℚ) < b := Nat.cast_pos.mpr hb
  have split : (a : ℚ) / b = (a / b : Nat) + ((a % b : Nat) : ℚ) / b := by
    rw [add_div' _ _ _ hbq.ne']
    congr 1
    exact_mod_cast (Nat.div_add_mod' a b).symm
  have nonneg : (0 : ℚ) ≤ ((a % b : Nat) : ℚ) / b := by positivity
  have low : ((a % b : Nat) : ℚ) / b < 1 / 2 ↔ 2 * (a % b) < b := by
    rw [div_lt_div_iff₀ hbq two_pos, one_mul, mul_comm]
    exact_mod_cast Iff.rfl
  have high : 1 / 2 < ((a % b : Nat) : ℚ) / b ↔ b < 2 * (a % b) := by
    rw [div_lt_div_iff₀ two_pos hbq, one_mul, mul_comm]
    exact_mod_cast Iff.rfl
  rcases Nat.lt_trichotomy (2 * (a % b)) b with lt | eq | gt
  · have down : roundQuot .rn neg a b = a / b := by simp [roundQuot, lt.not_gt, lt.ne]
    have small := low.mpr lt
    rw [NearestEven, down, split, Int.cast_natCast, add_sub_cancel_left, abs_of_nonneg nonneg]
    exact ⟨small.le, fun tie => absurd tie small.ne⟩
  · have half : ((a % b : Nat) : ℚ) / b = 1 / 2 := by
      rw [div_eq_div_iff hbq.ne' two_ne_zero, one_mul, mul_comm]
      exact_mod_cast eq
    rcases Nat.mod_two_eq_zero_or_one (a / b) with even | odd
    · have down : roundQuot .rn neg a b = a / b := by simp [roundQuot, eq, even]
      rw [NearestEven, down, split, Int.cast_natCast, add_sub_cancel_left, half]
      exact ⟨by norm_num, fun _ => by omega⟩
    · have up : roundQuot .rn neg a b = a / b + 1 := by simp [roundQuot, eq, odd, show a % b ≠ 0 by omega]
      have diff : (a : ℚ) / b - (a / b + 1 : Nat) = -(1 / 2) := by
        rw [split, half]
        push_cast
        ring
      rw [NearestEven, up, Int.cast_natCast, diff]
      exact ⟨by norm_num, fun _ => by omega⟩
  · have up : roundQuot .rn neg a b = a / b + 1 := by simp [roundQuot, gt, show a % b ≠ 0 by omega]
    have large := high.mpr gt
    have frac : (((a % b : Nat) : ℚ) / b) < 1 := (div_lt_one hbq).mpr (by exact_mod_cast Nat.mod_lt a hb)
    have diff : (a : ℚ) / b - (a / b + 1 : Nat) = -(1 - ((a % b : Nat) : ℚ) / b) := by
      rw [split]
      push_cast
      ring
    rw [NearestEven, up, Int.cast_natCast, diff, abs_neg, abs_of_pos (by linarith)]
    exact ⟨by linarith, fun tie => by linarith⟩

/-- The helper for integers rounds a quotient of either sign to the quantum 1. -/
theorem roundsTo_rndIntQ (m : RMode) (neg : Bool) :
    roundsTo m ((if neg then -1 else 1) * ((a : ℚ) / b)) 1 (rndIntQ m neg a b : Int) := by
  have nonneg : (0 : ℚ) ≤ (a : ℚ) / b := by positivity
  obtain ⟨rz, rd, ru⟩ := roundQuot_directed (a := a) hb neg
  have near := roundQuot_nearest (a := a) hb neg
  unfold rndIntQ
  cases neg
  · simp only [Bool.false_eq_true, if_false, one_mul] at rd ru ⊢
    cases m with
    | rn => exact roundsTo_nearest near
    | rz => exact rz ▸ roundsTo_trunc_nonneg nonneg
    | rd => exact rd ▸ roundsTo_floor _
    | ru => exact ru ▸ roundsTo_ceil _
  · simp only [if_true, neg_one_mul] at rd ru ⊢
    cases m with
    | rn => exact roundsTo_nearest near.neg
    | rz =>
      rw [rz, ← Int.ceil_neg]
      exact roundsTo_trunc_nonpos (neg_nonpos.mpr nonneg)
    | rd =>
      rw [rd, ← Int.floor_neg]
      exact roundsTo_floor _
    | ru =>
      rw [ru, ← Int.ceil_neg]
      exact roundsTo_ceil _

end

end Sys2Proof
end

section
/-! The rounding helper of a format (R46, R50): its grid in a binade, the bits that hold a multiple of the quantum, and overflow. -/

namespace Sys2Proof

/-! ### The grid -/

theorem roundsTo_scale {m : RMode} {x q y : ℚ} (hq : 0 < q) (h : roundsTo m (x / q) 1 y) : roundsTo m x q (y * q) := by
  obtain ⟨z, rfl⟩ : ∃ z, x = z * q := ⟨x / q, (div_mul_cancel₀ x hq.ne').symm⟩
  have next : (⌊z⌋ : ℚ) * q + q = (⌊z⌋ + 1) * q := by ring
  simp only [roundsTo, mul_div_cancel_right₀ z hq.ne', div_one, mul_one, next, ← sub_mul, mul_lt_mul_iff_left₀ hq,
    mul_left_inj' hq.ne', mul_pos_iff_of_pos_right hq] at h ⊢
  split at h
  · next hz => rwa [if_pos hz]
  · next hz =>
    rw [if_neg hz]
    cases m with
    | rn => exact h
    | rz =>
      dsimp only at h ⊢
      rw [h, ite_mul]
    | rd => exact h
    | ru => exact h

theorem two_zpow_eq_div_rat (e : Int) : (2 : ℚ) ^ e = ((2 ^ e.toNat : Nat) : ℚ) / ((2 ^ (-e).toNat : Nat) : ℚ) := by
  have real := two_zpow_eq_div e
  rw [← Rat.cast_inj (α := ℝ)]
  push_cast at real ⊢
  exact real

theorem ilog2Q_bounds {a d : Nat} (ha : 0 < a) (hd : 0 < d) :
    (2 : ℚ) ^ ilog2Q a d ≤ a / d ∧ (a : ℚ) / d < (2 : ℚ) ^ (ilog2Q a d + 1) := by
  have real := ilog2Q_spec ha hd
  rw [← Rat.cast_le (K := ℝ), ← Rat.cast_lt (K := ℝ)]
  push_cast
  exact real

theorem intLog_div {a d : Nat} (ha : 0 < a) (hd : 0 < d) : Int.log 2 ((a : ℚ) / d) = ilog2Q a d := by
  have pos : (0 : ℚ) < a / d := div_pos (Nat.cast_pos.mpr ha) (Nat.cast_pos.mpr hd)
  have lo := Int.zpow_log_le_self one_lt_two pos
  have hi := Int.lt_zpow_succ_log_self one_lt_two ((a : ℚ) / d)
  rw [← Rat.cast_le (K := ℝ)] at lo
  rw [← Rat.cast_lt (K := ℝ)] at hi
  push_cast at lo hi
  exact (ilog2Q_eq ha hd lo hi).symm

/-! ### Magnitudes of bits -/

/-- The magnitude that the exponent and fraction bits b stand for (R46). -/
def FFmt.magnitude (F : FFmt) (b : Nat) : ℚ :=
  (b % 2 ^ F.fbits + (if b / 2 ^ F.fbits = 0 then 0 else 2 ^ F.fbits) : Nat) * 2 ^ ((max (b / 2 ^ F.fbits) 1 : Nat) - F.bias - F.fbits)

theorem FFmt.magnitude_eq (F : FFmt) {r : Nat} (hr : r < 2 ^ F.fbits) (q : Nat) : F.magnitude (r + q * 2 ^ F.fbits) =
    (r + if q = 0 then 0 else 2 ^ F.fbits) * 2 ^ ((max q 1 : Nat) - F.bias - F.fbits) := by
  rw [FFmt.magnitude, Nat.add_mul_div_right _ _ (by positivity), Nat.div_eq_of_lt hr, Nat.zero_add, Nat.add_mul_mod_self_right,
    Nat.mod_eq_of_lt hr]
  push_cast
  rfl

/-- Twice as many units are as many of the next binade. -/
theorem zpow_next_binade (P : ℚ) (n : Nat) (c d : Int) : P * 2 ^ ((n + 1 : Nat) - c - d) = (P + P) * 2 ^ ((n : Int) - c - d) := by
  rw [Nat.cast_succ, add_sub_right_comm, add_sub_right_comm, zpow_add_one₀ two_ne_zero]
  ring

theorem FFmt.magnitude_lt_succ (F : FFmt) (b : Nat) : F.magnitude b < F.magnitude (b + 1) := by
  have hr : b % 2 ^ F.fbits < 2 ^ F.fbits := Nat.mod_lt _ (by positivity)
  have parts : b = b % 2 ^ F.fbits + b / 2 ^ F.fbits * 2 ^ F.fbits := (Nat.mod_add_div' b _).symm
  generalize b % 2 ^ F.fbits = r at hr parts
  generalize b / 2 ^ F.fbits = q at parts
  subst parts
  rw [F.magnitude_eq hr]
  rcases Nat.lt_or_eq_of_le hr with lt | last
  · rw [Nat.add_right_comm, F.magnitude_eq lt]
    push_cast
    gcongr
    linarith
  · have carry : r + q * 2 ^ F.fbits + 1 = 0 + (q + 1) * 2 ^ F.fbits := by
      rw [Nat.succ_mul, ← last]
      omega
    have last : (r : ℚ) + 1 = 2 ^ F.fbits := by exact_mod_cast last
    have unit : (0 : ℚ) < 2 ^ ((max q 1 : Nat) - F.bias - F.fbits) := zpow_pos two_pos _
    rw [carry, F.magnitude_eq (by positivity), if_neg (Nat.succ_ne_zero q), Nat.cast_zero, zero_add, ← last]
    rcases Nat.eq_zero_or_pos q with rfl | hq
    · rw [if_pos rfl, add_zero]
      exact mul_lt_mul_of_pos_right (lt_add_one _) unit
    · rw [max_eq_left hq] at unit ⊢
      rw [if_neg hq.ne', max_eq_left (by omega : 1 ≤ q + 1), zpow_next_binade]
      exact mul_lt_mul_of_pos_right (by linarith) unit

/-- Bits are in the order of their magnitudes. -/
theorem FFmt.magnitude_strictMono (F : FFmt) : StrictMono F.magnitude := strictMono_nat_of_lt_succ F.magnitude_lt_succ

/-- The bits of k quanta of a binade hold their magnitude; k may reach into the next binade, and be small in the first. -/
theorem FFmt.magnitude_add_mul (F : FFmt) {k E : Nat} (hi : k ≤ 2 ^ (F.fbits + 1)) (lo : k < 2 ^ F.fbits → E = 0) :
    F.magnitude (k + E * 2 ^ F.fbits) = k * 2 ^ ((E + 1 : Nat) - F.bias - F.fbits) := by
  rw [Nat.pow_succ] at hi
  rcases Nat.lt_or_ge k (2 ^ F.fbits) with small | large
  · rw [lo small, F.magnitude_eq small, if_pos rfl, add_zero]
    rfl
  · obtain ⟨r, rfl⟩ := Nat.exists_eq_add_of_le large
    rcases Nat.lt_or_ge r (2 ^ F.fbits) with lt | ge
    · have parts : 2 ^ F.fbits + r + E * 2 ^ F.fbits = r + (E + 1) * 2 ^ F.fbits := by ring
      rw [parts, F.magnitude_eq lt, if_neg (Nat.succ_ne_zero E), max_eq_left (by omega : 1 ≤ E + 1), Nat.cast_add, add_comm (r : ℚ)]
      push_cast
      rfl
    · obtain rfl : r = 2 ^ F.fbits := by omega
      have parts : 2 ^ F.fbits + 2 ^ F.fbits + E * 2 ^ F.fbits = 0 + (E + 1 + 1) * 2 ^ F.fbits := by ring
      rw [parts, F.magnitude_eq (by positivity), if_neg (Nat.succ_ne_zero _), max_eq_left (by omega : 1 ≤ E + 1 + 1), Nat.cast_zero,
        zero_add, zpow_next_binade]
      push_cast
      rfl

/-! ### Signed bits -/

/-- The sign bit of a sign. -/
def FFmt.signOf (F : FFmt) (neg : Bool) : Nat := if neg then F.signBit else 0

theorem FFmt.fields_signOf_add (F : FFmt) (neg : Bool) {b : Nat} (hb : b < F.infBits) :
    bitOf (F.signOf neg + b) (F.width - 1) = neg ∧ bitsOf (F.signOf neg + b) (F.width - 2) F.fbits = b / 2 ^ F.fbits ∧
      (F.signOf neg + b) % 2 ^ F.fbits = b % 2 ^ F.fbits := by
  cases F <;> cases neg <;> simp [FFmt.infBits, FFmt.signOf, FFmt.signBit, FFmt.width, FFmt.fbits, FFmt.ebits, bitOf, bitsOf] at hb ⊢ <;>
    omega

theorem FFmt.value_signOf_add (F : FFmt) (neg : Bool) {b : Nat} (hb : b < F.infBits) : ∃ k e,
    F.value (F.signOf neg + b) = .fin neg k e ∧ (k : ℚ) * 2 ^ e = F.magnitude b := by
  obtain ⟨sign, exponent, fraction⟩ := F.fields_signOf_add neg hb
  have finite : b / 2 ^ F.fbits ≠ 2 ^ F.ebits - 1 := (Nat.div_lt_of_lt_mul (by rwa [Nat.mul_comm])).ne
  unfold FFmt.value FFmt.magnitude
  dsimp only
  rw [sign, exponent, fraction, if_neg finite]
  split
  · next zero => exact ⟨_, _, rfl, by rw [zero]; rfl⟩
  · next pos =>
    rw [max_eq_left (Nat.pos_of_ne_zero pos)]
    exact ⟨_, _, rfl, rfl⟩

theorem FFmt.largestBits_lt (F : FFmt) : F.largestBits < F.infBits ∧ F.largestBits + 1 = F.infBits := by
  cases F <;> decide

theorem FFmt.toRat_largest (F : FFmt) : (F.value F.largestBits).toRat = F.magnitude F.largestBits := by
  obtain ⟨k, e, value, size⟩ := F.value_signOf_add false F.largestBits_lt.1
  rw [FFmt.signOf, if_neg Bool.false_ne_true, Nat.zero_add] at value
  rw [value, ← size, FVal.toRat, if_neg Bool.false_ne_true, one_mul]

/-- What an overflow gives, by mode and sign (R50). -/
theorem FFmt.value_overflow (F : FFmt) (m : RMode) (neg : Bool) :
    F.value (F.signOf neg + if overflowsToInf m neg then F.infBits else F.largestBits) =
      match m with
      | .rn => .inf neg
      | .rz => if neg then (F.value F.largestBits).neg else F.value F.largestBits
      | .rd => if neg then .inf true else F.value F.largestBits
      | .ru => if neg then (F.value F.largestBits).neg else .inf false := by
  cases F <;> cases m <;> cases neg <;> decide

/-! ### The helper -/

/-- What the helper makes of k quanta of the binade e. -/
def FFmt.pack (F : FFmt) (m : RMode) (neg : Bool) (e : Int) (k : Nat) : Nat :=
  let bits := k + (e + F.bias - 1).toNat * 2 ^ F.fbits
  F.signOf neg + if bits ≥ F.infBits then (if overflowsToInf m neg then F.infBits else F.largestBits) else bits

theorem rndQ_eq_pack (F : FFmt) (m : RMode) (neg : Bool) {a d : Nat} (ha : 0 < a) (hd : 0 < d) : ∃ A B : Nat, 0 < B ∧
    (A : ℚ) / B = a / d / 2 ^ (max (ilog2Q a d) F.emin - F.fbits) ∧
    rndQ F m neg a d = F.pack m neg (max (ilog2Q a d) F.emin) (roundQuot m neg A B) := by
  generalize he : max (ilog2Q a d) F.emin = e
  refine ⟨a * 2 ^ (-(e - (F.fbits : Int))).toNat, d * 2 ^ (e - (F.fbits : Int)).toNat, by positivity, ?_, ?_⟩
  · rw [two_zpow_eq_div_rat, div_div_eq_mul_div, Nat.cast_mul, Nat.cast_mul]
    field_simp
  · simp only [rndQ, if_neg ha.ne', he, FFmt.pack, FFmt.signOf, add_ite]
    have quot : (if e - F.fbits ≥ 0 then roundQuot m neg a (d * 2 ^ (e - F.fbits).toNat)
        else roundQuot m neg (a * 2 ^ (-(e - (F.fbits : Int))).toNat) d) =
        roundQuot m neg (a * 2 ^ (-(e - (F.fbits : Int))).toNat) (d * 2 ^ (e - (F.fbits : Int)).toNat) := by
      split
      · next h => rw [Int.toNat_eq_zero.mpr (by omega : -(e - (F.fbits : Int)) ≤ 0), pow_zero, Nat.mul_one]
      · next h => rw [Int.toNat_eq_zero.mpr (by omega : e - (F.fbits : Int) ≤ 0), pow_zero, Nat.mul_one]
    rw [quot]

theorem roundQuot_bounds (m : RMode) (neg : Bool) (a b : Nat) : a / b ≤ roundQuot m neg a b ∧ roundQuot m neg a b ≤ a / b + 1 := by
  have either : roundQuot m neg a b = a / b ∨ roundQuot m neg a b = a / b + 1 := by
    unfold roundQuot
    dsimp only
    split
    · exact .inl rfl
    · cases m with
      | rn => exact (ite_eq_or_eq _ _ _).symm
      | rz => exact .inl rfl
      | rd => exact (ite_eq_or_eq _ _ _).symm
      | ru => exact ite_eq_or_eq _ _ _
  omega

/-- The number of quanta of a quotient, and that it is small in the lowest binade alone. -/
theorem quanta_bounds (F : FFmt) (m : RMode) (neg : Bool) {a d A B : Nat} (ha : 0 < a) (hd : 0 < d) (hB : 0 < B)
    (hAB : (A : ℚ) / B = a / d / 2 ^ (max (ilog2Q a d) F.emin - F.fbits)) :
    roundQuot m neg A B ≤ 2 ^ (F.fbits + 1) ∧
      (roundQuot m neg A B < 2 ^ F.fbits → (max (ilog2Q a d) F.emin + F.bias - 1).toNat = 0) := by
  obtain ⟨binade, next⟩ := ilog2Q_bounds ha hd
  obtain ⟨lower, upper⟩ := roundQuot_bounds m neg A B
  have hBq : (0 : ℚ) < B := Nat.cast_pos.mpr hB
  generalize he : max (ilog2Q a d) F.emin = e at hAB ⊢
  have unit : (0 : ℚ) < 2 ^ (e - F.fbits) := zpow_pos two_pos _
  constructor
  · have below : (A : ℚ) / B < 2 ^ (F.fbits + 1) := by
      rw [hAB, div_lt_iff₀ unit]
      calc (a : ℚ) / d < 2 ^ (ilog2Q a d + 1) := next
        _ ≤ 2 ^ (e + 1) := zpow_le_zpow_right₀ one_le_two (by omega)
        _ = 2 ^ (F.fbits + 1) * 2 ^ (e - F.fbits) := by
          rw [← zpow_natCast, ← zpow_add₀ two_ne_zero]
          congr 1
          push_cast
          ring
    rw [div_lt_iff₀ hBq] at below
    have := Nat.div_lt_of_lt_mul (show A < B * 2 ^ (F.fbits + 1) by rw [Nat.mul_comm]; exact_mod_cast below)
    omega
  · intro small
    by_contra high
    have top : e = ilog2Q a d := by
      have : F.emin = 1 - F.bias := rfl
      omega
    have above : 2 ^ F.fbits ≤ (A : ℚ) / B := by
      rw [hAB, le_div_iff₀ unit, ← zpow_natCast, ← zpow_add₀ two_ne_zero, add_sub_cancel, top]
      exact binade
    rw [le_div_iff₀ hBq] at above
    have := (Nat.le_div_iff_mul_le hB).mpr (show 2 ^ F.fbits * B ≤ A by exact_mod_cast above)
    omega

/-- The bits of k quanta of the binade e. -/
theorem FFmt.magnitude_bits (F : FFmt) {e : Int} (he : F.emin ≤ e) {k : Nat} (hi : k ≤ 2 ^ (F.fbits + 1))
    (lo : k < 2 ^ F.fbits → (e + F.bias - 1).toNat = 0) :
    F.magnitude (k + (e + F.bias - 1).toNat * 2 ^ F.fbits) = k * 2 ^ (e - F.fbits) := by
  have : F.emin = 1 - F.bias := rfl
  rw [F.magnitude_add_mul hi lo]
  congr 2
  omega

/-- The helper of a format rounds a quotient to the quantum of its binade; what it gives holds that, or is what an overflow gives. -/
theorem FFmt.rndQ_spec (F : FFmt) (m : RMode) (neg : Bool) {a d : Nat} (ha : 0 < a) (hd : 0 < d) : ∃ y : ℚ,
    roundsTo m ((if neg then -1 else 1) * ((a : ℚ) / d)) (2 ^ (max (ilog2Q a d) F.emin - F.fbits)) y ∧
    (|y| ≤ (F.value F.largestBits).toRat → ∃ k e, F.value (rndQ F m neg a d) = .fin neg k e ∧ (FVal.fin neg k e).toRat = y) ∧
    ((F.value F.largestBits).toRat < |y| →
      F.value (rndQ F m neg a d) = F.value (F.signOf neg + if overflowsToInf m neg then F.infBits else F.largestBits)) := by
  obtain ⟨A, B, hB, hAB, packed⟩ := rndQ_eq_pack F m neg ha hd
  obtain ⟨hi, lo⟩ := quanta_bounds F m neg ha hd hB hAB
  have held := F.magnitude_bits (le_max_right (ilog2Q a d) F.emin) hi lo
  have rounded := roundsTo_rndIntQ (a := A) hB m neg
  rw [packed, F.toRat_largest, FFmt.pack]
  generalize max (ilog2Q a d) F.emin = e at *
  generalize hk : roundQuot m neg A B = k at *
  generalize k + (e + F.bias - 1).toNat * 2 ^ F.fbits = bits at *
  have unit : (0 : ℚ) < 2 ^ (e - F.fbits) := zpow_pos two_pos _
  have signed : ((rndIntQ m neg A B : Int) : ℚ) * 2 ^ (e - F.fbits) = (if neg then -1 else 1) * F.magnitude bits := by
    rw [held, rndIntQ, hk]
    cases neg <;> simp
  have size : |((rndIntQ m neg A B : Int) : ℚ) * 2 ^ (e - F.fbits)| = F.magnitude bits := by
    have nonneg : 0 ≤ F.magnitude bits := held ▸ by positivity
    rw [signed, abs_mul, abs_of_nonneg nonneg]
    cases neg <;> simp
  obtain ⟨finite, next⟩ := F.largestBits_lt
  refine ⟨_, roundsTo_scale unit (by rwa [mul_div_assoc, ← hAB]), fun fits => ?_, fun beyond => ?_⟩
  · rw [size, F.magnitude_strictMono.le_iff_le] at fits
    obtain ⟨k', e', value, eq⟩ := F.value_signOf_add neg (fits.trans_lt finite)
    rw [if_neg (by omega)]
    refine ⟨k', e', value, ?_⟩
    rw [signed, ← eq, FVal.toRat, mul_assoc]
  · rw [size, F.magnitude_strictMono.lt_iff_lt] at beyond
    rw [if_pos (by omega)]

end Sys2Proof

namespace Sys2Proof.Machine

/-- Settles O14: the number of quanta is rounded as an integer, its bits are in the order of the magnitudes that they hold, and so an
overflow is told by the bits. -/
theorem roundingHelper : Obligations.RoundingHelper := by
  unfold Obligations.RoundingHelper
  refine ⟨fun m neg den => ⟨?_, fun F => ?_⟩, fun m neg num den hn hd => ?_⟩
  · simp [rndIntQ, roundQuot]
  · rw [rndQ_zero]
    exact ⟨F.emin - F.fbits, by cases F <;> cases neg <;> decide⟩
  · intro x
    have size : |x| = (num : ℚ) / den := by
      have nonneg : (0 : ℚ) ≤ (num : ℚ) / den := by positivity
      simp only [x, abs_mul, abs_of_nonneg nonneg]
      cases neg <;> simp
    refine ⟨fun F => ?_, roundsTo_rndIntQ hd m neg⟩
    obtain ⟨y, rounded, fits, beyond⟩ := F.rndQ_spec m neg hn hd
    refine ⟨y, ?_, fits, fun h => (beyond h).trans (F.value_overflow m neg)⟩
    rw [size, intLog_div hn hd]
    have quantum : max (ilog2Q num den) F.emin - F.prec + 1 = max (ilog2Q num den) F.emin - F.fbits := by
      have : (F.prec : Int) = F.fbits + 1 := rfl
      omega
    rwa [quantum]

end Sys2Proof.Machine
end

section
/-! Digits and narrow sums (R57, R58): the radix-4 digits of an element add up to it, and a short block adds up with no clamp. -/

namespace Sys2Proof

/-! ### Radix-4 digits -/

/-- A bit as a number. -/
def bitVal (x i : Nat) : Int := if bitOf x i then 1 else 0

/-- Digit p of the two's complement bits x. -/
def boothDigit (x p : Nat) : Int := -2 * bitVal x (2 * p + 1) + bitVal x (2 * p) + (if p = 0 then 0 else bitVal x (2 * p - 1))

theorem booth4_eq (a : Int) (n : Nat) : booth4 a n = (List.range n).map (boothDigit (wrapNat (2 * n) a)) := rfl

theorem zip_booth4 (a : Int) (n : Nat) :
    (booth4 a n).zip (List.range n) = (List.range n).map (fun p => (boothDigit (wrapNat (2 * n) a) p, p)) := by
  have zipped := List.zip_map' (f := boothDigit (wrapNat (2 * n) a)) (g := id) (l := List.range n)
  rwa [List.map_id] at zipped

theorem bitVal_eq (x i : Nat) : bitVal x i = (x / 2 ^ i % 2 : Nat) := by
  unfold bitVal bitOf
  rcases Nat.mod_two_eq_zero_or_one (x / 2 ^ i) with h | h <;> rw [h] <;> rfl

theorem boothDigit_bounds (x p : Nat) : -2 ≤ boothDigit x p ∧ boothDigit x p ≤ 2 := by
  have bit : ∀ i, 0 ≤ bitVal x i ∧ bitVal x i ≤ 1 := fun i => by
    rw [bitVal_eq]
    omega
  have low := bit (2 * p)
  have high := bit (2 * p + 1)
  have below := bit (2 * p - 1)
  unfold boothDigit
  split <;> omega

/-- The digits below n add up to the low 2n bits, less the weight that bit 2n - 1 is owed by the next digit. -/
theorem sum_boothDigit (x : Nat) : ∀ n : Nat, ((List.range n).map (fun p => boothDigit x p * 4 ^ p)).sum +
    (if n = 0 then 0 else bitVal x (2 * n - 1)) * 4 ^ n = (x % 4 ^ n : Nat)
  | 0 => by simp [Nat.mod_one]
  | n + 1 => by
    have ih := sum_boothDigit x n
    have digit : (x % 4 ^ (n + 1) : Nat) = ((x % 4 ^ n : Nat) : Int) + (bitVal x (2 * n) + 2 * bitVal x (2 * n + 1)) * 4 ^ n := by
      rw [bitVal_eq, bitVal_eq, Nat.mod_pow_succ, pow_succ 2 (2 * n), ← Nat.div_div_eq_div_mul, pow_mul, show 2 ^ 2 = 4 from rfl,
        show x / 4 ^ n % 4 = x / 4 ^ n % 2 + 2 * (x / 4 ^ n / 2 % 2) by omega]
      push_cast
      ring
    rw [List.range_succ, List.map_append, List.sum_append, digit, ← ih, if_neg (Nat.succ_ne_zero n),
      show 2 * (n + 1) - 1 = 2 * n + 1 by omega, List.map_singleton, List.sum_singleton, boothDigit]
    ring

/-- The value of a residue, less the range where its top bit is set. -/
theorem emod_sub_top {a H : Int} (pos : 0 < H) (lo : -H ≤ a) (hi : a < H) : a % (2 * H) - a % (2 * H) / H % 2 * (2 * H) = a := by
  rcases le_or_gt 0 a with nonneg | neg
  · rw [Int.emod_eq_of_lt nonneg (by omega), Int.ediv_eq_zero_of_lt nonneg hi]
    omega
  · have shifted : a % (2 * H) = a + 2 * H := by
      rw [← Int.add_emod_right, Int.emod_eq_of_lt (by omega) (by omega)]
    have quotient : (a + 2 * H) / H = 1 := by
      rw [Int.ediv_eq_iff_of_pos pos]
      constructor <;> omega
    rw [shifted, quotient]
    omega

theorem sum_booth4 {a : Int} {n : Nat} (hn : 0 < n) (lo : -2 ^ (2 * n - 1) ≤ a) (hi : a < 2 ^ (2 * n - 1)) :
    (((booth4 a n).zip (List.range n)).map (fun e => e.1 * 4 ^ e.2)).sum = a := by
  have half : (4 : Int) ^ n = 2 * 2 ^ (2 * n - 1) := by
    rw [← pow_succ', show 2 * n - 1 + 1 = 2 * n by omega, pow_mul]
    rfl
  have pos : (0 : Int) < 2 ^ (2 * n - 1) := by positivity
  have wrapped : (wrapNat (2 * n) a : Int) = a % (2 * 2 ^ (2 * n - 1)) := by
    have width : ((2 ^ (2 * n) : Nat) : Int) = 2 * 2 ^ (2 * n - 1) := by
      rw [← half, pow_mul]
      push_cast
      rfl
    rw [wrapNat, width, Int.toNat_of_nonneg (Int.emod_nonneg _ (by omega))]
  have digits : (((booth4 a n).zip (List.range n)).map (fun e => e.1 * 4 ^ e.2)).sum =
      ((List.range n).map (fun p => boothDigit (wrapNat (2 * n) a) p * 4 ^ p)).sum := by
    rw [zip_booth4, List.map_map]
    rfl
  have total := sum_boothDigit (wrapNat (2 * n) a) n
  rw [if_neg hn.ne', bitVal_eq] at total
  push_cast at total
  rw [half, wrapped, Int.emod_emod_of_dvd _ (dvd_refl _)] at total
  rw [digits, eq_sub_of_add_eq total, emod_sub_top pos lo hi]

theorem booth4_bounds (a : Int) (n : Nat) : ∀ d ∈ booth4 a n, -2 ≤ d ∧ d ≤ 2 := by
  rw [booth4_eq]
  intro d hd
  obtain ⟨p, -, rfl⟩ := List.mem_map.mp hd
  exact boothDigit_bounds _ p

end Sys2Proof

namespace Sys2Proof.Machine

/-! ### Narrow sums -/

theorem mxaNarrow_succ (planes : Nat) (a : Nat → Int × Bool) (b : Nat → Int) (lo n : Nat) :
    let old := mxaNarrow planes a b lo n
    let new := ((booth4 (a (lo + n)).1 planes).zip (List.range planes)).foldl (addPlane (b (lo + n))) (old.1, old.2.1)
    mxaNarrow planes a b lo (n + 1) = (new.1, new.2, old.2.2 || (a (lo + n)).2) := by
  simp only [mxaNarrow, List.range_succ, List.foldl_append, List.foldl_cons, List.foldl_nil]

theorem addPlane_eq (v : Int) : addPlane v = fun (st d : Int × Nat) =>
    let y := st.1 + d.1 * v * 4 ^ d.2
    if 2 ^ 23 - 1 < y then (2 ^ 23 - 1, st.2 + 1) else if y < -(2 ^ 23 - 1) then (-(2 ^ 23 - 1), st.2 + 1) else (y, st.2) := by
  funext st d
  have unit : ((4 ^ d.2 : Nat) : Int) = 4 ^ d.2 := by push_cast; rfl
  rw [addPlane, sat24, unit]
  generalize st.1 + d.1 * v * 4 ^ d.2 = y
  norm_num only [gt_iff_lt]
  by_cases high : 8388607 < y
  · rw [if_pos high, if_pos high]
    rfl
  · rw [if_neg high, if_neg high]
    by_cases low : y < -8388607
    · rw [if_pos low, if_pos low]
      rfl
    · rw [if_neg low, if_neg low]
      rfl

/-- Planes whose weights cannot take the sum out of 24 bits are added with no clamp. -/
theorem foldl_addPlane_exact (v : Int) (clamps : Nat) : ∀ (ds : List (Int × Nat)) (sum : Int),
    |sum| + (ds.map (fun d => |d.1 * v * 4 ^ d.2|)).sum < 2 ^ 23 →
      ds.foldl (addPlane v) (sum, clamps) = (sum + (ds.map (fun d => d.1 * v * 4 ^ d.2)).sum, clamps)
  | [], sum, _ => by simp
  | d :: ds, sum, h => by
    rw [List.map_cons, List.sum_cons] at h
    have rest : 0 ≤ (ds.map (fun d => |d.1 * v * 4 ^ d.2|)).sum := List.sum_nonneg fun w hw => by
      obtain ⟨d, -, rfl⟩ := List.mem_map.mp hw
      exact abs_nonneg _
    have near := abs_add_le sum (d.1 * v * 4 ^ d.2)
    have inside : |sum + d.1 * v * 4 ^ d.2| < 2 ^ 23 := by omega
    obtain ⟨lo, hi⟩ := abs_lt.mp inside
    have plane : addPlane v (sum, clamps) d = (sum + d.1 * v * 4 ^ d.2, clamps) := by
      simp only [addPlane_eq]
      rw [if_neg (by omega), if_neg (by omega)]
    rw [List.foldl_cons, plane, foldl_addPlane_exact v clamps ds _ (by omega), List.map_cons, List.sum_cons, add_assoc]

/-- The weights of the planes of one product. -/
theorem sum_abs_planes_le (x : Nat) {v : Int} (hv : |v| ≤ 128) (n : Nat) :
    ((List.range n).map (fun p => |boothDigit x p * v * 4 ^ p|)).sum ≤ (4 ^ n - 1) * 128 := by
  induction n with
  | zero => simp
  | succ n ih =>
    obtain ⟨lo, hi⟩ := boothDigit_bounds x n
    have plane : |boothDigit x n * v * 4 ^ n| ≤ 2 * 128 * 4 ^ n := by
      rw [abs_mul, abs_mul, abs_of_pos (show (0 : Int) < 4 ^ n by positivity)]
      have digit : |boothDigit x n| ≤ 2 := abs_le.mpr ⟨lo, hi⟩
      gcongr
    have pos : (0 : Int) < 4 ^ n := by positivity
    rw [List.range_succ, List.map_append, List.sum_append, List.map_singleton, List.sum_singleton, pow_succ]
    omega

/-- One product is added with no clamp where it stays inside 24 bits. -/
theorem foldl_addPlane_product {planes : Nat} (hp : 0 < planes) {a v sum : Int} (clamps : Nat) (lo : -2 ^ (2 * planes - 1) ≤ a)
    (hi : a < 2 ^ (2 * planes - 1)) (hv : |v| ≤ 128) (h : |sum| + 4 ^ planes * 128 < 2 ^ 23) :
    ((booth4 a planes).zip (List.range planes)).foldl (addPlane v) (sum, clamps) = (sum + a * v, clamps) := by
  have weights := sum_abs_planes_le (wrapNat (2 * planes) a) hv planes
  have product : (((booth4 a planes).zip (List.range planes)).map (fun d => d.1 * v * 4 ^ d.2)).sum = a * v := by
    calc (((booth4 a planes).zip (List.range planes)).map (fun d => d.1 * v * 4 ^ d.2)).sum
        = (((booth4 a planes).zip (List.range planes)).map (fun d => d.1 * 4 ^ d.2 * v)).sum := by simp only [mul_right_comm]
      _ = a * v := by rw [List.sum_map_mul_right, sum_booth4 hp lo hi]
  rw [foldl_addPlane_exact v clamps, product]
  rw [zip_booth4, List.map_map]
  change |sum| + ((List.range planes).map (fun p => |boothDigit (wrapNat (2 * planes) a) p * v * 4 ^ p|)).sum < 2 ^ 23
  omega

/-- A block that is short enough for its element type adds up with no clamp. -/
theorem mxaNarrow_exact {planes : Nat} (hp : 0 < planes) {lo : Nat} {a : Nat → Int × Bool} {b : Nat → Int}
    (ha : ∀ k, -2 ^ (2 * planes - 1) ≤ (a k).1 ∧ (a k).1 < 2 ^ (2 * planes - 1)) (hb : ∀ k, -128 ≤ b k ∧ b k ≤ 127) :
    ∀ n : Nat, n * 4 ^ planes * 128 < 2 ^ 23 →
      mxaNarrow planes a b lo n = (((List.range n).map (fun i => (a (lo + i)).1 * b (lo + i))).sum, 0,
        (List.range n).any (fun i => (a (lo + i)).2)) ∧
      |((List.range n).map (fun i => (a (lo + i)).1 * b (lo + i))).sum| ≤ n * 4 ^ planes * 128
  | 0, _ => ⟨rfl, by simp⟩
  | n + 1, h => by
    have room : (n : Int) * 4 ^ planes * 128 + 4 ^ planes * 128 < 2 ^ 23 := by
      have : (((n + 1) * 4 ^ planes * 128 : Nat) : Int) < 2 ^ 23 := by exact_mod_cast h
      push_cast at this
      linarith
    obtain ⟨value, size⟩ := mxaNarrow_exact hp ha hb n (by nlinarith)
    obtain ⟨alo, ahi⟩ := ha (lo + n)
    have hv : |b (lo + n)| ≤ 128 := abs_le.mpr ⟨(hb _).1, (hb _).2.trans (by norm_num)⟩
    have step := foldl_addPlane_product hp 0 alo ahi hv (lt_of_le_of_lt (by gcongr) room)
    have product : |(a (lo + n)).1 * b (lo + n)| ≤ 4 ^ planes * 128 := by
      rw [abs_mul]
      have double : (2 : Int) ^ (2 * planes - 1) ≤ 4 ^ planes := by
        rw [show (4 : Int) = 2 ^ 2 from rfl, ← pow_mul]
        exact pow_le_pow_right₀ one_le_two (by omega)
      have : |(a (lo + n)).1| ≤ 4 ^ planes := abs_le.mpr ⟨by omega, by omega⟩
      gcongr
    refine ⟨?_, ?_⟩
    · rw [mxaNarrow_succ, value]
      simp only [step, List.range_succ, List.map_append, List.sum_append, List.map_singleton, List.sum_singleton, List.any_append,
        List.any_cons, List.any_nil, Bool.or_false]
    · rw [List.range_succ, List.map_append, List.sum_append, List.map_singleton, List.sum_singleton]
      refine (abs_add_le _ _).trans ?_
      push_cast
      linarith

end Sys2Proof.Machine
end

section
/-! Promotion of narrow sums and the entries of an MXA (R59 to R61, R238). -/

namespace Sys2Proof

/-! ### Promotion -/

theorem rndIntFin_nearest (s : Bool) (k : Nat) (e : Int) : NearestEven (FVal.fin s k e).toRat (rndIntFin .rn s k e) := by
  unfold rndIntFin
  split
  · next h =>
    have whole : (FVal.fin s k e).toRat = ((if s then -((k * 2 ^ e.toNat : Nat) : Int) else ((k * 2 ^ e.toNat : Nat) : Int) : Int) : ℚ) := by
      rw [FVal.toRat, two_zpow_eq_div_rat, Int.toNat_eq_zero.mpr (by omega : -e ≤ 0)]
      cases s <;> simp
    rw [NearestEven, whole, sub_self, abs_zero]
    exact ⟨by norm_num, fun h => absurd h (by norm_num)⟩
  · next h =>
    have near := roundQuot_nearest (a := k) (b := 2 ^ (-e).toNat) (by positivity) s
    have value : (FVal.fin s k e).toRat = (if s then -1 else 1) * ((k : ℚ) / (2 ^ (-e).toNat : Nat)) := by
      rw [FVal.toRat, two_zpow_eq_div_rat, Int.toNat_eq_zero.mpr (by omega : e ≤ 0), mul_assoc, pow_zero, Nat.cast_one, one_div,
        div_eq_mul_inv]
    rw [value, rndIntQ]
    cases s
    · rw [if_neg Bool.false_ne_true, if_neg Bool.false_ne_true, one_mul]
      exact near
    · rw [if_pos rfl, if_pos rfl, neg_one_mul]
      exact near.neg

theorem promoteSig_nearest (k u : Int) (e : Nat) : NearestEven (k * 2 ^ u / 2 ^ ((e : Int) - 128)) (promoteSig k u e) := by
  have near := rndIntFin_nearest (decide (k < 0)) k.natAbs (u - ((e : Int) - 128))
  rwa [FVal.toRat_signed, zpow_sub₀ two_ne_zero, ← mul_div_assoc] at near

/-- The rounded significand fits an entry (R61). -/
def sigFits (m : Int) : Prop := -2 ^ 55 ≤ m ∧ m ≤ 2 ^ 55 - 1

/-- An exponent is taken where the rounded significand fits. -/
theorem nearest_fits_iff (k u : Int) (e : Nat) (m : Int) :
    (|(k : ℚ) * 2 ^ u / 2 ^ ((e : Int) - 128) - m| ≤ 1 / 2 ∧ (|(k : ℚ) * 2 ^ u / 2 ^ ((e : Int) - 128) - m| = 1 / 2 → m % 2 = 0) ∧
      -2 ^ 55 ≤ m ∧ m ≤ 2 ^ 55 - 1) ↔ m = promoteSig k u e ∧ sigFits (promoteSig k u e) := by
  have near := promoteSig_nearest k u e
  constructor
  · rintro ⟨le, even, range⟩
    have same : m = promoteSig k u e := NearestEven.unique ⟨le, fun tie => Int.dvd_of_emod_eq_zero (even tie)⟩ near
    exact ⟨same, same ▸ range⟩
  · rintro ⟨rfl, range⟩
    exact ⟨near.1, fun tie => Int.emod_eq_zero_of_dvd (near.2 tie), range⟩

/-- The common unit of an entry and a narrow sum. -/
def promoteUnit (acc : Word64) (b : Int) : Int := min ((accExp acc : Int) - 128) b

/-- The exact sum of an entry and a narrow sum, in their common unit. -/
def promoteSum (acc : Word64) (p b : Int) : Int :=
  accSig acc * ((2 ^ ((accExp acc : Int) - 128 - promoteUnit acc b).toNat : Nat) : Int) + p * ((2 ^ (b - promoteUnit acc b).toNat : Nat) : Int)

theorem promoteSum_exact (acc : Word64) (p b : Int) :
    (promoteSum acc p b : ℚ) * 2 ^ promoteUnit acc b = accSig acc * 2 ^ ((accExp acc : Int) - 128) + p * 2 ^ b := by
  have scale : ∀ v : Int, promoteUnit acc b ≤ v → (2 : ℚ) ^ v = 2 ^ (v - promoteUnit acc b).toNat * 2 ^ promoteUnit acc b := fun v hv => by
    rw [← zpow_natCast, Int.toNat_of_nonneg (by omega), ← zpow_add₀ two_ne_zero, sub_add_cancel]
  rw [scale _ (min_le_left _ b), scale b (min_le_right _ b), promoteSum]
  push_cast
  ring

theorem promote_poisoned {acc : Word64} (h : acc.toNat % 256 = 255) (p b : Int) : promote acc p b = (acc, false) := by
  rw [promote, if_pos]
  exact beq_iff_eq.mpr h

/-- The smallest exponent under which the rounded sum fits is taken; where there is none, the entry saturates. -/
theorem promote_cases {acc : Word64} (h : acc.toNat % 256 ≠ 255) (p b : Int) :
    (∃ e < 255, sigFits (promoteSig (promoteSum acc p b) (promoteUnit acc b) e) ∧
      (∀ e' < e, ¬ sigFits (promoteSig (promoteSum acc p b) (promoteUnit acc b) e')) ∧
      promote acc p b = (accEntry (promoteSig (promoteSum acc p b) (promoteUnit acc b) e) e, false)) ∨
    ((∀ e < 255, ¬ sigFits (promoteSig (promoteSum acc p b) (promoteUnit acc b) e)) ∧
      promote acc p b = (accEntry (if 0 < promoteSum acc p b then 2 ^ 55 - 1 else -(2 ^ 55 - 1)) 254, true)) := by
  have fits : ∀ m : Int, (decide (-((2 ^ 55 : Nat) : Int) ≤ m) && decide (m ≤ ((2 ^ 55 : Nat) : Int) - 1)) = true ↔ sigFits m := fun m => by
    rw [Bool.and_eq_true, decide_eq_true_eq, decide_eq_true_eq]
    rfl
  have not_of : ∀ {x : Bool}, (!x) = true → ¬ x = true := by decide
  have live : ¬ accPoisoned acc = true := fun poisoned => h (beq_iff_eq.mp poisoned)
  rw [promote, if_neg live]
  dsimp only
  split
  · next e he =>
    rw [List.find?_range_eq_some] at he
    obtain ⟨good, mem, least⟩ := he
    refine .inl ⟨e, List.mem_range.mp mem, (fits _).mp good, fun e' he' good => ?_, rfl⟩
    exact not_of (least e' he') ((fits _).mpr good)
  · next he =>
    rw [List.find?_range_eq_none] at he
    exact .inr ⟨fun e lt good => not_of (he e lt) ((fits _).mpr good), rfl⟩

end Sys2Proof

namespace Sys2Proof.Machine

/-! ### Elements -/

theorem narrowElem_t2 (by_ : Nat → Nat) (c : Nat) : narrowElem .t2 by_ c =
    (if by_ (c / 4) / 4 ^ (c % 4) % 4 = 1 then 1 else if by_ (c / 4) / 4 ^ (c % 4) % 4 = 3 then -1 else 0,
      by_ (c / 4) / 4 ^ (c % 4) % 4 == 2) := by
  have code : by_ (c / 4) / 4 ^ (c % 4) % 4 < 4 := Nat.mod_lt _ (by norm_num)
  rw [narrowElem, trit]
  generalize by_ (c / 4) / 4 ^ (c % 4) % 4 = two at code ⊢
  interval_cases two <;> rfl

theorem narrowElem_t5b (by_ : Nat → Nat) (c : Nat) : narrowElem .t5b by_ c =
    (if 243 ≤ by_ (c / 5) then 0 else if by_ (c / 5) / 3 ^ (c % 5) % 3 = 1 then 1 else if by_ (c / 5) / 3 ^ (c % 5) % 3 = 2 then -1 else 0,
      decide (243 ≤ by_ (c / 5))) := by
  have code : by_ (c / 5) / 3 ^ (c % 5) % 3 < 3 := Nat.mod_lt _ (by norm_num)
  rw [narrowElem, t5bDigit]
  generalize by_ (c / 5) / 3 ^ (c % 5) % 3 = digit at code ⊢
  by_cases bad : 243 ≤ by_ (c / 5)
  · rw [if_pos bad, if_pos bad, decide_eq_true bad]
  · rw [if_neg bad, if_neg bad, decide_eq_false bad]
    interval_cases digit <;> rfl

/-! ### An entry, block by block -/

/-- The block blk of an entry over K elements, added to what the blocks before it gave. -/
def mxaBlockStep (sl : Slot) (k : Nat) (a : Nat → Int × Bool) (b : Nat → Int) (ea eb : Nat → Nat) (st : Word64 × Nat × Nat) (blk : Nat) :
    Word64 × Nat × Nat :=
  let r := mxaPromote st.1 (mxaNarrow (NTy.planes sl.atype) a b (blk * sl.interval) (min sl.interval (k - blk * sl.interval))) (ea blk) (eb blk)
  (r.1, st.2.1 + r.2.1, st.2.2 ||| r.2.2)

section
variable (sl : Slot) {k : Nat} (a : Nat → Int × Bool) (b : Nat → Int) (ea eb : Nat → Nat) (acc : Word64)

theorem mxaEntry_eq (k : Nat) : mxaEntry sl k a b ea eb acc =
    (List.range ((k + sl.interval - 1) / sl.interval)).foldl (mxaBlockStep sl k a b ea eb) (acc, 0, 0) := rfl

theorem mxaEntry_zero : mxaEntry sl 0 a b ea eb acc = (acc, 0, 0) := by
  have none : (0 + sl.interval - 1) / sl.interval = 0 := by
    rcases Nat.eq_zero_or_pos sl.interval with h | h
    · rw [h]
    · exact Nat.div_eq_of_lt (by omega)
  rw [mxaEntry_eq, none]
  rfl

/-- The blocks of an entry: those before the last are whole. -/
theorem mxaEntry_last (hk : 0 < k) (hl : 0 < sl.interval) :
    let blk := (k - 1) / sl.interval
    let st := mxaEntry sl (blk * sl.interval) a b ea eb acc
    let r := mxaPromote st.1 (mxaNarrow (NTy.planes sl.atype) a b (blk * sl.interval) (k - blk * sl.interval)) (ea blk) (eb blk)
    mxaEntry sl k a b ea eb acc = (r.1, st.2.1 + r.2.1, st.2.2 ||| r.2.2) := by
  intro blk st r
  have start : blk * sl.interval ≤ k - 1 := Nat.div_mul_le_self _ _
  have stop : k - 1 < (blk + 1) * sl.interval := by
    rw [Nat.succ_mul]
    exact Nat.lt_div_mul_add hl
  have whole : (blk * sl.interval + sl.interval - 1) / sl.interval = blk := by
    refine Nat.div_eq_of_lt_le (by omega) ?_
    rw [Nat.succ_mul]
    omega
  have all : (k + sl.interval - 1) / sl.interval = blk + 1 := by
    rw [show k + sl.interval - 1 = k - 1 + sl.interval by omega, Nat.add_div_right _ hl]
  have full : ∀ j < blk, min sl.interval (blk * sl.interval - j * sl.interval) = min sl.interval (k - j * sl.interval) := fun j hj => by
    have : (j + 1) * sl.interval ≤ blk * sl.interval := Nat.mul_le_mul_right _ hj
    rw [Nat.succ_mul] at this
    omega
  have before : (List.range blk).foldl (mxaBlockStep sl k a b ea eb) (acc, 0, 0) = st := by
    rw [show st = _ from mxaEntry_eq sl a b ea eb acc _, whole]
    refine List.foldl_ext _ _ _ fun x j hj => ?_
    rw [mxaBlockStep, mxaBlockStep, full j (List.mem_range.mp hj)]
  have rest : min sl.interval (k - blk * sl.interval) = k - blk * sl.interval := by
    rw [Nat.succ_mul] at stop
    omega
  rw [mxaEntry_eq, all, List.range_succ, List.foldl_append, before, List.foldl_cons, List.foldl_nil, mxaBlockStep, rest]

end

/-- The STATUS bits of a block. -/
def blockStatus (sat bad poison : Bool) : Nat := (if sat then 2 else 0) ||| (if bad then 4 else 0) ||| if poison then 8 else 0

theorem blockStatus_clear (clamps : Nat) (bad : Bool) :
    (if clamps = 0 then 0 else 2) ||| (if bad then 4 else 0) = blockStatus (clamps != 0) bad false := by
  rw [blockStatus, if_neg Bool.false_ne_true, Nat.or_zero]
  cases clamps <;> rfl

theorem blockStatus_or_two (sat bad : Bool) : blockStatus sat bad false ||| 2 = blockStatus true bad false := by
  cases sat <;> cases bad <;> decide

section
variable (acc : Word64) (n : Int × Nat × Bool) {ea eb : Nat}

theorem mxaPromote_poison (h : ea = 255 ∨ eb = 255) : mxaPromote acc n ea eb =
    (BitVec.ofNat 64 (acc.toNat / 256 * 256 + 255), n.2.1, blockStatus (n.2.1 != 0) n.2.2 true) := by
  rw [mxaPromote, if_pos h]
  obtain ⟨sum, clamps, bad⟩ := n
  cases clamps <;> rfl

theorem mxaPromote_zero (ha : ea ≠ 255) (hb : eb ≠ 255) (h : ea = 0 ∨ eb = 0) : mxaPromote acc n ea eb =
    (acc, n.2.1, blockStatus (n.2.1 != 0) n.2.2 false) := by
  rw [mxaPromote, if_neg (not_or.mpr ⟨ha, hb⟩), if_pos h, blockStatus_clear]

theorem mxaPromote_adds (ha : ea ≠ 255) (hb : eb ≠ 255) (ha0 : ea ≠ 0) (hb0 : eb ≠ 0) :
    let r := promote acc n.1 ((ea : Int) - 127 + ((eb : Int) - 127))
    mxaPromote acc n ea eb = (r.1, n.2.1 + (if r.2 then 1 else 0), blockStatus (n.2.1 != 0 || r.2) n.2.2 false) := by
  rw [mxaPromote, if_neg (not_or.mpr ⟨ha, hb⟩), if_neg (not_or.mpr ⟨ha0, hb0⟩), blockStatus_clear, blockStatus_or_two]
  dsimp only
  generalize promote acc n.1 ((ea : Int) - 127 + ((eb : Int) - 127)) = r
  obtain ⟨entry, sat⟩ := r
  cases sat <;> simp

end

/-! ### The entries of a rectangle -/

theorem mem_mxaCompute (t : Team) (sl : Slot) (b : Nat) (img simg : List (List Byte)) (e : Nat × Word64 × Nat × Nat) :
    e ∈ mxaCompute t sl b img simg ↔ ∃ i j, i < mxM b ∧ j < mxN b ∧
      let r := mxaEntry sl (mxK b)
        (fun k => narrowElem sl.atype (fun k => if b.testBit 1 then byteAt img i k else (t.tile (bitsOf b 11 8)).rowByteAt i k) (mxAk b + k))
        (fun k => (narrowElem sl.btype ((t.tile (bitsOf b 15 12)).rowByteAt (mxBk b + k)) j).1)
        (fun blk => if NTy.scaled sl.atype then
          (if b.testBit 1 then byteAt simg i (mxAk b / sl.interval + blk) else (t.tile (bitsOf b 19 16)).rowByteAt i (mxAk b / sl.interval + blk))
          else 127)
        (fun blk => if NTy.scaled sl.atype then (t.tile (bitsOf b 23 20)).rowByteAt (mxBk b / sl.interval + blk) j else 127)
        (if b.testBit 2 then 0 else t.accGet (mxReg b) (mxRow b + i) (mxCol b + j))
      e = (accKey (mxReg b) (mxRow b + i) (mxCol b + j), r.1, r.2.1, r.2.2) := by
  simp only [mxaCompute, List.mem_flatMap, List.mem_map, List.mem_range, bitOf_eq_testBit]
  constructor
  · rintro ⟨i, hi, j, hj, rfl⟩
    exact ⟨i, j, hi, hj, rfl⟩
  · rintro ⟨i, j, hi, hj, rfl⟩
    exact ⟨i, hi, j, hj, rfl⟩

/-! ### The rows of the images -/

/-- The rows of an image: its span row by row, and the bytes of each (R238). -/
def State.imageRows (s : State) (c : Cmd) (base pitch n : Nat) : Nat → Except Miss (List (List Byte))
  | 0 => .ok []
  | m + 1 => do
    let rows ← s.imageRows c base pitch n m
    let sp ← s.cmdSpan c false .engRead (base + m * pitch) n
    .ok (rows ++ [s.cmdRead c sp.locs])

theorem State.imageRows_ok {s : State} {c : Cmd} {base pitch n : Nat} : ∀ {m : Nat} {rows : List (List Byte)},
    s.imageRows c base pitch n m = .ok rows → rows.length = m ∧ ∀ i < m, ∃ sp,
      s.cmdSpan c false .engRead (base + i * pitch) n = .ok sp ∧ rows[i]? = some (s.cmdRead c sp.locs)
  | 0, rows, h => by
    cases h
    exact ⟨rfl, fun i hi => absurd hi (Nat.not_lt_zero i)⟩
  | m + 1, rows, h => by
    rw [State.imageRows] at h
    cases hr : s.imageRows c base pitch n m with
    | error e => rw [hr] at h; cases h
    | ok before =>
      obtain ⟨length, each⟩ := State.imageRows_ok hr
      cases hs : s.cmdSpan c false .engRead (base + m * pitch) n with
      | error e => rw [hr, hs] at h; cases h
      | ok sp =>
        rw [hr, hs] at h
        cases h
        refine ⟨by rw [List.length_append, length]; rfl, fun i hi => ?_⟩
        rcases Nat.lt_succ_iff_lt_or_eq.mp hi with lt | rfl
        · obtain ⟨spi, span, row⟩ := each i lt
          exact ⟨spi, span, by rw [List.getElem?_append_left (by omega), row]⟩
        · exact ⟨sp, hs, by rw [← length, List.getElem?_concat_length]⟩

/-- A fold that goes on over the rows while their spans are there reads them all. -/
theorem State.foldl_imageRows {s : State} {c : Cmd} (base pitch n : Nat) {m : Nat}
    {g : Except Miss (List (List Byte)) → Nat → Except Miss (List (List Byte))} (failed : ∀ e i, g (.error e) i = .error e)
    (misses : ∀ l i e, s.cmdSpan c false .engRead (base + i * pitch) n = .error e → g (.ok l) i = .error e)
    (reads : ∀ l i sp, s.cmdSpan c false .engRead (base + i * pitch) n = .ok sp → g (.ok l) i = .ok (l ++ [s.cmdRead c sp.locs])) :
    (List.range m).foldl g (.ok []) = s.imageRows c base pitch n m := by
  induction m with
  | zero => rfl
  | succ m ih =>
    rw [List.range_succ, List.foldl_append, ih, State.imageRows, List.foldl_cons, List.foldl_nil]
    cases s.imageRows c base pitch n m with
    | error e => exact failed e m
    | ok l =>
      cases hs : s.cmdSpan c false .engRead (base + m * pitch) n with
      | error e => exact misses l m e hs
      | ok sp => exact reads l m sp hs

theorem State.mxaImages_eq (s : State) (c : Cmd) (sl : Slot) (h : c.block.testBit 1 = true) : s.mxaImages c sl = (do
    let img ← s.imageRows c (bitsOf c.block 191 128) (bitsOf c.block 287 256) (rowBytes (ntyEtype sl.atype) (mxAk c.block + mxK c.block))
      (mxM c.block)
    if NTy.scaled sl.atype then
      let simg ← s.imageRows c (bitsOf c.block 255 192) (bitsOf c.block 319 288)
        (mxAk c.block / sl.interval + (mxK c.block + sl.interval - 1) / sl.interval) (mxM c.block)
      .ok (img, simg)
    else .ok (img, [])) := by
  have image : ¬ (!bitOf c.block 1) = true := by rw [bitOf_eq_testBit, h]; decide
  unfold State.mxaImages
  dsimp only
  rw [if_neg image, State.foldl_imageRows (s := s) (c := c) (bitsOf c.block 191 128) (bitsOf c.block 287 256)
    (rowBytes (ntyEtype sl.atype) (mxAk c.block + mxK c.block)) (fun _ _ => rfl) (fun _ _ _ hs => by rw [hs]) (fun _ _ _ hs => by rw [hs]),
    State.foldl_imageRows (s := s) (c := c) (bitsOf c.block 255 192) (bitsOf c.block 319 288)
    (mxAk c.block / sl.interval + (mxK c.block + sl.interval - 1) / sl.interval) (fun _ _ => rfl) (fun _ _ _ hs => by rw [hs])
    (fun _ _ _ hs => by rw [hs])]
  cases s.imageRows c (bitsOf c.block 191 128) (bitsOf c.block 287 256) (rowBytes (ntyEtype sl.atype) (mxAk c.block + mxK c.block))
      (mxM c.block) with
  | error e => rfl
  | ok img =>
    cases NTy.scaled sl.atype
    · rfl
    · cases s.imageRows c (bitsOf c.block 255 192) (bitsOf c.block 319 288)
          (mxAk c.block / sl.interval + (mxK c.block + sl.interval - 1) / sl.interval) (mxM c.block) with
      | error e => rfl
      | ok simg => rfl

/-- What is read where both images are there. -/
theorem State.rows_of_mxaImages {s : State} {c : Cmd} {sl : Slot} {img simg : List (List Byte)} (h : s.mxaImages c sl = .ok (img, simg))
    (himg : c.block.testBit 1 = true) :
    s.imageRows c (bitsOf c.block 191 128) (bitsOf c.block 287 256) (rowBytes (ntyEtype sl.atype) (mxAk c.block + mxK c.block))
      (mxM c.block) = .ok img ∧
    (NTy.scaled sl.atype = true → s.imageRows c (bitsOf c.block 255 192) (bitsOf c.block 319 288)
      (mxAk c.block / sl.interval + (mxK c.block + sl.interval - 1) / sl.interval) (mxM c.block) = .ok simg) := by
  rw [s.mxaImages_eq c sl himg] at h
  cases hr : s.imageRows c (bitsOf c.block 191 128) (bitsOf c.block 287 256) (rowBytes (ntyEtype sl.atype) (mxAk c.block + mxK c.block))
      (mxM c.block) with
  | error e =>
    rw [hr] at h
    cases h
  | ok rows =>
    rw [hr] at h
    cases scaled : NTy.scaled sl.atype with
    | false =>
      rw [scaled] at h
      cases h
      exact ⟨rfl, fun scaled => absurd scaled Bool.false_ne_true⟩
    | true =>
      rw [scaled] at h
      cases hs : s.imageRows c (bitsOf c.block 255 192) (bitsOf c.block 319 288)
          (mxAk c.block / sl.interval + (mxK c.block + sl.interval - 1) / sl.interval) (mxM c.block) with
      | error e =>
        rw [hs] at h
        cases h
      | ok scales =>
        rw [hs] at h
        cases h
        exact ⟨rfl, fun _ => rfl⟩

/-- Settles O44: the digits of an element and the planes of a short block are added exactly; the exponent of a promotion is searched from
the smallest on, and its rounding is the nearest; the blocks of an entry before the last are whole; and an MXA makes each entry of its
rectangle from the rows of its tiles or images. -/
theorem matrixArithmetic : Obligations.MatrixArithmetic := by
  unfold Obligations.MatrixArithmetic
  refine ⟨fun a n hn lo hi => ⟨sum_booth4 hn lo hi, booth4_bounds a n⟩,
    fun planes lo n a b hp ha hb room => (mxaNarrow_exact hp ha hb n room).1, fun planes lo n a b => ⟨rfl, ?_⟩, fun acc p b => ?_,
    fun sl k a b ea eb acc => ⟨mxaEntry_zero sl a b ea eb acc, fun hk hl => ?_⟩,
    fun by_ c => ⟨narrowElem_t2 by_ c, narrowElem_t5b by_ c, ?_, ?_⟩, fun t sl b img simg e => ?_,
    fun s c sl img simg i h himg hi => ?_⟩
  · rw [mxaNarrow_succ, addPlane_eq]
  · intro x fits
    refine ⟨fun poisoned => promote_poisoned poisoned p b, fun live => ?_⟩
    have total : x = promoteSum acc p b * 2 ^ promoteUnit acc b := (promoteSum_exact acc p b).symm
    have fits_iff : ∀ e m, fits e m ↔ m = promoteSig (promoteSum acc p b) (promoteUnit acc b) e ∧
        sigFits (promoteSig (promoteSum acc p b) (promoteUnit acc b) e) := fun e m => by
      simp only [fits, total]
      exact nearest_fits_iff _ _ e m
    have sign : 0 < x ↔ 0 < promoteSum acc p b := by
      rw [total, mul_pos_iff_of_pos_right (zpow_pos two_pos _), Int.cast_pos]
    simp only [fits_iff, sign]
    rcases promote_cases live p b with ⟨e, lt, good, least, eq⟩ | ⟨none, eq⟩
    · exact .inl ⟨e, _, lt, ⟨rfl, good⟩, fun e' he' m' h => least e' he' h.2, eq⟩
    · exact .inr ⟨fun e he m h => none e he h.2, eq⟩
  · intro blk m st n r status
    have last := mxaEntry_last sl a b ea eb acc hk hl
    refine ⟨fun poison => ?_, fun ha hb zero => ?_, fun ha hb ha0 hb0 => ?_⟩
    · rw [last, mxaPromote_poison _ _ poison]
      rfl
    · rw [last, mxaPromote_zero _ _ ha hb zero]
      rfl
    · rw [last, mxaPromote_adds _ _ ha hb ha0 hb0, Nat.add_assoc]
      rfl
  · rintro t (rfl | rfl) <;> rfl
  · rintro t (rfl | rfl) <;> rfl
  · exact mem_mxaCompute t sl b img simg e
  · obtain ⟨rows, scales⟩ := State.rows_of_mxaImages h himg
    exact ⟨(State.imageRows_ok rows).2 i hi, fun scaled => (State.imageRows_ok (scales scaled)).2 i hi⟩

end Sys2Proof.Machine
end

section
/-! Encoding and decoding as inverses of each other (R77 to R91): first the codes of the enumerated fields, then the six formats, then
the table of words. -/

namespace Sys2Proof

/-! ### Codes of the enumerated fields -/

theorem Level.ofCode_code (l : Level) : Level.ofCode l.code = l := by cases l <;> rfl

theorem Level.code_ofCode {n : Nat} (h : n < 4) : (Level.ofCode n).code = n := by
  unfold Level.ofCode
  rw [Nat.mod_eq_of_lt h]
  interval_cases n <;> rfl

@[simp] theorem Operand.ofCode_code (o : Operand) : Operand.ofCode o.code = o := by
  obtain ⟨l, i⟩ := o
  have hi := i.isLt
  have hlvl : (l.code * 256 + i.toNat) / 256 = l.code := by omega
  have hidx : BitVec.ofNat 8 (l.code * 256 + i.toNat) = i := BitVec.eq_of_toNat_eq (by simp; omega)
  simp only [Operand.ofCode, Operand.code, hlvl, hidx, Level.ofCode_code]

theorem Operand.code_ofCode {n : Nat} (h : n < 2 ^ 10) : (Operand.ofCode n).code = n := by
  simp only [Operand.code, Operand.ofCode, Level.code_ofCode (show n / 256 < 4 by omega), BitVec.toNat_ofNat]
  omega

theorem Ty.code_lt (t : Ty) : t.code < 16 := by cases t <;> decide

@[simp] theorem Ty.ofCode_code (t : Ty) : Ty.ofCode t.code = t := by cases t <;> rfl

theorem Ty.code_ofCode {n : Nat} (h : n < 2 ^ 4) : (Ty.ofCode n).code = n := by
  unfold Ty.ofCode
  rw [show n % 16 = n from Nat.mod_eq_of_lt h]
  interval_cases n <;> rfl

theorem toNat_ofNat_bitsOf (k w hi lo : Nat) (h : hi + 1 - lo = k) : (BitVec.ofNat k (bitsOf w hi lo)).toNat = bitsOf w hi lo := by
  subst h
  simp [bitsOf]

theorem bitsOf_lt (w hi lo : Nat) : bitsOf w hi lo < 2 ^ (hi + 1 - lo) := Nat.mod_lt _ (Nat.two_pow_pos _)

theorem Operand.code_ofCode_bitsOf (w hi lo : Nat) (h : hi + 1 - lo = 10) : (Operand.ofCode (bitsOf w hi lo)).code = bitsOf w hi lo :=
  Operand.code_ofCode (h ▸ bitsOf_lt w hi lo)

theorem Ty.code_ofCode_bitsOf (w hi lo : Nat) (h : hi + 1 - lo = 4) : (Ty.ofCode (bitsOf w hi lo)).code = bitsOf w hi lo :=
  Ty.code_ofCode (h ▸ bitsOf_lt w hi lo)

/-! ### The guard and FSEL -/

/-- Bits [6:2] and [1] of a guard. -/
theorem encTail_eq (g : Guard) (fsel : Bool) : ∃ p n : Nat, encTail g fsel = 4 * p + 2 * n + fsel.toNat ∧ n < 2 ∧
    ((g = .always ∧ p = 31 ∧ n = 0) ∨ ∃ h : p < 24, g = .pred ⟨p, h⟩ (n == 1)) := by
  cases g with
  | always => exact ⟨31, 0, by cases fsel <;> rfl, by decide, .inl ⟨rfl, rfl, rfl⟩⟩
  | pred p neg =>
    refine ⟨p.val, neg.toNat, ?_, neg.toNat_lt, .inr ⟨p.isLt, ?_⟩⟩
    · cases neg <;> cases fsel <;> rfl
    · cases neg <;> rfl

theorem encTail_lt (g : Guard) (fsel : Bool) : encTail g fsel < 128 := by
  obtain ⟨p, n, ht, hn, h⟩ := encTail_eq g fsel
  have hf := fsel.toNat_lt
  have : p < 32 := by rcases h with ⟨-, rfl, -⟩ | ⟨h, -⟩ <;> omega
  omega

/-- The low byte of a word reads back as the guard and FSEL that it was written from. -/
theorem read_encTail (g : Guard) (fsel : Bool) (w : Nat) (hw : w % 2 ^ 8 = encTail g fsel) :
    rdGuard w = g ∧ bitOf w 0 = fsel ∧ tailErrs w = [] ∧ bitsOf w 7 7 = 0 := by
  obtain ⟨p, n, ht, hn, h⟩ := encTail_eq g fsel
  have hf := fsel.toNat_lt
  have hp : p < 32 := by rcases h with ⟨-, rfl, -⟩ | ⟨h, -⟩ <;> omega
  have h6 : bitsOf w 6 2 = p := by simp only [bitsOf]; omega
  have h7 : bitsOf w 7 7 = 0 := by simp only [bitsOf]; omega
  have h1 : bitOf w 1 = (n == 1) := by simp only [bitOf]; congr 1; omega
  have h0 : bitOf w 0 = fsel := by
    have : w / 2 ^ 0 % 2 = fsel.toNat := by omega
    simp only [bitOf, this]
    cases fsel <;> rfl
  refine ⟨?_, h0, ?_, h7⟩
  · rcases h with ⟨rfl, rfl, rfl⟩ | ⟨h, rfl⟩
    · simp [rdGuard, h6]
    · simp [rdGuard, h6, h, h1]
  · rcases h with ⟨rfl, rfl, rfl⟩ | ⟨h, rfl⟩
    · simp [tailErrs, need, h6, h1]
    · have : p ≠ 31 := by omega
      simp [tailErrs, need, h6, h, this]

/-- Where no value of PG and PN is reserved, the guard and FSEL that a word reads give its low seven bits. -/
theorem encTail_read (w : Nat) (h : tailErrs w = []) : encTail (rdGuard w) (bitOf w 0) = w % 2 ^ 7 := by
  have h0 : (if bitOf w 0 then 1 else 0) = w % 2 := by
    rcases Nat.mod_two_eq_zero_or_one w with h | h <;> simp [bitOf, h]
  have h1 : (if bitOf w 1 then 2 else 0) = 2 * (w / 2 % 2) := by
    rcases Nat.mod_two_eq_zero_or_one (w / 2) with h | h <;> simp [bitOf, h]
  have hp : bitsOf w 6 2 = w / 4 % 32 := rfl
  simp only [tailErrs, List.append_eq_nil_iff, need_nil, Bool.or_eq_true, decide_eq_true_eq, beq_iff_eq, Bool.not_eq_true',
    Bool.and_eq_false_iff] at h
  obtain ⟨hn, hpg⟩ := h
  unfold encTail rdGuard
  rw [h0]
  split
  · next hlt =>
    split at hlt
    · cases hlt
    ·  next hge =>
      have h31 : bitsOf w 6 2 = 31 := by omega
      have hb : bitOf w 1 = false := by simpa [h31] using hn
      simp only [hb, Bool.false_eq_true, if_false] at h1
      omega
  · next p neg hlt =>
    split at hlt
    · next hlt' =>
      cases hlt
      rw [h1]
      dsimp only
      omega
    · cases hlt

/-! ### The formats -/

/-- What a word that is written in a format reads as: the opcode, the fields, and no nonzero bit that the format reserves. -/
structure Reads {α : Type} (k : Fmt) (rd : Nat → α) (op : Nat) (f : α) (w : Nat) : Prop where
  lt : w < 2 ^ 64
  opcode : bitsOf w 63 56 = op
  fields : rd w = f
  rsv : k.rsv w = []
  tail : tailErrs w = []

theorem ofNat_of_eq {k n : Nat} {x : BitVec k} (h : n = x.toNat) : BitVec.ofNat k n = x := by subst h; simp

theorem Operand.ofCode_of_eq {n : Nat} {o : Operand} (h : n = o.code) : Operand.ofCode n = o := by subst h; simp

theorem Ty.ofCode_of_eq {n : Nat} {t : Ty} (h : n = t.code) : Ty.ofCode n = t := by subst h; simp

theorem reads_encV3 (op : Nat) (f : V3) (h : op < 256) : Reads .v3 rdV3 op f (encV3 op f) := by
  obtain ⟨ty, mod, d, a, b, c, g, fsel⟩ := f
  have ht := encTail_lt g fsel
  have hc := c.code_lt; have hb := b.code_lt; have ha := a.code_lt; have hd := d.code_lt
  have hm := mod.isLt; have hty := ty.code_lt
  obtain ⟨hg, hf, htail, h7⟩ := read_encTail g fsel (encV3 op ⟨ty, mod, d, a, b, c, g, fsel⟩) (by simp only [encV3]; omega)
  refine ⟨by simp only [encV3]; omega, by simp only [encV3, bitsOf]; omega, ?_, by simp [Fmt.rsv, h7, setBits_nil], htail⟩
  rw [rdV3, hg, hf, V3.mk.injEq]
  refine ⟨Ty.ofCode_of_eq ?_, ofNat_of_eq ?_, Operand.ofCode_of_eq ?_, Operand.ofCode_of_eq ?_, Operand.ofCode_of_eq ?_,
    Operand.ofCode_of_eq ?_, rfl, rfl⟩ <;> (simp only [encV3, bitsOf]; omega)

theorem reads_encVI (op : Nat) (f : VI) (h : op < 256) : Reads .vi rdVI op f (encVI op f) := by
  obtain ⟨ty, mod, d, a, imm, g, fsel⟩ := f
  have ht := encTail_lt g fsel
  have hi := imm.isLt; have ha := a.code_lt; have hd := d.code_lt; have hm := mod.isLt; have hty := ty.code_lt
  obtain ⟨hg, hf, htail, h7⟩ := read_encTail g fsel (encVI op ⟨ty, mod, d, a, imm, g, fsel⟩) (by simp only [encVI]; omega)
  refine ⟨by simp only [encVI]; omega, by simp only [encVI, bitsOf]; omega, ?_, by simp [Fmt.rsv, h7, setBits_nil], htail⟩
  rw [rdVI, hg, hf, VI.mk.injEq]
  refine ⟨Ty.ofCode_of_eq ?_, ofNat_of_eq ?_, Operand.ofCode_of_eq ?_, Operand.ofCode_of_eq ?_, ofNat_of_eq ?_, rfl, rfl⟩ <;>
    (simp only [encVI, bitsOf]; omega)

theorem reads_encM (op : Nat) (f : FM) (h : op < 256) : Reads .m rdM op f (encM op f) := by
  obtain ⟨sz, ord, scope, d, a, rb, off, g, fsel⟩ := f
  have ht := encTail_lt g fsel
  have hs := sz.isLt; have ho := ord.isLt; have hsc := scope.isLt; have ha := a.code_lt; have hd := d.code_lt
  have hrb := rb.isLt; have hoff := off.isLt
  obtain ⟨hg, hf, htail, h7⟩ := read_encTail g fsel (encM op ⟨sz, ord, scope, d, a, rb, off, g, fsel⟩)
    (by simp only [encM]; omega)
  refine ⟨by simp only [encM]; omega, by simp only [encM, bitsOf]; omega, ?_, by simp [Fmt.rsv, h7, setBits_nil], htail⟩
  rw [rdM, hg, hf, FM.mk.injEq]
  refine ⟨ofNat_of_eq ?_, ofNat_of_eq ?_, ofNat_of_eq ?_, Operand.ofCode_of_eq ?_, Operand.ofCode_of_eq ?_, ofNat_of_eq ?_,
    ofNat_of_eq ?_, rfl, rfl⟩ <;> (simp only [encM, bitsOf]; omega)

theorem reads_encBr (op : Nat) (f : FBr) (h : op < 256) : Reads .br rdBr op f (encBr op f) := by
  obtain ⟨cond, tprio, offs, g, fsel⟩ := f
  have ht := encTail_lt g fsel
  have hc := cond.isLt; have hp := tprio.isLt; have ho := offs.isLt
  obtain ⟨hg, hf, htail, h7⟩ := read_encTail g fsel (encBr op ⟨cond, tprio, offs, g, fsel⟩) (by simp only [encBr]; omega)
  refine ⟨by simp only [encBr]; omega, by simp only [encBr, bitsOf]; omega, ?_, ?_, htail⟩
  · rw [rdBr, hg, hf, FBr.mk.injEq]
    refine ⟨ofNat_of_eq ?_, ofNat_of_eq ?_, ofNat_of_eq ?_, rfl, rfl⟩ <;> (simp only [encBr, bitsOf]; omega)
  · simp only [Fmt.rsv, h7, List.append_eq_nil_iff, setBits_nil]
    refine ⟨rfl, ?_⟩
    simp only [encBr, bitsOf]
    omega

theorem reads_encE (op : Nat) (f : FE) (h : op < 256) : Reads .e rdE op f (encE op f) := by
  obtain ⟨sub, slot, p, x, ef, g, fsel⟩ := f
  have ht := encTail_lt g fsel
  have hs := sub.isLt; have hsl := slot.isLt; have hp := p.code_lt; have hx := x.code_lt; have he := ef.isLt
  obtain ⟨hg, hf, htail, h7⟩ := read_encTail g fsel (encE op ⟨sub, slot, p, x, ef, g, fsel⟩) (by simp only [encE]; omega)
  refine ⟨by simp only [encE]; omega, by simp only [encE, bitsOf]; omega, ?_, ?_, htail⟩
  · rw [rdE, hg, hf, FE.mk.injEq]
    refine ⟨ofNat_of_eq ?_, ofNat_of_eq ?_, Operand.ofCode_of_eq ?_, Operand.ofCode_of_eq ?_, ofNat_of_eq ?_, rfl, rfl⟩ <;>
      (simp only [encE, bitsOf]; omega)
  · simp only [Fmt.rsv, h7, List.append_eq_nil_iff, setBits_nil]
    refine ⟨rfl, ?_, ?_⟩ <;> (simp only [encE, bitsOf]; omega)

theorem reads_encS (op : Nat) (f : FS) (h : op < 256) : Reads .s rdS op f (encS op f) := by
  obtain ⟨sub, d, a, idx, g, fsel⟩ := f
  have ht := encTail_lt g fsel
  have hs := sub.isLt; have hd := d.code_lt; have ha := a.code_lt; have hi := idx.isLt
  obtain ⟨hg, hf, htail, h7⟩ := read_encTail g fsel (encS op ⟨sub, d, a, idx, g, fsel⟩) (by simp only [encS]; omega)
  refine ⟨by simp only [encS]; omega, by simp only [encS, bitsOf]; omega, ?_, ?_, htail⟩
  · rw [rdS, hg, hf, FS.mk.injEq]
    refine ⟨ofNat_of_eq ?_, Operand.ofCode_of_eq ?_, Operand.ofCode_of_eq ?_, ofNat_of_eq ?_, rfl, rfl⟩ <;>
      (simp only [encS, bitsOf]; omega)
  · simp only [Fmt.rsv, h7, List.append_eq_nil_iff, setBits_nil]
    refine ⟨rfl, ?_, ?_⟩ <;> (simp only [encS, bitsOf]; omega)

/-! The other direction: a word is the sum of its fields, each at its place. -/

section
variable {w : Nat} (hw : w < 2 ^ 64) (htail : tailErrs w = [])
include hw htail

theorem encV3_rdV3 (hr : Fmt.rsv .v3 w = []) : encV3 (bitsOf w 63 56) (rdV3 w) = w := by
  simp only [Fmt.rsv, List.append_eq_nil_iff, setBits_nil] at hr
  obtain ⟨h7, -⟩ := hr
  simp only [encV3, rdV3, encTail_read w htail, Operand.code_ofCode_bitsOf, Ty.code_ofCode_bitsOf,
    toNat_ofNat_bitsOf]
  simp only [bitsOf] at *
  omega

theorem encVI_rdVI (hr : Fmt.rsv .vi w = []) : encVI (bitsOf w 63 56) (rdVI w) = w := by
  simp only [Fmt.rsv, List.append_eq_nil_iff, setBits_nil] at hr
  obtain ⟨h7, -⟩ := hr
  simp only [encVI, rdVI, encTail_read w htail, Operand.code_ofCode_bitsOf, Ty.code_ofCode_bitsOf,
    toNat_ofNat_bitsOf]
  simp only [bitsOf] at *
  omega

theorem encM_rdM (hr : Fmt.rsv .m w = []) : encM (bitsOf w 63 56) (rdM w) = w := by
  simp only [Fmt.rsv, List.append_eq_nil_iff, setBits_nil] at hr
  obtain ⟨h7, -⟩ := hr
  simp only [encM, rdM, encTail_read w htail, Operand.code_ofCode_bitsOf, toNat_ofNat_bitsOf]
  simp only [bitsOf] at *
  omega

theorem encBr_rdBr (hr : Fmt.rsv .br w = []) : encBr (bitsOf w 63 56) (rdBr w) = w := by
  simp only [Fmt.rsv, List.append_eq_nil_iff, setBits_nil] at hr
  obtain ⟨h7, h48⟩ := hr
  simp only [encBr, rdBr, encTail_read w htail, toNat_ofNat_bitsOf]
  simp only [bitsOf] at *
  omega

theorem encE_rdE (hr : Fmt.rsv .e w = []) : encE (bitsOf w 63 56) (rdE w) = w := by
  simp only [Fmt.rsv, List.append_eq_nil_iff, setBits_nil] at hr
  obtain ⟨h7, h8, h48⟩ := hr
  simp only [encE, rdE, encTail_read w htail, Operand.code_ofCode_bitsOf, toNat_ofNat_bitsOf]
  simp only [bitsOf] at *
  omega

theorem encS_rdS (hr : Fmt.rsv .s w = []) : encS (bitsOf w 63 56) (rdS w) = w := by
  simp only [Fmt.rsv, List.append_eq_nil_iff, setBits_nil] at hr
  obtain ⟨h7, h8, h48⟩ := hr
  simp only [encS, rdS, encTail_read w htail, Operand.code_ofCode_bitsOf, toNat_ofNat_bitsOf]
  simp only [bitsOf] at *
  omega

end

end Sys2Proof
end

section
/-! The table of words: which instruction each opcode has in its format, and that encoding and decoding are inverses of each other. -/

namespace Sys2Proof

/-! ### The table of words -/

/-- What a word reads as in a format. -/
def Fmt.read (k : Fmt) (op w : Nat) : Option Instr :=
  match k with
  | .v3 => byV3 op (rdV3 w)
  | .vi => byVI op (rdVI w)
  | .m => byM op (rdM w)
  | .br => byBR op (rdBr w)
  | .e => byE op (rdE w)
  | .s => byS op (rdS w)

theorem readWord_eq (w : Nat) : readWord w =
    (fmtOf (bitsOf w 63 56)).bind fun k => (k.read (bitsOf w 63 56) w).map fun i => (k, i) := by
  unfold readWord
  dsimp only
  cases fmtOf (bitsOf w 63 56) with
  | none => rfl
  | some k => cases k <;> rfl

theorem readWord_eq_some_iff (w : Nat) (k : Fmt) (i : Instr) : readWord w = some (k, i) ↔
    fmtOf (bitsOf w 63 56) = some k ∧ k.read (bitsOf w 63 56) w = some i := by
  simp [readWord_eq, Option.bind_eq_some_iff]

/-- The word of an instruction, by the table of its format (R82 to R90). -/
inductive WordOf (i : Instr) : Fmt → Nat → Prop where
  | v3 (op : Nat) (f : V3) : fmtOf op = some .v3 → byV3 op f = some i → WordOf i .v3 (encV3 op f)
  | vi (op : Nat) (f : VI) : fmtOf op = some .vi → byVI op f = some i → WordOf i .vi (encVI op f)
  | m (op : Nat) (f : FM) : fmtOf op = some .m → byM op f = some i → WordOf i .m (encM op f)
  | br (op : Nat) (f : FBr) : fmtOf op = some .br → byBR op f = some i → WordOf i .br (encBr op f)
  | e (op : Nat) (f : FE) : fmtOf op = some .e → byE op f = some i → WordOf i .e (encE op f)
  | s (op : Nat) (f : FS) : fmtOf op = some .s → byS op f = some i → WordOf i .s (encS op f)

theorem fmtOf_lt {op : Nat} {k : Fmt} (h : fmtOf op = some k) : op < 256 := by
  by_contra hge
  have hnone : fmtOf op = none := by
    unfold fmtOf
    simp only [show ∀ n, n < 256 → ¬ op = n from fun n hn => by omega, show ∀ n, n < 256 → ¬ op ≤ n from fun n hn => by omega,
      show ∀ n, n ≤ 256 → ¬ op < n from fun n hn => by omega, Nat.reduceLT, Nat.reduceLeDiff, or_self, if_false]
  rw [hnone] at h
  cases h

theorem instqQuery_sub {f : FE} (h : (Instr.instqQuery f).wf = true) : f.sub = 0 := by
  simp [Instr.wf, Instr.info, feInfo, Info.fieldErrs] at h
  obtain ⟨-, hsub, -⟩ := h
  exact hsub

theorem instqAbort_sub {f : FE} (h : (Instr.instqAbort f).wf = true) : f.sub = 1 := by
  simp [Instr.wf, Instr.info, feInfo, Info.fieldErrs] at h
  obtain ⟨-, hsub, -⟩ := h
  exact hsub

/-- Every well-formed instruction that has a word is in the table of its format. A query and an abort share an opcode, and SUB tells
which of the two a word is (R256). -/
theorem wordOf_of_encode {i : Instr} {w : Nat} (hwf : i.wf = true) (h : encode i = some w) : ∃ k, WordOf i k w := by
  cases i with
  | nop f | brx f | callx f | ret f | exit f | bnd f | rcv f | elect f | yield f | tret f | iadd f | isub f | iaddc f | isubb f
    | imul f | imulh f | imad f | imadw f | iabs f | ineg f | imin f | imax f | isad f | shl f | shr f | sha f | rot f | andw f
    | orw f | xorw f | notw f | andn f | lop3 f | popc f | clz f | ctz f | brev f | bfx f | bfi f | prmt f | lea f | leaw f
    | dp4 f | fadd f | fsub f | fmul f | ffma f | fmin f | fmax f | fabs f | fneg f | fdiv f | fsqrt f | frcp f | frsq f
    | fex2 f | flg2 f | fsin f | fcos f | fflr f | fceil f | ftrunc f | frnd f | ffrc f | fclass f | fscale f | fgetexp f
    | fdot2 f | cvt f | cvq f | cvd f | packt f | unpkt f | pack f | unpk f | icmp f | fcmp f | plop f | pmov f | sel f | mov f
    | movx f | movxs f | shfl f | vote f | ballot f | lred f | bcast f | tcfg f | tzero f | acz f =>
    cases h; exact ⟨_, .v3 _ f rfl rfl⟩
  | trap f | bkpt f | iaddImm f | imulImm f | iminImm f | imaxImm f | shlImm f | shrImm f | shaImm f | rotImm f | andImm f
    | orImm f | xorImm f | leaImm f | bfxImm f | bfiImm f | prmtImm f | faddImm f | fmulImm f | fminImm f | fmaxImm f | movi f
    | bar f | barc f => cases h; exact ⟨_, .vi _ f rfl rfl⟩
  | ld f | st f | lds f | sts f | ldq f | atom f | atoms f | red f | prf f | tbinit f | tbexp f | tbarv f | tbtest f | waita f
    | fence f | tld f | tst f | acld f | acst f => cases h; exact ⟨_, .m _ f rfl rfl⟩
  | bra f | call f => cases h; exact ⟨_, .br _ f rfl rfl⟩
  | mxa f | acv f | cpy f | cpyl f | hred f | hgat f | hfetch f | lyrq f | inst f => cases h; exact ⟨_, .e _ f rfl rfl⟩
  | srd f | swr f | prvr f | prvw f | eret f | sysc f | mtrr f | sign f => cases h; exact ⟨_, .s _ f rfl rfl⟩
  | instqQuery f => cases h; exact ⟨_, .e _ f rfl (by simp [byE, instqQuery_sub hwf])⟩
  | instqAbort f => cases h; exact ⟨_, .e _ f rfl (by simp [byE, instqAbort_sub hwf])⟩
  | _ => cases h

theorem encode_of_byV3 {op : Nat} {f : V3} {i : Instr} (h : byV3 op f = some i) : encode i = some (encV3 op f) := by
  unfold byV3 at h
  split at h <;> cases h <;> rfl

theorem encode_of_byVI {op : Nat} {f : VI} {i : Instr} (h : byVI op f = some i) : encode i = some (encVI op f) := by
  unfold byVI at h
  split at h <;> cases h <;> rfl

theorem encode_of_byM {op : Nat} {f : FM} {i : Instr} (h : byM op f = some i) : encode i = some (encM op f) := by
  unfold byM at h
  split at h <;> cases h <;> rfl

theorem encode_of_byBR {op : Nat} {f : FBr} {i : Instr} (h : byBR op f = some i) : encode i = some (encBr op f) := by
  unfold byBR at h
  split at h <;> cases h <;> rfl

theorem encode_of_byE {op : Nat} {f : FE} {i : Instr} (h : byE op f = some i) : encode i = some (encE op f) := by
  unfold byE at h
  split at h <;> cases h
  case h_10 => by_cases hsub : f.sub = 1 <;> simp only [hsub, if_true, if_false] <;> rfl
  all_goals rfl

theorem encode_of_byS {op : Nat} {f : FS} {i : Instr} (h : byS op f = some i) : encode i = some (encS op f) := by
  unfold byS at h
  split at h <;> cases h <;> rfl

theorem encode_of_wordOf {i : Instr} {k : Fmt} {w : Nat} (h : WordOf i k w) : encode i = some w := by
  cases h with
  | v3 op f _ h => exact encode_of_byV3 h
  | vi op f _ h => exact encode_of_byVI h
  | m op f _ h => exact encode_of_byM h
  | br op f _ h => exact encode_of_byBR h
  | e op f _ h => exact encode_of_byE h
  | s op f _ h => exact encode_of_byS h

/-- A word of a format reads as the instruction of its opcode and fields, with nothing reserved set. -/
theorem read_of_wordOf {i : Instr} {k : Fmt} {w : Nat} (h : WordOf i k w) :
    w < 2 ^ 64 ∧ readWord w = some (k, i) ∧ k.rsv w = [] ∧ tailErrs w = [] := by
  cases h with
  | v3 op f hk h =>
    obtain ⟨hlt, hop, hf, hr, ht⟩ := reads_encV3 op f (fmtOf_lt hk)
    exact ⟨hlt, (readWord_eq_some_iff _ _ _).2 (by rw [hop]; exact ⟨hk, by rw [Fmt.read, hf, h]⟩), hr, ht⟩
  | vi op f hk h =>
    obtain ⟨hlt, hop, hf, hr, ht⟩ := reads_encVI op f (fmtOf_lt hk)
    exact ⟨hlt, (readWord_eq_some_iff _ _ _).2 (by rw [hop]; exact ⟨hk, by rw [Fmt.read, hf, h]⟩), hr, ht⟩
  | m op f hk h =>
    obtain ⟨hlt, hop, hf, hr, ht⟩ := reads_encM op f (fmtOf_lt hk)
    exact ⟨hlt, (readWord_eq_some_iff _ _ _).2 (by rw [hop]; exact ⟨hk, by rw [Fmt.read, hf, h]⟩), hr, ht⟩
  | br op f hk h =>
    obtain ⟨hlt, hop, hf, hr, ht⟩ := reads_encBr op f (fmtOf_lt hk)
    exact ⟨hlt, (readWord_eq_some_iff _ _ _).2 (by rw [hop]; exact ⟨hk, by rw [Fmt.read, hf, h]⟩), hr, ht⟩
  | e op f hk h =>
    obtain ⟨hlt, hop, hf, hr, ht⟩ := reads_encE op f (fmtOf_lt hk)
    exact ⟨hlt, (readWord_eq_some_iff _ _ _).2 (by rw [hop]; exact ⟨hk, by rw [Fmt.read, hf, h]⟩), hr, ht⟩
  | s op f hk h =>
    obtain ⟨hlt, hop, hf, hr, ht⟩ := reads_encS op f (fmtOf_lt hk)
    exact ⟨hlt, (readWord_eq_some_iff _ _ _).2 (by rw [hop]; exact ⟨hk, by rw [Fmt.read, hf, h]⟩), hr, ht⟩

theorem wordOf_of_read {w : Nat} {k : Fmt} {i : Instr} (hw : w < 2 ^ 64) (h : readWord w = some (k, i)) (hr : k.rsv w = [])
    (ht : tailErrs w = []) : WordOf i k w := by
  obtain ⟨hk, h⟩ := (readWord_eq_some_iff w k i).1 h
  cases k with
  | v3 => exact encV3_rdV3 hw ht hr ▸ .v3 _ _ hk h
  | vi => exact encVI_rdVI hw ht hr ▸ .vi _ _ hk h
  | m => exact encM_rdM hw ht hr ▸ .m _ _ hk h
  | br => exact encBr_rdBr hw ht hr ▸ .br _ _ hk h
  | e => exact encE_rdE hw ht hr ▸ .e _ _ hk h
  | s => exact encS_rdS hw ht hr ▸ .s _ _ hk h

theorem leastPos_eq_none (l : List Nat) : leastPos l = none ↔ l = [] := by cases l <;> simp [leastPos]

theorem wf_iff (i : Instr) : i.wf = true ↔ ∃ f, i.info = some f ∧ f.rsv = [] ∧ f.fieldErrs = [] := by
  unfold Instr.wf
  cases i.info <;> simp

/-- A word decodes to the instruction that it reads as, where no check finds anything. -/
theorem decodeWord_eq_instr (w : Nat) (i : Instr) :
    decodeWord w = .instr i ↔ ∃ k, readWord w = some (k, i) ∧ k.rsv w = [] ∧ tailErrs w = [] ∧ i.wf = true := by
  unfold decodeWord
  simp only [wf_iff]
  rcases readWord w with _ | ⟨k, j⟩
  · simp
  · simp only [Option.some.injEq, Prod.mk.injEq]
    cases hi : j.info with
    | none =>
      simp only [reduceCtorEq, false_iff, not_exists, not_and]
      rintro k ⟨rfl, rfl⟩ - - f hf
      simp [hi] at hf
    | some f =>
      dsimp only
      constructor
      · intro h
        split at h
        · cases h
        next hr =>
        split at h
        · cases h
        next he =>
        cases h
        simp only [leastPos_eq_none, List.append_eq_nil_iff] at hr he
        exact ⟨k, ⟨rfl, rfl⟩, hr.1, he.1, f, hi, hr.2, he.2⟩
      · rintro ⟨_, ⟨rfl, rfl⟩, hr, ht, f', hf', hr', he'⟩
        obtain rfl : f = f' := Option.some.inj (hi ▸ hf')
        simp [hr, ht, hr', he', leastPos]

theorem encode_isSome (i : Instr) : (encode i).isSome = i.info.isSome := by cases i <;> rfl

end Sys2Proof

namespace Sys2Proof.Machine

/-- Settles O5: every word is in the table of its format, whose fields read back as they were written. -/
theorem decodeOfEncode : Obligations.DecodeOfEncode := by
  refine ⟨encode_isSome, fun i w hwf h => ?_⟩
  obtain ⟨k, hk⟩ := wordOf_of_encode hwf h
  obtain ⟨hlt, hread, hr, ht⟩ := read_of_wordOf hk
  exact ⟨hlt, (decodeWord_eq_instr w i).2 ⟨k, hread, hr, ht, hwf⟩⟩

/-- Settles O6: a word that decodes is the sum of the fields that are read from it, as it has no nonzero reserved bit. -/
theorem encodeOfDecode : Obligations.EncodeOfDecode := by
  intro w i hw h
  obtain ⟨k, hread, hr, ht, hwf⟩ := (decodeWord_eq_instr w i).1 h
  exact ⟨encode_of_wordOf (wordOf_of_read hw hread hr ht), hwf⟩

end Sys2Proof.Machine
end

section
/-! The bits that must be zero (R77, R80, R87 to R89): for every opcode, those that the form of its instruction lists are those of its
table. -/

namespace Sys2Proof

theorem mem_setBits (n w pos p : Nat) : p ∈ setBits n w pos ↔ n.testBit (p - pos) = true ∧ pos ≤ p ∧ p < pos + w := by
  simp only [setBits, List.mem_filterMap, List.mem_range, bitOf_eq_testBit, Option.ite_none_right_eq_some, Option.some.injEq]
  constructor
  · rintro ⟨i, hi, hb, rfl⟩
    exact ⟨by simpa using hb, by omega, by omega⟩
  · rintro ⟨hb, hlo, hhi⟩
    exact ⟨p - pos, by omega, hb, by omega⟩

theorem mem_setBits_bitsOf {hi lo n : Nat} (w p : Nat) (h : hi + 1 - lo = n) :
    p ∈ setBits (bitsOf w hi lo) n lo ↔ w.testBit p = true ∧ lo ≤ p ∧ p < lo + n := by
  rw [mem_setBits, bitsOf, Nat.testBit_mod_two_pow, Nat.testBit_div_two_pow]
  constructor
  · rintro ⟨hb, hlo, hhi⟩
    rw [Nat.sub_add_cancel hlo] at hb
    simp_all
  · rintro ⟨hb, hlo, hhi⟩
    have hlt : p - lo < hi + 1 - lo := by omega
    simp [Nat.sub_add_cancel hlo, hb, hlo, hhi, hlt]

theorem mem_unusedBits (l : List (OpK × Operand × Nat)) (p : Nat) :
    p ∈ unusedBits l ↔ ∃ e ∈ l, e.1 = .unused ∧ p ∈ setBits e.2.1.code 10 e.2.2 := by
  simp only [unusedBits, List.mem_flatMap]
  refine exists_congr fun e => and_congr_right fun _ => ?_
  split <;> simp_all

theorem reserved_iff (op w p : Nat) : Table.reserved op w p = true ↔
    w.testBit p = true ∧ ∃ r ∈ Table.zeroFields op w, r.1 ≤ p ∧ p < r.1 + r.2 := by
  simp [Table.reserved]

theorem mem_unusedBits_v3 (w p : Nat) (d a b c : OpK) :
    p ∈ unusedBits [(d, (rdV3 w).d, 38), (a, (rdV3 w).a, 28), (b, (rdV3 w).b, 18), (c, (rdV3 w).c, 8)] ↔
      w.testBit p = true ∧ ((d = .unused ∧ 38 ≤ p ∧ p < 48) ∨ (a = .unused ∧ 28 ≤ p ∧ p < 38) ∨
        (b = .unused ∧ 18 ≤ p ∧ p < 28) ∨ (c = .unused ∧ 8 ≤ p ∧ p < 18)) := by
  simp only [mem_unusedBits, List.mem_cons, List.not_mem_nil, or_false, exists_eq_or_imp, exists_eq_left, rdV3,
    Operand.code_ofCode_bitsOf, mem_setBits_bitsOf]
  tauto

theorem mem_rsv_v3 (w p : Nat) : p ∈ Fmt.rsv .v3 w ↔ w.testBit p = true ∧ 7 ≤ p ∧ p < 8 := by
  simp only [Fmt.rsv, List.append_nil, mem_setBits_bitsOf]

theorem ofCode_bitsOf_eq_zero {hi lo : Nat} (w : Nat) (h : hi + 1 - lo = 10) :
    Operand.ofCode (bitsOf w hi lo) = .zero ↔ bitsOf w hi lo = 0 := by
  rw [← Operand.code_zero, Operand.code_ofCode_bitsOf w hi lo h]

theorem testBit_of_ofCode_zero {w hi lo p : Nat} (h : hi + 1 - lo = 10) (h0 : Operand.ofCode (bitsOf w hi lo) = .zero) (hlo : lo ≤ p)
    (hp : p < lo + 10) : w.testBit p = false :=
  (bitsOf_eq_zero_iff w hi lo).1 ((ofCode_bitsOf_eq_zero w h).1 h0) p hlo (by omega)

theorem ofNat_bitsOf_bit {n hi lo : Nat} (w : Nat) (h : hi + 1 - lo = n) (h0 : 0 < n) :
    (BitVec.ofNat n (bitsOf w hi lo)).getLsbD 0 = w.testBit lo := by
  subst h
  rw [BitVec.getLsbD_ofNat, bitsOf, Nat.testBit_mod_two_pow, Nat.testBit_div_two_pow]
  simp [h0]

theorem mod_rdV3_bit (w : Nat) : (rdV3 w).mod.getLsbD 0 = w.testBit 48 := ofNat_bitsOf_bit w rfl (by decide)

theorem Ty.packed_ofCode {n : Nat} (h : n < 16) : (Ty.ofCode n).packed = true ↔ n = 11 ∨ n = 12 := by
  interval_cases n <;> decide

theorem packed_rdV3 (w : Nat) : (rdV3 w).ty.packed = true ↔ Table.field w 55 52 = 11 ∨ Table.field w 55 52 = 12 :=
  Ty.packed_ofCode (bitsOf_lt w 55 52)

theorem bndD_unused (src dst : Operand) : bndD src dst = .unused ↔ src = .zero ∧ dst = .zero := by
  unfold bndD
  split <;> simp_all

theorem bndA_unused (src dst : Operand) : bndA src dst = .unused ↔ src = .zero ∧ dst = .zero := by
  unfold bndA
  split <;> simp_all

/-- The fields of a pair that is not present hold zero, and so have no bit set that must be zero. -/
theorem reserved_bnd {w p : Nat} (hb : w.testBit p = true) :
    ¬ ((bndD (rdV3 w).a (rdV3 w).d = .unused ∧ 38 ≤ p ∧ p < 48) ∨ (bndA (rdV3 w).a (rdV3 w).d = .unused ∧ 28 ≤ p ∧ p < 38) ∨
      (bndD (rdV3 w).c (rdV3 w).b = .unused ∧ 18 ≤ p ∧ p < 28) ∨ (bndA (rdV3 w).c (rdV3 w).b = .unused ∧ 8 ≤ p ∧ p < 18)) := by
  simp only [bndD_unused, bndA_unused]
  rintro (⟨⟨-, h⟩, hp⟩ | ⟨⟨h, -⟩, hp⟩ | ⟨⟨-, h⟩, hp⟩ | ⟨⟨h, -⟩, hp⟩) <;>
    simp [testBit_of_ofCode_zero rfl h hp.1 hp.2] at hb

theorem reserved_v3 {op w p : Nat} {i : Instr} (h : byV3 op (rdV3 w) = some i) :
    ∃ f, i.info = some f ∧ (p ∈ Fmt.rsv .v3 w ++ f.rsv ↔ Table.reserved op w p = true) := by
  unfold byV3 at h
  split at h <;> cases h <;> refine ⟨_, rfl, ?_⟩ <;>
    simp only [List.mem_append, mem_rsv_v3, v3Info, mem_unusedBits_v3, reserved_iff, ← and_or_left, mod_rdV3_bit, packed_rdV3] <;>
    refine and_congr_right fun hb => ?_
  case h_6 => simp [Table.zeroFields, reserved_bnd hb]
  case h_69 =>
    by_cases hpair : Table.field w 55 52 = 11 ∨ Table.field w 55 52 = 12 <;> simp [Table.zeroFields, hpair] <;> omega
  case h_79 | h_82 | h_83 => by_cases hbit : w.testBit 48 = true <;> simp [Table.zeroFields, hbit] <;> omega
  all_goals simp [Table.zeroFields] <;> omega

theorem bitsOf_div (w hi lo k : Nat) : bitsOf w hi lo / 2 ^ k = bitsOf w hi (lo + k) := by
  rw [bitsOf, bitsOf, Nat.pow_add, ← Nat.div_div_eq_div_mul]
  rcases Nat.le_total k (hi + 1 - lo) with h | h
  · rw [show hi + 1 - lo = k + (hi + 1 - (lo + k)) by omega, Nat.pow_add, Nat.mod_mul_right_div_self]
  · rw [show hi + 1 - (lo + k) = 0 by omega, Nat.pow_zero, Nat.mod_one]
    exact Nat.div_eq_of_lt ((Nat.mod_lt _ (Nat.two_pow_pos _)).trans_le (Nat.pow_le_pow_right (by decide) h))

theorem bitsOf_bitsOf (w hi lo h l : Nat) (hh : lo + h ≤ hi) : bitsOf (bitsOf w hi lo) h l = bitsOf w (lo + h) (lo + l) := by
  rw [bitsOf, bitsOf_div, bitsOf, bitsOf, Nat.mod_mod_of_dvd _ (Nat.pow_dvd_pow 2 (by omega)),
    show lo + h + 1 - (lo + l) = h + 1 - l by omega]

theorem mem_unusedBits_two (w p : Nat) (d a : OpK) :
    p ∈ unusedBits [(d, Operand.ofCode (bitsOf w 47 38), 38), (a, Operand.ofCode (bitsOf w 37 28), 28)] ↔
      w.testBit p = true ∧ ((d = .unused ∧ 38 ≤ p ∧ p < 48) ∨ (a = .unused ∧ 28 ≤ p ∧ p < 38)) := by
  simp only [mem_unusedBits, List.mem_cons, List.not_mem_nil, or_false, exists_eq_or_imp, exists_eq_left,
    Operand.code_ofCode_bitsOf, mem_setBits_bitsOf]
  tauto

theorem mem_unusedBits_vi (w p : Nat) (d a : OpK) : p ∈ unusedBits [(d, (rdVI w).d, 38), (a, (rdVI w).a, 28)] ↔
    w.testBit p = true ∧ ((d = .unused ∧ 38 ≤ p ∧ p < 48) ∨ (a = .unused ∧ 28 ≤ p ∧ p < 38)) := mem_unusedBits_two w p d a

theorem mem_unusedBits_m (w p : Nat) (d a : OpK) : p ∈ unusedBits [(d, (rdM w).d, 38), (a, (rdM w).a, 28)] ↔
    w.testBit p = true ∧ ((d = .unused ∧ 38 ≤ p ∧ p < 48) ∨ (a = .unused ∧ 28 ≤ p ∧ p < 38)) := mem_unusedBits_two w p d a

theorem mem_unusedBits_e (w p : Nat) (d a : OpK) : p ∈ unusedBits [(d, (rdE w).p, 38), (a, (rdE w).x, 28)] ↔
    w.testBit p = true ∧ ((d = .unused ∧ 38 ≤ p ∧ p < 48) ∨ (a = .unused ∧ 28 ≤ p ∧ p < 38)) := mem_unusedBits_two w p d a

theorem mem_unusedBits_s (w p : Nat) (d a : OpK) : p ∈ unusedBits [(d, (rdS w).d, 38), (a, (rdS w).a, 28)] ↔
    w.testBit p = true ∧ ((d = .unused ∧ 38 ≤ p ∧ p < 48) ∨ (a = .unused ∧ 28 ≤ p ∧ p < 38)) := mem_unusedBits_two w p d a

theorem mem_immRsv (w p lo n : Nat) (h : lo + n ≤ 20) (hn : 0 < n) :
    p ∈ immRsv (rdVI w).imm lo n ↔ w.testBit p = true ∧ 8 + lo ≤ p ∧ p < 8 + lo + n := by
  simp only [immRsv, rdVI, toNat_ofNat_bitsOf]
  rw [bitsOf_bitsOf _ _ _ _ _ (by omega), mem_setBits_bitsOf _ _ (by omega)]

theorem mem_efRsv (w p n : Nat) (h : n ≤ 8) : p ∈ efRsv (rdE w).ef n ↔ w.testBit p = true ∧ 20 + n ≤ p ∧ p < 28 := by
  simp only [efRsv, rdE, toNat_ofNat_bitsOf]
  rw [bitsOf_div, mem_setBits_bitsOf _ _ (by omega), show 20 + n + (8 - n) = 28 by omega]

theorem top8_rdM (w : Nat) : (rdM w).top8 = bitsOf w 55 48 := by
  simp only [FM.top8, rdM, toNat_ofNat_bitsOf]
  simp only [bitsOf]
  omega

theorem mem_dirRsv (w p : Nat) : p ∈ dirRsv (rdM w) ↔ w.testBit p = true ∧ 49 ≤ p ∧ p < 56 := by
  rw [dirRsv, top8_rdM, ← Nat.pow_one 2, bitsOf_div, mem_setBits_bitsOf _ _ rfl]

theorem mem_spcRsv (w p : Nat) : p ∈ spcRsv (rdM w) ↔ w.testBit p = true ∧ 50 ≤ p ∧ p < 56 := by
  rw [spcRsv, top8_rdM, show (4 : Nat) = 2 ^ 2 from rfl, bitsOf_div, mem_setBits_bitsOf _ _ rfl]

theorem atomK_ne_unused (w : Nat) (cas : Bool) : atomK w cas ≠ .unused := nofun

theorem ofNat_bitsOf_eq {n hi lo : Nat} (w x : Nat) (h : hi + 1 - lo = n) (hx : x < 2 ^ n) :
    BitVec.ofNat n (bitsOf w hi lo) = BitVec.ofNat n x ↔ bitsOf w hi lo = x := by
  rw [← BitVec.toNat_inj, toNat_ofNat_bitsOf n w hi lo h, BitVec.toNat_ofNat, Nat.mod_eq_of_lt hx]

theorem sub_rdS (w : Nat) : (rdS w).sub = 0 ↔ Table.field w 55 52 = 0 := ofNat_bitsOf_eq w 0 rfl (by decide)

theorem sub_rdE (w x : Nat) (hx : x < 16) : (rdE w).sub = BitVec.ofNat 4 x ↔ Table.field w 55 52 = x := ofNat_bitsOf_eq w x rfl hx

theorem reserved_vi {op w p : Nat} {i : Instr} (h : byVI op (rdVI w) = some i) :
    ∃ f, i.info = some f ∧ (p ∈ Fmt.rsv .vi w ++ f.rsv ↔ Table.reserved op w p = true) := by
  unfold byVI at h
  split at h <;> cases h
  all_goals
    refine ⟨_, rfl, ?_⟩
    simp only [Fmt.rsv, viInfo, List.mem_append, List.append_nil, mem_setBits_bitsOf, mem_unusedBits_vi, mem_immRsv,
      reserved_iff, ← and_or_left, Nat.reduceLeDiff, Nat.reduceLT]
    refine and_congr_right fun hb => ?_
    simp [Table.zeroFields] <;> omega

theorem reserved_m {op w p : Nat} {i : Instr} (h : byM op (rdM w) = some i) :
    ∃ f, i.info = some f ∧ (p ∈ Fmt.rsv .m w ++ f.rsv ↔ Table.reserved op w p = true) := by
  unfold byM at h
  split at h <;> cases h
  all_goals
    refine ⟨_, rfl, ?_⟩
    simp only [Fmt.rsv, fmInfo, List.mem_append, List.append_nil, mem_setBits_bitsOf, mem_unusedBits_m, mem_dirRsv, mem_spcRsv,
      atomK_ne_unused, reserved_iff, ← and_or_left]
    refine and_congr_right fun hb => ?_
    simp [Table.zeroFields] <;> omega

theorem reserved_br {op w p : Nat} {i : Instr} (h : byBR op (rdBr w) = some i) :
    ∃ f, i.info = some f ∧ (p ∈ Fmt.rsv .br w ++ f.rsv ↔ Table.reserved op w p = true) := by
  unfold byBR at h
  split at h <;> cases h
  all_goals
    refine ⟨_, rfl, ?_⟩
    simp only [Fmt.rsv, brInfo, List.mem_append, List.append_nil, mem_setBits_bitsOf,
      reserved_iff, ← and_or_left]
    refine and_congr_right fun hb => ?_
    simp [Table.zeroFields]

theorem reserved_e {op w p : Nat} {i : Instr} (h : byE op (rdE w) = some i) :
    ∃ f, i.info = some f ∧ (p ∈ Fmt.rsv .e w ++ f.rsv ↔ Table.reserved op w p = true) := by
  by_cases hsub : (rdE w).sub = 1 <;> simp only [byE, hsub, if_true, if_false] at h <;> split at h <;> cases h
  all_goals
    refine ⟨_, rfl, ?_⟩
    simp only [Fmt.rsv, feInfo, List.mem_append, mem_setBits_bitsOf, mem_unusedBits_e, mem_efRsv,
      reserved_iff, ← and_or_left, Nat.reduceLeDiff]
    refine and_congr_right fun hb => ?_
    simp [Table.zeroFields] <;> omega

theorem reserved_s {op w p : Nat} {i : Instr} (h : byS op (rdS w) = some i) :
    ∃ f, i.info = some f ∧ (p ∈ Fmt.rsv .s w ++ f.rsv ↔ Table.reserved op w p = true) := by
  unfold byS at h
  split at h <;> cases h
  all_goals
    refine ⟨_, rfl, ?_⟩
    simp only [Fmt.rsv, fsInfo, List.mem_append, mem_setBits_bitsOf, mem_unusedBits_s, sub_rdS, ite_eq_left_iff, reduceCtorEq,
      imp_false, not_not, reserved_iff, ← and_or_left]
    refine and_congr_right fun hb => ?_
    by_cases hsub : Table.field w 55 52 = 0 <;> simp [Table.zeroFields, hsub] <;> omega

end Sys2Proof
end

section
/-! What each check of a field finds, in terms of the numbers that the field holds (R83 to R89, R129 to R132, and the rule of each word). -/
namespace Sys2Proof

theorem mem_need (b : Bool) (p q : Nat) : p ∈ need b q ↔ b = false ∧ p = q := by
  unfold need
  cases b <;> simp

theorem mem_at (c : Prop) [Decidable c] (p q : Nat) : (p ∈ if c then [q] else []) ↔ c ∧ p = q := by
  split <;> simp [*]

theorem Ty.code_inj {s t : Ty} : s.code = t.code ↔ s = t :=
  ⟨fun h => by rw [← Ty.ofCode_code s, h, Ty.ofCode_code], fun h => h ▸ rfl⟩

theorem Operand.code_inj {a b : Operand} : a.code = b.code ↔ a = b :=
  ⟨fun h => by rw [← Operand.ofCode_code a, h, Operand.ofCode_code], fun h => h ▸ rfl⟩

theorem Operand.lvl_v (o : Operand) : o.lvl = .v ↔ o.code / 256 = 1 := by
  have := o.idx.isLt
  unfold Operand.code
  cases o.lvl <;> simp [Level.code] <;> omega

theorem Operand.lvl_k (o : Operand) : o.lvl = .k ↔ o.code < 256 := by
  have := o.idx.isLt
  unfold Operand.code
  cases o.lvl <;> simp [Level.code] <;> omega

theorem getLsbD_zero {n : Nat} (x : BitVec n) : x.getLsbD 0 = true ↔ x.toNat % 2 = 1 := by
  simp [BitVec.getLsbD, Nat.testBit_zero]

theorem mem_tyErr (t : Ty) (l : List Ty) (p : Nat) : p ∈ tyErr t l ↔ t.code ∉ l.map Ty.code ∧ p = 52 := by
  simp [tyErr, mem_need, Ty.code_inj]

theorem mem_zeroErr (m : BitVec 4) (p : Nat) : p ∈ zeroErr m ↔ m.toNat ≠ 0 ∧ p = 48 := by
  rw [zeroErr, mem_need, beq_eq_false_iff_ne, ne_eq, ← BitVec.toNat_inj]
  rfl

theorem mem_bit0Err (m : BitVec 4) (p : Nat) : p ∈ bit0Err m ↔ 2 ≤ m.toNat ∧ p = 49 := by
  simp [bit0Err, mem_need, Nat.succ_le_iff]

theorem mem_rndErr (m : BitVec 4) (p : Nat) : p ∈ rndErr m ↔ 4 ≤ m.toNat ∧ p = 50 := by simp [rndErr, mem_need]

theorem mem_topErr (m : BitVec 4) (p : Nat) : p ∈ topErr m ↔ 8 ≤ m.toNat ∧ p = 51 := by simp [topErr, mem_need]

theorem Ty.beq_code (s t : Ty) : (s == t) = decide (s.code = t.code) := by
  rw [Bool.eq_iff_iff, beq_iff_eq, decide_eq_true_iff, Ty.code_inj]

theorem mem_satErr (t : Ty) (m : BitVec 4) (p : Nat) : p ∈ satErr t m ↔
    ((m.toNat % 2 = 1 ∧ (t.code = 3 ∨ t.code = 6)) ∧ p = 48) ∨ (2 ≤ m.toNat ∧ p = 49) := by
  simp only [satErr, List.mem_append, mem_need, mem_bit0Err, Bool.not_eq_false', Bool.and_eq_true, Bool.or_eq_true, getLsbD_zero,
    Ty.beq_code, decide_eq_true_eq]
  rfl

theorem mem_mixErr (t : Ty) (m : BitVec 4) (p : Nat) : p ∈ mixErr t m ↔
    ((m.toNat % 2 = 1 ∧ t.code ≠ 0) ∧ p = 48) ∨ (2 ≤ m.toNat ∧ p = 49) := by
  simp only [mixErr, List.mem_append, mem_need, mem_bit0Err, Bool.not_eq_false', Bool.and_eq_true, getLsbD_zero, bne_iff_ne, ne_eq,
    ← Ty.code_inj]
  rfl

theorem mem_ctlErr (t : Ty) (m : BitVec 4) (p : Nat) : p ∈ ctlErr t m ↔ (t.code ∉ [0] ∧ p = 52) ∨ (m.toNat ≠ 0 ∧ p = 48) := by
  simp [ctlErr, mem_tyErr, mem_zeroErr, Ty.code]

theorem mem_elemErr (m : BitVec 4) (p : Nat) : p ∈ elemErr m ↔ (m.toNat % 4 = 3 ∧ p = 48) ∨ (4 ≤ m.toNat ∧ p = 50) := by
  simp [elemErr, mem_need, mem_rndErr]

theorem Ty.packed_iff (t : Ty) : t.packed = true ↔ t.code = 11 ∨ t.code = 12 := by cases t <;> decide

theorem mem_cvtErr (t s : Ty) (p : Nat) : p ∈ cvtErr t s ↔
    (t.code ∉ (tyCvt ++ [Ty.f16x2, Ty.bf16x2]).map Ty.code ∧ p = 52) ∨
      ((s.code ∉ tyCvt.map Ty.code ∨ ((t.code = 11 ∨ t.code = 12) ∧ s.code ≠ 2)) ∧ p = 48) := by
  have hs : s.code ∈ tyCvt.map Ty.code ↔ s ∈ tyCvt := by simp [Ty.code_inj]
  simp only [cvtErr, List.mem_append (s := tyErr _ _), mem_tyErr, mem_need, Bool.and_eq_false_iff, decide_eq_false_iff_not,
    Bool.or_eq_false_iff, Bool.not_eq_false', Ty.packed_iff, hs, beq_eq_false_iff_ne, ne_eq, ← Ty.code_inj (s := s) (t := .f32)]
  rfl

theorem mem_icmpErr (t : Ty) (m : BitVec 4) (p : Nat) : p ∈ icmpErr t m ↔
    ((6 ≤ m.toNat % 8 ∨ (2 ≤ m.toNat % 8 ∧ (t.code = 3 ∨ t.code = 6))) ∧ p = 48) ∨ (8 ≤ m.toNat ∧ p = 51) := by
  have hb : t = .b32 ↔ t.code = 3 := Ty.code_inj.symm
  have hb' : t = .b64 ↔ t.code = 6 := Ty.code_inj.symm
  simp only [icmpErr, List.mem_append, mem_need, mem_topErr, Bool.or_eq_false_iff, decide_eq_false_iff_not, Bool.and_eq_false_iff,
    bne_eq_false_iff_eq, hb, hb']
  omega

/-- The types that each operation of LRED accepts (R188). -/
theorem mem_lredErr (t : Ty) (m : BitVec 4) (p : Nat) : p ∈ lredErr t m ↔
    (((m.toNat % 8 = 0 ∧ t.code ∉ [0, 1, 3, 2]) ∨ (1 ≤ m.toNat % 8 ∧ m.toNat % 8 ≤ 2 ∧ t.code ∉ [0, 1, 2]) ∨
      (3 ≤ m.toNat % 8 ∧ m.toNat % 8 ≤ 5 ∧ t.code ∉ [0, 1, 3])) ∧ p = 52) ∨
      (6 ≤ m.toNat % 8 ∧ p = 48) ∨ (8 ≤ m.toNat ∧ p = 51) := by
  have h0 := mem_tyErr t [.i32, .n32, .b32, .f32] p
  have h1 := mem_tyErr t [.i32, .n32, .f32] p
  have h3 := mem_tyErr t tyI32 p
  simp only [tyI32, show [Ty.i32, .n32, .b32, .f32].map Ty.code = [0, 1, 3, 2] from rfl,
    show [Ty.i32, .n32, .f32].map Ty.code = [0, 1, 2] from rfl, show [Ty.i32, .n32, .b32].map Ty.code = [0, 1, 3] from rfl]
    at h0 h1 h3
  have hlt : m.toNat % 8 < 8 := Nat.mod_lt _ (by decide)
  simp only [lredErr, List.mem_append, mem_topErr, ← or_assoc]
  refine or_congr_left ?_
  generalize m.toNat % 8 = n at *
  interval_cases n <;> simp [h0, h1, h3, tyI32]

theorem mem_baseErr (o : Operand) (pos p : Nat) : p ∈ baseErr o pos ↔ o.code / 256 ≠ 1 ∧ p = pos := by
  rw [baseErr, mem_need, beq_eq_false_iff_ne, ne_eq, Operand.lvl_v]

theorem mem_bndErr (f : V3) (p : Nat) : p ∈ bndErr f ↔
    ((f.c.code ≠ 0 ∨ f.b.code ≠ 0) ∧ ((f.a.code = 0 ∧ f.d.code = 0) ∨ 256 ≤ f.c.code)) ∧ p = 8 ∨
    ((f.c.code ≠ 0 ∨ f.b.code ≠ 0) ∧ (f.b.code / 256 ≠ 1 ∨ ((f.a.code ≠ 0 ∨ f.d.code ≠ 0) ∧ f.b.code = f.d.code))) ∧ p = 18 ∨
    ((f.a.code ≠ 0 ∨ f.d.code ≠ 0) ∧ 256 ≤ f.a.code) ∧ p = 28 ∨ ((f.a.code ≠ 0 ∨ f.d.code ≠ 0) ∧ f.d.code / 256 ≠ 1) ∧ p = 38 := by
  simp only [bndErr, List.mem_append, mem_need, Bool.or_eq_false_iff, Bool.and_eq_false_iff, Bool.not_eq_false', decide_eq_true_eq,
    decide_eq_false_iff_not, beq_eq_false_iff_ne, ne_eq, Operand.lvl_v, Operand.lvl_k, ← (Operand.code_zero _), ← Operand.code_inj,
    Bool.and_eq_true, beq_iff_eq, or_assoc]
  omega

theorem mem_unguardedErr (g : Guard) (p : Nat) : p ∈ unguardedErr g ↔ g ≠ .always ∧ p = 2 := by simp [unguardedErr, mem_need]

theorem mem_prmtErr (i : BitVec 20) (p : Nat) : p ∈ prmtErr i ↔
    ∃ k < 4, 6 ≤ bitsOf i.toNat (5 * k + 2) (5 * k) ∧ p = 8 + 5 * k := by
  simp [prmtErr, eq_comm]

theorem mem_cntErr (i : BitVec 20) (top p : Nat) : p ∈ cntErr i top ↔ top < bitsOf i.toNat 12 4 ∧ p = 12 := by
  simp [cntErr, mem_need]

theorem mem_szErr (sz : BitVec 3) (l : List Nat) (p : Nat) : p ∈ szErr sz l ↔ sz.toNat ∉ l ∧ p = 53 := by
  simp [szErr, mem_need]

theorem mem_ordErr (f : FM) (l : List Nat) (lo top p : Nat) : p ∈ ordErr f l lo top ↔
    p ∈ if f.ord.toNat ∈ l then (if (if f.ord.toNat = 0 then lo else top) < f.scope.toNat then [48] else [])
      else (if 5 < f.scope.toNat then [48] else []) ++ [51] := by
  have h0 : f.ord = 0 ↔ f.ord.toNat = 0 := by rw [← BitVec.toNat_inj]; rfl
  simp only [ordErr, h0]
  split <;> simp [mem_need]

theorem mem_atomScopeErr (f : FM) (p : Nat) : p ∈ atomScopeErr f false ↔ 4 < f.scope.toNat ∧ p = 48 := by
  simp [atomScopeErr, mem_need]

theorem mem_atomScopeErr_remote (f : FM) (p : Nat) : p ∈ atomScopeErr f true ↔
    (5 < f.scope.toNat ∨ (f.scope.toNat = 5 ∧ f.ord.toNat % 2 = 0)) ∧ p = 48 := by
  have hbit : f.ord.getLsbD 0 = false ↔ ¬ f.ord.toNat % 2 = 1 := by rw [← getLsbD_zero, Bool.not_eq_true]
  simp only [atomScopeErr, mem_need, Bool.true_and, Bool.or_eq_false_iff, decide_eq_false_iff_not, Bool.and_eq_false_iff,
    beq_eq_false_iff_ne, ne_eq, hbit]
  omega

theorem mem_rbErr (rb : BitVec 8) (p : Nat) : p ∈ rbErr rb ↔ (0xC0 ≤ rb.toNat ∧ rb.toNat ≠ 0xFF) ∧ p = 20 := by
  simp [rbErr, mem_need]

theorem mem_rbSpadErr (rb : BitVec 8) (p : Nat) :
    p ∈ rbSpadErr rb ↔ (rb.toNat < 0x80 ∨ (0xC0 ≤ rb.toNat ∧ rb.toNat ≠ 0xFF)) ∧ p = 20 := by
  simp [rbSpadErr, mem_need]
  omega

theorem mem_aopErr (f : FM) (p : Nat) : p ∈ aopErr f 10 ↔ (10 < f.aop ∨ (f.aop = 10 ∧ f.sz.toNat ≠ 0)) ∧ p = 16 := by
  simp [aopErr, mem_need, BitVec.toNat_eq]
  omega

theorem mem_redErr (f : FM) (p : Nat) : p ∈ redErr f ↔ (f.aop = 8 ∨ f.aop = 9) ∧ p = 16 := by
  simp [redErr, mem_need]
  omega

theorem mem_fenceErr (f : FM) (p : Nat) : p ∈ fenceErr f ↔ (f.off.toNat ≠ 0 ∧ p = 8) ∨ (1 < f.rb.toNat ∧ p = 20) ∨
    (4 < f.scope.toNat ∧ p = 48) ∨ ((f.ord.toNat = 0 ∧ f.rb.toNat ≠ 1) ∧ p = 51) := by
  simp [fenceErr, mem_need, BitVec.toNat_eq]

theorem mem_condErr (c : BitVec 4) (p : Nat) : p ∈ condErr c ↔ 2 < c.toNat ∧ p = 52 := by simp [condErr, mem_need]

theorem mem_subErr (s : BitVec 4) (top p : Nat) : p ∈ subErr s top ↔ top < s.toNat ∧ p = 52 := by simp [subErr, mem_need]

theorem mem_slotErr (s : BitVec 3) (p : Nat) : p ∈ slotErr s ↔ s.toNat ≠ 0 ∧ p = 49 := by
  rw [slotErr, mem_need, beq_eq_false_iff_ne, ne_eq, ← BitVec.toNat_inj]
  rfl

theorem mem_hredErr (f : FE) (p : Nat) : p ∈ hredErr f ↔
    (f.ef.toNat % 4 = 3 ∨ (f.ef.toNat % 4 = 2 ∧ f.sub.toNat ≠ 0)) ∧ p = 20 := by
  simp [hredErr, mem_need, BitVec.toNat_eq]
  omega

theorem mem_partErr (s : BitVec 4) (top p : Nat) : p ∈ partErr s top ↔ (s.toNat % 4 = 3 ∨ top < s.toNat / 4) ∧ p = 52 := by
  simp [partErr, mem_need]
  omega

theorem mem_idxErr (i : BitVec 12) (top p : Nat) : p ∈ idxErr i top ↔ top < i.toNat ∧ p = 16 := by simp [idxErr, mem_need]

theorem mem_prvErr (f : FS) (p : Nat) : p ∈ prvErr f ↔ ((f.sub.toNat / 4 = 0 ∧ 0x12 < f.idx.toNat) ∨
    (f.sub.toNat / 4 = 1 ∧ dcrAssigned f.idx.toNat = false)) ∧ p = 16 := by
  simp only [prvErr]
  split
  · simp [mem_need, *]
  · split <;> simp [mem_need, *]

theorem dcrAssigned_iff (i : Nat) : dcrAssigned i = true ↔ ∃ r ∈ dcrRanges, r.1 ≤ i ∧ i ≤ r.2 := by
  simp [dcrAssigned]

end Sys2Proof
end

section
/-! The fields that hold a value a word does not accept, for the words of format V3: those that the form of the instruction finds
are those of the tables of its opcode. -/

namespace Sys2Proof

theorem field_eq (w hi lo : Nat) : Table.field w hi lo = bitsOf w hi lo := rfl

theorem mem_tailErrs (w p : Nat) : p ∈ tailErrs w ↔
    ((w.testBit 1 = true ∧ Table.field w 6 2 = 31) ∧ p = 1) ∨ ((24 ≤ Table.field w 6 2 ∧ Table.field w 6 2 ≤ 30) ∧ p = 2) := by
  have hlt : bitsOf w 6 2 < 32 := bitsOf_lt w 6 2
  simp only [tailErrs, List.mem_append, mem_need, bitOf_eq_testBit, field_eq, Bool.not_eq_false', Bool.and_eq_true, beq_iff_eq,
    Bool.or_eq_false_iff, decide_eq_false_iff_not, beq_eq_false_iff_ne]
  exact or_congr_right (and_congr_left fun _ => by omega)

theorem rdGuard_always (w : Nat) : rdGuard w = .always ↔ 24 ≤ Table.field w 6 2 := by
  rw [field_eq, rdGuard]
  split
  · next h => simpa using h
  · next h => simpa using h

/-- A number field of a kind that holds n names nothing that any state has (R80). -/
def OpK.noNumber (k : OpK) (n : Nat) : Prop := (k = .pred ∧ 24 ≤ n) ∨ (k = .tile ∧ 16 ≤ n) ∨ (k = .region ∧ 3 ≤ n)

theorem numBad_iff (k : OpK) (o : Operand) : numBad k o = true ↔ k.noNumber o.code := by
  have hk : ∀ n, n ≤ 256 → ((o.lvl != .k || decide (n ≤ o.idx.toNat)) = true ↔ n ≤ o.code) := by
    intro n hn
    rw [Bool.or_eq_true, bne_iff_ne, ne_eq, Operand.lvl_k, decide_eq_true_eq, Operand.code]
    have := o.idx.isLt
    cases o.lvl <;> simp [Level.code] <;> omega
  unfold OpK.noNumber
  cases k with
  | pred => simpa [numBad] using hk 24 (by decide)
  | tile => simpa [numBad] using hk 16 (by decide)
  | region => simpa [numBad] using hk 3 (by decide)
  | _ => simp [numBad]

section
variable (n : Nat)

theorem noNumber_pred : OpK.pred.noNumber n ↔ 24 ≤ n := by simp [OpK.noNumber]
theorem noNumber_tile : OpK.tile.noNumber n ↔ 16 ≤ n := by simp [OpK.noNumber]
theorem noNumber_region : OpK.region.noNumber n ↔ 3 ≤ n := by simp [OpK.noNumber]
theorem noNumber_unused : OpK.unused.noNumber n ↔ False := by simp [OpK.noNumber]
theorem noNumber_src (w : Nat) : (OpK.src w).noNumber n ↔ False := by simp [OpK.noNumber]
theorem noNumber_dst (w : Nat) : (OpK.dst w).noNumber n ↔ False := by simp [OpK.noNumber]
theorem noNumber_upd (w : Nat) : (OpK.upd w).noNumber n ↔ False := by simp [OpK.noNumber]
theorem noNumber_base : OpK.base.noNumber n ↔ False := by simp [OpK.noNumber]

theorem noNumber_ite (c : Prop) [Decidable c] (a b : OpK) :
    (if c then a else b).noNumber n ↔ if c then a.noNumber n else b.noNumber n := by
  split <;> rfl

theorem noNumber_bndD (a b : Operand) : (bndD a b).noNumber n ↔ False := by simp [bndD, noNumber_ite, noNumber_unused, noNumber_dst]
theorem noNumber_bndA (a b : Operand) : (bndA a b).noNumber n ↔ False := by simp [bndA, noNumber_ite, noNumber_unused, noNumber_src]

end

theorem mem_fieldErrs (f : Info) (p : Nat) : p ∈ f.fieldErrs ↔
    ((f.fsel = true ∧ f.long = false) ∧ p = 0) ∨ p ∈ f.errs ∨ ∃ e ∈ f.ops, e.1.noNumber e.2.1.code ∧ p = e.2.2 := by
  simp only [Info.fieldErrs, List.mem_append, mem_need, List.mem_filterMap, Option.ite_none_right_eq_some, numBad_iff,
    Option.some.injEq, or_assoc, Bool.or_eq_false_iff, Bool.not_eq_false', eq_comm (a := p), and_comm (a := f.fsel = true)]

/-- What TY offends in, under the types that a word accepts; none where TY is no type. -/
def typeErrs (l : Option (List Nat)) (t : Nat) : List Nat :=
  match l with
  | some l => if t ∈ l then [] else [52]
  | none => []

theorem mem_typeErrs_some (l : List Nat) (t p : Nat) : p ∈ typeErrs (some l) t ↔ t ∉ l ∧ p = 52 := by
  by_cases h : t ∈ l <;> simp [typeErrs, h]

theorem mem_typeErrs_none (t p : Nat) : p ∈ typeErrs none t ↔ False := by simp [typeErrs]

/-- What offends in a word, part by part. -/
theorem mem_offends (op w p : Nat) : p ∈ Table.offends op w ↔
    ((w.testBit 0 = true ∧ Table.long op = false) ∧ p = 0) ∨ p ∈ tailErrs w ∨
    (∃ n ∈ Table.numbers op, n.2 ≤ Table.field w (n.1 + 9) n.1 ∧ p = n.1) ∨
    p ∈ typeErrs (Table.types op w) (Table.field w 55 52) ∨ p ∈ Table.mods op w ∨ p ∈ Table.memory op w ∨
    p ∈ Table.others op w ∨ p ∈ Table.operands op w := by
  rw [show Table.offends op w = (if w.testBit 0 && !Table.long op then [0] else []) ++
      (if w.testBit 1 && decide (Table.field w 6 2 = 31) then [1] else []) ++
      (if 24 ≤ Table.field w 6 2 ∧ Table.field w 6 2 ≤ 30 then [2] else []) ++
      ((Table.numbers op).filter (fun n => decide (n.2 ≤ Table.field w (n.1 + 9) n.1))).map (·.1) ++
      typeErrs (Table.types op w) (Table.field w 55 52) ++ Table.mods op w ++ Table.memory op w ++ Table.others op w ++
      Table.operands op w from rfl]
  simp only [List.mem_append, mem_at, mem_tailErrs, List.mem_map, List.mem_filter, decide_eq_true_eq, or_assoc, Bool.and_eq_true,
    Bool.not_eq_true', eq_comm (a := p), and_assoc]

theorem tyI32_codes : tyI32.map Ty.code = [0, 1, 3] := rfl
theorem tyI64_codes : tyI64.map Ty.code = [4, 5, 6] := rfl
theorem tyS32_codes : tyS32.map Ty.code = [0, 1] := rfl
theorem tyS64_codes : tyS64.map Ty.code = [4, 5] := rfl
theorem tyF_codes : tyF.map Ty.code = [2, 9, 10] := rfl
theorem tyFX_codes : tyFX.map Ty.code = [2, 9, 10, 11, 12] := rfl
theorem tyCvt_codes : tyCvt.map Ty.code = [13, 14, 7, 8, 0, 1, 4, 5, 9, 10, 2] := rfl
theorem code_i32 : Ty.i32.code = 0 := rfl
theorem code_b32 : Ty.b32.code = 3 := rfl
theorem code_i64 : Ty.i64.code = 4 := rfl
theorem code_b64 : Ty.b64.code = 6 := rfl
theorem code_f32 : Ty.f32.code = 2 := rfl
theorem code_f16x2 : Ty.f16x2.code = 11 := rfl
theorem code_bf16x2 : Ty.bf16x2.code = 12 := rfl

/-- The form of an instruction agrees with the tables of its opcode on what offends at p. -/
structure Agrees (op w p : Nat) (f : Info) : Prop where
  long : f.long = Table.long op
  fsel : f.fsel = w.testBit 0
  numbers : (∃ e ∈ f.ops, e.1.noNumber e.2.1.code ∧ p = e.2.2) ↔ ∃ n ∈ Table.numbers op, n.2 ≤ Table.field w (n.1 + 9) n.1 ∧ p = n.1
  errs : ¬ (p = 2 ∧ 24 ≤ Table.field w 6 2 ∧ Table.field w 6 2 ≤ 30) → (p ∈ f.errs ↔
    p ∈ typeErrs (Table.types op w) (Table.field w 55 52) ∨ p ∈ Table.mods op w ∨ p ∈ Table.memory op w ∨ p ∈ Table.others op w ∨
      p ∈ Table.operands op w)

theorem Agrees.mem_offends_iff {op w p : Nat} {f : Info} (h : Agrees op w p f) :
    p ∈ tailErrs w ++ f.fieldErrs ↔ p ∈ Table.offends op w := by
  obtain ⟨hl, hs, hn, he⟩ := h
  rw [List.mem_append, mem_fieldErrs, mem_offends, hl, hs, hn]
  by_cases hg : p = 2 ∧ 24 ≤ Table.field w 6 2 ∧ Table.field w 6 2 ≤ 30
  · have ht : p ∈ tailErrs w := (mem_tailErrs w p).2 (.inr ⟨hg.2, hg.1⟩)
    simp only [ht, true_or, or_true]
  · rw [he hg, or_left_comm]
    exact or_congr_right (or_congr_right or_comm)

theorem guard_ne_always {w p : Nat} (h : ¬ (p = 2 ∧ 24 ≤ Table.field w 6 2 ∧ Table.field w 6 2 ≤ 30)) :
    rdGuard w ≠ .always ∧ p = 2 ↔ Table.field w 6 2 ≠ 31 ∧ p = 2 := by
  have hlt : Table.field w 6 2 < 32 := bitsOf_lt w 6 2
  rw [ne_eq, rdGuard_always]
  omega

section
variable (w : Nat)

theorem code_rdV3 : (rdV3 w).ty.code = Table.field w 55 52 ∧ (rdV3 w).mod.toNat = Table.field w 51 48 ∧
    (rdV3 w).d.code = Table.field w 47 38 ∧ (rdV3 w).a.code = Table.field w 37 28 ∧ (rdV3 w).b.code = Table.field w 27 18 ∧
    (rdV3 w).c.code = Table.field w 17 8 := by
  simp only [rdV3, Ty.code_ofCode_bitsOf, Operand.code_ofCode_bitsOf, toNat_ofNat_bitsOf, field_eq, and_self]

end

theorem numbers_v3 {op w p : Nat} {i : Instr} {f : Info} (h : byV3 op (rdV3 w) = some i) (hi : i.info = some f) :
    f.long = Table.long op ∧ f.fsel = w.testBit 0 ∧ ((∃ e ∈ f.ops, e.1.noNumber e.2.1.code ∧ p = e.2.2) ↔
      ∃ n ∈ Table.numbers op, n.2 ≤ Table.field w (n.1 + 9) n.1 ∧ p = n.1) := by
  obtain ⟨-, -, hd, ha, hb, hc⟩ := code_rdV3 w
  unfold byV3 at h
  split at h <;> cases h <;> cases hi <;> refine ⟨rfl, bitOf_eq_testBit w 0, ?_⟩
  all_goals
    simp +decide only [v3Info, Table.numbers, ↓reduceIte, List.mem_cons, List.not_mem_nil, or_false, exists_eq_or_imp,
      exists_eq_left, noNumber_pred, noNumber_tile, noNumber_region, noNumber_unused, noNumber_src, noNumber_dst, noNumber_base,
      noNumber_ite, noNumber_bndD, noNumber_bndA, ite_self, false_and, hd, ha, hb, hc, Nat.reduceAdd, exists_false, false_or]

theorem field_low3 (w : Nat) : Table.field w 50 48 = Table.field w 51 48 % 8 := by
  simp only [Table.field]
  omega

theorem errs_cvt (t m p : Nat) (hm : m < 16) :
    (t ∉ [13, 14, 7, 8, 0, 1, 4, 5, 9, 10, 2, 11, 12] ∧ p = 52) ∨
      (((Ty.ofCode m).code ∉ [13, 14, 7, 8, 0, 1, 4, 5, 9, 10, 2] ∨ ((t = 11 ∨ t = 12) ∧ (Ty.ofCode m).code ≠ 2)) ∧ p = 48) ↔
    (t ∉ [0, 1, 2, 4, 5, 7, 8, 9, 10, 11, 12, 13, 14] ∧ p = 52) ∨
      ((m ∉ [0, 1, 2, 4, 5, 7, 8, 9, 10, 13, 14] ∨ ((t = 11 ∨ t = 12) ∧ m ≠ 2)) ∧ p = 48) := by
  rw [Ty.code_ofCode hm]
  simp only [List.mem_cons, List.not_mem_nil, or_false]
  omega

theorem errs_lred (t m p : Nat) (w : Nat) (hm : Table.field w 50 48 = m % 8) :
    (((m % 8 = 0 ∧ t ∉ [0, 1, 3, 2]) ∨ (1 ≤ m % 8 ∧ m % 8 ≤ 2 ∧ t ∉ [0, 1, 2]) ∨ (3 ≤ m % 8 ∧ m % 8 ≤ 5 ∧ t ∉ [0, 1, 3])) ∧ p = 52) ↔
    p ∈ typeErrs (Table.types 0x8C w) t := by
  have hn : m % 8 < 8 := Nat.mod_lt _ (by decide)
  simp +decide only [Table.types, ↓reduceIte, hm]
  generalize m % 8 = n at *
  interval_cases n <;> simp [mem_typeErrs_some, mem_typeErrs_none]
  omega

theorem errs_v3 {op w p : Nat} {i : Instr} {f : Info} (h : byV3 op (rdV3 w) = some i) (hi : i.info = some f)
    (hbare : ¬ (p = 2 ∧ 24 ≤ Table.field w 6 2 ∧ Table.field w 6 2 ≤ 30)) : p ∈ f.errs ↔
      p ∈ typeErrs (Table.types op w) (Table.field w 55 52) ∨ p ∈ Table.mods op w ∨ p ∈ Table.operands op w := by
  obtain ⟨hty, hm, hd, ha, hb, hc⟩ := code_rdV3 w
  have hg : (rdV3 w).g ≠ .always ∧ p = 2 ↔ Table.field w 6 2 ≠ 31 ∧ p = 2 := guard_ne_always hbare
  unfold byV3 at h
  split at h <;> cases h <;> cases hi
  case h_87 =>
    rw [← errs_lred _ _ p w (field_low3 w)]
    simp +decide only [v3Info, mem_lredErr, hty, hm, Table.mods, Table.operands, ↓reduceIte, List.mem_append, mem_at,
      List.not_mem_nil, or_false]
  all_goals
    simp +decide only [v3Info, Table.types, Table.mods, Table.operands, ↓reduceIte, List.mem_append, mem_tyErr, mem_zeroErr,
      mem_bit0Err, mem_rndErr, mem_topErr, mem_satErr, mem_mixErr, mem_ctlErr, mem_elemErr, mem_cvtErr, mem_icmpErr, mem_baseErr,
      mem_bndErr, mem_unguardedErr, mem_at, hty, hm, hd, ha, hb, hc, hg, List.map_append, tyI32_codes, tyI64_codes, tyS32_codes,
      tyS64_codes, tyF_codes, tyFX_codes, tyCvt_codes, List.map_cons, List.map_nil, code_i32, code_b32, code_i64, code_b64,
      code_f16x2, code_bf16x2, List.cons_append, List.nil_append, mem_typeErrs_some, mem_typeErrs_none, List.not_mem_nil, or_false,
      or_assoc]
  case h_69 => exact errs_cvt _ _ p (bitsOf_lt w 51 48)

theorem agrees_v3 {op w : Nat} {i : Instr} {f : Info} (h : byV3 op (rdV3 w) = some i) (hi : i.info = some f) (p : Nat) :
    Agrees op w p f := by
  obtain ⟨hl, hs, hn⟩ := numbers_v3 (p := p) h hi
  refine ⟨hl, hs, hn, fun hbare => ?_⟩
  have hmem : Table.memory op w = [] ∧ Table.others op w = [] := by
    unfold byV3 at h
    split at h <;> cases h <;> exact ⟨rfl, rfl⟩
  rw [errs_v3 h hi hbare, hmem.1, hmem.2]
  simp only [List.not_mem_nil, false_or]

end Sys2Proof
end

section
/-! The fields that hold a value a word does not accept, for the words of the formats VI, M, BR, E and S. -/

namespace Sys2Proof

theorem code_rdVI (w : Nat) : (rdVI w).ty.code = Table.field w 55 52 ∧ (rdVI w).mod.toNat = Table.field w 51 48 ∧
    (∀ h l, h < 20 → bitsOf (rdVI w).imm.toNat h l = Table.field w (8 + h) (8 + l)) := by
  refine ⟨?_, ?_, fun h l hh => ?_⟩
  · simp only [rdVI, Ty.code_ofCode_bitsOf, field_eq]
  · simp only [rdVI, toNat_ofNat_bitsOf, field_eq]
  · simp only [rdVI, toNat_ofNat_bitsOf, field_eq]
    exact bitsOf_bitsOf _ _ _ _ _ (by omega)

theorem numbers_vi {op w p : Nat} {i : Instr} {f : Info} (h : byVI op (rdVI w) = some i) (hi : i.info = some f) :
    f.long = Table.long op ∧ f.fsel = w.testBit 0 ∧ ((∃ e ∈ f.ops, e.1.noNumber e.2.1.code ∧ p = e.2.2) ↔
      ∃ n ∈ Table.numbers op, n.2 ≤ Table.field w (n.1 + 9) n.1 ∧ p = n.1) := by
  unfold byVI at h
  split at h <;> cases h <;> cases hi <;> refine ⟨rfl, bitOf_eq_testBit w 0, ?_⟩
  all_goals
    simp +decide only [viInfo, Table.numbers, ↓reduceIte, List.mem_cons, List.not_mem_nil, or_false, exists_eq_or_imp,
      exists_eq_left, noNumber_unused, noNumber_src, noNumber_dst, false_and, exists_false]

theorem errs_prmt (w p : Nat) : (∃ k < 4, 6 ≤ bitsOf (rdVI w).imm.toNat (5 * k + 2) (5 * k) ∧ p = 8 + 5 * k) ↔
    p ∈ Table.operands 0x3F w := by
  have hf : ∀ k < 4, bitsOf (rdVI w).imm.toNat (5 * k + 2) (5 * k) = Table.field w (10 + 5 * k) (8 + 5 * k) := fun k hk => by
    rw [(code_rdVI w).2.2 _ _ (by omega), show 8 + (5 * k + 2) = 10 + 5 * k by omega]
  simp only [Table.operands, List.mem_flatMap, List.mem_range, mem_at]
  exact exists_congr fun k => and_congr_right fun hk => by rw [hf k hk]

theorem errs_vi {op w p : Nat} {i : Instr} {f : Info} (h : byVI op (rdVI w) = some i) (hi : i.info = some f)
    (hbare : ¬ (p = 2 ∧ 24 ≤ Table.field w 6 2 ∧ Table.field w 6 2 ≤ 30)) : p ∈ f.errs ↔
      p ∈ typeErrs (Table.types op w) (Table.field w 55 52) ∨ p ∈ Table.mods op w ∨ p ∈ Table.operands op w := by
  obtain ⟨hty, hm, himm⟩ := code_rdVI w
  have hg : (rdVI w).g ≠ .always ∧ p = 2 ↔ Table.field w 6 2 ≠ 31 ∧ p = 2 := guard_ne_always hbare
  unfold byVI at h
  split at h <;> cases h <;> cases hi
  case h_17 =>
    simp +decide only [viInfo, Table.types, Table.mods, ↓reduceIte, List.mem_append, mem_tyErr, mem_zeroErr, mem_prmtErr,
      errs_prmt, mem_at, hty, hm, tyI32_codes, mem_typeErrs_some, or_assoc]
  all_goals
    simp +decide only [viInfo, Table.types, Table.mods, Table.operands, ↓reduceIte, List.mem_append, mem_tyErr, mem_zeroErr,
      mem_bit0Err, mem_rndErr, mem_topErr, mem_satErr, mem_ctlErr, mem_unguardedErr, mem_cntErr, mem_at, hty, hm, himm, hg,
      gt_iff_lt, List.map_append, tyI32_codes, tyI64_codes, tyS32_codes, tyS64_codes, List.map_cons, List.map_nil, code_b32,
      code_f32, List.cons_append, List.nil_append, mem_typeErrs_some, List.not_mem_nil, or_false, or_assoc, Nat.reduceAdd]

theorem agrees_vi {op w : Nat} {i : Instr} {f : Info} (h : byVI op (rdVI w) = some i) (hi : i.info = some f) (p : Nat) :
    Agrees op w p f := by
  obtain ⟨hl, hs, hn⟩ := numbers_vi (p := p) h hi
  refine ⟨hl, hs, hn, fun hbare => ?_⟩
  have hmem : Table.memory op w = [] ∧ Table.others op w = [] := by
    unfold byVI at h
    split at h <;> cases h <;> exact ⟨rfl, rfl⟩
  rw [errs_vi h hi hbare, hmem.1, hmem.2]
  simp only [List.not_mem_nil, false_or]

theorem code_rdM (w : Nat) : (rdM w).sz.toNat = Table.field w 55 53 ∧ (rdM w).ord.toNat = Table.field w 52 51 ∧
    (rdM w).scope.toNat = Table.field w 50 48 ∧ (rdM w).rb.toNat = Table.field w 27 20 ∧ (rdM w).off.toNat = Table.field w 19 8 ∧
    (rdM w).d.code = Table.field w 47 38 ∧ (rdM w).a.code = Table.field w 37 28 := by
  simp only [rdM, Operand.code_ofCode_bitsOf, toNat_ofNat_bitsOf, field_eq, and_self]

theorem rdM_aop (w : Nat) : (rdM w).aop = Table.field w 19 16 := by
  simp only [FM.aop, rdM, toNat_ofNat_bitsOf, field_eq]
  exact bitsOf_div w 19 8 8

theorem rdM_wcond (w : Nat) : (rdM w).wcond = Table.field w 26 24 := by
  simp only [FM.wcond, rdM, toNat_ofNat_bitsOf, field_eq]
  exact bitsOf_bitsOf w 27 20 6 4 (by decide)

theorem ofNat_bitsOf_getLsbD {n hi lo k : Nat} (w : Nat) (h : hi + 1 - lo = n) (hk : k < n) :
    (BitVec.ofNat n (bitsOf w hi lo)).getLsbD k = w.testBit (lo + k) := by
  subst h
  rw [BitVec.getLsbD_ofNat, bitsOf, Nat.testBit_mod_two_pow, Nat.testBit_div_two_pow, Nat.add_comm k lo]
  simp [hk]

theorem rdM_spm (w : Nat) : (rdM w).spm = w.testBit 27 := ofNat_bitsOf_getLsbD w rfl (by decide)

theorem rdM_accSpm (w : Nat) : (rdM w).accSpm = w.testBit 49 := ofNat_bitsOf_getLsbD w rfl (by decide)

theorem numbers_m {op w p : Nat} {i : Instr} {f : Info} (h : byM op (rdM w) = some i) (hi : i.info = some f) :
    f.long = Table.long op ∧ f.fsel = w.testBit 0 ∧ ((∃ e ∈ f.ops, e.1.noNumber e.2.1.code ∧ p = e.2.2) ↔
      ∃ n ∈ Table.numbers op, n.2 ≤ Table.field w (n.1 + 9) n.1 ∧ p = n.1) := by
  obtain ⟨-, -, -, -, -, hd, ha⟩ := code_rdM w
  unfold byM at h
  split at h <;> cases h <;> cases hi <;> refine ⟨rfl, bitOf_eq_testBit w 0, ?_⟩
  all_goals
    simp +decide only [fmInfo, Table.numbers, ↓reduceIte, List.mem_cons, List.not_mem_nil, or_false, exists_eq_or_imp,
      exists_eq_left, noNumber_unused, noNumber_src, noNumber_dst, noNumber_tile, noNumber_region, noNumber_upd, atomK, false_and,
      exists_false, hd, ha, Nat.reduceAdd]

theorem notMem_upto_0 (n : Nat) : n ∉ [0] ↔ 0 < n := by simp [Nat.pos_iff_ne_zero]
theorem notMem_upto_1 (n : Nat) : n ∉ [0, 1] ↔ 1 < n := by simp; omega
theorem notMem_upto_2 (n : Nat) : n ∉ [0, 1, 2] ↔ 2 < n := by simp; omega
theorem notMem_upto_4 (n : Nat) : n ∉ [0, 1, 2, 3, 4] ↔ 4 < n := by simp; omega

theorem errs_m {op w p : Nat} {i : Instr} {f : Info} (h : byM op (rdM w) = some i) (hi : i.info = some f) :
    p ∈ f.errs ↔ p ∈ Table.memory op w := by
  obtain ⟨hsz, hord, hsc, hrb, hoff, -, -⟩ := code_rdM w
  unfold byM at h
  split at h <;> cases h <;> cases hi
  case h_18 | h_19 => 
    simp only [fmInfo, Table.memory, rdM_accSpm]
    split <;> simp only [mem_rbErr, mem_rbSpadErr, mem_at, hrb]
  all_goals
    simp +decide only [fmInfo, Table.memory, List.mem_append, mem_at, mem_szErr, mem_ordErr, mem_atomScopeErr,
      mem_atomScopeErr_remote, mem_rbErr, mem_rbSpadErr, mem_aopErr, mem_redErr, mem_fenceErr, hsz, hord, hsc, hrb, hoff, rdM_aop,
      rdM_wcond, rdM_spm, notMem_upto_0, notMem_upto_1, notMem_upto_2, notMem_upto_4, ge_iff_le, or_assoc]

theorem agrees_m {op w : Nat} {i : Instr} {f : Info} (h : byM op (rdM w) = some i) (hi : i.info = some f) (p : Nat) :
    Agrees op w p f := by
  obtain ⟨hl, hs, hn⟩ := numbers_m (p := p) h hi
  refine ⟨hl, hs, hn, fun _ => ?_⟩
  have hmem : Table.types op w = none ∧ Table.mods op w = [] ∧ Table.others op w = [] ∧ Table.operands op w = [] := by
    unfold byM at h
    split at h <;> cases h <;> exact ⟨rfl, rfl, rfl, rfl⟩
  obtain ⟨ht, hm, ho, hop⟩ := hmem
  rw [errs_m h hi, ht, hm, ho, hop]
  simp only [mem_typeErrs_none, List.not_mem_nil, false_or, or_false]

theorem agrees_br {op w : Nat} {i : Instr} {f : Info} (h : byBR op (rdBr w) = some i) (hi : i.info = some f) (p : Nat) :
    Agrees op w p f := by
  have hc : (rdBr w).cond.toNat = Table.field w 55 52 := toNat_ofNat_bitsOf 4 w 55 52 rfl
  unfold byBR at h
  split at h <;> cases h <;> cases hi <;> refine ⟨rfl, bitOf_eq_testBit w 0, ?_, fun _ => ?_⟩
  all_goals
    simp +decide only [brInfo, Table.numbers, Table.types, Table.mods, Table.memory, Table.others, Table.operands, ↓reduceIte,
      mem_condErr, mem_typeErrs_none, mem_at, hc, List.not_mem_nil, false_and, exists_false, or_false, false_or]

theorem mem_unless (c : Prop) [Decidable c] (p q : Nat) : (p ∈ if c then [] else [q]) ↔ ¬ c ∧ p = q := by
  split <;> simp [*]

theorem code_rdE (w : Nat) : (rdE w).sub.toNat = Table.field w 55 52 ∧ (rdE w).slot.toNat = Table.field w 51 49 ∧
    (rdE w).ef.toNat = Table.field w 27 20 ∧ (rdE w).p.code = Table.field w 47 38 ∧ (rdE w).x.code = Table.field w 37 28 := by
  simp only [rdE, Operand.code_ofCode_bitsOf, toNat_ofNat_bitsOf, field_eq, and_self]

theorem agrees_e {op w : Nat} {i : Instr} {f : Info} (h : byE op (rdE w) = some i) (hi : i.info = some f) (p : Nat) :
    Agrees op w p f := by
  obtain ⟨hsub, hslot, hef, -, hx⟩ := code_rdE w
  have h0 : (rdE w).sub = 0 ↔ Table.field w 55 52 = 0 := sub_rdE w 0 (by decide)
  have h1 : (rdE w).sub = 1 ↔ Table.field w 55 52 = 1 := sub_rdE w 1 (by decide)
  by_cases hq : (rdE w).sub = 1 <;> simp only [byE, hq, if_true, if_false] at h <;> split at h <;> cases h <;> cases hi <;>
    refine ⟨rfl, bitOf_eq_testBit w 0, ?_, fun _ => ?_⟩
  all_goals
    simp +decide only [feInfo, Table.numbers, Table.types, Table.mods, Table.memory, Table.others, Table.operands, ↓reduceIte,
      List.mem_append, List.mem_cons, exists_eq_or_imp, exists_eq_left, noNumber_pred, noNumber_unused, noNumber_src, mem_subErr,
      mem_slotErr, mem_hredErr, mem_unless, hsub, hslot, hef, hx, h0, h1, mem_typeErrs_none, mem_at, Nat.reduceAdd,
      List.not_mem_nil, false_and, exists_false, or_false, false_or, or_assoc]
  all_goals
    rw [h1] at hq
    omega

theorem code_rdS (w : Nat) : (rdS w).sub.toNat = Table.field w 55 52 ∧ (rdS w).idx.toNat = Table.field w 27 16 := by
  simp only [rdS, toNat_ofNat_bitsOf, field_eq, and_self]

theorem agrees_s {op w : Nat} {i : Instr} {f : Info} (h : byS op (rdS w) = some i) (hi : i.info = some f) (p : Nat) :
    Agrees op w p f := by
  obtain ⟨hsub, hidx⟩ := code_rdS w
  unfold byS at h
  split at h <;> cases h <;> cases hi <;> refine ⟨rfl, bitOf_eq_testBit w 0, ?_, fun _ => ?_⟩
  all_goals
    simp +decide only [fsInfo, Table.numbers, Table.types, Table.mods, Table.memory, Table.others, Table.operands, ↓reduceIte,
      List.mem_append, List.mem_cons, exists_eq_or_imp, exists_eq_left, noNumber_unused, noNumber_src, noNumber_dst, noNumber_ite,
      ite_self, mem_subErr, mem_partErr, mem_idxErr, mem_prvErr, mem_unless, ← Bool.not_eq_true, dcrAssigned_iff, dcrRanges,
      Bool.or_eq_true, decide_eq_true_eq, hsub, hidx, mem_typeErrs_none, mem_at, List.not_mem_nil, false_and, exists_false,
      or_false, false_or, or_assoc]
  all_goals omega

end Sys2Proof
end

section
/-! What a word that does not decode is refused as (R94 to R96). -/

namespace Sys2Proof

theorem assigned_iff : ∀ op < 256, Table.assigned op = (fmtOf op).isSome := by decide +kernel

theorem byV3_isSome_congr (op : Nat) (f g : V3) : (byV3 op f).isSome = (byV3 op g).isSome := by
  unfold byV3
  split <;> rfl

theorem byVI_isSome_congr (op : Nat) (f g : VI) : (byVI op f).isSome = (byVI op g).isSome := by
  unfold byVI
  split <;> rfl

theorem byM_isSome_congr (op : Nat) (f g : FM) : (byM op f).isSome = (byM op g).isSome := by
  unfold byM
  split <;> rfl

theorem byBR_isSome_congr (op : Nat) (f g : FBr) : (byBR op f).isSome = (byBR op g).isSome := by
  unfold byBR
  split <;> rfl

theorem byE_isSome_congr (op : Nat) (f g : FE) : (byE op f).isSome = (byE op g).isSome := by
  unfold byE
  split <;> rfl

theorem byS_isSome_congr (op : Nat) (f g : FS) : (byS op f).isSome = (byS op g).isSome := by
  unfold byS
  split <;> rfl

/-- Whether a format has a word at an opcode is no matter of its fields. -/
theorem Fmt.read_isSome_congr (k : Fmt) (op w x : Nat) : (k.read op w).isSome = (k.read op x).isSome := by
  cases k with
  | v3 => exact byV3_isSome_congr op _ _
  | vi => exact byVI_isSome_congr op _ _
  | m => exact byM_isSome_congr op _ _
  | br => exact byBR_isSome_congr op _ _
  | e => exact byE_isSome_congr op _ _
  | s => exact byS_isSome_congr op _ _

theorem read_fmtOf_isSome : ∀ op < 256, (fmtOf op).all (fun k => (k.read op 0).isSome) = true := by decide +kernel

theorem readWord_isSome (w : Nat) : (readWord w).isSome = (fmtOf (bitsOf w 63 56)).isSome := by
  have hall := read_fmtOf_isSome _ (bitsOf_lt w 63 56)
  cases hk : fmtOf (bitsOf w 63 56) with
  | none => simp [readWord, hk]
  | some k =>
    rw [hk, Option.all_some, k.read_isSome_congr _ 0 w, Option.isSome_iff_exists] at hall
    obtain ⟨i, hi⟩ := hall
    rw [(readWord_eq_some_iff w k i).2 ⟨hk, hi⟩]
    rfl

/-- What the checks of a word find, by the tables of its opcode. -/
structure Checked (op w : Nat) (k : Fmt) (f : Info) : Prop where
  rsv : ∀ p, p ∈ k.rsv w ++ f.rsv ↔ Table.reserved op w p = true
  field : ∀ p, p ∈ tailErrs w ++ f.fieldErrs ↔ p ∈ Table.offends op w

theorem checked_of {op w : Nat} {k : Fmt} {i : Instr}
    (hr : ∀ p, ∃ f, i.info = some f ∧ (p ∈ k.rsv w ++ f.rsv ↔ Table.reserved op w p = true))
    (ha : ∀ f, i.info = some f → ∀ p, Agrees op w p f) : ∃ f, i.info = some f ∧ Checked op w k f := by
  obtain ⟨f, hf, -⟩ := hr 0
  refine ⟨f, hf, fun p => ?_, fun p => (ha f hf p).mem_offends_iff⟩
  obtain ⟨f', hf', hp⟩ := hr p
  rwa [Option.some.inj (hf.symm.trans hf')]

theorem checked_of_read {w : Nat} {k : Fmt} {i : Instr} (h : readWord w = some (k, i)) :
    ∃ f, i.info = some f ∧ Checked (bitsOf w 63 56) w k f := by
  obtain ⟨-, h⟩ := (readWord_eq_some_iff w k i).1 h
  cases k with
  | v3 => exact checked_of (fun _ => reserved_v3 h) fun _ hi => agrees_v3 h hi
  | vi => exact checked_of (fun _ => reserved_vi h) fun _ hi => agrees_vi h hi
  | m => exact checked_of (fun _ => reserved_m h) fun _ hi => agrees_m h hi
  | br => exact checked_of (fun _ => reserved_br h) fun _ hi => agrees_br h hi
  | e => exact checked_of (fun _ => reserved_e h) fun _ hi => agrees_e h hi
  | s => exact checked_of (fun _ => reserved_s h) fun _ hi => agrees_s h hi

theorem leastPos_eq_some_iff (l : List Nat) (p : Nat) : leastPos l = some p ↔ p ∈ l ∧ ∀ q ∈ l, p ≤ q := by
  rw [Machine.leastPos_eq_min?, List.min?_eq_some_iff]

section
variable {w p : Nat} {k : Fmt} {i : Instr} {f : Info} (hread : readWord w = some (k, i)) (hf : i.info = some f)
include hread hf

theorem decodeWord_of_rsv (h : leastPos (k.rsv w ++ f.rsv) = some p) : decodeWord w = .bad .rsvbit p := by
  simp only [decodeWord, hread, hf, h]

theorem decodeWord_of_field (hr : k.rsv w ++ f.rsv = []) (h : leastPos (tailErrs w ++ f.fieldErrs) = some p) :
    decodeWord w = .bad .field p := by
  simp only [decodeWord, hread, hf, (leastPos_eq_none _).2 hr, h]

theorem decodeWord_of_none (hr : k.rsv w ++ f.rsv = []) (h : tailErrs w ++ f.fieldErrs = []) : decodeWord w = .instr i := by
  simp only [decodeWord, hread, hf, (leastPos_eq_none _).2 hr, (leastPos_eq_none _).2 h]

end

end Sys2Proof

namespace Sys2Proof.Machine

/-- Settles O7: what the checks find is what the tables of the opcode list (`checked_of_read`), and the least of it is reported, the
reserved bits before the fields. -/
theorem decodeRefuses : Obligations.DecodeRefuses := by
  intro w hw
  have hop : bitsOf w 63 56 = w / 2 ^ 56 := Nat.mod_eq_of_lt (by omega)
  have hassigned := (assigned_iff _ (bitsOf_lt w 63 56)).trans (readWord_isSome w).symm
  rw [hop] at hassigned
  refine ⟨fun hno => ?_, fun hyes => ?_⟩
  · have hnone : readWord w = none := Option.not_isSome_iff_eq_none.1 (by rw [← hassigned, hno]; decide)
    simp only [decodeWord, hnone]
  · obtain ⟨⟨k, i⟩, hread⟩ := Option.isSome_iff_exists.1 (hassigned.symm.trans hyes)
    obtain ⟨f, hf, hrsv, hfield⟩ := checked_of_read hread
    rw [hop] at hrsv hfield
    refine ⟨fun p hp hleast => decodeWord_of_rsv hread hf ((leastPos_eq_some_iff _ _).2 ⟨(hrsv p).2 hp, fun q hq => ?_⟩),
      fun hzero => ?_⟩
    · by_contra hlt
      have hbit := hleast q (by omega)
      rw [(hrsv q).1 hq] at hbit
      cases hbit
    · have hr : k.rsv w ++ f.rsv = [] := List.eq_nil_iff_forall_not_mem.2 fun p hp => by
        have hbit := hzero p
        rw [(hrsv p).1 hp] at hbit
        cases hbit
      refine ⟨fun p hp hleast => decodeWord_of_field hread hf hr ((leastPos_eq_some_iff _ _).2
        ⟨(hfield p).2 hp, fun q hq => hleast q ((hfield q).1 hq)⟩), fun hnil => ⟨i, decodeWord_of_none hread hf hr ?_⟩⟩
      refine List.eq_nil_iff_forall_not_mem.2 fun p hp => ?_
      have hmem := (hfield p).1 hp
      rw [hnil] at hmem
      cases hmem

/-- Settles O4: each word is decoded. -/
theorem wordsDecode : Obligations.WordsDecode := by
  unfold Obligations.WordsDecode
  decide

end Sys2Proof.Machine
end

section
/-! Register words leave alone everything but their destinations (R78, R128). Every register word goes on from its issue with a new
group for the issuing one; what it leaves alone follows from what that group keeps. -/

namespace Sys2Proof.Machine

/-! ### What the new group of a register word keeps -/

/-- A lane filter of a set has lanes of the set only. -/
theorem laneFilter_sub (m : Mask) (p : Nat → Bool) (l : Nat) (h : (laneFilter m p).getLsbD l = true) : m.getLsbD l = true := by
  rw [laneFilter_bit _ _ _ (BitVec.lt_of_getLsbD h), Bool.and_eq_true] at h
  exact h.1

/-- A result with a meter count keeps what the operand does not cover. -/
theorem Group.write_count_keeps (g : Group) (d : Operand) (ty : Ty) (w : Nat) (x : Issue) (f : Nat → Nat) (m : Option (Nat × Nat)) :
    g.Keeps ((g.write d ty w (x.vals f)).count x.pass m) x.pass (opRegs d w) :=
  (g.write_keeps d ty w x f _ fun _ hr => hr).trans (Group.count_keeps _ _ _ _ _)

/-- A result and a predicate keep every other register. -/
theorem Group.write_pWrite_keeps (g : Group) (d : Operand) (ty : Ty) (w : Nat) (x : Issue) (f : Nat → Nat) (p : Nat) (m y : Mask)
    (hm : ∀ l, m.getLsbD l = true → x.pass.getLsbD l = true) :
    g.Keeps ((g.write d ty w (x.vals f)).pWrite p m y) x.pass (.p p :: opRegs d w) :=
  (g.write_keeps d ty w x f _ fun _ hr => List.mem_cons_of_mem _ hr).trans
    (Group.pWrite_keeps _ _ _ _ _ _ List.mem_cons_self hm)

/-- Predicates written in turn keep every predicate that is not among them. -/
theorem Group.setPreds_keeps (g : Group) (m : Mask) (w : Nat → Nat) : g.Keeps (g.setPreds m w) m allPreds := by
  have loop : ∀ (ps : List Nat) (h : Group), (∀ p ∈ ps, p < 24) →
      h.Keeps (ps.foldl (fun g p => g.pWrite p m (laneFilter m (fun l => bitOf (w l) p))) h) m allPreds := by
    intro ps
    induction ps with
    | nil => exact fun h _ => .refl h _ _
    | cons p ps ih =>
      intro h hp
      have hmem : RegRef.p p ∈ allPreds := List.mem_map.mpr ⟨p, List.mem_range.mpr (hp p List.mem_cons_self), rfl⟩
      exact (h.pWrite_keeps p m _ m _ hmem fun _ hl => hl).trans (ih _ fun q hq => hp q (List.mem_cons_of_mem _ hq))
  exact loop _ g fun p hp => List.mem_range.mp hp

/-- The mark of YIELD is no register. -/
theorem Group.yielded_keeps (g : Group) (b : Bool) (pass : Mask) (ws : List RegRef) : g.Keeps { g with yielded := b } pass ws :=
  ⟨fun _ _ _ _ => rfl, fun _ _ _ _ => rfl, fun _ _ => rfl, fun _ _ _ => rfl, rfl⟩

/-- A word put into a V register of a passing lane keeps every other register. -/
theorem Group.vSet_keeps (g : Group) (r l : Nat) (v : Word) (pass : Mask) (ws : List RegRef) (hr : .v r ∈ ws)
    (hl : pass.getLsbD l = true) : g.Keeps (g.vSet r l v) pass ws := by
  refine ⟨?_, fun _ _ _ _ => rfl, fun _ _ => rfl, fun _ _ _ => rfl, rfl⟩
  intro q k hk hn
  rw [Group.vGet_vSet _ _ _ _ _ _ (BitVec.lt_of_getLsbD hl) hk, if_neg]
  rintro ⟨rfl, rfl⟩
  exact hn ⟨hr, hl⟩

/-! ### Indexed moves -/

/-- Where no index of the passing lanes is bad, each names its register. -/
theorem Issue.indexAll_eq {x : Issue} {f : V3} {base : Operand} {l : List (Nat × Nat)} (h : x.indexAll f base = some l) :
    l = x.vals (fun k => (x.indexed f base k).getD 0) := by
  unfold Issue.indexAll at h
  unfold Issue.vals
  generalize lanesOf x.pass = ks at h
  induction ks generalizing l with
  | nil => cases h; rfl
  | cons k ks ih =>
    rw [List.foldr_cons] at h
    split at h
    · next a j ha hj =>
      cases h
      simp only [List.map_cons, ← ih ha, hj]
      rfl
    · cases h

/-- The lanes that an indexed move writes are those that pass. -/
theorem Issue.indexAll_pass {x : Issue} {f : V3} {base : Operand} {l : List (Nat × Nat)} (h : x.indexAll f base = some l)
    {e : Nat × Nat} (he : e ∈ l) : x.pass.getLsbD e.1 = true := by
  rw [Issue.indexAll_eq h] at he
  obtain ⟨k, hk, rfl⟩ := List.mem_map.mp he
  exact (mem_lanesOf _ _).mp hk

/-- The words put into the indexed registers keep every other register. -/
theorem Group.vSets_keeps (g : Group) (pass : Mask) (l : List (Nat × Nat)) (v : Nat → Word)
    (hl : ∀ e ∈ l, pass.getLsbD e.1 = true) :
    g.Keeps (l.foldl (fun g e => g.vSet e.2 e.1 (v e.1)) g) pass (l.map (fun e => .v e.2)) := by
  have loop : ∀ (es : List (Nat × Nat)) (h : Group), (∀ e ∈ es, e ∈ l) →
      h.Keeps (es.foldl (fun g e => g.vSet e.2 e.1 (v e.1)) h) pass (l.map (fun e => .v e.2)) := by
    intro es
    induction es with
    | nil => exact fun h _ => .refl h _ _
    | cons e es ih =>
      intro h he
      have hmem := he e List.mem_cons_self
      exact (h.vSet_keeps e.2 e.1 _ pass _ (List.mem_map.mpr ⟨e, hmem, rfl⟩) (hl e hmem)).trans
        (ih _ fun a ha => he a (List.mem_cons_of_mem _ ha))
  exact loop l g fun _ h => h

/-! ### Words -/

/-- The word completes, and leaves alone everything but the registers ws in its passing lanes. -/
def FrameOf (i : Instr) (s : State) (x : Issue) (ws : List RegRef) : Prop :=
  ∃ t, exec i s = .next t ∧ LeavesAlone s (wordTouch i s) t x.gid x.pass ws

/-- A word that goes on from its issue with a group that keeps all but ws. -/
theorem FrameOf.finish {i : Instr} {s : State} {n : Need} {x : Issue} {ws : List RegRef} {k : Issue → Out} {g : Group}
    (hx : issueOf i s n = some x) (hc : x.g.calm = true) (he : exec i s = stage i s n k) (hk : k x = x.finish g)
    (h : x.g.Keeps g x.pass ws) : FrameOf i s x ws :=
  ⟨x.done g, by rw [he, stage_of_issueOf hx, hk, Issue.finish_eq], Issue.done_leaves (issueOf_spec hx) g ws hc h⟩

/-- A word of one register result. -/
theorem FrameOf.lanewise {i : Instr} {s : State} {n : Need} {x : Issue} {m : Option (Nat × Nat)} {d : Operand} {ty : Ty} {w : Nat}
    {f : Issue → Nat → Nat} (hx : issueOf i s n = some x) (hc : x.g.calm = true) (he : exec i s = lanewise i s n m d ty w f) :
    FrameOf i s x (opRegs d w) :=
  .finish hx hc he rfl (x.g.write_count_keeps d ty w x _ m)

/-- The shapes of words of one register result (R128, R132). -/
theorem FrameOf.arith3 {i : Instr} {s : State} {x : Issue} {f : V3} {ty : Ty} {wd wa wb wc : Nat} {op : Nat → Nat → Nat → Nat}
    (hx : issueOf i s {} = some x) (hc : x.g.calm = true) (he : exec i s = arith3 i s f ty wd wa wb wc op) :
    FrameOf i s x (opRegs f.d wd) := .lanewise hx hc he

theorem FrameOf.arith2 {i : Instr} {s : State} {x : Issue} {f : V3} {op : Nat → Nat → Nat} (hx : issueOf i s {} = some x)
    (hc : x.g.calm = true) (he : exec i s = arith2 i s f op) : FrameOf i s x (opRegs f.d f.w) := .arith3 hx hc he

theorem FrameOf.arithSh {i : Instr} {s : State} {x : Issue} {f : V3} {op : Nat → Nat → Nat} (hx : issueOf i s {} = some x)
    (hc : x.g.calm = true) (he : exec i s = arithSh i s f op) : FrameOf i s x (opRegs f.d f.w) := .arith3 hx hc he

theorem FrameOf.arith1 {i : Instr} {s : State} {x : Issue} {f : V3} {ty : Ty} {wd : Nat} {op : Nat → Nat}
    (hx : issueOf i s {} = some x) (hc : x.g.calm = true) (he : exec i s = arith1 i s f ty wd op) :
    FrameOf i s x (opRegs f.d wd) := .arith3 hx hc he

theorem FrameOf.arithI {i : Instr} {s : State} {x : Issue} {f : VI} {op : Nat → Nat} (hx : issueOf i s {} = some x)
    (hc : x.g.calm = true) (he : exec i s = arithI i s f op) : FrameOf i s x (opRegs f.d f.w) := .lanewise hx hc he

theorem FrameOf.float3 {i : Instr} {s : State} {x : Issue} {f : V3} {m : Option (Nat × Nat)} {op : Nat → Nat → Nat → Nat}
    (hx : issueOf i s {} = some x) (hc : x.g.calm = true) (he : exec i s = float3 i s f m op) :
    FrameOf i s x (opRegs f.d 32) := .lanewise hx hc he

theorem FrameOf.floatI {i : Instr} {s : State} {x : Issue} {f : VI} {m : Option (Nat × Nat)} {op : Nat → Nat → Nat}
    (hx : issueOf i s {} = some x) (hc : x.g.calm = true) (he : exec i s = floatI i s f m op) :
    FrameOf i s x (opRegs f.d 32) := .lanewise hx hc he

/-- A word of one predicate. -/
theorem FrameOf.lanewiseP {i : Instr} {s : State} {n : Need} {x : Issue} {p : Nat} {f : Issue → Nat → Bool}
    (hx : issueOf i s n = some x) (hc : x.g.calm = true) (he : exec i s = lanewiseP i s n p f) : FrameOf i s x [.p p] :=
  .finish hx hc he rfl (Group.pWrite_keeps _ _ _ _ _ _ List.mem_cons_self fun _ hl => hl)

/-- A sum or difference with a carry. -/
theorem FrameOf.arithC {i : Instr} {s : State} {x : Issue} {f : V3} {res : Nat → Nat → Nat → Nat} {out : Nat → Nat → Nat → Bool}
    (hx : issueOf i s {} = some x) (hc : x.g.calm = true) (he : exec i s = arithC i s f res out) :
    FrameOf i s x (.p f.c.idx.toNat :: opRegs f.d f.w) :=
  .finish hx hc he rfl (x.g.write_pWrite_keeps f.d f.ty f.w x _ _ _ _ fun _ hl => hl)

/-- A conversion that notes what it cannot give in a predicate. -/
theorem FrameOf.sticky {i : Instr} {s : State} {n : Need} {x : Issue} {m : Option (Nat × Nat)} {f : V3} {ty : Ty}
    {val : Issue → Nat → Nat} {bad : Issue → Nat → Bool}
    (hx : issueOf i s n = some x) (hc : x.g.calm = true) (he : exec i s = sticky i s n m f ty val bad) :
    FrameOf i s x (.p f.c.idx.toNat :: opRegs f.d 32) :=
  .finish hx hc he rfl
    ((x.g.write_pWrite_keeps f.d ty 32 x _ _ _ _ (laneFilter_sub _ _)).trans (Group.count_keeps _ _ _ _ _))

/-- BCAST: with no passing lane it writes nothing. -/
theorem bcast_frame {f : V3} {s : State} {x : Issue} (hx : issueOf (.bcast f) s { cross := true } = some x) (hc : x.g.calm = true) :
    FrameOf (.bcast f) s x (opRegs f.d f.w) := by
  cases hl : lowLane x.pass with
  | none => exact .finish hx hc (exec_bcast f s) (by simp only [hl]) (.refl _ _ _)
  | some l => exact .finish hx hc (exec_bcast f s) (by simp only [hl]; rfl) (x.g.write_keeps f.d f.ty f.w x _ _ fun _ hr => hr)

/-- PMOV in either direction. -/
theorem pmov_frame {f : V3} {s : State} {x : Issue} (hx : issueOf (.pmov f) s (wordNeed (.pmov f) s) = some x)
    (hc : x.g.calm = true) : FrameOf (.pmov f) s x (if f.mod.getLsbD 0 then allPreds else opRegs f.d 32) := by
  cases hm : f.mod.getLsbD 0 with
  | true =>
    simp only [wordNeed, hm, if_true] at hx
    exact .finish hx hc (by rw [exec_pmov, execPmov, hm, if_pos rfl]) rfl (x.g.setPreds_keeps _ _)
  | false =>
    simp only [wordNeed, hm, Bool.false_eq_true, if_false] at hx
    exact .lanewise hx hc (by rw [exec_pmov, execPmov, hm, if_neg (by decide)])

/-- MOVX with good indices writes D. -/
theorem movx_frame {f : V3} {s : State} {x : Issue} {l : List (Nat × Nat)}
    (hx : issueOf (.movx f) s { laneReads := indexPlan (.movx f) s f f.a } = some x) (hc : x.g.calm = true)
    (hl : x.indexAll f f.a = some l) : FrameOf (.movx f) s x (opRegs f.d 32) := by
  have hv : l.map (fun e => (e.1, (x.g.vGet e.2 e.1).toNat)) =
      x.vals (fun k => (x.g.vGet ((x.indexed f f.a k).getD 0) k).toNat) := by
    rw [Issue.indexAll_eq hl, Issue.vals, Issue.vals, List.map_map]
    rfl
  exact .finish hx hc (exec_movx f s) (by simp only [hl, hv]; rfl) (x.g.write_keeps f.d f.ty 32 x _ _ fun _ hr => hr)

/-- MOVXS with good indices writes the registers they name. -/
theorem movxs_frame {f : V3} {s : State} {x : Issue} {l : List (Nat × Nat)}
    (hx : issueOf (.movxs f) s { writes := (indexPlan (.movxs f) s f f.d).map (fun e => .v e.2) } = some x) (hc : x.g.calm = true)
    (hl : x.indexAll f f.d = some l) : FrameOf (.movxs f) s x (l.map (fun e => .v e.2)) :=
  .finish hx hc (exec_movxs f s) (by simp only [hl])
    (x.g.vSets_keeps x.pass l (fun k => BitVec.ofNat 32 (x.src f.a 32 k)) fun _ he => Issue.indexAll_pass hl he)

/-- Settles O21: by the shape of each register word, the group it goes on with keeps all but its destinations. -/
theorem registerWordsFrame : Obligations.RegisterWordsFrame := by
  intro i s x ws hx hw hc
  change FrameOf i s x ws
  cases i with
  | nop f => cases hw; exact .finish hx hc (exec_nop f s) rfl (.refl _ _ _)
  | yield f => cases hw; exact .finish hx hc (exec_yield f s) rfl (x.g.yielded_keeps _ _ _)
  | iadd f => cases hw; exact .arith2 hx hc (exec_iadd f s)
  | isub f => cases hw; exact .arith2 hx hc (exec_isub f s)
  | imul f => cases hw; exact .arith2 hx hc (exec_imul f s)
  | imulh f => cases hw; exact .arith2 hx hc (exec_imulh f s)
  | imin f => cases hw; exact .arith2 hx hc (exec_imin f s)
  | imax f => cases hw; exact .arith2 hx hc (exec_imax f s)
  | andw f => cases hw; exact .arith2 hx hc (exec_andw f s)
  | orw f => cases hw; exact .arith2 hx hc (exec_orw f s)
  | xorw f => cases hw; exact .arith2 hx hc (exec_xorw f s)
  | andn f => cases hw; exact .arith2 hx hc (exec_andn f s)
  | imad f => cases hw; exact .arith3 hx hc (exec_imad f s)
  | imadw f => cases hw; exact .arith3 hx hc (exec_imadw f s)
  | isad f => cases hw; exact .arith3 hx hc (exec_isad f s)
  | lop3 f => cases hw; exact .arith3 hx hc (exec_lop3 f s)
  | bfi f => cases hw; exact .arith3 hx hc (exec_bfi f s)
  | prmt f => cases hw; exact .arith3 hx hc (exec_prmt f s)
  | lea f => cases hw; exact .arith3 hx hc (exec_lea f s)
  | leaw f => cases hw; exact .arith3 hx hc (exec_leaw f s)
  | dp4 f => cases hw; exact .arith3 hx hc (exec_dp4 f s)
  | fscale f => cases hw; exact .arith3 hx hc (exec_fscale f s)
  | packt f => cases hw; exact .arith3 hx hc (exec_packt f s)
  | pack f => cases hw; exact .arith3 hx hc (exec_pack f s)
  | unpk f => cases hw; exact .arith3 hx hc (exec_unpk f s)
  | iabs f => cases hw; exact .arith1 hx hc (exec_iabs f s)
  | ineg f => cases hw; exact .arith1 hx hc (exec_ineg f s)
  | notw f => cases hw; exact .arith1 hx hc (exec_notw f s)
  | popc f => cases hw; exact .arith1 hx hc (exec_popc f s)
  | clz f => cases hw; exact .arith1 hx hc (exec_clz f s)
  | ctz f => cases hw; exact .arith1 hx hc (exec_ctz f s)
  | brev f => cases hw; exact .arith1 hx hc (exec_brev f s)
  | fclass f => cases hw; exact .arith1 hx hc (exec_fclass f s)
  | fgetexp f => cases hw; exact .arith1 hx hc (exec_fgetexp f s)
  | mov f => cases hw; exact .arith1 hx hc (exec_mov f s)
  | shl f => cases hw; exact .arithSh hx hc (exec_shl f s)
  | shr f => cases hw; exact .arithSh hx hc (exec_shr f s)
  | sha f => cases hw; exact .arithSh hx hc (exec_sha f s)
  | rot f => cases hw; exact .arithSh hx hc (exec_rot f s)
  | bfx f => cases hw; exact .arithSh hx hc (exec_bfx f s)
  | fadd f => cases hw; exact .float3 hx hc (exec_fadd f s)
  | fsub f => cases hw; exact .float3 hx hc (exec_fsub f s)
  | fmul f => cases hw; exact .float3 hx hc (exec_fmul f s)
  | ffma f => cases hw; exact .float3 hx hc (exec_ffma f s)
  | fmin f => cases hw; exact .float3 hx hc (exec_fmin f s)
  | fmax f => cases hw; exact .float3 hx hc (exec_fmax f s)
  | fabs f => cases hw; exact .float3 hx hc (exec_fabs f s)
  | fneg f => cases hw; exact .float3 hx hc (exec_fneg f s)
  | fflr f => cases hw; exact .float3 hx hc (exec_fflr f s)
  | fceil f => cases hw; exact .float3 hx hc (exec_fceil f s)
  | ftrunc f => cases hw; exact .float3 hx hc (exec_ftrunc f s)
  | frnd f => cases hw; exact .float3 hx hc (exec_frnd f s)
  | ffrc f => cases hw; exact .float3 hx hc (exec_ffrc f s)
  | fdot2 f => cases hw; exact .lanewise hx hc (exec_fdot2 f s)
  | cvt f => cases hw; exact .lanewise hx hc (exec_cvt f s)
  | cvq f => cases hw; exact .lanewise hx hc (exec_cvq f s)
  | sel f => cases hw; exact .lanewise hx hc (exec_sel f s)
  | ballot f => cases hw; exact .lanewise hx hc (exec_ballot f s)
  | movi f => cases hw; exact .lanewise hx hc (exec_movi f s)
  | srd f => cases hw; exact .lanewise hx hc (exec_srd f s)
  | iaddImm f => cases hw; exact .arithI hx hc (exec_iaddImm f s)
  | imulImm f => cases hw; exact .arithI hx hc (exec_imulImm f s)
  | iminImm f => cases hw; exact .arithI hx hc (exec_iminImm f s)
  | imaxImm f => cases hw; exact .arithI hx hc (exec_imaxImm f s)
  | shlImm f => cases hw; exact .arithI hx hc (exec_shlImm f s)
  | shrImm f => cases hw; exact .arithI hx hc (exec_shrImm f s)
  | shaImm f => cases hw; exact .arithI hx hc (exec_shaImm f s)
  | rotImm f => cases hw; exact .arithI hx hc (exec_rotImm f s)
  | andImm f => cases hw; exact .arithI hx hc (exec_andImm f s)
  | orImm f => cases hw; exact .arithI hx hc (exec_orImm f s)
  | xorImm f => cases hw; exact .arithI hx hc (exec_xorImm f s)
  | leaImm f => cases hw; exact .arithI hx hc (exec_leaImm f s)
  | bfxImm f => cases hw; exact .arithI hx hc (exec_bfxImm f s)
  | bfiImm f => cases hw; exact .arithI hx hc (exec_bfiImm f s)
  | prmtImm f => cases hw; exact .arithI hx hc (exec_prmtImm f s)
  | faddImm f => cases hw; exact .floatI hx hc (exec_faddImm f s)
  | fmulImm f => cases hw; exact .floatI hx hc (exec_fmulImm f s)
  | fminImm f => cases hw; exact .floatI hx hc (exec_fminImm f s)
  | fmaxImm f => cases hw; exact .floatI hx hc (exec_fmaxImm f s)
  | icmp f => cases hw; exact .lanewiseP hx hc (exec_icmp f s)
  | fcmp f => cases hw; exact .lanewiseP hx hc (exec_fcmp f s)
  | plop f => cases hw; exact .lanewiseP hx hc (exec_plop f s)
  | iaddc f => cases hw; exact .arithC hx hc (exec_iaddc f s)
  | isubb f => cases hw; exact .arithC hx hc (exec_isubb f s)
  | cvd f => cases hw; exact .sticky hx hc (exec_cvd f s)
  | unpkt f => cases hw; exact .sticky hx hc (exec_unpkt f s)
  | elect f => cases hw; exact .finish hx hc (exec_elect f s) rfl (Group.pWrite_keeps _ _ _ _ _ _ List.mem_cons_self fun _ hl => hl)
  | vote f => cases hw; exact .finish hx hc (exec_vote f s) rfl (Group.pWrite_keeps _ _ _ _ _ _ List.mem_cons_self fun _ hl => hl)
  | shfl f => cases hw; exact .finish hx hc (exec_shfl f s) rfl (x.g.write_pWrite_keeps f.d f.ty 32 x _ _ _ _ fun _ hl => hl)
  | lred f => cases hw; exact .finish hx hc (exec_lred f s) rfl (x.g.write_keeps f.d f.ty 32 x _ _ fun _ hr => hr)
  | bcast f => cases hw; exact bcast_frame hx hc
  | pmov f => cases hw; exact pmov_frame hx hc
  | movx f =>
    cases hl : x.indexAll f f.a with
    | none => simp [wordWrites, hl] at hw
    | some l =>
      obtain rfl : opRegs f.d 32 = ws := by simpa [wordWrites, hl] using hw
      exact movx_frame hx hc hl
  | movxs f =>
    cases hl : x.indexAll f f.d with
    | none => simp [wordWrites, hl] at hw
    | some l =>
      obtain rfl : l.map (fun e => RegRef.v e.2) = ws := by simpa [wordWrites, hl] using hw
      exact movxs_frame hx hc hl
  | _ => cases hw

end Sys2Proof.Machine
end

section
/-! TRET (R100, R175): what the return of the passing lanes does to the frontier of a group in handler mode. -/

namespace Sys2Proof.Machine

/-! ### Lane sets -/

theorem minus_bit (m n : Mask) (l : Nat) : (minus m n).getLsbD l = (m.getLsbD l && !n.getLsbD l) := by
  unfold minus
  rw [BitVec.getLsbD_and, BitVec.getLsbD_not]
  by_cases h : l < 64
  · simp [h]
  · simp [BitVec.getLsbD_of_ge m l (by omega)]

theorem minus_and_self (m n : Mask) : minus m n &&& n = 0 := by
  apply BitVec.eq_of_getLsbD_eq
  intro l _
  rw [BitVec.getLsbD_and, minus_bit]
  simp

/-- A guard passes lanes of its set only. -/
theorem Group.guard_and (g : Group) (m : Mask) (c : Guard) : g.guard m c &&& m = g.guard m c := by
  apply BitVec.eq_of_getLsbD_eq
  intro l _
  rw [BitVec.getLsbD_and]
  unfold Group.guard
  split
  · simp
  · split
    · rw [minus_bit]
      cases m.getLsbD l <;> simp
    · rw [BitVec.getLsbD_and]
      cases m.getLsbD l <;> simp

theorem Issue.Of.pass_and {i : Instr} {s : State} {x : Issue} (h : Issue.Of i s x) : x.pass &&& x.e.mask = x.pass := by
  obtain ⟨f, -, hp⟩ := h.pass
  rw [hp, Group.guard_and]

theorem Group.entryAt_mem {g : Group} {lane : Nat} {e : Entry} (h : g.entryAt lane = some e) :
    e ∈ g.entries ∧ e.mask.getLsbD lane = true :=
  ⟨List.mem_of_find?_eq_some h, by simpa using List.find?_some h⟩

theorem Group.mem_modEntry {g : Group} {lane : Nat} {f : Entry → Entry} {y : Entry} :
    y ∈ (g.modEntry lane f).entries ↔
      (∃ e ∈ g.entries, e.mask.getLsbD lane = true ∧ y = f e) ∨ (y ∈ g.entries ∧ y.mask.getLsbD lane = false) := by
  rw [Group.modEntry, List.mem_map]
  constructor
  · rintro ⟨e, he, rfl⟩
    cases hl : e.mask.getLsbD lane with
    | true => exact .inl ⟨e, he, hl, if_pos rfl⟩
    | false => exact .inr ⟨he, hl⟩
  · rintro (⟨e, he, hl, rfl⟩ | ⟨hy, hl⟩)
    · exact ⟨e, he, if_pos hl⟩
    · exact ⟨y, hy, if_neg (by simp [hl])⟩

/-! ### The end of handler mode -/

theorem Group.endHandler_eq (g : Group) : g.endHandler = { g with handler := g.endHandler.handler } := by
  unfold Group.endHandler
  split <;> rfl

theorem Group.endHandler_entries (g : Group) : g.endHandler.entries = g.entries := by rw [Group.endHandler_eq]

/-- Handler mode goes on or ends, and it ends with its last entry. -/
theorem Group.endHandler_handler {g : Group} {h : Handler} (hg : g.handler = some h) :
    (g.endHandler.handler = none ∨ g.endHandler.handler = some h) ∧
      (g.endHandler.handler = none ↔ ∀ y ∈ g.entries, y.handler = false) := by
  unfold Group.endHandler
  split
  · next hany =>
    obtain ⟨y, hy, hh⟩ := List.any_eq_true.mp hany
    refine ⟨.inr hg, fun hn => ?_, fun hall => ?_⟩
    · rw [hg] at hn
      cases hn
    · rw [hall y hy] at hh
      cases hh
  · next hany =>
    rw [Bool.not_eq_true, List.any_eq_false] at hany
    exact ⟨.inl rfl, fun _ y hy => by simpa using hany y hy, fun _ => rfl⟩

/-! ### The return -/

section
variable {g : Group} {lane : Nat} {pass : Mask} {e : Entry} {h : Handler}
  (he : g.entryAt lane = some e) (hh : g.handler = some h) (hp : pass &&& e.mask = pass) (h0 : pass ≠ 0)
include he hh hp h0

/-- The frontier after a return: the lanes that stay, the other entries, and the lanes that return. -/
theorem Group.mem_trapReturn (y : Entry) : y ∈ (g.trapReturn lane pass).entries ↔
    ((∃ z ∈ g.entries, z.mask.getLsbD lane = true ∧ y = { z.advance with mask := minus z.mask pass }) ∨
      (y ∈ g.entries ∧ y.mask.getLsbD lane = false)) ∧ y.mask ≠ 0 ∨
    y = { pc := h.ret, prio := h.retPrio, mask := pass, clause := h.retClause } := by
  simp only [Group.trapReturn, he, hh, hp, h0, if_false, Group.endHandler_entries, List.mem_append, List.mem_filter,
    Group.mem_modEntry, bne_iff_ne, List.mem_singleton]

omit hp h0 in
theorem Group.trapReturn_regs : SameRegs g (g.trapReturn lane pass) := by
  simp only [Group.trapReturn, he, hh]
  rw [Group.endHandler_eq]
  exact ⟨rfl, rfl, rfl, rfl, rfl, rfl, rfl⟩

omit hp h0 in
theorem Group.trapReturn_handler : ((g.trapReturn lane pass).handler = none ∨ (g.trapReturn lane pass).handler = some h) ∧
    ((g.trapReturn lane pass).handler = none ↔ ∀ y ∈ (g.trapReturn lane pass).entries, y.handler = false) := by
  simp only [Group.trapReturn, he, hh, Group.endHandler_entries]
  exact Group.endHandler_handler hh

/-- No lane of the return is left in handler mode, but where another entry holds it. -/
theorem Group.trapReturn_left {y : Entry} (hy : y ∈ (g.trapReturn lane pass).entries) (hm : y.mask &&& pass ≠ 0) :
    y.handler = false ∨ y ∈ g.entries := by
  rcases (Group.mem_trapReturn he hh hp h0 y).mp hy with ⟨⟨z, -, -, rfl⟩ | ⟨hmem, -⟩, -⟩ | rfl
  · exact absurd (minus_and_self _ _) hm
  · exact .inr hmem
  · exact .inl rfl

end

/-- The causes that TRET may follow (R96, R100). -/
theorem resumable_iff (c : Cause) : c.resumable = true ↔
    c ∉ [Cause.header, .placement, .strandStores, .strandClobber, .orderInStrand, .strandLivelock] := by
  cases c <;> decide

/-- Settles O28: the branches of TRET, with the frontier that `Group.trapReturn` leaves. -/
theorem trapReturn : Obligations.TrapReturn := by
  unfold Obligations.TrapReturn
  intro f s x hx final
  have hof := issueOf_spec hx
  have he := hof.issued_entry
  have hp := hof.pass_and
  rw [exec_tret, execTret, stage_of_issueOf hx]
  refine ⟨fun hm => by rw [hm]; rfl, fun hm h hh => ⟨fun h0 => ?none, fun h0 hc => ?escalate, fun h0 hc => ?back⟩⟩
  case none => simp only [hm, hh, h0, Bool.not_true, Bool.false_eq_true, if_false, if_true, Issue.finish_eq]
  case escalate =>
    have hr : h.cause.resumable = false := by simpa using mt (resumable_iff h.cause).mp (not_not.mpr hc)
    simp only [hm, hh, h0, hr, Bool.not_true, Bool.false_eq_true, if_false]
  case back =>
    have hr := (resumable_iff h.cause).mpr hc
    obtain ⟨hmode, hend⟩ := Group.trapReturn_handler he hh
    obtain ⟨hmem, hlane⟩ := Group.entryAt_mem he
    refine ⟨x.g.trapReturn x.lane x.pass, ?_, Group.trapReturn_regs he hh,
      (Group.mem_trapReturn he hh hp h0 _).mpr (.inr rfl), fun hs => ?_, fun y hy hm => Group.trapReturn_left he hh hp h0 hy hm,
      hmode, hend⟩
    · simp only [hm, hh, h0, hr, Bool.not_true, Bool.false_eq_true, if_false, if_true]
    · exact (Group.mem_trapReturn he hh hp h0 _).mpr (.inl ⟨.inl ⟨x.e, hmem, hlane, rfl⟩, hs⟩)

end Sys2Proof.Machine
end

section
/-! Code words and clause headers (R69, R70, R375): a word that is fetched has 64 bits, and what the walk over the headers of a code
segment reaches. -/

namespace Sys2Proof.Machine

/-! ### Words of code -/

theorem leNat_lt (l : List Byte) : leNat l < 256 ^ l.length := by
  induction l with
  | nil => simp [leNat]
  | cons b l ih =>
    have hb := b.isLt
    rw [leNat, List.length_cons, Nat.pow_succ]
    omega

/-- A walk over lines that succeeds gives one place for each byte. -/
theorem State.vaBytes_length {s : State} {ctx : Nat} {kind : Acc} {va n : Nat} {l : List Loc} (h : s.vaBytes ctx kind va n = .ok l) :
    l.length = n := by
  have ho : va % 64 < 64 := Nat.mod_lt _ (by decide)
  have lines : ∀ k l, (List.range k).foldl (fun acc i =>
      match acc with
      | .error m => .error m
      | .ok l =>
        match s.vaLine ctx kind (va / 64 * 64 + 64 * i) with
        | .error m => .error m
        | .ok p =>
          let lo := if i = 0 then va % 64 else 0
          let hi := min 64 (va % 64 + n - 64 * i)
          .ok (l ++ (List.range (hi - lo)).map (fun j => p.add (lo + j)))) (Except.ok (ε := Miss) []) = .ok l →
      l.length = min (64 * k) (va % 64 + n) - va % 64 := by
    intro k
    induction k with
    | zero => intro l hl; cases hl; simp
    | succ k ih =>
      intro l hl
      rw [List.range_succ, List.foldl_append, List.foldl_cons, List.foldl_nil] at hl
      split at hl
      · cases hl
      · next acc l0 h0 =>
        split at hl
        · cases hl
        · cases hl
          rw [List.length_append, ih _ h0, List.length_map, List.length_range]
          split
          · next hk => omega
          · next hk => omega
  have hl := lines _ l h
  omega

theorem State.fetchWord_lt {s : State} {ctx va w : Nat} (h : s.fetchWord ctx va = .ok w) : w < 2 ^ 64 := by
  unfold State.fetchWord State.vaRead at h
  split at h
  · cases h
  · next l hl =>
    cases h
    have hlt := leNat_lt (l.map (s.rd ctx))
    rw [List.length_map, State.vaBytes_length hl] at hlt
    exact hlt

theorem State.fetchWord_hdrLen {s : State} {ctx va w : Nat} (h : s.fetchWord ctx va = .ok w) : hdrLen w = w / 2 ^ 60 := by
  have := State.fetchWord_lt h
  unfold hdrLen bitsOf
  omega

/-! ### Headers -/

section
variable (s : State) (ctx : Nat)

/-- The walk is at the target, is past it, or goes on by the header where it stands. -/
theorem State.reaches_self (t n : Nat) : s.reaches ctx t (n + 1) t = .ok true := by
  rw [State.reaches, if_pos rfl]

theorem State.reaches_past {t pos : Nat} (n : Nat) (h : t < pos) : s.reaches ctx t n pos = .ok false := by
  cases n with
  | zero => rfl
  | succ n => rw [State.reaches, if_neg (by omega), if_pos h]

theorem State.reaches_next {t pos w : Nat} (n : Nat) (h : pos < t) (hw : s.fetchWord ctx pos = .ok w) :
    s.reaches ctx t (n + 1) pos = s.reaches ctx t n (pos + 8 * (hdrLen w + 1)) := by
  rw [State.reaches, if_neg (by omega), if_neg (by omega), hw]

/-- A walk that reaches p stands there after some k headers, whatever it looks for behind p. -/
theorem State.reaches_through {p : Nat} (n pos : Nat) (h : s.reaches ctx p n pos = .ok true) :
    ∃ k r, n = k + (r + 1) ∧ pos + 8 * k ≤ p ∧ ∀ t m, p < t → s.reaches ctx t (k + m) pos = s.reaches ctx t m p := by
  induction n generalizing pos with
  | zero => cases h
  | succ n ih =>
    rcases Nat.lt_trichotomy pos p with hlt | rfl | hgt
    · cases hw : s.fetchWord ctx pos with
      | error m =>
        rw [State.reaches, if_neg (by omega), if_neg (by omega), hw] at h
        cases h
      | ok w =>
        rw [s.reaches_next ctx n hlt hw] at h
        obtain ⟨k, r, rfl, hk, hall⟩ := ih _ h
        refine ⟨k + 1, r, by omega, by omega, fun t m ht => ?_⟩
        rw [show k + 1 + m = k + m + 1 by omega, s.reaches_next ctx _ (hlt.trans ht) hw, hall t m ht]
    · exact ⟨0, n, by omega, by omega, fun t m _ => by rw [Nat.zero_add]⟩
    · rw [s.reaches_past ctx _ hgt] at h
      cases h

end

section
variable (s : State) (gid : Nat)

/-- The first word of a code segment is a header. -/
theorem State.isHeader_base (h : 0 < (s.phaseOf gid).record.codeExt) : s.isHeader gid (s.phaseOf gid).record.codeBase = .ok true := by
  unfold State.isHeader
  dsimp only
  rw [if_pos (by omega), State.reaches_self]

/-- No word outside the code segment is a header. -/
theorem State.isHeader_outside {p : Nat} (h : p < (s.phaseOf gid).record.codeBase ∨
    (s.phaseOf gid).record.codeBase + (s.phaseOf gid).record.codeExt ≤ p) : s.isHeader gid p ≠ .ok true := by
  unfold State.isHeader
  dsimp only
  rcases h with h | h
  · rw [if_pos (by omega), s.reaches_past _ _ h]
    simp
  · rw [if_neg (by omega)]
    simp

variable {p h : Nat} (hp : s.isHeader gid p = .ok true) (hw : s.fetchWord (s.grp gid).ctx p = .ok h)
include hp hw

/-- Behind a header the walk goes on from the word after its clause, where the segment still has room for it. -/
theorem State.isHeader_after {t : Nat} (ht : p < t) (hin : t < (s.phaseOf gid).record.codeBase + (s.phaseOf gid).record.codeExt) :
    ∃ m, s.isHeader gid t = s.reaches (s.grp gid).ctx t m (p + 8 * (h / 2 ^ 60 + 1)) ∧ (p + 8 ≤ t → m ≠ 0) := by
  unfold State.isHeader at hp ⊢
  dsimp only at hp ⊢
  rw [if_pos (by omega)] at hp
  obtain ⟨k, r, hn, hk, hall⟩ := s.reaches_through _ _ _ hp
  refine ⟨r, ?_, fun h8 => by omega⟩
  rw [if_pos hin, hn, hall t _ ht, s.reaches_next _ r ht hw, State.fetchWord_hdrLen hw]

/-- The word after the clause of a header is a header, in the segment. -/
theorem State.isHeader_next
    (hin : p + 8 * (h / 2 ^ 60 + 1) < (s.phaseOf gid).record.codeBase + (s.phaseOf gid).record.codeExt) :
    s.isHeader gid (p + 8 * (h / 2 ^ 60 + 1)) = .ok true := by
  obtain ⟨m, hm, h0⟩ := s.isHeader_after gid hp hw (by omega) hin
  obtain ⟨n, rfl⟩ := Nat.exists_eq_succ_of_ne_zero (h0 (by omega))
  rw [hm, State.reaches_self]

/-- No word between a header and the word after its clause is a header. -/
theorem State.isHeader_between {q : Nat} (hpq : p < q) (hq : q < p + 8 * (h / 2 ^ 60 + 1))
    (hin : q < (s.phaseOf gid).record.codeBase + (s.phaseOf gid).record.codeExt) : s.isHeader gid q = .ok false := by
  obtain ⟨m, hm, -⟩ := s.isHeader_after gid hp hw hpq hin
  rw [hm, s.reaches_past _ _ hq]

end

/-- A target is bad where it is no header. -/
theorem Issue.badHeader_iff (x : Issue) (t : Nat) : x.s.badHeader x.gid t = true ↔ x.noHeader t := by
  unfold State.badHeader Issue.noHeader
  cases x.s.isHeader x.gid t with
  | ok b => cases b <;> simp
  | error m => simp

end Sys2Proof.Machine
end

section
/-! Branches (R69, R170, R171): the frontier after the lanes of an entry have gone to their targets. -/

namespace Sys2Proof.Machine

/-! ### One target -/

theorem mem_unless {α : Type} {c : Prop} [Decidable c] {a y : α} : y ∈ (if c then [] else [a]) ↔ ¬ c ∧ y = a := by
  split
  · next h => simp [h]
  · next h => simp [h]

/-- What a branch leaves of a group: its entries alone change. -/
theorem Group.sendTo_eq (g : Group) (lane : Nat) (go : Mask) (t prio : Nat) :
    g.sendTo lane go t prio = { g with entries := (g.sendTo lane go t prio).entries } := by
  unfold Group.sendTo
  split <;> rfl

/-- The frontier after the lanes of an entry went to one target; the group may have taken other registers on the way. -/
theorem Issue.sends_sendTo {x : Issue} (he : x.g.entryAt x.lane = some x.e) {g : Group} (hg : g.entries = x.g.entries) {go : Mask}
    (h0 : go ≠ 0) (t prio : Nat) : x.sends (g.sendTo x.lane go t prio) (minus x.e.mask go) [(t, prio, go)] := by
  have heg : g.entryAt x.lane = some x.e := by rw [Group.entryAt, hg]; exact he
  intro y
  simp only [Group.sendTo, heg, h0, if_false, List.mem_append, List.mem_filter, Bool.not_eq_true', hg, List.mem_singleton,
    exists_eq_left, or_assoc, mem_unless, ne_eq]

/-- BRA and CALL in their three cases (R170): no lane goes, the target is no header, or the lanes go. -/
theorem branch_cases {i : Instr} {s : State} {f : FBr} {n : Need} {x : Issue} {link : Group → Mask → Nat → Group}
    (hx : issueOf i s n = some x) (he : exec i s = branch i s f n link) :
    (branchLanes f.cond x.e.mask x.pass = 0 → exec i s = .next (x.done x.g)) ∧
    (branchLanes f.cond x.e.mask x.pass ≠ 0 → x.noHeader (branchTarget f x.pc) → exec i s = x.trap .badTarget 8) ∧
    (branchLanes f.cond x.e.mask x.pass ≠ 0 → ¬ x.noHeader (branchTarget f x.pc) →
      exec i s = .next ((x.s.setGrp x.gid ((link x.g (branchLanes f.cond x.e.mask x.pass) (x.pc + 8)).sendTo x.lane
        (branchLanes f.cond x.e.mask x.pass) (branchTarget f x.pc) f.tprio.toNat)).settle x.gid)) := by
  rw [he, branch, stage_of_issueOf hx]
  refine ⟨fun h0 => ?_, fun h0 hb => ?_, fun h0 hb => ?_⟩
  · simp only [h0, if_true, Issue.finish_eq]
  · simp only [h0, if_false, Issue.toHeader, (x.badHeader_iff _).mpr hb, if_true]
  · simp only [h0, if_false, Issue.toHeader, mt (x.badHeader_iff _).mp hb, Bool.false_eq_true]

/-! ### The return address of CALL -/

theorem Group.linkV01_eq (g : Group) (m : Mask) (ret : Nat) :
    g.linkV01 m ret = { g with v := (g.linkV01 m ret).v, vpoison := (g.linkV01 m ret).vpoison } := by
  unfold Group.linkV01
  generalize lanesOf m = ls
  induction ls generalizing g with
  | nil => rfl
  | cons l ls ih =>
    rw [List.foldl_cons, ih]
    rfl

/-- The return address stands in v0 and v1 of the lanes that go. -/
theorem Group.linkV01_vGet (g : Group) (m : Mask) (ret r l : Nat) (hl : l < 64) :
    ((g.linkV01 m ret).vGet r l).toNat =
      if m.getLsbD l ∧ r < 2 then ret / 2 ^ (32 * r) % 2 ^ 32 else (g.vGet r l).toNat := by
  have loop : ∀ (ls : List Nat) (g : Group), (∀ k ∈ ls, k < 64) →
      ((ls.foldl (fun g l => g.writeLane ⟨.v, 0⟩ 64 l ret) g).vGet r l).toNat =
        if l ∈ ls ∧ r < 2 then ret / 2 ^ (32 * r) % 2 ^ 32 else (g.vGet r l).toNat := by
    intro ls
    induction ls with
    | nil => intro g _; simp
    | cons k ls ih =>
      intro g hk
      rw [List.foldl_cons, ih _ fun j hj => hk j (List.mem_cons_of_mem _ hj), Group.writeLane_vLvl _ _ _ _ _ rfl,
        Group.vPuts_vGet _ _ _ _ _ _ _ List.nodup_range (hk k List.mem_cons_self) hl]
      by_cases hr : r < 2
      · by_cases hls : l ∈ ls
        · simp [hls, hr]
        · by_cases hlk : l = k
          · simp [hlk, hr, regCount, wordOf]
          · simp [hls, hlk]
      · simp [hr, regCount]
  rw [Group.linkV01, loop _ _ fun k hk => BitVec.lt_of_getLsbD ((mem_lanesOf _ _).mp hk)]
  simp only [mem_lanesOf]

/-! ### Targets of single lanes -/

/-- The targets of lanes: those that a lane has, each with the lanes that have it. -/
theorem mem_targetsOf {l : List (Nat × Nat)} {t : Nat × Mask} :
    t ∈ targetsOf l ↔ (∃ e ∈ l, e.2 = t.1) ∧ t.2 = maskOf ((l.filter (fun e => e.2 == t.1)).map (·.1)) := by
  obtain ⟨a, m⟩ := t
  simp only [targetsOf, List.mem_map, List.mem_eraseDups, Prod.mk.injEq]
  constructor
  · rintro ⟨b, hb, rfl, rfl⟩
    exact ⟨hb, rfl⟩
  · rintro ⟨hb, rfl⟩
    exact ⟨a, hb, rfl, rfl⟩

theorem exists_targetsOf {l : List (Nat × Nat)} {e : Nat × Nat} (h : e ∈ l) : ∃ t ∈ targetsOf l, t.1 = e.2 :=
  ⟨_, List.mem_map.mpr ⟨e.2, List.mem_eraseDups.mpr (List.mem_map_of_mem h), rfl⟩, rfl⟩

section
variable (x : Issue) (tgt : Nat → Nat)

/-- The targets of the passing lanes (R171). -/
def Issue.targets : List (Nat × Mask) := targetsOf ((lanesOf x.pass).map (fun l => (l, tgt l)))

theorem Issue.targets_of_pass {l : Nat} (hl : x.pass.getLsbD l = true) : ∃ t ∈ x.targets tgt, t.1 = tgt l :=
  exists_targetsOf (List.mem_map.mpr ⟨l, (mem_lanesOf _ _).mpr hl, rfl⟩)

/-- Each target is that of a passing lane, and holds exactly the lanes that have it. -/
theorem Issue.targets_lanes {t : Nat × Mask} (ht : t ∈ x.targets tgt) :
    (∃ l, x.pass.getLsbD l = true ∧ tgt l = t.1) ∧
      ∀ l, l < 64 → (t.2.getLsbD l = true ↔ x.pass.getLsbD l = true ∧ tgt l = t.1) := by
  obtain ⟨⟨e, he, het⟩, hm⟩ := mem_targetsOf.mp ht
  obtain ⟨k, hk, rfl⟩ := List.mem_map.mp he
  refine ⟨⟨k, (mem_lanesOf _ _).mp hk, het⟩, fun l hl => ?_⟩
  rw [hm, maskOf_bit _ _ hl, decide_eq_true_iff]
  simp only [List.mem_map, List.mem_filter, mem_lanesOf, beq_iff_eq]
  constructor
  · rintro ⟨e, ⟨⟨j, hj, rfl⟩, ht⟩, rfl⟩
    exact ⟨hj, ht⟩
  · rintro ⟨hl, ht⟩
    exact ⟨_, ⟨⟨l, hl, rfl⟩, ht⟩, rfl⟩

theorem Issue.badTarget_iff :
    x.s.badTarget x.gid (x.targets tgt) = true ↔ ∃ l, x.pass.getLsbD l = true ∧ x.noHeader (tgt l) := by
  simp only [State.badTarget, List.any_eq_true, x.badHeader_iff]
  constructor
  · rintro ⟨t, ht, hb⟩
    obtain ⟨⟨l, hl, hlt⟩, -⟩ := x.targets_lanes tgt ht
    exact ⟨l, hl, hlt ▸ hb⟩
  · rintro ⟨l, hl, hb⟩
    obtain ⟨t, ht, htl⟩ := x.targets_of_pass tgt hl
    exact ⟨t, ht, htl ▸ hb⟩

/-- The targets of the passing lanes with the priority of their headers. -/
def Issue.sentTargets : List (Nat × Nat × Mask) := (x.targets tgt).map (fun t => (t.1, x.s.headerPrio x.ctx t.1, t.2))

/-- The group after the passing lanes went to their targets. -/
def Issue.sent (g : Group) : Group := { g with
  entries := g.entries.filter (fun y => !y.mask.getLsbD x.lane) ++
    (if minus x.e.mask x.pass = 0 then [] else [{ x.e.advance with mask := minus x.e.mask x.pass }]) ++
    (x.targets tgt).map (fun t =>
      { x.e with pc := t.1, prio := x.s.headerPrio x.ctx t.1, mask := t.2, clause := none, wait := .none, retry := 0, governed := false }) }

theorem Issue.sends_sent {g : Group} (hg : g.entries = x.g.entries) :
    x.sends (x.sent tgt g) (minus x.e.mask x.pass) (x.sentTargets tgt) := by
  intro y
  simp only [Issue.sent, Issue.sentTargets, List.mem_append, List.mem_filter, Bool.not_eq_true', hg, List.mem_map, or_assoc, mem_unless, ne_eq,
    exists_exists_and_eq_and, eq_comm (b := y)]

end

theorem State.headerPrio_eq {s : State} {ctx pc h : Nat} (hw : s.fetchWord ctx pc = .ok h) :
    s.headerPrio ctx pc = h / 2 ^ 32 % 2 ^ 8 := by
  simp only [State.headerPrio, hw, hdrPrio, bitsOf]

/-- BRX, CALLX and RET (R171): a bad target traps the entry, and else each passing lane goes to its own. -/
theorem branchTo_cases {i : Instr} {s : State} {x : Issue} {a : Operand} {link : Issue → Group → Group}
    (hx : issueOf i s {} = some x) (he : exec i s = branchTo i s a link) :
    ((∃ l, x.pass.getLsbD l = true ∧ x.noHeader (x.src a 64 l)) → exec i s = x.trap .badTarget 28) ∧
    ((∀ l, x.pass.getLsbD l = true → ¬ x.noHeader (x.src a 64 l)) →
      exec i s = .next ((x.s.setGrp x.gid (x.sent (x.src a 64) (link x x.g))).settle x.gid)) := by
  rw [he, branchTo, stage_of_issueOf hx]
  refine ⟨fun hb => if_pos ((x.badTarget_iff _).mpr hb), fun hb => if_neg (mt (x.badTarget_iff _).mp ?_)⟩
  rintro ⟨l, hl, hn⟩
  exact hb l hl hn

/-- The same with what it leaves: one entry for each target, where the link keeps the frontier. -/
theorem branchTo_transfers {i : Instr} {s : State} {x : Issue} {a : Operand} {link : Issue → Group → Group}
    (hx : issueOf i s {} = some x) (he : exec i s = branchTo i s a link) (hl : (link x x.g).entries = x.g.entries) :
    ((∃ l, x.pass.getLsbD l = true ∧ x.noHeader (x.src a 64 l)) → exec i s = x.trap .badTarget 28) ∧
    ((∀ l, x.pass.getLsbD l = true → ¬ x.noHeader (x.src a 64 l)) → ∃ (g : Group) (tgts : List (Nat × Nat × Mask)),
      exec i s = .next ((x.s.setGrp x.gid g).settle x.gid) ∧ x.sends g (minus x.e.mask x.pass) tgts ∧
      { g with entries := [] } = { link x x.g with entries := [] } ∧
      (∀ l, x.pass.getLsbD l = true → ∃ e ∈ tgts, e.1 = x.src a 64 l) ∧
      ∀ e ∈ tgts, (∀ h, x.s.fetchWord x.ctx e.1 = .ok h → e.2.1 = h / 2 ^ 32 % 2 ^ 8) ∧
        ∀ l, l < 64 → (e.2.2.getLsbD l = true ↔ x.pass.getLsbD l = true ∧ x.src a 64 l = e.1)) := by
  obtain ⟨hbad, hgood⟩ := branchTo_cases hx he
  refine ⟨hbad, fun hn => ⟨_, x.sentTargets (x.src a 64), hgood hn, x.sends_sent _ hl, rfl, fun l hp => ?_, fun e he => ?_⟩⟩
  · obtain ⟨t, ht, htl⟩ := x.targets_of_pass (x.src a 64) hp
    exact ⟨_, List.mem_map.mpr ⟨t, ht, rfl⟩, htl⟩
  · obtain ⟨t, ht, rfl⟩ := List.mem_map.mp he
    exact ⟨fun h hw => State.headerPrio_eq hw, (x.targets_lanes _ ht).2⟩

/-- Settles O25: `branch_cases`, `branchTo_transfers` and the walk over the headers (`State.reaches_through`). -/
theorem controlTransfers : Obligations.ControlTransfers := by
  unfold Obligations.ControlTransfers
  refine ⟨fun f s x => ⟨fun hx => ?bra, fun hx => ?call⟩, fun f s x => ?each, fun s gid => ?headers⟩
  case bra =>
    obtain ⟨hnone, hbad, hgo⟩ := branch_cases hx (exec_bra f s)
    refine ⟨hnone, hbad, fun h0 hn => ⟨_, hgo h0 hn, Issue.sends_sendTo (issueOf_spec hx).issued_entry rfl h0 _ _, ?_⟩⟩
    rw [Group.sendTo_eq]
  case call =>
    obtain ⟨hnone, hbad, hgo⟩ := branch_cases hx (exec_call f s)
    refine ⟨hnone, hbad, fun h0 hn => ⟨_, hgo h0 hn, Issue.sends_sendTo (issueOf_spec hx).issued_entry ?_ h0 _ _, ?_⟩⟩
    · rw [Group.linkV01_eq]
    · rw [Group.sendTo_eq]
      refine ⟨by rw [Group.linkV01_eq], by rw [Group.linkV01_eq], by rw [Group.linkV01_eq], by rw [Group.linkV01_eq],
        fun r l hl => x.g.linkV01_vGet _ _ r l hl⟩
  case each =>
    intro target p hp hx
    simp only [List.mem_cons, List.not_mem_nil, or_false] at hp
    rcases hp with rfl | rfl | rfl
    · exact branchTo_transfers hx (exec_brx f s) rfl
    · exact branchTo_transfers hx (exec_ret f s) rfl
    · exact branchTo_transfers hx (exec_callx f s) (Group.write_entries ..)
  case headers =>
    exact ⟨s.isHeader_base gid, fun p h => s.isHeader_outside gid h, fun p h hp hw =>
      ⟨s.isHeader_next gid hp hw, fun q hpq hq hin => s.isHeader_between gid hp hw hpq hq hin⟩⟩

end Sys2Proof.Machine
end

section
/-! The start of a clause (R70, R71, R74, R76, R258, R275, R280): the entry that joins the start, the trap that its header raises, and
the group once it has started. -/

namespace Sys2Proof.Machine

/-! ### Reserved headers -/

theorem setBits_header_least {h p : Nat} (hp : p < 28) (hb : h.testBit p = true) (hlow : ∀ q, q < p → h.testBit q = false) :
    leastPos (setBits h 28 0) = some p := by
  refine (leastPos_eq_some_iff _ _).mpr ⟨(mem_setBits ..).mpr ⟨by simpa using hb, by omega, by omega⟩, fun q hq => ?_⟩
  obtain ⟨hqb, -, -⟩ := (mem_setBits ..).mp hq
  by_contra hlt
  rw [Nat.sub_zero, hlow q (by omega)] at hqb
  cases hqb

theorem setBits_header_none {h : Nat} (h0 : h % 2 ^ 28 = 0) : leastPos (setBits h 28 0) = none := by
  rw [leastPos_eq_none, List.eq_nil_iff_forall_not_mem]
  intro p hp
  obtain ⟨hb, -, hlt⟩ := (mem_setBits ..).mp hp
  have hbit : (h % 2 ^ 28).testBit p = true := by
    rw [Nat.testBit_mod_two_pow]
    simpa using ⟨by omega, hb⟩
  rw [h0, Nat.zero_testBit] at hbit
  cases hbit

/-- R76: the position of a reserved header is that of the first condition that fails. -/
theorem hdrErr_cases (h : Nat) (h64 : h < 2 ^ 64) : hdrErr h =
    if h / 2 ^ 60 = 0 then some 60
    else if ¬ (h / 2 ^ 44 % 16 < 12 ∨ h / 2 ^ 44 % 16 = 15) then some 44
    else if ¬ (h / 2 ^ 40 % 16 < 12 ∨ h / 2 ^ 40 % 16 = 15) then some 40
    else if ¬ (h / 2 ^ 44 % 16 ≠ h / 2 ^ 40 % 16 ∨ h / 2 ^ 44 % 16 = 15) then some 40
    else if h / 2 ^ 30 % 4 = 3 then some 30
    else leastPos (setBits h 28 0) := by
  have hlen : bitsOf h 63 60 = h / 2 ^ 60 := by
    unfold bitsOf
    omega
  have hset : ∀ n, n < 16 → ((12 ≤ n ∧ n ≤ 14) ↔ ¬ (n < 12 ∨ n = 15)) := by omega
  have ha : h / 2 ^ 44 % 16 < 16 := Nat.mod_lt _ (by decide)
  have hb : h / 2 ^ 40 % 16 < 16 := Nat.mod_lt _ (by decide)
  have hsame : (h / 2 ^ 44 % 16 = h / 2 ^ 40 % 16 ∧ h / 2 ^ 44 % 16 ≠ 15) ↔
      ¬ (h / 2 ^ 44 % 16 ≠ h / 2 ^ 40 % 16 ∨ h / 2 ^ 44 % 16 = 15) := by tauto
  simp only [hdrErr, hlen, show bitsOf h 47 44 = h / 2 ^ 44 % 16 from rfl, show bitsOf h 43 40 = h / 2 ^ 40 % 16 from rfl,
    show bitsOf h 31 30 = h / 2 ^ 30 % 4 from rfl, hset _ ha, hset _ hb, hsame]

/-! ### The entry that joins the start -/

section
variable {g : Group} {lane : Nat} {e : Entry}

theorem Group.joinStart_eq (g : Group) (lane : Nat) : g.joinStart lane = { g with entries := (g.joinStart lane).entries } := by
  unfold Group.joinStart
  split
  · rfl
  · split <;> rfl

/-- The lanes of those entries of a list that satisfy a condition, added to a set. -/
theorem foldl_masks_bit (l : List Entry) (p : Entry → Bool) (m : Mask) (k : Nat) :
    (l.foldl (fun m x => if p x then m ||| x.mask else m) m).getLsbD k = true ↔
      m.getLsbD k = true ∨ ∃ y ∈ l, p y = true ∧ y.mask.getLsbD k = true := by
  induction l generalizing m with
  | nil => simp
  | cons x l ih =>
    rw [List.foldl_cons, ih]
    cases hx : p x with
    | true => simp [hx, or_assoc]
    | false => simp [hx]

/-- The entry at the header takes the lanes of all that start with it (R280). -/
theorem Group.joinStart_entryAt (he : g.entryAt lane = some e) (hh : e.handler = false) :
    ∃ m : Mask, (g.joinStart lane).entryAt lane = some { e with mask := m } ∧
      ∀ l, l < 64 → (m.getLsbD l = true ↔ e.mask.getLsbD l = true ∨
        ∃ y ∈ g.entries, y.pc = e.pc ∧ y.clause = none ∧ y.isParked = false ∧ y.handler = false ∧ y.mask.getLsbD l = true) := by
  have hbit (l : Nat) := foldl_masks_bit g.entries (fun x => x.pc == e.pc && x.clause.isNone && !x.isParked && !x.handler) e.mask l
  refine ⟨_, ?_, fun l _ => (hbit l).trans ?_⟩
  · simp only [Group.joinStart, he, hh, Bool.false_eq_true, if_false]
    exact List.find?_cons_of_pos (p := fun x : Entry => x.mask.getLsbD lane) ((hbit lane).mpr (.inl (Group.entryAt_mem he).2))
  · simp only [Bool.and_eq_true, beq_iff_eq, Option.isNone_iff_eq_none, Bool.not_eq_true', and_assoc]

end

/-! ### The trap of a header -/

/-- R275: a lane of an entry that re-enters would take %reentry above its limit. -/
def Group.beyond (g : Group) (e : Entry) : Prop :=
  e.handler = false ∧ ∃ l, e.mask.getLsbD l = true ∧ g.limit < KMap.getD g.recheck 0 l

/-- R74: a header of this kind may not start for the entry. -/
def Group.misplaced (g : Group) (e : Entry) (kind : Nat) : Prop :=
  (e.handler = true ∧ kind ≠ 2) ∨ (e.handler = false ∧ kind ≠ 0 ∧ kind ≠ 1) ∨
    (e.handler = false ∧ kind = 1 ∧ minus e.mask g.outside ≠ 0) ∨ (e.handler = false ∧ kind = 0 ∧ e.mask &&& g.outside ≠ 0)

/-- R74: a header of this kind starts for the entry. -/
def Group.placed (g : Group) (e : Entry) (kind : Nat) : Prop :=
  (e.handler = true ∧ kind = 2) ∨ (e.handler = false ∧ kind = 1 ∧ minus e.mask g.outside = 0) ∨
    (e.handler = false ∧ kind = 0 ∧ e.mask &&& g.outside = 0)

section
variable {g : Group} {e : Entry} {h : Nat}

theorem Group.beyond_iff : (!e.handler && (lanesOf e.mask).any (fun l => decide (g.limit < KMap.getD g.recheck 0 l))) = true ↔
    g.beyond e := by
  simp [Group.beyond, mem_lanesOf]

theorem Group.startTrap_beyond (hb : g.beyond e) : g.startTrap e h = some (.strandLivelock, 0xFF) := by
  rw [Group.startTrap, if_pos (Group.beyond_iff.mpr hb)]

theorem Group.startTrap_header {p : Nat} (hb : ¬ g.beyond e) (he : hdrErr h = some p) : g.startTrap e h = some (.header, p) := by
  rw [Group.startTrap, if_neg (mt Group.beyond_iff.mp hb), he]

theorem Group.startTrap_misplaced (hb : ¬ g.beyond e) (he : hdrErr h = none) (hm : g.misplaced e (hdrKind h)) :
    g.startTrap e h = some (.placement, 30) := by
  rw [Group.startTrap, if_neg (mt Group.beyond_iff.mp hb), he]
  rcases hm with ⟨hh, hk⟩ | ⟨hh, hk0, hk1⟩ | ⟨hh, hk, hm⟩ | ⟨hh, hk, hm⟩
  · simp [hh, hk]
  · simp [hh, hk0, hk1]
  · simpa [hh, hk] using hm
  · simpa [hh, hk] using hm

theorem Group.startTrap_none (hb : ¬ g.beyond e) (he : hdrErr h = none) (hp : g.placed e (hdrKind h)) : g.startTrap e h = none := by
  rw [Group.startTrap, if_neg (mt Group.beyond_iff.mp hb), he]
  rcases hp with ⟨hh, hk⟩ | ⟨hh, hk, hm⟩ | ⟨hh, hk, hm⟩
  · simp [hh, hk]
  · simpa [hh, hk] using hm
  · simpa [hh, hk] using hm

end

/-! ### The group once its clause has started -/

/-- The group of a started clause: with a strand-entry header its lanes are part of the strand. -/
def Group.started (g : Group) (lane : Nat) (e : Entry) (h : Nat) (ws : List Nat) : Group :=
  let g1 := if hdrKind h = 1 then ((g.checked e.mask).setCohort e.mask).enter e.mask e.pc (hdrPrio h) else g
  let g2 := g1.modEntry lane (fun e =>
    { e with pc := e.pc + 8, prio := hdrPrio h, clause := some ⟨e.pc, h, ws⟩, retry := 0, governed := false })
  { g2 with yieldMark := if hdrKind h = 1 then false else g2.yieldMark }

theorem Group.entryAt_modEntry {g : Group} {lane : Nat} {e : Entry} {f : Entry → Entry} (he : g.entryAt lane = some e)
    (hf : ∀ y, (f y).mask = y.mask) : (g.modEntry lane f).entryAt lane = some (f e) := by
  unfold Group.entryAt Group.modEntry at *
  dsimp only
  generalize g.entries = l at he
  induction l with
  | nil => cases he
  | cons y l ih =>
    rw [List.find?_cons] at he
    rw [List.map_cons, List.find?_cons]
    cases hy : y.mask.getLsbD lane with
    | true =>
      simp only [hy, Option.some.injEq] at he
      subst he
      simp only [if_true, hf, hy]
    | false =>
      simp only [hy] at he
      simp only [Bool.false_eq_true, if_false, hy, ih he]

/-- A value put into a table for each key of a list. -/
theorem KMap.find?_inserts {α : Type} (l : List Nat) (m : KMap α) (v : α) (k : Nat) :
    KMap.find? (l.foldl (fun a l => KMap.insert a l v) m) k = if k ∈ l then some v else KMap.find? m k := by
  induction l generalizing m with
  | nil => simp
  | cons j l ih =>
    rw [List.foldl_cons, ih, KMap.find?_insert]
    by_cases hk : k ∈ l
    · simp [hk]
    · simp [hk, eq_comm]

theorem KMap.find?_filter_none {α : Type} (m : KMap α) (p : Nat × α → Bool) (k : Nat) (hp : ∀ v, p (k, v) = false) :
    KMap.find? (m.filter p) k = none := by
  cases hf : KMap.find? (m.filter p) k with
  | none => rfl
  | some v =>
    have hmem := List.mem_filter.mp (KMap.mem_of_find? hf)
    rw [hp v] at hmem
    cases hmem.2

section
variable {g : Group} {lane : Nat} {e : Entry} {h : Nat} {ws : List Nat}

theorem Group.started_entryAt (he : g.entryAt lane = some e) : (g.started lane e h ws).entryAt lane =
    some { e with pc := e.pc + 8, prio := hdrPrio h, clause := some ⟨e.pc, h, ws⟩, retry := 0, governed := false } := by
  unfold Group.started
  split
  · exact Group.entryAt_modEntry (g := ((g.checked e.mask).setCohort e.mask).enter e.mask e.pc (hdrPrio h)) he fun _ => rfl
  · exact Group.entryAt_modEntry he fun _ => rfl

theorem Group.started_regs : (g.started lane e h ws).v = g.v ∧ (g.started lane e h ws).s = g.s ∧ (g.started lane e h ws).p = g.p ∧
    (g.started lane e h ws).kerb = g.kerb := by
  by_cases hk : hdrKind h = 1
  · simp only [Group.started, hk, if_true, Group.modEntry, Group.enter, Group.setCohort, Group.checked, and_self]
  · simp only [Group.started, hk, if_false, Group.modEntry, and_self]

theorem Group.started_other (hk : hdrKind h ≠ 1) :
    (g.started lane e h ws).outside = g.outside ∧ (g.started lane e h ws).entryPc = g.entryPc := by
  unfold Group.started
  rw [if_neg hk]
  exact ⟨rfl, rfl⟩

/-- R258, R275: the lanes of a strand-entry clause are part of the strand from its header on. -/
theorem Group.started_entry (hk : hdrKind h = 1) (hb : ∀ l, e.mask.getLsbD l = true → ¬ g.limit < KMap.getD g.recheck 0 l)
    (hout : minus e.mask g.outside = 0) :
    (g.started lane e h ws).outside = minus g.outside e.mask ∧ (g.started lane e h ws).reentry = g.reentry ∧
      ∀ l, l < 64 → e.mask.getLsbD l = true → KMap.find? (g.started lane e h ws).recheck l = none ∧
        KMap.find? (g.started lane e h ws).entryPc l = some e.pc ∧ KMap.find? (g.started lane e h ws).entryPrio l = some (hdrPrio h) := by
  have hany : (lanesOf e.mask).any (fun l => decide (g.limit < KMap.getD g.recheck 0 l)) = false := by
    rw [List.any_eq_false]
    intro l hl
    simpa using hb l ((mem_lanesOf _ _).mp hl)
  have hin : ∀ l, e.mask.getLsbD l = true → l ∈ lanesOf (e.mask &&& g.outside) := by
    intro l hl
    have hbit := congrArg (fun m => BitVec.getLsbD m l) hout
    simp only [minus_bit, hl] at hbit
    rw [mem_lanesOf, BitVec.getLsbD_and, hl]
    simpa using hbit
  simp only [Group.started, hk, if_true, Group.modEntry, Group.enter, Group.setCohort, Group.checked, hany, Bool.false_eq_true,
    if_false, true_and, KMap.find?_inserts]
  exact fun l _ hl => ⟨KMap.find?_filter_none _ _ _ fun v => by simp [hl], if_pos (hin l hl), if_pos (hin l hl)⟩

end

/-! ### The step -/

/-- R71: no flag that WAITM names has a word in flight. -/
theorem State.waitClear_iff (s : State) (gid h : Nat) :
    s.waitClear gid h = true ↔ ∀ i, i < 12 → (h / 2 ^ 48).testBit i = true → s.onFlag gid i = 0 := by
  simp only [State.waitClear, List.all_eq_true, List.mem_range, Bool.or_eq_true, Bool.not_eq_true', beq_iff_eq, bitOf_eq_testBit,
    hdrWait, bitsOf, Nat.testBit_mod_two_pow]
  refine forall₂_congr fun i hi => ?_
  cases hb : (h / 2 ^ 48).testBit i with
  | true => simp [hi]
  | false => simp

theorem State.mayIssue_find {s : State} {gid : Nat} (h : s.mayIssue gid = true) : (KMap.find? s.groups gid).isSome = true := by
  unfold State.mayIssue at h
  split at h
  · cases h
  · next g hg => rw [hg]; rfl

section
variable {s s0 : State} {gid lane h : Nat} {e0 e : Entry}
  (he0 : (s.grp gid).entryAt lane = some e0) (hc : e0.clause = none) (hr : (s.grp gid).ready e0 = true) (hi : s.mayIssue gid = true)
  (hs0 : s0 = s.touchRange (s.grp gid).ctx (towerOf (s.coreOf gid)) .fetch e0.pc 8) (hw : s0.fetchWord (s.grp gid).ctx e0.pc = .ok h)
include he0 hc hr hi hs0 hw

/-- While a flag that WAITM names has a word in flight, only the header is touched. -/
theorem clauseStart_waits (hf : s0.waitClear gid h = false) : exec (.clauseStart gid lane) s = .next s0 := by
  rw [exec_clauseStart, execClauseStart, he0]
  simp only [hc, hr, hi, Option.isSome_none, Bool.not_true, Bool.or_self, Bool.false_eq_true, if_false, ← hs0, hw, hf, Bool.not_false,
    if_true]

variable (hf : s0.waitClear gid h = true) (he : ((s0.grp gid).joinStart lane).entryAt lane = some e)
include hf he

omit he0 hc hr hw hf he in
/-- The group as the entries at the header have joined the start. -/
theorem clauseStart_joined (lane : Nat) : (s0.modGrp gid (fun g => g.joinStart lane)).grp gid = (s0.grp gid).joinStart lane := by
  have hg : s0.groups = s.groups := by
    rw [hs0, State.touchRange_same s (s.grp gid).ctx (towerOf (s.coreOf gid)) .fetch e0.pc 8]
  rw [State.grp_modGrp, if_pos ⟨rfl, hg ▸ State.mayIssue_find hi⟩]

theorem clauseStart_traps {c : Cause} {p : Nat} (ht : ((s0.grp gid).joinStart lane).startTrap e h = some (c, p)) :
    exec (.clauseStart gid lane) s = .next (((s0.modGrp gid (fun g => g.joinStart lane)).trap gid lane c p h e.pc).settle gid) := by
  have hj := clauseStart_joined hi hs0 lane
  rw [exec_clauseStart, execClauseStart, he0]
  simp only [hc, hr, hi, Option.isSome_none, Bool.not_true, Bool.or_self, Bool.false_eq_true, if_false, ← hs0, hw, hf, hj, he, ht]

theorem clauseStart_starts {s2 : State} {ws : List Nat} (ht : ((s0.grp gid).joinStart lane).startTrap e h = none)
    (hs2 : s2 = (s0.modGrp gid (fun g => g.joinStart lane)).touchRange (s.grp gid).ctx (towerOf (s.coreOf gid)) .fetch (e.pc + 8)
      (8 * hdrLen h))
    (hws : s2.fetchWords (s.grp gid).ctx (e.pc + 8) (hdrLen h) = .ok ws) :
    exec (.clauseStart gid lane) s =
      .next ((s2.setGrp gid (((s0.grp gid).joinStart lane).started lane e h ws)).settle gid) := by
  have hj := clauseStart_joined hi hs0 lane
  rw [exec_clauseStart, execClauseStart, he0]
  simp only [hc, hr, hi, Option.isSome_none, Bool.not_true, Bool.or_self, Bool.false_eq_true, if_false, ← hs0, hw, hf, hj, he, ht,
    ← hs2, hws]
  rfl

end

/-- Settles O30: the step by what its header says (`clauseStart_waits`, `clauseStart_traps`, `clauseStart_starts`), the entry that
joins (`Group.joinStart_entryAt`) and the positions of R76 (`hdrErr_cases`). -/
theorem clauseStart : Obligations.ClauseStart := by
  unfold Obligations.ClauseStart
  refine ⟨?step, ?join, ?reserved⟩
  case step =>
    intro s s0 gid lane h e0 e he0 hc hr hi hs0 hw
    refine ⟨fun ⟨i, hi12, hbit, hfl⟩ => clauseStart_waits he0 hc hr hi hs0 hw (Bool.eq_false_iff.mpr fun hclear =>
      hfl ((s0.waitClear_iff gid h).mp hclear i hi12 hbit)), fun hflags he => ?_⟩
    have hf := (s0.waitClear_iff gid h).mpr hflags
    have hj := clauseStart_joined hi hs0 lane
    intro s1 kind beyond
    have htrap := fun {c p} => clauseStart_traps (c := c) (p := p) he0 hc hr hi hs0 hw hf he
    have hjoin := (s0.grp gid).joinStart_eq lane
    have hbeyond : beyond ↔ ((s0.grp gid).joinStart lane).beyond e := by rw [hjoin]; rfl
    refine ⟨fun hb => htrap (Group.startTrap_beyond (hbeyond.mp hb)),
      fun p hp hb => htrap (Group.startTrap_header (mt hbeyond.mpr hb) hp),
      fun hp hb hm => htrap (Group.startTrap_misplaced (mt hbeyond.mpr hb) hp (by rw [hjoin]; exact hm)), fun hp hb hm => ?_⟩
    intro s2 ws hws
    have hplaced : ((s0.grp gid).joinStart lane).placed e (hdrKind h) := by rw [hjoin]; exact hm
    have hs2 : s2.grp gid = (s0.grp gid).joinStart lane := ((State.touchRange_same s1 _ _ _ _ _).grp gid).trans hj
    refine ⟨_, clauseStart_starts he0 hc hr hi hs0 hw hf he (Group.startTrap_none (mt hbeyond.mpr hb) hp hplaced) rfl hws, ?_⟩
    rw [hs2]
    refine ⟨Group.started_entryAt he, fun hk => ?_, fun hk => Group.started_other hk, Group.started_regs⟩
    obtain ⟨hh, hout⟩ : e.handler = false ∧ minus e.mask ((s0.grp gid).joinStart lane).outside = 0 := by
      rcases hplaced with ⟨-, h2⟩ | ⟨hh, -, hout⟩ | ⟨-, h0, -⟩
      · exact absurd (hk.symm.trans h2) (by decide)
      · exact ⟨hh, hout⟩
      · exact absurd (hk.symm.trans h0) (by decide)
    exact Group.started_entry hk (fun l hl hlt => hb (hbeyond.mpr ⟨hh, l, hl, hlt⟩)) hout
  case join =>
    rintro g t lane e he hh rfl
    refine ⟨?_, Group.joinStart_entryAt he hh⟩
    rw [Group.joinStart_eq]
  case reserved =>
    intro h h64 seta setb ok1 ok2 ok3 ok4 ok5
    rw [hdrErr_cases h h64]
    refine ⟨fun h1 => ?_, fun h1 h2 => ?_, fun h1 h2 h3 => ?_, fun h1 h2 h3 h4 => ?_, fun h1 h2 h3 h4 h5 => ?_,
      fun h1 h2 h3 h4 h5 => ?_⟩
    · rw [if_pos (not_not.mp h1)]
    · rw [if_neg h1, if_pos h2]
    · rw [if_neg h1, if_neg (not_not.mpr h2), if_pos h3]
    · rw [if_neg h1, if_neg (not_not.mpr h2), if_neg (not_not.mpr h3), if_pos h4]
    · rw [if_neg h1, if_neg (not_not.mpr h2), if_neg (not_not.mpr h3), if_neg (not_not.mpr h4), if_pos (not_not.mp h5)]
    · rw [if_neg h1, if_neg (not_not.mpr h2), if_neg (not_not.mpr h3), if_neg (not_not.mpr h4), if_neg h5]
      exact ⟨fun p hp hb hlow => setBits_header_least hp hb hlow, fun h0 => setBits_header_none h0⟩

end Sys2Proof.Machine
end

section
/-! Context faults (R274, R385, R386): what a discard leaves of a group, what the stop of a context does to its groups, and what
the record of a fault holds. -/

namespace Sys2Proof.Machine

/-! ### Lanes that re-enter -/

/-- A lane stands at its entry clause, with no clause started and nothing waited for. -/
def Group.atEntry (g : Group) (es : List Entry) (l : Nat) : Prop :=
  ∃ e ∈ es, e.mask.getLsbD l = true ∧ e.pc = KMap.getD g.entryPc 0 l ∧ e.clause = none ∧ e.wait = .none

theorem addReentry_clause (w : Wait) (pc prio l : Nat) (es : List Entry) (h : ∀ e ∈ es, e.clause = none) :
    ∀ e ∈ addReentry w pc prio l es, e.clause = none := by
  induction es with
  | nil => simp [addReentry]
  | cons x es ih =>
    have hes := fun e he => h e (List.mem_cons_of_mem x he)
    rw [addReentry]
    split
    · exact List.forall_mem_cons.mpr ⟨h x List.mem_cons_self, hes⟩
    · exact List.forall_mem_cons.mpr ⟨h x List.mem_cons_self, ih hes⟩

theorem addReentry_adds (w : Wait) (pc prio l : Nat) (hl : l < 64) (es : List Entry) :
    ∃ e ∈ addReentry w pc prio l es, e.mask.getLsbD l = true ∧ e.pc = pc ∧ e.wait = w := by
  induction es with
  | nil => exact ⟨_, List.mem_singleton_self _, by rw [laneBit_bit _ _ hl, decide_eq_true rfl], rfl, rfl⟩
  | cons x es ih =>
    rw [addReentry]
    split
    · next hx => exact ⟨_, List.mem_cons_self, by rw [BitVec.getLsbD_or, laneBit_bit _ _ hl, decide_eq_true rfl, Bool.or_true], hx.1, hx.2.2⟩
    · obtain ⟨e, he, h⟩ := ih
      exact ⟨e, List.mem_cons_of_mem _ he, h⟩

theorem addReentry_keeps (w : Wait) (pc prio l : Nat) (es : List Entry) (k : Nat) {e : Entry} (he : e ∈ es)
    (hk : e.mask.getLsbD k = true) :
    ∃ y ∈ addReentry w pc prio l es, y.mask.getLsbD k = true ∧ y.pc = e.pc ∧ y.wait = e.wait := by
  induction es with
  | nil => cases he
  | cons x es ih =>
    rw [addReentry]
    rcases List.mem_cons.mp he with rfl | he
    · split
      · exact ⟨_, List.mem_cons_self, by simp [hk], rfl, rfl⟩
      · exact ⟨e, List.mem_cons_self, hk, rfl, rfl⟩
    · split
      · exact ⟨e, List.mem_cons_of_mem _ he, hk, rfl, rfl⟩
      · obtain ⟨y, hy, h⟩ := ih he
        exact ⟨y, List.mem_cons_of_mem _ hy, h⟩

/-- Every lane of a list that re-enters without a page to wait for stands at its entry clause. -/
theorem reentries_atEntry (g : Group) (ls : List Nat) (hls : ∀ l ∈ ls, l < 64) {l : Nat} (hl : l ∈ ls) :
    g.atEntry (ls.foldl (fun es l => addReentry (parkWait [] l) (KMap.getD g.entryPc 0 l) (KMap.getD g.entryPrio 0 l) l es) []) l := by
  have loop : ∀ (ls : List Nat) (es : List Entry), (∀ l ∈ ls, l < 64) → (∀ e ∈ es, e.clause = none) → (l ∈ ls ∨ g.atEntry es l) →
      g.atEntry (ls.foldl (fun es l => addReentry (parkWait [] l) (KMap.getD g.entryPc 0 l) (KMap.getD g.entryPrio 0 l) l es) es) l := by
    intro ls
    induction ls with
    | nil => exact fun es _ _ h => h.resolve_left (List.not_mem_nil)
    | cons k ls ih =>
      intro es hlt hes h
      have hclause := addReentry_clause (parkWait [] k) (KMap.getD g.entryPc 0 k) (KMap.getD g.entryPrio 0 k) k es hes
      refine ih _ (fun j hj => hlt j (List.mem_cons_of_mem k hj)) hclause ?_
      rcases h with h | ⟨e, he, hb, hpc, -, hw⟩
      · rcases List.mem_cons.mp h with rfl | h
        · obtain ⟨e, he, hb, hpc, hw⟩ := addReentry_adds (parkWait [] l) (KMap.getD g.entryPc 0 l) (KMap.getD g.entryPrio 0 l) l
            (hlt l List.mem_cons_self) es
          exact .inr ⟨e, he, hb, hpc, hclause e he, hw⟩
        · exact .inl h
      · obtain ⟨y, hy, hyb, hypc, hyw⟩ := addReentry_keeps (parkWait [] k) (KMap.getD g.entryPc 0 k) (KMap.getD g.entryPrio 0 k) k es l he hb
        exact .inr ⟨y, hy, hyb, hypc.trans hpc, hclause y hy, hyw.trans hw⟩
  exact loop ls [] hls (by simp) (.inl hl)

/-! ### What a discard leaves of a group -/

section
variable (g : Group) (m : Mask) (counts : Bool) (parks : List (Nat × Nat))

theorem Group.discard_outside : (g.discard m counts parks).outside = g.outside ||| m := by
  unfold Group.discard
  dsimp only
  split <;> rfl

theorem Group.discard_v : (g.discard m counts parks).v = g.v := by
  unfold Group.discard
  dsimp only
  split <;> rfl

theorem Group.discard_accepted : (g.discard m counts parks).accepted = g.accepted ∧ (g.discard m counts parks).skip = g.skip := by
  unfold Group.discard
  dsimp only
  split <;> exact ⟨rfl, rfl⟩

theorem Group.discard_kerb : (g.discard m counts parks).kerb = g.kerb.filter (fun e => !m.getLsbD (e.1 % 64)) := by
  unfold Group.discard
  dsimp only
  split <;> rfl

theorem Group.discard_buffer : (g.discard m counts parks).buffer = g.buffer.map (fun p =>
    { p with lanes := minus p.lanes m, bytes := p.bytes.filter (fun b => !m.getLsbD b.lane) }) := by
  unfold Group.discard
  dsimp only
  split <;> rfl

theorem Group.discard_p : (g.discard m counts parks).p = (List.range 24).foldl (fun a r =>
    KMap.setD a 0 r (minus (KMap.getD a 0 r) m ||| (KMap.getD g.snap.p 0 r &&& m))) g.p := by
  unfold Group.discard
  dsimp only
  split <;> rfl

theorem Group.discard_entries : ∃ es, (g.discard m counts parks).entries = es ++ (lanesOf m).foldl (fun es l =>
    addReentry (parkWait parks l) (KMap.getD g.entryPc 0 l) (KMap.getD g.entryPrio 0 l) l es) [] := by
  unfold Group.discard
  dsimp only
  split <;> exact ⟨_, rfl⟩

end

section
variable {g : Group} {m : Mask} {l : Nat} (hl : m.getLsbD l = true)
include hl

/-- A discarded lane has no kerb slot. -/
theorem Group.discard_kValid (counts : Bool) (parks : List (Nat × Nat)) (k : Nat) :
    (g.discard m counts parks).kValid k l = false := by
  have hlt := BitVec.lt_of_getLsbD hl
  have hf : KMap.find? (g.kerb.filter (fun e => !m.getLsbD (e.1 % 64))) (k * 64 + l) = none :=
    KMap.find?_filter_none _ _ _ fun v => by simp [show (k * 64 + l) % 64 = l by omega, hl]
  simp only [Group.kValid, Group.discard_kerb, hf, Option.isSome_none]

/-- A discarded lane has no byte in the buffer. -/
theorem Group.discard_bytes (counts : Bool) (parks : List (Nat × Nat)) :
    ∀ p ∈ (g.discard m counts parks).buffer, ∀ b ∈ p.bytes, b.lane ≠ l := by
  rw [Group.discard_buffer]
  intro p hp b hb hbl
  obtain ⟨q, -, rfl⟩ := List.mem_map.mp hp
  have := (List.mem_filter.mp hb).2
  rw [hbl, hl] at this
  cases this

/-- A discarded lane has the predicates of the strand's begin. -/
theorem Group.discard_pred (counts : Bool) (parks : List (Nat × Nat)) (q : Nat) (hq : q < 24) :
    ((g.discard m counts parks).pGet q).getLsbD l = (KMap.getD g.snap.p 0 q).getLsbD l := by
  have hlt := BitVec.lt_of_getLsbD hl
  have loop : ∀ (rs : List Nat) (a : KMap Mask), (KMap.getD (rs.foldl (fun a r =>
      KMap.setD a 0 r (minus (KMap.getD a 0 r) m ||| (KMap.getD g.snap.p 0 r &&& m))) a) 0 q).getLsbD l =
        if q ∈ rs then (KMap.getD g.snap.p 0 q).getLsbD l else (KMap.getD a 0 q).getLsbD l := by
    intro rs
    induction rs with
    | nil => simp
    | cons r rs ih =>
      intro a
      rw [List.foldl_cons, ih, KMap.getD_setD]
      by_cases hqs : q ∈ rs
      · simp [hqs]
      · by_cases hr : r = q
        · simp [hr, blend_bit _ _ _ _ hlt, hl]
        · simp [hqs, hr, Ne.symm hr]
  rw [Group.pGet, Group.discard_p, loop, if_pos (List.mem_range.mpr hq)]

/-- A discarded lane that does not park stands at its entry clause. -/
theorem Group.discard_atEntry (counts : Bool) : g.atEntry (g.discard m counts []).entries l := by
  obtain ⟨es, hes⟩ := g.discard_entries m counts []
  obtain ⟨e, he, h⟩ := reentries_atEntry g (lanesOf m) (fun k hk => BitVec.lt_of_getLsbD ((mem_lanesOf m k).mp hk))
    ((mem_lanesOf m l).mpr hl)
  exact ⟨e, hes ▸ List.mem_append_right es he, h⟩

end

/-! ### The stop of a context -/

/-- R274: what the stop of its context makes of a group: every lane in the strand is discarded, and what was accepted is skipped by
the next acceptance. -/
structure Group.Stopped (g t : Group) : Prop where
  lists : t.sealed = 0 ∧ t.skip = g.skip ++ g.accepted ∧ t.accepted = []
  outside : t.outside = allLanes
  vector : t.v = g.v
  lanes : ∀ l, l < 64 → g.outside.getLsbD l = false → g.atEntry t.entries l ∧ (∀ k, t.kValid k l = false) ∧
    (∀ p ∈ t.buffer, ∀ b ∈ p.bytes, b.lane ≠ l) ∧ ∀ q, q < 24 → (t.pGet q).getLsbD l = (KMap.getD g.snap.p 0 q).getLsbD l

/-- The last step of the stop of a group. -/
def Group.skipping (g : Group) : Group :=
  { g with sealed := 0, parkedIn := 0, owing := 0, skip := g.skip ++ g.accepted, accepted := [] }

/-- The lanes that the stop of a context discards. -/
def Group.struckLanes (g : Group) : Mask := minus (allLanes &&& (~~~g.outside ||| g.parked)) 0

theorem allLanes_bit {l : Nat} (hl : l < 64) : allLanes.getLsbD l = true := by
  rw [show allLanes = BitVec.allOnes 64 from rfl, BitVec.getLsbD_allOnes, decide_eq_true hl]

theorem Group.struckLanes_of_inside (g : Group) {l : Nat} (hl : l < 64) (h : g.outside.getLsbD l = false) :
    g.struckLanes.getLsbD l = true := by
  rw [Group.struckLanes, minus_bit, BitVec.getLsbD_and, allLanes_bit hl, BitVec.getLsbD_or, BitVec.getLsbD_not, h, decide_eq_true hl]
  simp

theorem Group.outside_struckLanes (g : Group) : g.outside ||| g.struckLanes = allLanes := by
  apply BitVec.eq_of_getLsbD_eq
  intro l hl
  rw [BitVec.getLsbD_or, allLanes_bit hl]
  cases ho : g.outside.getLsbD l with
  | true => rfl
  | false => rw [g.struckLanes_of_inside hl ho, Bool.false_or]

/-- A group with lanes in a strand: they are discarded. -/
theorem Group.stopped_discard (g : Group) (n : Nat) :
    g.Stopped (({ g with sealed := 0, govStall := n } : Group).discard g.struckLanes false []).skipping where
  lists := by
    obtain ⟨ha, hs⟩ := Group.discard_accepted { g with sealed := 0, govStall := n } g.struckLanes false []
    simp only [Group.skipping, ha, hs, and_self]
  outside := (Group.discard_outside _ _ _ _).trans g.outside_struckLanes
  vector := Group.discard_v _ _ _ _
  lanes := fun l hl ho =>
    have hs := g.struckLanes_of_inside hl ho
    ⟨Group.discard_atEntry hs false, fun k => Group.discard_kValid hs false [] k, Group.discard_bytes hs false [],
      fun q hq => Group.discard_pred hs false [] q hq⟩

/-- A group with no lane in a strand: nothing is discarded. -/
theorem Group.stopped_idle (g : Group) (h : g.struckLanes = 0) : g.Stopped ({ g with sealed := 0 } : Group).skipping where
  lists := ⟨rfl, rfl, rfl⟩
  outside := by
    have := g.outside_struckLanes
    rwa [h, BitVec.ofNat_eq_ofNat, BitVec.or_zero] at this
  vector := rfl
  lanes := fun l hl ho => by
    have := g.struckLanes_of_inside hl ho
    rw [h] at this
    simp at this

/-- What the stop of a context does to one group (R274). -/
def State.stopGroup (s : State) (gid : Nat) : State :=
  ((s.modGrp gid (fun g => { g with sealed := 0 })).discard gid allLanes false []).modGrp gid Group.skipping

theorem State.stopGroups_eq (s : State) (c : Nat) : s.stopGroups c = (s.groupsOfCtx c).foldl (fun s e => s.stopGroup e.1) s := rfl

/-! ### Groups after a discard -/

theorem State.withdraw_groups (s : State) (gid : Nat) : (s.withdraw gid).groups = s.groups := rfl

theorem State.dropHolders_groups (s : State) (core : Nat) : (s.dropHolders core).groups = s.groups := rfl

theorem State.meter_groups (s : State) (c i n : Nat) : (s.meter c i n).groups = s.groups := rfl

theorem State.find_modGrp (s : State) (gid h : Nat) (f : Group → Group) : KMap.find? (s.modGrp gid f).groups h =
    if gid = h then (KMap.find? s.groups h).map f else KMap.find? s.groups h := KMap.find?_modify _ _ _ _

/-- The lanes of a group that a discard of lanes reaches: those in a strand or parked, and not sealed. -/
def Group.reached (g : Group) (m : Mask) : Mask := minus (m &&& (~~~g.outside ||| g.parked)) g.sealed

section
variable (s : State) (gid : Nat) (m : Mask) (counts : Bool) (parks : List (Nat × Nat))

theorem State.discard_none (h : (s.grp gid).reached m = 0 ∨ (s.grp gid).ended = true) : s.discard gid m counts parks = s :=
  if_pos h

/-- A discard changes its own group alone. -/
theorem State.discard_find_ne {i : Nat} (hi : i ≠ gid) :
    KMap.find? (s.discard gid m counts parks).groups i = KMap.find? s.groups i := by
  unfold State.discard
  dsimp only
  split
  · rfl
  · rw [State.dropHolders_groups, State.meter_groups, State.find_modGrp, if_neg (Ne.symm hi)]
    refine (State.find_modGrp _ gid i _).trans ?_
    rw [if_neg (Ne.symm hi)]
    split <;> rfl

/-- The cycles for which the governor holds the entries that a discard of lanes ends (R424). -/
def State.heldIn (m : Mask) : Nat :=
  (s.grp gid).entries.foldl (fun n e => if minus e.mask m = 0 then n + e.heldCycles (s.clock (s.coreOf gid)) else n) 0

/-- The group of a discard: the governor's hold of its entries counts, and its lanes are discarded. -/
theorem State.discard_find {g : Group} (hg : KMap.find? s.groups gid = some g) (h0 : g.reached m ≠ 0) (he : g.ended = false) :
    ∃ n, KMap.find? (s.discard gid m counts parks).groups gid =
      some (({ g with govStall := n } : Group).discard (g.reached m) counts parks) := by
  have hgrp := s.grp_of_find hg
  have hgo : ¬ ((s.grp gid).reached m = 0 ∨ (s.grp gid).ended = true) := by
    rw [hgrp, he]
    simpa using h0
  subst hgrp
  refine ⟨min ((s.grp gid).govStall + s.heldIn gid ((s.grp gid).reached m)) (2 ^ 64 - 1), ?_⟩
  unfold State.discard
  dsimp only
  rw [if_neg (by exact hgo), State.dropHolders_groups, State.meter_groups, State.find_modGrp, if_pos rfl]
  refine (congrArg (Option.map _) ((State.find_modGrp _ gid gid _).trans (if_pos rfl))).trans ?_
  have hw : ∀ b : Bool, KMap.find? (if b then s.withdraw gid else s).groups gid = some (s.grp gid) := fun b => by
    cases b
    · exact hg
    · exact hg
  rw [hw]
  rfl

end

/-! ### Groups after a stop -/

section
variable (s : State) (gid : Nat)

theorem State.stopGroup_find_ne {i : Nat} (hi : i ≠ gid) : KMap.find? (s.stopGroup gid).groups i = KMap.find? s.groups i := by
  rw [State.stopGroup, State.find_modGrp, if_neg (Ne.symm hi), State.discard_find_ne _ _ _ _ _ hi, State.find_modGrp,
    if_neg (Ne.symm hi)]

theorem State.stopGroup_find {g : Group} (hg : KMap.find? s.groups gid = some g) (he : g.ended = false) :
    ∃ t, KMap.find? (s.stopGroup gid).groups gid = some t ∧ g.Stopped t := by
  have hs : KMap.find? (s.modGrp gid (fun g => { g with sealed := 0 })).groups gid = some { g with sealed := 0 } := by
    rw [State.find_modGrp, if_pos rfl, hg]
    rfl
  rw [State.stopGroup, State.find_modGrp, if_pos rfl]
  by_cases h0 : g.struckLanes = 0
  · rw [State.discard_none _ _ _ _ _ (.inl (by rw [State.grp_of_find _ hs]; exact h0)), hs]
    exact ⟨_, rfl, g.stopped_idle h0⟩
  · obtain ⟨n, hn⟩ := State.discard_find _ gid allLanes false [] hs h0 he
    rw [hn]
    exact ⟨_, rfl, g.stopped_discard n⟩

end

/-- The stop of groups with keys of their own: each is stopped once, and the others stay. -/
theorem State.foldl_stopGroup (l : List (Nat × Group)) (s : State) (hl : l.Pairwise (fun a b => a.1 < b.1)) (gid : Nat) :
    (gid ∉ l.map (·.1) → KMap.find? (l.foldl (fun s e => s.stopGroup e.1) s).groups gid = KMap.find? s.groups gid) ∧
    (gid ∈ l.map (·.1) → ∀ g, KMap.find? s.groups gid = some g → g.ended = false →
      ∃ t, KMap.find? (l.foldl (fun s e => s.stopGroup e.1) s).groups gid = some t ∧ g.Stopped t) := by
  induction l generalizing s with
  | nil => exact ⟨fun _ => rfl, fun h => absurd h List.not_mem_nil⟩
  | cons e l ih =>
    obtain ⟨he, hl⟩ := List.pairwise_cons.mp hl
    obtain ⟨hout, hin⟩ := ih (s.stopGroup e.1) hl
    rw [List.foldl_cons, List.map_cons, List.mem_cons]
    refine ⟨fun hn => ?_, fun hm g hg hend => ?_⟩
    · rw [hout (fun h => hn (.inr h)), State.stopGroup_find_ne _ _ fun h => hn (.inl h)]
    · rcases eq_or_ne gid e.1 with rfl | hne
      · obtain ⟨t, ht, hstop⟩ := s.stopGroup_find e.1 hg hend
        refine ⟨t, ?_, hstop⟩
        rw [hout, ht]
        intro h
        obtain ⟨a, ha, heq⟩ := List.mem_map.mp h
        exact absurd (he a ha) (by omega)
      · exact hin (hm.resolve_left hne) g (by rw [State.stopGroup_find_ne _ _ hne, hg]) hend

/-- R274: every group of the context that has not ended is stopped. -/
theorem State.stopGroups_find (s : State) (c : Nat) (hs : s.groups.Pairwise (fun a b => a.1 < b.1)) {gid : Nat} {g : Group}
    (hg : KMap.find? s.groups gid = some g) (hc : g.ctx = c) (he : g.ended = false) :
    ∃ t, KMap.find? (s.stopGroups c).groups gid = some t ∧ g.Stopped t := by
  have hmem : (gid, g) ∈ s.groupsOfCtx c := List.mem_filter.mpr ⟨KMap.mem_of_find? hg, by simp [hc]⟩
  rw [State.stopGroups_eq]
  exact (State.foldl_stopGroup _ s (hs.sublist List.filter_sublist) gid).2 (List.mem_map.mpr ⟨_, hmem, rfl⟩) g hg he

/-! ### What stands of contexts -/

/-- Whether a context runs, its fault, and where the record of a fault is written. -/
def Ctx.standing (c : Ctx) : CtxState × Option FaultRec × Nat := (c.st, c.fault, c.frec)

/-- The standing of every context is equal. -/
def SameStanding (s t : State) : Prop := ∀ c, (t.ctx c).standing = (s.ctx c).standing

theorem SameStanding.refl (s : State) : SameStanding s s := fun _ => rfl

theorem SameStanding.trans {s t u : State} (h1 : SameStanding s t) (h2 : SameStanding t u) : SameStanding s u :=
  fun c => (h2 c).trans (h1 c)

theorem SameStanding.of_ctxs {s t : State} (h : t.ctxs = s.ctxs) : SameStanding s t := fun c => by rw [State.ctx, h]; rfl

theorem Reports.standing {s t : State} (h : Reports s t) : SameStanding s t := fun c => by rw [h.ctx]

theorem Ctx.addMeter_standing (c : Ctx) (i n : Nat) : (c.addMeter i n).standing = c.standing := by
  unfold Ctx.addMeter
  dsimp only
  split <;> rfl

section
variable {s t : State} (h : SameStanding s t)
include h

theorem SameStanding.modGrp (gid : Nat) (f : Group → Group) : SameStanding s (t.modGrp gid f) := h.trans (.of_ctxs rfl)

theorem SameStanding.ops (o : KMap Op) : SameStanding s { t with ops := o } := h.trans (.of_ctxs rfl)

/-- A change of a context that keeps its standing. -/
theorem SameStanding.modCtx (c : Nat) (f : Ctx → Ctx) (hf : ∀ x, (f x).standing = x.standing := by exact fun _ => rfl) :
    SameStanding s (t.modCtx c f) := h.trans fun d => by
  rw [State.ctx_modCtx]
  split
  · next hc => rw [hf, hc]
  · rfl

theorem SameStanding.meter (c i n : Nat) : SameStanding s (t.meter c i n) := h.modCtx c _ fun x => x.addMeter_standing _ _

theorem SameStanding.dropHolders (core : Nat) : SameStanding s (t.dropHolders core) := h.trans (.of_ctxs rfl)

end

theorem State.discard_standing (s : State) (gid : Nat) (m : Mask) (counts : Bool) (parks : List (Nat × Nat)) :
    SameStanding s (s.discard gid m counts parks) := by
  unfold State.discard
  dsimp only
  split
  · exact .refl s
  · refine ((((SameStanding.modGrp ?_ _ _).ops _).modGrp _ _).meter _ _ _).dropHolders _
    split
    · exact .of_ctxs rfl
    · exact .refl s

theorem State.stopGroup_standing (s : State) (gid : Nat) : SameStanding s (s.stopGroup gid) :=
  (((SameStanding.refl s).modGrp _ _).trans (State.discard_standing _ _ _ _ _)).modGrp _ _

theorem State.stopGroups_standing (s : State) (c : Nat) : SameStanding s (s.stopGroups c) := by
  rw [State.stopGroups_eq]
  generalize s.groupsOfCtx c = l
  induction l generalizing s with
  | nil => exact .refl s
  | cons e l ih => exact (s.stopGroup_standing e.1).trans (ih _)

/-! ### The record of a fault -/

/-- Notices and reports leave the groups. -/
theorem Reports.groups {s t : State} (h : Reports s t) : t.groups = s.groups := by rw [h.same]

theorem State.faultNotice_groups (s : State) (c : Nat) : (s.faultNotice c).groups = s.groups := by
  unfold State.faultNotice
  split
  · split
    · exact (State.notice_reports ..).groups
    · rfl
  · rfl

theorem State.faultNotice_standing (s : State) (c : Nat) : SameStanding s (s.faultNotice c) := by
  unfold State.faultNotice
  split
  · split
    · exact ((SameStanding.refl s).modCtx _ _).trans (State.notice_reports ..).standing
    · exact .refl s
  · exact .refl s

/-- The write of a record at an address meets a fault (R445). -/
def State.recordFails (s : State) (ia : Nat) (r : FaultRec) : Prop := ∃ cause d, s.iaWrite ia r.bytes = .error (.fault cause d)

/-- The write of a record leaves the groups, and the standing of every context but its own. -/
theorem State.writeFault_others (s : State) (c : Nat) : (s.writeFault c).groups = s.groups ∧
    ∀ d, d ≠ c → ((s.writeFault c).ctx d).standing = (s.ctx d).standing := by
  unfold State.writeFault
  dsimp only
  split
  · exact ⟨rfl, fun _ _ => rfl⟩
  · next r hfault =>
    split
    · exact ⟨s.faultNotice_groups c, fun d _ => s.faultNotice_standing c d⟩
    · split
      · next s1 hs =>
        have hr := (State.iaWrite_clears hs).reports
        exact ⟨(State.faultNotice_groups _ c).trans hr.groups, fun d _ =>
          ((hr.standing.modCtx _ _).trans (State.faultNotice_standing _ c)) d⟩
      · next page code level _ =>
        have hr := (State.iaTouch_clears s (s.ctx c).frec r.bytes.length).reports.trans (State.pageNotice_reports _ noCore c page code level)
        exact ⟨hr.groups, fun d _ => (hr.standing.modCtx _ _) d⟩
      · next cause _ _ =>
        have hr := s.logRaw_reports 1 noCore16 c cause
        refine ⟨(State.faultNotice_groups _ c).trans hr.groups, fun d hd => (State.faultNotice_standing _ c d).trans ?_⟩
        rw [State.ctx_modCtx, if_neg (Ne.symm hd), hr.ctx]
      · exact ⟨s.faultNotice_groups c, fun d _ => s.faultNotice_standing c d⟩

section
variable {s : State} {c : Nat} {r : FaultRec} (hr : (s.ctx c).fault = some r)
include hr

/-- A record that no fault of its write hits stands as it is. -/
theorem State.writeFault_stands (h : (s.ctx c).frec = 0 ∨ ¬ s.recordFails (s.ctx c).frec r) :
    ((s.writeFault c).ctx c).standing = (s.ctx c).standing := by
  unfold State.writeFault
  simp only [hr]
  split
  · exact s.faultNotice_standing c c
  · next h0 =>
    split
    · next s1 hs =>
      exact (((State.iaWrite_clears hs).reports.standing.modCtx _ _).trans (State.faultNotice_standing _ c)) c
    · next page code level _ =>
      have hrep := (State.iaTouch_clears s (s.ctx c).frec r.bytes.length).reports.trans (State.pageNotice_reports _ noCore c page code level)
      exact (hrep.standing.modCtx _ _) c
    · next cause d hf => exact absurd ⟨cause, d, hf⟩ (h.resolve_left h0)
    · exact s.faultNotice_standing c c

/-- A fault of the write is one more fault of the context. -/
theorem State.writeFault_counts (h0 : (s.ctx c).frec ≠ 0) (h : s.recordFails (s.ctx c).frec r) :
    ((s.writeFault c).ctx c).standing = ((s.ctx c).st, some r.more, (s.ctx c).frec) := by
  obtain ⟨cause, d, hf⟩ := h
  unfold State.writeFault
  simp only [hr, h0, if_false, hf]
  rw [State.faultNotice_standing, State.ctx_modCtx_self, (s.logRaw_reports ..).ctx]
  rfl

end

/-! ### The fault of a context -/

section
variable (s : State) (c : Nat) (r : FaultRec)

/-- The state with a fault of a context logged (R385). -/
def State.faultLogged : State := s.logRaw 1 (if r.core = noCore then noCore16 else r.core) c r.cause

theorem State.faultLogged_reports : Reports s (s.faultLogged c r) := s.logRaw_reports ..

/-- The record of the first fault of a context (R385). -/
def State.firstRecord : FaultRec :=
  { r with sealed := (s.faultLogged c r).sealedTeams c, detail := r.detail + 2 ^ 32 * (s.ctx c).unknown }

/-- The state with an ACTIVE context stopped, its groups and its record, which is yet to be written. -/
def State.faultStopped : State := ((s.faultLogged c r).stopGroups c).modCtx c (fun x =>
  { x with st := .stopped, fault := some (s.firstRecord c r), unknown := 0, faultDue := true })

/-- The state with one more fault of a stopped context counted. -/
def State.faultCounted : State := (s.faultLogged c r).modCtx c (fun x => { x with fault := x.fault.map FaultRec.more })

theorem State.contextFault_active (h : (s.ctx c).st = .active) : s.contextFault c r = (s.faultStopped c r).writeFault c := by
  unfold State.contextFault
  dsimp only
  rw [(s.logRaw_reports ..).ctx, h]
  rfl

theorem State.contextFault_stopped (h : (s.ctx c).st = .stopped) : s.contextFault c r = (s.faultCounted c r).writeFault c := by
  unfold State.contextFault
  dsimp only
  rw [(s.logRaw_reports ..).ctx, h]
  rfl

theorem State.contextFault_idle (ha : (s.ctx c).st ≠ .active) (hs : (s.ctx c).st ≠ .stopped) :
    s.contextFault c r = s.faultLogged c r := by
  unfold State.contextFault
  dsimp only
  rw [(s.logRaw_reports ..).ctx]
  cases h : (s.ctx c).st with
  | active => exact absurd h ha
  | stopped => exact absurd h hs
  | _ => rfl

/-- A fault of one context leaves the standing of every other. -/
theorem State.contextFault_ctx_ne {d : Nat} (hd : d ≠ c) : ((s.contextFault c r).ctx d).standing = (s.ctx d).standing := by
  have hlog := (s.faultLogged_reports c r).standing
  by_cases ha : (s.ctx c).st = .active
  · rw [s.contextFault_active c r ha, ((s.faultStopped c r).writeFault_others c).2 d hd, State.faultStopped, State.ctx_modCtx,
      if_neg (Ne.symm hd), State.stopGroups_standing, hlog]
  · by_cases hs : (s.ctx c).st = .stopped
    · rw [s.contextFault_stopped c r hs, ((s.faultCounted c r).writeFault_others c).2 d hd, State.faultCounted, State.ctx_modCtx,
        if_neg (Ne.symm hd), hlog]
    · rw [s.contextFault_idle c r ha hs, hlog]

theorem State.faultStopped_fault : ((s.faultStopped c r).ctx c).fault = some (s.firstRecord c r) := by
  rw [State.faultStopped, State.ctx_modCtx_self]

theorem State.faultStopped_standing :
    ((s.faultStopped c r).ctx c).standing = (.stopped, some (s.firstRecord c r), (s.ctx c).frec) := by
  have hf : (((s.faultLogged c r).stopGroups c).ctx c).frec = (s.ctx c).frec :=
    congrArg (fun x => x.2.2) (((s.faultLogged_reports c r).standing.trans (State.stopGroups_standing _ c)) c)
  rw [State.faultStopped, State.ctx_modCtx_self, Ctx.standing, hf]

/-- The first fault of a context stops it with its record, where a fault of the write of the record counts as one more. -/
theorem State.contextFault_first (h : (s.ctx c).st = .active) : ∃ f : FaultRec,
    ((s.contextFault c r).ctx c).standing = (.stopped, some f, (s.ctx c).frec) ∧
      (f = s.firstRecord c r ∨ (s.ctx c).frec ≠ 0 ∧ f = (s.firstRecord c r).more) := by
  have hst := s.faultStopped_standing c r
  have hfrec : ((s.faultStopped c r).ctx c).frec = (s.ctx c).frec := congrArg (fun x => x.2.2) hst
  have hrun : ((s.faultStopped c r).ctx c).st = .stopped := congrArg (fun x => x.1) hst
  rw [s.contextFault_active c r h]
  by_cases hw : (s.ctx c).frec = 0 ∨ ¬ (s.faultStopped c r).recordFails (s.ctx c).frec (s.firstRecord c r)
  · exact ⟨_, (State.writeFault_stands (s.faultStopped_fault c r) (by rwa [hfrec])).trans hst, .inl rfl⟩
  · rw [not_or, not_not] at hw
    refine ⟨_, (State.writeFault_counts (s.faultStopped_fault c r) (by rw [hfrec]; exact hw.1) (by rw [hfrec]; exact hw.2)).trans ?_, .inr ⟨hw.1, rfl⟩⟩
    rw [hrun, hfrec]

/-- The groups of a context that has its first fault are stopped. -/
theorem State.contextFault_groups (h : (s.ctx c).st = .active) (hs : s.groups.Pairwise (fun a b => a.1 < b.1)) {gid : Nat} {g : Group}
    (hg : KMap.find? s.groups gid = some g) (hc : g.ctx = c) (he : g.ended = false) : g.Stopped ((s.contextFault c r).grp gid) := by
  have hlog := (s.faultLogged_reports c r).groups
  obtain ⟨t, ht, hstop⟩ := (s.faultLogged c r).stopGroups_find c (by rwa [hlog]) (by rwa [hlog]) hc he
  have hfind : KMap.find? (s.contextFault c r).groups gid = some t := by
    rw [s.contextFault_active c r h, ((s.faultStopped c r).writeFault_others c).1]
    exact ht
  rw [State.grp_of_find _ hfind]
  exact hstop

section
variable {f : FaultRec} (hf : (s.ctx c).fault = some f)
include hf

theorem State.faultCounted_eq : s.faultCounted c r = (s.faultLogged c r).modCtx c (fun x => { x with fault := some f.more }) := by
  have hctx := (s.faultLogged_reports c r).ctx c
  simp only [State.faultCounted, State.modCtx, hctx, hf, Option.map_some]

theorem State.faultCounted_fault : ((s.faultCounted c r).ctx c).fault = some f.more := by
  rw [s.faultCounted_eq c r hf, State.ctx_modCtx_self]

variable (h : (s.ctx c).st = .stopped)
include h

/-- A later fault of a stopped context is counted, and once more where the write of the record faults. -/
theorem State.contextFault_again : ((s.contextFault c r).ctx c).st = .stopped ∧
    ((s.ctx c).frec = 0 ∨ ¬ (s.faultCounted c r).recordFails (s.ctx c).frec f.more →
      ((s.contextFault c r).ctx c).fault = some f.more) ∧
    ((s.ctx c).frec ≠ 0 → (s.faultCounted c r).recordFails (s.ctx c).frec f.more →
      ((s.contextFault c r).ctx c).fault = some f.more.more) := by
  have hctx := (s.faultLogged_reports c r).ctx c
  have hst : ((s.faultCounted c r).ctx c).st = .stopped := by rw [State.faultCounted, State.ctx_modCtx_self, hctx, h]
  have hfrec : ((s.faultCounted c r).ctx c).frec = (s.ctx c).frec := by rw [State.faultCounted, State.ctx_modCtx_self, hctx]
  have hfault := s.faultCounted_fault c r hf
  rw [s.contextFault_stopped c r h]
  have hstands := fun hw => State.writeFault_stands hfault (hfrec.symm ▸ hw)
  have hcounts := fun h0 hw => State.writeFault_counts hfault (hfrec.symm ▸ h0) (hfrec.symm ▸ hw)
  refine ⟨?_, fun hw => (congrArg (fun x => x.2.1) (hstands hw)).trans hfault, fun h0 hw => congrArg (fun x => x.2.1) (hcounts h0 hw)⟩
  by_cases hw : (s.ctx c).frec = 0 ∨ ¬ (s.faultCounted c r).recordFails (s.ctx c).frec f.more
  · exact (congrArg (fun x => x.1) (hstands hw)).trans hst
  · rw [not_or, not_not] at hw
    exact (congrArg (fun x => x.1) (hcounts hw.1 hw.2)).trans hst

end

end

/-! ### What does not run -/

section
variable {i : Instr} {s : State} {n : Need} {k : Issue → Out} {gid lane : Nat} {e : Entry} {f : Info}
  (hf : s.focus = some ⟨gid, lane⟩) (he : (s.grp gid).entryAt lane = some e) (hi : i.info = some f) (hh : s.holds gid e f n = false)
  (hd : s.decodeTrap gid e f n = none)
include hf he hi hh hd

/-- R92: a privileged word of an unprivileged context. -/
theorem stage_of_priv (hp : n.priv = true) (hc : (s.ctx (s.grp gid).ctx).flags.testBit 1 = false) :
    stage i s n k = .next (s.groupFault gid 3 e.pc 0 0) := by
  simp only [stage, hf, hi, he, hh, hd, hp, bitOf_eq_testBit, hc, Bool.not_false, Bool.and_self, Bool.false_eq_true, if_false, if_true,
    State.faultOut]

/-- R99: a word that may not stand in handler mode. -/
theorem stage_of_nested (hp : n.priv = true → (s.ctx (s.grp gid).ctx).flags.testBit 1 = true) (hn : n.nested = true)
    (hm : e.handler = true) : stage i s n k = .next (s.groupFault gid 2 e.pc 0 0) := by
  have hpriv : (n.priv && !bitOf (s.ctx (s.grp gid).ctx).flags 1) = false := by
    rw [bitOf_eq_testBit]
    cases hp' : n.priv with
    | true => rw [hp hp']; rfl
    | false => rfl
  simp only [stage, hf, hi, he, hh, hd, hpriv, hn, hm, Bool.and_self, Bool.false_eq_true, if_false, if_true, State.faultOut]

end

section
variable {s : State} {gid lane : Nat} {e : Entry} {c : Cause} {pos word pc : Nat} (he : (s.grp gid).entryAt lane = some e)
include he

/-- R99: a trap in handler mode. -/
theorem State.trap_nested (hh : e.handler = true) : s.trap gid lane c pos word pc = s.groupFault gid 2 pc 0 0 := by
  simp only [State.trap, he, hh, if_true]

variable (hh : e.handler = false) (hg : (s.grp gid).handler = none)
include hh hg

/-- R101: a trap without a handler clause. -/
theorem State.trap_escalates (hok : (s.touchHandler gid).handlerOk gid = .ok false) : s.trap gid lane c pos word pc =
    ((s.touchHandler gid).livelocked gid c e.mask).groupFault gid 1 pc 0 c.code := by
  simp only [State.trap, he, hh, hg, Option.isSome_none, Bool.false_eq_true, if_false, hok]

theorem State.trap_of_fetch_fault {cause d : Nat} (hok : (s.touchHandler gid).handlerOk gid = .error (.fault cause d)) :
    s.trap gid lane c pos word pc = ((s.touchHandler gid).livelocked gid c e.mask).groupFault gid cause pc d 0 := by
  simp only [State.trap, he, hh, hg, Option.isSome_none, Bool.false_eq_true, if_false, hok]

end

/-- Settles O29: `State.contextFault_first` and `State.contextFault_groups` for the first fault, `State.writeFault_stands` and
`State.writeFault_counts` for a later one, and the lemmas on what does not run. -/
theorem contextFaults : Obligations.ContextFaults := by
  unfold Obligations.ContextFaults
  refine ⟨⟨?first, ?later, ?idle, ?others⟩, ?words, ?traps, ?relaxed⟩
  case first =>
    intro s c r hst hs t
    obtain ⟨f, hstand, hf⟩ := s.contextFault_first c r hst
    rw [Ctx.standing, Prod.mk.injEq, Prod.mk.injEq] at hstand
    obtain ⟨hstop, hfault, -⟩ := hstand
    refine ⟨hstop, ⟨f, hfault, ?_⟩, fun gid g hg hc he => ?_⟩
    · rcases hf with rfl | ⟨h0, rfl⟩
      · exact ⟨rfl, rfl, rfl, rfl, rfl, rfl, .inl rfl⟩
      · exact ⟨rfl, rfl, rfl, rfl, rfl, rfl, .inr ⟨h0, rfl⟩⟩
    · obtain ⟨hlists, hout, hv, hlanes⟩ := s.contextFault_groups c r hst hs hg hc he
      exact ⟨hlists, hout, hv, hlanes⟩
  case later =>
    intro s c r f hst hf more s1
    have hs1 : s.faultCounted c r = s1 := s.faultCounted_eq c r hf
    obtain ⟨hstop, hstands, hcounts⟩ := s.contextFault_again c r hf hst
    rw [hs1] at hstands hcounts
    exact ⟨hstop, fun hw => hstands (hw.imp_right fun hno ⟨cause, d, hf⟩ => hno cause d hf), hcounts⟩
  case idle => exact fun s c r ha hs => s.contextFault_idle c r ha hs
  case others =>
    intro s c d r hd
    have h := s.contextFault_ctx_ne c r hd
    exact ⟨congrArg (fun x => x.1) h, congrArg (fun x => x.2.1) h⟩
  case words =>
    exact fun i s n k gid lane e f hf he hi hh hd => ⟨stage_of_priv hf he hi hh hd, stage_of_nested hf he hi hh hd⟩
  case traps =>
    exact fun s gid lane e c pos word pc he => ⟨State.trap_nested he, fun hh hg =>
      ⟨State.trap_escalates he hh hg, fun cause d hok => State.trap_of_fetch_fault he hh hg hok⟩⟩
  case relaxed => exact fun s gid c m hc => if_neg hc

end Sys2Proof.Machine
end

section
/-! One step (R71, R75, R81, R94, R282 to R284): what the turn of a group runs, the second entry of a turn for two, what is noted
after an issue, and the step of a placed word. -/

namespace Sys2Proof.Machine

/-! ### The entry that issues -/

section
variable {s : State} {gid lane : Nat} {e : Entry} (hl : lowLane e.mask = some lane)
include hl

/-- R71: an entry at a header starts its clause. -/
theorem State.issueEntry_start (hc : e.clause.isNone = true) : s.issueEntry gid e = exec (.clauseStart gid lane) s := by
  simp only [State.issueEntry, hl, hc, if_true]

variable (hc : e.clause.isSome = true)
include hc

/-- An entry in a clause runs the meaning of its word. -/
theorem State.issueEntry_instr {i : Instr} (hi : decodeWord e.word = .instr i) :
    s.issueEntry gid e = exec i { s with focus := some ⟨gid, lane⟩ } := by
  have hn : e.clause.isNone = false := by rw [← Option.not_isSome, hc]; rfl
  simp only [State.issueEntry, hl, hn, Bool.false_eq_true, if_false, hi]

/-- R94: a word that does not decode traps. -/
theorem State.issueEntry_bad {c : Cause} {pos : Nat} (hb : decodeWord e.word = .bad c pos) :
    s.issueEntry gid e = .next ((s.trap gid lane c pos e.word e.pc).settle gid) := by
  have hn : e.clause.isNone = false := by rw [← Option.not_isSome, hc]; rfl
  simp only [State.issueEntry, hl, hn, Bool.false_eq_true, if_false, hb, State.trapOut]

end

/-- The turn of a group that may issue, with its reservation and in the rotation: the entry that ranks first issues. -/
theorem State.turn_issues {s : State} {gid : Nat} {e : Entry} (hm : s.mayIssue gid = true)
    (hp : s.pipeHeld (s.coreOf gid) (s.grp gid).quarter = true) (ht : s.inTurn gid = true) (hpick : s.pick gid = some e) :
    s.turn gid = s.noted gid e (s.issueEntry gid e) := by
  simp only [State.turn, hm, Bool.not_true, Bool.false_eq_true, if_false, hpick, hp, ht, if_true, State.issueNow]

section
variable {s : State} {rest : List Turn}

theorem step_issue {gid : Nat} (h : s.agenda = .issue gid :: rest) : step s = tickOut (State.turn { s with agenda := rest } gid) := by
  rw [step, h]
  rfl

theorem step_dual {gid : Nat} (h : s.agenda = .dual gid :: rest) : step s = tickOut (State.dualTurn { s with agenda := rest } gid) := by
  rw [step, h]
  rfl

theorem step_event {i : Instr} (h : s.agenda = .event i :: rest) : step s = tickOut (exec i { s with agenda := rest }) := by
  rw [step, h]
  rfl

theorem step_idle {n : Nat} (h : s.agenda = .idle n :: rest) :
    step s = .next { s with agenda := rest, cycle := s.cycle + n + 1, focus := none } := by
  rw [step, h]
  rfl

theorem step_schedule (h : s.agenda = []) : step s = tickOut s.schedule := by rw [step, h]

end

/-! ### Two entries of a group -/

theorem mem_quads (m : Mask) (q : Nat) : q ∈ quads m ↔ ∃ l, l < 64 ∧ m.getLsbD l = true ∧ l / 4 = q := by
  simp only [quads, List.mem_filter, List.mem_range, List.any_eq_true, mem_lanesOf, beq_iff_eq]
  constructor
  · rintro ⟨-, l, hl, hq⟩
    exact ⟨l, BitVec.lt_of_getLsbD hl, hl, hq⟩
  · rintro ⟨l, hlt, hl, hq⟩
    exact ⟨by omega, l, hl, hq⟩

/-- Two sets of lanes share no quad (R283). -/
def quadsApart (m n : Mask) : Prop :=
  ∀ l k, l < 64 → k < 64 → m.getLsbD l = true → n.getLsbD k = true → l / 4 ≠ k / 4

theorem quadsApart_iff (m n : Mask) : (quads n).all (fun k => !(quads m).contains k) = true ↔ quadsApart m n := by
  simp only [List.all_eq_true, Bool.not_eq_true', List.contains_eq_mem, decide_eq_false_iff_not, mem_quads]
  constructor
  · intro h l k hl hk hml hnk heq
    exact h _ ⟨k, hk, hnk, rfl⟩ ⟨l, hl, hml, heq⟩
  · rintro h q ⟨k, hk, hnk, rfl⟩ ⟨l, hl, hml, heq⟩
    exact h l k hl hk hml hnk heq

theorem Entry.outranks_asymm {a b : Entry} (h : a.outranks b = true) : b.outranks a = false := by
  simp only [Entry.outranks, Bool.or_eq_true, Bool.and_eq_true, decide_eq_true_eq, beq_iff_eq, Bool.or_eq_false_iff,
    Bool.and_eq_false_iff, decide_eq_false_iff_not, beq_eq_false_iff_ne] at h ⊢
  omega

theorem Entry.outranks_irrefl (a : Entry) : a.outranks a = false := by
  simp [Entry.outranks]

/-- One look at an entry in the search for the first (R282). -/
def better (p : Entry → Bool) (best : Option Entry) (e : Entry) : Option Entry :=
  if p e then
    match best with
    | none => some e
    | some b => if e.outranks b then some e else best
  else best

theorem Group.first_eq (g : Group) (p : Entry → Bool) : g.first p = g.entries.foldl (better p) none := rfl

/-- What is found is among the entries, and satisfies the condition. -/
theorem better_mem {p : Entry → Bool} {best : Option Entry} {e x : Entry} (h : better p best e = some x) :
    best = some x ∨ (x = e ∧ p e = true) := by
  unfold better at h
  split at h
  · next hp =>
    split at h
    · exact .inr ⟨(Option.some.inj h).symm, hp⟩
    · split at h
      · exact .inr ⟨(Option.some.inj h).symm, hp⟩
      · exact .inl h
  · exact .inl h

theorem Group.first_mem {g : Group} {p : Entry → Bool} {x : Entry} (h : g.first p = some x) : x ∈ g.entries ∧ p x = true := by
  have loop : ∀ (l : List Entry) (best : Option Entry), l.foldl (better p) best = some x → best = some x ∨ (x ∈ l ∧ p x = true) := by
    intro l
    induction l with
    | nil => exact fun best h => .inl h
    | cons e l ih =>
      intro best h
      rcases ih _ h with h | ⟨hm, hp⟩
      · rcases better_mem h with h | ⟨rfl, hp⟩
        · exact .inl h
        · exact .inr ⟨List.mem_cons_self, hp⟩
      · exact .inr ⟨List.mem_cons_of_mem e hm, hp⟩
  exact (loop _ none h).resolve_left (by simp)

/-- The entry that outranks every other one is found. -/
theorem Group.first_of_top {g : Group} {p : Entry → Bool} {x : Entry} (hx : x ∈ g.entries) (hp : p x = true)
    (htop : ∀ y ∈ g.entries, p y = true → y ≠ x → x.outranks y = true) : g.first p = some x := by
  have keep : ∀ e ∈ g.entries, better p (some x) e = some x := by
    intro e he
    unfold better
    by_cases hpe : p e = true
    · have hout : e.outranks x = false := by
        rcases eq_or_ne e x with rfl | hne
        · exact e.outranks_irrefl
        · exact Entry.outranks_asymm (htop e he hpe hne)
      simp only [hpe, hout, if_true, Bool.false_eq_true, if_false]
    · simp only [hpe, Bool.false_eq_true, if_false]
  have take : ∀ best : Option Entry, (∀ b, best = some b → b ∈ g.entries ∧ p b = true) → better p best x = some x := by
    intro best hb
    unfold better
    cases best with
    | none => simp only [hp, if_true]
    | some b =>
      rcases eq_or_ne b x with rfl | hne
      · simp only [hp, if_true, Entry.outranks_irrefl, Bool.false_eq_true, if_false]
      · simp only [hp, if_true, htop b (hb b rfl).1 (hb b rfl).2 hne]
  have loop : ∀ (l : List Entry) (best : Option Entry), (∀ e ∈ l, e ∈ g.entries) →
      (∀ b, best = some b → b ∈ g.entries ∧ p b = true) → (x ∈ l ∨ best = some x) → l.foldl (better p) best = some x := by
    intro l
    induction l with
    | nil => exact fun best _ _ h => h.resolve_left List.not_mem_nil
    | cons e l ih =>
      intro best hl hb h
      refine ih _ (fun y hy => hl y (List.mem_cons_of_mem e hy)) (fun b hbe => ?_) ?_
      · rcases better_mem hbe with h | ⟨rfl, hpe⟩
        · exact hb b h
        · exact ⟨hl b List.mem_cons_self, hpe⟩
      · rcases h with h | rfl
        · rcases List.mem_cons.mp h with rfl | h
          · exact .inr (take best hb)
          · exact .inl h
        · exact .inr (keep e (hl e List.mem_cons_self))
  exact loop _ none (fun e he => he) (by simp) (.inl hx)

/-- An entry that may issue beside e: it can go on, and shares no quad with it. -/
structure State.apart (s : State) (gid : Nat) (e x : Entry) : Prop where
  mem : x ∈ (s.grp gid).entries
  go : s.canGo gid x = true
  lanes : e.mask ≠ 0
  quads : quadsApart e.mask x.mask

/-- An entry that may issue with another in one turn (R75, R81, R283). -/
structure State.able (s : State) (gid : Nat) (y : Entry) : Prop where
  dual : s.dualOk gid y = true
  plain : y.handler = false
  pipe : y.clause.isSome = true → ∀ i, decodeWord y.word = .instr i → pipeCycles i = 1

theorem Entry.onePipe_iff (y : Entry) :
    y.onePipe = true ↔ (y.clause.isSome = true → ∀ i, decodeWord y.word = .instr i → pipeCycles i = 1) := by
  unfold Entry.onePipe
  cases hc : y.clause with
  | none => simp
  | some c =>
    cases hd : decodeWord y.word with
    | instr i => simp
    | bad c p => simp
    | short => simp

section
variable {s : State} {gid : Nat} {e x : Entry}

theorem State.able_and_iff : (s.dualOk gid e && s.dualOk gid x && !e.handler && !x.handler && e.onePipe && x.onePipe) = true ↔
    s.able gid e ∧ s.able gid x := by
  simp only [Bool.and_eq_true, Bool.not_eq_true', Entry.onePipe_iff]
  constructor
  · rintro ⟨⟨⟨⟨⟨hde, hdx⟩, hhe⟩, hhx⟩, hpe⟩, hpx⟩
    exact ⟨⟨hde, hhe, hpe⟩, ⟨hdx, hhx, hpx⟩⟩
  · rintro ⟨⟨hde, hhe, hpe⟩, ⟨hdx, hhx, hpx⟩⟩
    exact ⟨⟨⟨⟨⟨hde, hdx⟩, hhe⟩, hhx⟩, hpe⟩, hpx⟩

/-- The condition under which the second entry is looked for. -/
theorem State.beside_iff (h0 : e.mask ≠ 0) : (x ∈ (s.grp gid).entries ∧ (s.canGo gid x &&
      !x.mask.getLsbD ((lowLane e.mask).getD 64) && (quads x.mask).all (fun k => !(quads e.mask).contains k)) = true) ↔
    s.apart gid e x := by
  simp only [Bool.and_eq_true, quadsApart_iff, Bool.not_eq_true']
  constructor
  · rintro ⟨hm, ⟨hg, -⟩, hq⟩
    exact ⟨hm, hg, h0, hq⟩
  · rintro ⟨hm, hg, -, hq⟩
    refine ⟨hm, ⟨hg, ?_⟩, hq⟩
    obtain ⟨l, rest, hl⟩ := List.exists_cons_of_ne_nil (lanesOf_ne_nil h0)
    have hlow : lowLane e.mask = some l := by rw [lowLane, hl, List.head?_cons]
    have hlm : e.mask.getLsbD l = true := (mem_lanesOf _ _).mp (hl ▸ List.mem_cons_self)
    rw [hlow, Option.getD_some, Bool.eq_false_iff]
    exact fun hx => hq l l (BitVec.lt_of_getLsbD hlm) (BitVec.lt_of_getLsbD hlm) hlm hx rfl

/-- No second entry where none beside e may issue with it. -/
theorem State.second_none (h0 : e.mask ≠ 0) (h : ∀ x, s.apart gid e x → ¬ (s.able gid e ∧ s.able gid x)) :
    s.second gid e = none := by
  unfold State.second
  dsimp only
  split
  · rfl
  · next x hx => exact if_neg (mt State.able_and_iff.mp (h x ((State.beside_iff h0).mp (Group.first_mem hx))))

/-- The second entry is the one beside e that ranks first, where both may issue in one turn. -/
theorem State.second_some (hx : s.apart gid e x) (htop : ∀ y, s.apart gid e y → y ≠ x → x.outranks y = true)
    (he : s.able gid e) (ha : s.able gid x) : s.second gid e = some x := by
  obtain ⟨hm, hp⟩ := (State.beside_iff hx.lanes).mpr hx
  have hfirst := Group.first_of_top hm hp fun y hy hpy hne => htop y ((State.beside_iff hx.lanes).mp ⟨hy, hpy⟩) hne
  unfold State.second
  simp only [hfirst, if_pos (State.able_and_iff.mpr ⟨he, ha⟩)]

variable {t : State} (hm : s.mayIssue gid = true) (hp : s.pipeHeld (s.coreOf gid) (s.grp gid).quarter = true)
  (hpick : s.pick gid = some e) (ht : s.turn gid = .next t)
include hm hp hpick ht

theorem State.dualTurn_waited (hw : t.moved gid e = false) : s.dualTurn gid = .next t := by
  simp only [State.dualTurn, ht, hm, hp, Bool.not_true, Bool.or_self, Bool.false_eq_true, if_false, hpick, hw, Bool.false_and]
  split <;> rfl

theorem State.dualTurn_alone (hn : s.second gid e = none) : s.dualTurn gid = .next t := by
  simp only [State.dualTurn, ht, hm, hp, Bool.not_true, Bool.or_self, Bool.false_eq_true, if_false, hpick, hn]

theorem State.dualTurn_both (hs : s.second gid e = some x) (hw : t.moved gid e = true) (hx : x ∈ (t.grp gid).entries) :
    s.dualTurn gid = t.noted gid x (t.issueEntry gid x) := by
  have hany : (t.grp gid).entries.any (fun y => y == x) = true := List.any_eq_true.mpr ⟨x, hx, beq_self_eq_true x⟩
  simp only [State.dualTurn, ht, hm, hp, Bool.not_true, Bool.or_self, Bool.false_eq_true, if_false, hpick, hs, hw, hany,
    Bool.and_self, if_true, State.issueNow]

end

/-! ### What is noted -/

/-- R284, R358, R420: with no suspect window, an issue notes the pipe's cycle, the rotation and that its context is not wholly stalled. -/
theorem State.noted_next {s t : State} {gid : Nat} {e : Entry} (h : s.suspects gid e = false) : s.noted gid e (.next t) =
    .next (if t.moved gid e then t.markIssue (s.coreOf gid) (s.grp gid).quarter (s.grp gid).ctx gid else t) := by
  simp only [State.noted, h, Bool.false_eq_true, if_false]
  split <;> rfl

/-! ### A placed word -/

/-- The entry of a placed word. -/
def placedEntry (w : Nat) : Entry := { pc := 8, prio := 0, mask := allLanes, clause := some ⟨0, plainHeader 1, [w % 2 ^ 64 % 2 ^ 64]⟩ }

/-- The machine after reset with a placed word, in the turn of its group. -/
def placedState (w : Nat) : State := { State.reset.withFetchWord 64 w with agenda := [] }

theorem placedState_agenda (w : Nat) : (State.reset.withFetchWord 64 w).agenda = [.issue 0] := rfl

theorem placedState_mayIssue (w : Nat) : (placedState w).mayIssue 0 = true := rfl

theorem placedState_pipeHeld (w : Nat) : (placedState w).pipeHeld ((placedState w).coreOf 0) ((placedState w).grp 0).quarter = true := rfl

theorem placedState_inTurn (w : Nat) : (placedState w).inTurn 0 = true := rfl

theorem placedState_pick (w : Nat) : (placedState w).pick 0 = some (placedEntry w) := rfl

theorem placedState_entryAt (w : Nat) : ((placedState w).grp 0).entryAt 0 = some (placedEntry w) :=
  List.find?_cons_of_pos (p := fun e : Entry => e.mask.getLsbD 0) (show allLanes.getLsbD 0 = true by decide)

theorem lowLane_allLanes : lowLane allLanes = some 0 := by decide

theorem placedEntry_word {w : Nat} (h : w < 2 ^ 64) : (placedEntry w).word = w := by
  simp only [Entry.word, placedEntry, Nat.mod_eq_of_lt h]
  rfl

/-- Settles O3: the turns by their kind, `State.turn_issues` and `State.issueEntry_…` for the first entry, `State.second_some` and
`State.second_none` for the second, and `placedState` for a placed word. -/
theorem stepRunsDecoded : Obligations.StepRunsDecoded := by
  unfold Obligations.StepRunsDecoded
  refine ⟨?first, ?two, ?noted, fun s i rest h => step_event h, fun s n rest h => step_idle h, fun s h => step_schedule h, ?placed⟩
  case first =>
    intro s gid rest e lane h s1 hm hp ht hpick hl
    rw [step_issue h, show State.turn { s with agenda := rest } gid = _ from State.turn_issues hm hp ht hpick]
    exact ⟨fun hc => by rw [State.issueEntry_start hl hc], fun hc i hi => by rw [State.issueEntry_instr hl hc hi],
      fun hc c pos hb => by rw [State.issueEntry_bad hl hc hb]⟩
  case two =>
    intro s t gid rest e s1
    refine ⟨fun h => step_issue h, fun h hm hp hpick ht => ?_⟩
    rw [step_dual h]
    intro apart able
    have hapart : ∀ x, apart x ↔ s1.apart gid e x := fun x =>
      ⟨fun ⟨hm, hg, h0, hq⟩ => ⟨hm, hg, h0, hq⟩, fun ⟨hm, hg, h0, hq⟩ => ⟨hm, hg, h0, hq⟩⟩
    have hable : ∀ x, able x ↔ s1.able gid x := fun x =>
      ⟨fun ⟨hd, hh, hc⟩ => ⟨hd, hh, hc⟩, fun ⟨hd, hh, hc⟩ => ⟨hd, hh, hc⟩⟩
    simp only [hapart, hable]
    refine ⟨fun hw => congrArg tickOut (State.dualTurn_waited hm hp hpick ht hw),
      fun hno h0 => congrArg tickOut (State.dualTurn_alone hm hp hpick ht (State.second_none h0 hno)),
      fun x lane hw hx htop he ha hmem hl => ?_⟩
    rw [show State.dualTurn { s with agenda := rest } gid = _ from
      State.dualTurn_both hm hp hpick ht (State.second_some hx htop he ha) hw hmem]
    exact ⟨fun hc => by rw [State.issueEntry_start hl hc], fun hc i j _ hi => by rw [State.issueEntry_instr hl hc hi]⟩
  case noted =>
    intro s t gid e hs c q
    refine ⟨_, State.noted_next hs, ?_⟩
    split
    · refine ⟨rfl, fun k hk => by rw [State.markIssue, State.core_modCore, if_neg (Ne.symm hk)], .inr ?_⟩
      rw [State.markIssue, State.core_modCore_self]
      exact ⟨KMap.find?_insert_self .., rfl, fun p hp => KMap.find?_insert_ne _ _ (Ne.symm hp)⟩
    · exact ⟨rfl, fun _ _ => rfl, .inl rfl⟩
  case placed =>
    intro w i hw hi
    refine ⟨placedState w, placedEntry w, ?_, placedState_entryAt w, placedEntry_word hw, rfl⟩
    rw [step_issue (placedState_agenda w)]
    have hturn := State.turn_issues (placedState_mayIssue w) (placedState_pipeHeld w) (placedState_inTurn w) (placedState_pick w)
    rw [State.issueEntry_instr lowLane_allLanes rfl (by rw [placedEntry_word hw, hi])] at hturn
    exact congrArg tickOut hturn

end Sys2Proof.Machine
end

section
/-! The engine commands that are accepted (R226 to R228, R256): what an INSTQ query writes, and what refutes the statement of
CommandsAccepted as it is quantified. -/

namespace Sys2Proof.Machine

/-! ### A command word with a block -/

/-- The word of a command whose block is read and passes the shared checks goes on with its lane, address and block. -/
theorem blockWord_of_commands {i : Instr} {s : State} {x : Issue} {p : Operand} {a b : Nat}
    (hx : issueOf i s { memaff := true, point := true, nested := true } = some x) (hc : x.commands p a b)
    (hv : x.s.makeVisible x.gid = x.s) (hb : x.s.blockOk x.tid b = true) (k : Issue → Nat → Nat → Nat → Out) :
    ∃ l, blockWord i s p none k = k x l a b := by
  obtain ⟨hskip, ⟨l, hl, hlow, rfl⟩, halign, hspace, hext, hwin, hfifo, -, sp, hsp, howned, rfl⟩ := hc
  have hpass : x.pass ≠ 0 := by rintro h; simp [h] at hl
  have hfree : sp.locs.any (fun p => x.s.owned p.key) = false := by simpa using howned
  have hreleased : x.s.released x.gid 3 = true := by
    have hcore : x.s.fifo (x.s.coreOf x.gid) = [] := hfifo
    simp [State.released, hcore]
  refine ⟨l, ?_⟩
  rw [blockWord, engineWord, stage_of_issueOf hx, if_neg hpass, hskip, if_neg (by decide), Issue.block, lowLane_of_lowest hl hlow]
  dsimp only
  rw [if_neg (by omega), if_neg (by simpa using Nat.div_eq_of_lt hspace), if_neg (by omega), Issue.forEngine, Issue.release, hv,
    if_pos hreleased, Issue.readBlock]
  simp only [hwin, Option.isSome_none, Bool.false_eq_true, if_false, hsp, hfree, hb, if_true]

/-- The number that a query writes over the first 32 bytes of its block: what the context has installed, the free bytes of the flash, the
greatest count among the blocks of the layer's image, and the rated count. -/
def queryValue (installed free wear : Nat) : Nat := installed + free * 2 ^ 64 + wear * 2 ^ 128 + Config.peLimit * 2 ^ 192

/-- A query that is accepted with a number. -/
def Issue.answerQuery (x : Issue) (a b v : Nat) : Out :=
  x.acceptAtOnce (x.cmd .query a b) (x.s.wrN x.ctx ⟨memKey (spTeam x.tid) a, 0, none⟩ 32 v)

/-- A query of a layer that its tables describe. -/
theorem execInstqQuery_of_commands {f : FE} {s : State} {x : Issue} {a b : Nat} {d : LayerDesc}
    (hx : issueOf (.instqQuery f) s { memaff := true, point := true, nested := true } = some x) (hc : x.commands f.p a b)
    (hv : x.s.makeVisible x.gid = x.s) (hb : x.s.blockOk x.tid b = true) (hrsv : bitsOf b 383 272 = 0)
    (hm : x.phase.record.mctx ≠ 0xFFFF)
    (hd : (x.touchLayer (iqLayer b)).s.layerDesc x.ctx x.phase.record.mctx (iqLayer b) = .ok (some d)) :
    let y := x.touchLayer (iqLayer b)
    exec (.instqQuery f) s =
      y.answerQuery a b (queryValue (y.s.ctx y.ctx).installed y.s.freeFlash (y.s.imageWear d.flash d.size)) := by
  rw [exec_instqQuery, execInstqQuery]
  obtain ⟨l, hl⟩ := blockWord_of_commands hx hc hv hb (fun x _ a b =>
    x.instqLayer b (fun x _ _ d =>
      let v := (x.s.ctx x.ctx).installed + x.s.freeFlash * 2 ^ 64 + x.s.imageWear d.flash d.size * 2 ^ 128 +
        Config.peLimit * 2 ^ 192
      x.acceptAtOnce (x.cmd .query a b) (x.s.wrN x.ctx ⟨memKey (spTeam x.tid) a, 0, none⟩ 32 v)))
  rw [hl, Issue.instqLayer, if_neg (by simp [hrsv, hm])]
  simp only [hd]
  rfl

/-! ### A query of a layer whose block has been programmed 2^64 times -/

/-- INSTQ with its block's address in v2. -/
def wornQuery : FE := ⟨0, 0, ⟨.v, 2⟩, .zero, 0, .always, false⟩

/-- Its block: layer 0, and no barrier. -/
def wornBlock : Nat := noBarrier * 2 ^ 384

/-- A group of one entry, at a word of its clause, whose v2 holds 0x1000 in lane 0. -/
def wornGroup : Group where
  regs := 32
  active := true
  outside := 0
  v := [(2 * 64, 0x1000)]
  entries := [{ pc := 8, prio := 0, mask := allLanes, clause := some ⟨0, plainHeader 1, [0xE70040800000007C]⟩ }]

/-- The machine right after reset, with that group, its block in the scratchpad, and a model context of one layer in host memory: its image
is one byte at flash address 0, in a block that has been programmed 2^64 times. -/
def wornState : State :=
  { State.reset with
    focus := some ⟨0, 0⟩
    groups := [(0, wornGroup)]
    teams := [(0, { extent := 65536 })]
    phases := [(0, { record := { mctx := 0 } })]
    ctxs := [(0, { st := .active, models := 15 * 2 ^ 48 + 0x30000, nmodels := 1 })]
    stk := { State.reset.stk with wear := [(0, 2 ^ 64)] }
    mem := ((Memory.setN [] (memKey (spHost 0) 0x30000) 16 (1 + (15 * 2 ^ 48 + 0x30100) * 2 ^ 64)).setN
      (memKey (spHost 0) 0x30100) 32 (2 ^ 192)).setN (memKey (spTeam 0) 0x1000) 64 wornBlock }

/-- The layer that the tables of that machine describe. -/
def wornLayer : LayerDesc := ⟨15 * 2 ^ 48 + 0x30100, 0, 0, 0, 1, 0⟩

/-- The last word that a query answered with wear 2^64 + n leaves in its block is one more than the rated count. -/
def Issue.carries (y : Issue) (n : Nat) : Bool :=
  match y.answerQuery 0x1000 wornBlock (queryValue 0 y.s.freeFlash (n + 2 ^ 64)) with
  | .next t => t.mem.getN (memKey (spTeam y.tid) 0x1000 + 24) 8 == Config.peLimit + 1
  | _ => false

/-- The word reads its block at 0x1000. -/
def Issue.readsWorn (x : Issue) : Bool :=
  !x.g.skip.contains x.pc && x.pass.getLsbD 0 && x.src wornQuery.p 32 0 == 0x1000 && decide (0x1000 + 64 ≤ x.team.extent) &&
    (x.phase.record.window 0x1000).isNone && (x.s.fifo x.team.core).isEmpty && x.g.buffer.isEmpty &&
    (match x.s.spadSpan x.tid .load 0x1000 64 with
     | .ok sp => sp.locs.all (fun p => !x.s.owned p.key) && wornBlock == x.s.readOwn x.gid sp.locs
     | .error _ => false)

/-- The word's block is good, and its layer is described. -/
def Issue.findsWorn (x : Issue) : Bool :=
  decide (x.s.makeVisible x.gid = x.s) && x.s.blockOk x.tid wornBlock && decide (x.phase.record.mctx = 0) && x.g.calm &&
    decide ((x.touchLayer 0).s.layerDesc x.ctx 0 0 = .ok (some wornLayer)) &&
    !(x.touchLayer 0).s.spoiled (memKey (spTeam x.tid) (0x1000 + 56)) && decide ((x.touchLayer 0).ctx = x.ctx) &&
    decide ((x.touchLayer 0).tid = x.tid)

/-- What the word answers is read in a state where nothing is installed and block 0 of the flash is worn. -/
def Issue.answersWorn (y : Issue) : Bool :=
  (y.s.ctx y.ctx).installed == 0 && y.s.flashBlock 0 == 0 && KMap.getD y.s.stk.wear 0 0 == 2 ^ 64 && (List.range 6).all y.carries

/-- The query issues in `wornState`, and all of this holds of it. -/
theorem wornState_issues : (issueOf (.instqQuery wornQuery) wornState { memaff := true, point := true, nested := true }).any
    (fun x => x.readsWorn && x.findsWorn && (x.touchLayer 0).answersWorn) = true := by decide +kernel

theorem Issue.commands_of_readsWorn {x : Issue} (h : x.readsWorn = true) : x.commands wornQuery.p 0x1000 wornBlock := by
  simp only [Issue.readsWorn, Bool.and_eq_true, Bool.not_eq_true', decide_eq_true_eq, beq_iff_eq, List.isEmpty_iff,
    Option.isNone_iff_eq_none] at h
  obtain ⟨⟨⟨⟨⟨⟨⟨hskip, hlane⟩, hsrc⟩, hext⟩, hwin⟩, hfifo⟩, hbuf⟩, hread⟩ := h
  refine ⟨hskip, ⟨0, hlane, by simp, hsrc.symm⟩, by decide, by decide, hext, hwin, hfifo, hbuf, ?_⟩
  cases hsp : x.s.spadSpan x.tid .load 0x1000 64 with
  | error m => simp [hsp] at hread
  | ok sp =>
    simp only [hsp, Bool.and_eq_true, List.all_eq_true, Bool.not_eq_true', beq_iff_eq] at hread
    exact ⟨sp, rfl, hread.1, hread.2⟩

theorem initialWear_lt (b : Nat) : Config.initialWear b < 6 := by
  rw [Config.initialWear]
  omega

/-- The greatest count of an image of one byte at flash address 0. -/
theorem State.imageWear_byte {s : State} {n : Nat} (hmap : s.flashBlock 0 = 0) (hwear : KMap.getD s.stk.wear 0 0 = n) :
    s.imageWear wornLayer.flash wornLayer.size = Config.initialWear 0 + n := by
  have hblocks : imageBlocks wornLayer.flash wornLayer.size = [0] := by decide
  simp [State.imageWear, hblocks, hmap, State.wearOf, hwear]

/-- An answer whose wear carries does not leave the rated count in the last word. -/
theorem Issue.not_peLimit_of_carries {y : Issue} {n : Nat} (h : y.carries n = true) {t : State}
    (ht : y.answerQuery 0x1000 wornBlock (queryValue 0 y.s.freeFlash (n + 2 ^ 64)) = .next t) :
    t.mem.getN (memKey (spTeam y.tid) 0x1000 + 24) 8 ≠ Config.peLimit := by
  rw [Issue.carries, ht] at h
  rw [beq_iff_eq.mp h]
  decide

/-- Refutes O46: its clause on a query says that the word at 24 of the block reads PELIMIT, and bounds what the context has installed below
2^64, but not the program/erase counts. The model writes the four values as one number, so a count of 2^64 or more carries into the word
of PELIMIT: in `wornState` the query leaves PELIMIT + 1 there. -/
theorem not_commandsAccepted : ¬ Obligations.CommandsAccepted := by
  unfold Obligations.CommandsAccepted
  rintro ⟨-, h⟩
  obtain ⟨x, hx, hworn⟩ := Option.any_eq_true _ _ |>.mp wornState_issues
  simp only [Bool.and_eq_true] at hworn
  obtain ⟨⟨hreads, hfinds⟩, hanswers⟩ := hworn
  have hc := Issue.commands_of_readsWorn hreads
  simp only [Issue.findsWorn, Bool.and_eq_true, Bool.not_eq_true', decide_eq_true_eq] at hfinds
  obtain ⟨⟨⟨⟨⟨⟨⟨hvis, hblock⟩, hmctx⟩, hcalm⟩, hdesc⟩, hclean⟩, hctx⟩, htid⟩ := hfinds
  simp only [Issue.answersWorn, Bool.and_eq_true, beq_iff_eq, List.all_eq_true] at hanswers
  obtain ⟨⟨⟨hinst, hmap⟩, hwear⟩, hcarry⟩ := hanswers
  have hmodel : x.phase.record.mctx ≠ 0xFFFF := by rw [hmctx]; decide
  have hbaddr : wornBlock / 2 ^ 384 % 2 ^ 32 = noBarrier := by rw [wornBlock, Nat.mul_div_cancel _ (Nat.two_pow_pos _)]; decide
  have hl : iqLayer wornBlock = 0 := by decide +kernel
  have hrsv : bitsOf wornBlock 383 272 = 0 := by decide +kernel
  -- what the model answers
  have hexec := execInstqQuery_of_commands hx hc hvis hblock hrsv hmodel (by rw [hmctx, hl]; exact hdesc)
  simp only [hl, hinst] at hexec
  rw [State.imageWear_byte hmap hwear] at hexec
  -- what the statement says of the answer
  obtain ⟨-, -, -, hkinds, -⟩ := h wornQuery wornState x 0x1000 wornBlock
  simp only [hvis] at hkinds
  obtain ⟨-, -, -, -, -, -, -, hlayer⟩ := hkinds hc hblock
  obtain ⟨-, hquery⟩ := hlayer hrsv hmodel
  rw [hmctx, hl] at hquery
  obtain ⟨hquery, -⟩ := hquery wornLayer hdesc hclean
  obtain ⟨t, ht, hmem⟩ := hquery hx
  have hinstalled : (((x.touchLayer 0).s.ctx x.ctx).installed) < 2 ^ 64 := by rw [← hctx, hinst]; decide
  obtain ⟨-, -, -, hpe, -⟩ := hmem hbaddr hcalm hinstalled
  have hcarries := hcarry _ (List.mem_range.mpr (initialWear_lt 0))
  exact Issue.not_peLimit_of_carries hcarries (hexec.symm.trans ht) (htid ▸ hpe)

end Sys2Proof.Machine
end
